-- ==== Sys2Proof/Word.lean ====
section
/-! DEFINITION. The word types of the package and their plainest arithmetic (R15, R16, R18). -/

namespace Sys2Proof

/-- One byte of memory. -/
abbrev Byte := BitVec 8

/-- A 64-bit register word, flag or hall time (R18, R211). -/
abbrev W64 := BitVec 64

/-- A 32-bit word. -/
abbrev W32 := BitVec 32

/-- A QVX vector register's 1,024 bits (R339). -/
abbrev VecWord := BitVec 1024

/-- A QVX predicate register's 128 bits (R339). -/
abbrev PredWord := BitVec 128

end Sys2Proof
end

