-- ==== Sys2Proof/Syntax.lean ====
section
/-! DEFINITION. The commands the block takes, one constructor for each row of the opcode table, with their operands. -/

namespace Sys2Proof

/-- Where an access to the package's registers comes from (R31, R215, R545): a host core of the 144, a request over PCI Express on X0
or X1, an engine on a die, or a fabric request naming its source location. -/
inductive Source where
  | core (g : Fin 144)
  | pcie (x : Fin 2)
  | engine (die : Fin 32)
  | fabric (loc : Fin 262144)
  deriving DecidableEq, Repr

/-- A package-network packet (R27, R28): source and destination die, an identity by which order can be told, its bytes. -/
structure NetPacket where
  src : Fin 32
  dst : Fin 32
  id : Nat
  bytes : List Byte
  deriving DecidableEq, Repr

/-- A parity error found on a link as a packet crosses it: direction and lane (R30, Table 14-1). -/
structure ParityHit where
  dir : Fin 4
  lane : Fin 528
  deriving DecidableEq, Repr

/-- A failed check of a unit: its unit code (R478), its error kind and the row concerned (Table 03-10). -/
structure CheckFail where
  unit : Nat
  kind : Nat
  row : Nat
  deriving DecidableEq, Repr

/-- A parity error in the dispatcher's two copies, met by the step (R479). -/
inductive CopyError where
  /-- one copy of a flag or sequence number fails -/
  | oneCopy
  /-- both copies of a flag or sequence number fail -/
  | bothCopies
  /-- a journal entry or running record fails -/
  | journal
  deriving DecidableEq, Repr

/-- Who sends a memory request (R306). -/
inductive MemAgent where
  | descriptor (q : Fin 64)
  | dispatcher (ctx : Fin 8)
  | core (g : Fin 144)
  | fabric (loc : Fin 262144)
  | outside (x : Fin 2)
  deriving DecidableEq, Repr

/-- A memory request of at most one line (R289, R291), with the bytes of its stripe that are found to fail parity as physical byte codes, and
whether a byte of it fails parity in its controller's request and data buffers (R292, Table 14-1). -/
structure MemReq where
  agent : MemAgent
  addr : Nat
  write : Option (List Byte)
  len : Nat
  badBytes : List Nat
  buffer : Bool
  deriving DecidableEq, Repr

/-- Operations of a host core (R330 to R338): `load` extends the sign and `loadu` does not; `fload` and `fstore` are the float registers'; `fetch` reads
an instruction; `evict` takes a line out of the caches; `insn` runs an instruction word of the base; `interrupt` takes a pending interrupt. -/
inductive HostOp where
  | load | loadu | store | fload | fstore | amoAdd | amoSwap | amoAnd | amoOr | amoXor | amoMin | amoMax | amoMinu | amoMaxu | lr | sc
  | cboClean | cboInval | cboFlush | cboZero | evict | fetch
  | insn (word : BitVec 32)
  | interrupt
  deriving DecidableEq, Repr

/-- A host core's access: operation, address, bytes, register data, the destination register, the data an I/O window returns, a host error met on the
way as a kind of Table 09-12 with its unit, and the address of the instruction. The address is virtual where the core translates. -/
structure HostAccess where
  op : HostOp
  va : Nat
  size : Nat
  data : Nat
  rd : Fin 32
  device : Nat
  error : Option (Nat × Nat)
  pc : Nat
  deriving DecidableEq, Repr

/-- A host error that a QVX instruction meets: a kind of Table 09-12, its unit, and the element whose access meets it. -/
structure ElemError where
  kind : Nat
  unit : Nat
  elem : Nat
  deriving DecidableEq, Repr

/-- The operand fields of a QVX instruction (Table 09-5); what F4 says beside the operation (Table 09-9) stands with the command. `res` says that the code
is one that the tables mark reserved; `pc` is the instruction's address. -/
structure QvxFields where
  e : Fin 4
  z : Bool
  pg : Fin 8
  vs2 : Fin 32
  vs1 : Fin 32
  vd : Fin 32
  res : Bool
  pc : Nat
  error : Option ElemError
  deriving DecidableEq, Repr

/-- A fabric packet as it arrives: header bytes, payload, check value (Table 10-6). -/
structure RawPacket where
  header : List Byte
  payload : List Byte
  check : Nat
  deriving DecidableEq, Repr

/-- What a port finds in a frame (R374). -/
inductive FrameOutcome where
  | clean | corrected | uncorrectable (lane : Fin 4)
  deriving DecidableEq, Repr

/-- A message of a tree broadcast as it reaches a member (R532 to R534): the block-digest table with the originator's bitmap; a block; a member attaching with its table's
CRC and the block it asks for; an acknowledgement of the blocks up to a number; the refusal of an attachment whose CRC differs. -/
inductive BcastMsg where
  | table (bitmap : Nat) (bytes : List Byte)
  | block (index : Nat) (data : List Byte)
  | attach (member crc next : Nat)
  | ack (member next : Nat)
  | mismatch
  deriving DecidableEq, Repr

/-- The end of a solve's return on an Anvil (R252, R283): a check that fails in it. -/
structure SolveReturn where
  anvil : Fin 4
  fail : Option CheckFail
  deriving DecidableEq, Repr

/-- What fails in a cold start (R629, R630): stacks that fail training three times, and boot attempts in a row, from the next-boot slot's first, that
find the two reads of the image different, or an image loaded into a die different from the verified copy. -/
structure BootFails where
  failed : List Nat
  misreads : Nat
  deriving DecidableEq, Repr

/-- What standby power finds (R487, R629): retirement records rebuilt from the units' own, as die and unit, where the stored ones are lost; boot
attempts in a row that misread the image. -/
structure PowerUp where
  rebuilt : Option (List (Nat × Nat))
  misreads : Nat
  deriving DecidableEq, Repr

/-- The commands of the opcode table; those without operands stand last, as compiled code numbers few constructors that carry any. -/
inductive Instr where
  /-- REGISTER_WRITE, R9. -/
  | registerWrite (src : Source) (off : Nat) (width : Nat) (value : Nat)
  /-- PACKAGE_NETWORK_PACKET, R28. -/
  | packageNetworkPacket (router : Fin 32) (pkt : NetPacket) (parity : Option ParityHit)
  /-- CREDIT_RETURN, R29. -/
  | creditReturn (at_ : Fin 32) (dir : Fin 4)
  /-- LINK_LANE_RETIREMENT, R485. -/
  | linkLaneRetirement (die : Fin 32) (lane : Nat)
  /-- TAIL_DOORBELL, R202. -/
  | tailDoorbell (src : Source) (q : Fin 64) (value : Nat)
  /-- HEAD_DOORBELL, R202. -/
  | headDoorbell (src : Source) (q : Fin 64) (value : Nat)
  /-- QHEAD_WRITE, R202. -/
  | qheadWrite (src : Source) (q : Fin 64) (value : Nat)
  /-- QUEUE_ENABLE, R203. -/
  | queueEnable (src : Source) (q : Fin 64)
  /-- QUEUE_DISABLE, R239. -/
  | queueDisable (src : Source) (q : Fin 64)
  /-- QUEUE_FLUSH, R239. -/
  | queueFlush (src : Source) (q : Fin 64)
  /-- QUEUE_RESUME, R239. -/
  | queueResume (src : Source) (q : Fin 64)
  /-- DESCRIPTOR_FETCH, R203. -/
  | descriptorFetch (q : Fin 64)
  /-- ARRAY_DESCRIPTOR, R107. -/
  | arrayDescriptor (q : Fin 64)
  /-- COAT_DESCRIPTOR, R193. -/
  | coatDescriptor (q : Fin 64)
  /-- CG, R262. -/
  | cg (q : Fin 64)
  /-- BICGSTAB, R262. -/
  | bicgstab (q : Fin 64)
  /-- GMRES, R262. -/
  | gmres (q : Fin 64)
  /-- MINRES, R262. -/
  | minres (q : Fin 64)
  /-- LP, R272. -/
  | lp (q : Fin 64)
  /-- QP, R272. -/
  | qp (q : Fin 64)
  /-- COPY, R383. -/
  | copy (q : Fin 64)
  /-- ATOMIC, R384. -/
  | atomic (q : Fin 64)
  /-- ALLREDUCE, R438. -/
  | allreduce (q : Fin 64)
  /-- REDUCE_SCATTER, R438. -/
  | reduceScatter (q : Fin 64)
  /-- ALLGATHER, R438. -/
  | allgather (q : Fin 64)
  /-- BROADCAST, R438. -/
  | broadcast (q : Fin 64)
  /-- ALLTOALL, R438. -/
  | alltoall (q : Fin 64)
  /-- BARRIER, R438. -/
  | barrier (q : Fin 64)
  /-- RING_PASS, R450. -/
  | ringPass (q : Fin 64)
  /-- SETUP, R427. -/
  | setup (q : Fin 64)
  /-- RELEASE, R428. -/
  | release (q : Fin 64)
  /-- TRIG_ARM, R424. -/
  | trigArm (q : Fin 64)
  /-- SAVE, R523. -/
  | save (q : Fin 64)
  /-- RESTORE, R528. -/
  | restore (q : Fin 64)
  /-- CONNECT, R512. -/
  | connect (q : Fin 64)
  /-- DISCONNECT, R512. -/
  | disconnect (q : Fin 64)
  /-- BCAST_SEND, R533. -/
  | bcastSend (q : Fin 64)
  /-- BCAST_RECV, R533. -/
  | bcastRecv (q : Fin 64)
  /-- COAT_LOAD, R189. -/
  | coatLoad (q : Fin 64)
  /-- GEMM_GROUPED, R229. -/
  | gemmGrouped (q : Fin 64)
  /-- GEMM_EPILOGUE, R229. -/
  | gemmEpilogue (q : Fin 64)
  /-- RMS_NORM, R229. -/
  | rmsNorm (q : Fin 64)
  /-- LAYER_NORM, R229. -/
  | layerNorm (q : Fin 64)
  /-- SOFTMAX_Q, R229. -/
  | softmaxQ (q : Fin 64)
  /-- TOP_K, R229. -/
  | topK (q : Fin 64)
  /-- GATHER, R229. -/
  | gather (q : Fin 64)
  /-- SCATTER_ADD, R229. -/
  | scatterAdd (q : Fin 64)
  /-- RING_ATTN, R229. -/
  | ringAttn (q : Fin 64)
  /-- HALO_PACK, R229. -/
  | haloPack (q : Fin 64)
  /-- HALO_UNPACK, R229. -/
  | haloUnpack (q : Fin 64)
  /-- ENQ_LIST, R230. -/
  | enqList (q : Fin 64)
  /-- ENQ_SELECT, R230. -/
  | enqSelect (q : Fin 64)
  /-- ENQ_REPEAT, R230. -/
  | enqRepeat (q : Fin 64)
  /-- DESCRIPTOR_COMPLETE, R213. -/
  | descriptorComplete (q : Fin 64) (copyError : Option CopyError)
  /-- FLAG_WRITE, R214. -/
  | flagWrite (src : Source) (ctx : Fin 8) (n : Fin 4096) (width : Nat) (value : Nat) (copyError : Option CopyError)
  /-- FLAG_ADD, R214. -/
  | flagAdd (src : Source) (ctx : Fin 8) (n : Fin 4096) (width : Nat) (value : Nat)
  /-- FLAG_CLR, R216. -/
  | flagClr (src : Source) (ctx : Fin 8)
  /-- DEADLINE_EXPIRY, R227. -/
  | deadlineExpiry (q : Fin 64)
  /-- WAIT_CYCLE_ABORT, R234. -/
  | waitCycleAbort (ctx : Fin 8)
  /-- STALL_NOTICE, R235. -/
  | stallNotice (ctx : Fin 8)
  /-- TILE_COMMIT, R117. -/
  | tileCommit (die : Fin 8) (tile : Nat) (fail : Option CheckFail)
  /-- KSPLIT_RECORD, R110. -/
  | ksplitRecord (die : Fin 8) (tile : Nat) (part : Nat) (fail : Option CheckFail)
  /-- SHADOW_PASS_END, R150. -/
  | shadowPassEnd (die : Fin 8) (tile : Nat) (fail : Option CheckFail)
  /-- COLUMN_RETIREMENT, R120. -/
  | columnRetirement (die : Fin 8)
  /-- ARR_CNT_CLR, R122. -/
  | arrCntClr (src : Source) (die : Fin 8)
  /-- ARR_QCNT_CLR, R157. -/
  | arrQcntClr (src : Source) (die : Fin 8)
  /-- ARR_QHIST_CLR, R158. -/
  | arrQhistClr (src : Source) (die : Fin 8) (mask : Fin 256)
  /-- COAT_TILE_START, R161. -/
  | coatTileStart (die : Fin 8) (tile : Nat)
  /-- COAT_TILE_COMMIT, R168. -/
  | coatTileCommit (die : Fin 8) (tile : Nat) (fail : Option CheckFail)
  /-- LANE_RETIREMENT, R196. -/
  | laneRetirement (die : Fin 8)
  /-- COAT_CNT_CLR, R197. -/
  | coatCntClr (src : Source) (die : Fin 8)
  /-- SETUP_PHASE_COMMIT, R252. -/
  | setupPhaseCommit (h : Fin 4) (fail : Option CheckFail)
  /-- ITERATION_COMMIT, R252. -/
  | iterationCommit (h : Fin 4) (fail : Option CheckFail)
  /-- ANVIL_DEADLINE_EXPIRY, R275. -/
  | anvilDeadlineExpiry (h : Fin 4)
  /-- SOLVE_RETURN_END, R281. -/
  | solveReturnEnd (ret : SolveReturn)
  /-- ANVIL_LANE_RETIREMENT, R285. -/
  | anvilLaneRetirement (h : Fin 4)
  /-- ANV_CNT_CLR, R286. -/
  | anvCntClr (src : Source) (h : Fin 4)
  /-- MEMORY_REQUEST, R291. -/
  | memoryRequest (req : MemReq)
  /-- STRIPE_UPDATE, R295. -/
  | stripeUpdate (stack : Fin 32) (badBytes : List Nat)
  /-- REGION_FILL_END, R300. -/
  | regionFillEnd (n : Fin 64)
  /-- BANDWIDTH_WINDOW, R307. -/
  | bandwidthWindow (stack : Fin 24)
  /-- QUOTA_BUDGET_EXPIRY, R310. -/
  | quotaBudgetExpiry (stack : Fin 24)
  /-- RETRAINING_DUE, R313. -/
  | retrainingDue (stack : Fin 24) (pc : Fin 64)
  /-- STACK_TEMPERATURE_READ, R288. -/
  | stackTemperatureRead (stack : Fin 24) (temp : Fin 256)
  /-- ISSUED_OPERATIONS_DRAINED, R315. -/
  | issuedOperationsDrained (stack : Fin 24)
  /-- RETRAINING_END, R315. -/
  | retrainingEnd (stack : Fin 24)
  /-- WRITE_BEHIND_DRAIN, R317. -/
  | writeBehindDrain (stack : Fin 24)
  /-- SCRUB, R325. -/
  | scrub (dev : Fin 32) (line : Nat) (badBytes : List Nat)
  /-- ECS_STATUS_READ, R288. -/
  | ecsStatusRead (stack : Fin 24) (status : Nat)
  /-- PER_BANK_REFRESH, R288. -/
  | perBankRefresh (stack : Fin 24) (pc : Fin 64)
  /-- MEM_CNT_CLR, R326. -/
  | memCntClr (src : Source) (stack : Fin 24)
  /-- HOST_MEMORY_ACCESS, R332. -/
  | hostMemoryAccess (core : Fin 144) (acc : HostAccess)
  /-- QVX_ADD, R344. -/
  | qvxAdd (core : Fin 144) (f : QvxFields)
  /-- QVX_SUB, R344. -/
  | qvxSub (core : Fin 144) (f : QvxFields)
  /-- QVX_MUL, R344. -/
  | qvxMul (core : Fin 144) (f : QvxFields)
  /-- QVX_ADDS, R346. -/
  | qvxAdds (core : Fin 144) (f : QvxFields)
  /-- QVX_SUBS, R346. -/
  | qvxSubs (core : Fin 144) (f : QvxFields)
  /-- QVX_MIN, R344. -/
  | qvxMin (core : Fin 144) (f : QvxFields)
  /-- QVX_MAX, R344. -/
  | qvxMax (core : Fin 144) (f : QvxFields)
  /-- QVX_CMPEQ, R344. -/
  | qvxCmpeq (core : Fin 144) (f : QvxFields)
  /-- QVX_CMPLT, R344. -/
  | qvxCmplt (core : Fin 144) (f : QvxFields)
  /-- QVX_AND, R344. -/
  | qvxAnd (core : Fin 144) (f : QvxFields)
  /-- QVX_OR, R344. -/
  | qvxOr (core : Fin 144) (f : QvxFields)
  /-- QVX_XOR, R344. -/
  | qvxXor (core : Fin 144) (f : QvxFields)
  /-- QVX_ANDN, R344. -/
  | qvxAndn (core : Fin 144) (f : QvxFields)
  /-- QVX_SLL, R344. -/
  | qvxSll (core : Fin 144) (f : QvxFields)
  /-- QVX_SRL, R344. -/
  | qvxSrl (core : Fin 144) (f : QvxFields)
  /-- QVX_SRA, R344. -/
  | qvxSra (core : Fin 144) (f : QvxFields)
  /-- QVX_FADD, R347. -/
  | qvxFadd (core : Fin 144) (f : QvxFields)
  /-- QVX_FSUB, R347. -/
  | qvxFsub (core : Fin 144) (f : QvxFields)
  /-- QVX_FMUL, R347. -/
  | qvxFmul (core : Fin 144) (f : QvxFields)
  /-- QVX_FMA, R347. -/
  | qvxFma (core : Fin 144) (f : QvxFields)
  /-- QVX_FNMA, R347. -/
  | qvxFnma (core : Fin 144) (f : QvxFields)
  /-- QVX_FMAX, R344. -/
  | qvxFmax (core : Fin 144) (f : QvxFields)
  /-- QVX_FMIN, R344. -/
  | qvxFmin (core : Fin 144) (f : QvxFields)
  /-- QVX_FCMPLT, R344. -/
  | qvxFcmplt (core : Fin 144) (f : QvxFields)
  /-- QVX_FCMPLE, R344. -/
  | qvxFcmple (core : Fin 144) (f : QvxFields)
  /-- QVX_FCMPEQ, R344. -/
  | qvxFcmpeq (core : Fin 144) (f : QvxFields)
  /-- QVX_FCMPUN, R344. -/
  | qvxFcmpun (core : Fin 144) (f : QvxFields)
  /-- QVX_FCVT_IF, R344. -/
  | qvxFcvtIf (core : Fin 144) (f : QvxFields)
  /-- QVX_FCVT_FI, R348. -/
  | qvxFcvtFi (core : Fin 144) (f : QvxFields)
  /-- QVX_FWIDEN, R344. -/
  | qvxFwiden (core : Fin 144) (f : QvxFields)
  /-- QVX_FNARROW, R344. -/
  | qvxFnarrow (core : Fin 144) (f : QvxFields)
  /-- QVX_LD, R353. -/
  | qvxLd (core : Fin 144) (f : QvxFields)
  /-- QVX_LDFF, R354. -/
  | qvxLdff (core : Fin 144) (f : QvxFields)
  /-- QVX_ST, R353. -/
  | qvxSt (core : Fin 144) (f : QvxFields)
  /-- QVX_PLD, R344. -/
  | qvxPld (core : Fin 144) (f : QvxFields)
  /-- QVX_PST, R344. -/
  | qvxPst (core : Fin 144) (f : QvxFields)
  /-- QVX_BCAST_X, R344. -/
  | qvxBcastX (core : Fin 144) (f : QvxFields)
  /-- QVX_BCAST_F, R348. -/
  | qvxBcastF (core : Fin 144) (f : QvxFields)
  /-- QVX_MV_X, R344. -/
  | qvxMvX (core : Fin 144) (f : QvxFields)
  /-- QVX_PWHILE, R352. -/
  | qvxPwhile (core : Fin 144) (f : QvxFields)
  /-- QVX_PLOG, R352. -/
  | qvxPlog (core : Fin 144) (f : QvxFields)
  /-- QVX_PCNT, R352. -/
  | qvxPcnt (core : Fin 144) (f : QvxFields)
  /-- QVX_RDSAT, R342. -/
  | qvxRdsat (core : Fin 144) (f : QvxFields)
  /-- QVX_WRSAT, R342. -/
  | qvxWrsat (core : Fin 144) (f : QvxFields)
  /-- QVX_REDSUM_I, R344. -/
  | qvxRedsumI (core : Fin 144) (f : QvxFields)
  /-- QVX_REDSUM_F, R351. -/
  | qvxRedsumF (core : Fin 144) (f : QvxFields)
  /-- QVX_WMUL, R349. -/
  | qvxWmul (core : Fin 144) (h : Bool) (u : Bool) (f : QvxFields)
  /-- QVX_WMACC, R349. -/
  | qvxWmacc (core : Fin 144) (h : Bool) (u : Bool) (f : QvxFields)
  /-- QVX_DOT, R350. -/
  | qvxDot (core : Fin 144) (ss : Fin 4) (f : QvxFields)
  /-- QVX_DOT2U, R350. -/
  | qvxDot2u (core : Fin 144) (ss : Fin 4) (f : QvxFields)
  /-- READ_REQUEST, R392. -/
  | readRequest (port : Fin 36) (pkt : RawPacket)
  /-- WRITE_REQUEST, R400. -/
  | writeRequest (port : Fin 36) (pkt : RawPacket)
  /-- ATOMIC_REQUEST, R401. -/
  | atomicRequest (port : Fin 36) (pkt : RawPacket)
  /-- COMBINED_ATOMIC, R408. -/
  | combinedAtomic (port : Fin 36) (pkt : RawPacket)
  /-- REPLY, R386. -/
  | reply (port : Fin 36) (pkt : RawPacket)
  /-- NACK, R404. -/
  | nack (port : Fin 36) (pkt : RawPacket)
  /-- SYNC, R397. -/
  | sync (port : Fin 36) (pkt : RawPacket)
  /-- FABRIC_RETRANSMIT, R399. -/
  | fabricRetransmit (engine : Fin 32) (seq : Nat)
  /-- REQUEST_GIVE_UP, R402. -/
  | requestGiveUp (engine : Fin 32) (seq : Nat)
  /-- FULL_REISSUE, R405. -/
  | fullReissue (engine : Fin 32) (seq : Nat)
  /-- HOT_LINE_NOTICE, R406. -/
  | hotLineNotice (port : Fin 36) (line : Nat) (home : Nat)
  /-- HOT_LINE_END, R406. -/
  | hotLineEnd (line : Nat) (home : Nat)
  /-- COMBINE_HOLD_EXPIRY, R407. -/
  | combineHoldExpiry (die : Fin 8) (line : Nat)
  /-- FLOW_RECORD_EXPIRY, R400. -/
  | flowRecordExpiry (die : Fin 8) (idx : Nat)
  /-- ATOMIC_ENTRY_EXPIRY, R401. -/
  | atomicEntryExpiry (die : Fin 8) (idx : Nat)
  /-- FRAME_RECEIVE, R374. -/
  | frameReceive (port : Fin 36) (outcome : FrameOutcome)
  /-- PORT_DOWN, R412. -/
  | portDown (port : Fin 36)
  /-- PORT_TRAINING_END, R459. -/
  | portTrainingEnd (port : Fin 36) (lanes : Fin 5) (peerLoc : Nat) (peerPort : Nat) (delay : Nat)
  /-- PORT_DELAY_MEASURE, R459. -/
  | portDelayMeasure (port : Fin 36) (delay : Nat)
  /-- FAB_PC_RESTORE, R411. -/
  | fabPcRestore (src : Source) (port : Fin 36)
  /-- FAB_CNT_CLR, R413. -/
  | fabCntClr (src : Source) (die : Fin 8)
  /-- REMOTE_INCREMENT, R416. -/
  | remoteIncrement (port : Fin 36) (pkt : RawPacket)
  /-- COL_TCNT_WRITE, R416. -/
  | colTcntWrite (src : Source) (engine : Fin 32) (c : Fin 16384) (width : Nat) (value : Nat)
  /-- FIRE_COMPLETE, R421. -/
  | fireComplete (engine : Fin 32) (entry : Fin 16384)
  /-- CONTRIB, R442. -/
  | contrib (port : Fin 36) (pkt : RawPacket)
  /-- RESULT, R439. -/
  | result (port : Fin 36) (pkt : RawPacket)
  /-- ABORT, R445. -/
  | abort (port : Fin 36) (pkt : RawPacket)
  /-- CREDIT, R450. -/
  | credit (port : Fin 36) (pkt : RawPacket)
  /-- FALLBACK, R442. -/
  | fallback (port : Fin 36) (pkt : RawPacket)
  /-- SETUP_PACKET, R427. -/
  | setupPacket (port : Fin 36) (pkt : RawPacket)
  /-- COLLECTIVE_TIMEOUT, R446. -/
  | collectiveTimeout (q : Fin 64)
  /-- GATE_RELEASE, R433. -/
  | gateRelease (q : Fin 64)
  /-- BUSY_WINDOW, R447. -/
  | busyWindow (port : Fin 36) (busy : Nat)
  /-- COL_CNT_CLR, R452. -/
  | colCntClr (src : Source) (die : Fin 8)
  /-- BEACON_RECEIVE, R459. -/
  | beaconReceive (port : Fin 36) (value : Nat)
  /-- PPS_EDGE, R457. -/
  | ppsEdge (offset : Int)
  /-- TIMED_RELEASE, R464. -/
  | timedRelease (ctx : Fin 8)
  /-- TIMED_RELEASE_ARM, R464. -/
  | timedReleaseArm (src : Source) (ctx : Fin 8)
  /-- PAIR_DIGEST, R475. -/
  | pairDigest (q : Fin 64) (seq : Nat) (digest : Nat) (tileDigests : List Nat)
  /-- PAIR_TIMEOUT, R476. -/
  | pairTimeout (q : Fin 64)
  /-- TARGETED_SELF_TEST_START, R480. -/
  | targetedSelfTestStart (die : Fin 32) (unit : Nat)
  /-- SELF_TEST_END, R482. -/
  | selfTestEnd (die : Fin 32) (unit : Nat) (pass : Bool)
  /-- MARCH_TEST_START, R483. -/
  | marchTestStart (die : Fin 32) (unit : Nat)
  /-- MARCH_TEST_END, R483. -/
  | marchTestEnd (die : Fin 32) (unit : Nat) (pass : Bool)
  /-- SPARE_DISPATCHER_SWITCH, R485. -/
  | spareDispatcherSwitch (die : Fin 8)
  /-- DESCRIPTOR_REPLAY, R495. -/
  | descriptorReplay (q : Fin 64)
  /-- RAS_CNT_CLR, R509. -/
  | rasCntClr (src : Source)
  /-- MASK_APPLY, R517. -/
  | maskApply (q : Fin 64)
  /-- DEMAND_COPY_END, R519. -/
  | demandCopyEnd (page : Nat)
  /-- STORAGE_COMMAND_COMPLETE, R525. -/
  | storageCommandComplete (x : Fin 2) (cmd : Nat) (status : Nat) (data : List Byte) (parity : Bool)
  /-- STORAGE_COMMAND_TIMEOUT, R525. -/
  | storageCommandTimeout (x : Fin 2) (cmd : Nat)
  /-- CONNECTION_LOST, R512. -/
  | connectionLost (conn : Fin 64)
  /-- BCAST_BLOCK, R533. -/
  | bcastBlock (q : Fin 64) (msg : BcastMsg)
  /-- BCAST_REATTACH, R534. -/
  | bcastReattach (q : Fin 64)
  /-- BCAST_CHILD_DROP, R534. -/
  | bcastChildDrop (q : Fin 64) (child : Nat)
  /-- BCAST_MEMBER_WAIT_EXPIRY, R536. -/
  | bcastMemberWaitExpiry (q : Fin 64)
  /-- CKP_CNT_CLR, R539. -/
  | ckpCntClr (src : Source) (x : Fin 2)
  /-- IDENTIFY, R552. -/
  | identify (m : Fin 16)
  /-- FEATURES, R552. -/
  | features (m : Fin 16)
  /-- STAGE_SET, R560. -/
  | stageSet (m : Fin 16)
  /-- STAGE_CHECK, R561. -/
  | stageCheck (m : Fin 16)
  /-- COMMIT, R564. -/
  | commit (m : Fin 16)
  /-- STAGE_DISCARD, R567. -/
  | stageDiscard (m : Fin 16)
  /-- PROTECT_PROPOSE, R606. -/
  | protectPropose (m : Fin 16)
  /-- PROTECT_ENDORSE, R607. -/
  | protectEndorse (m : Fin 16)
  /-- PROTECT_WITHDRAW, R608. -/
  | protectWithdraw (m : Fin 16)
  /-- POWER_CAP, R592. -/
  | powerCap (m : Fin 16)
  /-- POWER_STATUS, R552. -/
  | powerStatus (m : Fin 16)
  /-- LOG_READ, R572. -/
  | logRead (m : Fin 16)
  /-- LOG_MARK, R552. -/
  | logMark (m : Fin 16)
  /-- FW_STAGE, R573. -/
  | fwStage (m : Fin 16)
  /-- FW_VERIFY, R574. -/
  | fwVerify (m : Fin 16)
  /-- FW_ACTIVATE, R575. -/
  | fwActivate (m : Fin 16)
  /-- SELFTEST, R553. -/
  | selftest (m : Fin 16)
  /-- SPARE_STATUS, R552. -/
  | spareStatus (m : Fin 16)
  /-- CAL_POLICY, R555. -/
  | calPolicy (m : Fin 16)
  /-- CAL_STATUS, R552. -/
  | calStatus (m : Fin 16)
  /-- TIME_STATUS, R552. -/
  | timeStatus (m : Fin 16)
  /-- TIME_SET_MASTER, R556. -/
  | timeSetMaster (m : Fin 16)
  /-- PAIR_SET, R557. -/
  | pairSet (m : Fin 16)
  /-- ATTEST, R612. -/
  | attest (m : Fin 16)
  /-- LONG_COMMAND_END, R548. -/
  | longCommandEnd (m : Fin 16) (partnered : Bool)
  /-- OOB_DUPLICATE_DATAGRAM, R549. -/
  | oobDuplicateDatagram (m : Fin 16) (tag : Nat) (area : List Byte)
  /-- STAGING_WRITE, R559. -/
  | stagingWrite (src : Source) (off : Nat) (width : Nat) (value : Nat)
  /-- ISLAND_ACKNOWLEDGE, R564. -/
  | islandAcknowledge (island : Fin 18)
  /-- SHADOW_REWRITE, R568. -/
  | shadowRewrite (off : Nat)
  /-- PROPOSAL_EXPIRY, R606. -/
  | proposalExpiry (m : Fin 16)
  /-- LOG_DRAIN, R571. -/
  | logDrain (n : Nat)
  /-- SENSOR_SAMPLE, R541. -/
  | sensorSample (temps : List (Nat × Int)) (volts : List (Nat × Nat)) (currents : List (Nat × Nat)) (vinMv : Nat)
  /-- MGT_CNT_CLR, R578. -/
  | mgtCntClr (src : Source)
  /-- SUPPLY_WARNING, R583. -/
  | supplyWarning (mv : Nat)
  /-- SUPPLY_RECOVERY, R584. -/
  | supplyRecovery (mv : Nat)
  /-- COLD_STOP, R586. -/
  | coldStop (supply : Fin 3) (mv : Nat)
  /-- PHASE_CHECK, R581. -/
  | phaseCheck (failing : List Nat)
  /-- THROTTLE_UPDATE, R590. -/
  | throttleUpdate (temps : List (Nat × Int)) (avgPowerW : Nat)
  /-- THERMAL_TRIP, R594. -/
  | thermalTrip (die : Fin 32) (temp : Nat)
  /-- PWR_CNT_CLR, R596. -/
  | pwrCntClr (src : Source)
  /-- PORST_N_RELEASE, R628. -/
  | porstNRelease (straps : Fin 256) (boot : BootFails)
  /-- WARM_N, R632. -/
  | warmN (heldUs : Nat)
  /-- STANDBY_POWER_GOOD, R540. -/
  | standbyPowerGood (power : PowerUp)
  /-- VIOLATION_WINDOW, R411. -/
  | violationWindow (port : Fin 36)
  /-- FENCE, R393. -/
  | fence (core : Fin 144) (predIO : Bool)
  /-- BEAT, R461. -/
  | beat
  /-- BEACON_SEND, R458. -/
  | beaconSend
  /-- HOLDOVER_ENTRY, R460. -/
  | holdoverEntry
  /-- COMMIT_ACK_TIMEOUT, R564. -/
  | commitAckTimeout
  /-- COMMIT_APPLY, R565. -/
  | commitApply
  /-- HOLD_LAPSE, R558. -/
  | holdLapse
  /-- LOCKSTEP_MISMATCH, R543. -/
  | lockstepMismatch
  /-- COMPLEX_RESTART_END, R576. -/
  | complexRestartEnd
  /-- BOOT_ATTEMPT_TIMEOUT, R577. -/
  | bootAttemptTimeout
  /-- RECOVERY_TIMER, R584. -/
  | recoveryTimer
  /-- CLOCK_STEP, R584. -/
  | clockStep
  /-- CAP_EFFECT, R592. -/
  | capEffect
  /-- PORST_N_ASSERT, R631. -/
  | porstNAssert
  /-- REFCLK_LOSS, R625. -/
  | refclkLoss
  deriving DecidableEq, Repr

end Sys2Proof
end

