-- ==== Sys2Proof/Decode.lean ====
section
/-! DEFINITION. The commands that words spell: a QVX instruction's word (spec 09_host_cores_and_qvx.md, R343, R344, Tables 09-5 to 09-9). The opcode
table gives its rows no bits; these are the spec's own. -/

namespace Sys2Proof

/-- Bits [hi:lo] of a word. -/
def wordBits (w : BitVec 32) (hi lo : Nat) : Nat := w.toNat / 2 ^ lo % 2 ^ (hi + 1 - lo)

/-- The operand fields of a QVX word (Table 09-5). -/
def qvxFields (w : BitVec 32) (pc : Nat) (error : Option ElemError) : QvxFields :=
  ⟨Fin.ofNat 4 (wordBits w 27 26), w.getLsbD 25, Fin.ofNat 8 (wordBits w 24 22), Fin.ofNat 32 (wordBits w 21 17), Fin.ofNat 32 (wordBits w 16 12),
    Fin.ofNat 32 (wordBits w 11 7), false, pc, error⟩

/-- The QVX instruction that a core's word spells; none where the opcode is not one of QVX's four. A code that Tables 09-7 and 09-8 mark reserved names no
operation: it is given to the opcode's first, marked reserved, which raises the exception of R344. -/
def decodeQvx (core : Fin 144) (pc : Nat) (error : Option ElemError) (w : BitVec 32) : Option Instr :=
  let f := qvxFields w pc error
  let f4 := wordBits w 31 28
  let h := w.getLsbD 29
  let u := w.getLsbD 28
  let ss := Fin.ofNat 4 (wordBits w 29 28)
  match wordBits w 6 0, f4 with
  | 0x0b, 0x0 => some (.qvxAdd core f)
  | 0x0b, 0x1 => some (.qvxSub core f)
  | 0x0b, 0x2 => some (.qvxMul core f)
  | 0x0b, 0x3 => some (.qvxAdds core f)
  | 0x0b, 0x4 => some (.qvxSubs core f)
  | 0x0b, 0x5 => some (.qvxMin core f)
  | 0x0b, 0x6 => some (.qvxMax core f)
  | 0x0b, 0x7 => some (.qvxCmpeq core f)
  | 0x0b, 0x8 => some (.qvxCmplt core f)
  | 0x0b, 0x9 => some (.qvxAnd core f)
  | 0x0b, 0xa => some (.qvxOr core f)
  | 0x0b, 0xb => some (.qvxXor core f)
  | 0x0b, 0xc => some (.qvxAndn core f)
  | 0x0b, 0xd => some (.qvxSll core f)
  | 0x0b, 0xe => some (.qvxSrl core f)
  | 0x0b, 0xf => some (.qvxSra core f)
  | 0x2b, 0x0 => some (.qvxFadd core f)
  | 0x2b, 0x1 => some (.qvxFsub core f)
  | 0x2b, 0x2 => some (.qvxFmul core f)
  | 0x2b, 0x3 => some (.qvxFma core f)
  | 0x2b, 0x4 => some (.qvxFnma core f)
  | 0x2b, 0x5 => some (.qvxFmax core f)
  | 0x2b, 0x6 => some (.qvxFmin core f)
  | 0x2b, 0x7 => some (.qvxFcmplt core f)
  | 0x2b, 0x8 => some (.qvxFcmple core f)
  | 0x2b, 0x9 => some (.qvxFcmpeq core f)
  | 0x2b, 0xa => some (.qvxFcmpun core f)
  | 0x2b, 0xb => some (.qvxFcvtIf core f)
  | 0x2b, 0xc => some (.qvxFcvtFi core f)
  | 0x2b, 0xd => some (.qvxFwiden core f)
  | 0x2b, 0xe => some (.qvxFnarrow core f)
  | 0x2b, _ => some (.qvxFadd core { f with res := true })
  | 0x5b, 0x0 => some (.qvxLd core f)
  | 0x5b, 0x1 => some (.qvxLdff core f)
  | 0x5b, 0x2 => some (.qvxSt core f)
  | 0x5b, 0x3 => some (.qvxPld core f)
  | 0x5b, 0x4 => some (.qvxPst core f)
  | 0x5b, 0x5 => some (.qvxBcastX core f)
  | 0x5b, 0x6 => some (.qvxBcastF core f)
  | 0x5b, 0x7 => some (.qvxMvX core f)
  | 0x5b, 0x8 => some (.qvxPwhile core f)
  | 0x5b, 0x9 => some (.qvxPlog core f)
  | 0x5b, 0xa => some (.qvxPcnt core f)
  | 0x5b, 0xb => some (.qvxRdsat core f)
  | 0x5b, 0xc => some (.qvxWrsat core f)
  | 0x5b, 0xd => some (.qvxRedsumI core f)
  | 0x5b, 0xe => some (.qvxRedsumF core f)
  | 0x5b, _ => some (.qvxLd core { f with res := true })
  | 0x7b, _ =>
    match wordBits w 31 30 with
    | 0 => some (.qvxWmul core h u f)
    | 1 => some (.qvxWmacc core h u f)
    | 2 => some (.qvxDot core ss f)
    | _ => some (.qvxDot2u core ss f)
  | _, _ => none

/-- The command a word of 32 bits spells: a QVX instruction of core 0. No row of the table has bits of its own. -/
def decodeTableWord (nbits w : Nat) : Option Instr := if nbits = 32 then decodeQvx 0 0 none (BitVec.ofNat 32 w) else none

end Sys2Proof
end

