-- ==== Sys2Proof/Machine/Bits.lean ====
section
/-! DEFINITION. Bit fields of words and numbers (R15), little-endian bytes (R16), sparse tables in canonical form, and small list
operations every family uses. -/

namespace Sys2Proof.Machine

/-- A bit range [hi:lo], both ends included (R15). -/
structure Field where
  hi : Nat
  lo : Nat
  deriving DecidableEq, Repr

/-- Bits [hi:lo] of a number. -/
def bitsOf (n hi lo : Nat) : Nat := (n >>> lo) % 2 ^ (hi + 1 - lo)

/-- Bit `i` of a number, as 0 or 1. -/
def bit (n i : Nat) : Nat := (n >>> i) % 2

/-- Bit `i` of a number. -/
def bitSet (n i : Nat) : Bool := n.testBit i

/-- A field of a 64-bit word, as a number. -/
def getField (w : W64) (f : Field) : Nat := bitsOf w.toNat f.hi f.lo

/-- The word with ones in bits [hi:lo]. -/
def fieldMask (hi lo : Nat) : W64 := BitVec.ofNat 64 ((2 ^ (hi + 1 - lo) - 1) <<< lo)

/-- A 64-bit word with one field replaced. -/
def setField (w : W64) (f : Field) (v : Nat) : W64 :=
  (w &&& ~~~(fieldMask f.hi f.lo)) ||| BitVec.ofNat 64 ((v % 2 ^ (f.hi + 1 - f.lo)) <<< f.lo)

/-- Little-endian bytes of a number (R16). -/
def leBytes : Nat → Nat → List Byte
  | 0, _ => []
  | k + 1, n => BitVec.ofNat 8 (n % 256) :: leBytes k (n / 256)

/-- The number that little-endian bytes spell (R16). -/
def leNat : List Byte → Nat
  | [] => 0
  | b :: bs => b.toNat + 256 * leNat bs

/-- Byte `i` of a list of bytes; zero past its end. -/
def byteAt (bs : List Byte) (i : Nat) : Byte := bs.getD i 0

/-- The little-endian number in `len` bytes from byte `off` (R16). -/
def leAt (bs : List Byte) (off len : Nat) : Nat := leNat ((bs.drop off).take len)

/-- A list of bytes cut or filled with zeros to `n` bytes. -/
def padTo (n : Nat) (bs : List Byte) : List Byte := (bs ++ List.replicate (n - bs.length) 0).take n

/-- Replace element `i` of a list. -/
def putAt {α : Type} : List α → Nat → α → List α
  | [], _, _ => []
  | _ :: xs, 0, v => v :: xs
  | x :: xs, i + 1, v => x :: putAt xs i v

/-- The two's complement reading of the low `w` bits of a number. -/
def toSigned (w n : Nat) : Int :=
  if n % 2 ^ w < 2 ^ (w - 1) then (n % 2 ^ w : Nat) else ((n % 2 ^ w : Nat) : Int) - (2 ^ w : Nat)

/-- The low `w` bits of an integer, two's complement. -/
def ofSigned (w : Nat) (z : Int) : Nat := (z % (2 ^ w : Nat)).toNat

/-- Smallest multiple count: the quotient rounded up. -/
def ceilDiv (a b : Nat) : Nat := if b = 0 then 0 else (a + b - 1) / b

/-- The integer part of the base-2 logarithm; 0 for 0. -/
def log2 (n : Nat) : Nat := Nat.log2 n

/-- `n` is one of a power of two's values. -/
def isPow2 (n : Nat) : Bool := n != 0 && 2 ^ Nat.log2 n == n

/-- Read an entry of a sparse table; `d` says what an unlisted key reads as. -/
def sparseGet {α : Type} (d : Nat → α) : List (Nat × α) → Nat → α
  | [], k => d k
  | e :: t, k => if e.1 = k then e.2 else sparseGet d t k

/-- Write an entry of a sparse table, keeping it sorted and free of entries equal to what an unlisted key reads as. -/
def sparseSet {α : Type} [DecidableEq α] (d : Nat → α) : List (Nat × α) → Nat → α → List (Nat × α)
  | [], k, v => if v = d k then [] else [(k, v)]
  | e :: t, k, v =>
    if e.1 < k then e :: sparseSet d t k v
    else
      let rest := (e :: t).filter (fun x => x.1 ≠ k)
      if v = d k then rest else (k, v) :: rest

/-- The canonical form of a sparse table: keys strictly rising, no entry equal to what an unlisted key reads as. -/
abbrev SparseWf {α : Type} (d : Nat → α) (m : List (Nat × α)) : Prop :=
  m.Pairwise (fun a b => a.1 < b.1) ∧ ∀ e ∈ m, e.2 ≠ d e.1

/-- The first entry of an association list with a key. -/
def assoc? {κ α : Type} [DecidableEq κ] (m : List (κ × α)) (k : κ) : Option α := (m.find? (fun e => e.1 = k)).map (·.2)

/-- Replace or append the entry with a key. -/
def assocPut {κ α : Type} [DecidableEq κ] : List (κ × α) → κ → α → List (κ × α)
  | [], k, v => [(k, v)]
  | e :: t, k, v => if e.1 = k then (k, v) :: t else e :: assocPut t k v

/-- Drop every entry with a key. -/
def assocDrop {κ α : Type} [DecidableEq κ] (m : List (κ × α)) (k : κ) : List (κ × α) := m.filter (fun e => e.1 ≠ k)

/-- Insert into a list that a comparison keeps sorted, after its equals. -/
def insertBy {α : Type} (le : α → α → Bool) (x : α) : List α → List α
  | [] => [x]
  | y :: ys => if le y x then y :: insertBy le x ys else x :: y :: ys

/-- A stable insertion sort. -/
def sortBy {α : Type} (le : α → α → Bool) (xs : List α) : List α := xs.foldl (fun acc x => insertBy le x acc) []

/-- Fold over 0, 1, …, n−1. -/
def countFold {β : Type} (n : Nat) (f : Nat → β → β) (b : β) : β := (List.range n).foldl (fun b i => f i b) b

/-- The numbers from 0 to n−1 that a test admits. -/
def rangeFilter (n : Nat) (f : Nat → Bool) : List Nat := (List.range n).filter f

end Sys2Proof.Machine
end

