-- ==== Sys2Proof/Machine/Numeric.lean ====
section
/-! DEFINITION. Number formats, rounding and conversion (spec 02_number_formats.md, R47 to R77), and the exact arithmetic that every
engine rounds once from. Values are exact: a sign, a numerator and a denominator. -/

namespace Sys2Proof.Machine

/-- A value as an engine sees it before rounding: an exact rational with its sign kept on zero (R74), an infinity, or a NaN (R54). -/
inductive Num where
  | fin (neg : Bool) (num den : Nat)
  | inf (neg : Bool)
  | nan (signalling : Bool)
  deriving DecidableEq, Repr, Inhabited

/-- The formats of Table 02-1. -/
inductive Fmt where
  | f64 | f32 | f16 | bf16 | e5m2 | e4m3 | q4 | t2 | int4 | int8 | int16 | int32 | int64 | bfx64
  deriving DecidableEq, Repr

/-- Format codes of Table 02-1; a reserved code names no format (R48). -/
def Fmt.ofCode : Nat → Option Fmt
  | 0 => some .f64 | 1 => some .f32 | 2 => some .f16 | 3 => some .bf16 | 4 => some .e5m2 | 5 => some .e4m3 | 6 => some .q4
  | 7 => some .t2 | 8 => some .int4 | 9 => some .int8 | 10 => some .int16 | 11 => some .int32 | 12 => some .int64
  | 13 => some .bfx64 | _ => none

/-- Bits per element (Table 02-1). -/
def Fmt.bits : Fmt → Nat
  | .f64 | .int64 | .bfx64 => 64
  | .f32 | .int32 => 32
  | .f16 | .bf16 | .int16 => 16
  | .e5m2 | .e4m3 | .int8 => 8
  | .q4 | .int4 => 4
  | .t2 => 2

/-- Integer formats, BFX64's significands among them (R64, R65). -/
def Fmt.isInt : Fmt → Bool
  | .int4 | .int8 | .int16 | .int32 | .int64 | .bfx64 => true
  | _ => false

/-- Elements of a block scale (R58); 0 where the format takes none. -/
def Fmt.blockLen : Fmt → Nat
  | .q4 | .int4 | .int8 => 32
  | .t2 => 64
  | _ => 0

/-- Sticky flag bits of Table 02-9. -/
abbrev flagNV : Nat := 1
abbrev flagOF : Nat := 2
abbrev flagUF : Nat := 4
abbrev flagNX : Nat := 8
abbrev flagSA : Nat := 16

/-- Rounding modes: the three of R68, and the three more of the host cores' `frm`. -/
inductive RMode where
  | nearestEven | towardZero | stochastic | down | up | nearestMax
  deriving DecidableEq, Repr

/-- Rounding codes of a tensor descriptor (R68); 0b11 is reserved. -/
def RMode.ofCode : Nat → Option RMode
  | 0 => some .nearestEven | 1 => some .towardZero | 2 => some .stochastic | _ => none

/-- The layout of a floating format whose codes rise with the magnitude: precision with the hidden bit, smallest normal exponent,
code of the largest finite magnitude, code of infinity where there is one (Table 02-7). -/
structure FloatLayout where
  bits : Nat
  prec : Nat
  emin : Int
  maxCode : Nat
  infCode : Option Nat
  nanCode : Nat
  deriving DecidableEq, Repr

/-- Table 02-7. T2 is laid out as magnitudes 0 and 1 on a grid of 1. -/
def Fmt.layout : Fmt → FloatLayout
  | .f64 => ⟨64, 53, -1022, 0x7fefffffffffffff, some 0x7ff0000000000000, 0x7ff8000000000000⟩
  | .f32 => ⟨32, 24, -126, 0x7f7fffff, some 0x7f800000, 0x7fc00000⟩
  | .f16 => ⟨16, 11, -14, 0x7bff, some 0x7c00, 0x7e00⟩
  | .bf16 => ⟨16, 8, -126, 0x7f7f, some 0x7f80, 0x7fc0⟩
  | .e5m2 => ⟨8, 3, -14, 0x7c, none, 0x7e⟩
  | .e4m3 => ⟨8, 4, -6, 0x7e, none, 0x7f⟩
  | .q4 => ⟨4, 2, 0, 7, none, 8⟩
  | _ => ⟨2, 1, 0, 1, none, 2⟩

/-- A power of two as a numerator and a denominator. -/
def pow2Frac (e : Int) : Nat × Nat := if 0 ≤ e then (2 ^ e.toNat, 1) else (1, 2 ^ (-e).toNat)

/-- A value times 2^e, exactly. -/
def Num.scale2 (x : Num) (e : Int) : Num :=
  match x with
  | .fin s n d => let p := pow2Frac e; .fin s (n * p.1) (d * p.2)
  | y => y

/-- The exact value zero. -/
def Num.zero : Num := .fin false 0 1

/-- An integer as a value. -/
def Num.ofInt (z : Int) : Num := .fin (z < 0) z.natAbs 1

/-- The value's sign. -/
def Num.neg : Num → Bool
  | .fin s _ _ => s
  | .inf s => s
  | .nan _ => false

/-- The negated value. -/
def Num.negate : Num → Num
  | .fin s n d => .fin (!s) n d
  | .inf s => .inf (!s)
  | .nan q => .nan q

/-- A finite zero. -/
def Num.isZero : Num → Bool
  | .fin _ n _ => n == 0
  | _ => false

/-- A NaN. -/
def Num.isNan : Num → Bool
  | .nan _ => true
  | _ => false

/-- A signalling NaN (R54). -/
def Num.isSnan : Num → Bool
  | .nan s => s
  | _ => false

/-- An infinity. -/
def Num.isInf : Num → Bool
  | .inf _ => true
  | _ => false

/-- A finite value. -/
def Num.isFin : Num → Bool
  | .fin _ _ _ => true
  | _ => false

/-- A finite value as a signed fraction; zero for the others. -/
def Num.signed : Num → Int × Nat
  | .fin s n d => (if s then -(n : Int) else n, d)
  | _ => (0, 1)

/-- A signed fraction as a value; an exact zero is positive. -/
def Num.ofFrac (z : Int) (d : Nat) : Num := .fin (z < 0) z.natAbs d

/-- Exponent of a non-zero magnitude n/d: the e with 2^e ≤ n/d < 2^(e+1). -/
def expOf (n d : Nat) : Int :=
  let e : Int := (Nat.log2 n : Int) - (Nat.log2 d : Int)
  let p := pow2Frac e
  if d * p.1 ≤ n * p.2 then e else e - 1

/-- The exponent of a finite non-zero value (R93). -/
def Num.exp? : Num → Option Int
  | .fin _ n d => if n = 0 then none else some (expOf n d)
  | _ => none

/-- Compare two magnitudes. -/
def magLe (a b : Nat × Nat) : Bool := a.1 * b.2 ≤ b.1 * a.2

/-- The magnitude of a value as a fraction. -/
def Num.mag : Num → Nat × Nat
  | .fin _ n d => (n, d)
  | _ => (0, 1)

/-- Round the non-negative quotient n/d to an integer under a mode, for a source of sign `neg`; `u` is the 24-bit stream value of R71
(R69, R70). -/
def roundQuot (m : RMode) (neg : Bool) (u n d : Nat) : Nat :=
  let q := n / d
  let r := n % d
  let up : Bool :=
    match m with
    | .nearestEven => 2 * r > d || (2 * r == d && q % 2 == 1)
    | .towardZero => false
    | .stochastic => u < 2 ^ 24 * r / d
    | .down => neg && r != 0
    | .up => !neg && r != 0
    | .nearestMax => 2 * r ≥ d && r != 0
  if up then q + 1 else q

/-- Round a signed fraction to an integer, to nearest with ties to even (R94, R99, R110). -/
def rne (z : Int) (d : Nat) : Int :=
  let q := roundQuot .nearestEven (z < 0) 0 z.natAbs d
  if z < 0 then -(q : Int) else q

/-- A value as an integer count of units of 2^e, to nearest even (R94). -/
def Num.align (x : Num) (e : Int) : Int :=
  let s := x.signed
  let p := pow2Frac e
  rne (s.1 * p.2) (s.2 * p.1)

/-- Round a magnitude to the grid of spacing 2^g: the count of grid steps. -/
def roundGrid (m : RMode) (neg : Bool) (u n d : Nat) (g : Int) : Nat :=
  let p := pow2Frac g
  roundQuot m neg u (n * p.2) (d * p.1)

/-- What a conversion gives: the code, its flags, and whether the source was beyond range (R73, R132). -/
structure Conv where
  code : Nat
  flags : Nat
  beyond : Bool
  deriving DecidableEq, Repr

/-- A code with its sign; Q4 and T2 put the sign at bits [3] and [1] and have no negative zero (R57, R74). -/
def signCode (f : Fmt) (neg : Bool) (mag : Nat) : Nat :=
  match f with
  | .q4 => if mag = 0 then 0 else if neg then 8 + mag else mag
  | .t2 => if mag = 0 then 0 else if neg then 3 else 1
  | f => if neg then 2 ^ ((f.layout).bits - 1) + mag else mag

/-- Grid exponent of a magnitude in a layout: subnormals keep the lowest grid. -/
def gridExp (l : FloatLayout) (e : Int) : Int := (if e < l.emin then l.emin else e) - ((l.prec : Int) - 1)

/-- The magnitude code of `q` steps of grid 2^g: codes of a layout rise without gaps across binades. -/
def gridCode (l : FloatLayout) (q : Nat) (g : Int) : Nat :=
  q + (g - (l.emin - ((l.prec : Int) - 1))).toNat * 2 ^ (l.prec - 1)

/-- The exact magnitude of a magnitude code, as steps and grid. -/
def codeGrid (l : FloatLayout) (c : Nat) : Nat × Int :=
  let e := c / 2 ^ (l.prec - 1)
  let low := l.emin - ((l.prec : Int) - 1)
  if e = 0 then (c, low) else (c % 2 ^ (l.prec - 1) + 2 ^ (l.prec - 1), low + (e : Int) - 1)

/-- The magnitude of a magnitude code as a fraction. -/
def codeMag (l : FloatLayout) (c : Nat) : Nat × Nat :=
  let qg := codeGrid l c
  let p := pow2Frac qg.2
  (qg.1 * p.1, p.2)

/-- Tininess of R75 for the formats other than Q4 and T2: rounded as if the exponent range were unbounded, the magnitude lies below the
smallest normal. -/
def tinyAfter (l : FloatLayout) (m : RMode) (neg : Bool) (u n d : Nat) : Bool :=
  let g := expOf n d - ((l.prec : Int) - 1)
  let q := roundGrid m neg u n d g
  -- q · 2^g < 2^emin
  let a := pow2Frac g
  let b := pow2Frac l.emin
  q * a.1 * b.2 < b.1 * a.2

/-- Conversion of an exact value into a floating format (R73, R74, R75, R77, Table 02-8). -/
def convFloat (f : Fmt) (m : RMode) (sat : Bool) (u : Nat) (x : Num) : Conv :=
  let l := f.layout
  let small : Bool := l.bits ≤ 8
  match x with
  | .nan s => ⟨l.nanCode, if s then flagNV else 0, false⟩
  | .inf s =>
    match l.infCode with
    | some c => ⟨signCode f s c, 0, false⟩
    | none => ⟨signCode f s l.maxCode, flagOF + flagNX + flagSA, true⟩
  | .fin s n d =>
    if n = 0 then ⟨signCode f s 0, 0, false⟩ else
    let mx := codeMag l l.maxCode
    if small && !magLe (n, d) mx then ⟨signCode f s l.maxCode, flagOF + flagNX + flagSA, true⟩ else
    let g := gridExp l (expOf n d)
    let q := roundGrid m s u n d g
    let p := pow2Frac g
    let exact : Bool := q * p.1 * d == n * p.2
    let c := gridCode l q g
    if c > l.maxCode then
      -- overflow of a format of 16 bits or wider
      let toMax : Bool := sat || m == .towardZero || (m == .down && !s) || (m == .up && s)
      if toMax then ⟨signCode f s l.maxCode, flagOF + flagNX + (if sat || m == .towardZero then flagSA else 0), true⟩
      else ⟨signCode f s (l.infCode.getD l.maxCode), flagOF + flagNX, true⟩
    else
      let tiny : Bool :=
        match f with
        | .q4 => c < 2
        | .t2 => c == 0
        | _ => tinyAfter l m s u n d
      ⟨signCode f s c, if exact then 0 else flagNX + (if tiny then flagUF else 0), false⟩

/-- Conversion of an exact value into a two's-complement format of `w` bits; `lo` is the magnitude of the lower limit that a source
beyond range takes (R73, R76). -/
def convInt (w lo : Nat) (m : RMode) (u : Nat) (x : Num) : Conv :=
  let hi := 2 ^ (w - 1) - 1
  match x with
  | .nan _ => ⟨0, flagNV, false⟩
  | .inf s => ⟨if s then 2 ^ w - lo else hi, flagNV + flagSA, true⟩
  | .fin s n d =>
    let q := roundQuot m s u n d
    if s then
      if q > lo then ⟨2 ^ w - lo, flagNV + flagSA, true⟩
      else ⟨(2 ^ w - q) % 2 ^ w, if q * d == n then 0 else flagNX, false⟩
    else
      if q > hi then ⟨hi, flagNV + flagSA, true⟩
      else ⟨q, if q * d == n then 0 else flagNX, false⟩

/-- Conversion into any stored format (R73). A BFX64 target takes the source already divided by 2^E, and its range limit is
±(2^63 − 1) (R76). -/
def convert (f : Fmt) (m : RMode) (sat : Bool) (u : Nat) (x : Num) : Conv :=
  if f.isInt then convInt f.bits (if f = .bfx64 then 2 ^ 63 - 1 else 2 ^ (f.bits - 1)) m u x else convFloat f m sat u x

/-- The value of a code (R53 to R57, R64). A BFX64 significand reads as the integer, before its vector's exponent (R65). -/
def decodeNum (f : Fmt) (c : Nat) : Num :=
  match f with
  | .int4 | .int8 | .int16 | .int32 | .int64 | .bfx64 => Num.ofInt (toSigned f.bits c)
  | .q4 => if c % 16 = 8 then .nan false else let m := codeMag f.layout (c % 8); .fin (c % 16 ≥ 8) m.1 m.2
  | .t2 => if c % 4 = 2 then .nan false else if c % 4 = 3 then .fin true 1 1 else .fin false (c % 4) 1
  | f =>
    let l := f.layout
    let s : Bool := c.testBit (l.bits - 1)
    let a := c % 2 ^ (l.bits - 1)
    match l.infCode with
    | some i =>
      if a = i then .inf s
      else if a > i then .nan (!a.testBit (l.prec - 2))
      else let m := codeMag l a; .fin s m.1 m.2
    | none => if a > l.maxCode then .nan false else let m := codeMag l a; .fin s m.1 m.2

/-- mix64 of R71, modulo 2^64. -/
def mix64 (z0 : Nat) : Nat :=
  let z1 := ((z0 % 2 ^ 64) ^^^ (z0 % 2 ^ 64) >>> 30) * 0xBF58476D1CE4E5B9 % 2 ^ 64
  let z2 := (z1 ^^^ z1 >>> 27) * 0x94D049BB133111EB % 2 ^ 64
  z2 ^^^ z2 >>> 31

/-- The stream value u of an element: seed, handle, logical index (R71). -/
def streamU (seed handle n : Nat) : Nat :=
  mix64 (mix64 ((seed <<< 16) ||| handle) ^^^ (n % 2 ^ 64)) >>> 40

/-- Exact sum. The sign of an exact zero follows IEEE 754 under the mode. -/
def Num.add (m : RMode) (x y : Num) : Num × Nat :=
  match x, y with
  | .nan a, .nan b => (.nan false, if a || b then flagNV else 0)
  | .nan a, _ => (.nan false, if a then flagNV else 0)
  | _, .nan b => (.nan false, if b then flagNV else 0)
  | .inf a, .inf b => if a = b then (.inf a, 0) else (.nan false, flagNV)
  | .inf a, _ => (.inf a, 0)
  | _, .inf b => (.inf b, 0)
  | .fin a n d, .fin b n' d' =>
    let z := (Num.fin a n d).signed.1 * d' + (Num.fin b n' d').signed.1 * d
    if z = 0 then
      (if n = 0 ∧ n' = 0 ∧ a = b then .fin a 0 1 else .fin (m == .down) 0 1, 0)
    else (Num.ofFrac z (d * d'), 0)

/-- Exact product. -/
def Num.mul (x y : Num) : Num × Nat :=
  match x, y with
  | .nan a, .nan b => (.nan false, if a || b then flagNV else 0)
  | .nan a, _ => (.nan false, if a then flagNV else 0)
  | _, .nan b => (.nan false, if b then flagNV else 0)
  | .inf a, .inf b => (.inf (a != b), 0)
  | .inf a, .fin b n _ => if n = 0 then (.nan false, flagNV) else (.inf (a != b), 0)
  | .fin a n _, .inf b => if n = 0 then (.nan false, flagNV) else (.inf (a != b), 0)
  | .fin a n d, .fin b n' d' => (.fin (a != b) (n * n') (d * d'), 0)

/-- Exact quotient by a non-zero finite value. -/
def Num.divFin (x y : Num) : Num :=
  match x, y with
  | .fin a n d, .fin b n' d' => if n' = 0 then .fin a n d else .fin (a != b) (n * d') (d * n')
  | .inf a, .fin b _ _ => .inf (a != b)
  | z, _ => z

/-- x·y + z with one rounding to come; an invalid product is reported even beside a quiet NaN addend. -/
def Num.fma (m : RMode) (x y z : Num) : Num × Nat :=
  let p := x.mul y
  match p.1, z with
  | .nan _, .nan c => (.nan false, p.2 ||| (if c then flagNV else 0))
  | .nan _, _ => (.nan false, p.2)
  | q, z => q.add m z

/-- `some` of x < y for numbers, none where a NaN makes the pair unordered. -/
def Num.lt? (x y : Num) : Option Bool :=
  match x, y with
  | .nan _, _ => none
  | _, .nan _ => none
  | .inf a, .inf b => some (a && !b)
  | .inf a, _ => some a
  | _, .inf b => some (!b)
  | x, y => some (decide (x.signed.1 * y.signed.2 < y.signed.1 * x.signed.2))

/-- Equality of two numbers' values. -/
def Num.eqVal (x y : Num) : Bool :=
  match x, y with
  | .nan _, _ => false
  | _, .nan _ => false
  | .inf a, .inf b => a == b
  | .inf _, _ => false
  | _, .inf _ => false
  | x, y => x.signed.1 * y.signed.2 == y.signed.1 * x.signed.2

/-- Ceiling of the base-2 logarithm of a positive count (R93). -/
def clog2 (n : Nat) : Nat := if n ≤ 1 then 0 else Nat.log2 (n - 1) + 1

/-- The largest finite magnitude in a list. -/
def maxMag : List Num → Nat × Nat
  | [] => (0, 1)
  | x :: xs => let r := maxMag xs; if x.isFin then (if magLe r x.mag then x.mag else r) else r

/-- Integer square root, one bit of the result at a time from bit `k` down. -/
def isqrtFrom (n : Nat) : Nat → Nat → Nat
  | 0, r => r
  | k + 1, r => isqrtFrom n k (if (r + 2 ^ k) * (r + 2 ^ k) ≤ n then r + 2 ^ k else r)

/-- The largest r with r² ≤ n. -/
def isqrt (n : Nat) : Nat := isqrtFrom n (Nat.log2 n / 2 + 1) 0

/-- The smallest k with m ≤ v · 2^k, for m > 0 (R130). -/
def scaleExp (m : Nat × Nat) (v : Nat) : Int :=
  let e := expOf m.1 (m.2 * v)
  let p := pow2Frac e
  if m.1 * p.2 ≤ m.2 * v * p.1 then e else e + 1

/-- The E8 code that quench chooses for a block of source values already divided by S (R129, R130). -/
def quenchCode (vmax clip : Nat) (xs : List Num) : Nat :=
  let m := maxMag xs
  if m.1 ≠ 0 then
    let z : Int := 127 + scaleExp m vmax - clip
    if z < 0 then 0 else if z > 254 then 254 else z.toNat
  else if xs.any Num.isFin then 0x7f
  else if xs.any Num.isNan then 0xff else 0x7f

/-- The decoded value of a block-scaled code: v · 2^(c − 127) · S, or NaN in a NaN block (R60, R61). -/
def scaledNum (f : Fmt) (code e8 : Nat) (s : Num) : Num :=
  if e8 = 0xff then .nan false
  else (((decodeNum f code).scale2 ((e8 : Int) - 127)).mul s).1

/-- The value to be encoded in a block-scaled format: x / (2^(c − 127) · S) (R63). -/
def unscaleNum (x : Num) (e8 : Nat) (s : Num) : Num := (x.scale2 (127 - (e8 : Int))).divFin s

end Sys2Proof.Machine
end

