-- ==== Sys2Proof/Config.lean ====
section
/-! DEFINITION. What one part fixes and what the spec leaves open: free values, opaque, so that no proof can see what they are. -/

namespace Sys2Proof.Config

/-- The n-th free byte: a value the spec leaves open, drawn when the step reads and advances the state's free counter. -/
opaque freeByte : Nat → BitVec 8

/-- Two changes of one register or flag in one beat fall into the same clock cycle (R31, R215): commands tell beats apart and not cycles, so
each such pair is a free choice. -/
opaque sameCycle : Nat → Bool

/-- Errors of a checkpoint engine, by their kind of Table 15-11, for which it raises its interrupt source (Table 09-11 names the sources, no rule their
conditions). -/
opaque ckptRaises : Nat → Bool

/-- The n-th free word: a 64-bit value the spec leaves open. -/
opaque freeWord : Nat → BitVec 64

/-- EXP2, LOG2 or RSQ (1, 2, 3) of an F32 operand whose exact value is not representable, at a numerics firmware level (R178): taken where it keeps
the accuracy that Table 05-6 states. -/
opaque approx : Nat → Nat → BitVec 32 → BitVec 32

/-- The value that a hearth routine forms for an output element before it is stored, where no rule states its roundings (R229): a function of the
firmware's numerics level, the routine, its parameters, the values it reads, and the element. -/
opaque hearth : Nat → Nat → List Nat → List (List Machine.Num) → Nat → Machine.Num

/-- The flags that such a routine raises beside those of its conversions. -/
opaque hearthFlags : Nat → Nat → List Nat → List (List Machine.Num) → BitVec 5

/-- What RING_ATTN holds after one more block, from what it held and the block's keys and values (R450). -/
opaque attnStep : Nat → List Machine.Num → List Machine.Num → Nat

/-- An order among equal or unordered scores of TOP_K, which no rule gives: a place for each element of a run. -/
opaque topOrder : List Machine.Num → Nat → Nat

/-- The element that a halo buffer's element takes its value from, which no rule orders: widths, sizes, element. -/
opaque haloPlace : List Nat → List Nat → Nat → Nat

/-- The two bytes of a lock-step digest's record part that R475 counts and does not name. -/
opaque digestPad : BitVec 16

/-- What an interior-point step computes by equations that no rule gives (R272), a function of the solve's inputs alone (R253): quantity `what` at
iteration `k`, element `i`. -/
opaque anvil : List Byte → Nat → Nat → Nat → BitVec 64

/-- What the Anvil's divide unit gives for a zero divisor, which no rule states (R242): significand and exponent, by the dividend's. -/
opaque anvilQuotient : Int → Int → BitVec 64 × BitVec 16

/-- The numerics firmware level that an image version carries (Table 13-3: per firmware). -/
opaque numericsLevel : BitVec 32 → BitVec 16

/-- The hash of a flow by which a switch chooses among admissible ports (R377): source, destination, engine and class. -/
opaque flowHash : Nat → Nat → Nat → Nat → BitVec 64

/-- Packets that a link's buffer holds beyond the first (R29), by link: 4 × router + direction. -/
opaque linkCredits : BitVec 8 → BitVec 8

/-- The member at which a ring begins a chunk when the order is not deterministic (R442): communicator, sequence number, chunk. -/
opaque ringStart : Nat → Nat → Nat → BitVec 32

/-- The serial number of the package (IDENTIFY, R636). -/
opaque serial : BitVec 64

/-- An image's bytes carry a signature of Gallatra's firmware key and a body that matches its digest (R610). -/
opaque fwSigned : List (BitVec 8) → Bool

/-- The image version in an image's header (R610). -/
opaque fwVersionOf : List (BitVec 8) → BitVec 32

/-- Digests that the boot measures (R611): 0 the boot ROM, 1 the management firmware, 2 the numerics firmware with the library, of an image
version. -/
opaque bootDigest : Nat → Nat → BitVec 384

/-- The digest of the committed protection tables (R611), a function of the tables. -/
opaque tableDigest : List (BitVec 8) → BitVec 384

/-- The signature of the package's attestation key over a quote (R612). -/
opaque attestSign : List (BitVec 8) → BitVec 768

end Sys2Proof.Config
end

