-- ==== Sys2Proof/Machine/TileMath.lean ====
section
/-! DEFINITION. The arithmetic of one array tile (spec 03_matrix_array.md, R93 to R110; 04_quench_and_reheat.md, R129 to R134, R139,
R148 to R150): the anchored window, special tags, split modes, the K-split combination, quench of a run of elements and the shadow
comparison. Everything here is a function of the operand values alone. -/

namespace Sys2Proof.Machine

/-- Precision modes of Table 03-3, D6P resolved later into D6 or D10. -/
inductive PMode where
  | direct | s3 | d6 | d10 | d6p
  deriving DecidableEq, Repr

/-- Codes of `ARR_OP_PMODE` (Table 03-3). -/
def PMode.ofCode : Nat → Option PMode
  | 0 => some .direct | 1 => some .s3 | 2 => some .d6 | 3 => some .d10 | 4 => some .d6p | _ => none

/-- Slices s of Table 03-5; 0 in direct mode. -/
def PMode.slices : PMode → Nat
  | .direct => 0 | .s3 => 2 | .d6 => 3 | .d6p => 3 | .d10 => 4

/-- One accumulator: its window value in units of the accumulation's lowest bit, what bank 0 holds of it in bank 0's own unit, its special
tag, and NV of its terms (R83, R98, R102). -/
structure Cell where
  w : Int
  hi : Int
  tag : Nat
  nv : Bool
  deriving DecidableEq, Repr

/-- The accumulation of one tile on one die: its final anchor (none while no step had a defined bound), its G, whether both banks
serve it, and its cells by row (R66, R93, R102). -/
structure Accum where
  anchor : Option Int
  g : Nat
  split : Bool
  cells : List (List Cell)
  /-- NV that a K-split combination raises with the tile (R110). -/
  nv : Bool
  deriving DecidableEq, Repr

/-- Cut a list into runs of `n`. -/
def chunksOf {α : Type} (n : Nat) : Nat → List α → List (List α)
  | 0, _ => []
  | fuel + 1, xs => if xs.isEmpty then [] else xs.take n :: chunksOf n fuel (xs.drop n)

/-- Runs of `n` elements covering a whole list. -/
def runsOf {α : Type} (n : Nat) (xs : List α) : List (List α) := chunksOf n xs.length xs

/-- For each K-step, the largest finite magnitude over the rows of a panel. -/
def panelMags : List (List Num) → List (Nat × Nat)
  | [] => []
  | [r] => r.map (fun x => if x.isFin then x.mag else (0, 1))
  | r :: rs => List.zipWith (fun x m => if x.isFin then (if magLe m x.mag then x.mag else m) else m) r (panelMags rs)

/-- Exponent of a magnitude, none for zero. -/
def magExp (m : Nat × Nat) : Option Int := if m.1 = 0 then none else some (expOf m.1 m.2)

/-- The running bounds P_k of R93 from a starting bound (R95's e_C). -/
def runBounds : Option Int → List (Nat × Nat) → List (Nat × Nat) → List (Option Int)
  | p, a :: as, b :: bs =>
    let p' := match magExp a, magExp b, p with
      | some ea, some eb, some q => some (max q (ea + eb))
      | some ea, some eb, none => some (ea + eb)
      | _, _, q => q
    p' :: runBounds p' as bs
  | _, _, _ => []

/-- The anchors A_k = P_k + 2 + G (R93). -/
def anchors (g : Nat) (c : Option (List (List Num))) (a b : List (List Num)) : List (Option Int) :=
  let ec := match c with
    | some m => magExp (maxMag m.flatten)
    | none => none
  (runBounds ec (panelMags a) (panelMags b)).map (fun p => p.map (fun e => e + 2 + (g : Int)))

/-- What one term contributes to its element's tag: the tag bits, whether it is a NaN term, and NV (Table 03-4). -/
structure Special where
  tag : Nat
  nanTerm : Bool
  nv : Bool
  deriving DecidableEq, Repr

/-- Tag state with nothing special seen. -/
def Special.none : Special := ⟨0, false, false⟩

/-- Combine the special terms of one element. -/
def Special.join (a b : Special) : Special := ⟨a.tag ||| b.tag, a.nanTerm || b.nanTerm, a.nv || b.nv⟩

/-- The special contribution of a product term (Table 03-4). -/
def specialOfProduct (x y : Num) : Special :=
  if x.isNan || y.isNan then ⟨3, true, x.isSnan || y.isSnan⟩
  else if x.isInf || y.isInf then
    (if x.isZero || y.isZero then ⟨3, true, true⟩ else ⟨if x.neg != y.neg then 2 else 1, false, false⟩)
  else Special.none

/-- The special contribution of the C term (R95). -/
def specialOfTerm (x : Num) : Special :=
  match x with
  | .nan s => ⟨3, true, s⟩
  | .inf s => ⟨if s then 2 else 1, false, false⟩
  | _ => Special.none

/-- The tag and NV of an element once all its terms are known: infinite terms of both signs with no NaN give NV (Table 03-4). -/
def Special.close (s : Special) : Nat × Bool := (s.tag, s.nv || (s.tag == 3 && !s.nanTerm))

/-- Shift a window value right by a rise of the anchor, rounding to nearest even (R94). -/
def shiftW (w : Int) (d : Int) : Int := if d ≤ 0 then w else rne w (2 ^ d.toNat)

/-- One K-step of one cell: raise the anchor, then add the aligned product (R94). -/
def stepCell (low : Int) (st : Int × Option Int × Special) (x y : Num) (ak : Option Int) : Int × Option Int × Special :=
  let w0 := match st.2.1, ak with
    | some c, some a => shiftW st.1 (a - c)
    | _, _ => st.1
  let cur := match ak with | some a => some a | none => st.2.1
  let sp := st.2.2.join (specialOfProduct x y)
  let add := match cur with
    | some a => if x.isFin && y.isFin then (x.mul y).1.align (a + low) else 0
    | none => 0
  (w0 + add, cur, sp)

/-- Fold one element over its K-steps. -/
def foldCell (low : Int) : Int × Option Int × Special → List Num → List Num → List (Option Int) → Int × Option Int × Special
  | st, x :: xs, y :: ys, a :: as => foldCell low (stepCell low st x y a) xs ys as
  | st, _, _, _ => st

/-- The C term's start of a cell (R95). -/
def startCell (low : Int) (c : Option Num) (a0 : Option Int) : Int × Option Int × Special :=
  match c with
  | none => (0, none, Special.none)
  | some x =>
    match a0 with
    | some a => if x.isFin then (x.align (a + low), some a, Special.none) else (0, some a, specialOfTerm x)
    | none => (0, none, specialOfTerm x)

/-- Element (i, j) of an optional C panel. -/
def cAt (c : Option (List (List Num))) (i j : Nat) : Option Num := c.map (fun m => (m.getD i []).getD j Num.zero)

/-- The final anchor of a step sequence (R94). -/
def lastAnchor (as : List (Option Int)) : Option Int := (as.getLast?).join

/-- The 72-bit window keeps a sum modulo 2^72 (R66). Only a floating C term under the fixed anchor of R96 can need more (log entry 84). -/
def wrap72 (w : Int) : Int := toSigned 72 (ofSigned 72 w)

/-- Accumulate one tile in the 16-, 4- and 2-class (R93 to R98). `a` holds the tile's rows and `b` its columns, each along K, and
`fixed` says the anchor is held at 70 (R96): a floating C term is then rounded to units of 1 (log entry 84). -/
def accumDirect (a b : List (List Num)) (c : Option (List (List Num))) (kPrime : Nat) (fixed : Bool) : Accum :=
  let g := clog2 kPrime
  let as := if fixed then (a.headD []).map (fun _ => some (70 : Int)) else anchors g c a b
  let a0 := (as.head?).join
  { anchor := lastAnchor as, g := g, split := false, nv := false,
    cells := a.zipIdx.map (fun ri => b.zipIdx.map (fun cj =>
      let st := foldCell (-70) (startCell (-70) (cAt c ri.2 cj.2) a0) ri.1 cj.1 as
      let t := st.2.2.close
      let w := wrap72 st.1
      ⟨w, w, t.1, t.2⟩)) }

/-- A split operand element: its slices, most significant first, and the exponent of its last slice's unit; none for a special
element (R99, R100). -/
abbrev Sliced := Option (List Int × Int)

/-- Cut an integer into s slices of 17 bits, the first signed (R100). -/
def cutSlices (s : Nat) (m : Int) : List Int :=
  (List.range s).map (fun t =>
    if t = 0 then m / (2 ^ (17 * (s - 1)) : Nat)
    else (m / (2 ^ (17 * (s - 1 - t)) : Nat)) % (2 ^ 17 : Nat))

/-- Convert one 32-element block into block fixed point (R99). -/
def splitBlock (s : Nat) (blk : List Num) : List Sliced :=
  let e0 : Int := (magExp (maxMag blk)).getD 0
  let ints (e : Int) : List (Option Int) := blk.map (fun x => if x.isFin then some (x.align (e + 1 - 17 * (s : Int))) else none)
  let fits (l : List (Option Int)) : Bool := l.all (fun m => match m with | some z => z.natAbs < 2 ^ (17 * s) | none => true)
  let e := if fits (ints e0) then e0 else e0 + 1
  (ints e).map (fun m => m.map (fun z => (cutSlices s z, e + 1 - 17 * (s : Int))))

/-- A row or column along K, split block by block. -/
def splitRow (s : Nat) (xs : List Num) : List Sliced := ((runsOf 32 xs).map (splitBlock s)).flatten

/-- The passes (i, j) in order: i + j ≤ s − 1, ascending i + j, then ascending i (R101, Table 03-5). -/
def splitPasses (s : Nat) : List (Nat × Nat) :=
  ((List.range s).map (fun t => (List.range (t + 1)).map (fun i => (i, t - i)))).flatten

/-- The slice product of a pass, aligned to an exponent (R101, R102). -/
def sliceTerm (s : Nat) (pq : Nat × Nat) (x y : Sliced) (e : Int) : Int :=
  match x, y with
  | some a, some b =>
    let m := a.1.getD pq.1 0 * b.1.getD pq.2 0
    let ex := a.2 + b.2 + 17 * (2 * (s : Int) - 2 - pq.1 - pq.2)
    (Num.ofInt m).scale2 ex |>.align e
  | _, _ => 0

/-- The two banks of a cell in a split mode as one register: its value in bank 1's unit, the part of it that bank 0 holds, in bank 0's unit
(R102). -/
structure Banks where
  w : Int
  hi : Int
  deriving DecidableEq, Repr

/-- A term enters the banks: bank 0 takes its part at or above bank 0's unit, which is 2^m of bank 1's, and bank 1 the remainder. A negative
term is cut toward minus infinity, as two's complement cuts it, so that its remainder is not negative (R102; log entry 85). -/
def Banks.add (m : Nat) (b : Banks) (x : Int) : Banks := ⟨b.w + x, b.hi + x / (2 ^ m : Nat)⟩

/-- Both banks shift when the anchor rises: the bits that leave bank 0 enter bank 1, and rounding takes place at bank 1's lowest bit (R102). -/
def Banks.shift (b : Banks) (d : Int) : Banks := if d ≤ 0 then b else ⟨shiftW b.w d, b.hi / (2 ^ d.toNat : Nat)⟩

/-- First pass of a split-mode element: the anchor may rise (R101). -/
def foldSplit1 (s m : Nat) (low : Int) : Banks × Option Int × Special → List (Num × Sliced) → List (Num × Sliced) → List (Option Int) →
    Banks × Option Int × Special
  | st, x :: xs, y :: ys, ak :: as =>
    let w0 := match st.2.1, ak with
      | some c, some a => st.1.shift (a - c)
      | _, _ => st.1
    let cur := match ak with | some a => some a | none => st.2.1
    let add := match cur with
      | some a => sliceTerm s (0, 0) x.2 y.2 (a + low)
      | none => 0
    foldSplit1 s m low (w0.add m add, cur, st.2.2.join (specialOfProduct x.1 y.1)) xs ys as
  | st, _, _, _ => st

/-- A later pass of a split-mode element, throughout at the final anchor (R101). -/
def foldSplitN (s m : Nat) (pq : Nat × Nat) (e : Int) : Banks → List (Num × Sliced) → List (Num × Sliced) → Banks
  | b, x :: xs, y :: ys => foldSplitN s m pq e (b.add m (sliceTerm s pq x.2 y.2 e)) xs ys
  | b, _, _ => b

/-- Accumulate one tile in a split mode; the two banks act as one register whose lowest bit weighs 2^(A − 140 + G) (R99 to R102). -/
def accumSplit (s : Nat) (a b : List (List Num)) (c : Option (List (List Num))) (kPrime : Nat) : Accum :=
  let g := clog2 kPrime
  let low : Int := (g : Int) - 140
  let as := anchors g c a b
  let a0 := (as.head?).join
  let fin := lastAnchor as
  let ar := a.map (fun r => r.zip (splitRow s r))
  let br := b.map (fun r => r.zip (splitRow s r))
  { anchor := fin, g := g, split := true, nv := false,
    cells := ar.zipIdx.map (fun ri => br.zipIdx.map (fun cj =>
      let m := 70 - g
      let c0 := startCell low (cAt c ri.2 cj.2) a0
      let st := foldSplit1 s m low ((Banks.add m ⟨0, 0⟩ c0.1), c0.2) ri.1 cj.1 as
      let rest := match fin with
        | some f => ((splitPasses s).drop 1).foldl (fun (b : Banks) pq => foldSplitN s m pq (f + low) b ri.1 cj.1) st.1
        | none => st.1
      let t := st.2.2.close
      ⟨rest.w, rest.hi, t.1, t.2⟩)) }

/-- The exponent of an accumulation's lowest bit; with no defined anchor the drain takes 0 (R66, R93, R102). -/
def Accum.unit (x : Accum) : Int :=
  let a := x.anchor.getD 0
  if x.split then a - 140 + (x.g : Int) else a - 70

/-- A tag's value, before the conversion of R92 (Table 03-4). -/
def tagValue (tag : Nat) (w : Int) (unit : Int) : Num :=
  match tag with
  | 0 => if w = 0 then Num.zero else (Num.ofInt w).scale2 unit
  | 1 => .inf false
  | 2 => .inf true
  | _ => .nan false

/-- The output value of a cell before the final rounding (R92, R98). -/
def Accum.value (x : Accum) (c : Cell) : Num := tagValue c.tag c.w x.unit

/-- A block's spread exceeds 17: one spread event (R104). -/
def spreadBlock (blk : List Num) : Bool :=
  let es := blk.filterMap Num.exp?
  match es with
  | [] => false
  | e :: r => r.foldl max e - r.foldl min e > 17

/-- The panels hold at least one spread event (R104). -/
def spreadPanels (a b : List (List Num)) : Bool := (a ++ b).any (fun r => (runsOf 32 r).any spreadBlock)

/-- The K-split factor: the largest power of two s with s ≤ d/T, s ≤ ceil(K/32) and (s−1)·32·ceil(K/(32 s)) < K (R108). -/
def ksplitFactor (k tiles d : Nat) (off : Bool) : Nat :=
  if off || tiles ≥ d || tiles = 0 then 1
  else [2, 4, 8].foldl (fun best s =>
    if s * tiles ≤ d && s ≤ ceilDiv k 32 && (s - 1) * (32 * ceilDiv k (32 * s)) < k then s else best) 1

/-- The first K-step and the K-step count of part u of s (R108). -/
def ksplitPart (k s u : Nat) : Nat × Nat :=
  let n := 32 * ceilDiv k (32 * s)
  (u * n, if u + 1 = s then k - u * n else n)

/-- Re-align a window value from one unit to another, to nearest even (R110). -/
def realign (w : Int) (oldUnit newUnit : Int) : Int := ((Num.ofInt w).scale2 oldUnit).align newUnit

/-- Combine the parts of a K-split tile at its home die (R110). A part none of whose K-steps had a defined bound holds zeros and takes no part in
the largest part anchor (log entry 86). `fixed` holds the anchor at 70, where nothing is re-aligned and the sum is exact (R96). -/
def combineParts (fixed : Bool) (parts : List Accum) : Accum :=
  match parts with
  | [] => ⟨none, 0, false, [], false⟩
  | p0 :: rest =>
    let s := parts.length
    let lg := clog2 s
    let g := p0.g + lg
    let top := parts.foldl (fun m p => match m, p.anchor with
      | some x, some y => some (max x y)
      | none, y => y
      | x, none => x) (none : Option Int)
    let anchor := if fixed then some (70 : Int) else top.map (fun a => a + (lg : Int))
    let out : Accum := ⟨anchor, g, p0.split, [], false⟩
    let add (a b : Cell) : Cell := ⟨a.w + b.w, a.hi + b.hi, a.tag ||| b.tag, a.nv || b.nv⟩
    -- `nv` marks an element whose tag is 0b11 in a part: the home die raises no NV for it
    let lift (p : Accum) (c : Cell) : Cell :=
      match p.anchor, anchor with
      | some a, some ac => ⟨realign c.w p.unit out.unit, c.hi / (2 ^ (ac - a).toNat : Nat), c.tag, c.tag == 3⟩
      | _, _ => ⟨0, 0, c.tag, c.tag == 3⟩
    let init := p0.cells.map (fun r => r.map (lift p0))
    let sums := rest.foldl (fun acc p => List.zipWith (fun r r' => List.zipWith (fun x c => add x (lift p c)) r r') acc p.cells) init
    { out with
      cells := sums.map (fun r => r.map (fun x => { x with nv := false }))
      nv := sums.any (fun r => r.any (fun x => x.tag == 3 && !x.nv)) }

/-- NV arose in some cell of a part: it travels in the part's flag set (R110). -/
def Accum.nvFlag (x : Accum) : Nat := if x.cells.any (fun r => r.any (fun c => c.nv)) then flagNV else 0

/-- A W of 72 bits and a tag as a 10-byte record (R109). -/
def windowRecord (w : Int) (tag : Nat) : List Byte := leBytes 10 (ofSigned 72 w + tag % 4 * 2 ^ 72)

/-- What a part's die sends to the home die (R109, R135): a 16-byte header, then a record for each valid element in row-major order, of both
banks in a split mode. The header's layout is log entry 87: the anchor in bytes 0 and 1, the flag set in byte 2, the over-threshold bit and the
mark of an undefined anchor in byte 3. -/
def Accum.record (x : Accum) (flags : Nat) (overT : Bool) : List Byte :=
  leBytes 2 (ofSigned 16 (x.anchor.getD 0)) ++ leBytes 1 flags ++
  leBytes 1 ((if overT then 1 else 0) + (if x.anchor.isNone then 2 else 0)) ++ leBytes 12 0 ++
  ((x.cells.map (fun r => (r.map (fun c =>
    if x.split then windowRecord c.hi c.tag ++ windowRecord (c.w - c.hi * (2 ^ (70 - x.g) : Nat)) 0 else windowRecord c.w c.tag)).flatten)).flatten)

/-- A record as the home die reads it: a window value and a tag. -/
def readWindow (b : List Byte) : Int × Nat := let v := leNat (b.take 10); (toSigned 72 (v % 2 ^ 72), v / 2 ^ 72 % 4)

/-- The accumulation that a part's bytes spell, for a tile of so many columns and a part whose G is known (R109). -/
def Accum.ofRecord (b : List Byte) (cols g : Nat) (split : Bool) : Accum :=
  { anchor := if (leAt b 3 1).testBit 1 then none else some (toSigned 16 (leAt b 0 2)), g := g, split := split, nv := false,
    cells := runsOf cols ((runsOf (if split then 20 else 10) (b.drop 16)).map (fun r =>
      let x := readWindow r
      if split then ⟨x.1 * (2 ^ (70 - g) : Nat) + (readWindow (r.drop 10)).1, x.1, x.2, false⟩ else ⟨x.1, x.1, x.2, false⟩)) }

/-- What quench of one run gives: codes with their conversion flags, the E8 code of each block, and the counts of R132. -/
structure Quenched where
  codes : List Nat
  scales : List Nat
  flags : Nat
  sats : Nat
  flushes : Nat
  deriving DecidableEq, Repr

/-- v_max of R129, and 448 for the E4M3 blocks of a reheat (R139). -/
def quenchMax : Fmt → Nat
  | .q4 => 6 | .t2 => 1 | _ => 448

/-- Encode one block with a chosen E8 code; `us` are the elements' stream values (R63, R131, R132). -/
def quenchBlock (f : Fmt) (m : RMode) (s : Num) (e8 : Nat) (xs : List Num) (us : List Nat) : Quenched :=
  let cs := List.zipWith (fun x u =>
    if e8 = 0xff then (x, convert f m false u x) else (x, convert f m false u (unscaleNum x e8 s))) xs us
  { codes := cs.map (fun c => c.2.code), scales := [e8],
    flags := cs.foldl (fun a c => a ||| c.2.flags) 0,
    sats := cs.countP (fun c => c.2.beyond),
    flushes := cs.countP (fun c => c.1.isFin && !c.1.isZero && c.2.code == 0) }

/-- Join the quench of two runs. -/
def Quenched.append (a b : Quenched) : Quenched :=
  ⟨a.codes ++ b.codes, a.scales ++ b.scales, a.flags ||| b.flags, a.sats + b.sats, a.flushes + b.flushes⟩

/-- Nothing quenched yet. -/
def Quenched.empty : Quenched := ⟨[], [], 0, 0, 0⟩

/-- Quench a whole run along dimension 0, block by block, choosing each block's scale (R129 to R132). -/
def quenchRun (f : Fmt) (len : Nat) (m : RMode) (clip : Nat) (s : Num) (xs : List Num) (us : List Nat) : Quenched :=
  (List.zip (runsOf len xs) (runsOf len us)).foldl (fun acc bu =>
    acc.append (quenchBlock f m s (quenchCode (quenchMax f) clip (bu.1.map (fun x => x.divFin s))) bu.1 bu.2)) Quenched.empty

/-- Over threshold for one quenched tensor: 1024·count > θ·n (R134). -/
def overThreshold (reheat : Bool) (theta n sats flushes : Nat) : Bool :=
  reheat && (1024 * sats > theta * n || 1024 * flushes > theta * n)

/-- The shadow offset o of R148. -/
def shadowOffset (seed n : Nat) : Nat := if n = 0 then 0 else (mix64 seed >>> 32) % n

/-- The histogram bin of a shadow comparison over the elements whose tags are 0b00 in both results (R150); none when no element takes
part. The quotient is rounded once into F32. -/
def shadowBin (ys zs : List Num) : Option Nat :=
  if ys.isEmpty then none else
  let ds := List.zipWith (fun y z => (y.add .nearestEven z.negate).1) ys zs
  let num := maxMag ds
  let den := maxMag zs
  if den.1 = 0 then (if ys.all Num.isZero then some 31 else some 0)
  else if num.1 = 0 then some 31
  else
    let c := convFloat .f32 .nearestEven false 0 (.fin false (num.1 * den.2) (num.2 * den.1))
    match decodeNum .f32 c.code with
    | .inf _ => some 0
    | .fin _ n d =>
      if n = 0 then some 31 else
      -- bin k holds 2^-(k+1) ≤ e < 2^-k
      let k : Int := -(expOf n d) - 1
      some (if k < 0 then 0 else if k > 31 then 31 else k.toNat)
    | .nan _ => none

end Sys2Proof.Machine
end

