-- ==== Sys2Proof/Machine/CoatProg.lean ====
section
/-! DEFINITION. Coat programs (spec 05_coat_engine.md, R159 to R192): the image, the loader's checks, and the engine's run of one
program against one tile, cycle by cycle, with its fixed latencies and the latency-check traps. -/

namespace Sys2Proof.Machine

/-- A program image in a slot (Table 05-8), its bundles as slot words in the order I0, I1, F, S. -/
structure CoatImage where
  len : Nat
  standalone : Bool
  lut : Option (List Nat)
  allowC : Nat
  allowW : Nat
  allowK : Nat
  consts : List Nat
  words : List Nat
  deriving DecidableEq, Repr

/-- A w register (Table 05-1, R175). -/
structure WReg where
  w : Int
  tag : Nat
  mark : Nat
  deriving DecidableEq, Repr

/-- One lane's state (Table 05-1). -/
structure Lane where
  c : List Nat
  w : List WReg
  k : List Bool
  flags : Nat
  deriving DecidableEq, Repr

/-- A value bound for a register. -/
inductive RegVal where
  | c (v : Nat)
  | w (v : WReg)
  | k (v : Bool)
  deriving DecidableEq, Repr

/-- A result in flight (R165). -/
structure Pend where
  land : Nat
  issue : Nat
  slot : Nat
  bundle : Nat
  row : Nat
  lane : Nat
  file : Nat
  reg : Nat
  val : RegVal
  deriving DecidableEq, Repr

/-- A latency-check trap (Table 05-13); kind 0 a stale read, 1 a collision. -/
structure Trap where
  cycle : Nat
  slot : Nat
  file : Nat
  reg : Nat
  kind : Nat
  bundle : Nat
  row : Nat
  deriving DecidableEq, Repr

/-- An element a store put into the store path: its exact value before the rounding of R92 or R182. -/
structure CoatStore where
  handle : Nat
  row : Nat
  lane : Nat
  value : Num
  deriving DecidableEq, Repr

/-- A slot word's fields (Table 05-3). -/
structure SlotOp where
  op : Nat
  dly : Nat
  pred : Nat
  d : Nat
  a : Nat
  b : Nat
  c : Nat
  imm : Nat
  deriving DecidableEq, Repr

/-- Cut a slot word into its fields. -/
def slotOp (w : Nat) : SlotOp :=
  ⟨bitsOf w 31 26, bitsOf w 25 23, bitsOf w 22 20, bitsOf w 19 15, bitsOf w 14 10, bitsOf w 9 5, bitsOf w 4 0, bitsOf w 9 0⟩

/-- The word of slot `s` of bundle `b`. -/
def CoatImage.word (im : CoatImage) (b s : Nat) : Nat := im.words.getD (4 * b + s) 0

/-- Register files by number, as in Table 05-13. -/
abbrev fileC : Nat := 0
abbrev fileW : Nat := 1
abbrev fileK : Nat := 2

/-- How a slot word's fields are used: D, A, B and C as registers of a file, or unused, or a modifier (R173). -/
inductive Use where
  | reg (file : Nat)
  | zero
  /-- a modifier: the bits that must be zero, and the reserved value of the low two bits if any -/
  | modifier (mustZero : Nat) (noThree : Bool)
  | free
  deriving DecidableEq, Repr

/-- An opcode's shape: destination file, the uses of A, B and C, whether D is a destination, and its latency (Tables 05-2, 05-4 to
05-6). -/
structure OpShape where
  d : Use
  a : Use
  b : Use
  c : Use
  latency : Nat
  deriving DecidableEq, Repr

/-- Integer-slot opcodes (Table 05-4); none for a reserved code. -/
def intShape (op : Nat) : Option OpShape :=
  let rc := Use.reg fileC
  let rk := Use.reg fileK
  let rw := Use.reg fileW
  if op = 0 then some ⟨.zero, .zero, .zero, .zero, 1⟩
  else if op ≤ 8 then some ⟨rc, rc, rc, .modifier 0x1c true, 1⟩
  else if op ≤ 0xf then some ⟨rc, rc, rc, .zero, 1⟩
  else if op = 0x10 then some ⟨rc, rc, .free, .free, 1⟩
  else if op ≤ 0x13 then some ⟨rc, rc, .modifier 0x1f false, .free, 1⟩
  else if op ≤ 0x15 then some ⟨rk, rc, rc, .zero, 1⟩
  else if op ≤ 0x17 then some ⟨rk, rk, rk, .zero, 1⟩
  else if op = 0x18 then some ⟨rk, rk, .zero, .zero, 1⟩
  else if op = 0x19 then some ⟨rc, rc, rc, .modifier 0x18 false, 1⟩
  else if op ≤ 0x1b then some ⟨rc, .zero, .zero, .zero, 1⟩
  else if op = 0x20 then some ⟨rw, .zero, .zero, .modifier 0x1e false, 2⟩
  else if op = 0x21 then some ⟨rc, .zero, .zero, .modifier 0x1e false, 2⟩
  else if op = 0x28 ∨ op = 0x29 then some ⟨.zero, rc, .zero, .modifier 0x1e false, 3⟩
  else if op = 0x2a then some ⟨.zero, rw, .zero, .modifier 0x1f false, 3⟩
  else if op = 0x2b then some ⟨.zero, rw, rw, .modifier 0x1f false, 3⟩
  else none

/-- Float-slot opcodes (Table 05-5). -/
def floatShape (op : Nat) : Option OpShape :=
  let rc := Use.reg fileC
  if op = 0 then some ⟨.zero, .zero, .zero, .zero, 4⟩
  else if op ≤ 3 then some ⟨rc, rc, rc, .zero, 4⟩
  else if op ≤ 5 then some ⟨rc, rc, rc, rc, 4⟩
  else if op ≤ 7 then some ⟨rc, rc, rc, .zero, 4⟩
  else if op ≤ 9 then some ⟨rc, rc, .zero, .zero, 4⟩
  else if op ≤ 0xd then some ⟨.reg fileK, rc, rc, .zero, 4⟩
  else if op ≤ 0x10 then some ⟨rc, rc, .zero, .zero, 4⟩
  else if op = 0x11 then some ⟨rc, .reg fileW, .zero, .zero, 4⟩
  else none

/-- Special-slot opcodes (Table 05-6). -/
def specialShape (op : Nat) : Option OpShape :=
  let rc := Use.reg fileC
  if op = 0 then some ⟨.zero, .zero, .zero, .zero, 6⟩
  else if op ≤ 4 then some ⟨rc, rc, .zero, .zero, 6⟩
  else if op ≤ 7 then some ⟨rc, rc, .zero, .modifier 0x1c true, 6⟩
  else none

/-- The shape of an opcode in a slot: I0, I1, F, S. -/
def opShape (slot op : Nat) : Option OpShape :=
  if slot ≤ 1 then intShape op else if slot = 2 then floatShape op else specialShape op

/-- The integer-slot stores. -/
def isStoreOp (slot op : Nat) : Bool := slot ≤ 1 && 0x28 ≤ op && op ≤ 0x2b

/-- The handle a store writes: 2 or 3 by C[0] for ST.F and ST.I, 2 for ST.W and ST.W2 (Table 05-4). -/
def storeHandle (o : SlotOp) : Nat := if o.op ≥ 0x2a then 2 else 2 + o.c % 2

/-- The destination register of a slot word, if it has one. -/
def slotDest (slot w : Nat) : Option (Nat × Nat) :=
  let o := slotOp w
  if o.op = 0 then none else
  match opShape slot o.op with
  | some ⟨.reg f, _, _, _, _⟩ => some (f, o.d)
  | _ => none

/-- A register-field or unused-field breach of R173 (code 7). -/
def useBreach (u : Use) (v : Nat) : Bool :=
  match u with
  | .reg f => if f = fileW then v ≥ 4 else if f = fileK then v ≥ 8 else false
  | .zero => v != 0
  | _ => false

/-- A reserved modifier or a non-zero must-be-zero bit inside one (code 3). -/
def modBreach (u : Use) (v : Nat) : Bool :=
  match u with
  | .modifier z t => (v &&& z) != 0 || (t && v % 4 == 3)
  | _ => false

/-- What the loader has seen so far: destinations of this bundle, handles stored, and the image's LUT and kind (R189). -/
structure LoadScan where
  dests : List (Nat × Nat)
  stored : List Nat
  deriving DecidableEq, Repr

/-- The lowest applicable code among 3 to 10 for one slot word; 0 when it has none (R189). -/
def slotFault (standalone hasLut : Bool) (sc : LoadScan) (slot w : Nat) : Nat :=
  let o := slotOp w
  match opShape slot o.op with
  | none => 3
  | some sh =>
    if modBreach sh.b o.b || modBreach sh.c o.c then 3
    else if (slot = 1 && (o.op = 0x20 || o.op = 0x21)) || (slot = 0 && isStoreOp 0 o.op) then 4
    else if (match slotDest slot w with | some d => sc.dests.contains d | none => false) then 5
    else if slotDest slot w = some (fileK, 0) then 6
    else if useBreach sh.d o.d || useBreach sh.a o.a || useBreach sh.b o.b || useBreach sh.c o.c then 7
    else if slot ≤ 1 && ((standalone && (o.op = 0x20 || o.op = 0x2a || o.op = 0x2b)) ||
        (!standalone && (o.op = 0x21 || (isStoreOp slot o.op && storeHandle o = 3)))) then 8
    else if isStoreOp slot o.op && sc.stored.contains (storeHandle o) then 9
    else if slot = 3 && o.op = 4 && !hasLut then 10
    else 0

/-- A load error: code, bundle and slot (Table 05-14). -/
structure LoadFault where
  code : Nat
  bundle : Nat
  slot : Nat
  deriving DecidableEq, Repr

/-- Scan slot words in order from word `i`; `i / 4` is the bundle (R189). -/
def scanWords (standalone hasLut : Bool) : LoadScan → Nat → List Nat → Option LoadFault
  | _, _, [] => none
  | sc0, i, w :: ws =>
    let sc := if i % 4 = 0 then { sc0 with dests := [] } else sc0
    let f := slotFault standalone hasLut sc (i % 4) w
    if f ≠ 0 then some ⟨f, i / 4, i % 4⟩ else
    let o := slotOp w
    let sc1 : LoadScan :=
      { dests := match slotDest (i % 4) w with | some d => d :: sc.dests | none => sc.dests
        stored := if isStoreOp (i % 4) o.op then storeHandle o :: sc.stored else sc.stored }
    scanWords standalone hasLut sc1 (i + 1) ws

/-- 32-bit words of a byte list. -/
def wordsOf (bs : List Byte) (off n : Nat) : List Nat := (List.range n).map (fun i => leAt bs (off + 4 * i) 4)

/-- Bytes of an image of header `h`: header, bundles and table (Table 05-8). -/
def imageBytes (h : Nat) : Nat := 0x40 + 16 * (h % 256) + (if h.testBit 9 then 1024 else 0)

/-- Check an image's bytes (its parity is the reader's affair) and build it, or name the first fault (R187, R189). -/
def parseImage (bs : List Byte) : CoatImage ⊕ LoadFault :=
  let h := leAt bs 0 4
  let len := h % 256
  let m := leAt bs 8 4
  if len = 0 ∨ len > 128 then .inr ⟨1, 0, 0⟩
  else if h >>> 10 ≠ 0 ∨ bitsOf m 7 4 ≠ 0 ∨ bitsOf m 31 16 ≠ 0 ∨ leAt bs 0xc 20 ≠ 0 then .inr ⟨2, 0, 0⟩
  else
    let ws := wordsOf bs 0x40 (4 * len)
    let std := h.testBit 8
    let hasLut := h.testBit 9
    match scanWords std hasLut ⟨[], []⟩ 0 ws with
    | some f => .inr f
    | none => .inl
      { len := len, standalone := std, lut := if hasLut then some (wordsOf bs (0x40 + 16 * len) 256) else none,
        allowC := leAt bs 4 4, allowW := bitsOf m 3 0, allowK := bitsOf m 15 8,
        consts := wordsOf bs 0x20 8, words := ws }

/-- Δ of R162: the largest DLY of any operation other than a NOP. -/
def CoatImage.delta (im : CoatImage) : Nat :=
  im.words.foldl (fun m w => let o := slotOp w; if o.op = 0 then m else max m o.dly) 0

/-- The handles a program reads by RDI and stores, and whether a store goes through a predicate other than k0 (R192, R193). -/
def CoatImage.readsInput (im : CoatImage) (sel : Nat) : Bool :=
  (List.range im.len).any (fun b => let o := slotOp (im.word b 0); o.op == 0x21 && o.c % 2 == sel)

/-- The program stores to handle `h`. -/
def CoatImage.storesTo (im : CoatImage) (h : Nat) : Bool :=
  (List.range im.len).any (fun b => let o := slotOp (im.word b 1); isStoreOp 1 o.op && storeHandle o == h)

/-- The program stores to handle `h` through a predicate other than k0. -/
def CoatImage.storesPredicated (im : CoatImage) (h : Nat) : Bool :=
  (List.range im.len).any (fun b => let o := slotOp (im.word b 1); isStoreOp 1 o.op && storeHandle o == h && o.pred != 0)

/-- A tile as the engine sees it: its valid rows and columns, the accumulator banks with the exponents of their lowest bits and the
product of the tensor scales, or the input rows as F32 patterns with their conversion flags. -/
structure TileView where
  rows : Nat
  cols : Nat
  banks : List (List (WReg × WReg × Bool))
  unit0 : Int
  unit1 : Int
  factor : Num
  /-- numerics level of the running firmware (R178) -/
  level : Nat
  inputs : List (List (List (Nat × Nat)))
  deriving DecidableEq, Repr

/-- The bank entries of one element: primary, secondary, NV. -/
def TileView.bank (t : TileView) (r l : Nat) : WReg × WReg × Bool := (t.banks.getD r []).getD l (⟨0, 0, 0⟩, ⟨0, 0, 1⟩, false)

/-- An input element, as its F32 pattern and flags. -/
def TileView.input (t : TileView) (sel r l : Nat) : Nat × Nat := ((t.inputs.getD sel []).getD r []).getD l (0, 0)

/-- The engine while a program runs against a tile. -/
structure CoatRun where
  lanes : List Lane
  pend : List Pend
  stores : List CoatStore
  traps : List Trap
  deriving DecidableEq, Repr

/-- A lane at the start of a tile (R161). -/
def laneStart (consts : List Nat) : Lane :=
  ⟨List.replicate 24 0 ++ (List.range 8).map (fun i => consts.getD i 0), List.replicate 4 ⟨0, 0, 0⟩, true :: List.replicate 7 false, 0⟩

/-- A predicate of a lane; k0 reads as 1 (Table 05-1). -/
def Lane.pred (l : Lane) (i : Nat) : Bool := i == 0 || l.k.getD i false

/-- The c register of a lane. -/
def Lane.cReg (l : Lane) (i : Nat) : Nat := l.c.getD i 0

/-- The w register of a lane. -/
def Lane.wReg (l : Lane) (i : Nat) : WReg := l.w.getD (i % 4) ⟨0, 0, 0⟩

/-- Write a register of a lane. -/
def Lane.put (l : Lane) (reg : Nat) (v : RegVal) : Lane :=
  match v with
  | .c n => { l with c := putAt l.c reg n }
  | .w x => { l with w := putAt l.w (reg % 4) x }
  | .k b => if reg = 0 then l else { l with k := putAt l.k reg b }

/-- An F32 result from an exact value and the flags of its operation (R177). -/
def f32Result (x : Num × Nat) : Nat × Nat := let c := convFloat .f32 .nearestEven false 0 x.1; (c.code, x.2 ||| c.flags)

/-- FMAX and FMIN: NaN when either is NaN, +0 above −0 (Table 05-5). -/
def f32MaxMin (isMax : Bool) (a b : Nat) : Nat × Nat :=
  let x := decodeNum .f32 a
  let y := decodeNum .f32 b
  let fl := if x.isSnan || y.isSnan then flagNV else 0
  if x.isNan || y.isNan then (0x7fc00000, fl) else
  let aLess : Bool := match x.lt? y with
    | some true => true
    | _ => x.isZero && y.isZero && x.neg && !y.neg
  (if aLess == isMax then b else a, fl)

/-- A comparison: less, less or equal, equal, unordered; 0 for unordered operands and NV only for a signalling NaN (R177). -/
def f32Compare (op a b : Nat) : Bool × Nat :=
  let x := decodeNum .f32 a
  let y := decodeNum .f32 b
  let fl := if x.isSnan || y.isSnan then flagNV else 0
  let lt : Bool := x.lt? y == some true
  let eq : Bool := x.eqVal y
  (match op with | 0 => lt | 1 => lt || eq | 2 => eq | _ => x.isNan || y.isNan, fl)

/-- A signed power of two has its exact exponent. -/
def pow2Exp? (n d : Nat) : Option Int :=
  if n = 0 then none else
  let e := expOf n d
  let p := pow2Frac e
  if n * p.2 = d * p.1 then some e else none

/-- Fraction bits to which 2^x and log2 x are formed for the tests of Table 05-6: far finer than any bound it states. -/
abbrev fineBits : Nat := 256

/-- Multiply into 2^f the square roots 2^(2^-i) that the bits of f select, from bit i on; `root` is the root of bit i, all in units of 2^-256. -/
def expBits (f : Nat) : Nat → Nat → Nat → Nat
  | 0, _, acc => acc
  | k + 1, root, acc =>
    let r := isqrt (root * 2 ^ fineBits)
    expBits f k r (if f.testBit k then acc * r / 2 ^ fineBits else acc)

/-- 2^(z/d) as a fraction, to more than 200 bits. -/
def fineExp2 (z : Int) (d : Nat) : Nat × Nat :=
  let k := z / (d : Int)
  let f := ((z - k * (d : Int)).toNat * 2 ^ 240) / d
  let p := pow2Frac k
  (expBits f 240 (2 * 2 ^ fineBits) (2 ^ fineBits) * p.1, 2 ^ fineBits * p.2)

/-- Bits of the logarithm of y in [1, 2), in units of 2^-256: square, and take a bit where it passes 2. -/
def logBits : Nat → Nat → Nat → Nat
  | 0, _, acc => acc
  | k + 1, y, acc =>
    let q := y * y / 2 ^ fineBits
    if q ≥ 2 * 2 ^ fineBits then logBits k (q / 2) (2 * acc + 1) else logBits k q (2 * acc)

/-- log2 (n/d) in units of 2^-96, for n > 0. -/
def fineLog2 (n d : Nat) : Int :=
  let e := expOf n d
  let p := pow2Frac (-e)
  e * (2 ^ 96 : Nat) + (logBits 96 (n * p.1 * 2 ^ fineBits / (d * p.2)) 0 : Nat)

/-- The signed fraction of an F32 pattern; none for infinities and NaNs. -/
def f32Frac (w : Nat) : Option (Int × Nat) := match decodeNum .f32 w with | .fin s n d => some (Num.fin s n d).signed | _ => none

/-- |x − y| ≤ 2^-k · b for signed fractions, b a magnitude. -/
def within (x y : Int × Nat) (k : Nat) (b : Nat × Nat) : Bool := (x.1 * y.2 - y.1 * x.2).natAbs * b.2 * 2 ^ k ≤ b.1 * (x.2 * y.2)

/-- The accuracy of Table 05-6 for EXP2 of z/d. -/
def exp2Near (z : Int) (d : Nat) (w : Nat) : Bool :=
  match f32Frac w with
  | none => false
  | some x =>
    let t := fineExp2 z d
    if z ≥ -126 * (d : Int) then within x (t.1, t.2) 22 t else within x (t.1, t.2) 150 (1, 1)

/-- The accuracy of Table 05-6 for LOG2 of n/d. -/
def log2Near (n d w : Nat) : Bool :=
  match f32Frac w with
  | none => false
  | some x =>
    let t := fineLog2 n d
    within x (t, 2 ^ 96) 22 (if d ≤ 2 * n ∧ n < 2 * d then (1, 1) else (t.natAbs, 2 ^ 96))

/-- The accuracy of Table 05-6 for RSQ of n/d: (1 − 2^-22)² ≤ x² · n/d ≤ (1 + 2^-22)². -/
def rsqNear (n d w : Nat) : Bool :=
  match f32Frac w with
  | none => false
  | some x =>
    let a := x.1.natAbs * x.1.natAbs * n * 2 ^ 44
    let b := x.2 * x.2 * d
    0 ≤ x.1 && b * (2 ^ 22 - 1) ^ 2 ≤ a && a ≤ b * (2 ^ 22 + 1) ^ 2

/-- A special function's inexact result: the firmware's own where it keeps the stated accuracy, and otherwise the nearest F32, which keeps it. -/
def nearResult (near : Nat → Bool) (level op a : Nat) (best : Num) : Nat :=
  let w := (Config.approx level op (BitVec.ofNat 32 a)).toNat
  if near w then w else (convFloat .f32 .nearestEven false 0 best).code

/-- EXP2 (Tables 05-6, 05-7; R178). -/
def coatExp2 (level a : Nat) : Nat × Nat :=
  match decodeNum .f32 a with
  | .nan s => (0x7fc00000, if s then flagNV else 0)
  | .inf s => (if s then 0 else 0x7f800000, 0)
  | .fin s n d =>
    if n = 0 then (0x3f800000, 0)
    else if !s && n ≥ 128 * d then (0x7f800000, flagOF + flagNX)
    else if s && n > 150 * d then (0, flagUF + flagNX)
    else if n % d = 0 ∧ !(s && n / d > 149) then
      let e : Int := if s then -((n / d : Nat) : Int) else (n / d : Nat)
      ((convFloat .f32 .nearestEven false 0 ((Num.fin false 1 1).scale2 e)).code, 0)
    else
      let z : Int := if s then -(n : Int) else n
      let t := fineExp2 z d
      (nearResult (exp2Near z d) level 1 a (.fin false t.1 t.2), flagNX + (if s && n > 126 * d then flagUF else 0))

/-- LOG2 (Tables 05-6, 05-7; R178). -/
def coatLog2 (level a : Nat) : Nat × Nat :=
  match decodeNum .f32 a with
  | .nan s => (0x7fc00000, if s then flagNV else 0)
  | .inf s => if s then (0x7fc00000, flagNV) else (0x7f800000, 0)
  | .fin s n d =>
    if n = 0 then (0xff800000, 0)
    else if s then (0x7fc00000, flagNV)
    else match pow2Exp? n d with
      | some e => ((convFloat .f32 .nearestEven false 0 (Num.ofInt e)).code, 0)
      | none => (nearResult (log2Near n d) level 2 a (Num.ofFrac (fineLog2 n d) (2 ^ 96)), flagNX)

/-- RSQ (Tables 05-6, 05-7; R178). -/
def coatRsq (level a : Nat) : Nat × Nat :=
  match decodeNum .f32 a with
  | .nan s => (0x7fc00000, if s then flagNV else 0)
  | .inf s => if s then (0x7fc00000, flagNV) else (0, 0)
  | .fin s n d =>
    let other : Nat := nearResult (rsqNear n d) level 3 a (.fin false (isqrt (d * 2 ^ 400 / n)) (2 ^ 200))
    if n = 0 then (if s then 0xff800000 else 0x7f800000, 0)
    else if s then (0x7fc00000, flagNV)
    else match pow2Exp? n d with
      | some e =>
        if e % 2 = 0 then ((convFloat .f32 .nearestEven false 0 ((Num.fin false 1 1).scale2 (-(e / 2)))).code, 0)
        else (other, flagNX)
      | none => (other, flagNX)

/-- The width an arithmetic modifier selects (Table 05-4). -/
def modWidth (c : Nat) : Nat := match c % 4 with | 0 => 32 | 1 => 16 | _ => 8

/-- Integer arithmetic of a width, wrapping or saturating, sign-extended to 32 bits (R174). -/
def intArith (op w a b : Nat) : Nat × Nat :=
  let x := toSigned w a
  let y := toSigned w b
  let lo : Int := -((2 ^ (w - 1) : Nat) : Int)
  let hi : Int := ((2 ^ (w - 1) : Nat) : Int) - 1
  let wrap (z : Int) : Nat × Nat := (ofSigned 32 (toSigned w (ofSigned w z)), 0)
  let clamp (z : Int) : Nat × Nat :=
    if z < lo then (ofSigned 32 lo, flagSA) else if z > hi then (ofSigned 32 hi, flagSA) else (ofSigned 32 z, 0)
  match op with
  | 1 => wrap (x + y)
  | 2 => clamp (x + y)
  | 3 => wrap (x - y)
  | 4 => clamp (x - y)
  | 5 => wrap (x * y)
  | 6 => clamp (x * y)
  | 7 => wrap (min x y)
  | _ => wrap (max x y)

/-- The exact value a w register drains as, at the weight of its bank (R175, R183), with the tensor-scale product (R92). -/
def wNum (t : TileView) (x : WReg) : Num := ((tagValue x.tag x.w (if x.mark = 0 then t.unit0 else t.unit1)).mul t.factor).1

/-- The exact sum of two w registers; tags combine per Table 03-4 (R183). -/
def wSum (t : TileView) (x y : WReg) : Num × Nat :=
  let tag := x.tag ||| y.tag
  if tag = 0 then ((wNum t x).add .nearestEven (wNum t y))
  else (tagValue tag 0 0, if tag = 3 ∧ x.tag ≠ 3 ∧ y.tag ≠ 3 then flagNV else 0)

/-- What one integer-slot operation does in one active lane: a result, a store, flags. -/
def intLaneOp (t : TileView) (o : SlotOp) (row lane : Nat) (l : Lane) : Option RegVal × Option CoatStore × Nat :=
  let a := l.cReg o.a
  let b := l.cReg o.b
  let c (v : Nat) : Option RegVal × Option CoatStore × Nat := (some (.c v), none, 0)
  let k (v : Bool) : Option RegVal × Option CoatStore × Nat := (some (.k v), none, 0)
  let op := o.op
  if op ≤ 8 then let r := intArith op (modWidth o.c) a b; (some (.c r.1), none, r.2)
  else if op = 9 then c (a &&& b)
  else if op = 0xa then c (a ||| b)
  else if op = 0xb then c (a ^^^ b)
  else if op = 0xc then c (a &&& (b ^^^ 0xffffffff))
  else if op = 0xd then c ((a <<< (b % 32)) % 2 ^ 32)
  else if op = 0xe then c (a >>> (b % 32))
  else if op = 0xf then c (ofSigned 32 (toSigned 32 a / (2 ^ (b % 32) : Nat)))
  else if op = 0x10 then c (ofSigned 32 (toSigned 32 a + toSigned 10 o.imm))
  else if op = 0x11 then c ((a <<< (o.imm % 32)) % 2 ^ 32)
  else if op = 0x12 then c (a >>> (o.imm % 32))
  else if op = 0x13 then c (ofSigned 32 (toSigned 32 a / (2 ^ (o.imm % 32) : Nat)))
  else if op = 0x14 then k (a == b)
  else if op = 0x15 then k (decide (toSigned 32 a < toSigned 32 b))
  else if op = 0x16 then k (l.pred (o.a % 8) && l.pred (o.b % 8))
  else if op = 0x17 then k (l.pred (o.a % 8) || l.pred (o.b % 8))
  else if op = 0x18 then k (!l.pred (o.a % 8))
  else if op = 0x19 then c (if l.pred (o.c % 8) then a else b)
  else if op = 0x1a then c lane
  else if op = 0x1b then c row
  else if op = 0x20 then
    let e := t.bank row lane
    (some (.w (if o.c % 2 = 0 then e.1 else e.2.1)), none, if e.2.2 then flagNV else 0)
  else if op = 0x21 then let e := t.input (o.c % 2) row lane; (some (.c e.1), none, e.2)
  else if op = 0x28 then (none, some ⟨storeHandle o, row, lane, decodeNum .f32 a⟩, 0)
  else if op = 0x29 then (none, some ⟨storeHandle o, row, lane, decodeNum .int32 a⟩, 0)
  else if op = 0x2a then (none, some ⟨2, row, lane, wNum t (l.wReg o.a)⟩, 0)
  else let s := wSum t (l.wReg o.a) (l.wReg o.b); (none, some ⟨2, row, lane, s.1⟩, s.2)

/-- What one float-slot operation does in one active lane (Table 05-5, R177). -/
def floatLaneOp (t : TileView) (o : SlotOp) (l : Lane) : RegVal × Nat :=
  let a := l.cReg o.a
  let b := l.cReg o.b
  let x := decodeNum .f32 a
  let y := decodeNum .f32 b
  let z := decodeNum .f32 (l.cReg o.c)
  let res (r : Num × Nat) : RegVal × Nat := let q := f32Result r; (.c q.1, q.2)
  match o.op with
  | 1 => res (x.add .nearestEven y)
  | 2 => res (x.add .nearestEven y.negate)
  | 3 => res (x.mul y)
  | 4 => res (Num.fma .nearestEven x y z)
  | 5 => res (Num.fma .nearestEven x.negate y z)
  | 6 => let r := f32MaxMin true a b; (.c r.1, r.2)
  | 7 => let r := f32MaxMin false a b; (.c r.1, r.2)
  | 8 => (.c (a % 2 ^ 31), 0)
  | 9 => (.c (a ^^^ 0x80000000), 0)
  | 0xa => let r := f32Compare 0 a b; (.k r.1, r.2)
  | 0xb => let r := f32Compare 1 a b; (.k r.1, r.2)
  | 0xc => let r := f32Compare 2 a b; (.k r.1, r.2)
  | 0xd => let r := f32Compare 3 a b; (.k r.1, r.2)
  | 0xe => res (decodeNum .int32 a, 0)
  | 0xf => let r := convert .int32 .nearestEven false 0 x; (.c r.code, r.flags)
  | 0x10 => let r := convert .int32 .towardZero false 0 x; (.c r.code, r.flags)
  | _ => res (wNum t (l.wReg o.a), 0)

/-- A fixed binary tree of F32 additions (R180). -/
def treeSum : Nat → List (Nat × Nat) → Nat × Nat
  | 0, xs => xs.headD (0, 0)
  | k + 1, xs =>
    let h := 2 ^ k
    let a := treeSum k (xs.take h)
    let b := treeSum k (xs.drop h)
    let r := f32Result ((decodeNum .f32 a.1).add .nearestEven (decodeNum .f32 b.1))
    (r.1, a.2 ||| b.2 ||| r.2)

/-- A cross-lane group's result over the operands of its taking-part lanes, one entry a lane (R179 to R181). -/
def groupOp (op size : Nat) (xs : List (Option Nat)) : Nat × Nat :=
  let parts := xs.filterMap id
  match op with
  | 5 => -- BAMAX
    (parts.foldl (fun m a => let x := a % 2 ^ 31; if (decodeNum .f32 a).isFin && x > m then x else m) 0, 0)
  | 6 => -- RMAX
    (parts.foldl (fun (m : Nat × Nat) a => let r := f32MaxMin true m.1 a; (r.1, m.2 ||| r.2)) (0xff800000, 0))
  | _ => treeSum (Nat.log2 size) (xs.map (fun x => (x.getD 0, 0)) ++ List.replicate (size - xs.length) (0, 0))

/-- Lanes in a group (Table 05-6). -/
def groupSize (c : Nat) : Nat := match c % 4 with | 0 => 32 | 1 => 64 | _ => 512

/-- Special-slot results for every lane: active lanes' operands in, results and flags out; group flags enter once (R178 to R181). -/
def specialLanes (level : Nat) (im : CoatImage) (o : SlotOp) (xs : List (Option Nat)) : List (Option (Nat × Nat)) :=
  if o.op ≤ 4 then
    xs.map (fun x => x.map (fun a =>
      match o.op with
      | 1 => coatExp2 level a
      | 2 => coatLog2 level a
      | 3 => coatRsq level a
      | _ => ((im.lut.getD []).getD (a % 256) 0, 0)))
  else
    let n := groupSize o.c
    ((runsOf n xs).map (fun g => let r := groupOp o.op n g; g.map (fun x => x.map (fun _ => r)))).flatten

/-- The source registers a slot word reads in an active lane, as (file, register). -/
def slotSources (slot : Nat) (o : SlotOp) : List (Nat × Nat) :=
  match opShape slot o.op with
  | none => []
  | some sh =>
    let one (u : Use) (v : Nat) : List (Nat × Nat) := match u with | .reg f => [(f, v)] | _ => []
    one sh.a o.a ++ one sh.b o.b ++ one sh.c o.c ++ (if slot ≤ 1 ∧ o.op = 0x19 then [(fileK, o.c % 8)] else [])

/-- The allow mask lists a register (R169). -/
def CoatImage.allowed (im : CoatImage) (file reg : Nat) : Bool :=
  if file = fileC then im.allowC.testBit reg else if file = fileW then im.allowW.testBit reg else reg == 0 || im.allowK.testBit reg

/-- Land the results due at a cycle; the later-issued of two for one register is kept (R165, R167), and each such pair is a collision
(R169). -/
def landResults (latchk : Bool) (t : Nat) (s : CoatRun) : CoatRun :=
  let due := s.pend.filter (fun p => p.land ≤ t)
  let lanes := due.foldl (fun ls p => putAt ls p.lane ((ls.getD p.lane (laneStart [])).put p.reg p.val)) s.lanes
  let hits := if latchk then due.filter (fun p => due.any (fun q =>
      q.lane == p.lane && q.file == p.file && q.reg == p.reg && q.issue < p.issue)) else []
  { s with
    lanes := lanes, pend := s.pend.filter (fun p => p.land > t),
    traps := s.traps ++ hits.map (fun p => ⟨t, p.slot, p.file, p.reg, 1, p.bundle, p.row⟩) }

/-- The stale reads of one slot word at a cycle (R166, R169). -/
def staleReads (im : CoatImage) (t slot bundle row : Nat) (o : SlotOp) (act : List Bool) (s : CoatRun) : List Trap :=
  let srcs := slotSources slot o
  s.pend.filterMap (fun p =>
    let read : Bool := (p.file == fileK && p.reg == o.pred) || (act.getD p.lane false && srcs.contains (p.file, p.reg))
    if read && p.issue < t && !im.allowed p.file p.reg && !(p.file == fileK && p.reg == 0)
    then some ⟨t, slot, p.file, p.reg, 0, bundle, row⟩ else none)

/-- Issue one slot word of a bundle: reads happen from `s0`, the state at the cycle's start; results go to `s` (R163 to R165). -/
def issueSlot (im : CoatImage) (t : TileView) (latchk : Bool) (cyc iter bundle slot : Nat) (s0 s : CoatRun) : CoatRun :=
  let o := slotOp (im.word bundle slot)
  if o.op = 0 then s else
  if iter < o.dly ∨ iter - o.dly ≥ t.rows then s else
  let row := iter - o.dly
  let act := s0.lanes.map (fun l => l.pred o.pred)
  let lat := match opShape slot o.op with | some sh => sh.latency | none => 1
  let dreg := match slotDest slot (im.word bundle slot) with | some d => d | none => (0, 0)
  let stale := if latchk then staleReads im cyc slot bundle row o act s0 else []
  let outs : List (Option RegVal × Option CoatStore × Nat) :=
    if slot ≤ 1 then (s0.lanes.zip act).zipIdx.map (fun e => if e.1.2 then intLaneOp t o row e.2 e.1.1 else (none, none, 0))
    else if slot = 2 then (s0.lanes.zip act).map (fun e =>
      if e.2 then (let r := floatLaneOp t o e.1; (some r.1, none, r.2)) else (none, none, 0))
    else (specialLanes t.level im o ((s0.lanes.zip act).map (fun e => if e.2 then some (e.1.cReg o.a) else none))).map (fun r =>
      match r with | some v => (some (RegVal.c v.1), none, v.2) | none => (none, none, 0))
  { lanes := List.zipWith (fun l r => { l with flags := l.flags ||| r.2.2 }) s.lanes outs
    pend := s.pend ++ outs.zipIdx.filterMap (fun e => e.1.1.map (fun v => ⟨cyc + lat, cyc, slot, bundle, row, e.2, dreg.1, dreg.2, v⟩))
    stores := s.stores ++ outs.filterMap (fun r => r.2.1)
    traps := s.traps ++ stale }

/-- One engine cycle: land, then issue the bundle's four slots (R162, R165). -/
def coatCycle (im : CoatImage) (t : TileView) (latchk : Bool) (cyc : Nat) (s : CoatRun) : CoatRun :=
  let s0 := landResults latchk cyc s
  let iter := cyc / im.len
  let bundle := cyc % im.len
  [0, 1, 2, 3].foldl (fun acc slot => issueSlot im t latchk cyc iter bundle slot s0 acc) s0

/-- Run a program against a tile: iterations 0 to 511 + Δ, then the cycles in which the last results land (R162). -/
def runCoat (im : CoatImage) (t : TileView) (latchk : Bool) : CoatRun :=
  let n := im.len * (512 + im.delta)
  let s := countFold n (coatCycle im t latchk) ⟨List.replicate t.cols (laneStart im.consts), [], [], []⟩
  countFold 7 (fun i s => landResults latchk (n + i) s) s

/-- The traps of a run, one for each cycle, slot, register and kind (R170). DESIGN CHOICE (log 89): lanes that meet it together count once. -/
def CoatRun.trapList (s : CoatRun) : List Trap :=
  s.traps.foldl (fun acc t => if acc.any (fun u => u.cycle == t.cycle && u.slot == t.slot && u.file == t.file && u.reg == t.reg &&
    u.kind == t.kind) then acc else acc ++ [t]) []

/-- Order of traps: earlier cycle, lower slot, lower file, lower register (R170). -/
def Trap.le (a b : Trap) : Bool :=
  if a.cycle ≠ b.cycle then a.cycle < b.cycle
  else if a.slot ≠ b.slot then a.slot < b.slot
  else if a.file ≠ b.file then a.file < b.file
  else a.reg ≤ b.reg

/-- The first trap of a run (R170). -/
def CoatRun.firstTrap (s : CoatRun) : Option Trap := (sortBy Trap.le s.trapList).head?

/-- The OR of the lane flag sets (R186). -/
def CoatRun.flags (s : CoatRun) : Nat := s.lanes.foldl (fun f l => f ||| l.flags) 0

/-- The plain drain: each element as ST.W of the primary bank, or as ST.W2 of both banks in a split mode; an element's NV enters as it is
read (R184, R186). -/
def plainDrain (t : TileView) (split : Bool) : List CoatStore × Nat :=
  let rows := t.banks.take t.rows
  (rows.zipIdx.map (fun ri => (ri.1.take t.cols).zipIdx.map (fun ej =>
      ⟨2, ri.2, ej.2, if split then (wSum t ej.1.1 ej.1.2.1).1 else wNum t ej.1.1⟩))).flatten
  |> fun st => (st, if rows.any (fun r => (r.take t.cols).any (fun e => e.2.2)) then flagNV else 0)

end Sys2Proof.Machine
end

