-- ==== Sys2Proof/Machine/RegMap.lean ====
section
/-! DEFINITION. The register map of the package (spec Tables 01-7, 02-9, 03-8 to 03-12, 04-5 to 04-7, 05-11 to 05-16,
06-15 to 06-20, 07-13 to 07-16, 08-8 to 08-12, 09-14, 09-15, 10-11 to 10-13, 11-12 to 11-15, 13-7 to 13-10, 14-6, 14-7,
15-11, 15-12, 16-12 to 16-15, 17-5, 17-6, 18-6, 19-9): the name, place, width, fields, access codes and reset values of
every register. A register is kept in the state under its MMIO offset: its local address less 0x0300_0000_0000 (R38, R41).
A register that every die of a kind shares one value of is kept once, under the lowest die's block. -/

namespace Sys2Proof.Machine

/-- The bytes of one die's MMIO block (R41). -/
abbrev blockBytes : Nat := 0x8000000

/-- Access codes of Table 00-5. `roKept`, `roCount` and `roView` split RO by what the chapters say of the register: kept over a
warm reset, a saturating-free event counter, or a view computed on each read. -/
inductive Access where
  | rw | rw1c | wo | st | lk | ro | roKept | roCount | roView | woLk | lkCount
  deriving DecidableEq, Repr

/-- One field of a register map row (R9). -/
structure FieldSpec where
  hi : Nat
  lo : Nat
  acc : Access
  reset : Nat
  deriving DecidableEq, Repr

/-- How the offsets of a register row repeat within one die block. -/
structure RegSpec where
  name : String
  off : Nat
  count : Nat
  stride : Nat
  bytes : Nat
  /-- one value for all dies of the kind -/
  shared : Bool
  /-- only in the block of the lowest die of the kind -/
  first : Bool
  fields : List FieldSpec
  deriving DecidableEq, Repr

/-- The die that carries fabric port `p`: four per fabric die, and ports 32 to 35 on F0, F2, F4 and F6 (R364). -/
def portDie (p : Nat) : Nat := if p < 32 then 20 + p / 4 else 20 + 2 * (p - 32)

/-- The index of port `p` among its die's ports. -/
def portSlot (p : Nat) : Nat := if p < 32 then p % 4 else 4

namespace Reg

/-- R122 Table 03-8. -/
def ARR_CTRL (d : Nat) : Nat := d * 0x8000000 + 0x100000
/-- R122 Table 03-9. -/
def ARR_STATUS (d : Nat) : Nat := d * 0x8000000 + 0x100004
/-- R122 Table 03-10. -/
def ARR_ERR_INFO (d : Nat) : Nat := d * 0x8000000 + 0x100008
/-- R78 Table 02-9. -/
def ARR_FLAGS (d i : Nat) : Nat := d * 0x8000000 + 0x100040 + i * 0x4
/-- R123 Table 03-12. -/
def ARR_COLMAP (d i : Nat) : Nat := d * 0x8000000 + 0x100080 + i * 0x4
/-- R122 Table 03-11. -/
def ARR_CNT_TILES (d : Nat) : Nat := d * 0x8000000 + 0x100100
/-- R122 Table 03-11. -/
def ARR_CNT_BUSY (d : Nat) : Nat := d * 0x8000000 + 0x100108
/-- R122 Table 03-11. -/
def ARR_CNT_IDLE (d : Nat) : Nat := d * 0x8000000 + 0x100110
/-- R122 Table 03-11. -/
def ARR_CNT_KSPLIT (d : Nat) : Nat := d * 0x8000000 + 0x100118
/-- R122 Table 03-11. -/
def ARR_CNT_SPREAD (d : Nat) : Nat := d * 0x8000000 + 0x100120
/-- R122 Table 03-11. -/
def ARR_CNT_SPECIAL (d : Nat) : Nat := d * 0x8000000 + 0x100128
/-- R122 Table 03-11. -/
def ARR_CNT_REPLAY (d : Nat) : Nat := d * 0x8000000 + 0x100130
/-- R157 Table 04-5. -/
def ARR_QCTRL (d : Nat) : Nat := d * 0x8000000 + 0x100200
/-- R157 Table 04-7. -/
def ARR_CNT_QSAT (d : Nat) : Nat := d * 0x8000000 + 0x100208
/-- R157 Table 04-7. -/
def ARR_CNT_QFLUSH (d : Nat) : Nat := d * 0x8000000 + 0x100210
/-- R157 Table 04-7. -/
def ARR_CNT_REHEAT (d : Nat) : Nat := d * 0x8000000 + 0x100218
/-- R157 Table 04-7. -/
def ARR_CNT_KEPT_NARROW (d : Nat) : Nat := d * 0x8000000 + 0x100220
/-- R157 Table 04-7. -/
def ARR_CNT_SHADOW (d : Nat) : Nat := d * 0x8000000 + 0x100228
/-- R157 Table 04-6. -/
def ARR_SHADOW_HIST (d i : Nat) : Nat := d * 0x8000000 + 0x100400 + i * 0x4
/-- R197 Table 05-11. -/
def COAT_CTRL (d : Nat) : Nat := d * 0x8000000 + 0x120000
/-- R197 Table 05-12. -/
def COAT_STATUS (d : Nat) : Nat := d * 0x8000000 + 0x120004
/-- R197 Table 05-13. -/
def COAT_TRAP_INFO (d : Nat) : Nat := d * 0x8000000 + 0x120008
/-- R197 Table 05-14. -/
def COAT_LOAD_ERR (d : Nat) : Nat := d * 0x8000000 + 0x12000c
/-- R78 Table 02-9. -/
def COAT_FLAGS (d i : Nat) : Nat := d * 0x8000000 + 0x120040 + i * 0x4
/-- R196 Table 05-15. -/
def COAT_LANEMAP (d i : Nat) : Nat := d * 0x8000000 + 0x120080 + i * 0x4
/-- R197 Table 05-15. -/
def COAT_PROG_INFO (d i : Nat) : Nat := d * 0x8000000 + 0x120100 + i * 0x4
/-- R197 Table 05-16. -/
def COAT_CNT_ROWS (d : Nat) : Nat := d * 0x8000000 + 0x120200
/-- R197 Table 05-16. -/
def COAT_CNT_ISSUE (d : Nat) : Nat := d * 0x8000000 + 0x120208
/-- R197 Table 05-16. -/
def COAT_CNT_TRAP (d : Nat) : Nat := d * 0x8000000 + 0x120210
/-- R197 Table 05-16. -/
def COAT_CNT_REPLAY (d : Nat) : Nat := d * 0x8000000 + 0x120218
/-- R239 Table 06-16. -/
def DSP_QBASE (q : Nat) : Nat := (q / 8) * 0x8000000 + 0x140000 + (q % 8) * 0x40
/-- R239 Table 06-15. -/
def DSP_QCPL (q : Nat) : Nat := (q / 8) * 0x8000000 + 0x140008 + (q % 8) * 0x40
/-- R239 Table 06-17. -/
def DSP_QCFG (q : Nat) : Nat := (q / 8) * 0x8000000 + 0x140010 + (q % 8) * 0x40
/-- R239 Table 06-17. -/
def DSP_QCTRL (q : Nat) : Nat := (q / 8) * 0x8000000 + 0x140014 + (q % 8) * 0x40
/-- R200 R239. -/
def DSP_QTAIL (q : Nat) : Nat := (q / 8) * 0x8000000 + 0x140018 + (q % 8) * 0x40
/-- R200 R239. -/
def DSP_QCHEAD (q : Nat) : Nat := (q / 8) * 0x8000000 + 0x14001c + (q % 8) * 0x40
/-- R200 R239. -/
def DSP_QHEAD (q : Nat) : Nat := (q / 8) * 0x8000000 + 0x140020 + (q % 8) * 0x40
/-- R239 Table 06-18. -/
def DSP_QSTATUS (q : Nat) : Nat := (q / 8) * 0x8000000 + 0x140024 + (q % 8) * 0x40
/-- R217 R239. -/
def DSP_CTX_TT_BASE (c : Nat) : Nat := c * 0x8000000 + 0x160000
/-- R239. -/
def DSP_CTX_PARAM_BASE (c : Nat) : Nat := c * 0x8000000 + 0x160008
/-- R239 Table 06-19. -/
def DSP_CTX_CTRL (c : Nat) : Nat := c * 0x8000000 + 0x160010
/-- R239 Table 06-19. -/
def DSP_CTX_STATUS (c : Nat) : Nat := c * 0x8000000 + 0x160014
/-- R239 Table 06-19. -/
def DSP_CTX_STALL (c : Nat) : Nat := c * 0x8000000 + 0x160018
/-- R467 Table 13-3. -/
def DSP_NUMSIG (c : Nat) : Nat := c * 0x8000000 + 0x160020
/-- R234 Table 06-11. -/
def DSP_CTX_REPORT (c i : Nat) : Nat := c * 0x8000000 + 0x161000 + i * 0x8
/-- R211 R214. -/
def DSP_FLAG (c i : Nat) : Nat := c * 0x8000000 + 0x180000 + i * 0x8
/-- R214 R239. -/
def DSP_FLAG_ADD (c i : Nat) : Nat := c * 0x8000000 + 0x190000 + i * 0x8
/-- R211 Table 06-19. -/
def DSP_FLAG_ATTR (c i : Nat) : Nat := c * 0x8000000 + 0x1a0000 + i * 0x4
/-- R240 Table 06-20. -/
def DSP_FEAT (i : Nat) : Nat := 0x1c0000 + i * 0x4
/-- R326 Table 08-8. -/
def MEM_RG_BASE (i : Nat) : Nat := 0x300000 + i * 0x20
/-- R326 Table 08-8. -/
def MEM_RG_SIZE (i : Nat) : Nat := 0x300008 + i * 0x20
/-- R326 Table 08-8. -/
def MEM_RG_PLACE (i : Nat) : Nat := 0x300010 + i * 0x20
/-- R326 Table 08-8. -/
def MEM_RG_ATTR (i : Nat) : Nat := 0x300018 + i * 0x20
/-- R326 Table 08-9. -/
def MEM_REG (i : Nat) : Nat := 0x300800 + i * 0x4
/-- R326 Table 08-9. -/
def MEM_PRIO_CAP : Nat := 0x300880
/-- R326 Table 08-10. -/
def MEM_STK_STATUS (k : Nat) : Nat := (k / 3) * 0x8000000 + 0x310000 + (k % 3) * 0x1000
/-- R326 Table 08-10. -/
def MEM_ERR_INFO (k : Nat) : Nat := (k / 3) * 0x8000000 + 0x310004 + (k % 3) * 0x1000
/-- R326 Table 08-10. -/
def MEM_CTRL (k : Nat) : Nat := (k / 3) * 0x8000000 + 0x310008 + (k % 3) * 0x1000
/-- R326 Table 08-11. -/
def MEM_CNT_RD_LINES (k : Nat) : Nat := (k / 3) * 0x8000000 + 0x310100 + (k % 3) * 0x1000
/-- R326 Table 08-11. -/
def MEM_CNT_WR_LINES (k : Nat) : Nat := (k / 3) * 0x8000000 + 0x310108 + (k % 3) * 0x1000
/-- R326 Table 08-11. -/
def MEM_CNT_RMW (k : Nat) : Nat := (k / 3) * 0x8000000 + 0x310110 + (k % 3) * 0x1000
/-- R326 Table 08-11. -/
def MEM_CNT_REBUILD (k : Nat) : Nat := (k / 3) * 0x8000000 + 0x310118 + (k % 3) * 0x1000
/-- R326 Table 08-11. -/
def MEM_CNT_CAL_READS (k : Nat) : Nat := (k / 3) * 0x8000000 + 0x310120 + (k % 3) * 0x1000
/-- R326 Table 08-11. -/
def MEM_CNT_CAL_DELAY (k : Nat) : Nat := (k / 3) * 0x8000000 + 0x310128 + (k % 3) * 0x1000
/-- R326 Table 08-11. -/
def MEM_CNT_QUOTA_DELAY (k : Nat) : Nat := (k / 3) * 0x8000000 + 0x310130 + (k % 3) * 0x1000
/-- R326 Table 08-11. -/
def MEM_CNT_REFUSED (k : Nat) : Nat := (k / 3) * 0x8000000 + 0x310138 + (k % 3) * 0x1000
/-- R326 Table 08-11. -/
def MEM_CNT_RETRAIN (k : Nat) : Nat := (k / 3) * 0x8000000 + 0x310140 + (k % 3) * 0x1000
/-- R326 Table 08-12. -/
def STH_STATUS (d : Nat) : Nat := (d + 8) * 0x8000000 + 0x0
/-- R326 Table 08-12. -/
def STH_ERR_INFO (d : Nat) : Nat := (d + 8) * 0x8000000 + 0x4
/-- R326 Table 08-12. -/
def STH_CNT_REBUILD (d : Nat) : Nat := (d + 8) * 0x8000000 + 0x100
/-- R326 Table 08-12. -/
def STH_CNT_UNCORR (d : Nat) : Nat := (d + 8) * 0x8000000 + 0x108
/-- R286 Table 07-13. -/
def ANV_CTRL (d : Nat) : Nat := (d + 16) * 0x8000000 + 0x200000
/-- R286 Table 07-14. -/
def ANV_STATUS (d : Nat) : Nat := (d + 16) * 0x8000000 + 0x200004
/-- R286 Table 07-15. -/
def ANV_ERR_INFO (d : Nat) : Nat := (d + 16) * 0x8000000 + 0x200008
/-- R78 Table 02-9. -/
def ANV_FLAGS (d i : Nat) : Nat := (d + 16) * 0x8000000 + 0x200040 + i * 0x4
/-- R286 Table 07-16. -/
def ANV_CNT_SOLVES (d : Nat) : Nat := (d + 16) * 0x8000000 + 0x200100
/-- R286 Table 07-16. -/
def ANV_CNT_ITER (d : Nat) : Nat := (d + 16) * 0x8000000 + 0x200108
/-- R286 Table 07-16. -/
def ANV_CNT_RETRY (d : Nat) : Nat := (d + 16) * 0x8000000 + 0x200110
/-- R286 Table 07-16. -/
def ANV_CNT_PIVOT (d : Nat) : Nat := (d + 16) * 0x8000000 + 0x200118
/-- R286 Table 07-16. -/
def ANV_CNT_BUSY (d : Nat) : Nat := (d + 16) * 0x8000000 + 0x200120
/-- R286 Table 07-16. -/
def ANV_CNT_STOP (d : Nat) : Nat := (d + 16) * 0x8000000 + 0x200128
/-- R286 Table 07-16. -/
def ANV_CNT_REPLAY (d : Nat) : Nat := (d + 16) * 0x8000000 + 0x200130
/-- R362 Table 09-14. -/
def PKG_IRQ_ROUTE (i : Nat) : Nat := 0x80400000 + i * 0x4
/-- R362 Table 09-14. -/
def FAB_HAPT (d i : Nat) : Nat := (d + 16) * 0x8000000 + 0x410000 + i * 0x8
/-- R362 Table 09-15. -/
def RAS_HMC_STATUS (d i : Nat) : Nat := (d + 16) * 0x8000000 + 0x420000 + i * 0x20
/-- R362 Table 09-15. -/
def RAS_HMC_ADDR (d i : Nat) : Nat := (d + 16) * 0x8000000 + 0x420008 + i * 0x20
/-- R362 Table 09-15. -/
def RAS_HMC_TIME (d i : Nat) : Nat := (d + 16) * 0x8000000 + 0x420010 + i * 0x20
/-- R362 Table 09-15. -/
def RAS_HMC_INFO (d i : Nat) : Nat := (d + 16) * 0x8000000 + 0x420018 + i * 0x20
/-- R413 Table 10-11. -/
def FAB_LOC : Nat := 0xa0500000
/-- R413 Table 10-11. -/
def FAB_TOPO : Nat := 0xa0500004
/-- R413 Table 10-11. -/
def FAB_CTRL (d : Nat) : Nat := (d + 20) * 0x8000000 + 0x500008
/-- R413 Table 10-12. -/
def FAB_ERR_INFO (d : Nat) : Nat := (d + 20) * 0x8000000 + 0x50000c
/-- R413 Table 10-11. -/
def FAB_EPOCH : Nat := 0xa0500010
/-- R413 Table 10-12. -/
def FAB_PORT_STATUS (p : Nat) : Nat := portDie p * 0x8000000 + 0x500040 + portSlot p * 0x10
/-- R413 Table 10-12. -/
def FAB_PORT_CTRL (p : Nat) : Nat := portDie p * 0x8000000 + 0x500044 + portSlot p * 0x10
/-- R413 Table 10-12. -/
def FAB_PORT_VIOL (p : Nat) : Nat := portDie p * 0x8000000 + 0x500048 + portSlot p * 0x10
/-- R413 Table 10-12. -/
def FAB_ENG_STATUS (e : Nat) : Nat := (20 + e / 4) * 0x8000000 + 0x500100 + (e % 4) * 0x4
/-- R413 Table 10-13. -/
def FAB_CNT_TX (d : Nat) : Nat := (d + 20) * 0x8000000 + 0x500200
/-- R413 Table 10-13. -/
def FAB_CNT_RX (d : Nat) : Nat := (d + 20) * 0x8000000 + 0x500208
/-- R413 Table 10-13. -/
def FAB_CNT_CHECK (d : Nat) : Nat := (d + 20) * 0x8000000 + 0x500210
/-- R413 Table 10-13. -/
def FAB_CNT_RETX (d : Nat) : Nat := (d + 20) * 0x8000000 + 0x500218
/-- R413 Table 10-13. -/
def FAB_CNT_NACK (d : Nat) : Nat := (d + 20) * 0x8000000 + 0x500220
/-- R413 Table 10-13. -/
def FAB_CNT_DUP (d : Nat) : Nat := (d + 20) * 0x8000000 + 0x500228
/-- R413 Table 10-13. -/
def FAB_CNT_UNKNOWN (d : Nat) : Nat := (d + 20) * 0x8000000 + 0x500230
/-- R413 Table 10-13. -/
def FAB_CNT_HOT (d : Nat) : Nat := (d + 20) * 0x8000000 + 0x500238
/-- R413 Table 10-13. -/
def FAB_CNT_COMBINED (d : Nat) : Nat := (d + 20) * 0x8000000 + 0x500240
/-- R413 Table 10-13. -/
def FAB_CNT_VIOL (d : Nat) : Nat := (d + 20) * 0x8000000 + 0x500248
/-- R452 Table 11-12. -/
def COL_CTRL (d : Nat) : Nat := (d + 20) * 0x8000000 + 0x600000
/-- R452 Table 11-12. -/
def COL_SLOT_STATUS (d : Nat) : Nat := (d + 20) * 0x8000000 + 0x600004
/-- R78 Table 02-9. -/
def COL_FLAGS (d i : Nat) : Nat := (d + 20) * 0x8000000 + 0x600040 + i * 0x4
/-- R452 Table 11-12. -/
def COL_TRIG_STATUS (e : Nat) : Nat := (20 + e / 4) * 0x8000000 + 0x600080 + (e % 4) * 0x4
/-- R452 Table 11-13. -/
def COL_TRIG_ERR (e : Nat) : Nat := (20 + e / 4) * 0x8000000 + 0x6000a0 + (e % 4) * 0x10
/-- R452 Table 11-13. -/
def COL_TE_TIME (e : Nat) : Nat := (20 + e / 4) * 0x8000000 + 0x6000a8 + (e % 4) * 0x10
/-- R452 Table 11-14. -/
def COL_CNT_INNET (d i : Nat) : Nat := (d + 20) * 0x8000000 + 0x600100 + i * 0x20
/-- R452 Table 11-14. -/
def COL_CNT_FALLBACK (d i : Nat) : Nat := (d + 20) * 0x8000000 + 0x600108 + i * 0x20
/-- R452 Table 11-14. -/
def COL_CNT_STALL (d i : Nat) : Nat := (d + 20) * 0x8000000 + 0x600110 + i * 0x20
/-- R452 Table 11-14. -/
def COL_CNT_DETOUR (d i : Nat) : Nat := (d + 20) * 0x8000000 + 0x600118 + i * 0x20
/-- R452 Table 11-15. -/
def COL_CNT_MISMATCH (d : Nat) : Nat := (d + 20) * 0x8000000 + 0x600200
/-- R452 Table 11-15. -/
def COL_CNT_TIMEOUT (d : Nat) : Nat := (d + 20) * 0x8000000 + 0x600208
/-- R452 Table 11-15. -/
def COL_CNT_TRIG_ERR (d : Nat) : Nat := (d + 20) * 0x8000000 + 0x600210
/-- R415 R452 Table 11-13. -/
def COL_TCNT (e c : Nat) : Nat := (20 + e / 4) * 0x8000000 + 0x610000 + (e % 4) * 0x20000 + c * 8
/-- R477 Table 13-7. -/
def TIM_HALL : Nat := 0xf0800000
/-- R477 Table 13-7. -/
def TIM_BEAT : Nat := 0xf0800008
/-- R477 Table 13-7. -/
def TIM_CTRL : Nat := 0xf0800010
/-- R477 Table 13-7. -/
def TIM_STATUS : Nat := 0xf0800014
/-- R477 Table 13-7. -/
def TIM_OFFSET : Nat := 0xf0800018
/-- R477 Table 13-8. -/
def TIM_REL_AT (i : Nat) : Nat := 0xf0800040 + i * 0x10
/-- R477 Table 13-8. -/
def TIM_CTX_CFG (i : Nat) : Nat := 0xf0800048 + i * 0x10
/-- R477 Table 13-8. -/
def TIM_PAIR_CFG : Nat := 0xf0800100
/-- R477 Table 13-8. -/
def TIM_PAIR_WAIT : Nat := 0xf0800104
/-- R477 Table 13-9. -/
def TIM_PAIR_RPT_0 : Nat := 0xf0800108
/-- R477 Table 13-9. -/
def TIM_PAIR_RPT_1 : Nat := 0xf0800110
/-- R477 Table 13-9. -/
def TIM_PAIR_RPT_2 : Nat := 0xf0800118
/-- R477 Table 13-9. -/
def TIM_PAIR_RPT_3 : Nat := 0xf0800120
/-- R477 Table 13-9. -/
def TIM_PAIR_RPT_4 : Nat := 0xf0800128
/-- R477 Table 13-10. -/
def TIM_CNT_DIST_REPLAY : Nat := 0xf0800200
/-- R477 Table 13-10. -/
def TIM_CNT_DIST_SUPPLY : Nat := 0xf0800208
/-- R477 Table 13-10. -/
def TIM_CNT_DIST_THERMAL : Nat := 0xf0800210
/-- R477 Table 13-10. -/
def TIM_CNT_DIST_FABRIC : Nat := 0xf0800218
/-- R477 Table 13-10. -/
def TIM_CNT_HOLDOVER : Nat := 0xf0800220
/-- R509 Table 14-6. -/
def RAS_CTRL : Nat := 0xf0900000
/-- R509 Table 14-6. -/
def RAS_STATUS : Nat := 0xf0900004
/-- R509 Table 14-6. -/
def RAS_LOST : Nat := 0xf0900008
/-- R509 Table 14-6. -/
def RAS_CTX_CFG (i : Nat) : Nat := 0xf0900040 + i * 0x4
/-- R509 Table 14-7. -/
def RAS_CNT_DETECTED : Nat := 0xf0900100
/-- R509 Table 14-7. -/
def RAS_CNT_TRANSIENT : Nat := 0xf0900108
/-- R509 Table 14-7. -/
def RAS_CNT_LASTING : Nat := 0xf0900110
/-- R509 Table 14-7. -/
def RAS_CNT_MARCH : Nat := 0xf0900118
/-- R509 Table 14-7. -/
def RAS_CNT_TILE_REPLAY : Nat := 0xf0900120
/-- R509 Table 14-7. -/
def RAS_CNT_DESC_REPLAY : Nat := 0xf0900128
/-- R509 Table 14-7. -/
def RAS_CNT_PREIMAGE : Nat := 0xf0900130
/-- R509 Table 14-7. -/
def RAS_CNT_UNCORR : Nat := 0xf0900138
/-- R509 Table 14-7. -/
def RAS_CNT_UNKNOWN : Nat := 0xf0900140
/-- R507 Table 14-7. -/
def RAS_CNT_DOWN_NS : Nat := 0xf0900148
/-- R539 Table 15-11. -/
def CKP_CTRL (d : Nat) : Nat := (d + 28) * 0x8000000 + 0x700000
/-- R539 Table 15-11. -/
def CKP_STATUS (d : Nat) : Nat := (d + 28) * 0x8000000 + 0x700004
/-- R539 Table 15-11. -/
def CKP_ERR_INFO (d : Nat) : Nat := (d + 28) * 0x8000000 + 0x700008
/-- R539 Table 15-11. -/
def CKP_MASK_STATUS (d : Nat) : Nat := (d + 28) * 0x8000000 + 0x70000c
/-- R539 Table 15-12. -/
def CKP_CNT_BYTES_OUT (d : Nat) : Nat := (d + 28) * 0x8000000 + 0x700100
/-- R539 Table 15-12. -/
def CKP_CNT_BYTES_IN (d : Nat) : Nat := (d + 28) * 0x8000000 + 0x700108
/-- R539 Table 15-12. -/
def CKP_CNT_DEMAND_COPY (d : Nat) : Nat := (d + 28) * 0x8000000 + 0x700110
/-- R539 Table 15-12. -/
def CKP_CNT_STALL_NS (d : Nat) : Nat := (d + 28) * 0x8000000 + 0x700118
/-- R539 Table 15-12. -/
def CKP_CNT_CMD_RETRY (d : Nat) : Nat := (d + 28) * 0x8000000 + 0x700120
/-- R539 Table 15-12. -/
def CKP_CNT_REWRITE (d : Nat) : Nat := (d + 28) * 0x8000000 + 0x700128
/-- R539 Table 15-12. -/
def CKP_CNT_REATTACH (d : Nat) : Nat := (d + 28) * 0x8000000 + 0x700130
/-- R539 Table 15-11. -/
def CKP_CONN_STATUS (i : Nat) : Nat := 0xe0700400 + i * 0x4
/-- R546 Table 16-12. -/
def MGT_MB_CMD (m i : Nat) : Nat := 0xf0000000 + m * 0x1000 + i * 8
/-- R546 Table 16-12. -/
def MGT_MB_RSP (m i : Nat) : Nat := 0xf0000100 + m * 0x1000 + i * 8
/-- R578 Table 16-13. -/
def MGT_MB_DOORBELL (i : Nat) : Nat := 0xf0000200 + i * 0x1000
/-- R578 Table 16-13. -/
def MGT_MB_STATUS (i : Nat) : Nat := 0xf0000204 + i * 0x1000
/-- R578 Table 16-14. -/
def MGT_CTRL : Nat := 0xf0a00000
/-- R578 Table 16-14. -/
def MGT_STATUS : Nat := 0xf0a00004
/-- R578 Table 16-14. -/
def MGT_UC_STATUS : Nat := 0xf0a00008
/-- R560 Table 16-14. -/
def MGT_UC_GEN : Nat := 0xf0a0000c
/-- R564 Table 16-14. -/
def MGT_UC_ARM : Nat := 0xf0a00010
/-- R565 Table 16-14. -/
def MGT_UC_LAST_BEAT : Nat := 0xf0a00018
/-- R565 Table 16-14. -/
def MGT_UC_LAST_GEN : Nat := 0xf0a00020
/-- R555 Table 16-14. -/
def MGT_CAL_POLICY : Nat := 0xf0a00024
/-- R569 Table 16-14. -/
def MGT_LOG_NEXT : Nat := 0xf0a00028
/-- R544 Table 16-13. -/
def MGT_MB_BIND (i : Nat) : Nat := 0xf0a00100 + i * 0x4
/-- R578 Table 16-15. -/
def MGT_CNT_CMD : Nat := 0xf0a00200
/-- R578 Table 16-15. -/
def MGT_CNT_REJECT : Nat := 0xf0a00208
/-- R578 Table 16-15. -/
def MGT_CNT_COMMIT : Nat := 0xf0a00210
/-- R578 Table 16-15. -/
def MGT_CNT_CANCEL : Nat := 0xf0a00218
/-- R578 Table 16-15. -/
def MGT_CNT_LOG_DROP : Nat := 0xf0a00220
/-- R578 Table 16-15. -/
def MGT_CNT_RESTART : Nat := 0xf0a00228
/-- R596 Table 17-5. -/
def PWR_CTRL : Nat := 0xf8b00000
/-- R596 Table 17-5. -/
def PWR_STATUS : Nat := 0xf8b00004
/-- R596 Table 17-5. -/
def PWR_CFG : Nat := 0xf8b00008
/-- R596 Table 17-5. -/
def PWR_CAP : Nat := 0xf8b0000c
/-- R596 Table 17-5. -/
def PWR_MEAS : Nat := 0xf8b00010
/-- R596 Table 17-5. -/
def PWR_DIP : Nat := 0xf8b00014
/-- R596 Table 17-5. -/
def PWR_TJ : Nat := 0xf8b00018
/-- R596 Table 17-6. -/
def PWR_CNT_WARN : Nat := 0xf8b00100
/-- R596 Table 17-6. -/
def PWR_CNT_STRETCH_NS : Nat := 0xf8b00108
/-- R596 Table 17-6. -/
def PWR_CNT_THROTTLE_NS : Nat := 0xf8b00110
/-- R596 Table 17-6. -/
def PWR_CNT_SHED : Nat := 0xf8b00118
/-- R615 Table 18-6. -/
def SEC_STATUS : Nat := 0xf0c00000
/-- R615 Table 18-6. -/
def SEC_RKEY : Nat := 0xf0c00008
/-- R615 Table 18-6. -/
def SEC_FW_FLOOR : Nat := 0xf0c00010
/-- R615 Table 18-6. -/
def SEC_PART (i : Nat) : Nat := 0xf0c00040 + i * 0x8
/-- R615 Table 18-6. -/
def SEC_ACL (i : Nat) : Nat := 0xf0c00100 + i * 0x8
/-- R611 Table 18-6. -/
def SEC_MEAS (m i : Nat) : Nat := 0xf0c00a00 + m * 0x40 + i * 8
/-- R637 Table 19-9. -/
def PKG_STRAPS : Nat := 0xf0d00000
/-- R637 Table 19-9. -/
def PKG_BOOT : Nat := 0xf0d00004
/-- R43 Table 01-7. -/
def PKG_DIE_INFO (d : Nat) : Nat := d * 0x8000000 + 0x7ff0000

end Reg

namespace Fld

/-- R122 Table 03-8, in ARR_CTRL. -/
def ARR_CNT_FREEZE : Field := ⟨1, 1⟩
/-- R122 Table 03-8, in ARR_CTRL. -/
def ARR_CNT_CLR : Field := ⟨0, 0⟩
/-- R122 Table 03-9, in ARR_STATUS. -/
def ARR_TILES_LEFT : Field := ⟨31, 16⟩
/-- R122 Table 03-9, in ARR_STATUS. -/
def ARR_SPARES_FREE : Field := ⟨12, 8⟩
/-- R122 Table 03-9, in ARR_STATUS. -/
def ARR_SPLIT_ACTIVE : Field := ⟨7, 7⟩
/-- R122 Table 03-9, in ARR_STATUS. -/
def ARR_CTX : Field := ⟨5, 3⟩
/-- R122 Table 03-9, in ARR_STATUS. -/
def ARR_STATE : Field := ⟨2, 0⟩
/-- R122 Table 03-10, in ARR_ERR_INFO. -/
def ARR_ERR_KIND : Field := ⟨31, 28⟩
/-- R122 Table 03-10, in ARR_ERR_INFO. -/
def ARR_ERR_COL : Field := ⟨27, 18⟩
/-- R122 Table 03-10, in ARR_ERR_INFO. -/
def ARR_ERR_ROW : Field := ⟨17, 8⟩
/-- R122 Table 03-10, in ARR_ERR_INFO. -/
def ARR_ERR_SEQ : Field := ⟨7, 0⟩
/-- R78 Table 02-9, in ARR_FLAGS. -/
def ARR_FLAG_BITS : Field := ⟨4, 0⟩
/-- R123 Table 03-12, in ARR_COLMAP. -/
def ARR_MAP_VALID : Field := ⟨31, 31⟩
/-- R123 Table 03-12, in ARR_COLMAP. -/
def ARR_MAP_COL : Field := ⟨8, 0⟩
/-- R122 Table 03-11, in ARR_CNT_TILES. -/
def ARR_CNT_TILES : Field := ⟨63, 0⟩
/-- R122 Table 03-11, in ARR_CNT_BUSY. -/
def ARR_CNT_BUSY : Field := ⟨63, 0⟩
/-- R122 Table 03-11, in ARR_CNT_IDLE. -/
def ARR_CNT_IDLE : Field := ⟨63, 0⟩
/-- R122 Table 03-11, in ARR_CNT_KSPLIT. -/
def ARR_CNT_KSPLIT : Field := ⟨63, 0⟩
/-- R122 Table 03-11, in ARR_CNT_SPREAD. -/
def ARR_CNT_SPREAD : Field := ⟨63, 0⟩
/-- R122 Table 03-11, in ARR_CNT_SPECIAL. -/
def ARR_CNT_SPECIAL : Field := ⟨63, 0⟩
/-- R122 Table 03-11, in ARR_CNT_REPLAY. -/
def ARR_CNT_REPLAY : Field := ⟨63, 0⟩
/-- R157 Table 04-5, in ARR_QCTRL. -/
def ARR_QHIST_CLR : Field := ⟨15, 8⟩
/-- R157 Table 04-5, in ARR_QCTRL. -/
def ARR_QCNT_FREEZE : Field := ⟨1, 1⟩
/-- R157 Table 04-5, in ARR_QCTRL. -/
def ARR_QCNT_CLR : Field := ⟨0, 0⟩
/-- R157 Table 04-7, in ARR_CNT_QSAT. -/
def ARR_CNT_QSAT : Field := ⟨63, 0⟩
/-- R157 Table 04-7, in ARR_CNT_QFLUSH. -/
def ARR_CNT_QFLUSH : Field := ⟨63, 0⟩
/-- R157 Table 04-7, in ARR_CNT_REHEAT. -/
def ARR_CNT_REHEAT : Field := ⟨63, 0⟩
/-- R157 Table 04-7, in ARR_CNT_KEPT_NARROW. -/
def ARR_CNT_KEPT_NARROW : Field := ⟨63, 0⟩
/-- R157 Table 04-7, in ARR_CNT_SHADOW. -/
def ARR_CNT_SHADOW : Field := ⟨63, 0⟩
/-- R157 Table 04-6, in ARR_SHADOW_HIST. -/
def ARR_SHADOW_HIST : Field := ⟨31, 0⟩
/-- R197 Table 05-11, in COAT_CTRL. -/
def COAT_LATCHK : Field := ⟨2, 2⟩
/-- R197 Table 05-11, in COAT_CTRL. -/
def COAT_CNT_FREEZE : Field := ⟨1, 1⟩
/-- R197 Table 05-11, in COAT_CTRL. -/
def COAT_CNT_CLR : Field := ⟨0, 0⟩
/-- R197 Table 05-12, in COAT_STATUS. -/
def COAT_CUR_PROG : Field := ⟨31, 24⟩
/-- R197 Table 05-12, in COAT_STATUS. -/
def COAT_SPARES_FREE : Field := ⟨20, 16⟩
/-- R197 Table 05-12, in COAT_STATUS. -/
def COAT_CTX : Field := ⟨12, 10⟩
/-- R197 Table 05-12, in COAT_STATUS. -/
def COAT_STATE : Field := ⟨1, 0⟩
/-- R197 Table 05-13, in COAT_TRAP_INFO. -/
def COAT_TRAP_VALID : Field := ⟨31, 31⟩
/-- R197 Table 05-13, in COAT_TRAP_INFO. -/
def COAT_TRAP_KIND : Field := ⟨30, 30⟩
/-- R197 Table 05-13, in COAT_TRAP_INFO. -/
def COAT_TRAP_PROG : Field := ⟨29, 24⟩
/-- R197 Table 05-13, in COAT_TRAP_INFO. -/
def COAT_TRAP_BUNDLE : Field := ⟨23, 17⟩
/-- R197 Table 05-13, in COAT_TRAP_INFO. -/
def COAT_TRAP_SLOT : Field := ⟨16, 15⟩
/-- R197 Table 05-13, in COAT_TRAP_INFO. -/
def COAT_TRAP_FILE : Field := ⟨14, 13⟩
/-- R197 Table 05-13, in COAT_TRAP_INFO. -/
def COAT_TRAP_REG : Field := ⟨12, 8⟩
/-- R197 Table 05-13, in COAT_TRAP_INFO. -/
def COAT_TRAP_ROW : Field := ⟨7, 0⟩
/-- R197 Table 05-14, in COAT_LOAD_ERR. -/
def COAT_LERR_CODE : Field := ⟨31, 24⟩
/-- R197 Table 05-14, in COAT_LOAD_ERR. -/
def COAT_LERR_BUNDLE : Field := ⟨23, 17⟩
/-- R197 Table 05-14, in COAT_LOAD_ERR. -/
def COAT_LERR_SLOT : Field := ⟨16, 15⟩
/-- R197 Table 05-14, in COAT_LOAD_ERR. -/
def COAT_LERR_PROG : Field := ⟨14, 9⟩
/-- R78 Table 02-9, in COAT_FLAGS. -/
def COAT_FLAG_BITS : Field := ⟨4, 0⟩
/-- R196 Table 05-15, in COAT_LANEMAP. -/
def COAT_MAP_VALID : Field := ⟨31, 31⟩
/-- R196 Table 05-15, in COAT_LANEMAP. -/
def COAT_MAP_LANE : Field := ⟨8, 0⟩
/-- R197 Table 05-15, in COAT_PROG_INFO. -/
def COAT_PI_VALID : Field := ⟨31, 31⟩
/-- R197 Table 05-15, in COAT_PROG_INFO. -/
def COAT_PI_KIND : Field := ⟨30, 30⟩
/-- R197 Table 05-15, in COAT_PROG_INFO. -/
def COAT_PI_LUT : Field := ⟨29, 29⟩
/-- R197 Table 05-15, in COAT_PROG_INFO. -/
def COAT_PI_LEN : Field := ⟨15, 8⟩
/-- R197 Table 05-15, in COAT_PROG_INFO. -/
def COAT_PI_DELTA : Field := ⟨2, 0⟩
/-- R197 Table 05-16, in COAT_CNT_ROWS. -/
def COAT_CNT_ROWS : Field := ⟨63, 0⟩
/-- R197 Table 05-16, in COAT_CNT_ISSUE. -/
def COAT_CNT_ISSUE : Field := ⟨63, 0⟩
/-- R197 Table 05-16, in COAT_CNT_TRAP. -/
def COAT_CNT_TRAP : Field := ⟨63, 0⟩
/-- R197 Table 05-16, in COAT_CNT_REPLAY. -/
def COAT_CNT_REPLAY : Field := ⟨63, 0⟩
/-- R239 Table 06-16, in DSP_QBASE. -/
def DSP_Q_RING : Field := ⟨45, 12⟩
/-- R239 Table 06-16, in DSP_QBASE. -/
def DSP_Q_SIZE : Field := ⟨3, 0⟩
/-- R239 Table 06-15, in DSP_QCPL. -/
def DSP_Q_CPL : Field := ⟨45, 12⟩
/-- R239 Table 06-17, in DSP_QCFG. -/
def DSP_Q_CTX : Field := ⟨2, 0⟩
/-- R239 Table 06-17, in DSP_QCTRL. -/
def DSP_Q_FLUSH : Field := ⟨3, 3⟩
/-- R239 Table 06-17, in DSP_QCTRL. -/
def DSP_Q_RESUME : Field := ⟨2, 2⟩
/-- R239 Table 06-17, in DSP_QCTRL. -/
def DSP_Q_IRQEN : Field := ⟨1, 1⟩
/-- R239 Table 06-17, in DSP_QCTRL. -/
def DSP_Q_ENABLE : Field := ⟨0, 0⟩
/-- R200 R239, in DSP_QTAIL. -/
def DSP_QTAIL : Field := ⟨31, 0⟩
/-- R200 R239, in DSP_QCHEAD. -/
def DSP_QCHEAD : Field := ⟨31, 0⟩
/-- R200 R239, in DSP_QHEAD. -/
def DSP_QHEAD : Field := ⟨31, 0⟩
/-- R239 Table 06-18, in DSP_QSTATUS. -/
def DSP_Q_RINGERR : Field := ⟨17, 17⟩
/-- R239 Table 06-18, in DSP_QSTATUS. -/
def DSP_Q_DBERR : Field := ⟨16, 16⟩
/-- R239 Table 06-18, in DSP_QSTATUS. -/
def DSP_Q_LASTST : Field := ⟨15, 8⟩
/-- R239 Table 06-18, in DSP_QSTATUS. -/
def DSP_Q_STATE : Field := ⟨2, 0⟩
/-- R217 R239, in DSP_CTX_TT_BASE. -/
def DSP_TT_ADDR : Field := ⟨45, 6⟩
/-- R217 R239, in DSP_CTX_TT_BASE. -/
def DSP_TT_N : Field := ⟨3, 0⟩
/-- R239, in DSP_CTX_PARAM_BASE. -/
def DSP_PARAM_ADDR : Field := ⟨45, 6⟩
/-- R239 Table 06-19, in DSP_CTX_CTRL. -/
def DSP_CTX_FLAG_CLR : Field := ⟨0, 0⟩
/-- R239 Table 06-19, in DSP_CTX_STATUS. -/
def DSP_CTX_NREPORT : Field := ⟨15, 8⟩
/-- R239 Table 06-19, in DSP_CTX_STATUS. -/
def DSP_CTX_FWERR : Field := ⟨2, 2⟩
/-- R239 Table 06-19, in DSP_CTX_STATUS. -/
def DSP_CTX_STALLED : Field := ⟨1, 1⟩
/-- R239 Table 06-19, in DSP_CTX_STATUS. -/
def DSP_CTX_CYCLE : Field := ⟨0, 0⟩
/-- R239 Table 06-19, in DSP_CTX_STALL. -/
def DSP_CTX_STALL_US : Field := ⟨23, 0⟩
/-- R467 Table 13-3, in DSP_NUMSIG. -/
def DSP_NUMSIG : Field := ⟨63, 0⟩
/-- R234 Table 06-11, in DSP_CTX_REPORT. -/
def DSP_CTX_REPORT : Field := ⟨63, 0⟩
/-- R211 R214, in DSP_FLAG. -/
def DSP_FLAG : Field := ⟨63, 0⟩
/-- R214 R239, in DSP_FLAG_ADD. -/
def DSP_FLAG_ADD : Field := ⟨63, 0⟩
/-- R211 Table 06-19, in DSP_FLAG_ATTR. -/
def DSP_FLAG_ATTR : Field := ⟨31, 0⟩
/-- R240 Table 06-20, in DSP_FEAT. -/
def DSP_FEAT : Field := ⟨31, 0⟩
/-- R326 Table 08-8, in MEM_RG_BASE. -/
def MEM_RG_BASE : Field := ⟨45, 21⟩
/-- R326 Table 08-8, in MEM_RG_SIZE. -/
def MEM_RG_SIZE : Field := ⟨45, 21⟩
/-- R326 Table 08-8, in MEM_RG_PLACE. -/
def MEM_RG_SLOTS : Field := ⟨50, 38⟩
/-- R326 Table 08-8, in MEM_RG_PLACE. -/
def MEM_RG_SLOT_BASE : Field := ⟨37, 25⟩
/-- R326 Table 08-8, in MEM_RG_PLACE. -/
def MEM_RG_DEVS : Field := ⟨23, 0⟩
/-- R326 Table 08-8, in MEM_RG_ATTR. -/
def MEM_RG_READY : Field := ⟨31, 31⟩
/-- R326 Table 08-8, in MEM_RG_ATTR. -/
def MEM_RG_OWNER : Field := ⟨19, 17⟩
/-- R326 Table 08-8, in MEM_RG_ATTR. -/
def MEM_RG_HARDQ : Field := ⟨8, 8⟩
/-- R326 Table 08-8, in MEM_RG_ATTR. -/
def MEM_RG_CALDELAY : Field := ⟨7, 7⟩
/-- R326 Table 08-8, in MEM_RG_ATTR. -/
def MEM_RG_PRIO : Field := ⟨6, 6⟩
/-- R326 Table 08-8, in MEM_RG_ATTR. -/
def MEM_RG_ENC : Field := ⟨5, 5⟩
/-- R326 Table 08-8, in MEM_RG_ATTR. -/
def MEM_RG_PATCH : Field := ⟨4, 4⟩
/-- R326 Table 08-8, in MEM_RG_ATTR. -/
def MEM_RG_MODE : Field := ⟨3, 2⟩
/-- R326 Table 08-8, in MEM_RG_ATTR. -/
def MEM_RG_KIND : Field := ⟨1, 1⟩
/-- R326 Table 08-8, in MEM_RG_ATTR. -/
def MEM_RG_VALID : Field := ⟨0, 0⟩
/-- R326 Table 08-9, in MEM_REG. -/
def MEM_REG_BE : Field := ⟨31, 31⟩
/-- R326 Table 08-9, in MEM_REG. -/
def MEM_REG_BUDGET : Field := ⟨23, 16⟩
/-- R326 Table 08-9, in MEM_REG. -/
def MEM_REG_DEPTH : Field := ⟨15, 8⟩
/-- R326 Table 08-9, in MEM_REG. -/
def MEM_REG_RATE : Field := ⟨6, 0⟩
/-- R326 Table 08-9, in MEM_PRIO_CAP. -/
def MEM_PRIO_CAP : Field := ⟨3, 0⟩
/-- R326 Table 08-10, in MEM_STK_STATUS. -/
def MEM_RET_PC : Field := ⟨31, 26⟩
/-- R326 Table 08-10, in MEM_STK_STATUS. -/
def MEM_RET_VALID : Field := ⟨25, 25⟩
/-- R326 Table 08-10, in MEM_STK_STATUS. -/
def MEM_TEMP : Field := ⟨24, 17⟩
/-- R326 Table 08-10, in MEM_STK_STATUS. -/
def MEM_CAL_PC : Field := ⟨16, 11⟩
/-- R326 Table 08-10, in MEM_STK_STATUS. -/
def MEM_CAL_ACTIVE : Field := ⟨10, 10⟩
/-- R326 Table 08-10, in MEM_STK_STATUS. -/
def MEM_WB_COUNT : Field := ⟨9, 0⟩
/-- R326 Table 08-10, in MEM_ERR_INFO. -/
def MEM_ERR_KIND : Field := ⟨31, 28⟩
/-- R326 Table 08-10, in MEM_ERR_INFO. -/
def MEM_ERR_PC : Field := ⟨27, 22⟩
/-- R326 Table 08-10, in MEM_ERR_INFO. -/
def MEM_ERR_SLOT : Field := ⟨21, 0⟩
/-- R326 Table 08-10, in MEM_CTRL. -/
def MEM_CNT_FREEZE : Field := ⟨1, 1⟩
/-- R326 Table 08-10, in MEM_CTRL. -/
def MEM_CNT_CLR : Field := ⟨0, 0⟩
/-- R326 Table 08-11, in MEM_CNT_RD_LINES. -/
def MEM_CNT_RD_LINES : Field := ⟨63, 0⟩
/-- R326 Table 08-11, in MEM_CNT_WR_LINES. -/
def MEM_CNT_WR_LINES : Field := ⟨63, 0⟩
/-- R326 Table 08-11, in MEM_CNT_RMW. -/
def MEM_CNT_RMW : Field := ⟨63, 0⟩
/-- R326 Table 08-11, in MEM_CNT_REBUILD. -/
def MEM_CNT_REBUILD : Field := ⟨63, 0⟩
/-- R326 Table 08-11, in MEM_CNT_CAL_READS. -/
def MEM_CNT_CAL_READS : Field := ⟨63, 0⟩
/-- R326 Table 08-11, in MEM_CNT_CAL_DELAY. -/
def MEM_CNT_CAL_DELAY : Field := ⟨63, 0⟩
/-- R326 Table 08-11, in MEM_CNT_QUOTA_DELAY. -/
def MEM_CNT_QUOTA_DELAY : Field := ⟨63, 0⟩
/-- R326 Table 08-11, in MEM_CNT_REFUSED. -/
def MEM_CNT_REFUSED : Field := ⟨63, 0⟩
/-- R326 Table 08-11, in MEM_CNT_RETRAIN. -/
def MEM_CNT_RETRAIN : Field := ⟨63, 0⟩
/-- R326 Table 08-12, in STH_STATUS. -/
def STH_RET_BANK : Field := ⟨31, 24⟩
/-- R326 Table 08-12, in STH_STATUS. -/
def STH_RET_VALID : Field := ⟨23, 23⟩
/-- R326 Table 08-12, in STH_ERR_INFO. -/
def STH_ERR_KIND : Field := ⟨31, 28⟩
/-- R326 Table 08-12, in STH_ERR_INFO. -/
def STH_ERR_BANK : Field := ⟨27, 20⟩
/-- R326 Table 08-12, in STH_ERR_INFO. -/
def STH_ERR_SLOT : Field := ⟨19, 6⟩
/-- R326 Table 08-12, in STH_CNT_REBUILD. -/
def STH_CNT_REBUILD : Field := ⟨63, 0⟩
/-- R326 Table 08-12, in STH_CNT_UNCORR. -/
def STH_CNT_UNCORR : Field := ⟨63, 0⟩
/-- R286 Table 07-13, in ANV_CTRL. -/
def ANV_CNT_FREEZE : Field := ⟨1, 1⟩
/-- R286 Table 07-13, in ANV_CTRL. -/
def ANV_CNT_CLR : Field := ⟨0, 0⟩
/-- R286 Table 07-14, in ANV_STATUS. -/
def ANV_LANES : Field := ⟨31, 24⟩
/-- R286 Table 07-14, in ANV_STATUS. -/
def ANV_DLANES : Field := ⟨23, 19⟩
/-- R286 Table 07-14, in ANV_STATUS. -/
def ANV_CTX : Field := ⟨18, 16⟩
/-- R286 Table 07-14, in ANV_STATUS. -/
def ANV_METHOD : Field := ⟨15, 12⟩
/-- R286 Table 07-14, in ANV_STATUS. -/
def ANV_STATE : Field := ⟨3, 0⟩
/-- R286 Table 07-15, in ANV_ERR_INFO. -/
def ANV_ERR_KIND : Field := ⟨31, 28⟩
/-- R286 Table 07-15, in ANV_ERR_INFO. -/
def ANV_ERR_LANE : Field := ⟨27, 20⟩
/-- R286 Table 07-15, in ANV_ERR_INFO. -/
def ANV_ERR_SEQ : Field := ⟨7, 0⟩
/-- R78 Table 02-9, in ANV_FLAGS. -/
def ANV_FLAG_BITS : Field := ⟨4, 0⟩
/-- R286 Table 07-16, in ANV_CNT_SOLVES. -/
def ANV_CNT_SOLVES : Field := ⟨63, 0⟩
/-- R286 Table 07-16, in ANV_CNT_ITER. -/
def ANV_CNT_ITER : Field := ⟨63, 0⟩
/-- R286 Table 07-16, in ANV_CNT_RETRY. -/
def ANV_CNT_RETRY : Field := ⟨63, 0⟩
/-- R286 Table 07-16, in ANV_CNT_PIVOT. -/
def ANV_CNT_PIVOT : Field := ⟨63, 0⟩
/-- R286 Table 07-16, in ANV_CNT_BUSY. -/
def ANV_CNT_BUSY : Field := ⟨63, 0⟩
/-- R286 Table 07-16, in ANV_CNT_STOP. -/
def ANV_CNT_STOP : Field := ⟨63, 0⟩
/-- R286 Table 07-16, in ANV_CNT_REPLAY. -/
def ANV_CNT_REPLAY : Field := ⟨63, 0⟩
/-- R362 Table 09-14, in PKG_IRQ_ROUTE. -/
def PKG_IRQ_EN : Field := ⟨31, 31⟩
/-- R362 Table 09-14, in PKG_IRQ_ROUTE. -/
def PKG_IRQ_FILE : Field := ⟨30, 30⟩
/-- R362 Table 09-14, in PKG_IRQ_ROUTE. -/
def PKG_IRQ_CORE : Field := ⟨17, 10⟩
/-- R362 Table 09-14, in PKG_IRQ_ROUTE. -/
def PKG_IRQ_ID : Field := ⟨7, 0⟩
/-- R362 Table 09-14, in FAB_HAPT. -/
def FAB_HAPT_VALID : Field := ⟨63, 63⟩
/-- R362 Table 09-14, in FAB_HAPT. -/
def FAB_HAPT_OWNER : Field := ⟨20, 18⟩
/-- R362 Table 09-14, in FAB_HAPT. -/
def FAB_HAPT_LOC : Field := ⟨17, 0⟩
/-- R362 Table 09-15, in RAS_HMC_STATUS. -/
def RAS_HMC_VALID : Field := ⟨31, 31⟩
/-- R362 Table 09-15, in RAS_HMC_STATUS. -/
def RAS_HMC_OVER : Field := ⟨30, 30⟩
/-- R362 Table 09-15, in RAS_HMC_STATUS. -/
def RAS_HMC_RESTART : Field := ⟨29, 29⟩
/-- R362 Table 09-15, in RAS_HMC_STATUS. -/
def RAS_HMC_ASYNC : Field := ⟨28, 28⟩
/-- R362 Table 09-15, in RAS_HMC_STATUS. -/
def RAS_HMC_KIND : Field := ⟨27, 24⟩
/-- R362 Table 09-15, in RAS_HMC_STATUS. -/
def RAS_HMC_UNIT : Field := ⟨23, 20⟩
/-- R362 Table 09-15, in RAS_HMC_ADDR. -/
def RAS_HMC_LINE : Field := ⟨55, 8⟩
/-- R362 Table 09-15, in RAS_HMC_TIME. -/
def RAS_HMC_TIME : Field := ⟨63, 0⟩
/-- R362 Table 09-15, in RAS_HMC_INFO. -/
def RAS_HMC_REASON : Field := ⟨31, 24⟩
/-- R413 Table 10-11, in FAB_LOC. -/
def FAB_LOC_VALID : Field := ⟨31, 31⟩
/-- R413 Table 10-11, in FAB_LOC. -/
def FAB_LOC_VALUE : Field := ⟨17, 0⟩
/-- R413 Table 10-11, in FAB_TOPO. -/
def FAB_TOPO_TRAYS : Field := ⟨15, 12⟩
/-- R413 Table 10-11, in FAB_TOPO. -/
def FAB_TOPO_YM : Field := ⟨11, 9⟩
/-- R413 Table 10-11, in FAB_TOPO. -/
def FAB_TOPO_XM : Field := ⟨8, 6⟩
/-- R413 Table 10-11, in FAB_TOPO. -/
def FAB_TOPO_YR : Field := ⟨5, 3⟩
/-- R413 Table 10-11, in FAB_TOPO. -/
def FAB_TOPO_XR : Field := ⟨2, 0⟩
/-- R413 Table 10-11, in FAB_CTRL. -/
def FAB_REFUSE_LIMIT_US : Field := ⟨31, 16⟩
/-- R413 Table 10-11, in FAB_CTRL. -/
def FAB_CNT_FREEZE : Field := ⟨1, 1⟩
/-- R413 Table 10-11, in FAB_CTRL. -/
def FAB_CNT_CLR : Field := ⟨0, 0⟩
/-- R413 Table 10-12, in FAB_ERR_INFO. -/
def FAB_ERR_KIND : Field := ⟨31, 28⟩
/-- R413 Table 10-12, in FAB_ERR_INFO. -/
def FAB_ERR_PORT : Field := ⟨27, 22⟩
/-- R413 Table 10-12, in FAB_ERR_INFO. -/
def FAB_ERR_REASON : Field := ⟨21, 14⟩
/-- R413 Table 10-12, in FAB_ERR_INFO. -/
def FAB_ERR_SEQ : Field := ⟨7, 0⟩
/-- R413 Table 10-11, in FAB_EPOCH. -/
def FAB_EPOCH : Field := ⟨31, 0⟩
/-- R413 Table 10-12, in FAB_PORT_STATUS. -/
def FAB_PS_STATE : Field := ⟨31, 28⟩
/-- R413 Table 10-12, in FAB_PORT_STATUS. -/
def FAB_PS_LANES : Field := ⟨27, 24⟩
/-- R413 Table 10-12, in FAB_PORT_STATUS. -/
def FAB_PS_PEER_PORT : Field := ⟨23, 18⟩
/-- R413 Table 10-12, in FAB_PORT_STATUS. -/
def FAB_PS_PEER_LOC : Field := ⟨17, 0⟩
/-- R413 Table 10-12, in FAB_PORT_CTRL. -/
def FAB_PC_DISABLE : Field := ⟨1, 1⟩
/-- R413 Table 10-12, in FAB_PORT_CTRL. -/
def FAB_PC_RESTORE : Field := ⟨0, 0⟩
/-- R413 Table 10-12, in FAB_PORT_VIOL. -/
def FAB_PV_COUNT : Field := ⟨15, 0⟩
/-- R413 Table 10-12, in FAB_ENG_STATUS. -/
def FAB_ES_OWNER : Field := ⟨13, 11⟩
/-- R413 Table 10-12, in FAB_ENG_STATUS. -/
def FAB_ES_OUT : Field := ⟨9, 0⟩
/-- R413 Table 10-13, in FAB_CNT_TX. -/
def FAB_CNT_TX : Field := ⟨63, 0⟩
/-- R413 Table 10-13, in FAB_CNT_RX. -/
def FAB_CNT_RX : Field := ⟨63, 0⟩
/-- R413 Table 10-13, in FAB_CNT_CHECK. -/
def FAB_CNT_CHECK : Field := ⟨63, 0⟩
/-- R413 Table 10-13, in FAB_CNT_RETX. -/
def FAB_CNT_RETX : Field := ⟨63, 0⟩
/-- R413 Table 10-13, in FAB_CNT_NACK. -/
def FAB_CNT_NACK : Field := ⟨63, 0⟩
/-- R413 Table 10-13, in FAB_CNT_DUP. -/
def FAB_CNT_DUP : Field := ⟨63, 0⟩
/-- R413 Table 10-13, in FAB_CNT_UNKNOWN. -/
def FAB_CNT_UNKNOWN : Field := ⟨63, 0⟩
/-- R413 Table 10-13, in FAB_CNT_HOT. -/
def FAB_CNT_HOT : Field := ⟨63, 0⟩
/-- R413 Table 10-13, in FAB_CNT_COMBINED. -/
def FAB_CNT_COMBINED : Field := ⟨63, 0⟩
/-- R413 Table 10-13, in FAB_CNT_VIOL. -/
def FAB_CNT_VIOL : Field := ⟨63, 0⟩
/-- R452 Table 11-12, in COL_CTRL. -/
def COL_CNT_FREEZE : Field := ⟨1, 1⟩
/-- R452 Table 11-12, in COL_CTRL. -/
def COL_CNT_CLR : Field := ⟨0, 0⟩
/-- R452 Table 11-12, in COL_SLOT_STATUS. -/
def COL_SLOT_IDLE : Field := ⟨27, 16⟩
/-- R452 Table 11-12, in COL_SLOT_STATUS. -/
def COL_SLOT_FREE : Field := ⟨11, 0⟩
/-- R78 Table 02-9, in COL_FLAGS. -/
def COL_FLAG_BITS : Field := ⟨4, 0⟩
/-- R452 Table 11-12, in COL_TRIG_STATUS. -/
def COL_TRIG_ARMED : Field := ⟨14, 0⟩
/-- R452 Table 11-13, in COL_TRIG_ERR. -/
def COL_TE_VALID : Field := ⟨63, 63⟩
/-- R452 Table 11-13, in COL_TRIG_ERR. -/
def COL_TE_REASON : Field := ⟨29, 22⟩
/-- R452 Table 11-13, in COL_TRIG_ERR. -/
def COL_TE_ENTRY : Field := ⟨13, 0⟩
/-- R452 Table 11-13, in COL_TE_TIME. -/
def COL_TE_TIME : Field := ⟨63, 0⟩
/-- R452 Table 11-14, in COL_CNT_INNET. -/
def COL_CNT_INNET : Field := ⟨63, 0⟩
/-- R452 Table 11-14, in COL_CNT_FALLBACK. -/
def COL_CNT_FALLBACK : Field := ⟨63, 0⟩
/-- R452 Table 11-14, in COL_CNT_STALL. -/
def COL_CNT_STALL : Field := ⟨63, 0⟩
/-- R452 Table 11-14, in COL_CNT_DETOUR. -/
def COL_CNT_DETOUR : Field := ⟨63, 0⟩
/-- R452 Table 11-15, in COL_CNT_MISMATCH. -/
def COL_CNT_MISMATCH : Field := ⟨63, 0⟩
/-- R452 Table 11-15, in COL_CNT_TIMEOUT. -/
def COL_CNT_TIMEOUT : Field := ⟨63, 0⟩
/-- R452 Table 11-15, in COL_CNT_TRIG_ERR. -/
def COL_CNT_TRIG_ERR : Field := ⟨63, 0⟩
/-- R415 R452 Table 11-13, in COL_TCNT. -/
def COL_TCNT : Field := ⟨63, 0⟩
/-- R477 Table 13-7, in TIM_HALL. -/
def TIM_HALL : Field := ⟨63, 0⟩
/-- R477 Table 13-7, in TIM_BEAT. -/
def TIM_BEAT : Field := ⟨59, 0⟩
/-- R477 Table 13-7, in TIM_CTRL. -/
def TIM_TRMODE : Field := ⟨31, 31⟩
/-- R477 Table 13-7, in TIM_CTRL. -/
def TIM_SRC : Field := ⟨1, 0⟩
/-- R477 Table 13-7, in TIM_STATUS. -/
def TIM_LOCK : Field := ⟨31, 30⟩
/-- R477 Table 13-7, in TIM_STATUS. -/
def TIM_IS_MASTER : Field := ⟨29, 29⟩
/-- R477 Table 13-7, in TIM_STATUS. -/
def TIM_TR_DISTURBED : Field := ⟨28, 28⟩
/-- R477 Table 13-7, in TIM_STATUS. -/
def TIM_PARENT_LOC : Field := ⟨27, 10⟩
/-- R477 Table 13-7, in TIM_STATUS. -/
def TIM_PARENT_PORT : Field := ⟨9, 4⟩
/-- R477 Table 13-7, in TIM_OFFSET. -/
def TIM_OFFSET : Field := ⟨31, 0⟩
/-- R477 Table 13-8, in TIM_REL_AT. -/
def TIM_REL_AT : Field := ⟨63, 0⟩
/-- R477 Table 13-8, in TIM_CTX_CFG. -/
def TIM_REL_ARM : Field := ⟨31, 31⟩
/-- R477 Table 13-8, in TIM_CTX_CFG. -/
def TIM_REL_LATE : Field := ⟨30, 30⟩
/-- R477 Table 13-8, in TIM_CTX_CFG. -/
def TIM_DETMODE : Field := ⟨29, 29⟩
/-- R477 Table 13-8, in TIM_CTX_CFG. -/
def TIM_REL_FLAG : Field := ⟨11, 0⟩
/-- R477 Table 13-8, in TIM_PAIR_CFG. -/
def TIM_PAIR_EN : Field := ⟨31, 31⟩
/-- R477 Table 13-8, in TIM_PAIR_CFG. -/
def TIM_PAIR_CTX : Field := ⟨30, 28⟩
/-- R477 Table 13-8, in TIM_PAIR_CFG. -/
def TIM_PAIR_LOC : Field := ⟨17, 0⟩
/-- R477 Table 13-8, in TIM_PAIR_WAIT. -/
def TIM_PAIR_WAIT_US : Field := ⟨23, 0⟩
/-- R477 Table 13-9, in TIM_PAIR_RPT_0. -/
def TIM_PR_VALID : Field := ⟨63, 63⟩
/-- R477 Table 13-9, in TIM_PAIR_RPT_0. -/
def TIM_PR_KIND : Field := ⟨62, 61⟩
/-- R477 Table 13-9, in TIM_PAIR_RPT_0. -/
def TIM_PR_QUEUE : Field := ⟨60, 55⟩
/-- R477 Table 13-9, in TIM_PAIR_RPT_0. -/
def TIM_PR_SEQ : Field := ⟨31, 0⟩
/-- R477 Table 13-9, in TIM_PAIR_RPT_1. -/
def TIM_PR_TILE : Field := ⟨31, 0⟩
/-- R477 Table 13-9, in TIM_PAIR_RPT_2. -/
def TIM_PR_LOCAL : Field := ⟨63, 0⟩
/-- R477 Table 13-9, in TIM_PAIR_RPT_3. -/
def TIM_PR_PARTNER : Field := ⟨63, 0⟩
/-- R477 Table 13-9, in TIM_PAIR_RPT_4. -/
def TIM_PR_TIME : Field := ⟨63, 0⟩
/-- R477 Table 13-10, in TIM_CNT_DIST_REPLAY. -/
def TIM_CNT_DIST_REPLAY : Field := ⟨63, 0⟩
/-- R477 Table 13-10, in TIM_CNT_DIST_SUPPLY. -/
def TIM_CNT_DIST_SUPPLY : Field := ⟨63, 0⟩
/-- R477 Table 13-10, in TIM_CNT_DIST_THERMAL. -/
def TIM_CNT_DIST_THERMAL : Field := ⟨63, 0⟩
/-- R477 Table 13-10, in TIM_CNT_DIST_FABRIC. -/
def TIM_CNT_DIST_FABRIC : Field := ⟨63, 0⟩
/-- R477 Table 13-10, in TIM_CNT_HOLDOVER. -/
def TIM_CNT_HOLDOVER : Field := ⟨63, 0⟩
/-- R509 Table 14-6, in RAS_CTRL. -/
def RAS_CNT_FREEZE : Field := ⟨1, 1⟩
/-- R509 Table 14-6, in RAS_CTRL. -/
def RAS_CNT_CLR : Field := ⟨0, 0⟩
/-- R509 Table 14-6, in RAS_STATUS. -/
def RAS_DEGRADED : Field := ⟨31, 31⟩
/-- R509 Table 14-6, in RAS_STATUS. -/
def RAS_SPARE_LOW : Field := ⟨30, 30⟩
/-- R509 Table 14-6, in RAS_STATUS. -/
def RAS_MARCH_PEND : Field := ⟨15, 8⟩
/-- R509 Table 14-6, in RAS_STATUS. -/
def RAS_TEST_ACTIVE : Field := ⟨7, 0⟩
/-- R509 Table 14-6, in RAS_LOST. -/
def RAS_LOST : Field := ⟨31, 0⟩
/-- R509 Table 14-6, in RAS_CTX_CFG. -/
def RAS_JR_VALID : Field := ⟨31, 31⟩
/-- R509 Table 14-6, in RAS_CTX_CFG. -/
def RAS_JR_REGION : Field := ⟨21, 16⟩
/-- R509 Table 14-7, in RAS_CNT_DETECTED. -/
def RAS_CNT_DETECTED : Field := ⟨63, 0⟩
/-- R509 Table 14-7, in RAS_CNT_TRANSIENT. -/
def RAS_CNT_TRANSIENT : Field := ⟨63, 0⟩
/-- R509 Table 14-7, in RAS_CNT_LASTING. -/
def RAS_CNT_LASTING : Field := ⟨63, 0⟩
/-- R509 Table 14-7, in RAS_CNT_MARCH. -/
def RAS_CNT_MARCH : Field := ⟨63, 0⟩
/-- R509 Table 14-7, in RAS_CNT_TILE_REPLAY. -/
def RAS_CNT_TILE_REPLAY : Field := ⟨63, 0⟩
/-- R509 Table 14-7, in RAS_CNT_DESC_REPLAY. -/
def RAS_CNT_DESC_REPLAY : Field := ⟨63, 0⟩
/-- R509 Table 14-7, in RAS_CNT_PREIMAGE. -/
def RAS_CNT_PREIMAGE : Field := ⟨63, 0⟩
/-- R509 Table 14-7, in RAS_CNT_UNCORR. -/
def RAS_CNT_UNCORR : Field := ⟨63, 0⟩
/-- R509 Table 14-7, in RAS_CNT_UNKNOWN. -/
def RAS_CNT_UNKNOWN : Field := ⟨63, 0⟩
/-- R507 Table 14-7, in RAS_CNT_DOWN_NS. -/
def RAS_CNT_DOWN_NS : Field := ⟨63, 0⟩
/-- R539 Table 15-11, in CKP_CTRL. -/
def CKP_CNT_FREEZE : Field := ⟨1, 1⟩
/-- R539 Table 15-11, in CKP_CTRL. -/
def CKP_CNT_CLR : Field := ⟨0, 0⟩
/-- R539 Table 15-11, in CKP_STATUS. -/
def CKP_STATE : Field := ⟨31, 28⟩
/-- R539 Table 15-11, in CKP_STATUS. -/
def CKP_CTX : Field := ⟨27, 25⟩
/-- R539 Table 15-11, in CKP_STATUS. -/
def CKP_SHARDS_ACTIVE : Field := ⟨4, 0⟩
/-- R539 Table 15-11, in CKP_ERR_INFO. -/
def CKP_ERR_KIND : Field := ⟨31, 28⟩
/-- R539 Table 15-11, in CKP_ERR_INFO. -/
def CKP_ERR_CONN : Field := ⟨27, 22⟩
/-- R539 Table 15-11, in CKP_ERR_INFO. -/
def CKP_ERR_NVME : Field := ⟨18, 8⟩
/-- R539 Table 15-11, in CKP_ERR_INFO. -/
def CKP_ERR_SEQ : Field := ⟨7, 0⟩
/-- R539 Table 15-11, in CKP_MASK_STATUS. -/
def CKP_MASKED : Field := ⟨31, 16⟩
/-- R539 Table 15-11, in CKP_MASK_STATUS. -/
def CKP_STAGE_FREE : Field := ⟨12, 0⟩
/-- R539 Table 15-12, in CKP_CNT_BYTES_OUT. -/
def CKP_CNT_BYTES_OUT : Field := ⟨63, 0⟩
/-- R539 Table 15-12, in CKP_CNT_BYTES_IN. -/
def CKP_CNT_BYTES_IN : Field := ⟨63, 0⟩
/-- R539 Table 15-12, in CKP_CNT_DEMAND_COPY. -/
def CKP_CNT_DEMAND_COPY : Field := ⟨63, 0⟩
/-- R539 Table 15-12, in CKP_CNT_STALL_NS. -/
def CKP_CNT_STALL_NS : Field := ⟨63, 0⟩
/-- R539 Table 15-12, in CKP_CNT_CMD_RETRY. -/
def CKP_CNT_CMD_RETRY : Field := ⟨63, 0⟩
/-- R539 Table 15-12, in CKP_CNT_REWRITE. -/
def CKP_CNT_REWRITE : Field := ⟨63, 0⟩
/-- R539 Table 15-12, in CKP_CNT_REATTACH. -/
def CKP_CNT_REATTACH : Field := ⟨63, 0⟩
/-- R539 Table 15-11, in CKP_CONN_STATUS. -/
def CKP_CS_STATE : Field := ⟨31, 28⟩
/-- R539 Table 15-11, in CKP_CONN_STATUS. -/
def CKP_CS_PORT : Field := ⟨27, 27⟩
/-- R539 Table 15-11, in CKP_CONN_STATUS. -/
def CKP_CS_QUEUES : Field := ⟨26, 22⟩
/-- R539 Table 15-11, in CKP_CONN_STATUS. -/
def CKP_CS_OWNER : Field := ⟨21, 19⟩
/-- R539 Table 15-11, in CKP_CONN_STATUS. -/
def CKP_CS_LAST : Field := ⟨10, 0⟩
/-- R546 Table 16-12, in MGT_MB_CMD. -/
def MGT_MB_CMD : Field := ⟨63, 0⟩
/-- R546 Table 16-12, in MGT_MB_RSP. -/
def MGT_MB_RSP : Field := ⟨63, 0⟩
/-- R578 Table 16-13, in MGT_MB_DOORBELL. -/
def MGT_MB_TAG : Field := ⟨15, 0⟩
/-- R578 Table 16-13, in MGT_MB_STATUS. -/
def MGT_MB_BUSY : Field := ⟨31, 31⟩
/-- R578 Table 16-13, in MGT_MB_STATUS. -/
def MGT_MB_DONE : Field := ⟨30, 30⟩
/-- R578 Table 16-13, in MGT_MB_STATUS. -/
def MGT_MB_OVERRUN : Field := ⟨29, 29⟩
/-- R578 Table 16-13, in MGT_MB_STATUS. -/
def MGT_MB_REJECT : Field := ⟨28, 28⟩
/-- R578 Table 16-13, in MGT_MB_STATUS. -/
def MGT_MB_RESULT : Field := ⟨23, 16⟩
/-- R578 Table 16-13, in MGT_MB_STATUS. -/
def MGT_MB_DONE_TAG : Field := ⟨15, 0⟩
/-- R578 Table 16-14, in MGT_CTRL. -/
def MGT_CNT_FREEZE : Field := ⟨1, 1⟩
/-- R578 Table 16-14, in MGT_CTRL. -/
def MGT_CNT_CLR : Field := ⟨0, 0⟩
/-- R578 Table 16-14, in MGT_STATUS. -/
def MGT_STATE : Field := ⟨31, 28⟩
/-- R578 Table 16-14, in MGT_STATUS. -/
def MGT_SLOT_RUN : Field := ⟨27, 27⟩
/-- R578 Table 16-14, in MGT_STATUS. -/
def MGT_SLOT_NEXT : Field := ⟨26, 26⟩
/-- R578 Table 16-14, in MGT_STATUS. -/
def MGT_SLOT_A_VALID : Field := ⟨25, 25⟩
/-- R578 Table 16-14, in MGT_STATUS. -/
def MGT_SLOT_B_VALID : Field := ⟨24, 24⟩
/-- R578 Table 16-14, in MGT_STATUS. -/
def MGT_CMDSET_MAJOR : Field := ⟨23, 16⟩
/-- R578 Table 16-14, in MGT_STATUS. -/
def MGT_CMDSET_MINOR : Field := ⟨15, 8⟩
/-- R578 Table 16-14, in MGT_UC_STATUS. -/
def MGT_UC_STATE : Field := ⟨31, 30⟩
/-- R578 Table 16-14, in MGT_UC_STATUS. -/
def MGT_UC_HOLDER : Field := ⟨29, 26⟩
/-- R578 Table 16-14, in MGT_UC_STATUS. -/
def MGT_UC_ENTRIES : Field := ⟨12, 0⟩
/-- R560 Table 16-14, in MGT_UC_GEN. -/
def MGT_UC_GEN : Field := ⟨31, 0⟩
/-- R564 Table 16-14, in MGT_UC_ARM. -/
def MGT_UC_ARM : Field := ⟨59, 0⟩
/-- R565 Table 16-14, in MGT_UC_LAST_BEAT. -/
def MGT_UC_LAST_BEAT : Field := ⟨59, 0⟩
/-- R565 Table 16-14, in MGT_UC_LAST_GEN. -/
def MGT_UC_LAST_GEN : Field := ⟨31, 0⟩
/-- R555 Table 16-14, in MGT_CAL_POLICY. -/
def MGT_CAL_TRIG : Field := ⟨11, 8⟩
/-- R555 Table 16-14, in MGT_CAL_POLICY. -/
def MGT_CAL_INTERVAL : Field := ⟨4, 0⟩
/-- R569 Table 16-14, in MGT_LOG_NEXT. -/
def MGT_LOG_NEXT : Field := ⟨63, 0⟩
/-- R544 Table 16-13, in MGT_MB_BIND. -/
def MGT_MB_BVALID : Field := ⟨31, 31⟩
/-- R544 Table 16-13, in MGT_MB_BIND. -/
def MGT_MB_ROLE : Field := ⟨30, 28⟩
/-- R544 Table 16-13, in MGT_MB_BIND. -/
def MGT_MB_PART : Field := ⟨27, 25⟩
/-- R544 Table 16-13, in MGT_MB_BIND. -/
def MGT_MB_OOB : Field := ⟨24, 24⟩
/-- R544 Table 16-13, in MGT_MB_BIND. -/
def MGT_MB_PCIE0 : Field := ⟨23, 23⟩
/-- R544 Table 16-13, in MGT_MB_BIND. -/
def MGT_MB_PCIE1 : Field := ⟨22, 22⟩
/-- R544 Table 16-13, in MGT_MB_BIND. -/
def MGT_MB_GROUPS : Field := ⟨15, 0⟩
/-- R578 Table 16-15, in MGT_CNT_CMD. -/
def MGT_CNT_CMD : Field := ⟨63, 0⟩
/-- R578 Table 16-15, in MGT_CNT_REJECT. -/
def MGT_CNT_REJECT : Field := ⟨63, 0⟩
/-- R578 Table 16-15, in MGT_CNT_COMMIT. -/
def MGT_CNT_COMMIT : Field := ⟨63, 0⟩
/-- R578 Table 16-15, in MGT_CNT_CANCEL. -/
def MGT_CNT_CANCEL : Field := ⟨63, 0⟩
/-- R578 Table 16-15, in MGT_CNT_LOG_DROP. -/
def MGT_CNT_LOG_DROP : Field := ⟨63, 0⟩
/-- R578 Table 16-15, in MGT_CNT_RESTART. -/
def MGT_CNT_RESTART : Field := ⟨63, 0⟩
/-- R596 Table 17-5, in PWR_CTRL. -/
def PWR_CNT_FREEZE : Field := ⟨1, 1⟩
/-- R596 Table 17-5, in PWR_CTRL. -/
def PWR_CNT_CLR : Field := ⟨0, 0⟩
/-- R596 Table 17-5, in PWR_STATUS. -/
def PWR_WARN_STICKY : Field := ⟨31, 31⟩
/-- R596 Table 17-5, in PWR_STATUS. -/
def PWR_STRETCHED : Field := ⟨30, 30⟩
/-- R596 Table 17-5, in PWR_STATUS. -/
def PWR_FAB_HELD : Field := ⟨29, 29⟩
/-- R596 Table 17-5, in PWR_STATUS. -/
def PWR_THROTTLE_T : Field := ⟨28, 28⟩
/-- R596 Table 17-5, in PWR_STATUS. -/
def PWR_THROTTLE_P : Field := ⟨27, 27⟩
/-- R596 Table 17-5, in PWR_STATUS. -/
def PWR_THROTTLE_STICKY : Field := ⟨26, 26⟩
/-- R596 Table 17-5, in PWR_STATUS. -/
def PWR_CAP_UNMET : Field := ⟨25, 25⟩
/-- R596 Table 17-5, in PWR_STATUS. -/
def PWR_COLD_STOP_LAST : Field := ⟨24, 24⟩
/-- R596 Table 17-5, in PWR_STATUS. -/
def PWR_TRIP_LAST : Field := ⟨23, 23⟩
/-- R596 Table 17-5, in PWR_STATUS. -/
def PWR_LEVEL_MAX : Field := ⟨19, 16⟩
/-- R596 Table 17-5, in PWR_CFG. -/
def PWR_HOST_THROTTLE : Field := ⟨16, 16⟩
/-- R596 Table 17-5, in PWR_CFG. -/
def PWR_THR_START : Field := ⟨15, 8⟩
/-- R596 Table 17-5, in PWR_CFG. -/
def PWR_THR_RELEASE : Field := ⟨7, 0⟩
/-- R596 Table 17-5, in PWR_CAP. -/
def PWR_CAP_W : Field := ⟨15, 0⟩
/-- R596 Table 17-5, in PWR_MEAS. -/
def PWR_VIN_MV : Field := ⟨31, 16⟩
/-- R596 Table 17-5, in PWR_MEAS. -/
def PWR_PIN_W : Field := ⟨15, 0⟩
/-- R596 Table 17-5, in PWR_DIP. -/
def PWR_DIP_MIN_MV : Field := ⟨31, 16⟩
/-- R596 Table 17-5, in PWR_DIP. -/
def PWR_DIP_US : Field := ⟨15, 0⟩
/-- R596 Table 17-5, in PWR_TJ. -/
def PWR_TJ_SENSOR : Field := ⟨23, 16⟩
/-- R596 Table 17-5, in PWR_TJ. -/
def PWR_TJ_MAX : Field := ⟨15, 0⟩
/-- R596 Table 17-6, in PWR_CNT_WARN. -/
def PWR_CNT_WARN : Field := ⟨63, 0⟩
/-- R596 Table 17-6, in PWR_CNT_STRETCH_NS. -/
def PWR_CNT_STRETCH_NS : Field := ⟨63, 0⟩
/-- R596 Table 17-6, in PWR_CNT_THROTTLE_NS. -/
def PWR_CNT_THROTTLE_NS : Field := ⟨63, 0⟩
/-- R596 Table 17-6, in PWR_CNT_SHED. -/
def PWR_CNT_SHED : Field := ⟨63, 0⟩
/-- R615 Table 18-6, in SEC_STATUS. -/
def SEC_KEYS : Field := ⟨21, 12⟩
/-- R615 Table 18-6, in SEC_STATUS. -/
def SEC_PENDING : Field := ⟨11, 8⟩
/-- R615 Table 18-6, in SEC_STATUS. -/
def SEC_CKEYS : Field := ⟨7, 0⟩
/-- R615 Table 18-6, in SEC_RKEY. -/
def SEC_RKEY : Field := ⟨63, 0⟩
/-- R615 Table 18-6, in SEC_FW_FLOOR. -/
def SEC_FW_FLOOR : Field := ⟨31, 0⟩
/-- R615 Table 18-6, in SEC_PART. -/
def SEC_PART_VALID : Field := ⟨63, 63⟩
/-- R615 Table 18-6, in SEC_PART. -/
def SEC_PART_ANVILS : Field := ⟨35, 32⟩
/-- R615 Table 18-6, in SEC_PART. -/
def SEC_PART_GROUPS : Field := ⟨31, 16⟩
/-- R615 Table 18-6, in SEC_PART. -/
def SEC_PART_ENGINES : Field := ⟨15, 8⟩
/-- R615 Table 18-6, in SEC_PART. -/
def SEC_PART_DIES : Field := ⟨7, 0⟩
/-- R615 Table 18-6, in SEC_ACL. -/
def SEC_ACL_VALID : Field := ⟨63, 63⟩
/-- R615 Table 18-6, in SEC_ACL. -/
def SEC_ACL_CTX : Field := ⟨45, 45⟩
/-- R615 Table 18-6, in SEC_ACL. -/
def SEC_ACL_RIGHTS : Field := ⟨44, 42⟩
/-- R615 Table 18-6, in SEC_ACL. -/
def SEC_ACL_TARGET : Field := ⟨41, 36⟩
/-- R615 Table 18-6, in SEC_ACL. -/
def SEC_ACL_LAST : Field := ⟨35, 18⟩
/-- R615 Table 18-6, in SEC_ACL. -/
def SEC_ACL_FIRST : Field := ⟨17, 0⟩
/-- R611 Table 18-6, in SEC_MEAS. -/
def SEC_MEAS : Field := ⟨63, 0⟩
/-- R637 Table 19-9, in PKG_STRAPS. -/
def PKG_STRAP_TEST : Field := ⟨7, 7⟩
/-- R637 Table 19-9, in PKG_STRAPS. -/
def PKG_STRAP_PCIE1 : Field := ⟨6, 5⟩
/-- R637 Table 19-9, in PKG_STRAPS. -/
def PKG_STRAP_PCIE0 : Field := ⟨4, 3⟩
/-- R637 Table 19-9, in PKG_STRAPS. -/
def PKG_STRAP_OOB : Field := ⟨2, 2⟩
/-- R637 Table 19-9, in PKG_STRAPS. -/
def PKG_STRAP_POS : Field := ⟨1, 0⟩
/-- R637 Table 19-9, in PKG_BOOT. -/
def PKG_BOOT_STAGE : Field := ⟨31, 28⟩
/-- R637 Table 19-9, in PKG_BOOT. -/
def PKG_BOOT_FAIL : Field := ⟨27, 24⟩
/-- R637 Table 19-9, in PKG_BOOT. -/
def PKG_BOOT_MS : Field := ⟨23, 0⟩
/-- R43 Table 01-7, in PKG_DIE_INFO. -/
def PKG_STEPPING : Field := ⟨31, 24⟩
/-- R43 Table 01-7, in PKG_DIE_INFO. -/
def PKG_MESH_ROW : Field := ⟨21, 20⟩
/-- R43 Table 01-7, in PKG_DIE_INFO. -/
def PKG_MESH_COL : Field := ⟨19, 17⟩
/-- R43 Table 01-7, in PKG_DIE_INFO. -/
def PKG_ISLAND : Field := ⟨16, 12⟩
/-- R43 Table 01-7, in PKG_DIE_INFO. -/
def PKG_DIE_KIND : Field := ⟨11, 8⟩
/-- R43 Table 01-7, in PKG_DIE_INFO. -/
def PKG_DIE_NUMBER : Field := ⟨4, 0⟩

end Fld

/-- The register rows of the array dies. -/
def arrayRegs : List RegSpec :=
  [⟨"ARR_CTRL", 0x100000, 1, 0x0, 4, false, false, [⟨1, 1, .rw, 0⟩, ⟨0, 0, .wo, 0⟩]⟩,
   ⟨"ARR_STATUS", 0x100004, 1, 0x0, 4, false, false, [⟨31, 16, .ro, 0⟩, ⟨12, 8, .roKept, 0x10⟩, ⟨7, 7, .ro, 0⟩, ⟨5, 3, .ro, 0⟩, ⟨2, 0, .ro, 0⟩]⟩,
   ⟨"ARR_ERR_INFO", 0x100008, 1, 0x0, 4, false, false, [⟨31, 28, .ro, 0⟩, ⟨27, 18, .ro, 0⟩, ⟨17, 8, .ro, 0⟩, ⟨7, 0, .ro, 0⟩]⟩,
   ⟨"ARR_FLAGS", 0x100040, 8, 0x4, 4, false, false, [⟨4, 0, .rw1c, 0⟩]⟩,
   ⟨"ARR_COLMAP", 0x100080, 16, 0x4, 4, false, false, [⟨31, 31, .roKept, 0⟩, ⟨8, 0, .roKept, 0⟩]⟩,
   ⟨"ARR_CNT_TILES", 0x100100, 1, 0x0, 8, false, false, [⟨63, 0, .roCount, 0⟩]⟩,
   ⟨"ARR_CNT_BUSY", 0x100108, 1, 0x0, 8, false, false, [⟨63, 0, .roCount, 0⟩]⟩,
   ⟨"ARR_CNT_IDLE", 0x100110, 1, 0x0, 8, false, false, [⟨63, 0, .roCount, 0⟩]⟩,
   ⟨"ARR_CNT_KSPLIT", 0x100118, 1, 0x0, 8, false, false, [⟨63, 0, .roCount, 0⟩]⟩,
   ⟨"ARR_CNT_SPREAD", 0x100120, 1, 0x0, 8, false, false, [⟨63, 0, .roCount, 0⟩]⟩,
   ⟨"ARR_CNT_SPECIAL", 0x100128, 1, 0x0, 8, false, false, [⟨63, 0, .roCount, 0⟩]⟩,
   ⟨"ARR_CNT_REPLAY", 0x100130, 1, 0x0, 8, false, false, [⟨63, 0, .roCount, 0⟩]⟩] ++
  [⟨"ARR_QCTRL", 0x100200, 1, 0x0, 4, false, false, [⟨15, 8, .wo, 0⟩, ⟨1, 1, .rw, 0⟩, ⟨0, 0, .wo, 0⟩]⟩,
   ⟨"ARR_CNT_QSAT", 0x100208, 1, 0x0, 8, false, false, [⟨63, 0, .roCount, 0⟩]⟩,
   ⟨"ARR_CNT_QFLUSH", 0x100210, 1, 0x0, 8, false, false, [⟨63, 0, .roCount, 0⟩]⟩,
   ⟨"ARR_CNT_REHEAT", 0x100218, 1, 0x0, 8, false, false, [⟨63, 0, .roCount, 0⟩]⟩,
   ⟨"ARR_CNT_KEPT_NARROW", 0x100220, 1, 0x0, 8, false, false, [⟨63, 0, .roCount, 0⟩]⟩,
   ⟨"ARR_CNT_SHADOW", 0x100228, 1, 0x0, 8, false, false, [⟨63, 0, .roCount, 0⟩]⟩,
   ⟨"ARR_SHADOW_HIST", 0x100400, 256, 0x4, 4, false, false, [⟨31, 0, .roCount, 0⟩]⟩,
   ⟨"COAT_CTRL", 0x120000, 1, 0x0, 4, false, false, [⟨2, 2, .rw, 0⟩, ⟨1, 1, .rw, 0⟩, ⟨0, 0, .wo, 0⟩]⟩,
   ⟨"COAT_STATUS", 0x120004, 1, 0x0, 4, false, false, [⟨31, 24, .ro, 0xff⟩, ⟨20, 16, .roKept, 0x10⟩, ⟨12, 10, .ro, 0⟩, ⟨1, 0, .ro, 0⟩]⟩,
   ⟨"COAT_TRAP_INFO", 0x120008, 1, 0x0, 4, false, false, [⟨31, 31, .rw1c, 0⟩, ⟨30, 30, .ro, 0⟩, ⟨29, 24, .ro, 0⟩, ⟨23, 17, .ro, 0⟩, ⟨16, 15, .ro, 0⟩, ⟨14, 13, .ro, 0⟩, ⟨12, 8, .ro, 0⟩, ⟨7, 0, .ro, 0⟩]⟩,
   ⟨"COAT_LOAD_ERR", 0x12000c, 1, 0x0, 4, false, false, [⟨31, 24, .ro, 0⟩, ⟨23, 17, .ro, 0⟩, ⟨16, 15, .ro, 0⟩, ⟨14, 9, .ro, 0⟩]⟩,
   ⟨"COAT_FLAGS", 0x120040, 8, 0x4, 4, false, false, [⟨4, 0, .rw1c, 0⟩]⟩] ++
  [⟨"COAT_LANEMAP", 0x120080, 16, 0x4, 4, false, false, [⟨31, 31, .roKept, 0⟩, ⟨8, 0, .roKept, 0⟩]⟩,
   ⟨"COAT_PROG_INFO", 0x120100, 64, 0x4, 4, false, false, [⟨31, 31, .ro, 0⟩, ⟨30, 30, .ro, 0⟩, ⟨29, 29, .ro, 0⟩, ⟨15, 8, .ro, 0⟩, ⟨2, 0, .ro, 0⟩]⟩,
   ⟨"COAT_CNT_ROWS", 0x120200, 1, 0x0, 8, false, false, [⟨63, 0, .roCount, 0⟩]⟩,
   ⟨"COAT_CNT_ISSUE", 0x120208, 1, 0x0, 8, false, false, [⟨63, 0, .roCount, 0⟩]⟩,
   ⟨"COAT_CNT_TRAP", 0x120210, 1, 0x0, 8, false, false, [⟨63, 0, .roCount, 0⟩]⟩,
   ⟨"COAT_CNT_REPLAY", 0x120218, 1, 0x0, 8, false, false, [⟨63, 0, .roCount, 0⟩]⟩,
   ⟨"DSP_QBASE", 0x140000, 8, 0x40, 8, false, false, [⟨45, 12, .rw, 0⟩, ⟨3, 0, .rw, 0⟩]⟩,
   ⟨"DSP_QCPL", 0x140008, 8, 0x40, 8, false, false, [⟨45, 12, .rw, 0⟩]⟩,
   ⟨"DSP_QCFG", 0x140010, 8, 0x40, 4, false, false, [⟨2, 0, .st, 0⟩]⟩,
   ⟨"DSP_QCTRL", 0x140014, 8, 0x40, 4, false, false, [⟨3, 3, .wo, 0⟩, ⟨2, 2, .wo, 0⟩, ⟨1, 1, .rw, 0⟩, ⟨0, 0, .rw, 0⟩]⟩,
   ⟨"DSP_QTAIL", 0x140018, 8, 0x40, 4, false, false, [⟨31, 0, .rw, 0⟩]⟩,
   ⟨"DSP_QCHEAD", 0x14001c, 8, 0x40, 4, false, false, [⟨31, 0, .rw, 0⟩]⟩] ++
  [⟨"DSP_QHEAD", 0x140020, 8, 0x40, 4, false, false, [⟨31, 0, .rw, 0⟩]⟩,
   ⟨"DSP_QSTATUS", 0x140024, 8, 0x40, 4, false, false, [⟨17, 17, .rw1c, 0⟩, ⟨16, 16, .rw1c, 0⟩, ⟨15, 8, .ro, 0⟩, ⟨2, 0, .ro, 0⟩]⟩,
   ⟨"DSP_CTX_TT_BASE", 0x160000, 1, 0x0, 8, false, false, [⟨45, 6, .rw, 0⟩, ⟨3, 0, .rw, 0⟩]⟩,
   ⟨"DSP_CTX_PARAM_BASE", 0x160008, 1, 0x0, 8, false, false, [⟨45, 6, .rw, 0⟩]⟩,
   ⟨"DSP_CTX_CTRL", 0x160010, 1, 0x0, 4, false, false, [⟨0, 0, .wo, 0⟩]⟩,
   ⟨"DSP_CTX_STATUS", 0x160014, 1, 0x0, 4, false, false, [⟨15, 8, .ro, 0⟩, ⟨2, 2, .rw1c, 0⟩, ⟨1, 1, .rw1c, 0⟩, ⟨0, 0, .rw1c, 0⟩]⟩,
   ⟨"DSP_CTX_STALL", 0x160018, 1, 0x0, 4, false, false, [⟨23, 0, .rw, 0x2710⟩]⟩,
   ⟨"DSP_NUMSIG", 0x160020, 1, 0x0, 8, false, false, [⟨63, 0, .roView, 0⟩]⟩,
   ⟨"DSP_CTX_REPORT", 0x161000, 128, 0x8, 8, false, false, [⟨63, 0, .ro, 0⟩]⟩,
   ⟨"DSP_FLAG", 0x180000, 4096, 0x8, 8, false, false, [⟨63, 0, .rw, 0⟩]⟩,
   ⟨"DSP_FLAG_ADD", 0x190000, 4096, 0x8, 8, false, false, [⟨63, 0, .wo, 0⟩]⟩,
   ⟨"DSP_FLAG_ATTR", 0x1a0000, 128, 0x4, 4, false, false, [⟨31, 0, .st, 0⟩]⟩] ++
  [⟨"DSP_FEAT", 0x1c0000, 19, 0x4, 4, true, false, [⟨31, 0, .roView, 0⟩]⟩,
   ⟨"MEM_RG_BASE", 0x300000, 64, 0x20, 8, true, false, [⟨45, 21, .st, 0⟩]⟩,
   ⟨"MEM_RG_SIZE", 0x300008, 64, 0x20, 8, true, false, [⟨45, 21, .st, 0⟩]⟩,
   ⟨"MEM_RG_PLACE", 0x300010, 64, 0x20, 8, true, false, [⟨50, 38, .st, 0⟩, ⟨37, 25, .st, 0⟩, ⟨23, 0, .st, 0⟩]⟩,
   ⟨"MEM_RG_ATTR", 0x300018, 64, 0x20, 4, true, false, [⟨31, 31, .roKept, 0⟩, ⟨19, 17, .lk, 0⟩, ⟨8, 8, .st, 0⟩, ⟨7, 7, .st, 1⟩, ⟨6, 6, .st, 0⟩, ⟨5, 5, .st, 0⟩, ⟨4, 4, .st, 0⟩, ⟨3, 2, .st, 0⟩, ⟨1, 1, .st, 0⟩, ⟨0, 0, .st, 0⟩]⟩,
   ⟨"MEM_REG", 0x300800, 8, 0x4, 4, true, false, [⟨31, 31, .st, 1⟩, ⟨23, 16, .st, 0x14⟩, ⟨15, 8, .st, 8⟩, ⟨6, 0, .st, 0⟩]⟩,
   ⟨"MEM_PRIO_CAP", 0x300880, 1, 0x0, 4, true, false, [⟨3, 0, .st, 0xa⟩]⟩,
   ⟨"MEM_STK_STATUS", 0x310000, 3, 0x1000, 4, false, false, [⟨31, 26, .roKept, 0⟩, ⟨25, 25, .roKept, 0⟩, ⟨24, 17, .roKept, 0⟩, ⟨16, 11, .ro, 0⟩, ⟨10, 10, .ro, 0⟩, ⟨9, 0, .ro, 0⟩]⟩,
   ⟨"MEM_ERR_INFO", 0x310004, 3, 0x1000, 4, false, false, [⟨31, 28, .ro, 0⟩, ⟨27, 22, .ro, 0⟩, ⟨21, 0, .ro, 0⟩]⟩,
   ⟨"MEM_CTRL", 0x310008, 3, 0x1000, 4, false, false, [⟨1, 1, .rw, 0⟩, ⟨0, 0, .wo, 0⟩]⟩,
   ⟨"MEM_CNT_RD_LINES", 0x310100, 3, 0x1000, 8, false, false, [⟨63, 0, .roCount, 0⟩]⟩,
   ⟨"MEM_CNT_WR_LINES", 0x310108, 3, 0x1000, 8, false, false, [⟨63, 0, .roCount, 0⟩]⟩] ++
  [⟨"MEM_CNT_RMW", 0x310110, 3, 0x1000, 8, false, false, [⟨63, 0, .roCount, 0⟩]⟩,
   ⟨"MEM_CNT_REBUILD", 0x310118, 3, 0x1000, 8, false, false, [⟨63, 0, .roCount, 0⟩]⟩,
   ⟨"MEM_CNT_CAL_READS", 0x310120, 3, 0x1000, 8, false, false, [⟨63, 0, .roCount, 0⟩]⟩,
   ⟨"MEM_CNT_CAL_DELAY", 0x310128, 3, 0x1000, 8, false, false, [⟨63, 0, .roCount, 0⟩]⟩,
   ⟨"MEM_CNT_QUOTA_DELAY", 0x310130, 3, 0x1000, 8, false, false, [⟨63, 0, .roCount, 0⟩]⟩,
   ⟨"MEM_CNT_REFUSED", 0x310138, 3, 0x1000, 8, false, false, [⟨63, 0, .roCount, 0⟩]⟩,
   ⟨"MEM_CNT_RETRAIN", 0x310140, 3, 0x1000, 8, false, false, [⟨63, 0, .roCount, 0⟩]⟩]

/-- The register rows of the stash dies. -/
def stashRegs : List RegSpec :=
  [⟨"STH_STATUS", 0x0, 1, 0x0, 4, false, false, [⟨31, 24, .roKept, 0⟩, ⟨23, 23, .roKept, 0⟩]⟩,
   ⟨"STH_ERR_INFO", 0x4, 1, 0x0, 4, false, false, [⟨31, 28, .ro, 0⟩, ⟨27, 20, .ro, 0⟩, ⟨19, 6, .ro, 0⟩]⟩,
   ⟨"STH_CNT_REBUILD", 0x100, 1, 0x0, 8, false, false, [⟨63, 0, .roCount, 0⟩]⟩,
   ⟨"STH_CNT_UNCORR", 0x108, 1, 0x0, 8, false, false, [⟨63, 0, .roCount, 0⟩]⟩]

/-- The register rows of the host dies. -/
def hostRegs : List RegSpec :=
  [⟨"ANV_CTRL", 0x200000, 1, 0x0, 4, false, false, [⟨1, 1, .rw, 0⟩, ⟨0, 0, .wo, 0⟩]⟩,
   ⟨"ANV_STATUS", 0x200004, 1, 0x0, 4, false, false, [⟨31, 24, .roKept, 0x80⟩, ⟨23, 19, .roKept, 0x10⟩, ⟨18, 16, .ro, 0⟩, ⟨15, 12, .ro, 0⟩, ⟨3, 0, .ro, 0⟩]⟩,
   ⟨"ANV_ERR_INFO", 0x200008, 1, 0x0, 4, false, false, [⟨31, 28, .ro, 0⟩, ⟨27, 20, .ro, 0⟩, ⟨7, 0, .ro, 0⟩]⟩,
   ⟨"ANV_FLAGS", 0x200040, 8, 0x4, 4, false, false, [⟨4, 0, .rw1c, 0⟩]⟩,
   ⟨"ANV_CNT_SOLVES", 0x200100, 1, 0x0, 8, false, false, [⟨63, 0, .roCount, 0⟩]⟩,
   ⟨"ANV_CNT_ITER", 0x200108, 1, 0x0, 8, false, false, [⟨63, 0, .roCount, 0⟩]⟩,
   ⟨"ANV_CNT_RETRY", 0x200110, 1, 0x0, 8, false, false, [⟨63, 0, .roCount, 0⟩]⟩,
   ⟨"ANV_CNT_PIVOT", 0x200118, 1, 0x0, 8, false, false, [⟨63, 0, .roCount, 0⟩]⟩,
   ⟨"ANV_CNT_BUSY", 0x200120, 1, 0x0, 8, false, false, [⟨63, 0, .roCount, 0⟩]⟩,
   ⟨"ANV_CNT_STOP", 0x200128, 1, 0x0, 8, false, false, [⟨63, 0, .roCount, 0⟩]⟩,
   ⟨"ANV_CNT_REPLAY", 0x200130, 1, 0x0, 8, false, false, [⟨63, 0, .roCount, 0⟩]⟩,
   ⟨"PKG_IRQ_ROUTE", 0x400000, 256, 0x4, 4, false, true, [⟨31, 31, .lk, 0⟩, ⟨30, 30, .lk, 0⟩, ⟨17, 10, .lk, 0⟩, ⟨7, 0, .lk, 0⟩]⟩] ++
  [⟨"FAB_HAPT", 0x410000, 64, 0x8, 8, false, false, [⟨63, 63, .lk, 0⟩, ⟨20, 18, .lk, 0⟩, ⟨17, 0, .lk, 0⟩]⟩,
   ⟨"RAS_HMC_STATUS", 0x420000, 36, 0x20, 4, false, false, [⟨31, 31, .rw1c, 0⟩, ⟨30, 30, .ro, 0⟩, ⟨29, 29, .ro, 0⟩, ⟨28, 28, .ro, 0⟩, ⟨27, 24, .ro, 0⟩, ⟨23, 20, .ro, 0⟩]⟩,
   ⟨"RAS_HMC_ADDR", 0x420008, 36, 0x20, 8, false, false, [⟨55, 8, .ro, 0⟩]⟩,
   ⟨"RAS_HMC_TIME", 0x420010, 36, 0x20, 8, false, false, [⟨63, 0, .ro, 0⟩]⟩,
   ⟨"RAS_HMC_INFO", 0x420018, 36, 0x20, 4, false, false, [⟨31, 24, .ro, 0⟩]⟩]

/-- The register rows of the fabric dies. -/
def fabricRegs : List RegSpec :=
  [⟨"FAB_LOC", 0x500000, 1, 0x0, 4, true, false, [⟨31, 31, .st, 0⟩, ⟨17, 0, .st, 0⟩]⟩,
   ⟨"FAB_TOPO", 0x500004, 1, 0x0, 4, true, false, [⟨15, 12, .st, 0xf⟩, ⟨11, 9, .st, 0⟩, ⟨8, 6, .st, 0⟩, ⟨5, 3, .st, 0⟩, ⟨2, 0, .st, 0⟩]⟩,
   ⟨"FAB_CTRL", 0x500008, 1, 0x0, 4, false, false, [⟨31, 16, .rw, 0x3e8⟩, ⟨1, 1, .rw, 0⟩, ⟨0, 0, .wo, 0⟩]⟩,
   ⟨"FAB_ERR_INFO", 0x50000c, 1, 0x0, 4, false, false, [⟨31, 28, .ro, 0⟩, ⟨27, 22, .ro, 0⟩, ⟨21, 14, .ro, 0⟩, ⟨7, 0, .ro, 0⟩]⟩,
   ⟨"FAB_EPOCH", 0x500010, 1, 0x0, 4, true, false, [⟨31, 0, .roKept, 0⟩]⟩,
   ⟨"FAB_PORT_STATUS", 0x500040, 5, 0x10, 4, false, false, [⟨31, 28, .roKept, 0⟩, ⟨27, 24, .roKept, 0⟩, ⟨23, 18, .roKept, 0⟩, ⟨17, 0, .roKept, 0⟩]⟩,
   ⟨"FAB_PORT_CTRL", 0x500044, 5, 0x10, 4, false, false, [⟨1, 1, .lk, 0⟩, ⟨0, 0, .woLk, 0⟩]⟩,
   ⟨"FAB_PORT_VIOL", 0x500048, 5, 0x10, 4, false, false, [⟨15, 0, .ro, 0⟩]⟩,
   ⟨"FAB_ENG_STATUS", 0x500100, 4, 0x4, 4, false, false, [⟨13, 11, .ro, 0⟩, ⟨9, 0, .ro, 0⟩]⟩,
   ⟨"FAB_CNT_TX", 0x500200, 1, 0x0, 8, false, false, [⟨63, 0, .roCount, 0⟩]⟩,
   ⟨"FAB_CNT_RX", 0x500208, 1, 0x0, 8, false, false, [⟨63, 0, .roCount, 0⟩]⟩,
   ⟨"FAB_CNT_CHECK", 0x500210, 1, 0x0, 8, false, false, [⟨63, 0, .roCount, 0⟩]⟩] ++
  [⟨"FAB_CNT_RETX", 0x500218, 1, 0x0, 8, false, false, [⟨63, 0, .roCount, 0⟩]⟩,
   ⟨"FAB_CNT_NACK", 0x500220, 1, 0x0, 8, false, false, [⟨63, 0, .roCount, 0⟩]⟩,
   ⟨"FAB_CNT_DUP", 0x500228, 1, 0x0, 8, false, false, [⟨63, 0, .roCount, 0⟩]⟩,
   ⟨"FAB_CNT_UNKNOWN", 0x500230, 1, 0x0, 8, false, false, [⟨63, 0, .roCount, 0⟩]⟩,
   ⟨"FAB_CNT_HOT", 0x500238, 1, 0x0, 8, false, false, [⟨63, 0, .roCount, 0⟩]⟩,
   ⟨"FAB_CNT_COMBINED", 0x500240, 1, 0x0, 8, false, false, [⟨63, 0, .roCount, 0⟩]⟩,
   ⟨"FAB_CNT_VIOL", 0x500248, 1, 0x0, 8, false, false, [⟨63, 0, .roCount, 0⟩]⟩,
   ⟨"COL_CTRL", 0x600000, 1, 0x0, 4, false, false, [⟨1, 1, .rw, 0⟩, ⟨0, 0, .wo, 0⟩]⟩,
   ⟨"COL_SLOT_STATUS", 0x600004, 1, 0x0, 4, false, false, [⟨27, 16, .ro, 0⟩, ⟨11, 0, .ro, 0x800⟩]⟩,
   ⟨"COL_FLAGS", 0x600040, 8, 0x4, 4, false, false, [⟨4, 0, .rw1c, 0⟩]⟩,
   ⟨"COL_TRIG_STATUS", 0x600080, 4, 0x4, 4, false, false, [⟨14, 0, .roView, 0⟩]⟩,
   ⟨"COL_TRIG_ERR", 0x6000a0, 4, 0x10, 8, false, false, [⟨63, 63, .rw1c, 0⟩, ⟨29, 22, .ro, 0⟩, ⟨13, 0, .ro, 0⟩]⟩] ++
  [⟨"COL_TE_TIME", 0x6000a8, 4, 0x10, 8, false, false, [⟨63, 0, .ro, 0⟩]⟩,
   ⟨"COL_CNT_INNET", 0x600100, 5, 0x20, 8, false, false, [⟨63, 0, .roCount, 0⟩]⟩,
   ⟨"COL_CNT_FALLBACK", 0x600108, 5, 0x20, 8, false, false, [⟨63, 0, .roCount, 0⟩]⟩,
   ⟨"COL_CNT_STALL", 0x600110, 5, 0x20, 8, false, false, [⟨63, 0, .roCount, 0⟩]⟩,
   ⟨"COL_CNT_DETOUR", 0x600118, 5, 0x20, 8, false, false, [⟨63, 0, .roCount, 0⟩]⟩,
   ⟨"COL_CNT_MISMATCH", 0x600200, 1, 0x0, 8, false, false, [⟨63, 0, .roCount, 0⟩]⟩,
   ⟨"COL_CNT_TIMEOUT", 0x600208, 1, 0x0, 8, false, false, [⟨63, 0, .roCount, 0⟩]⟩,
   ⟨"COL_CNT_TRIG_ERR", 0x600210, 1, 0x0, 8, false, false, [⟨63, 0, .roCount, 0⟩]⟩,
   ⟨"COL_TCNT", 0x610000, 65536, 0x8, 8, false, false, [⟨63, 0, .lkCount, 0⟩]⟩]

/-- The register rows of the io dies. -/
def ioRegs : List RegSpec :=
  [⟨"CKP_CTRL", 0x700000, 1, 0x0, 4, false, false, [⟨1, 1, .rw, 0⟩, ⟨0, 0, .wo, 0⟩]⟩,
   ⟨"CKP_STATUS", 0x700004, 1, 0x0, 4, false, false, [⟨31, 28, .ro, 0⟩, ⟨27, 25, .ro, 0⟩, ⟨4, 0, .ro, 0⟩]⟩,
   ⟨"CKP_ERR_INFO", 0x700008, 1, 0x0, 4, false, false, [⟨31, 28, .ro, 0⟩, ⟨27, 22, .ro, 0⟩, ⟨18, 8, .ro, 0⟩, ⟨7, 0, .ro, 0⟩]⟩,
   ⟨"CKP_MASK_STATUS", 0x70000c, 1, 0x0, 4, false, false, [⟨31, 16, .ro, 0⟩, ⟨12, 0, .ro, 0⟩]⟩,
   ⟨"CKP_CNT_BYTES_OUT", 0x700100, 1, 0x0, 8, false, false, [⟨63, 0, .roCount, 0⟩]⟩,
   ⟨"CKP_CNT_BYTES_IN", 0x700108, 1, 0x0, 8, false, false, [⟨63, 0, .roCount, 0⟩]⟩,
   ⟨"CKP_CNT_DEMAND_COPY", 0x700110, 1, 0x0, 8, false, false, [⟨63, 0, .roCount, 0⟩]⟩,
   ⟨"CKP_CNT_STALL_NS", 0x700118, 1, 0x0, 8, false, false, [⟨63, 0, .roCount, 0⟩]⟩,
   ⟨"CKP_CNT_CMD_RETRY", 0x700120, 1, 0x0, 8, false, false, [⟨63, 0, .roCount, 0⟩]⟩,
   ⟨"CKP_CNT_REWRITE", 0x700128, 1, 0x0, 8, false, false, [⟨63, 0, .roCount, 0⟩]⟩,
   ⟨"CKP_CNT_REATTACH", 0x700130, 1, 0x0, 8, false, false, [⟨63, 0, .roCount, 0⟩]⟩,
   ⟨"CKP_CONN_STATUS", 0x700400, 64, 0x4, 4, true, false, [⟨31, 28, .ro, 0⟩, ⟨27, 27, .ro, 0⟩, ⟨26, 22, .ro, 0⟩, ⟨21, 19, .ro, 0⟩, ⟨10, 0, .ro, 0⟩]⟩]

/-- The register rows of the mgmt dies. -/
def mgmtRegs : List RegSpec :=
  [⟨"TIM_HALL", 0x800000, 1, 0x0, 8, false, false, [⟨63, 0, .roView, 0⟩]⟩,
   ⟨"TIM_BEAT", 0x800008, 1, 0x0, 8, false, false, [⟨59, 0, .roView, 0⟩]⟩,
   ⟨"TIM_CTRL", 0x800010, 1, 0x0, 4, false, false, [⟨31, 31, .st, 0⟩, ⟨1, 0, .st, 0⟩]⟩,
   ⟨"TIM_STATUS", 0x800014, 1, 0x0, 4, false, false, [⟨31, 30, .roKept, 0⟩, ⟨29, 29, .roView, 0⟩, ⟨28, 28, .rw1c, 0⟩, ⟨27, 10, .roKept, 0⟩, ⟨9, 4, .roKept, 0⟩]⟩,
   ⟨"TIM_OFFSET", 0x800018, 1, 0x0, 4, false, false, [⟨31, 0, .roKept, 0⟩]⟩,
   ⟨"TIM_REL_AT", 0x800040, 8, 0x10, 8, false, false, [⟨63, 0, .lk, 0⟩]⟩,
   ⟨"TIM_CTX_CFG", 0x800048, 8, 0x10, 4, false, false, [⟨31, 31, .lk, 0⟩, ⟨30, 30, .rw1c, 0⟩, ⟨29, 29, .st, 0⟩, ⟨11, 0, .lk, 0⟩]⟩,
   ⟨"TIM_PAIR_CFG", 0x800100, 1, 0x0, 4, false, false, [⟨31, 31, .roKept, 0⟩, ⟨30, 28, .roKept, 0⟩, ⟨17, 0, .roKept, 0⟩]⟩,
   ⟨"TIM_PAIR_WAIT", 0x800104, 1, 0x0, 4, false, false, [⟨23, 0, .rw, 0x2710⟩]⟩,
   ⟨"TIM_PAIR_RPT_0", 0x800108, 1, 0x0, 8, false, false, [⟨63, 63, .rw1c, 0⟩, ⟨62, 61, .ro, 0⟩, ⟨60, 55, .ro, 0⟩, ⟨31, 0, .ro, 0⟩]⟩,
   ⟨"TIM_PAIR_RPT_1", 0x800110, 1, 0x0, 8, false, false, [⟨31, 0, .ro, 0⟩]⟩,
   ⟨"TIM_PAIR_RPT_2", 0x800118, 1, 0x0, 8, false, false, [⟨63, 0, .ro, 0⟩]⟩] ++
  [⟨"TIM_PAIR_RPT_3", 0x800120, 1, 0x0, 8, false, false, [⟨63, 0, .ro, 0⟩]⟩,
   ⟨"TIM_PAIR_RPT_4", 0x800128, 1, 0x0, 8, false, false, [⟨63, 0, .ro, 0⟩]⟩,
   ⟨"TIM_CNT_DIST_REPLAY", 0x800200, 1, 0x0, 8, false, false, [⟨63, 0, .roCount, 0⟩]⟩,
   ⟨"TIM_CNT_DIST_SUPPLY", 0x800208, 1, 0x0, 8, false, false, [⟨63, 0, .roCount, 0⟩]⟩,
   ⟨"TIM_CNT_DIST_THERMAL", 0x800210, 1, 0x0, 8, false, false, [⟨63, 0, .roCount, 0⟩]⟩,
   ⟨"TIM_CNT_DIST_FABRIC", 0x800218, 1, 0x0, 8, false, false, [⟨63, 0, .roCount, 0⟩]⟩,
   ⟨"TIM_CNT_HOLDOVER", 0x800220, 1, 0x0, 8, false, false, [⟨63, 0, .roCount, 0⟩]⟩,
   ⟨"RAS_CTRL", 0x900000, 1, 0x0, 4, false, false, [⟨1, 1, .rw, 0⟩, ⟨0, 0, .wo, 0⟩]⟩,
   ⟨"RAS_STATUS", 0x900004, 1, 0x0, 4, false, false, [⟨31, 31, .roKept, 0⟩, ⟨30, 30, .roKept, 0⟩, ⟨15, 8, .ro, 0⟩, ⟨7, 0, .ro, 0⟩]⟩,
   ⟨"RAS_LOST", 0x900008, 1, 0x0, 4, false, false, [⟨31, 0, .roKept, 0⟩]⟩,
   ⟨"RAS_CTX_CFG", 0x900040, 8, 0x4, 4, false, false, [⟨31, 31, .st, 0⟩, ⟨21, 16, .st, 0⟩]⟩,
   ⟨"RAS_CNT_DETECTED", 0x900100, 1, 0x0, 8, false, false, [⟨63, 0, .roCount, 0⟩]⟩] ++
  [⟨"RAS_CNT_TRANSIENT", 0x900108, 1, 0x0, 8, false, false, [⟨63, 0, .roCount, 0⟩]⟩,
   ⟨"RAS_CNT_LASTING", 0x900110, 1, 0x0, 8, false, false, [⟨63, 0, .roCount, 0⟩]⟩,
   ⟨"RAS_CNT_MARCH", 0x900118, 1, 0x0, 8, false, false, [⟨63, 0, .roCount, 0⟩]⟩,
   ⟨"RAS_CNT_TILE_REPLAY", 0x900120, 1, 0x0, 8, false, false, [⟨63, 0, .roCount, 0⟩]⟩,
   ⟨"RAS_CNT_DESC_REPLAY", 0x900128, 1, 0x0, 8, false, false, [⟨63, 0, .roCount, 0⟩]⟩,
   ⟨"RAS_CNT_PREIMAGE", 0x900130, 1, 0x0, 8, false, false, [⟨63, 0, .roCount, 0⟩]⟩,
   ⟨"RAS_CNT_UNCORR", 0x900138, 1, 0x0, 8, false, false, [⟨63, 0, .roCount, 0⟩]⟩,
   ⟨"RAS_CNT_UNKNOWN", 0x900140, 1, 0x0, 8, false, false, [⟨63, 0, .roCount, 0⟩]⟩,
   ⟨"RAS_CNT_DOWN_NS", 0x900148, 1, 0x0, 8, false, false, [⟨63, 0, .roKept, 0⟩]⟩,
   ⟨"MGT_MB_CMD", 0x0, 32, 0x8, 8, false, false, [⟨63, 0, .rw, 0⟩]⟩,
   ⟨"MGT_MB_CMD", 0x1000, 32, 0x8, 8, false, false, [⟨63, 0, .rw, 0⟩]⟩,
   ⟨"MGT_MB_CMD", 0x2000, 32, 0x8, 8, false, false, [⟨63, 0, .rw, 0⟩]⟩] ++
  [⟨"MGT_MB_CMD", 0x3000, 32, 0x8, 8, false, false, [⟨63, 0, .rw, 0⟩]⟩,
   ⟨"MGT_MB_CMD", 0x4000, 32, 0x8, 8, false, false, [⟨63, 0, .rw, 0⟩]⟩,
   ⟨"MGT_MB_CMD", 0x5000, 32, 0x8, 8, false, false, [⟨63, 0, .rw, 0⟩]⟩,
   ⟨"MGT_MB_CMD", 0x6000, 32, 0x8, 8, false, false, [⟨63, 0, .rw, 0⟩]⟩,
   ⟨"MGT_MB_CMD", 0x7000, 32, 0x8, 8, false, false, [⟨63, 0, .rw, 0⟩]⟩,
   ⟨"MGT_MB_CMD", 0x8000, 32, 0x8, 8, false, false, [⟨63, 0, .rw, 0⟩]⟩,
   ⟨"MGT_MB_CMD", 0x9000, 32, 0x8, 8, false, false, [⟨63, 0, .rw, 0⟩]⟩,
   ⟨"MGT_MB_CMD", 0xa000, 32, 0x8, 8, false, false, [⟨63, 0, .rw, 0⟩]⟩,
   ⟨"MGT_MB_CMD", 0xb000, 32, 0x8, 8, false, false, [⟨63, 0, .rw, 0⟩]⟩,
   ⟨"MGT_MB_CMD", 0xc000, 32, 0x8, 8, false, false, [⟨63, 0, .rw, 0⟩]⟩,
   ⟨"MGT_MB_CMD", 0xd000, 32, 0x8, 8, false, false, [⟨63, 0, .rw, 0⟩]⟩,
   ⟨"MGT_MB_CMD", 0xe000, 32, 0x8, 8, false, false, [⟨63, 0, .rw, 0⟩]⟩] ++
  [⟨"MGT_MB_CMD", 0xf000, 32, 0x8, 8, false, false, [⟨63, 0, .rw, 0⟩]⟩,
   ⟨"MGT_MB_RSP", 0x100, 32, 0x8, 8, false, false, [⟨63, 0, .ro, 0⟩]⟩,
   ⟨"MGT_MB_RSP", 0x1100, 32, 0x8, 8, false, false, [⟨63, 0, .ro, 0⟩]⟩,
   ⟨"MGT_MB_RSP", 0x2100, 32, 0x8, 8, false, false, [⟨63, 0, .ro, 0⟩]⟩,
   ⟨"MGT_MB_RSP", 0x3100, 32, 0x8, 8, false, false, [⟨63, 0, .ro, 0⟩]⟩,
   ⟨"MGT_MB_RSP", 0x4100, 32, 0x8, 8, false, false, [⟨63, 0, .ro, 0⟩]⟩,
   ⟨"MGT_MB_RSP", 0x5100, 32, 0x8, 8, false, false, [⟨63, 0, .ro, 0⟩]⟩,
   ⟨"MGT_MB_RSP", 0x6100, 32, 0x8, 8, false, false, [⟨63, 0, .ro, 0⟩]⟩,
   ⟨"MGT_MB_RSP", 0x7100, 32, 0x8, 8, false, false, [⟨63, 0, .ro, 0⟩]⟩,
   ⟨"MGT_MB_RSP", 0x8100, 32, 0x8, 8, false, false, [⟨63, 0, .ro, 0⟩]⟩,
   ⟨"MGT_MB_RSP", 0x9100, 32, 0x8, 8, false, false, [⟨63, 0, .ro, 0⟩]⟩,
   ⟨"MGT_MB_RSP", 0xa100, 32, 0x8, 8, false, false, [⟨63, 0, .ro, 0⟩]⟩] ++
  [⟨"MGT_MB_RSP", 0xb100, 32, 0x8, 8, false, false, [⟨63, 0, .ro, 0⟩]⟩,
   ⟨"MGT_MB_RSP", 0xc100, 32, 0x8, 8, false, false, [⟨63, 0, .ro, 0⟩]⟩,
   ⟨"MGT_MB_RSP", 0xd100, 32, 0x8, 8, false, false, [⟨63, 0, .ro, 0⟩]⟩,
   ⟨"MGT_MB_RSP", 0xe100, 32, 0x8, 8, false, false, [⟨63, 0, .ro, 0⟩]⟩,
   ⟨"MGT_MB_RSP", 0xf100, 32, 0x8, 8, false, false, [⟨63, 0, .ro, 0⟩]⟩,
   ⟨"MGT_MB_DOORBELL", 0x200, 16, 0x1000, 4, false, false, [⟨15, 0, .wo, 0⟩]⟩,
   ⟨"MGT_MB_STATUS", 0x204, 16, 0x1000, 4, false, false, [⟨31, 31, .ro, 0⟩, ⟨30, 30, .ro, 0⟩, ⟨29, 29, .rw1c, 0⟩, ⟨28, 28, .rw1c, 0⟩, ⟨23, 16, .ro, 0⟩, ⟨15, 0, .ro, 0⟩]⟩,
   ⟨"MGT_CTRL", 0xa00000, 1, 0x0, 4, false, false, [⟨1, 1, .rw, 0⟩, ⟨0, 0, .wo, 0⟩]⟩,
   ⟨"MGT_STATUS", 0xa00004, 1, 0x0, 4, false, false, [⟨31, 28, .roKept, 0⟩, ⟨27, 27, .roKept, 0⟩, ⟨26, 26, .roKept, 0⟩, ⟨25, 25, .roKept, 1⟩, ⟨24, 24, .roKept, 0⟩, ⟨23, 16, .roKept, 1⟩, ⟨15, 8, .roKept, 0⟩]⟩,
   ⟨"MGT_UC_STATUS", 0xa00008, 1, 0x0, 4, false, false, [⟨31, 30, .roKept, 0⟩, ⟨29, 26, .roKept, 0⟩, ⟨12, 0, .roView, 0⟩]⟩,
   ⟨"MGT_UC_GEN", 0xa0000c, 1, 0x0, 4, false, false, [⟨31, 0, .roKept, 0⟩]⟩,
   ⟨"MGT_UC_ARM", 0xa00010, 1, 0x0, 8, false, false, [⟨59, 0, .roKept, 0⟩]⟩] ++
  [⟨"MGT_UC_LAST_BEAT", 0xa00018, 1, 0x0, 8, false, false, [⟨59, 0, .roKept, 0⟩]⟩,
   ⟨"MGT_UC_LAST_GEN", 0xa00020, 1, 0x0, 4, false, false, [⟨31, 0, .roKept, 0⟩]⟩,
   ⟨"MGT_CAL_POLICY", 0xa00024, 1, 0x0, 4, false, false, [⟨11, 8, .st, 5⟩, ⟨4, 0, .st, 5⟩]⟩,
   ⟨"MGT_LOG_NEXT", 0xa00028, 1, 0x0, 8, false, false, [⟨63, 0, .roView, 0⟩]⟩,
   ⟨"MGT_MB_BIND", 0xa00100, 16, 0x4, 4, false, false, [⟨31, 31, .st, 0⟩, ⟨30, 28, .st, 0⟩, ⟨27, 25, .st, 0⟩, ⟨24, 24, .st, 0⟩, ⟨23, 23, .st, 0⟩, ⟨22, 22, .st, 0⟩, ⟨15, 0, .st, 0⟩]⟩,
   ⟨"MGT_CNT_CMD", 0xa00200, 1, 0x0, 8, false, false, [⟨63, 0, .roCount, 0⟩]⟩,
   ⟨"MGT_CNT_REJECT", 0xa00208, 1, 0x0, 8, false, false, [⟨63, 0, .roCount, 0⟩]⟩,
   ⟨"MGT_CNT_COMMIT", 0xa00210, 1, 0x0, 8, false, false, [⟨63, 0, .roCount, 0⟩]⟩,
   ⟨"MGT_CNT_CANCEL", 0xa00218, 1, 0x0, 8, false, false, [⟨63, 0, .roCount, 0⟩]⟩,
   ⟨"MGT_CNT_LOG_DROP", 0xa00220, 1, 0x0, 8, false, false, [⟨63, 0, .roCount, 0⟩]⟩,
   ⟨"MGT_CNT_RESTART", 0xa00228, 1, 0x0, 8, false, false, [⟨63, 0, .roCount, 0⟩]⟩,
   ⟨"SEC_STATUS", 0xc00000, 1, 0x0, 4, false, false, [⟨21, 12, .roView, 0⟩, ⟨11, 8, .roView, 0⟩, ⟨7, 0, .roView, 0⟩]⟩] ++
  [⟨"SEC_RKEY", 0xc00008, 1, 0x0, 8, false, false, [⟨63, 0, .roKept, 0⟩]⟩,
   ⟨"SEC_FW_FLOOR", 0xc00010, 1, 0x0, 4, false, false, [⟨31, 0, .st, 0⟩]⟩,
   ⟨"SEC_PART", 0xc00040, 8, 0x8, 8, false, false, [⟨63, 63, .st, 0⟩, ⟨35, 32, .st, 0⟩, ⟨31, 16, .st, 0⟩, ⟨15, 8, .st, 0⟩, ⟨7, 0, .st, 0⟩]⟩,
   ⟨"SEC_ACL", 0xc00100, 256, 0x8, 8, false, false, [⟨63, 63, .st, 0⟩, ⟨45, 45, .st, 0⟩, ⟨44, 42, .st, 0⟩, ⟨41, 36, .st, 0⟩, ⟨35, 18, .st, 0⟩, ⟨17, 0, .st, 0⟩]⟩,
   ⟨"SEC_MEAS", 0xc00a00, 6, 0x8, 8, false, false, [⟨63, 0, .roKept, 0⟩]⟩,
   ⟨"SEC_MEAS", 0xc00a40, 6, 0x8, 8, false, false, [⟨63, 0, .roKept, 0⟩]⟩,
   ⟨"SEC_MEAS", 0xc00a80, 6, 0x8, 8, false, false, [⟨63, 0, .roKept, 0⟩]⟩,
   ⟨"SEC_MEAS", 0xc00ac0, 6, 0x8, 8, false, false, [⟨63, 0, .roKept, 0⟩]⟩,
   ⟨"SEC_MEAS", 0xc00b00, 6, 0x8, 8, false, false, [⟨63, 0, .roKept, 0⟩]⟩,
   ⟨"SEC_MEAS", 0xc00b40, 6, 0x8, 8, false, false, [⟨63, 0, .roKept, 0⟩]⟩,
   ⟨"SEC_MEAS", 0xc00b80, 6, 0x8, 8, false, false, [⟨63, 0, .roKept, 0⟩]⟩,
   ⟨"SEC_MEAS", 0xc00bc0, 6, 0x8, 8, false, false, [⟨63, 0, .roKept, 0⟩]⟩] ++
  [⟨"PKG_STRAPS", 0xd00000, 1, 0x0, 4, false, false, [⟨7, 7, .roKept, 0⟩, ⟨6, 5, .roKept, 0⟩, ⟨4, 3, .roKept, 0⟩, ⟨2, 2, .roKept, 0⟩, ⟨1, 0, .roKept, 0⟩]⟩,
   ⟨"PKG_BOOT", 0xd00004, 1, 0x0, 4, false, false, [⟨31, 28, .roKept, 0⟩, ⟨27, 24, .roKept, 0⟩, ⟨23, 0, .roKept, 0⟩]⟩]

/-- The register rows of the power dies. -/
def powerRegs : List RegSpec :=
  [⟨"PWR_CTRL", 0xb00000, 1, 0x0, 4, false, false, [⟨1, 1, .rw, 0⟩, ⟨0, 0, .wo, 0⟩]⟩,
   ⟨"PWR_STATUS", 0xb00004, 1, 0x0, 4, false, false, [⟨31, 31, .rw1c, 0⟩, ⟨30, 30, .roKept, 0⟩, ⟨29, 29, .roKept, 0⟩, ⟨28, 28, .roKept, 0⟩, ⟨27, 27, .roKept, 0⟩, ⟨26, 26, .rw1c, 0⟩, ⟨25, 25, .rw1c, 0⟩, ⟨24, 24, .rw1c, 0⟩, ⟨23, 23, .rw1c, 0⟩, ⟨19, 16, .roKept, 0⟩]⟩,
   ⟨"PWR_CFG", 0xb00008, 1, 0x0, 4, false, false, [⟨16, 16, .st, 1⟩, ⟨15, 8, .st, 0x61⟩, ⟨7, 0, .st, 0x5f⟩]⟩,
   ⟨"PWR_CAP", 0xb0000c, 1, 0x0, 4, false, false, [⟨15, 0, .roKept, 0x1f40⟩]⟩,
   ⟨"PWR_MEAS", 0xb00010, 1, 0x0, 4, false, false, [⟨31, 16, .roKept, 0⟩, ⟨15, 0, .roKept, 0⟩]⟩,
   ⟨"PWR_DIP", 0xb00014, 1, 0x0, 4, false, false, [⟨31, 16, .roKept, 0⟩, ⟨15, 0, .roKept, 0⟩]⟩,
   ⟨"PWR_TJ", 0xb00018, 1, 0x0, 4, false, false, [⟨23, 16, .roKept, 0⟩, ⟨15, 0, .roKept, 0⟩]⟩,
   ⟨"PWR_CNT_WARN", 0xb00100, 1, 0x0, 8, false, false, [⟨63, 0, .roCount, 0⟩]⟩,
   ⟨"PWR_CNT_STRETCH_NS", 0xb00108, 1, 0x0, 8, false, false, [⟨63, 0, .roCount, 0⟩]⟩,
   ⟨"PWR_CNT_THROTTLE_NS", 0xb00110, 1, 0x0, 8, false, false, [⟨63, 0, .roCount, 0⟩]⟩,
   ⟨"PWR_CNT_SHED", 0xb00118, 1, 0x0, 8, false, false, [⟨63, 0, .roCount, 0⟩]⟩]

/-- The die header, in every die's block (R43). -/
def headerRegs : List RegSpec :=
  [⟨"PKG_DIE_INFO", 0x7ff0000, 1, 0, 4, false, false, [⟨31, 24, .roView, 0⟩, ⟨21, 20, .roView, 0⟩, ⟨19, 17, .roView, 0⟩, ⟨16, 12, .roView, 0⟩, ⟨11, 8, .roView, 0⟩, ⟨4, 0, .roView, 0⟩]⟩]

end Sys2Proof.Machine
end

