-- ==== Sys2Proof/Machine/RegFile.lean ====
section
/-! DEFINITION. Looking a register up by its MMIO offset: which row of the register map covers it, its canonical offset, its reset word,
and the masks of its access codes (R9, R11, R38, R41, R43). -/

namespace Sys2Proof.Machine

/-- The register rows in the block of a die, ports of odd fabric dies cut to the four they carry (R364). -/
def regsOfDie (die : Nat) : List RegSpec :=
  if die < 8 then arrayRegs
  else if die < 16 then stashRegs
  else if die < 20 then hostRegs
  else if die < 28 then
    (if die % 2 = 1 then fabricRegs.map (fun s => if s.count = 5 ∧ s.stride = 0x10 then { s with count := 4 } else s) else fabricRegs)
  else if die < 30 then ioRegs
  else if die = 30 then mgmtRegs
  else if die = 31 then powerRegs
  else []

/-- The lowest die of a die's kind (Table 00-2). -/
def firstDieOfKind (die : Nat) : Nat :=
  if die < 8 then 0 else if die < 16 then 8 else if die < 20 then 16 else if die < 28 then 20 else if die < 30 then 28 else die

/-- A row covers a block offset. -/
def RegSpec.covers (s : RegSpec) (die blk : Nat) : Bool :=
  s.off ≤ blk && (blk - s.off) / s.stride < s.count && (blk - s.off) % s.stride < s.bytes && (!s.first || die == firstDieOfKind die)

/-- A register found: its row, its index within the row, and its canonical offset in the MMIO range. -/
structure RegHit where
  spec : RegSpec
  index : Nat
  key : Nat
  deriving DecidableEq, Repr

/-- The register that covers an MMIO offset, if a chapter assigns one (R41). -/
def findReg (off : Nat) : Option RegHit :=
  let die := off / blockBytes
  let blk := off % blockBytes
  match (regsOfDie die ++ headerRegs).find? (fun s => s.covers die blk) with
  | none => none
  | some s =>
    let i := (blk - s.off) / s.stride
    let d := if s.shared then firstDieOfKind die else die
    some ⟨s, i, d * blockBytes + s.off + i * s.stride⟩

/-- The mailbox bindings of a first start (Table 16-2). -/
def bindReset (m : Nat) : Nat :=
  if m = 0 then 2 ^ 31 + 1 * 2 ^ 28 + 2 ^ 24
  else if m = 1 then 2 ^ 31 + 0xffff
  else if m = 15 then 2 ^ 31 + 3 * 2 ^ 28 + 2 ^ 24
  else 0

/-- The reset word of a row's fields (Table 00-5's Reset column). -/
def fieldsReset (fs : List FieldSpec) : Nat := fs.foldl (fun a f => a ||| (f.reset <<< f.lo)) 0

/-- What an unlisted register reads as: its reset word; zero where no register is assigned (R41). -/
def regDefault (off : Nat) : W64 :=
  match findReg off with
  | none => 0
  | some h => BitVec.ofNat 64 (if h.spec.name = "MGT_MB_BIND" then bindReset h.index else fieldsReset h.spec.fields)

/-- The mask of a row's fields that an access code admits. -/
def RegSpec.mask (s : RegSpec) (p : Access → Bool) : W64 :=
  s.fields.foldl (fun m f => if p f.acc then m ||| fieldMask f.hi f.lo else m) 0

/-- Fields a plain write sets. -/
def RegSpec.rwMask (s : RegSpec) : W64 := s.mask (fun a => a == .rw)

/-- Fields that a 1 clears. -/
def RegSpec.w1cMask (s : RegSpec) : W64 := s.mask (fun a => a == .rw1c)

/-- Fields that a write stages (R559). -/
def RegSpec.stMask (s : RegSpec) : W64 := s.mask (fun a => a == .st)

/-- Fields that a right guards (R10). -/
def RegSpec.lkMask (s : RegSpec) : W64 := s.mask (fun a => a == .lk || a == .lkCount)

/-- Fields that act as their description states and read as zero. -/
def RegSpec.woMask (s : RegSpec) : W64 := s.mask (fun a => a == .wo || a == .woLk)

/-- The mask of every assigned field; the rest reads as zero (R11). -/
def RegSpec.allMask (s : RegSpec) : W64 := s.mask (fun _ => true)

/-- What a read returns: WO fields read zero, reserved bits read zero (R9, R11). -/
def RegSpec.readBack (s : RegSpec) (w : W64) : W64 := w &&& s.allMask &&& ~~~s.woMask

end Sys2Proof.Machine
end

