-- ==== Sys2Proof/Machine/State.lean ====
section
/-! DEFINITION. The state of the package as plain data, the queue of waiting commands, and the package as it stands before standby
power arrives for the first time. Every register of the register map lives in `regs`; everything else the spec gives the package is a
field beside it. -/

namespace Sys2Proof.Machine

/-- A log record before it has a sequence number (Table 16-10). Class 0 marks a record that is not an event. -/
structure LogRec where
  superseded : Bool
  die : Nat
  unit : Nat
  cls : Nat
  kind : Nat
  detail : Nat
  data : List Byte
  deriving DecidableEq, Repr

/-- A log entry: sequence number, hall time, beat and record (Table 16-10); its CRC is a function of these. -/
structure LogEntry where
  seq : Nat
  hall : Nat
  beat : Nat
  entry : LogRec
  deriving DecidableEq, Repr

/-- The event log (R569 to R571): the next sequence number, the SRAM buffer and the MRAM ring, oldest first, the entries dropped since
the last overflow record, and the records of the beat in progress, not yet ordered. -/
structure LogSt where
  next : Nat
  buf : List LogEntry
  mram : List LogEntry
  dropped : Nat
  beatBuf : List (Nat × LogRec)
  deriving DecidableEq, Repr

/-- Island T's count (R453, R456): hall time in ns; the number of the most recent beat is its quotient by 16. -/
structure Clock where
  hall : Nat
  deriving DecidableEq, Repr

/-- A message waiting for its place in the beat's order: precedence class (13 for a condition that is no event), die, source (R358). -/
structure IrqMsg where
  cls : Nat
  die : Nat
  src : Nat
  deriving DecidableEq, Repr

/-- A part of a K-split tile that has reached the home die (R109, R135): its number, the header and records sent, and what quench counted in
it. -/
structure TilePart where
  part : Nat
  data : List Byte
  sats : Nat
  flushes : Nat
  deriving DecidableEq, Repr

/-- A tile of a running descriptor (R117, R138, R145): parts recorded, attempts of the pass in progress, whether its reheat pass runs,
whether it committed, and what a shadow pass compares against. -/
structure TileSt where
  t : Nat
  parts : List TilePart
  attempts : Nat
  reheat : Bool
  overT : Bool
  committed : Bool
  /-- flags of the array edge and of quench, and of the coat engine (R126, R186) -/
  arrFlags : Nat
  coatFlags : Nat
  sats : Nat
  flushes : Nat
  result : Option Accum
  factor : Num
  shadowDone : Bool
  shadowAttempts : Nat
  deriving DecidableEq, Repr

/-- The staging set of a descriptor's quench statistics on one array die (R155). -/
structure QuenchStage where
  die : Nat
  sats : Nat
  flushes : Nat
  reheats : Nat
  kept : Nat
  shadows : Nat
  bins : List Nat
  deriving DecidableEq, Repr

/-- Bytes written at an address. -/
structure Segment where
  addr : Nat
  bytes : List Byte
  deriving DecidableEq, Repr

/-- What one tile or other unit of output of a descriptor wrote, for the lock-step digest (R475). -/
structure Written where
  tile : Nat
  handle : Nat
  addr : Nat
  bytes : List Byte
  deriving DecidableEq, Repr

/-- A started, unretired descriptor with its journal entry (R490): the descriptor's bytes, the copies of R218, its queue, sequence number
and start beat, its progress record, and everything its completion record will carry. -/
structure Run where
  queue : Nat
  seq : Nat
  ctx : Nat
  kind : Nat
  engine : Nat
  desc : List Byte
  tds : List (List Byte)
  params : List Byte
  /-- tensor descriptors that GEMM_GROUPED reads through its tables of handles, four for each group (R218) -/
  extraTds : List (List Byte)
  /-- what RING_ATTN holds after the blocks computed so far (R450) -/
  chain : Nat
  startBeat : Nat
  jclass : Nat
  /-- coat program images the descriptor uses throughout (R191), by array die -/
  image : Option CoatImage
  /-- statuses raised, as (beat, code) (R237) -/
  statuses : List (Nat × Nat)
  reason : Nat
  delay : Nat
  undef : Bool
  late : Bool
  qcause : Nat
  flags : Nat
  reheated : Nat
  kept : Nat
  replays : Nat
  kindInfo : Nat
  detail : Nat
  /-- progress record: bound-counter increments applied, append done (R491) -/
  incs : Nat
  appended : Bool
  tiles : List TileSt
  /-- reheats charged to each die rank (R142) -/
  shares : List Nat
  stage : List QuenchStage
  /-- drop cloth: lines reserved and pre-images held, by line address (R492, R493) -/
  reserved : Nat
  preimages : List Segment
  /-- bytes this attempt has written (R494) -/
  rewritten : List (Nat × Nat)
  written : List Written
  attempts : Nat
  /-- a descriptor replay is owed for an error of this die and unit, whose self-test ends first (R495) -/
  replayOn : Option (Nat × Nat)
  /-- the engine issues nothing more for it (R497) -/
  stopped : Bool
  finished : Bool
  /-- steps done of an operation that proceeds in steps (R438, R448, R450, R519) -/
  step : Nat
  /-- beat in whose interval its last output was committed (R236) -/
  endBeat : Nat
  deriving DecidableEq, Repr

/-- A queue's dispatcher state beside its registers: a prefetched descriptor by sequence number, the doorbell beats that covered each
sequence number (R471), whether it is halted, the beat at which its head became ready, and the TAIL of a flush that waits for a running head
(Table 06-17). -/
structure QueueSt where
  prefetch : Option (Nat × List Byte)
  covers : List (Nat × Nat)
  halted : Bool
  readySince : Option Nat
  flush : Option Nat
  deriving DecidableEq, Repr

/-- A context's dispatcher state: wait-cycle count (R234), hall time at which every active queue became blocked and whether the stall was
already noticed (R235), whether the next count restarts, its pair stop (R475). -/
structure CtxSt where
  cycleCount : Nat
  restart : Bool
  blockedSince : Option Nat
  stallNoticed : Bool
  pairStopped : Bool
  deriving DecidableEq, Repr

/-- The dispatchers: queues, contexts, the work journal of started descriptors, and the queue that last ran on each engine (R207). -/
structure Dsp where
  queues : List (Nat × QueueSt)
  ctxs : List (Nat × CtxSt)
  runs : List Run
  lastOn : List (Nat × Nat)
  deriving DecidableEq, Repr

/-- What a command's effect may read beside the package: the clock and the log. -/
structure Env where
  clock : Clock
  log : LogSt
  deriving DecidableEq, Repr

/-- A completed descriptor of the paired context whose digest waits for the partner's (R475): its signals and interrupt are held, and
its journal entry with its drop-cloth lines is not yet freed. -/
structure PairHeld where
  queue : Nat
  seq : Nat
  digest : Nat
  tiles : List Nat
  desc : List Byte
  status : Nat
  reserved : Nat
  since : Nat
  deriving DecidableEq, Repr

/-- A digest from the partner (R475). -/
structure PairIn where
  queue : Nat
  seq : Nat
  digest : Nat
  tiles : List Nat
  deriving DecidableEq, Repr

/-- A packet on a link of the package network, or waiting at its router for credit on that link: 4 × router die + direction, +column,
−column, +row, −row (R27, Table 14-1). -/
structure NetHop where
  link : Nat
  pkt : NetPacket
  deriving DecidableEq, Repr

/-- The package network (R24 to R30, R485): credits of each link in use, packets that wait for credit, packets on links, packets delivered in
the beat in progress, lanes that spares carry (link, lane, spare), and links that run on 256 lanes. -/
structure Net where
  used : List (Nat × Nat)
  held : List NetHop
  flight : List NetHop
  delivered : List NetPacket
  lanes : List (Nat × Nat × Nat)
  halved : List Nat
  deriving DecidableEq, Repr

/-- A coat tile in progress on a die (R161, R171): its descriptor's queue, its number t', and the latency-check mode it started with. -/
structure CoatNow where
  queue : Nat
  t : Nat
  latchk : Bool
  deriving DecidableEq, Repr

/-- A line waiting for a retraining pseudo-channel: device, pseudo-channel, line number on the device (R317). -/
structure BehindLine where
  pc : Nat
  line : Nat
  deriving DecidableEq, Repr

/-- The retraining in progress at a stack (R315): its pseudo-channel, its step (0 issue stopped, 1 training, 2 draining the list), and
whether it is suspended (R318, R320). -/
structure Retrain where
  pc : Nat
  step : Nat
  suspended : Bool
  since : Nat
  deriving DecidableEq, Repr

/-- Who a memory request serves (R306, R310, R322). -/
inductive MemUser where
  | descriptor (queue : Nat)
  | dispatcher (ctx : Nat)
  | core (g : Nat)
  | fabric (loc : Nat)
  | outside (x : Nat)
  deriving DecidableEq, Repr

/-- A fabric packet in the switch with its full sequence number and arrival port. -/
structure FabPkt where
  port : Nat
  seq : Nat
  header : List Byte
  payload : List Byte
  deriving DecidableEq, Repr

/-- An operand of an atomic on memory: operation, type, operand bytes, with a CAS's comparison value after its operand (Table 10-5). -/
structure AtomOp where
  aop : Nat
  ty : Nat
  data : List Byte
  deriving DecidableEq, Repr

/-- What a memory request does to its line: a read, a write, or atomics one after another. -/
inductive MemOp where
  | read
  | write (bytes : List Byte)
  | atomics (ops : List AtomOp)
  deriving DecidableEq, Repr

/-- What a home answers: a NACK reason or 0, the reply's data, flags, and a delay reason. -/
structure Served where
  reason : Nat
  data : List Byte
  flags : Nat
  delay : Nat
  deriving DecidableEq, Repr

/-- A request waiting at a stack's controller, with the hall time of its entry (R291, R310): marked with reason QUOTA, marked with reason CAL, the
first of these reasons, and the fabric packet that brought it. -/
structure WaitingReq where
  user : MemUser
  part : Nat
  addr : Nat
  op : MemOp
  len : Nat
  priority : Bool
  entered : Nat
  quota : Bool
  cal : Bool
  delay : Nat
  pkt : Option FabPkt
  deriving DecidableEq, Repr

/-- A write to a patch stripe accepted and not yet begun (R295), and whether it was marked with reason CAL while it waited for the write-behind
list (R318). -/
structure StripeWrite where
  user : MemUser
  addr : Nat
  bytes : List Byte
  cal : Bool
  deriving DecidableEq, Repr

/-- How an access of a host core fails (R40, R322, R332, Table 09-2): a page fault; an access that physical memory protection denies; an access fault
of kind 5; an uncorrectable memory error. -/
inductive HostFail where
  | page | denied | access | check
  deriving DecidableEq, Repr

/-- Where an access of a host core stands: its instruction's address, where the command names one; its virtual and its physical address. -/
structure HostAt where
  pc : Option Nat
  va : Nat
  pa : Nat
  deriving DecidableEq, Repr

/-- What a controller has done that its requester has not yet been told: the answer to a fabric packet, a fault that a host core takes at a physical
address, a replay that a descriptor owes for an error of a unit. -/
inductive MemDone where
  | packet (k : FabPkt) (s : Served)
  | coreFault (g : Nat) (what : HostFail) (addr : Nat) (store : Bool)
  | replay (queue die unit : Nat)
  deriving DecidableEq, Repr

/-- One stack's controller beside its registers: waiting requests in entry order, stripe writes queued, the write-behind list, the
retraining, temperature at each pseudo-channel's last training, pseudo-channels due, token buckets in lines by partition, lines of the
window used by the priority class, the partition that took the last best-effort slot; hall time of each pseudo-channel's last retraining, and since
cold start the retrainings, those suspended and the longest wait in ns (Table 16-5). -/
structure StackSt where
  waiting : List WaitingReq
  stripes : List StripeWrite
  behind : List BehindLine
  retrain : Option Retrain
  trainTemp : List (Nat × Nat)
  due : List Nat
  tokens : List (Nat × Nat)
  prioUsed : Nat
  windowUsed : Nat
  beLast : Nat
  trained : List (Nat × Nat)
  retrains : Nat
  suspends : Nat
  calMax : Nat
  deriving DecidableEq, Repr

/-- An armed trigger entry (Table 11-1) as its fields stand after the fires so far. -/
structure TrigEntry where
  engine : Nat
  idx : Nat
  bytes : List Byte
  deriving DecidableEq, Repr

/-- A binding of a counter of an engine to a tensor handle of the engine's context (R417). -/
structure Binding where
  ctx : Nat
  engine : Nat
  counter : Nat
  handle : Nat
  deriving DecidableEq, Repr

/-- A fire in progress (R420 to R422): the entry as it fired, the beat of the fire, requests issued so far, whether one failed. -/
structure Fire where
  engine : Nat
  idx : Nat
  tag : Nat
  bytes : List Byte
  step : Nat
  failed : Bool
  deriving DecidableEq, Repr

/-- A communicator at this package (R425 to R429): its members as (location, local ranks) in ascending location, the member table's CRC,
slots g, window w, areas, member-wait time in ns, the next collective sequence number; while its SETUP still waits, the queue, the slots
asked for, the members heard from and the hall time it began. -/
structure Comm where
  ctx : Nat
  id : Nat
  uid : Nat
  crc : Nat
  members : List (Nat × Nat)
  slots : Nat
  window : Nat
  scratch : Nat
  scratchLen : Nat
  report : Nat
  waitNs : Nat
  next : Nat
  queue : Option Nat
  want : Nat
  heard : List Nat
  since : Nat
  deriving DecidableEq, Repr

/-- Another member's SETUP that arrived before this package's (R427). -/
structure SetupIn where
  src : Nat
  uid : Nat
  count : Nat
  crc : Nat
  deriving DecidableEq, Repr

/-- A contribution that a stage holds (R437 to R440): its level, its unit of 128 bytes of accumulation type, the contributing member's index
in the stage, element codes, flags. -/
structure ColPart where
  level : Nat
  unit : Nat
  idx : Nat
  codes : List Nat
  flags : Nat
  deriving DecidableEq, Repr

/-- A stage as this package, its leader, keeps it (R442, R444, R446): a claim asked for in this beat (3), slots held (1) or fallen back (2), the members' signatures as heard, the
hall time of the leader's own arrival. -/
structure ColStage where
  level : Nat
  claim : Nat
  sigs : List (Nat × Nat)
  arrived : Option Nat
  deriving DecidableEq, Repr

/-- A collective in flight at this package (R435 to R450): its queue (none when only other members' packets have come, or the local descriptor
failed R434); sequence number, kind, operation word, elements of a rank, root or
ring flags; chunks of the input read, the gate counter's base; contributions
held and those of a ring that fell back; what was sent up and when; units delivered; the report that ended it. Of a ring pass: steps sent and
bytes landed and counted for each local rank, credits heard and told. -/
structure ColRun where
  queue : Option Nat
  ctx : Nat
  comm : Nat
  seq : Nat
  started : Bool
  sig : Nat
  kind : Nat
  op : Nat
  n : Nat
  root : Nat
  chunks : Nat
  base : Nat
  stages : List ColStage
  parts : List ColPart
  ring : List ColPart
  sent : List (Option Nat × Nat)
  told : Bool
  ringed : Bool
  fell : Bool
  downs : List Nat
  ended : Option (List Byte)
  steps : List (Nat × Nat)
  landed : List (Nat × Nat × Nat)
  counted : List (Nat × Nat)
  credits : List (Nat × Nat)
  seen : List (Nat × Nat)
  deriving DecidableEq, Repr

/-- The collectives (R425 to R450). -/
structure Col where
  comms : List Comm
  setups : List SetupIn
  runs : List ColRun
  deriving DecidableEq, Repr

/-- A targeted self-test or march test of a unit (R480, R483): die, unit code, hall time it started or was scheduled, whether a spare stands
in, and whether a detected error started it (R553). -/
structure UnitTest where
  die : Nat
  unit : Nat
  since : Nat
  spare : Bool
  byError : Bool
  deriving DecidableEq, Repr

/-- How a unit's last test ended (R553): 0 pass, 1 retired to a spare, 2 no spare free; its duration in ns. -/
structure TestResult where
  die : Nat
  unit : Nat
  march : Bool
  outcome : Nat
  duration : Nat
  deriving DecidableEq, Repr

/-- Faults, self-tests and spares (R480 to R488): tests owed from the beat in progress, tests that may start, tests running, march tests
scheduled and running, each unit's transients and last march pass, retired units, units retired whose change waits for its boundary, array
dies whose second dispatcher is in use, and how tests ended. -/
structure Ras where
  owed : List (Nat × Nat)
  ready : List (Nat × Nat)
  tests : List UnitTest
  marchDue : List UnitTest
  marching : List UnitTest
  transients : List (Nat × Nat × Nat)
  marchPassed : List (Nat × Nat × Nat)
  retired : List (Nat × Nat)
  waiting : List (Nat × Nat)
  exhausted : List (Nat × Nat)
  results : List TestResult
  deriving DecidableEq, Repr

/-- Whom a fabric request serves (R381, R386, R421, R335): a descriptor's iteration and byte offset, with the local address its reply's data
goes to; a host core's access with its destination register, width and sign extension; a trigger fire; a flow's SYNC exchange; a remote
increment; a broadcast member's OR, by queue and UID; a collective. -/
inductive FabUser where
  | desc (queue iter off : Nat) (dst : Option Nat)
  | core (g rd width : Nat) (sext store : Bool) (place : HostAt)
  | fire (engine idx tag : Nat) (dst : Option Nat)
  | sync
  | increment
  | bcast (queue uid : Nat)
  | coll (queue : Nat)
  deriving DecidableEq, Repr

/-- A request that an engine holds outstanding (R380, R399, R405): its flow and number, the packet's fields, the epoch learned, the hall time
of its first issue, retransmissions made, whether it has been sent, and the back-off of a FULL refusal. -/
structure FabReq where
  engine : Nat
  seq : Nat
  dest : Nat
  cls : Nat
  kind : Nat
  addr : Nat
  len : Nat
  op : Nat
  data : List Byte
  user : FabUser
  issued : Nat
  tries : Nat
  sent : Bool
  backoff : Nat
  retryAt : Option Nat
  refused : Option Nat
  deriving DecidableEq, Repr

/-- A flow as its sending engine keeps it (R377, R397): the next number, the target epoch last learned, whether its SYNC was answered. -/
structure OutFlow where
  engine : Nat
  dest : Nat
  cls : Nat
  next : Nat
  epoch : Nat
  synced : Bool
  deriving DecidableEq, Repr

/-- A flow as its destination keeps it (R390, R397, R400): the next expected number X, the numbers applied among the last 1,024, packets held
for a predecessor, and the hall time of its last packet. -/
structure InFlow where
  src : Nat
  engine : Nat
  cls : Nat
  next : Nat
  applied : List Nat
  waiting : List FabPkt
  last : Nat
  deriving DecidableEq, Repr

/-- An entry of a home die's atomic table (R401). -/
structure AtomEntry where
  home : Nat
  src : Nat
  engine : Nat
  seq : Nat
  reply : List Byte
  flags : Nat
  since : Nat
  deriving DecidableEq, Repr

/-- A line's queue at its home (R406): requests not yet applied, the ports they came on, whether the line is hot, and since when the queue has
been below 16. -/
structure HomeLine where
  line : Nat
  count : Nat
  ports : List Nat
  hot : Bool
  low : Nat
  deriving DecidableEq, Repr

/-- A hot-line notice, or the notice of its end, sent back on a port (R406): the line, its home's location. -/
structure HotNotice where
  port : Nat
  line : Nat
  home : Nat
  ends : Bool
  deriving DecidableEq, Repr

/-- A port on which requests for a line of a home passed through the switch, with the hall time of the last (R406). -/
structure SeenLine where
  home : Nat
  line : Nat
  port : Nat
  last : Nat
  deriving DecidableEq, Repr

/-- Requests for a hot line that a die's switch core holds (R407). -/
structure CombineHold where
  die : Nat
  home : Nat
  line : Nat
  pkts : List FabPkt
  deriving DecidableEq, Repr

/-- What a switch merged and forwarded as one packet (R407, R408): the flow and number it went out under, and the packets it stands for. -/
structure Merged where
  src : Nat
  engine : Nat
  seq : Nat
  parts : List FabPkt
  deriving DecidableEq, Repr

/-- A packet put on a port's lanes in the beat in progress: port, full sequence number, header, payload and check value. -/
structure FabOut where
  port : Nat
  seq : Nat
  header : List Byte
  payload : List Byte
  check : Nat
  deriving DecidableEq, Repr

/-- The fabric's state beside its registers (R364 to R414). -/
structure Fab where
  reqs : List FabReq
  flows : List OutFlow
  inflows : List InFlow
  atoms : List AtomEntry
  lines : List HomeLine
  seen : List SeenLine
  combine : List (Nat × Nat)
  holds : List CombineHold
  merged : List Merged
  /-- violations of each port by 1 ms window, the one in progress first (R411) -/
  viols : List (Nat × List Nat)
  /-- one-way delay of each port in ns (R459) -/
  delays : List (Nat × Nat)
  /-- busy share of each port in its last 10 µs window, in percent (R447) -/
  busy : List (Nat × Nat)
  sent : List FabOut
  notices : List HotNotice
  deriving DecidableEq, Repr

/-- A host core's state (Table 09-2, Table 09-4, R330, R339): integer, float and vector registers and predicates by number, unlisted ones zero; SAT;
`fflags` and `frm`; `mstatus`.XS; the identities pending in its IMSIC's M-level and S-level files; the line its LR reserved; the last exception it
took, as cause and value; its privilege mode (3 M, 1 S, 0 U); the address at which it goes on; and its other control and status registers, by number. -/
structure Core where
  x : List (Nat × W64)
  f : List (Nat × W64)
  v : List (Nat × VecWord)
  p : List (Nat × PredWord)
  sat : Bool
  fflags : Nat
  frm : Nat
  xs : Nat
  imsicM : List Nat
  imsicS : List Nat
  reserve : Option Nat
  trap : Option (Nat × Nat)
  /-- a fence waits for the answers to aperture stores and atomics (R393) -/
  fencing : Bool
  mode : Nat
  pc : Nat
  csr : List (Nat × W64)
  deriving DecidableEq, Repr

/-- A host cache (Table 09-1): of a core, or the last-level cache of a host die. -/
inductive HostCache where
  | l1i (core : Nat)
  | l1d (core : Nat)
  | l2 (core : Nat)
  | llc (die : Nat)
  deriving DecidableEq, Repr

/-- A line that host caches hold (R328, R329): local address, data, dirty or clean, and the caches that hold it. The caches of all cores are coherent,
so one copy of the data stands for them all. -/
structure HostLine where
  addr : Nat
  bytes : List Byte
  dirty : Bool
  within : List HostCache
  deriving DecidableEq, Repr

/-- A BFX64 vector (R65, R244): its significands and the exponent they share. -/
structure Bfx where
  m : List Int
  e : Int
  deriving DecidableEq, Repr

/-- A scalar of an Anvil: a BFX64 vector of length one (R244). A value kept exactly, a bound for one, has the same form. -/
structure Sca where
  m : Int
  e : Int
  deriving DecidableEq, Repr

/-- A row of a matrix or of a factor: its entries by column, and the terms that fix the shift of its sums (R247). -/
structure AnvRow where
  es : List (Nat × Sca)
  t : Nat
  deriving DecidableEq, Repr

/-- A matrix as the setup scan leaves it: its rows, its columns as rows, and the largest row and column absolute sums (Table 07-1). -/
structure AnvMat where
  rows : List AnvRow
  cols : List AnvRow
  norm : Sca
  tnorm : Sca
  deriving DecidableEq, Repr

/-- What a solve holds of its inputs after the setup scan: A, Q, b, c, and the right side of R263's test. -/
structure AnvData where
  a : AnvMat
  q : AnvMat
  b : Bfx
  c : Bfx
  tol : Sca
  deriving DecidableEq, Repr

/-- A preconditioner as it is applied (R267): pivots as their reciprocals, and the smallest pivot magnitude where a bound needs it. -/
inductive AnvFactor where
  | none
  | jacobi (recips : List Sca) (dmin : Sca)
  | ldl (lower upper : List AnvRow) (recips : List Sca) (dmin : Sca)
  | lu (lower upper : List AnvRow) (recips : List Sca)
  | chebyshev (deg : Nat) (theta delta sigma : Sca)
  deriving DecidableEq, Repr

/-- The vectors and scalars that an iteration commits together, by method (R252, Table 07-9). -/
inductive AnvVars where
  | none
  | cg (x r p : Bfx) (rz : Sca)
  | bicgstab (x r rhat p v : Bfx) (rho alpha omega : Sca)
  | gmres (x : Bfx) (basis : List Bfx) (cols : List (List Sca)) (rots : List (Sca × Sca)) (g : List Sca)
  | minres (x v0 v1 z w0 w1 : Bfx) (zr gam0 eta s0 s1 c0 c1 : Sca)
  | interior (x y s : Bfx) (tau kappa : Sca)
  deriving DecidableEq, Repr

/-- A solve on an Anvil (R252, R262 to R282): its queue; the bytes of its inputs, on which every open value of it depends; what it holds of them and
its preconditioner; the vectors and scalars of the last completed iteration; setup phases committed of how many; iterations and GMRES cycles or inner iterations; range retries; pivot replacements; the result record's marks; norms and objectives
as F64 bits; the tag of the last commit and of the last iteration's; a soft deadline sampled; how it ended. -/
structure AnvSolve where
  queue : Nat
  /-- matrix headers copied at the start: A, then Q (R257) -/
  heads : List (Nat × List Byte)
  key : List Byte
  data : AnvData
  factor : AnvFactor
  /-- γ of the forward and of the backward factor (R248) -/
  gam : Nat × Nat
  /-- the unit of work runs again after an overflow (R249) -/
  again : Bool
  vars : AnvVars
  /-- the tracked residual norm, or the measure of R273 -/
  norm : Sca
  /-- what a return writes, by handle (R256, R273, R274) -/
  outs : List (Nat × Bfx)
  method : Nat
  phase : Nat
  phases : Nat
  iters : Nat
  inner : Nat
  retries : Nat
  pivots : Nat
  unreliable : Bool
  innerHit : Bool
  dualToo : Bool
  resid : Nat
  resid0 : Nat
  tracked : Bool
  cert : Nat
  primal : Nat
  dual : Nat
  lastCommit : Nat
  lastIter : Nat
  soft : Bool
  ended : Option Nat
  endTag : Nat
  deriving DecidableEq, Repr

/-- A masked 2 MiB page of a SAVE (R517 to R519): page number, the SAVE's queue, the staging page that a demand copy of it fills. -/
structure PageMask where
  page : Nat
  queue : Nat
  copying : Option Nat
  deriving DecidableEq, Repr

/-- A write held by masking (R518). -/
structure HeldWrite where
  user : MemUser
  addr : Nat
  bytes : List Byte
  since : Nat
  deriving DecidableEq, Repr

/-- What a memory request's sender is answered: 0 served, 0x3F hole, 0x0A uncorrectable, 0x10 or 0x11 refused, 1 waiting or held. -/
structure MemReply where
  user : MemUser
  addr : Nat
  code : Nat
  data : List Byte
  deriving DecidableEq, Repr


/-- An extent of a shard or a manifest (Table 15-3): connection, start LBA, namespace, LBAs. -/
structure Extent where
  conn : Nat
  lba : Nat
  ns : Nat
  count : Nat
  deriving DecidableEq, Repr

/-- A shard of a SAVE or RESTORE (Table 15-3). -/
structure CkShard where
  src : Nat
  bytes : Nat
  port : Nat
  extents : List Extent
  deriving DecidableEq, Repr

/-- A storage command (R511, R512, R525): its number, its descriptor's queue, kind 0 Write, 1 Read, 2 Flush, 3 the setting up of a queue pair;
where it goes; the shard, or 0xFFFF_FFFF for the manifest, and the byte of its stream it begins at; a Write's data; times issued again; the
hall time of its issue, none while it waits for a place in the connection's queues. -/
structure StoreCmd where
  id : Nat
  queue : Nat
  kind : Nat
  conn : Nat
  ns : Nat
  lba : Nat
  blocks : Nat
  shard : Nat
  off : Nat
  data : List Byte
  tries : Nat
  issued : Option Nat
  deriving DecidableEq, Repr

/-- A storage connection beside its status register (R512): depth of its queues. -/
structure Conn where
  num : Nat
  depth : Nat
  deriving DecidableEq, Repr

/-- A SAVE or RESTORE in progress (R517 to R531): queue, engine, kind, step of its order, shards; hall times of the mask beat and of the final
Flush of shards; bytes written or read, by shard and stream offset; the manifest; staging area, pages it has, and those in use (staging page,
source page); demand copies made; whether it runs on the previous manifest, the odd shards of the current one, and its step. -/
structure CkRun where
  queue : Nat
  engine : Nat
  kind : Nat
  phase : Nat
  shards : List CkShard
  maskHall : Nat
  flushHall : Nat
  moved : List (Nat × Nat × List Byte)
  manifest : List Byte
  stageBase : Nat
  stagePages : Nat
  stages : List (Nat × Nat)
  copies : Nat
  previous : Bool
  odd : List (Nat × Nat)
  oddStep : Nat
  deriving DecidableEq, Repr

/-- A member that a broadcast package serves (R532 to R535): its number, whether it has attached, blocks it has acknowledged, the hall time of
its last acknowledgement. -/
structure BcastChild where
  member : Nat
  attached : Bool
  acked : Nat
  heard : Nat
  deriving DecidableEq, Repr

/-- A tree broadcast in progress (R532 to R536): queue, whether this package is the originator, UID, member locations, its own number; image,
size, digest asked for, table address, bitmap; the member-wait time in ns; the block-digest table, blocks verified, failures from the parent
the parent now, re-attachments; hall times of its start, of its last verified block or re-attachment, of the last block any ancestor
served; the members it serves; the bitmap as last seen and the hall time it changed; its own bit's OR (0 not sent, 1 sent, 2 answered); whether its
descriptor has ended. -/
structure Bcast where
  queue : Nat
  origin : Bool
  uid : Nat
  members : List Nat
  me : Nat
  image : Nat
  bytes : Nat
  digest : List Byte
  tableAt : Nat
  bitmap : Nat
  waitNs : Nat
  table : List Byte
  done : Nat
  fails : Nat
  parent : Nat
  reattached : Nat
  start : Nat
  quiet : Nat
  served : Nat
  children : List BcastChild
  bits : List Byte
  bitHall : Nat
  orState : Nat
  closed : Bool
  deriving DecidableEq, Repr

/-- A broadcast message to another member (R532 to R534): queue, member, message. -/
structure BcastOut where
  queue : Nat
  member : Nat
  msg : BcastMsg
  deriving DecidableEq, Repr

/-- Checkpoint, restore and job start (R510 to R536): connections, storage commands in order of issue, the next command's number, SAVEs and
RESTOREs, broadcasts, and the broadcast messages sent in the beat in progress. -/
structure Ckp where
  conns : List Conn
  cmds : List StoreCmd
  nextId : Nat
  runs : List CkRun
  bcasts : List Bcast
  sent : List BcastOut
  deriving DecidableEq, Repr
/-- A register held by the undercoat (R558, R560): its address as staged, the width and value staged, and whether an accepted protection
pair put it there. -/
structure Staged where
  off : Nat
  width : Nat
  value : W64
  pair : Bool
  deriving DecidableEq, Repr

/-- A command sampled at a mailbox (R546, R549): the copied area, its tag, the beat of its doorbell, whether it came out of band, and whether
it runs in the background. -/
structure MbCmd where
  area : List Byte
  tag : Nat
  beat : Nat
  oob : Bool
  running : Bool
  deriving DecidableEq, Repr


/-- A firmware slot (R573 to R577): the version of its verified image, the bytes staged into it (an unlisted one reads 0xFF), the highest
offset staged plus 1, and whether it has been staged into since its last verification or activation. -/
structure FwSlot where
  version : Nat
  image : List (Nat × Byte)
  top : Nat
  staging : Bool
  deriving DecidableEq, Repr

/-- A pending protection proposal (R606): kind, index, body, the proposer's role (0 OPERATOR, 1 AUDITOR, 8 + p OWNER p), the digest returned and
the beat at which it expires. -/
structure Proposal where
  id : Nat
  kind : Nat
  index : Nat
  body : List Byte
  role : Nat
  digest : List Byte
  expiry : Nat
  deriving DecidableEq, Repr

/-- A commit in progress (R562 to R567): the mailbox that asked, the beat b_c of its doorbell, the beat it names (0 for the next), the
generation, the islands that have acknowledged their shares, B once armed, and the shadows the islands hold. -/
structure CommitSt where
  box : Nat
  since : Nat
  named : Nat
  gen : Nat
  acks : List Nat
  armed : Option Nat
  shadows : List Staged
  deriving DecidableEq, Repr

/-- A change of kinds 0x05 to 0x07 that an accepted pair put into the undercoat (R609). -/
structure KeyChange where
  kind : Nat
  index : Nat
  body : List Byte
  deriving DecidableEq, Repr

/-- An out-of-band datagram sent (R549): mailbox, tag, response area. -/
structure OobOut where
  box : Nat
  tag : Nat
  area : List Byte
  deriving DecidableEq, Repr

/-- The Jiward complex beside its registers (R540 to R577, R603 to R614): firmware slots; failed boot attempts of the slot that boots, and the
slot; the management firmware's image version; hall times the complex began to boot or restart; proposals, the next proposal's number, and those that expired;
enrolled keys and last accepted counters by role; checkpoint keys by partition; regions' XTS keys as indices of free values, the keys each was filled under, and lines
written since a region's keys changed, with their keys; changes that wait
for a commit; the commit in progress; the registers of the last applied commit; each sensor's least and greatest reading since last reported;
the lowest input voltage since the last POWER_STATUS in mV; datagrams sent in the beat in progress; whether standby
power is good. -/
structure Mgt where
  slots : List (Nat × FwSlot)
  boot : Nat
  tries : Nat
  version : Nat
  since : Nat
  proposals : List Proposal
  nextId : Nat
  expired : List Nat
  keys : List (Nat × List Byte)
  counters : List (Nat × Nat)
  ckptKeys : List (Nat × List Byte)
  regionKeys : List (Nat × Nat)
  fillKeys : List (Nat × Nat)
  lineKeys : List (Nat × Nat)
  changes : List KeyChange
  commit : Option CommitSt
  applied : List Staged
  sensors : List (Nat × Int × Int)
  vinLow : Nat
  oob : List OobOut
  power : Bool
  deriving DecidableEq, Repr

/-- The discipline of hall time beside its registers (R455 to R460): the master's location; the hall time of the last accepted beacon or edge;
when holdover began; whether a beacon has been accepted since package start; whether an accepted beacon waits to be forwarded; the beacons put
on ports in the beat in progress, as port and hall time. -/
structure TimeSt where
  master : Nat
  heard : Nat
  holdSince : Nat
  begun : Bool
  forward : Bool
  sent : List (Nat × Nat)
  deriving DecidableEq, Repr

/-- A supply episode (R583, R584): hall time of its warning, lowest voltage in mV, the hall time since which PWR_48V has been above 43.0 V, the
hall time at which injections were released, and the steps of the ramp taken. -/
structure Episode where
  since : Nat
  low : Nat
  above : Option Nat
  released : Option Nat
  steps : Nat
  deriving DecidableEq, Repr

/-- Power, supply and thermal beside their registers (R579 to R595, R628): throttle levels by unit (array dies 0 to 7, host dies 16 to 19, Anvils
32 to 35; unlisted 0), what raised each (bit 0 temperature, bit 1 the cap), and the hall time since which the release condition has held; the
episode; a cap set and not yet in effect (beat, W); phases shed; dies held at level 8; the pins PWR_GOOD and THERMTRIP_N (asserted), and whether
PORST_N is held asserted; the hottest junction as last sampled, in 0.1 °C. -/
structure Pwr where
  levels : List (Nat × Nat)
  why : List (Nat × Nat)
  cool : List (Nat × Nat)
  episode : Option Episode
  capNext : Option (Nat × Nat)
  shed : List Nat
  pinned : List Nat
  good : Bool
  trip : Bool
  porst : Bool
  hottest : Int
  deriving DecidableEq, Repr
/-- A register write of the beat in progress (R31), or what a commit set in it (R81): the register, the die it came from, 32 for a commit, and the
bits of it that stand. -/
structure CycleWrite where
  key : Nat
  die : Nat
  bits : W64
  deriving DecidableEq, Repr

/-- A change of a flag in the beat in progress (R215): context, flag, source die, a set or an addition, its amount. -/
structure FlagChange where
  ctx : Nat
  n : Nat
  die : Nat
  set : Bool
  amount : Nat
  deriving DecidableEq, Repr

/-- The package: everything but the queue of commands, the clock and the log. -/
structure Pkg where
  /-- Every register, by canonical MMIO offset; an unlisted one holds its reset word. -/
  regs : List (Nat × W64)
  /-- HBM and stash by local address; an unlisted byte reads zero (R300). -/
  mem : List Host.Cell
  /-- Physical bytes whose stored parity is wrong, as line code × 256 + byte (R292, R321). -/
  bad : List Nat
  /-- The model's own: how many free values have been drawn. -/
  free : Nat
  /-- Log records that the command in progress has raised, in order. -/
  raised : List LogRec
  /-- Messages raised in the beat in progress (R358). -/
  irqs : List IrqMsg
  /-- Register writes of the beat in progress, in order of arrival (R31). -/
  cycle : List CycleWrite
  /-- Flag changes of the beat in progress, in order of arrival (R215). -/
  flagCycle : List FlagChange
  /-- Staging sets that completions of the beat in progress applied, with their contexts (R158). -/
  stageCycle : List (Nat × QuenchStage)
  /-- The dispatchers. -/
  dsp : Dsp
  /-- Coat program slots, by 64 × die + slot. -/
  coatSlots : List (Nat × CoatImage)
  /-- The stack controllers, by stack number. -/
  stackCtl : List (Nat × StackSt)
  /-- Faults, tests and spares. -/
  ras : Ras
  /-- The beat whose class-1 or class-2 event ended the package's work (R463). -/
  stopBeat : Option Nat
  /-- Masked, uncopied pages (R517). -/
  masks : List PageMask
  /-- Writes held by masking, in order of acceptance (R518). -/
  held : List HeldWrite
  /-- Answers of the controllers in the beat in progress. -/
  memOut : List MemReply
  /-- What the controllers have done that its requesters have not yet been told. -/
  memDone : List MemDone
  /-- The model's own: the part's grade, 0 F, 1 S, 2 H (Table 06-20). -/
  grade : Nat
  /-- Armed trigger entries (R415). -/
  trigs : List TrigEntry
  /-- Counter bindings, in the order they were made (R417). -/
  binds : List Binding
  /-- Fires in progress (R421). -/
  fires : List Fire
  /-- Completed descriptors of the paired context that wait for the partner's digest (R475). -/
  pairHeld : List PairHeld
  /-- Partner digests that arrived before the local completion (R475). -/
  pairIn : List PairIn
  /-- Coat tiles in progress, by array die (R161). -/
  coatNow : List (Nat × CoatNow)
  /-- Host cores by global number; an unlisted one is as at reset (R339). -/
  cores : List (Nat × Core)
  /-- Lines that the host caches hold (R329). -/
  hostLines : List HostLine
  /-- Solves in progress, by Anvil (R252). -/
  anvils : List (Nat × AnvSolve)
  /-- Registers the undercoat holds, in order of first staging (R558). -/
  staged : List Staged
  /-- Hall time of the undercoat holder's last command (R558). -/
  ucSince : Nat
  /-- Commands sampled and not yet answered, by mailbox (R546). -/
  mbox : List (Nat × MbCmd)
  /-- Image version of the numerics firmware that runs (R575). -/
  fwVersion : Nat
  /-- The fabric: requests, flows, atomic entries, hot lines, ports (R364 to R414). -/
  fab : Fab
  /-- The package network (R24 to R30). -/
  net : Net
  /-- Communicators and collectives in flight (R425 to R450). -/
  col : Col
  /-- The discipline of hall time (R455 to R460). -/
  time : TimeSt
  /-- Checkpoint, restore and job start (R510 to R536). -/
  ckp : Ckp
  /-- The Jiward complex (R540 to R614). -/
  mgt : Mgt
  /-- Power, supply and thermal (R579 to R595). -/
  pwr : Pwr
  deriving DecidableEq, Repr

/-- The whole machine: the commands that wait, first in, first out; island T's count; the event log; the package. -/
structure State where
  pending : List Instr
  clock : Clock
  log : LogSt
  pkg : Pkg
  deriving DecidableEq, Repr

/-- Reasons a run stops with a fault. No command of the package does: a host core's fault is an exception it takes, and a descriptor's
is a status of its record. -/
inductive Fault
  deriving DecidableEq, Repr

/-- Reasons a command is refused by the model. -/
inductive Refusal where
  /-- A command that has no meaning yet: raised by the dispatcher of commands alone; safe, the machine stops. -/
  | notModelled (mnemonic : String)
  deriving DecidableEq, Repr

/-- The package before standby power arrives for the first time: every register at its reset value, memory as zero. -/
def Pkg.reset : Pkg where
  regs := []
  mem := []
  bad := []
  free := 0
  raised := []
  irqs := []
  cycle := []
  flagCycle := []
  stageCycle := []
  dsp := ⟨[], [], [], []⟩
  coatSlots := []
  stackCtl := []
  ras := ⟨[], [], [], [], [], [], [], [], [], [], []⟩
  stopBeat := none
  masks := []
  held := []
  memOut := []
  memDone := []
  grade := 0
  trigs := []
  binds := []
  fires := []
  pairHeld := []
  pairIn := []
  coatNow := []
  cores := []
  hostLines := []
  anvils := []
  staged := []
  ucSince := 0
  mbox := []
  fwVersion := 0
  fab := ⟨[], [], [], [], [], [], [], [], [], [], [], [], [], []⟩
  net := ⟨[], [], [], [], [], []⟩
  col := ⟨[], [], []⟩
  time := ⟨0, 0, 0, false, false, []⟩
  ckp := ⟨[], [], 0, [], [], []⟩
  mgt := ⟨[(0, ⟨1, [], 0, false⟩)], 0, 0, 0, 0, [], 0, [], [], [], [], [], [], [], [], none, [], [], 0, [], false⟩
  pwr := ⟨[], [], [], none, none, [], [], false, false, true, 0⟩

/-- An empty log (R569). -/
def LogSt.reset : LogSt where
  next := 0
  buf := []
  mram := []
  dropped := 0
  beatBuf := []

/-- The machine right after reset: nothing waits, hall time 0 (Table 13-7), an empty log. -/
def State.reset : State where
  pending := []
  clock := ⟨0⟩
  log := LogSt.reset
  pkg := Pkg.reset

end Sys2Proof.Machine
end

