-- ==== Sys2Proof/Machine/AnvArith.lean ====
section
/-! DEFINITION. The Anvil's arithmetic (spec 07_anvil_solver.md, R241, R242, R245 to R251): scalars and vectors in BFX64 normal form, result exponents from
the bounds of Table 07-1, sums of shifted exact products, the divide and square-root unit, and triangular sweeps with their predicted ranges. -/

namespace Sys2Proof.Machine

/-! ### Exact values -/

/-- An exact value as the formats' conversions take it. -/
def Sca.num (a : Sca) : Num := (Num.ofInt a.m).scale2 a.e

/-- The exact sum. -/
def Sca.plus (a b : Sca) : Sca :=
  if a.m = 0 then b else if b.m = 0 then a
  else let e := min a.e b.e; ⟨a.m * 2 ^ (a.e - e).toNat + b.m * 2 ^ (b.e - e).toNat, e⟩

/-- The exact product. -/
def Sca.times (a b : Sca) : Sca := ⟨a.m * b.m, a.e + b.e⟩

/-- The negated value. -/
def Sca.neg (a : Sca) : Sca := ⟨-a.m, a.e⟩

/-- The magnitude. -/
def Sca.abs (a : Sca) : Sca := ⟨(a.m.natAbs : Int), a.e⟩

/-- The exact comparison a ≤ b (R265). -/
def Sca.le (a b : Sca) : Bool := 0 ≤ (b.plus a.neg).m

/-- The larger of two values. -/
def Sca.max (a b : Sca) : Sca := if a.le b then b else a

/-- The largest magnitude of some values; zero of none. -/
def largest (xs : List Sca) : Sca := xs.foldl (fun (a x : Sca) => a.max x.abs) ⟨0, 0⟩

/-- The e with 2^e ≤ |a| < 2^(e+1); none for zero. -/
def Sca.log (a : Sca) : Option Int := if a.m = 0 then none else some (expOf a.m.natAbs 1 + a.e)

/-- The same value with a significand in [2^62, 2^63), of one that has room for it. -/
def Sca.wide (a : Sca) : Sca := let k := 62 - Nat.log2 a.m.natAbs; if a.m = 0 then a else ⟨a.m * 2 ^ k, a.e - k⟩

/-- One, in the form of a unit's result. -/
def Sca.one : Sca := ⟨2 ^ 62, -62⟩

/-- Element i of a vector. -/
def Bfx.at (v : Bfx) (i : Nat) : Int := v.m.getD i 0

/-- The largest magnitude X of a vector (Table 07-1). -/
def Bfx.big (v : Bfx) : Sca := ⟨((v.m.foldl (fun (a : Nat) x => max a x.natAbs) 0 : Nat) : Int), v.e⟩

/-- Every element is zero. -/
def Bfx.isZero (v : Bfx) : Bool := v.m.all (· == 0)

/-- The normal form: a largest magnitude below 2^61 is shifted left until it lies in [2^61, 2^62); an all-zero vector keeps its E, and no E falls below
−32,768 (R245, R251). -/
def Bfx.normal (v : Bfx) : Bfx :=
  let x := v.big.m.natAbs
  if x = 0 ∨ 2 ^ 61 ≤ x then v
  else let k := min (61 - Nat.log2 x) (v.e + 32768).toNat; ⟨v.m.map (· * 2 ^ k), v.e - k⟩

/-- A value n·2^x in units of 2^e, to nearest with ties to even (R246). -/
def unitsAt (e : Int) (n x : Int) : Int := let f := pow2Frac (e - x); rne (n * f.2) f.1

/-- A value n·2^x is no multiple of 2^e. -/
def losesAt (e : Int) (n x : Int) : Bool := let f := pow2Frac (e - x); n * f.2 % f.1 != 0

/-- The sum of t terms, as the lanes' accumulators hold it (R241, R247): each exact product is shifted right by g bits, to nearest even, and added. Products of one sum that have different
exponents are first brought to the largest of them, in the same shift. -/
def sumAt (t : Nat) (ps : List (Int × Int)) : Sca :=
  let nz := ps.filter (fun p => p.1 != 0)
  match nz with
  | [] => ⟨0, (ps.map (·.2)).foldl min ((ps.headD (0, 0)).2)⟩
  | p :: _ =>
    let top := nz.foldl (fun (a : Int) x => max a x.2) p.2 + clog2 t
    ⟨nz.foldl (fun (a : Int) x => a + unitsAt top x.1 x.2) 0, top⟩

/-- The product of two significands as a term of a sum. -/
def Sca.term (a b : Sca) : Int × Int := (a.m * b.m, a.e + b.e)

/-- Element i of a vector as a scalar. -/
def Bfx.sca (v : Bfx) (i : Nat) : Sca := ⟨v.at i, v.e⟩

/-! ### Work in progress -/

/-- A unit of work as it runs (R79, R248 to R250): its flag set; γ of the two factors; whether it is the second attempt; the factor that overflowed in the
first, with its growth (2 for another operation); an exponent above 32,767 needed; the preconditioner marked unreliable; pivots replaced. -/
structure AnvWork where
  flags : Nat
  gam : Nat × Nat
  again : Bool
  overflow : Option (Nat × Int)
  exceeded : Bool
  unreliable : Bool
  pivots : Nat
  deriving DecidableEq, Repr

/-- A computation of a unit of work. -/
abbrev AnvM := StateM AnvWork

/-- Raise flags. -/
def anvRaise (f : Nat) : AnvM Unit := modify (fun w => { w with flags := w.flags ||| f })

/-- An exponent above 32,767 is needed (R250), unless the attempt was abandoned before. -/
def anvExceed : AnvM Unit := modify (fun w => if w.overflow.isSome then w else { w with exceeded := true })

/-- The attempt overflows, unless it had ended before (R249). -/
def anvOver (k : Nat) (growth : Int) : AnvM Unit :=
  modify (fun w => if w.overflow.isSome || w.exceeded then w else { w with overflow := some (k, growth) })

/-- A factor loses entries to saturation (R250, R270). -/
def anvSaturates : AnvM Unit := modify (fun w => { w with flags := w.flags ||| flagOF ||| flagSA, unreliable := true })

/-- A chosen exponent, held to the range of E (R250, R251). -/
def anvExp (want : Int) : AnvM Int := do
  if want > 32767 then anvExceed
  return max (-32768) (min 32767 want)

/-- Round an element at the exponent chosen; at a clamped one, what is lost raises UF and NX (R246, R251). -/
def anvRound (want e : Int) (n x : Int) : AnvM Int := do
  if want < -32768 && losesAt e n x then anvRaise (flagUF ||| flagNX)
  return unitsAt e n x

/-- The largest significand of a result (R249). -/
def maxSig : Nat := 2 ^ 63 - 1

/-- A result vector: its elements rounded once at E_out = e − 61, or at the smallest input exponent where the bound is 0, then in normal form (R245,
R246). -/
def anvFit (bound : Sca) (small : Int) (vals : List Sca) : AnvM Bfx := do
  let want := match bound.log with | some e => e - 61 | none => small
  let e ← anvExp want
  let ms ← vals.mapM (fun v => anvRound want e v.m v.e)
  if ms.any (fun m => m.natAbs > maxSig) then anvOver 2 0
  return (Bfx.mk ms e).normal

/-- A value n/d·2^x as a scalar: a significand in [2^62, 2^63), rounded to nearest even (R242). -/
def scaOf (n : Int) (d : Nat) (x : Int) : AnvM Sca := do
  if n = 0 then return ⟨0, max (-32768) (min 32767 x)⟩
  let want := expOf n.natAbs d + x - 62
  let f := pow2Frac (max (-32768) want - x)
  let m := rne (n * f.2) (d * f.1)
  if want < -32768 && n * f.2 % (d * f.1) != 0 then anvRaise (flagUF ||| flagNX)
  let r : Sca := if m.natAbs = 2 ^ 63 then ⟨m / 2, max (-32768) want + 1⟩ else ⟨m, max (-32768) want⟩
  if r.e > 32767 then anvExceed
  return r

/-- An exact sum normalised as a scalar (Table 07-1). -/
def Sca.normal (a : Sca) : AnvM Sca := scaOf a.m 1 a.e

/-- The product of two scalars. -/
def scaMul (a b : Sca) : AnvM Sca := (a.times b).normal

/-- A sum of products of scalars (R247). -/
def scaSum (ts : List (Sca × Sca)) : AnvM Sca := (sumAt ts.length (ts.map (fun x => x.1.term x.2))).normal

/-- The divide unit (R242); a zero divisor gives an open value. -/
def scaDiv (a b : Sca) : AnvM Sca :=
  if b.m = 0 then let z := Config.anvilQuotient a.m a.e; scaOf z.1.toInt 1 z.2.toInt
  else scaOf (if b.m < 0 then -a.m else a.m) b.m.natAbs (a.e - b.e)

/-- The square-root unit (R242), of a value that is not negative: the root to half a unit below its last place, with what is left of it. -/
def scaRoot (a : Sca) : AnvM Sca :=
  let k : Int := if a.e % 2 = 0 then 128 else 129
  let n := a.m.natAbs * 2 ^ k.toNat
  let r := isqrt n
  scaOf (if r * r = n then 2 * r else 2 * r + 1 : Nat) 2 ((a.e - k) / 2)

/-! ### Vectors -/

/-- y := Σ α·x, up to four terms (Table 07-1). -/
def anvLin (ts : List (Sca × Bfx)) : AnvM Bfx :=
  let n := match ts with | [] => 0 | t :: _ => t.2.m.length
  anvFit (ts.foldl (fun (b : Sca) t => b.plus (t.1.abs.times t.2.big)) ⟨0, 0⟩) (ts.foldl (fun (a : Int) t => min a (min t.1.e t.2.e)) 32767)
    ((List.range n).map (fun i => sumAt ts.length (ts.map (fun t => t.1.term (t.2.sca i)))))

/-- The terms of a row's product with a vector. -/
def AnvRow.terms (r : AnvRow) (x : Bfx) : List (Int × Int) := r.es.map (fun e => e.2.term (x.sca e.1))

/-- The smallest exponent of some rows. -/
def smallExp (rows : List AnvRow) (e : Int) : Int := rows.foldl (fun (a : Int) r => r.es.foldl (fun (b : Int) x => min b x.2.e) a) e

/-- y := Ax (Table 07-1). -/
def anvMul (rows : List AnvRow) (norm : Sca) (x : Bfx) : AnvM Bfx :=
  anvFit (norm.times x.big) (smallExp rows x.e) (rows.map (fun r => sumAt r.t (r.terms x)))

/-- xᵀy (Table 07-1). -/
def anvDot (x y : Bfx) : AnvM Sca := (sumAt x.m.length ((x.m.zip y.m).map (fun ab => (ab.1 * ab.2, x.e + y.e)))).normal

/-- ‖x‖₂ (Table 07-1). -/
def anvNorm (x : Bfx) : AnvM Sca := do scaRoot (← anvDot x x)

/-- A vector scaled element by element, its bound given as a quotient or a product already made (Table 07-1). -/
def anvScale (ds : List Sca) (bound : Option Int) (x : Bfx) : AnvM Bfx :=
  anvFit (match bound with | some e => ⟨1, e⟩ | none => ⟨0, 0⟩) (ds.foldl (fun (a : Int) d => min a d.e) x.e)
    ((ds.zip x.m).map (fun dx => ⟨dx.1.m * dx.2, dx.1.e + x.e⟩))

/-- The e of a quotient of two magnitudes; none where the first is zero. -/
def quotLog (a b : Sca) : Option Int := if a.m = 0 ∨ b.m = 0 then none else some (expOf a.m.natAbs b.m.natAbs + a.e - b.e)

/-- z := D⁻¹r, by the reciprocals of the pivots (R267, Table 07-1). -/
def anvDiag (recips : List Sca) (dmin : Sca) (r : Bfx) : AnvM Bfx := anvScale recips (quotLog r.big dmin) r

/-- A triangular sweep with factor k, in the order of its rows given (R248 to R250, Table 07-1). Each element is its sum, times the pivot's reciprocal
where the factor has pivots, rounded at the predicted exponent; in a second attempt it saturates. -/
def anvSweep (k : Nat) (rows : List AnvRow) (order : List Nat) (recips : List Sca) (x : Bfx) : AnvM Bfx := do
  let w ← get
  let want := match x.big.log with | some e => e + ((if k = 0 then w.gam.1 else w.gam.2 : Nat) : Int) - 61 | none => x.e
  let e ← anvExp want
  let st ← order.foldlM (fun (st : List (Nat × Int) × Bool) i => do
    let r := rows.getD i ⟨[], 1⟩
    let s := sumAt r.t (Sca.one.term (x.sca i) :: r.es.map (fun l => Sca.term l.2.neg ⟨(assoc? st.1 l.1).getD 0, e⟩))
    let v ← match recips[i]? with
      | some d => do pure (Sca.times (← s.normal) d)
      | none => pure s
    let y ← anvRound want e v.m v.e
    if w.again && y.natAbs > maxSig then
      anvSaturates
      return (st.1 ++ [(i, if y < 0 then -(maxSig : Int) else maxSig)], true)
    else return (st.1 ++ [(i, y)], st.2)) ([], false)
  let ys := st.1
  let out : Bfx := ⟨(List.range x.m.length).map (fun i => (assoc? ys i).getD 0), e⟩
  let growth := match out.big.log, x.big.log with | some a, some b => a - b | _, _ => 0
  if out.m.any (fun m => m.natAbs > maxSig) then anvOver k growth
  else if st.2 then pure ()
  else
    let g := 2 + growth.toNat
    modify (fun u => { u with gam := if k = 0 then (g, u.gam.2) else (u.gam.1, g) })
  return out.normal

end Sys2Proof.Machine
end

