-- ==== Sys2Proof/Machine/AnvFactor.lean ====
section
/-! DEFINITION. The Anvil's preconditioners (spec 07_anvil_solver.md, R267 to R270): pivots and their floors, Jacobi, block Jacobi, IC(0), ILU(0) and
Chebyshev, formed from a matrix's rows and applied to a vector. -/

namespace Sys2Proof.Machine

/-- The entries of a row or of a matrix, one for each column. -/
abbrev Entries := List (Nat × Sca)

/-- Entries that repeat a column are summed (R258). -/
def mergeCols (es : Entries) : AnvM Entries := do
  let sums := es.foldl (fun (acc : List (Nat × Sca × Bool)) e =>
    assocPut acc e.1 (match assoc? acc e.1 with | some x => (x.1.plus e.2, true) | none => (e.2, false))) []
  sums.mapM (fun s => do if s.2.2 then return (s.1, ← s.2.1.normal) else return (s.1, s.2.1))

/-- The largest magnitude of a row, or of the whole matrix where the row is entirely zero (R268). -/
def rowTop (all : Sca) (es : Entries) : Sca := let x := largest (es.map (·.2)); if x.m = 0 then all else x

/-- A pivot below the floor 2^−f × `top` is replaced, and keeps its sign; a pivot of exactly zero becomes the floor (R268, R269). -/
def fixPivot (f : Nat) (top p : Sca) : AnvM Sca := do
  let floor ← scaOf top.m 1 (top.e - f)
  if floor.le p.abs && p.m ≠ 0 then return p
  modify (fun w => { w with pivots := w.pivots + 1 })
  return if p.m < 0 then floor.neg else floor

/-- A quotient or an entry at or beyond 2^(e_i + 64) saturates to the largest magnitude of the range (R270). -/
def satEntry (top v : Sca) : AnvM Sca := do
  match top.log, v.log with
  | some ei, some ev =>
    if ev ≥ ei + 64 then
      anvSaturates
      return ⟨if v.m < 0 then -(maxSig : Int) else maxSig, ei + 1⟩
    else return v
  | _, _ => return v

/-- A factor row, stored in BFX64 with its own exponent (R270). -/
def storeRow (es : Entries) : AnvM AnvRow := do
  match (largest (es.map (·.2))).log with
  | none => return ⟨es, es.length + 1⟩
  | some x =>
    let e ← anvExp (x - 61)
    let ms ← es.mapM (fun c => do return (c.1, Sca.mk (← anvRound (x - 61) e c.2.m c.2.e) e))
    return ⟨ms, es.length + 1⟩

/-- The columns of some rows, as rows whose sums have `extra` terms beside their entries. -/
def transposeRows (n extra : Nat) (rows : List AnvRow) : List AnvRow :=
  (List.range n).map (fun j =>
    let es := ((rows.zipIdx).map (fun ri => (ri.1.es.filter (fun e => e.1 = j)).map (fun e => (ri.2, e.2)))).flatten
    ⟨es, es.length + extra⟩)

/-- The smallest magnitude of some pivots. -/
def smallest (xs : List Sca) : Sca :=
  match xs with
  | [] => ⟨0, 0⟩
  | x :: t => t.foldl (fun (a y : Sca) => if y.abs.le a then y.abs else a) x.abs

/-- Jacobi: the reciprocals of the pivots a_ii (R267, R268). -/
def formJacobi (f : Nat) (rows : List Entries) : AnvM AnvFactor := do
  let all := largest ((rows.flatten).map (·.2))
  let ps ← (rows.zipIdx).mapM (fun ri => fixPivot f (rowTop all ri.1) ((assoc? ri.1 ri.2).getD ⟨0, 0⟩))
  return .jacobi (← ps.mapM (scaDiv Sca.one)) (smallest ps)

/-- A row of an LU factorisation in progress: the row of L, the row of U beside its pivot, the pivot and its reciprocal. -/
structure LuRow where
  l : AnvRow
  u : AnvRow
  pivot : Sca
  recip : Sca
  deriving DecidableEq, Repr

/-- The next row of an LU factorisation without row exchange on the pattern of the matrix, its columns ascending (R267, R270). -/
def luRow (f : Nat) (all : Sca) (done : List LuRow) (row : Entries) : AnvM LuRow := do
  let i := done.length
  let top := rowTop all row
  let st ← row.foldlM (fun (st : Entries × Entries) ja => do
    let ps := st.1.filterMap (fun kl =>
      if kl.1 < ja.1 then ((done[kl.1]?).bind (fun d => assoc? d.u.es ja.1)).map (fun u => kl.2.neg.term u) else none)
    let w ← (sumAt (ps.length + 1) (Sca.one.term ja.2 :: ps)).normal
    if ja.1 < i then
      let l ← satEntry top (← scaDiv w ((done[ja.1]?).elim ⟨0, 0⟩ (·.pivot)))
      return (st.1 ++ [(ja.1, l)], st.2)
    else return (st.1, st.2 ++ [(ja.1, ← satEntry top w)])) ([], [])
  let p ← fixPivot f top ((assoc? st.2 i).getD ⟨0, 0⟩)
  return ⟨← storeRow st.1, ← storeRow (st.2.filter (fun e => e.1 ≠ i)), p, ← scaDiv Sca.one p⟩

/-- An LU factorisation without row exchange (R267). -/
def formLu (f : Nat) (rows : List Entries) : AnvM AnvFactor := do
  let all := largest ((rows.flatten).map (·.2))
  let ds ← rows.foldlM (fun (ds : List LuRow) r => do return ds ++ [← luRow f all ds r]) []
  return .lu (ds.map (·.l)) (ds.map (·.u)) (ds.map (·.recip))

/-- The diagonal blocks of b rows, the last possibly shorter, each dense (R267). -/
def blockRows (b : Nat) (rows : List Entries) : List Entries :=
  (rows.zipIdx).map (fun ri =>
    let s := ri.2 / b * b
    (List.range (min b (rows.length - s))).map (fun j => (s + j, (assoc? ri.1 (s + j)).getD ⟨0, 0⟩)))

/-- A row of an IC(0) factorisation in progress: the row of L, its pivot and the pivot's reciprocal. -/
structure LdlRow where
  l : AnvRow
  pivot : Sca
  recip : Sca
  deriving DecidableEq, Repr

/-- The next row of A ≈ L·D·Lᵀ on the pattern of A's strict lower triangle, its columns ascending (R267, R270). -/
def ldlRow (f : Nat) (all : Sca) (done : List LdlRow) (row : Entries) : AnvM LdlRow := do
  let i := done.length
  let lowEs := row.filter (fun e => e.1 ≤ i)
  let top := rowTop all lowEs
  let st ← (lowEs.filter (fun e => e.1 < i)).foldlM (fun (st : List (Nat × Sca × Sca)) ja => do
    let ps := st.filterMap (fun kw => ((done[ja.1]?).bind (fun d => assoc? d.l.es kw.1)).map (fun l => kw.2.1.neg.term l))
    let w ← (sumAt (ps.length + 1) (Sca.one.term ja.2 :: ps)).normal
    let l ← satEntry top (← scaDiv w ((done[ja.1]?).elim ⟨0, 0⟩ (·.pivot)))
    return st ++ [(ja.1, w, l)]) []
  let d ← (sumAt (st.length + 1) (Sca.one.term ((assoc? lowEs i).getD ⟨0, 0⟩) :: st.map (fun kw => kw.2.1.neg.term kw.2.2))).normal
  let p ← fixPivot f top (← satEntry top d)
  return ⟨← storeRow (st.map (fun kw => (kw.1, kw.2.2))), p, ← scaDiv Sca.one p⟩

/-- IC(0), from the lower triangle of the matrix alone (R267). -/
def formLdl (f : Nat) (rows : List Entries) : AnvM AnvFactor := do
  let all := largest ((((rows.zipIdx).map (fun ri => ri.1.filter (fun e => e.1 ≤ ri.2))).flatten).map (·.2))
  let ds ← rows.foldlM (fun (ds : List LdlRow) r => do return ds ++ [← ldlRow f all ds r]) []
  return .ldl (ds.map (·.l)) (transposeRows rows.length 1 (ds.map (·.l))) (ds.map (·.recip)) (smallest (ds.map (·.pivot)))

/-- The interval of a Chebyshev polynomial: its centre θ, half its width δ, and θ/δ (R267). -/
def formChebyshev (deg : Nat) (low high : Sca) : AnvM AnvFactor := do
  let c ← scaSum [(high, Sca.one), (low, Sca.one)]
  let w ← scaSum [(high, Sca.one), (low.neg, Sca.one)]
  let theta : Sca := ⟨c.m, c.e - 1⟩
  let delta : Sca := ⟨w.m, w.e - 1⟩
  return .chebyshev deg theta delta (← scaDiv theta delta)

/-- The preconditioner that an operation word names, from a matrix's rows (R267, Table 07-2). -/
def formFactor (pc f b deg : Nat) (low high : Sca) (rows : List Entries) : AnvM AnvFactor :=
  match pc with
  | 1 => formJacobi f rows
  | 2 => formLu f (blockRows b rows)
  | 3 => formLdl f rows
  | 4 => formLu f rows
  | 5 => formChebyshev deg low high
  | _ => pure .none

/-- The three-term recurrence of a Chebyshev polynomial, one degree a step (R267): z, the residual r, the last direction d and the last ratio. -/
def chebyshevSteps (mul : Bfx → AnvM Bfx) (delta sigma : Sca) : Nat → Bfx → Bfx → Bfx → Sca → AnvM Bfx
  | 0, z, _, _, _ => pure z
  | k + 1, z, r, d, rho => do
    let r1 ← anvLin [(Sca.one, r), (Sca.one.neg, ← mul d)]
    let rho1 ← scaDiv Sca.one (← scaSum [(⟨sigma.m, sigma.e + 1⟩, Sca.one), (rho.neg, Sca.one)])
    let d1 ← anvLin [(← scaMul rho1 rho, d), (← scaDiv ⟨rho1.m, rho1.e + 1⟩ delta, r1)]
    chebyshevSteps mul delta sigma k (← anvLin [(Sca.one, z), (Sca.one, d1)]) r1 d1 rho1

/-- Apply a preconditioner (R267). -/
def applyFactor (mul : Bfx → AnvM Bfx) (fac : AnvFactor) (r : Bfx) : AnvM Bfx :=
  let n := List.range r.m.length
  match fac with
  | .none => pure r
  | .jacobi recips dmin => anvDiag recips dmin r
  | .ldl lower upper recips dmin => do anvSweep 1 upper n.reverse [] (← anvDiag recips dmin (← anvSweep 0 lower n [] r))
  | .lu lower upper recips => do anvSweep 1 upper n.reverse recips (← anvSweep 0 lower n [] r)
  | .chebyshev deg theta delta sigma => do
    let d ← anvLin [(← scaDiv Sca.one theta, r)]
    chebyshevSteps mul delta sigma deg d r d (← scaDiv Sca.one sigma)

end Sys2Proof.Machine
end

