-- ==== Sys2Proof/Machine/AnvLinear.lean ====
section
/-! DEFINITION. The Anvil's linear methods (spec 07_anvil_solver.md, R262 to R265, Tables 07-9 and 07-10): the start and one iteration of CG, BiCGSTAB,
GMRES and MINRES, their claims, restarts and breakdowns. -/

namespace Sys2Proof.Machine

/-- What an iteration depends on beside its vectors: the inputs, the preconditioner, whether a claim can be made (R263), GMRES's restart length, and
whether the iteration reaches the limit. -/
structure AnvCtx where
  d : AnvData
  f : AnvFactor
  never : Bool
  restart : Nat
  last : Bool
  deriving DecidableEq, Repr

/-- What a completed iteration leaves: its vectors, what a return would write, the tracked norm, the status that ends the solve, the norm reported, GMRES
cycles or inner iterations completed, the inner limit reached, the dual infeasible too, a certificate's residual, the objectives. -/
structure AnvStep where
  vars : AnvVars
  outs : List (Nat × Bfx)
  norm : Sca
  ends : Option Nat
  report : Sca
  cycles : Nat
  hit : Bool
  dual : Bool
  cert : Sca
  primal : Sca
  dualObj : Sca
  deriving DecidableEq, Repr

/-- A step of a linear method. -/
def AnvStep.linear (vars : AnvVars) (x : Bfx) (norm : Sca) (ends : Option Nat) (report : Sca) (cycles : Nat) : AnvStep :=
  { vars := vars, outs := [(2, x)], norm := norm, ends := ends, report := report, cycles := cycles, hit := false, dual := false, cert := ⟨0, 0⟩,
    primal := ⟨0, 0⟩, dualObj := ⟨0, 0⟩ }

/-- The product with A. -/
def AnvCtx.mul (c : AnvCtx) (x : Bfx) : AnvM Bfx := anvMul c.d.a.rows c.d.a.norm x

/-- A preconditioner application. -/
def AnvCtx.pre (c : AnvCtx) (r : Bfx) : AnvM Bfx := applyFactor c.mul c.f r

/-- The true residual b − Ax and its norm (R263). -/
def AnvCtx.residual (c : AnvCtx) (x : Bfx) : AnvM (Bfx × Sca) := do
  let r ← anvLin [(Sca.one, c.d.b), (Sca.one.neg, ← c.mul x)]
  return (r, ← anvNorm r)

/-- A norm meets the test of R263; with both tolerances 0 none does. -/
def AnvCtx.meets (c : AnvCtx) (n : Sca) : Bool := !c.never && n.le c.d.tol

/-- x + αy. -/
def anvAxpy (alpha : Sca) (y x : Bfx) : AnvM Bfx := anvLin [(Sca.one, x), (alpha, y)]

/-- An all-zero vector of a length. -/
def Bfx.zeros (n : Nat) : Bfx := ⟨List.replicate n 0, 0⟩

/-! ### Starts, from an iterate and its true residual -/

/-- CG begins with z = M⁻¹r and p = z. -/
def cgStart (c : AnvCtx) (x r : Bfx) : AnvM AnvVars := do
  let z ← c.pre r
  return .cg x r z (← anvDot r z)

/-- BiCGSTAB begins with r̂ = r and ρ = α = ω = 1. -/
def bicgstabStart (x r : Bfx) : AnvM AnvVars :=
  pure (.bicgstab x r r (Bfx.zeros r.m.length) (Bfx.zeros r.m.length) Sca.one Sca.one Sca.one)

/-- GMRES begins a cycle with the first basis vector r / ‖r‖. -/
def gmresStart (x r : Bfx) (n : Sca) : AnvM AnvVars := do
  let v ← anvLin [(← scaDiv Sca.one n, r)]
  return .gmres x [v] [] [] [n]

/-- MINRES begins its Lanczos recurrence with v = r and z = M⁻¹r; a negative zᵀr breaks the first iteration down. -/
def minresStart (c : AnvCtx) (x r : Bfx) : AnvM AnvVars := do
  let z ← c.pre r
  let zr ← anvDot z r
  let o := Bfx.zeros r.m.length
  return .minres x o r z o o zr Sca.one (← if zr.m < 0 then pure zr else scaRoot zr) ⟨0, 0⟩ ⟨0, 0⟩ Sca.one Sca.one

/-- A linear method begins, or begins again after a claim that the true residual did not meet (R263). -/
def linearStart (method : Nat) (c : AnvCtx) (x r : Bfx) (n : Sca) : AnvM AnvVars :=
  match method with
  | 0 => cgStart c x r
  | 1 => bicgstabStart x r
  | 2 => gmresStart x r n
  | _ => minresStart c x r

/-- An iteration that has a new iterate: a claim forms the true residual, which ends the solve or restarts the method; otherwise the method goes on as
`next` says (R263). -/
def AnvCtx.claim (c : AnvCtx) (method : Nat) (x : Bfx) (n : Sca) (next : AnvM (Option AnvVars)) : AnvM (Option AnvStep) := do
  if c.meets n then
    let t ← c.residual x
    if c.meets t.2 then return some (.linear .none x n (some 0x00) t.2 0)
    else return some (.linear (← linearStart method c x t.1 t.2) x t.2 none t.2 0)
  else return (← next).map (fun v => .linear v x n none n 0)

/-! ### Iterations; none is a breakdown (R265) -/

/-- CG: α = rᵀz / pᵀAp, x and r along p and Ap, then z = M⁻¹r, β and p (R262). -/
def cgIterate (c : AnvCtx) (x r p : Bfx) (rz : Sca) : AnvM (Option AnvStep) := do
  if rz.m ≤ 0 && !r.isZero then return none
  let q ← c.mul p
  let pq ← anvDot p q
  if pq.m ≤ 0 then return none
  let alpha ← scaDiv rz pq
  let x1 ← anvAxpy alpha p x
  let r1 ← anvAxpy alpha.neg q r
  c.claim 0 x1 (← anvNorm r1) (do
    let z ← c.pre r1
    let rz1 ← anvDot r1 z
    return some (.cg x1 r1 (← anvAxpy (← scaDiv rz1 rz) p z) rz1))

/-- BiCGSTAB, right-preconditioned (R262). A zero ω ends it with the stopping test unmet; so does a zero ρ or r̂ᵀv. -/
def bicgstabIterate (c : AnvCtx) (x r rhat p v : Bfx) (rho alpha omega : Sca) : AnvM (Option AnvStep) := do
  let rho1 ← anvDot rhat r
  if rho1.m = 0 then return none
  let beta ← scaMul (← scaDiv rho1 rho) (← scaDiv alpha omega)
  let p1 ← anvLin [(Sca.one, r), (beta, p), ((← scaMul beta omega).neg, v)]
  let y ← c.pre p1
  let v1 ← c.mul y
  let rv ← anvDot rhat v1
  if rv.m = 0 then return none
  let alpha1 ← scaDiv rho1 rv
  let s ← anvAxpy alpha1.neg v1 r
  let z ← c.pre s
  let t ← c.mul z
  let tt ← anvDot t t
  let omega1 ← if tt.m = 0 then pure ⟨0, 0⟩ else do scaDiv (← anvDot t s) tt
  let x1 ← anvLin [(Sca.one, x), (alpha1, y), (omega1, z)]
  let r1 ← anvAxpy omega1.neg t s
  c.claim 1 x1 (← anvNorm r1) (pure (if omega1.m = 0 then none else some (.bicgstab x1 r1 rhat p1 v1 rho1 alpha1 omega1)))

/-- Apply earlier Givens rotations to a Hessenberg column. -/
def givens : List (Sca × Sca) → List Sca → AnvM (List Sca)
  | (co, si) :: rots, a :: b :: t => do
    let a1 ← scaSum [(co, a), (si, b)]
    let b1 ← scaSum [(si.neg, a), (co, b)]
    return a1 :: (← givens rots (b1 :: t))
  | _, h => pure h

/-- Back substitution for the coefficients of a cycle's basis vectors, the last first: column j holds rows 0 to j. -/
def backSubst (cols : List (List Sca)) (g : List Sca) : Nat → List (Nat × Sca) → AnvM (List (Nat × Sca))
  | 0, ys => pure ys
  | i + 1, ys => do
    let s ← scaSum ((g.getD i ⟨0, 0⟩, Sca.one) :: ys.map (fun jy => ((cols.getD jy.1 []).getD i ⟨0, 0⟩, jy.2.neg)))
    backSubst cols g i ((i, ← scaDiv s ((cols.getD i []).getD i ⟨0, 0⟩)) :: ys)

/-- The iterate that a cycle of GMRES forms: x + M⁻¹(Σ y·v), a basis vector at a time. -/
def gmresForm (c : AnvCtx) (x : Bfx) (basis : List Bfx) (cols : List (List Sca)) (g : List Sca) : AnvM Bfx := do
  let ys ← backSubst cols g cols.length []
  let u ← ys.foldlM (fun (u : Bfx) jy => anvAxpy jy.2 (basis.getD jy.1 u) u) (Bfx.zeros x.m.length)
  anvLin [(Sca.one, x), (Sca.one, ← c.pre u)]

/-- GMRES: an Arnoldi step with modified Gram–Schmidt and a Givens update, right-preconditioned; the iterate is formed where R262 says. -/
def gmresIterate (c : AnvCtx) (x : Bfx) (basis : List Bfx) (cols : List (List Sca)) (rots : List (Sca × Sca)) (g : List Sca) :
    AnvM (Option AnvStep) := do
  let j := cols.length
  let w0 ← c.mul (← c.pre (basis.getD j x))
  let st ← basis.foldlM (fun (st : Bfx × List Sca) v => do
    let h ← anvDot st.1 v
    return (← anvAxpy h.neg v st.1, st.2 ++ [h])) (w0, [])
  let sub ← anvNorm st.1
  let h ← givens rots st.2
  let d := h.getD j ⟨0, 0⟩
  let rho ← scaRoot (← scaSum [(d, d), (sub, sub)])
  let co ← scaDiv d rho
  let si ← scaDiv sub rho
  let gj := g.getD j ⟨0, 0⟩
  let cols1 := cols ++ [h.take j ++ [rho]]
  let g1 := g.take j ++ [← scaMul co gj, (← scaMul si gj).neg]
  let est := (g1.getD (j + 1) ⟨0, 0⟩).abs
  let claimed := c.meets est || sub.m = 0
  if claimed || j + 1 = c.restart || c.last then
    let x1 ← gmresForm c x basis cols1 g1
    let t ← c.residual x1
    if claimed && c.meets t.2 then return some (.linear .none x1 est (some 0x00) t.2 1)
    let n := if claimed then t.2 else est
    return some (.linear (← gmresStart x1 t.1 t.2) x1 n none n 1)
  else
    let v ← anvLin [(← scaDiv Sca.one sub, st.1)]
    return some (.linear (.gmres x (basis ++ [v]) cols1 (rots ++ [(co, si)]) g1) x est none est 0)

/-- MINRES: a Lanczos step, two earlier rotations and a new one, and the iterate along the new direction (R262). -/
def minresIterate (c : AnvCtx) (x v0 v1 z w0 w1 : Bfx) (zr gam0 eta s0 s1 c0 c1 : Sca) : AnvM (Option AnvStep) := do
  if zr.m < 0 then return none
  let gam1 ← scaRoot zr
  let u ← anvLin [(← scaDiv Sca.one gam1, z)]
  let q ← c.mul u
  let delta ← anvDot q u
  let v2 ← anvLin [(Sca.one, q), ((← scaDiv delta gam1).neg, v1), ((← scaDiv gam1 gam0).neg, v0)]
  let z2 ← c.pre v2
  let zr2 ← anvDot z2 v2
  if zr2.m < 0 then return none
  let gam2 ← scaRoot zr2
  let a0 ← scaSum [(c1, delta), ((← scaMul c0 s1).neg, gam1)]
  let a1 ← scaRoot (← scaSum [(a0, a0), (gam2, gam2)])
  let a2 ← scaSum [(s1, delta), (← scaMul c0 c1, gam1)]
  let a3 ← scaMul s0 gam1
  let c2 ← scaDiv a0 a1
  let s2 ← scaDiv gam2 a1
  let inv ← scaDiv Sca.one a1
  let w2 ← anvLin [(inv, u), ((← scaMul inv a3).neg, w0), ((← scaMul inv a2).neg, w1)]
  let x1 ← anvAxpy (← scaMul c2 eta) w2 x
  let eta1 := (← scaMul s2 eta).neg
  c.claim 3 x1 eta1.abs (pure (some (.minres x1 v1 v2 z2 w1 w2 zr2 gam1 eta1 s1 s2 c1 c2)))

/-- One iteration of a linear method. A starting residual that already meets the test is claimed at once (R263). -/
def linearIterate (c : AnvCtx) (outs : List (Nat × Bfx)) (norm : Sca) (vars : AnvVars) : AnvM (Option AnvStep) := do
  let x := (assoc? outs 2).getD ⟨[], 0⟩
  let t ← if c.meets norm then c.residual x else pure (⟨[], 0⟩, norm)
  if c.meets norm && c.meets t.2 then return some (.linear vars x norm (some 0x00) t.2 (match vars with | .gmres .. => 1 | _ => 0))
  match vars with
  | .cg x r p rz => cgIterate c x r p rz
  | .bicgstab x r rhat p v rho alpha omega => bicgstabIterate c x r rhat p v rho alpha omega
  | .gmres x basis cols rots g => gmresIterate c x basis cols rots g
  | .minres x v0 v1 z w0 w1 zr gam0 eta s0 s1 c0 c1 => minresIterate c x v0 v1 z w0 w1 zr gam0 eta s0 s1 c0 c1
  | _ => return none

end Sys2Proof.Machine
end

