-- ==== Sys2Proof/Machine/AnvInterior.lean ====
section
/-! DEFINITION. The Anvil's interior-point method (spec 07_anvil_solver.md, R267, R271 to R274): the inner systems and their PCG, the step length, the stopping
measure, and the certificates of LP and QP. The right side of an inner system and the parts of a direction that its solution does not give follow no
rule's equation; they are open values (R272). -/

namespace Sys2Proof.Machine

/-- What LP and QP take from the descriptor and its parameter block (Tables 07-2 and 07-4): the method, tolerances, the inner limit, the preconditioner
with f and b_J; and the bytes that open values depend on. -/
structure IpmParams where
  qp : Bool
  epsP : Sca
  epsD : Sca
  epsG : Sca
  epsT : Sca
  rtol : Sca
  limit : Nat
  pc : Nat
  floor : Nat
  block : Nat
  key : List Byte
  deriving DecidableEq, Repr

/-! ### The inner system (R272) -/

/-- ρ and the LP method's δ: 2^−32. -/
def ipmRho : Sca := ⟨2 ^ 62, -94⟩

/-- The LP operator (AΘAᵀ + δI)p, its last product and its diagonal term one sum (R272, Table 07-1). -/
def lpOperator (d : AnvData) (theta : List Sca) (p : Bfx) : AnvM Bfx := do
  let u ← anvMul d.a.cols d.a.tnorm p
  let w ← anvScale theta ((largest theta).times u.big).log u
  anvFit ((d.a.norm.times w.big).plus (ipmRho.times p.big)) (smallExp d.a.rows (min w.e p.e))
    ((d.a.rows.zipIdx).map (fun ri => sumAt (ri.1.t + 1) (ipmRho.term (p.sca ri.2) :: ri.1.terms w)))

/-- The QP operator (Q + Θ⁻¹ + ρI + δ⁻¹AᵀA)p with δ = 2^−16, one sum after Ap (R272, Table 07-1). -/
def qpOperator (d : AnvData) (thetaInv : List Sca) (p : Bfx) : AnvM Bfx := do
  let v ← anvMul d.a.rows d.a.norm p
  let bound := (((d.q.norm.times p.big).plus ((largest thetaInv).times p.big)).plus (ipmRho.times p.big)).plus
    (Sca.times ⟨1, 16⟩ (d.a.tnorm.times v.big))
  anvFit bound (smallExp d.q.rows (min v.e p.e))
    ((((d.q.rows.zip d.a.cols).zip thetaInv).zipIdx).map (fun x =>
      let q := x.1.1.1
      let a := x.1.1.2
      sumAt (q.t + a.t + 2) (q.terms p ++ [x.1.2.term (p.sca x.2), ipmRho.term (p.sca x.2)] ++ (a.terms v).map (fun t => (t.1, t.2 + 16)))))

/-- Entry (i, j) of a sum of products of two rows. -/
def rowProducts (a b : Entries) : List (Int × Int) := a.filterMap (fun e => (assoc? b e.1).map e.2.term)

/-- The rows of the inner system, of which the preconditioner takes the diagonal or the blocks (R267). -/
def innerRows (qp : Bool) (d : AnvData) (theta : List Sca) : AnvM (List Entries) := do
  let vs ← (if qp then d.a.cols else d.a.rows).mapM (fun r => mergeCols r.es)
  let us ← if qp then pure vs
    else vs.mapM (fun es => es.mapM (fun e => do return (e.1, ← scaMul e.2 (theta.getD e.1 ⟨0, 0⟩))))
  let qs ← if qp then d.q.rows.mapM (fun r => mergeCols r.es) else pure []
  (us.zipIdx).mapM (fun ui => do
    let diag := if qp then [Sca.one.term (theta.getD ui.2 ⟨0, 0⟩), Sca.one.term ipmRho] else [Sca.one.term ipmRho]
    let es := (vs.zipIdx).map (fun vj =>
      (vj.2, ((assoc? (qs.getD ui.2 []) vj.2).map Sca.one.term).toList ++ (if ui.2 = vj.2 then diag else []) ++
        (rowProducts ui.1 vj.1).map (fun t => (t.1, if qp then t.2 + 16 else t.2))))
    (es.filter (fun e => !e.2.isEmpty)).mapM (fun e => do return (e.1, ← (sumAt e.2.length e.2).normal)))

/-- How an inner solve ends: its solution, its iterations, the limit reached, a breakdown (R265, R272). -/
structure PcgEnd where
  v : Bfx
  count : Nat
  hit : Bool
  broke : Bool
  deriving DecidableEq, Repr

/-- Iterations of an inner PCG until its residual is small enough or the limit is reached (R272). -/
def pcgLoop (mul pre : Bfx → AnvM Bfx) (tol : Sca) : Nat → Nat → Bfx → Bfx → Bfx → Sca → AnvM PcgEnd
  | 0, n, v, _, _, _ => pure ⟨v, n, true, false⟩
  | k + 1, n, v, r, p, rz => do
    if rz.m ≤ 0 && !r.isZero then return ⟨v, n, false, true⟩
    let q ← mul p
    let pq ← anvDot p q
    if pq.m ≤ 0 then return ⟨v, n, false, true⟩
    let alpha ← scaDiv rz pq
    let v1 ← anvAxpy alpha p v
    let r1 ← anvAxpy alpha.neg q r
    if (← anvNorm r1).le tol then return ⟨v1, n + 1, false, false⟩
    let z ← pre r1
    let rz1 ← anvDot r1 z
    pcgLoop mul pre tol k (n + 1) v1 r1 (← anvAxpy (← scaDiv rz1 rz) p z) rz1

/-- An inner solve from zero (R272). -/
def pcg (mul pre : Bfx → AnvM Bfx) (rtol : Sca) (limit : Nat) (h : Bfx) : AnvM PcgEnd := do
  let n ← anvNorm h
  let tol ← scaMul rtol n
  let v : Bfx := ⟨List.replicate h.m.length 0, h.e⟩
  if n.le tol then return ⟨v, 0, false, false⟩
  let z ← pre h
  pcgLoop mul pre tol limit 0 v h z (← anvDot h z)

/-! ### Directions and steps (R272) -/

/-- An open vector of an interior-point step: quantities w and w + 1 hold its significands and its exponent. -/
def openVec (key : List Byte) (k w n : Nat) : Bfx :=
  (Bfx.mk ((List.range n).map (fun i => max (-(maxSig : Int)) (Config.anvil key w k i).toInt))
    (toSigned 16 (Config.anvil key (w + 1) k 0).toNat)).normal

/-- An open scalar of an interior-point step. -/
def openSca (key : List Byte) (k w : Nat) : AnvM Sca := scaOf (Config.anvil key w k 0).toInt 1 (toSigned 16 (Config.anvil key (w + 1) k 0).toNat)

/-- A direction in (x, y, s, τ, κ), with how its inner solve ended. -/
structure IpmDir where
  dx : Bfx
  dy : Bfx
  ds : Bfx
  dtau : Sca
  dkappa : Sca
  inner : PcgEnd
  deriving DecidableEq, Repr

/-- A direction: its inner system solved for an open right side, Δy for LP and Δx for QP; its other parts are open. -/
def ipmDirection (I : IpmParams) (mul pre : Bfx → AnvM Bfx) (key : List Byte) (k w m n : Nat) : AnvM IpmDir := do
  let s ← pcg mul pre I.rtol I.limit (openVec key k w (if I.qp then n else m))
  let o := openVec key k (w + 2) (if I.qp then m else n)
  return ⟨if I.qp then s.v else o, if I.qp then o else s.v, openVec key k (w + 4) n, ← openSca key k (w + 6), ← openSca key k (w + 8), s⟩

/-- The longest step along a decreasing element. -/
def stepBound (v d : Sca) : AnvM (List Sca) := do if d.m < 0 then return [← scaDiv v d.neg] else return []

/-- The longest step that keeps x, s, τ and κ positive (R272); open when nothing decreases. -/
def ipmLongest (x s : Bfx) (tau kappa : Sca) (d : IpmDir) (key : List Byte) (k w : Nat) : AnvM Sca := do
  let bs ← ((List.range x.m.length).map (fun i => [(x.sca i, d.dx.sca i), (s.sca i, d.ds.sca i)])).flatten.mapM (fun vd => stepBound vd.1 vd.2)
  let all := bs.flatten ++ (← stepBound tau d.dtau) ++ (← stepBound kappa d.dkappa)
  if all.isEmpty then return (← openSca key k w).abs
  return smallest all

/-- μ: xᵀs + τκ over the n + 1 pairs. -/
def ipmMu (x s : Bfx) (tau kappa : Sca) : AnvM Sca := do
  let t ← scaSum [(← anvDot x s, Sca.one), (tau, kappa)]
  scaDiv t ⟨(x.m.length : Int) + 1, 0⟩

/-! ### Stopping (R273, R274) -/

/-- The scaled iterate x̄, ȳ with its measure: the three tests met, the largest of their quotients, the objectives. -/
structure IpmMeasure where
  xb : Bfx
  yb : Bfx
  met : Bool
  norm : Sca
  primal : Sca
  dual : Sca
  deriving DecidableEq, Repr

/-- The product with Q; zero for LP (R271). -/
def mulQ (qp : Bool) (d : AnvData) (x : Bfx) : AnvM Bfx := if qp then anvMul d.q.rows d.q.norm x else pure (Bfx.zeros x.m.length)

/-- The tests of R273 on an iterate. -/
def ipmMeasure (I : IpmParams) (d : AnvData) (x y s : Bfx) (tau : Sca) : AnvM IpmMeasure := do
  let inv ← scaDiv Sca.one tau
  let xb ← anvLin [(inv, x)]
  let yb ← anvLin [(inv, y)]
  let sb ← anvLin [(inv, s)]
  let one := Sca.one
  let rp ← anvLin [(one, ← anvMul d.a.rows d.a.norm xb), (one.neg, d.b)]
  let qx ← mulQ I.qp d xb
  let aty ← anvMul d.a.cols d.a.tnorm yb
  let rd ← anvLin ([(one, aty), (one, sb), (one.neg, d.c)] ++ (if I.qp then [(one.neg, qx)] else []))
  let cx ← anvDot d.c xb
  let xqx ← anvDot xb qx
  let bY ← anvDot d.b yb
  let gap ← scaSum [(one, cx), (one, xqx), (one.neg, bY)]
  let half : Sca := ⟨xqx.m, xqx.e - 1⟩
  let primal ← scaSum [(one, cx), (one, half)]
  let b1 ← scaSum [(one, one), (one, d.b.big)]
  let b2 ← scaSum [(one, one), (one, d.c.big)]
  let b3 ← scaSum [(one, one), (one, primal.abs)]
  let met := rp.big.le (← scaMul I.epsP b1) && rd.big.le (← scaMul I.epsD b2) && gap.abs.le (← scaMul I.epsG b3)
  return ⟨xb, yb, met, largest [← scaDiv rp.big b1, ← scaDiv rd.big b2, ← scaDiv gap.abs b3], primal, ← scaSum [(one, bY), (one.neg, half)]⟩

/-- The certificate of primal infeasibility: ŷ and ρ_y, where bᵀy > 0 (R274). -/
def infeasible (d : AnvData) (y : Bfx) : AnvM (Option (Bfx × Sca)) := do
  let bY ← anvDot d.b y
  if bY.m ≤ 0 then return none
  let yh ← anvLin [(← scaDiv Sca.one bY, y)]
  let r ← anvMul d.a.cols d.a.tnorm yh
  return some (yh, ⟨r.m.foldl max 0, r.e⟩)

/-- The certificate of unboundedness: x̂ and ρ_x, where cᵀx < 0 (R274). -/
def unbounded (qp : Bool) (d : AnvData) (x : Bfx) : AnvM (Option (Bfx × Sca)) := do
  let cx ← anvDot d.c x
  if 0 ≤ cx.m then return none
  let xh ← anvLin [(← scaDiv Sca.one cx.neg, x)]
  let ax ← anvMul d.a.rows d.a.norm xh
  let qx ← mulQ qp d xh
  return some (xh, ax.big.max qx.big)

/-- A certificate that meets its tolerance. -/
def certHolds (eps : Sca) (c : Option (Bfx × Sca)) : Option (Bfx × Sca) := c.filter (fun x => x.2.le eps)

/-- LP and QP begin at x = s = 1, y = 0, τ = κ = 1 (R272). -/
def ipmStart (m n : Nat) : AnvVars :=
  .interior ⟨List.replicate n (2 ^ 61), -61⟩ (Bfx.zeros m) ⟨List.replicate n (2 ^ 61), -61⟩ Sca.one Sca.one

/-- What an iterate's tests make of it: the stopping test first, then the certificates where τ ≤ ε_τ·κ (R273, R274). -/
def ipmStep (I : IpmParams) (d : AnvData) (x y s : Bfx) (tau kappa : Sca) (cycles : Nat) (hit : Bool) : AnvM AnvStep := do
  let t ← ipmMeasure I d x y s tau
  let certs : Bool := !t.met && tau.le (I.epsT.times kappa)
  let u ← if certs then do pure (certHolds I.epsD (← infeasible d y)) else pure none
  let v ← if certs then do pure (certHolds I.epsP (← unbounded I.qp d x)) else pure none
  return { vars := .interior x y s tau kappa,
           outs := [(2, match v with | some c => c.1 | none => t.xb), (3, match u with | some c => c.1 | none => t.yb)],
           norm := t.norm, ends := if t.met then some 0x00 else if u.isSome then some 0x22 else if v.isSome then some 0x23 else none,
           report := t.norm, cycles := cycles, hit := hit, dual := u.isSome && v.isSome,
           cert := match u with | some c => c.2 | none => (match v with | some c => c.2 | none => ⟨0, 0⟩),
           primal := t.primal, dualObj := t.dual }

/-- One predictor-corrector step with its two inner PCG solves (R262, R272); none where an inner solve breaks down (R265). -/
def ipmIterate (I : IpmParams) (d : AnvData) (k : Nat) (x y s : Bfx) (tau kappa : Sca) : AnvM (Option AnvStep) := do
  let n := x.m.length
  let m := y.m.length
  let theta ← (List.range n).mapM (fun i => if I.qp then scaDiv (s.sca i) (x.sca i) else scaDiv (x.sca i) (s.sca i))
  let f ← if I.pc = 0 then pure .none else do formFactor I.pc I.floor I.block 0 ⟨0, 0⟩ ⟨0, 0⟩ (← innerRows I.qp d theta)
  let mul := if I.qp then qpOperator d theta else lpOperator d theta
  let pre := applyFactor mul f
  let aff ← ipmDirection I mul pre I.key k 0 m n
  if aff.inner.broke then return none
  let a ← ipmLongest x s tau kappa aff I.key k 20
  let mu ← ipmMu x s tau kappa
  let muAff ← ipmMu (← anvAxpy a aff.dx x) (← anvAxpy a aff.ds s) (← scaSum [(Sca.one, tau), (a, aff.dtau)])
    (← scaSum [(Sca.one, kappa), (a, aff.dkappa)])
  let r ← scaDiv muAff mu
  let sigma ← scaMul (← scaMul r r) r
  let key := I.key ++ leBytes 8 (ofSigned 64 sigma.m) ++ leBytes 2 (ofSigned 16 sigma.e)
  let dir ← ipmDirection I mul pre key k 10 m n
  if dir.inner.broke then return none
  let step ← scaMul (← scaOf 995 1000 0) (← ipmLongest x s tau kappa dir key k 22)
  return some (← ipmStep I d (← anvAxpy step dir.dx x) (← anvAxpy step dir.dy y) (← anvAxpy step dir.ds s)
    (← scaSum [(Sca.one, tau), (step, dir.dtau)]) (← scaSum [(Sca.one, kappa), (step, dir.dkappa)])
    (aff.inner.count + dir.inner.count) (aff.inner.hit || dir.inner.hit))

end Sys2Proof.Machine
end

