-- ==== Sys2Proof/Machine/Checks.lean ====
section
/-! DEFINITION. Check values: CRC-64 of R475 and CRC-32C of R396. -/

namespace Sys2Proof.Machine

/-- One bit of an unreflected CRC of `w` bits. -/
def crcBit (w poly c : Nat) : Nat := if c.testBit (w - 1) then ((c <<< 1) ^^^ poly) % 2 ^ w else (c <<< 1) % 2 ^ w

/-- One byte of an unreflected CRC of `w` bits. -/
def crcByte (w poly c b : Nat) : Nat := countFold 8 (fun _ x => crcBit w poly x) (c ^^^ (b <<< (w - 8)))

/-- CRC-64 with polynomial 0x42F0E1EBA9EA3693, initial value 0, no reflection, no final XOR (R475). -/
def crc64 (bs : List Byte) : Nat := bs.foldl (fun c b => crcByte 64 0x42F0E1EBA9EA3693 c b.toNat) 0

/-- One bit of a reflected CRC. -/
def crcBitR (poly c : Nat) : Nat := if c % 2 = 1 then (c >>> 1) ^^^ poly else c >>> 1

/-- One byte of a reflected CRC. -/
def crcByteR (poly c b : Nat) : Nat := countFold 8 (fun _ x => crcBitR poly x) (c ^^^ b)

/-- CRC-32C: the Castagnoli polynomial, reflected, initial value and final XOR all ones (R396). -/
def crc32c (bs : List Byte) : Nat := (bs.foldl (fun c b => crcByteR 0x82F63B78 c b.toNat) 0xffffffff) ^^^ 0xffffffff

end Sys2Proof.Machine
end

