-- ==== Sys2Proof/Machine/Ops.lean ====
section
/-! DEFINITION. The named operations every family works through: registers and counters, events, log records and interrupt messages,
partitions and principals, flags, and the lifts of a command's effect on the package into a step (R9 to R12, R213, R357, R461 to R463,
R559, R570, R597). -/

namespace Sys2Proof.Machine

/-- Hall time as the dies' copies hold it (R453). -/
def Env.hall (e : Env) : Nat := e.clock.hall

/-- The number of the most recent beat (R456). -/
def Clock.beat (c : Clock) : Nat := c.hall / 16

/-- The beat that tags an event which arises now: the one whose interval is in progress (R461). -/
def Env.tag (e : Env) : Nat := e.clock.beat + 1

/-- The hall time of the tagging beat (R236, R480). -/
def Env.tagHall (e : Env) : Nat := 16 * e.tag

/-- A register's stored word. -/
def Pkg.reg (p : Pkg) (k : Nat) : W64 := sparseGet regDefault p.regs k

/-- Set a register's stored word. -/
def Pkg.setReg (p : Pkg) (k : Nat) (w : W64) : Pkg := { p with regs := sparseSet regDefault p.regs k w }

/-- A register's stored word as a number. -/
def Pkg.regNat (p : Pkg) (k : Nat) : Nat := (p.reg k).toNat

/-- Set a register's stored word from a number. -/
def Pkg.setNat (p : Pkg) (k n : Nat) : Pkg := p.setReg k (BitVec.ofNat 64 n)

/-- A field of a register. -/
def Pkg.fld (p : Pkg) (k : Nat) (f : Field) : Nat := getField (p.reg k) f

/-- Set a field of a register. -/
def Pkg.setFld (p : Pkg) (k : Nat) (f : Field) (v : Nat) : Pkg := p.setReg k (setField (p.reg k) f v)

/-- A one-bit field reads 1. -/
def Pkg.on (p : Pkg) (k : Nat) (f : Field) : Bool := p.fld k f == 1

/-- Add to a 64-bit register, modulo 2^64. -/
def Pkg.addReg (p : Pkg) (k n : Nat) : Pkg := p.setReg k (p.reg k + BitVec.ofNat 64 n)

/-- Add to a counter unless its unit's freeze bit holds it. -/
def Pkg.bump (p : Pkg) (ctrl : Nat) (freeze : Field) (k n : Nat) : Pkg := if p.on ctrl freeze then p else p.addReg k n

/-- OR a flag set into a sticky register (R79). -/
def Pkg.orReg (p : Pkg) (k n : Nat) : Pkg := p.setReg k (p.reg k ||| BitVec.ofNat 64 n)

/-- Set registers to zero. -/
def Pkg.zeroRegs (p : Pkg) (ks : List Nat) : Pkg := ks.foldl (fun q k => q.setReg k 0) p

/-- Array counters of die `d` (Table 03-11). -/
def Pkg.arrCount (p : Pkg) (d k n : Nat) : Pkg := p.bump (Reg.ARR_CTRL d) Fld.ARR_CNT_FREEZE k n

/-- Quench counters of die `d` (Table 04-7). -/
def Pkg.quenchCount (p : Pkg) (d k n : Nat) : Pkg := p.bump (Reg.ARR_QCTRL d) Fld.ARR_QCNT_FREEZE k n

/-- Coat counters of die `d` (Table 05-16). -/
def Pkg.coatCount (p : Pkg) (d k n : Nat) : Pkg := p.bump (Reg.COAT_CTRL d) Fld.COAT_CNT_FREEZE k n

/-- Anvil counters of host die `h` (Table 07-16). -/
def Pkg.anvCount (p : Pkg) (h k n : Nat) : Pkg := p.bump (Reg.ANV_CTRL h) Fld.ANV_CNT_FREEZE k n

/-- Counters of stack `s` (Table 08-11). -/
def Pkg.memCount (p : Pkg) (s k n : Nat) : Pkg := p.bump (Reg.MEM_CTRL s) Fld.MEM_CNT_FREEZE k n

/-- Fabric counters of fabric die `f` (Table 10-13). -/
def Pkg.fabCount (p : Pkg) (f k n : Nat) : Pkg := p.bump (Reg.FAB_CTRL f) Fld.FAB_CNT_FREEZE k n

/-- Collective counters of fabric die `f` (Tables 11-14, 11-15). -/
def Pkg.colCount (p : Pkg) (f k n : Nat) : Pkg := p.bump (Reg.COL_CTRL f) Fld.COL_CNT_FREEZE k n

/-- Fault counters (Table 14-7). -/
def Pkg.rasCount (p : Pkg) (k n : Nat) : Pkg := p.bump Reg.RAS_CTRL Fld.RAS_CNT_FREEZE k n

/-- Checkpoint counters of X `x` (Table 15-12). -/
def Pkg.ckpCount (p : Pkg) (x k n : Nat) : Pkg := p.bump (Reg.CKP_CTRL x) Fld.CKP_CNT_FREEZE k n

/-- Management counters (Table 16-15). -/
def Pkg.mgtCount (p : Pkg) (k n : Nat) : Pkg := p.bump Reg.MGT_CTRL Fld.MGT_CNT_FREEZE k n

/-- Power counters (Table 17-6). -/
def Pkg.pwrCount (p : Pkg) (k n : Nat) : Pkg := p.bump Reg.PWR_CTRL Fld.PWR_CNT_FREEZE k n

/-- The island code of a die (Tables 00-3, 01-8): a stash die shares its array die's island. -/
def islandOf (die : Nat) : Nat :=
  if die < 8 then die else if die < 16 then die - 8 else if die < 20 then 8 + (die - 16) else if die < 28 then 12
  else if die < 30 then 14 else if die = 30 then 15 else 16

/-- Raise a log record that is not an event (Table 16-11). -/
def Pkg.record (p : Pkg) (die unit kind detail : Nat) (data : List Byte) : Pkg :=
  { p with raised := p.raised ++ [⟨false, die, unit, 0, kind, detail, padTo 28 data⟩] }

/-- Raise an event of Table 13-2. A class-8 event is counted and owes its unit a targeted self-test at the next beat unless the unit's
kind is not tested, or it is retired, or a test of it is owed or running (R480); a class-4 event is counted (Table 14-7). -/
def Pkg.event (p : Pkg) (cls die unit kind detail : Nat) (data : List Byte) : Pkg :=
  let p1 := { p with raised := p.raised ++ [⟨false, die, unit, cls, kind, detail, padTo 28 data⟩] }
  if cls = 8 then
    let p2 := p1.rasCount Reg.RAS_CNT_DETECTED 1
    if unit / 4096 = 0xe ∨ unit / 4096 = 0xf ∨ p2.ras.retired.contains (die, unit) ∨ p2.ras.owed.contains (die, unit) ∨
        p2.ras.ready.contains (die, unit) ∨ p2.ras.tests.any (fun t => t.die == die && t.unit == unit) then p2
    else { p2 with ras := { p2.ras with owed := p2.ras.owed ++ [(die, unit)] } }
  else if cls = 4 then p1.rasCount Reg.RAS_CNT_UNCORR 1
  else p1

/-- Raise an interrupt source's condition; a source delivers one message for each beat, in the place of the first event that raised it
(R358). -/
def Pkg.raiseIrq (p : Pkg) (cls die src : Nat) : Pkg :=
  let later (m : IrqMsg) : Bool := cls < m.cls || (cls == m.cls && die < m.die)
  if p.irqs.any (fun m => m.src = src && !later m) then p
  else { p with irqs := p.irqs.filter (fun m => m.src ≠ src) ++ [⟨cls, die, src⟩] }

/-- Draw the next free value's index. -/
def Pkg.drawFree (p : Pkg) (n : Nat) : Nat × Pkg := (p.free, { p with free := p.free + n })

/-- Numerics firmware level of the running firmware, as IDENTIFY reports it (Table 13-3, Table 16-5). -/
def Pkg.numLevel (p : Pkg) : Nat := (Config.numericsLevel (BitVec.ofNat 32 p.fwVersion)).toNat

/-- A package fully working: boot stage 5 (R628). -/
def Pkg.working (p : Pkg) : Bool := p.fld Reg.PKG_BOOT Fld.PKG_BOOT_STAGE == 5

/-- The Jiward complex runs: firmware of either slot (R540, Table 16-14). -/
def Pkg.complexUp (p : Pkg) : Bool := p.fld Reg.MGT_STATUS Fld.MGT_STATE == 1 || p.fld Reg.MGT_STATUS Fld.MGT_STATE == 3

/-- Partition `c` is configured (R597). -/
def Pkg.partValid (p : Pkg) (c : Nat) : Bool := p.on (Reg.SEC_PART c) Fld.SEC_PART_VALID

/-- A bit of a partition's mask. -/
def Pkg.partHas (p : Pkg) (c : Nat) (f : Field) (i : Nat) : Bool := p.partValid c && (p.fld (Reg.SEC_PART c) f).testBit i

/-- The array dies of partition `c`, ascending (R107, R597). -/
def Pkg.partDies (p : Pkg) (c : Nat) : List Nat := rangeFilter 8 (fun d => p.partHas c Fld.SEC_PART_DIES d)

/-- The lead die of partition `c`: its lowest array die. -/
def Pkg.leadDie (p : Pkg) (c : Nat) : Nat := (p.partDies c).headD 0

/-- The partition that owns an array die. -/
def Pkg.partOfDie (p : Pkg) (d : Nat) : Option Nat := (List.range 8).find? (fun c => p.partHas c Fld.SEC_PART_DIES d)

/-- The partition that owns a core group (nine cores to a group). -/
def Pkg.partOfGroup (p : Pkg) (g : Nat) : Option Nat := (List.range 8).find? (fun c => p.partHas c Fld.SEC_PART_GROUPS g)

/-- The partition that owns a fabric-engine group, that of one fabric die's engines. -/
def Pkg.partOfEngines (p : Pkg) (f : Nat) : Option Nat := (List.range 8).find? (fun c => p.partHas c Fld.SEC_PART_ENGINES f)

/-- The partition that owns an Anvil. -/
def Pkg.partOfAnvil (p : Pkg) (h : Nat) : Option Nat := (List.range 8).find? (fun c => p.partHas c Fld.SEC_PART_ANVILS h)

/-- The core group of a core: nine cores a group, four groups a host die (R327, R597). -/
def coreGroup (g : Nat) : Nat := g / 9

/-- The die that an access to an MMIO offset comes from (R31, R215): a fabric request's is the home fabric die of the offset (R394). -/
def sourceDie (s : Source) (off : Nat) : Nat :=
  match s with
  | .core g => 16 + g.val / 36
  | .pcie x => 28 + x.val
  | .engine d => d.val
  | .fabric _ => 20 + off / 256 % 8

/-- Of earlier changes of this beat, those in the same clock cycle as the one that comes now: a free choice for each (log entry 83). -/
def Pkg.sameCycle {α : Type} (p : Pkg) (xs : List α) : List α × Pkg :=
  ((xs.zipIdx.filter (fun x => Config.sameCycle (p.free + x.2))).map (·.1), { p with free := p.free + xs.length })

/-- The number under which the beat's writes list what an engine's commit set in a register (R81); no die has it. -/
abbrev hardwareDie : Nat := 32

/-- A register write takes its place among those of its cycle (R31): bits that a higher-numbered die wrote in the same cycle stand, and `act`
takes the word with them in place. `cover` are the bits written, `full` the word they make, `cur` the word as it stands. -/
def Pkg.inOrder (p : Pkg) (die key : Nat) (cover full : W64) (cur : Pkg → W64) (act : W64 → Pkg → Pkg) : Pkg :=
  let x := p.sameCycle (p.cycle.filter (fun (c : CycleWrite) => c.key == key && die < c.die && c.die < hardwareDie))
  let keep := x.1.foldl (fun (m : W64) (c : CycleWrite) => m ||| c.bits) 0 &&& cover
  let word := (full &&& ~~~keep) ||| (cur p &&& keep)
  let q := act word x.2
  { q with cycle := q.cycle ++ [⟨key, die, cover &&& ~~~keep &&& ~~~(cur q ^^^ word)⟩] }

/-- No write of the register from a higher-numbered die, and no commit into it, came earlier in this beat. -/
def Pkg.calm (p : Pkg) (die key : Nat) : Bool := p.cycle.all (fun (c : CycleWrite) => !(c.key == key && die < c.die))

/-- A mailbox's binding names a source (R544, R545). -/
def Pkg.bindNames (p : Pkg) (m : Nat) (s : Source) : Bool :=
  let b := Reg.MGT_MB_BIND m
  p.on b Fld.MGT_MB_BVALID &&
  match s with
  | .core g => (p.fld b Fld.MGT_MB_GROUPS).testBit (coreGroup g.val)
  | .pcie x => if x.val = 0 then p.on b Fld.MGT_MB_PCIE0 else p.on b Fld.MGT_MB_PCIE1
  | _ => false

/-- The mailbox whose principal an access's source stands for: the lowest-numbered that names it (R559). -/
def Pkg.principalOf (p : Pkg) (s : Source) : Option Nat := (List.range 16).find? (fun m => p.bindNames m s)

/-- Roles of a binding (Table 16-13). -/
abbrev roleHost : Nat := 0
abbrev roleOperator : Nat := 1
abbrev roleOwner : Nat := 2
abbrev roleAuditor : Nat := 3

/-- A mailbox's role. -/
def Pkg.mbRole (p : Pkg) (m : Nat) : Nat := p.fld (Reg.MGT_MB_BIND m) Fld.MGT_MB_ROLE

/-- A mailbox's partition. -/
def Pkg.mbPart (p : Pkg) (m : Nat) : Nat := p.fld (Reg.MGT_MB_BIND m) Fld.MGT_MB_PART

/-- The source's principal is OWNER of a partition. -/
def Pkg.isOwner (p : Pkg) (s : Source) (c : Option Nat) : Bool :=
  match p.principalOf s, c with
  | some m, some q => p.mbRole m == roleOwner && p.mbPart m == q
  | _, _ => false

/-- The source's principal is OPERATOR. -/
def Pkg.isOperator (p : Pkg) (s : Source) : Bool :=
  match p.principalOf s with
  | some m => p.mbRole m == roleOperator
  | none => false

/-- Context of a queue (R198). -/
def Pkg.queueCtx (p : Pkg) (q : Nat) : Nat := p.fld (Reg.DSP_QCFG q) Fld.DSP_Q_CTX

/-- The partition an interrupt source belongs to; none when it is package-wide (Table 09-16). -/
def Pkg.irqPart (p : Pkg) (s : Nat) : Option Nat :=
  if s < 64 then some (p.queueCtx s)
  else if s < 72 then some (s - 64)
  else if s < 104 then p.partOfEngines ((s - 72) / 4)
  else if 114 ≤ s ∧ s < 130 then
    (if p.on (Reg.MGT_MB_BIND (s - 114)) Fld.MGT_MB_BVALID && p.mbRole (s - 114) == roleOwner then some (p.mbPart (s - 114)) else none)
  else none

/-- The protection tables grant the LK fields of a register to a write's source (R10, R363, Tables 09-16, 11-13, 13-8; R600 grants the
fields of the tables themselves to no write). -/
def Pkg.granted (p : Pkg) (s : Source) (h : RegHit) (v : Nat) : Bool :=
  match h.spec.name with
  | "PKG_IRQ_ROUTE" =>
    (match p.irqPart h.index with
     | some c => p.isOwner s (some c) && p.partHas c Fld.SEC_PART_GROUPS (coreGroup (bitsOf v 17 10))
     | none => p.isOperator s)
  | "FAB_HAPT" => p.isOwner s (some (p.fld h.key Fld.FAB_HAPT_OWNER))
  | "COL_TCNT" => p.isOwner s (p.partOfEngines (h.key / blockBytes - 20))
  | "TIM_REL_AT" => p.isOwner s (some h.index)
  | "TIM_CTX_CFG" => p.isOwner s (some h.index)
  | "FAB_PORT_CTRL" => p.isOperator s
  | _ => false

/-- A source as a number of 24 bits in a refused-access record (Table 16-11). -/
def sourceNum : Source → Nat
  | .core g => g.val
  | .pcie x => 0x100 + x.val
  | .engine d => 0x200 + d.val
  | .fabric l => 0x40000 + l.val

/-- Who made a refused access, as the record's data (R10, R559, Table 16-11; the layout is log entry 82): the source in bits [23:0], and in bits
[31:24] the principal it stands for, 0x80 + 8 × role + partition, or 0 when no binding names it. -/
def Pkg.accessor (p : Pkg) (s : Source) : List Byte :=
  leBytes 4 (sourceNum s + 2 ^ 24 * (match p.principalOf s with | some m => 0x80 + 8 * p.mbRole m + p.mbPart m | none => 0))

/-- A refused access: principal and source, register offset, value (Table 16-11, kind 0x03). Those of R545, R547, R558 and R559 are counted
(Table 16-15). -/
def Pkg.refuse (p : Pkg) (die detail : Nat) (s : Source) (off v : Nat) : Pkg :=
  let p1 := p.record die 0 3 detail (p.accessor s ++ leBytes 8 off ++ leBytes 8 v)
  if detail = 4 ∨ detail = 5 ∨ detail = 6 then p1.mgtCount Reg.MGT_CNT_REJECT 1 else p1

/-- A flag's value (R211). -/
def Pkg.flag (p : Pkg) (c n : Nat) : Nat := p.regNat (Reg.DSP_FLAG c n)

/-- Changes of a flag earlier in this beat from dies above `die`. -/
def Pkg.flagAbove (p : Pkg) (die c n : Nat) : List FlagChange :=
  p.flagCycle.filter (fun (x : FlagChange) => x.ctx == c && x.n == n && die < x.die)

/-- Add to a flag, modulo 2^64, from a die: an event of class 10 (R212, R213). A set of the same cycle from a higher-numbered die overwrites the
sum (R215). -/
def Pkg.addFlag (p : Pkg) (die c n inc : Nat) : Pkg :=
  let x := p.sameCycle ((p.flagAbove die c n).filter (fun (y : FlagChange) => y.set))
  let q := if x.1.isEmpty then x.2.addReg (Reg.DSP_FLAG c n) inc else x.2
  { q with flagCycle := q.flagCycle ++ [⟨c, n, die, false, inc⟩] }

/-- Set a flag from a die. Of changes in the same cycle from higher-numbered dies, a set overwrites this one and additions add to it (R215). -/
def Pkg.setFlag (p : Pkg) (die c n v : Nat) : Pkg :=
  let x := p.sameCycle (p.flagAbove die c n)
  let sum := (x.1.map (fun (y : FlagChange) => y.amount)).sum
  let q := if x.1.any (fun (y : FlagChange) => y.set) then x.2 else x.2.setNat (Reg.DSP_FLAG c n) (v + sum)
  { q with flagCycle := q.flagCycle ++ [⟨c, n, die, true, v⟩] }

/-- A flag is host-writable (Table 06-19). -/
def Pkg.flagWritable (p : Pkg) (c n : Nat) : Bool := (p.regNat (Reg.DSP_FLAG_ATTR c (n / 32))).testBit (n % 32)

/-- The queue's dispatcher state. -/
def Pkg.queueSt (p : Pkg) (q : Nat) : QueueSt := (assoc? p.dsp.queues q).getD ⟨none, [], false, none, none⟩

/-- Set a queue's dispatcher state. -/
def Pkg.setQueueSt (p : Pkg) (q : Nat) (s : QueueSt) : Pkg := { p with dsp := { p.dsp with queues := assocPut p.dsp.queues q s } }

/-- A context's dispatcher state. -/
def Pkg.ctxSt (p : Pkg) (c : Nat) : CtxSt := (assoc? p.dsp.ctxs c).getD ⟨0, false, none, false, false⟩

/-- Set a context's dispatcher state. -/
def Pkg.setCtxSt (p : Pkg) (c : Nat) (s : CtxSt) : Pkg := { p with dsp := { p.dsp with ctxs := assocPut p.dsp.ctxs c s } }

/-- The started descriptor of a queue: at most one (R206). -/
def Pkg.runOf (p : Pkg) (q : Nat) : Option Run := p.dsp.runs.find? (fun r => r.queue = q)

/-- Put back a started descriptor. -/
def Pkg.setRun (p : Pkg) (r : Run) : Pkg :=
  { p with dsp := { p.dsp with runs := p.dsp.runs.map (fun x => if x.queue = r.queue then r else x) } }

/-- Add a started descriptor to the journal. -/
def Pkg.addRun (p : Pkg) (r : Run) : Pkg := { p with dsp := { p.dsp with runs := p.dsp.runs ++ [r] } }

/-- Free a descriptor's journal entry; the coat engines of every die leave its tiles (R170, Table 05-12). -/
def Pkg.dropRun (p : Pkg) (q : Nat) : Pkg :=
  { p with dsp := { p.dsp with runs := p.dsp.runs.filter (fun x => x.queue ≠ q) }, coatNow := p.coatNow.filter (fun x => x.2.queue ≠ q) }

/-- Change the started descriptor of a queue. -/
def Pkg.updRun (p : Pkg) (q : Nat) (f : Run → Run) : Pkg :=
  { p with dsp := { p.dsp with runs := p.dsp.runs.map (fun x => if x.queue = q then f x else x) } }

/-- A status is raised for a descriptor at a beat (R237). -/
def Run.raise (r : Run) (beat code : Nat) : Run := { r with statuses := r.statuses ++ [(beat, code)] }

/-- A delay reason is raised: 0x01 OK_DELAYED with the first reason kept (R237, Table 06-14). -/
def Run.delayBy (r : Run) (beat reason : Nat) : Run := { r.raise beat 1 with delay := if r.delay = 0 then reason else r.delay }

/-- A failure ends a descriptor with 0x3F ABORTED and a cause; the first cause is kept. -/
def Run.abort (r : Run) (beat cause : Nat) : Run :=
  { r.raise beat 0x3f with reason := if r.statuses.any (fun s => s.2 = 0x3f) then r.reason else cause }

/-- Mark the descriptor of a queue delayed. -/
def Pkg.delayRun (p : Pkg) (q beat reason : Nat) : Pkg := p.updRun q (fun r => r.delayBy beat reason)

/-- A queue is enabled. -/
def Pkg.queueEnabled (p : Pkg) (q : Nat) : Bool := p.on (Reg.DSP_QCTRL q) Fld.DSP_Q_ENABLE

/-- The queues bound to a context. -/
def Pkg.ctxQueues (p : Pkg) (c : Nat) : List Nat := rangeFilter 64 (fun q => p.queueCtx q == c)

/-- The context has an enabled queue. -/
def Pkg.ctxHasEnabled (p : Pkg) (c : Nat) : Bool := (p.ctxQueues c).any p.queueEnabled

/-- A counter value modulo 2^32, as a difference of sequence numbers (R200). -/
def seqDiff (a b : Nat) : Nat := (a + 2 ^ 32 - b % 2 ^ 32) % 2 ^ 32

/-- Slots of a queue's rings (R199). -/
def Pkg.ringSlots (p : Pkg) (q : Nat) : Nat := 2 ^ (p.fld (Reg.DSP_QBASE q) Fld.DSP_Q_SIZE + 6)

/-- Record a disturbance in timed-reproducible mode: counter, sticky bit, log (R474). Detail 1 replay, 2 supply, 3 thermal, 4 fabric. -/
def Pkg.disturb (p : Pkg) (detail die unit : Nat) : Pkg :=
  if p.on Reg.TIM_CTRL Fld.TIM_TRMODE then
    let k := match detail with
      | 1 => Reg.TIM_CNT_DIST_REPLAY | 2 => Reg.TIM_CNT_DIST_SUPPLY | 3 => Reg.TIM_CNT_DIST_THERMAL | _ => Reg.TIM_CNT_DIST_FABRIC
    ((p.addReg k 1).setFld Reg.TIM_STATUS Fld.TIM_TR_DISTURBED 1).record die unit 0x10 detail (leBytes 2 unit)
  else p

/-- An event a command stands for, by which it is logged superseded after a class-1 or class-2 event of its beat (R463). -/
structure Ev where
  cls : Nat
  die : Nat
  unit : Nat
  deriving DecidableEq, Repr

/-- A command that is no event of Table 13-2. -/
def Ev.none : Ev := ⟨0, 0, 0⟩

/-- Take an effect on the package into the state: the log records it raised join the records of the beat in progress (R570). -/
def State.lift (s : State) (f : Env → Pkg → Pkg) : State :=
  let p := f ⟨s.clock, s.log⟩ s.pkg
  { s with
    pkg := { p with raised := [] }
    log := { s.log with beatBuf := s.log.beatBuf ++ p.raised.map (fun r => (s.clock.beat + 1, r)) } }

/-- A command with an effect whatever the package's stage. -/
def State.any (s : State) (f : Env → Pkg → Pkg) : Host.Outcome State Fault Refusal := .next (s.lift f)

/-- An effect on a working package. At any other stage nothing takes it; an event of the beat in which a class-1 or class-2 event stopped
the package is logged superseded (R463). -/
def Pkg.atWork (ev : Ev) (f : Env → Pkg → Pkg) (e : Env) (p : Pkg) : Pkg :=
  if p.working then f e p
  else if p.stopBeat = some e.tag ∧ ev.cls ≠ 0 then
    { p with raised := p.raised ++ [⟨true, ev.die, ev.unit, ev.cls, 1, 0, padTo 28 []⟩] }
  else p

/-- A source reaches the registers: a PCI Express port only in the endpoint role, which the straps gave it (R623, R627, Table 19-5). -/
def Pkg.reaches (p : Pkg) (src : Source) : Bool :=
  match src with
  | .pcie x => p.fld Reg.PKG_STRAPS (if x.val = 0 then Fld.PKG_STRAP_PCIE0 else Fld.PKG_STRAP_PCIE1) == 2
  | _ => true

/-- A command that comes by a source: nothing comes by one that does not reach the registers. -/
def State.through (s : State) (src : Source) (o : Host.Outcome State Fault Refusal) : Host.Outcome State Fault Refusal :=
  if s.pkg.reaches src then o else .next s

/-- A command of a working package. -/
def State.work (s : State) (ev : Ev) (f : Env → Pkg → Pkg) : Host.Outcome State Fault Refusal := .next (s.lift (Pkg.atWork ev f))

/-- A command of the running Jiward complex. -/
def State.mgmt (s : State) (f : Env → Pkg → Pkg) : Host.Outcome State Fault Refusal :=
  .next (s.lift (fun e p => if p.complexUp then f e p else p))

end Sys2Proof.Machine
end

