-- ==== Sys2Proof/Machine/Atomics.lean ====
section
/-! DEFINITION. Atomics on memory (spec 10_qorloth_fabric.md, R388, R418, Tables 10-4, 10-5): operand types, one operation, and a run of them. -/

namespace Sys2Proof.Machine

/-- Bytes of an operand type (Table 10-4). -/
def typeBytes (ty : Nat) : Nat := if ty = 0 ∨ ty = 2 ∨ ty = 4 then 4 else 8

/-- MAX or MIN of two float codes by the rules of FMAX and FMIN (Table 05-5). -/
def floatMaxMin (f : Fmt) (isMax : Bool) (a b : Nat) : Nat × Nat :=
  let x := decodeNum f a
  let y := decodeNum f b
  let fl := if x.isSnan || y.isSnan then flagNV else 0
  if x.isNan || y.isNan then (f.layout.nanCode, fl) else
  let aLess : Bool := match x.lt? y with
    | some true => true
    | _ => x.isZero && y.isZero && x.neg && !y.neg
  (if aLess == isMax then b else a, fl)

/-- A float sum under round to nearest, with its flags. -/
def floatAdd (f : Fmt) (a b : Nat) : Nat × Nat :=
  let s := Num.add .nearestEven (decodeNum f a) (decodeNum f b)
  let c := convFloat f .nearestEven false 0 s.1
  (c.code, s.2 ||| c.flags)

/-- The new value and the flags of an atomic (Table 10-5). -/
def atomicResult (aop ty old opd cmp : Nat) : Nat × Nat :=
  let w := 8 * typeBytes ty
  let isF : Bool := ty ≥ 4
  let f : Fmt := if ty = 4 then .f32 else .f64
  let less (a b : Nat) : Bool := if ty ≤ 1 then toSigned w a < toSigned w b else a < b
  match aop with
  | 0 => if isF then floatAdd f old opd else ((old + opd) % 2 ^ w, 0)
  | 1 => (opd, 0)
  | 2 => (if old = cmp then opd else old, 0)
  | 3 => if isF then floatMaxMin f false old opd else (if less opd old then opd else old, 0)
  | 4 => if isF then floatMaxMin f true old opd else (if less old opd then opd else old, 0)
  | 5 => (old &&& opd, 0)
  | 6 => (old ||| opd, 0)
  | _ => (old ^^^ opd, 0)

/-- Apply an atomic's operands one after another to consecutive elements: one element, or an ACC line run (R388, R418). -/
def atomicRun (aop ty : Nat) (old opd cmp : List Byte) : List Byte × Nat :=
  let n := typeBytes ty
  (List.range (opd.length / n)).foldl (fun (s : List Byte × Nat) i =>
    let x := atomicResult aop ty (leAt old (n * i) n) (leAt opd (n * i) n) (leNat cmp)
    (s.1 ++ leBytes n x.1, s.2 ||| x.2)) ([], 0)

/-- A refusal by a NACK reason. -/
def Served.nack (r : Nat) : Served := ⟨r, [], 0, 0⟩

/-- The atomics of a request on what its line holds, one after another: the old bytes of each, the flags, the new bytes. -/
def runAtomics (old : List Byte) (ops : List AtomOp) : List (List Byte) × Nat × List Byte :=
  ops.foldl (fun (s : List (List Byte) × Nat × List Byte) (o : AtomOp) =>
    let n := typeBytes o.ty
    let cas : Bool := o.aop == 2
    let x := atomicRun o.aop o.ty s.2.2 (if cas then o.data.take n else o.data) (if cas then o.data.drop n else [])
    (s.1 ++ [s.2.2], s.2.1 ||| x.2, x.1)) ([], 0, old)

end Sys2Proof.Machine
end

