-- ==== Sys2Proof/Machine/Sha.lean ====
section
/-! DEFINITION. The hash functions that the spec names by their standard, SHA-256 (R516, R527, R533) and SHA-384 (R604, R610 to R612), over
big-endian words as FIPS 180-4 gives them. -/

namespace Sys2Proof.Machine

/-- The number that big-endian bytes spell. -/
def beNat (bs : List Byte) : Nat := bs.foldl (fun a b => 256 * a + b.toNat) 0

/-- Big-endian bytes of a number. -/
def beBytes (k n : Nat) : List Byte := (leBytes k n).reverse

/-- Rotate a w-bit word right. -/
def rotr (w n x : Nat) : Nat := (x >>> n ||| x <<< (w - n)) % 2 ^ w

/-- The largest number below 2^b above `r` whose k-th power does not exceed `n`: bit by bit from the highest. -/
def rootBits (k n : Nat) : Nat → Nat → Nat
  | 0, r => r
  | b + 1, r => rootBits k n b (if (r + 2 ^ b) ^ k ≤ n then r + 2 ^ b else r)

/-- The primes up to 409, the 80th. -/
def shaPrimes : List Nat := (List.range 410).filter (fun n => 2 ≤ n && (List.range 21).all (fun d => d < 2 || n ≤ d || n % d != 0))

/-- The first w bits of the fraction of the k-th root of a prime, from which FIPS 180-4 takes every constant. -/
def rootFraction (k w p : Nat) : Nat := rootBits k (p * 2 ^ (k * w)) (w + 3) 0 % 2 ^ w

/-- Round constants: cube roots of the first 64 primes for SHA-256 and of the first 80 for SHA-384. -/
def sha256K : List Nat := (shaPrimes.take 64).map (rootFraction 3 32)
def sha512K : List Nat := shaPrimes.map (rootFraction 3 64)

/-- Initial hash values: square roots of the first 8 primes for SHA-256 and of the next 8 for SHA-384. -/
def sha256Init : List Nat := (shaPrimes.take 8).map (rootFraction 2 32)
def sha384Init : List Nat := ((shaPrimes.drop 8).take 8).map (rootFraction 2 64)

/-- The rotations of a SHA-2 function: word width, Σ0, Σ1, σ0 and σ1. -/
structure ShaKind where
  w : Nat
  S0 : Nat × Nat × Nat
  S1 : Nat × Nat × Nat
  s0 : Nat × Nat × Nat
  s1 : Nat × Nat × Nat
  k : List Nat
  deriving DecidableEq, Repr

def sha256Kind : ShaKind := ⟨32, (2, 13, 22), (6, 11, 25), (7, 18, 3), (17, 19, 10), sha256K⟩
def sha384Kind : ShaKind := ⟨64, (28, 34, 39), (14, 18, 41), (1, 8, 7), (19, 61, 6), sha512K⟩

/-- The message as padded: a 1 bit, zeros, its length in bits. -/
def shaPad (q : ShaKind) (m : List Byte) : List Byte :=
  let block := 2 * q.w
  let tail := q.w / 4
  let z := (2 * block - 1 - tail - m.length % block) % block
  m ++ [0x80] ++ List.replicate z 0 ++ beBytes tail (8 * m.length)

/-- The message schedule of a block, newest word first. -/
def shaSchedule (q : ShaKind) (ws : List Nat) : List Nat :=
  let sig (r : Nat × Nat × Nat) (x : Nat) : Nat := rotr q.w r.1 x ^^^ rotr q.w r.2.1 x ^^^ (x >>> r.2.2)
  (List.range (q.k.length - 16)).foldl (fun (acc : List Nat) _ =>
    ((sig q.s1 (acc.getD 1 0) + acc.getD 6 0 + sig q.s0 (acc.getD 14 0) + acc.getD 15 0) % 2 ^ q.w) :: acc) ws.reverse

/-- One block enters the hash value. -/
def shaBlock (q : ShaKind) (h : List Nat) (block : List Byte) : List Nat :=
  let n := q.w / 8
  let ws := (List.range 16).map (fun i => beNat ((block.drop (n * i)).take n))
  let big (r : Nat × Nat × Nat) (x : Nat) : Nat := rotr q.w r.1 x ^^^ rotr q.w r.2.1 x ^^^ rotr q.w r.2.2 x
  let v := (q.k.zip (shaSchedule q ws).reverse).foldl (fun (v : List Nat) kw =>
    let a := v.getD 0 0
    let b := v.getD 1 0
    let c := v.getD 2 0
    let e := v.getD 4 0
    let f := v.getD 5 0
    let g := v.getD 6 0
    let t1 := v.getD 7 0 + big q.S1 e + ((e &&& f) ^^^ ((2 ^ q.w - 1 - e) &&& g)) + kw.1 + kw.2
    let t2 := big q.S0 a + ((a &&& b) ^^^ (a &&& c) ^^^ (b &&& c))
    [(t1 + t2) % 2 ^ q.w, a, b, c, (v.getD 3 0 + t1) % 2 ^ q.w, e, f, g]) h
  List.zipWith (fun x y => (x + y) % 2 ^ q.w) h v

/-- Hash the blocks of a padded message. -/
def shaBlocks (q : ShaKind) : Nat → List Nat → List Byte → List Nat
  | 0, h, _ => h
  | n + 1, h, m => shaBlocks q n (shaBlock q h (m.take (2 * q.w))) (m.drop (2 * q.w))

/-- SHA-256: 32 bytes. -/
def sha256 (m : List Byte) : List Byte :=
  let x := shaPad sha256Kind m
  ((shaBlocks sha256Kind (x.length / 64) sha256Init x).map (beBytes 4)).flatten

/-- SHA-384: 48 bytes. -/
def sha384 (m : List Byte) : List Byte :=
  let x := shaPad sha384Kind m
  (((shaBlocks sha384Kind (x.length / 128) sha384Init x).map (beBytes 8)).flatten).take 48

end Sys2Proof.Machine
end

