-- ==== Sys2Proof/Machine/Aes.lean ====
section
/-! DEFINITION. AES-256 in XTS mode, from FIPS 197 and IEEE 1619, as memory controllers encrypt lines (R302) and the checkpoint engine encrypts
payloads (R614): the S-box by inversion in GF(2^8), the cipher and its inverse on 16-byte blocks, and whole data units. -/

namespace Sys2Proof.Machine

/-- Multiplication by x in GF(2^8) modulo x^8 + x^4 + x^3 + x + 1. -/
def gfX (a : Nat) : Nat := if a ≥ 128 then (2 * a) % 256 ^^^ 0x1b else 2 * a

/-- Multiplication in GF(2^8). -/
def gfMul (a b : Nat) : Nat :=
  ((List.range 8).foldl (fun (s : Nat × Nat) i => ((if b.testBit i then s.1 ^^^ s.2 else s.1), gfX s.2)) (0, a)).1

/-- The inverse in GF(2^8), 0 for 0: the 254th power. -/
def gfInv (a : Nat) : Nat :=
  let a2 := gfMul a a
  let a4 := gfMul a2 a2
  let a8 := gfMul a4 a4
  let a16 := gfMul a8 a8
  let a32 := gfMul a16 a16
  let a64 := gfMul a32 a32
  let a128 := gfMul a64 a64
  gfMul a2 (gfMul a4 (gfMul a8 (gfMul a16 (gfMul a32 (gfMul a64 a128)))))

/-- Rotate a byte left. -/
def rotl8 (n x : Nat) : Nat := (x <<< n ||| x >>> (8 - n)) % 256

/-- The S-box. -/
def aesS (x : Nat) : Nat := let b := gfInv x; b ^^^ rotl8 1 b ^^^ rotl8 2 b ^^^ rotl8 3 b ^^^ rotl8 4 b ^^^ 0x63

/-- The inverse S-box. -/
def aesSInv (x : Nat) : Nat := gfInv (rotl8 1 x ^^^ rotl8 3 x ^^^ rotl8 6 x ^^^ 0x05)

/-- XOR of two byte strings. -/
def xorNats (a b : List Nat) : List Nat := List.zipWith (fun x y => x ^^^ y) a b

/-- The 60 words of the key schedule of AES-256, newest first. -/
def aesSchedule (key : List Nat) : List (List Nat) :=
  let w0 := ((List.range 8).map (fun i => (key.drop (4 * i)).take 4)).reverse
  ((List.range 52).foldl (fun (s : List (List Nat) × Nat) j =>
    let i := j + 8
    let t := s.1.getD 0 []
    let u := if i % 8 = 0 then xorNats ((t.drop 1 ++ t.take 1).map aesS) [s.2, 0, 0, 0] else if i % 8 = 4 then t.map aesS else t
    (xorNats (s.1.getD 7 []) u :: s.1, if i % 8 = 0 then gfX s.2 else s.2)) (w0, 1)).1

/-- The 15 round keys of 16 bytes each. -/
def aesKeys (key : List Nat) : List (List Nat) :=
  let ws := (aesSchedule key).reverse
  (List.range 15).map (fun r => ((ws.drop (4 * r)).take 4).flatten)

/-- Rotate each row of the state by its number, to the left (4 columns of 4 bytes). -/
def shiftRows (back : Bool) (s : List Nat) : List Nat :=
  (List.range 16).map (fun i =>
    let r := i % 4
    let c := i / 4
    s.getD (4 * ((if back then c + 4 - r else c + r) % 4) + r) 0)

/-- Multiply each column by a circulant matrix. -/
def mixColumns (m : List Nat) (s : List Nat) : List Nat :=
  (List.range 16).map (fun i =>
    let r := i % 4
    let c := i / 4
    (List.range 4).foldl (fun a j => a ^^^ gfMul (m.getD ((j + 4 - r) % 4) 0) (s.getD (4 * c + j) 0)) 0)

/-- AES-256 encryption of a block. -/
def aesEncrypt (keys : List (List Nat)) (b : List Nat) : List Nat :=
  let s := (List.range 13).foldl (fun s i => xorNats (mixColumns [2, 3, 1, 1] (shiftRows false (s.map aesS))) (keys.getD (i + 1) []))
    (xorNats b (keys.getD 0 []))
  xorNats (shiftRows false (s.map aesS)) (keys.getD 14 [])

/-- AES-256 decryption of a block. -/
def aesDecrypt (keys : List (List Nat)) (b : List Nat) : List Nat :=
  let s := (List.range 13).foldl (fun s i => mixColumns [14, 11, 13, 9] (xorNats ((shiftRows true s).map aesSInv) (keys.getD (13 - i) [])))
    (xorNats b (keys.getD 14 []))
  xorNats ((shiftRows true s).map aesSInv) (keys.getD 0 [])

/-- The tweak of the next block: multiplication by x in GF(2^128). -/
def xtsNext (t : List Nat) : List Nat :=
  let n := leNat (t.map (BitVec.ofNat 8))
  let m := if n ≥ 2 ^ 127 then (2 * n) % 2 ^ 128 ^^^ 0x87 else 2 * n
  (leBytes 16 m).map (fun b => b.toNat)

/-- The 16-byte blocks of a data unit through XTS with a tweak. -/
def xtsBlocks (enc : Bool) (keys : List (List Nat)) : Nat → List Nat → List Nat → List Nat
  | 0, _, _ => []
  | n + 1, t, d =>
    let x := xorNats (d.take 16) t
    let y := if enc then aesEncrypt keys x else aesDecrypt keys x
    xorNats y t ++ xtsBlocks enc keys n (xtsNext t) (d.drop 16)

/-- A data unit of whole blocks through AES-256-XTS with its two keys and a 128-bit tweak (R302, R614). -/
def xtsUnit (enc : Bool) (key1 key2 : List Byte) (tweak : Nat) (d : List Byte) : List Byte :=
  let t := aesEncrypt (aesKeys (key2.map (fun b => b.toNat))) ((leBytes 16 tweak).map (fun b => b.toNat))
  (xtsBlocks enc (aesKeys (key1.map (fun b => b.toNat))) (d.length / 16) t (d.map (fun b => b.toNat))).map (BitVec.ofNat 8)

end Sys2Proof.Machine
end

