-- ==== Sys2Proof/Machine/Memory.lean ====
section
/-! DEFINITION. HBM and stash (spec 08_memory_system.md): regions and address spreading, encryption, lines and parity, patch stripes, rebuild, and
the writes of lines and stripes (R39, R289 to R303, R316 to R324). Data is kept by local address as its controller decrypts it; what a device holds
of a line, and the patch line, which is the XOR of its stripe's data lines as held (R293, R302), follow from it, so that a rebuilt byte is the byte
that was written (`Sys2Proof.rebuilt_eq_held`). -/

namespace Sys2Proof.Machine

/-- HBM addresses (Table 01-6). -/
def isHbm (a : Nat) : Bool := a < 0x18000000000

/-- Stash addresses (Table 01-6). -/
def isStash (a : Nat) : Bool := 0x20000000000 ≤ a && a < 0x20200000000

/-- MMIO addresses (Table 01-6). -/
def isMmio (a : Nat) : Bool := 0x30000000000 ≤ a && a < 0x30100000000

/-- The PCI Express and CXL outbound windows (Table 01-6). -/
def isWindow (a : Nat) : Bool := 0x100000000000 ≤ a && a < 0x200000000000

/-- A memory region as its registers describe it (Table 08-8). -/
structure Region where
  num : Nat
  valid : Bool
  ready : Bool
  base : Nat
  size : Nat
  devs : Nat
  slotBase : Nat
  slots : Nat
  owner : Nat
  hardq : Bool
  calDelay : Bool
  prio : Bool
  enc : Bool
  patch : Bool
  mode : Nat
  stash : Bool
  deriving DecidableEq, Repr

/-- Build a region from its four register words. -/
def regionOf (n : Nat) (b s pl at_ : W64) : Region :=
  { num := n, valid := getField at_ Fld.MEM_RG_VALID == 1, ready := getField at_ Fld.MEM_RG_READY == 1,
    base := getField b Fld.MEM_RG_BASE * 2 ^ 21, size := getField s Fld.MEM_RG_SIZE * 2 ^ 21,
    devs := getField pl Fld.MEM_RG_DEVS, slotBase := getField pl Fld.MEM_RG_SLOT_BASE, slots := getField pl Fld.MEM_RG_SLOTS,
    owner := getField at_ Fld.MEM_RG_OWNER, hardq := getField at_ Fld.MEM_RG_HARDQ == 1,
    calDelay := getField at_ Fld.MEM_RG_CALDELAY == 1, prio := getField at_ Fld.MEM_RG_PRIO == 1,
    enc := getField at_ Fld.MEM_RG_ENC == 1, patch := getField at_ Fld.MEM_RG_PATCH == 1, mode := getField at_ Fld.MEM_RG_MODE,
    stash := getField at_ Fld.MEM_RG_KIND == 1 }

/-- Memory region `n`. -/
def Pkg.region (p : Pkg) (n : Nat) : Region :=
  regionOf n (p.reg (Reg.MEM_RG_BASE n)) (p.reg (Reg.MEM_RG_SIZE n)) (p.reg (Reg.MEM_RG_PLACE n)) (p.reg (Reg.MEM_RG_ATTR n))

/-- A region's local range holds an address. -/
def Region.holds (r : Region) (a : Nat) : Bool := r.base ≤ a && a < r.base + r.size

/-- The valid, ready region that covers an address; none makes the address a hole (R296). -/
def Pkg.regionAt (p : Pkg) (a : Nat) : Option Region :=
  ((List.range 64).map p.region).find? (fun r => r.valid && r.ready && r.holds a)

/-- Every byte of a range lies in one valid, ready region that a partition owns. -/
def Pkg.rangeOwned (p : Pkg) (c a len : Nat) : Bool :=
  match p.regionAt a with
  | some r => r.owner == c && (len == 0 || r.holds (a + len - 1))
  | none => false

/-- The devices of a region, ascending: stacks 0 to 23, or stash die n as 24 + n (R297). -/
def Region.devices (r : Region) : List Nat := if r.stash then [24 + r.devs % 8] else rangeFilter 24 (fun s => r.devs.testBit s)

/-- Channels of a region's devices (R297). -/
def Region.channels (r : Region) : Nat := if r.stash then 256 else 64

/-- Data lines Q used on each device (R297). -/
def Region.linesPerDev (r : Region) : Nat := let n := r.devices.length; if n = 0 then 0 else r.size / (256 * n)

/-- Data-line capacity Q_max of each device (R297). -/
def Region.capacity (r : Region) : Nat :=
  let lines := r.channels * 1024 * r.slots
  if r.patch then 16 * (lines / 17) else lines

/-- The device index and the line number q of a region line (R298). -/
def Region.spread (r : Region) (l : Nat) : Nat × Nat :=
  let n := r.devices.length
  if n = 0 then (0, 0) else
  match r.mode with
  | 0 => (l % n, l / n)
  | 1 => ((l + mix64 ((l / n) ^^^ (r.num <<< 58)) % n) % n, l / n)
  | 2 => let q := r.linesPerDev; if q = 0 then (0, 0) else (l / q, l % q)
  | _ => let c := l / 8192; (c % n, (c / n) * 8192 + l % 8192)

/-- The region line that has number q on the device of an index: `Region.spread` read backwards. -/
def Region.lineOf (r : Region) (k q : Nat) : Nat :=
  let n := r.devices.length
  match r.mode with
  | 0 => q * n + k
  | 1 => q * n + (k + n - mix64 (q ^^^ (r.num <<< 58)) % n) % n
  | 2 => k * r.linesPerDev + q
  | _ => (q / 8192 * n + k) * 8192 + q % 8192

/-- Where a region offset lives: device and physical line number j on it (R298). -/
def Region.place (r : Region) (o : Nat) : Nat × Nat :=
  let kq := r.spread (o / 256)
  let j := if r.patch then 17 * (kq.2 / 16) + kq.2 % 16 else kq.2
  (r.devices.getD kq.1 0, j)

/-- The local address of physical line j on a device; for a patch line, that of its stripe's first line. -/
def Region.addrOf (r : Region) (dev j : Nat) : Nat :=
  let q := if r.patch then 16 * (j / 17) + (if j % 17 = 16 then 0 else j % 17) else j
  r.base + 256 * r.lineOf (r.devices.idxOf dev) q

/-- Channel of physical line j (R298). -/
def Region.channelOf (r : Region) (j : Nat) : Nat := j % r.channels

/-- Slot of physical line j (R298). -/
def Region.slotOf (r : Region) (j : Nat) : Nat := 1024 * r.slotBase + j / r.channels

/-- One number for a physical line: device, channel, slot. -/
def lineCode (dev ch slot : Nat) : Nat := (dev * 256 + ch) * 2 ^ 22 + slot

/-- The line code of physical line j of a region on a device. -/
def Region.code (r : Region) (dev j : Nat) : Nat := lineCode dev (r.channelOf j) (r.slotOf j)

/-- Device of a line code. -/
def codeDev (c : Nat) : Nat := c / 2 ^ 30

/-- Channel of a line code. -/
def codeChan (c : Nat) : Nat := c / 2 ^ 22 % 256

/-- Slot of a line code. -/
def codeSlot (c : Nat) : Nat := c % 2 ^ 22

/-- The 17 lines of the patch stripe that holds physical line j (R293). -/
def Region.stripe (r : Region) (dev j : Nat) : List Nat := (List.range 17).map (fun i => r.code dev (17 * (j / 17) + i))

/-- The patch line of the stripe that holds physical line j. -/
def Region.patchLine (r : Region) (dev j : Nat) : Nat := r.code dev (17 * (j / 17) + 16)

/-- The die that a device's unit belongs to (R22). -/
def deviceDie (dev : Nat) : Nat := if dev < 24 then dev / 3 else 8 + (dev - 24)

/-- The unit code of a device's channel (Table 14-1). -/
def channelUnit (dev ch : Nat) : Nat := if dev < 24 then 0x5000 + 64 * (dev % 3) + ch else 0x4000 + ch

/-- A channel of a device is retired (R324). -/
def Pkg.chanRetired (p : Pkg) (dev ch : Nat) : Bool := p.ras.retired.contains (deviceDie dev, channelUnit dev ch)

/-- A unit is under a targeted self-test or a march test. -/
def Pkg.underTest (p : Pkg) (die unit : Nat) : Bool :=
  p.ras.tests.any (fun t => t.die == die && t.unit == unit) || p.ras.marching.any (fun t => t.die == die && t.unit == unit)

/-- The unit code of a stack's controller buffer (Table 14-1). -/
def bufferUnit (dev : Nat) : Nat := 0x6000 + dev % 3

/-- A stack whose controller buffer failed its test: every access to it reports under R322 (Table 14-2). -/
def Pkg.bufferLost (p : Pkg) (dev : Nat) : Bool := dev < 24 && p.ras.retired.contains (deviceDie dev, bufferUnit dev)

/-- New requests to a stack are held while its controller buffer is under test (Table 14-2). -/
def Pkg.stackHeld (p : Pkg) (dev : Nat) : Bool := dev < 24 && p.underTest (deviceDie dev) (bufferUnit dev)

/-- A stack's controller state. -/
def Pkg.stack (p : Pkg) (s : Nat) : StackSt := (assoc? p.stackCtl s).getD ⟨[], [], [], none, [], [], [], 0, 0, 0, [], 0, 0, 0⟩

/-- Set a stack's controller state. -/
def Pkg.setStack (p : Pkg) (s : Nat) (x : StackSt) : Pkg := { p with stackCtl := assocPut p.stackCtl s x }

/-- A channel of a device is retraining: its issue has stopped and the new timing is not in effect (R315), and it is not suspended; or it is
served as a retraining channel because it is under test (Table 14-2). -/
def Pkg.chanTraining (p : Pkg) (dev ch : Nat) : Bool :=
  p.underTest (deviceDie dev) (channelUnit dev ch) ||
  match (p.stack dev).retrain with
  | some t => dev < 24 && t.pc == ch && t.step ≤ 1 && !t.suspended
  | none => false

/-- A byte of a line whose parity is wrong. -/
def Pkg.isBad (p : Pkg) (line i : Nat) : Bool := p.bad.contains (line * 256 + i)

/-- The wrong bytes of a line. -/
def Pkg.badOf (p : Pkg) (line : Nat) : List Nat := rangeFilter 256 (fun i => p.isBad line i)

/-- Mark physical bytes as failing parity, keeping the list sorted without repeats. -/
def Pkg.markBad (p : Pkg) (bs : List Nat) : Pkg :=
  { p with bad := bs.foldl (fun acc b => if acc.contains b then acc else insertBy (fun x y => decide (x ≤ y)) b acc) p.bad }

/-- Write a line with good parity. -/
def Pkg.clearBad (p : Pkg) (line : Nat) : Pkg := { p with bad := p.bad.filter (fun b => b / 256 ≠ line) }

/-- Write some bytes of a line with good parity, keeping the others as they are (R323). -/
def Pkg.clearBadBytes (p : Pkg) (line lo hi : Nat) : Pkg :=
  { p with bad := p.bad.filter (fun b => !(b / 256 == line && lo ≤ b % 256 && b % 256 < hi)) }

/-- One stored byte; an unlisted address reads zero (R300). -/
def Pkg.byte (p : Pkg) (a : Nat) : Byte := sparseGet (fun _ => 0) p.mem a

/-- Store one byte. -/
def Pkg.setByte (p : Pkg) (a : Nat) (b : Byte) : Pkg := { p with mem := sparseSet (fun _ => 0) p.mem a b }

/-- The data bytes from an address. -/
def Pkg.bytes (p : Pkg) (a n : Nat) : List Byte := (List.range n).map (fun i => p.byte (a + i))

/-- Store bytes from an address on. -/
def Pkg.setBytes : Pkg → Nat → List Byte → Pkg
  | p, _, [] => p
  | p, a, b :: bs => (p.setByte a b).setBytes (a + 1) bs

/-- A little-endian number in memory (R16). -/
def Pkg.num (p : Pkg) (a n : Nat) : Nat := leNat (p.bytes a n)

/-! ### Encryption (R302, R613) -/

/-- The two AES-256 keys of a region's XTS, as eight free words from an index on: die J generates them at random (R613). -/
def xtsKeys (k : Nat) : List Byte × List Byte :=
  let w (i : Nat) : List Byte := leBytes 8 (Config.freeWord (k + i)).toNat
  (w 0 ++ w 1 ++ w 2 ++ w 3, w 4 ++ w 5 ++ w 6 ++ w 7)

/-- Free words that a region's two keys take. -/
abbrev xtsWords : Nat := 8

/-- Die J generates two random keys for a region (R613). -/
def Pkg.drawKeys (p : Pkg) (n : Nat) : Pkg :=
  let f := p.drawFree xtsWords
  { f.2 with mgt := { f.2.mgt with regionKeys := assocPut f.2.mgt.regionKeys n f.1 } }

/-- The keys that a region's controllers hold. -/
def Pkg.keyNow (p : Pkg) (r : Region) : Option Nat := assoc? p.mgt.regionKeys r.num

/-- The keys under which a line was last written. -/
def Pkg.keyOf (p : Pkg) (r : Region) (l : Nat) : Option Nat :=
  match assoc? p.mgt.lineKeys (l / 256) with
  | some k => some k
  | none => assoc? p.mgt.fillKeys r.num

/-- A line of an encrypted region was written under keys that its controllers hold no longer. -/
def Pkg.staleKey (p : Pkg) (r : Region) (l : Nat) : Bool := r.enc && p.keyOf r l != p.keyNow r

/-- A line through a region's XTS under some keys: the line is the data unit, its local address divided by 256 the tweak (R302). -/
def xtsLine (enc : Bool) (key : Option Nat) (l : Nat) (bs : List Byte) : List Byte :=
  match key with
  | some k => xtsUnit enc (xtsKeys k).1 (xtsKeys k).2 (l / 256) bs
  | none => bs

/-- What the device holds of the line at a local address: ciphertext in an encrypted region (R302). -/
def Pkg.lineHeld (p : Pkg) (r : Region) (l : Nat) : List Byte := if r.enc then xtsLine true (p.keyOf r l) l (p.bytes l 256) else p.bytes l 256

/-- What the controller decrypts of a line under the keys it holds. -/
def Pkg.lineClear (p : Pkg) (r : Region) (l : Nat) : List Byte :=
  if p.staleKey r l then xtsLine false (p.keyNow r) l (p.lineHeld r l) else p.bytes l 256

/-- One byte of a region as its controller reads it. -/
def Pkg.clear (p : Pkg) (r : Region) (a : Nat) : Byte :=
  if p.staleKey r (a / 256 * 256) then byteAt (p.lineClear r (a / 256 * 256)) (a % 256) else p.byte a

/-- A line is about to be written: from now on it stands under the keys that its controllers hold. -/
def Pkg.rekeyLine (p : Pkg) (r : Region) (l : Nat) : Pkg :=
  match p.keyNow r with
  | some k =>
    if p.staleKey r l then
      let q := p.setBytes l (p.lineClear r l)
      { q with mgt := { q.mgt with lineKeys := assocPut q.mgt.lineKeys (l / 256) k } }
    else p
  | none => p

/-- The contents of n bytes become undefined: each takes a free value. A byte in no region has no contents. -/
def Pkg.freeBytes (p : Pkg) (a n : Nat) : Pkg :=
  let f := p.drawFree n
  (List.range n).foldl (fun (s : Pkg) i => match s.regionAt (a + i) with
    | some r => (s.rekeyLine r ((a + i) / 256 * 256)).setByte (a + i) (Config.freeByte (f.1 + i))
    | none => s) f.2

/-- The XOR of bytes. -/
def xorBytes (bs : List Byte) : Byte := bs.foldl (fun x b => x ^^^ b) 0

/-- Byte i of physical line j as its device holds it: a patch line is the XOR of the 16 data lines of its stripe, of ciphertext where the region is
encrypted (R293, R302). -/
def Pkg.heldByte (p : Pkg) (r : Region) (dev j i : Nat) : Byte :=
  let one (k : Nat) : Byte := byteAt (p.lineHeld r (r.addrOf dev (17 * (j / 17) + k))) i
  if j % 17 = 16 then xorBytes ((List.range 16).map one) else one (j % 17)

/-- Byte i of a line as a rebuild forms it: the XOR of byte i of the other 16 lines of its stripe (R294). -/
def Pkg.rebuiltByte (p : Pkg) (r : Region) (dev j i : Nat) : Byte :=
  xorBytes (((List.range 17).filter (fun k => k ≠ j % 17)).map (fun k => p.heldByte r dev (17 * (j / 17) + k) i))

/-! ### Reading a line (R316, R320 to R324) -/

/-- What reading a line gives: its data, its data after a wait for calibration or a rebuild or both, or an uncorrectable error (R319, R321, R322). -/
inductive LineOutcome where
  | ok | late | rebuilt | lateRebuilt | failed
  deriving DecidableEq, Repr

/-- Whether a failing line of a patch stripe can be rebuilt: no other line of the stripe fails at one of its failing bytes, and no other
line is on a retired channel (R322). -/
def Pkg.canRebuild (p : Pkg) (stripe : List Nat) (line : Nat) (fails : List Nat) : Bool :=
  stripe.all (fun l => l == line || (!p.chanRetired (codeDev l) (codeChan l) && fails.all (fun i => !p.isBad l i)))

/-- Record a memory error in its device's error register (Tables 08-10, 08-12). -/
def Pkg.memErr (p : Pkg) (kind line : Nat) : Pkg :=
  let d := codeDev line
  if d < 24 then
    ((p.setFld (Reg.MEM_ERR_INFO d) Fld.MEM_ERR_KIND kind).setFld (Reg.MEM_ERR_INFO d) Fld.MEM_ERR_PC (codeChan line)).setFld
      (Reg.MEM_ERR_INFO d) Fld.MEM_ERR_SLOT (codeSlot line)
  else
    ((p.setFld (Reg.STH_ERR_INFO (d - 24)) Fld.STH_ERR_KIND kind).setFld (Reg.STH_ERR_INFO (d - 24)) Fld.STH_ERR_BANK (codeChan line)).setFld
      (Reg.STH_ERR_INFO (d - 24)) Fld.STH_ERR_SLOT (codeSlot line)

/-- The data of a memory error's log entry: the error-information register, then the address (Table 16-11). -/
def memErrData (p : Pkg) (line addr : Nat) : List Byte :=
  let d := codeDev line
  leBytes 8 (if d < 24 then p.regNat (Reg.MEM_ERR_INFO d) else p.regNat (Reg.STH_ERR_INFO (d - 24))) ++ leBytes 8 addr

/-- A line is found to fail and is rebuilt and written back: a class-8 event on its channel (R321). -/
def Pkg.rebuildLine (p : Pkg) (line addr : Nat) : Pkg :=
  let d := codeDev line
  let p1 := (p.clearBad line).memErr 1 line
  let p2 := if d < 24 then p1.memCount d (Reg.MEM_CNT_REBUILD d) 1 else p1.addReg (Reg.STH_CNT_REBUILD (d - 24)) 1
  (p2.event 8 (deviceDie d) (channelUnit d (codeChan line)) 1 1 (memErrData p2 line addr)).disturb 1 (deviceDie d)
    (channelUnit d (codeChan line))

/-- A line's error cannot be repaired: a class-4 event (R322, R323). -/
def Pkg.failLine (p : Pkg) (kind line addr : Nat) : Pkg :=
  let d := codeDev line
  let p1 := p.memErr kind line
  let p2 := if d < 24 then p1 else p1.addReg (Reg.STH_CNT_UNCORR (d - 24)) 1
  p2.event 4 (deviceDie d) (channelUnit d (codeChan line)) 1 kind (memErrData p2 line addr)

/-- Count a line read for a request (Table 08-11). -/
def Pkg.countRead (p : Pkg) (dev n : Nat) : Pkg := if dev < 24 then p.memCount dev (Reg.MEM_CNT_RD_LINES dev) n else p

/-- Suspend a stack's retraining and return to the previous timing (R318, R320); logged under Table 16-11, kind 0x0D. -/
def Pkg.suspendRetrain (p : Pkg) (s : Nat) : Pkg :=
  let st := p.stack s
  match st.retrain with
  | some t =>
    if t.suspended then p
    else (p.setStack s { st with retrain := some { t with suspended := true }, suspends := st.suspends + 1 }).record (s / 3) (channelUnit s t.pc) 0xd 1
      (leBytes 4 s ++ leBytes 4 t.pc)
  | none => p

/-- A line on a channel that retrains, or is served as one that does. -/
def Pkg.lineTraining (p : Pkg) (line : Nat) : Bool := p.chanTraining (codeDev line) (codeChan line)

/-- A written line destined for the retraining pseudo-channel enters the write-behind list of 512 entries; a region that calibration may not delay
suspends retraining when the list reaches 448 entries, and then needs no entry (R317, R318). -/
def Pkg.pushBehind (p : Pkg) (r : Region) (line : Nat) : Pkg :=
  let dev := codeDev line
  if dev < 24 && p.lineTraining line then
    let p0 := if !r.calDelay && (p.stack dev).behind.length ≥ 512 then p.suspendRetrain dev else p
    let st := p0.stack dev
    if !p0.lineTraining line || st.behind.length ≥ 512 then p0
    else
      let n := st.behind.length + 1
      let p1 := (p0.setStack dev { st with behind := st.behind ++ [⟨codeChan line, line⟩] }).setFld (Reg.MEM_STK_STATUS dev) Fld.MEM_WB_COUNT n
      if !r.calDelay && n ≥ 448 then p1.suspendRetrain dev else p1
  else p

/-- A write of some lines of a stripe needs an entry of a full list and must wait for one (R318). -/
def Pkg.listFull (p : Pkg) (r : Region) (dev : Nat) (js : List Nat) : Bool :=
  dev < 24 && r.calDelay && (p.stack dev).behind.length ≥ 512 &&
  (js ++ [17 * (js.headD 0 / 17) + 16]).any (fun j => p.lineTraining (r.code dev j))

/-- The worse of two outcomes, or both of a wait and a rebuild. -/
def LineOutcome.join : LineOutcome → LineOutcome → LineOutcome
  | .failed, _ => .failed
  | _, .failed => .failed
  | .ok, x => x
  | x, .ok => x
  | .late, .late => .late
  | .rebuilt, .rebuilt => .rebuilt
  | _, _ => .lateRebuilt

/-- Check the bytes of a line that is read directly (R321 to R323). `addr` is a local address in the line, for reports. -/
def Pkg.checkDirect (p : Pkg) (r : Region) (dev j addr : Nat) : Pkg × LineOutcome :=
  let line := r.code dev j
  let fails := p.badOf line
  if fails.isEmpty then (p, .ok)
  else if !r.patch then (p.failLine 3 line addr, .failed)
  else if p.canRebuild (r.stripe dev j) line fails then (p.rebuildLine line addr, .rebuilt)
  else (p.failLine 2 line addr, .failed)

/-- Handle a line that a rebuild found to fail: rebuilt in its turn, or reported (R320, R321, R322). -/
def Pkg.mendLine (p : Pkg) (stripe : List Nat) (line addr : Nat) : Pkg × LineOutcome :=
  if p.canRebuild stripe line (p.badOf line) then (p.rebuildLine line addr, .rebuilt) else (p.failLine 2 line addr, .failed)

/-- A request is marked with reason CAL: it is counted (R318, R319, Table 08-11). -/
def Pkg.countCal (p : Pkg) (dev : Nat) : Pkg := if dev < 24 then p.memCount dev (Reg.MEM_CNT_CAL_DELAY dev) 1 else p

/-- Check one physical line as it is read (R316, R319 to R324). A parity-only line on a retraining channel is read after the wait of R319. -/
def Pkg.checkLine (p : Pkg) (r : Region) (dev j addr : Nat) : Pkg × LineOutcome :=
  let line := r.code dev j
  let ch := r.channelOf j
  if p.bufferLost dev then (p.failLine 2 line addr, .failed)
  else if p.chanRetired dev ch then
    if !r.patch then (p.failLine 3 line addr, .failed)
    else
      let p1 := if dev < 24 then p.memCount dev (Reg.MEM_CNT_CAL_READS dev) 1 else p
      -- Table 14-2: a stripe with lines on two retired channels
      if (r.stripe dev j).any (fun l => l ≠ line && p.chanRetired (codeDev l) (codeChan l)) then (p1.failLine 2 line addr, .failed)
      else if (p.stack dev).behind.any (fun b => b.line == line) then (p1, .ok)
      else if (r.stripe dev j).any (fun l => l ≠ line && !(p1.badOf l).isEmpty) then (p1.failLine 2 line addr, .failed)
      else (p1, .ok)
  else if p.chanTraining dev ch then
    if !r.patch then
      -- a stash bank under test delays no request for calibration (R305)
      let x := (p.countCal dev).checkDirect r dev j addr
      if dev < 24 then (x.1, x.2.join .late) else x
    else
      let p1 := if dev < 24 then p.memCount dev (Reg.MEM_CNT_CAL_READS dev) 1 else p
      if (p.stack dev).behind.any (fun b => b.line == line) then (p1, .ok)
      else
        let bads := (r.stripe dev j).filter (fun l => l ≠ line ∧ !(p1.badOf l).isEmpty)
        if bads.isEmpty then (p1, .ok)
        else
          -- R320: retraining is suspended, the line is read directly, and the errors are handled under R321
          let x := bads.foldl (fun (s : Pkg × LineOutcome) b => let y := s.1.mendLine (r.stripe dev j) b addr; (y.1, s.2.join y.2))
            (p1.suspendRetrain dev, LineOutcome.ok)
          let y := x.1.checkDirect r dev j addr
          (y.1, x.2.join y.2)
  else p.checkDirect r dev j addr

/-- The local line addresses a range touches (R289). -/
def linesOf (a n : Nat) : List Nat := if n = 0 then [] else (List.range ((a + n - 1) / 256 - a / 256 + 1)).map (fun i => (a / 256 + i) * 256)

/-- Every byte of a range is in a valid, ready region. -/
def Pkg.noHole (p : Pkg) (a n : Nat) : Bool := (linesOf a n).all (fun l => (p.regionAt l).isSome)

/-- A byte of local memory stands at a physical place whose parity is wrong, or in a line that is unreadable as a whole. -/
def Pkg.byteBad (p : Pkg) (a : Nat) : Bool :=
  match p.regionAt a with
  | none => true
  | some r =>
    let dj := r.place (a - r.base)
    let bads := p.badOf (r.code dj.1 dj.2)
    bads.isEmpty || bads.contains (a % 256)

/-! ### Writing lines and stripes (R289, R295, R317, R318, R321 to R323) -/

/-- The second method of R295 serves a write of some lines of a stripe: 8 lines or more are written, or a line of the stripe is on a
channel that retrains or is retired (R317, R324). -/
def Pkg.secondMethod (p : Pkg) (r : Region) (dev : Nat) (js : List Nat) : Bool :=
  js.length ≥ 8 ||
  (r.stripe dev (js.headD 0)).any (fun l => p.chanRetired (codeDev l) (codeChan l) || p.chanTraining (codeDev l) (codeChan l))

/-- Line transfers that a write's reads cost under R295: the old lines and the patch line, or the unchanged lines. -/
def stripeReadCost (second : Bool) (js : List Nat) : Nat := if second then 16 - js.length else js.length + 1

/-- Lines of a stripe that a write of some of its data lines reads under R295: the old lines and the patch line, or the unchanged lines and
those that are written in part. The write's lines are line numbers j on the device. -/
def stripeReads (second : Bool) (js part : List Nat) : List Nat :=
  let base := 17 * (js.headD 0 / 17)
  if second then ((List.range 16).map (fun i => base + i)).filter (fun x => !js.contains x || part.contains x) else js ++ [base + 16]

/-- Cut a write into pieces that stay within one line each. -/
def linePieces (a : Nat) (bs : List Byte) : List (Nat × List Byte) :=
  (linesOf a bs.length).map (fun l =>
    let lo := max a l
    let hi := min (a + bs.length) (l + 256)
    (lo, (bs.drop (lo - a)).take (hi - lo)))

/-- The line number j on its device of an address of a region. -/
def Region.lineNo (r : Region) (a : Nat) : Nat := (r.place (a - r.base)).2

/-- The line numbers that pieces of writes touch, each once, in order. -/
def Region.linesTouched (r : Region) (ws : List (Nat × List Byte)) : List Nat :=
  ws.foldl (fun acc w => if acc.contains (r.lineNo w.1) then acc else acc ++ [r.lineNo w.1]) []

/-- Write one piece of a line of a parity-only region: a whole line, or a part that is read and merged first (R289, R323). A channel that retrains
delays it (R319); a retired one, or a lost controller buffer, reports it (R322, R324, Table 14-2). -/
def Pkg.writePlain (p : Pkg) (r : Region) (a : Nat) (bs : List Byte) : Pkg × LineOutcome :=
  let l := a / 256 * 256
  let dj := r.place (l - r.base)
  let line := r.code dj.1 dj.2
  if p.bufferLost dj.1 then (p.failLine 2 line l, .failed)
  else if p.chanRetired dj.1 (r.channelOf dj.2) then (p.failLine 3 line l, .failed)
  else
    let late : Bool := dj.1 < 24 && p.chanTraining dj.1 (r.channelOf dj.2)
    let p1 := if late then p.countCal dj.1 else p
    let p2 := if dj.1 < 24 then p1.memCount dj.1 (Reg.MEM_CNT_WR_LINES dj.1) 1 else p1
    let p3 := if bs.length < 256 ∧ dj.1 < 24 then p2.memCount dj.1 (Reg.MEM_CNT_RMW dj.1) 1 else p2
    (((p3.clearBadBytes line (a - l) (a - l + bs.length)).rekeyLine r l).setBytes a bs, if late then .late else .ok)

/-- Update one patch stripe with writes to its lines, in order, as one write of their combined w (R295): the lines that it reads are checked first,
and a failure leaves every line as it was (R321, R322). Each write is a piece of one line. -/
def Pkg.writeStripe (p : Pkg) (r : Region) (dev : Nat) (ws : List (Nat × List Byte)) : Pkg × LineOutcome :=
  let js := r.linesTouched ws
  let a0 := (ws.map (·.1)).headD 0
  if p.bufferLost dev then (p.failLine 2 (r.code dev (js.headD 0)) a0, .failed)
  else
    let whole := (ws.filter (fun w => w.2.length = 256)).map (fun w => r.lineNo w.1)
    let second := p.secondMethod r dev js
    let chk := (stripeReads second js (js.filter (fun j => !whole.contains j))).foldl
      (fun (s : Pkg × LineOutcome) j => let x := s.1.checkLine r dev j a0; (x.1, s.2.join x.2)) (p, LineOutcome.ok)
    if chk.2 = .failed then chk
    else
      let p1 := if dev < 24 then (chk.1.memCount dev (Reg.MEM_CNT_WR_LINES dev) js.length).memCount dev (Reg.MEM_CNT_RMW dev)
        (stripeReadCost second js) else chk.1
      let p2 := ws.foldl (fun (q : Pkg) w => (q.rekeyLine r (w.1 / 256 * 256)).setBytes w.1 w.2) p1
      let p3 := (js.foldl (fun q j => q.clearBad (r.code dev j)) p2).clearBad (r.patchLine dev (js.headD 0))
      ((js ++ [17 * (js.headD 0 / 17) + 16]).foldl (fun q j => q.pushBehind r (r.code dev j)) p3, chk.2)

/-! ### Masked pages (R517 to R519) -/

/-- A write covers an address. -/
def coversAddr (a wa : Nat) (bs : List Byte) : Bool := wa ≤ a && a < wa + bs.length

/-- The page of an address is masked and not copied (R518). -/
def Pkg.masked (p : Pkg) (a : Nat) : Bool := p.masks.any (fun m => m.page == a / 2 ^ 21)

/-- A range touches a masked page. -/
def Pkg.rangeMasked (p : Pkg) (a n : Nat) : Bool := n ≠ 0 && p.masks.any (fun m => a / 2 ^ 21 ≤ m.page && m.page ≤ (a + n - 1) / 2 ^ 21)

/-- The lowest free staging page of a SAVE (R519). -/
def CkRun.freeStage (r : CkRun) : Option Nat := (List.range r.stagePages).find? (fun i => r.stages.all (fun s => s.1 != i))

/-- Start a demand copy of a masked page unless it is being copied, 8 copies run, or no staging page is free (R519). -/
def Pkg.copyPage (p : Pkg) (m : PageMask) : Pkg :=
  if m.copying.isSome || (p.masks.filter (fun x => x.copying.isSome)).length ≥ 8 then p
  else match p.ckp.runs.find? (fun (r : CkRun) => r.queue == m.queue) with
    | none => p
    | some r =>
      match r.freeStage with
      | none => p
      | some i =>
        { p with
          masks := p.masks.map (fun x => if x = m then { m with copying := some i } else x)
          ckp := { p.ckp with runs := p.ckp.runs.map (fun (x : CkRun) => if x.queue = r.queue then { x with stages := x.stages ++ [(i, m.page)] } else x) } }

/-- Start a demand copy of each masked page of a range (R519). -/
def Pkg.demandCopy (p : Pkg) (a n : Nat) : Pkg :=
  (p.masks.filter (fun m => a / 2 ^ 21 ≤ m.page && m.page ≤ (a + n - 1) / 2 ^ 21)).foldl (fun (q : Pkg) m => q.copyPage m) p

end Sys2Proof.Machine
end

