-- ==== Sys2Proof/Machine/MemQueue.lean ====
section
/-! DEFINITION. Requests at the memory controllers (spec 08_memory_system.md): whom a request belongs to and how its requester is told, the service of
a request in the order of its line (R291), and the reads and writes of every requester of the package (R40, R289, R291, R295, R306, R312, R318 to
R323; R518 for masked pages). An engine's access is one that has waited for the requests to its lines that entered before it. -/

namespace Sys2Proof.Machine

/-! ### Requesters (R306, R310, R312, R321, R322) -/

/-- A request's user as the state keeps it. -/
def memUser : MemAgent → MemUser
  | .descriptor q => .descriptor q.val
  | .dispatcher c => .dispatcher c.val
  | .core g => .core g.val
  | .fabric l => .fabric l.val
  | .outside x => .outside x.val

/-- The partition a request belongs to (R306). A request over PCI Express belongs, as a fabric request does, to the owner of its target
region. -/
def Pkg.memPart (p : Pkg) (u : MemUser) (r : Region) : Nat :=
  match u with
  | .descriptor q => p.queueCtx q
  | .dispatcher c => c
  | .core g => (p.partOfGroup (coreGroup g)).getD 8
  | .fabric _ => r.owner
  | .outside _ => r.owner

/-- Regulator fields of a partition (Table 08-9); a core whose group no partition owns stands as partition 8, best effort alone. -/
def Pkg.regRate (p : Pkg) (c : Nat) : Nat := p.fld (Reg.MEM_REG c) Fld.MEM_REG_RATE
def Pkg.regDepth (p : Pkg) (c : Nat) : Nat := p.fld (Reg.MEM_REG c) Fld.MEM_REG_DEPTH
def Pkg.regBudget (p : Pkg) (c : Nat) : Nat := p.fld (Reg.MEM_REG c) Fld.MEM_REG_BUDGET
def Pkg.regBestEffort (p : Pkg) (c : Nat) : Bool := c ≥ 8 || p.on (Reg.MEM_REG c) Fld.MEM_REG_BE

/-- A partition without HBM bandwidth (R312). -/
def Pkg.noBandwidth (p : Pkg) (c : Nat) : Bool := p.regRate c == 0 && !p.regBestEffort c

/-- Answer a request. -/
def Pkg.memAnswer (p : Pkg) (u : MemUser) (a code : Nat) (data : List Byte) : Pkg := { p with memOut := p.memOut ++ [⟨u, a, code, data⟩] }

/-- The location of this package (Table 10-11). -/
def Pkg.ownLoc (p : Pkg) : Nat := p.fld Reg.FAB_LOC Fld.FAB_LOC_VALUE

/-- What an access tells the descriptor that made it: a failure ends it, a wait for calibration delays it, a rebuild is a replay (R319, R321,
R322). -/
def Run.told (r : Run) (beat : Nat) (o : LineOutcome) : Run :=
  match o with
  | .ok => r
  | .late => r.delayBy beat 2
  | .rebuilt => r.raise beat 4
  | .lateRebuilt => (r.delayBy beat 2).raise beat 4
  | .failed => { r.abort beat 0x0a with stopped := true, undef := true }

/-- Tell a requester that one of its requests was delayed, repaired or failed (R319, R321, R322). -/
def Pkg.tellRun (p : Pkg) (e : Env) (u : MemUser) (o : LineOutcome) : Pkg :=
  match u with
  | .descriptor q => if o = .ok then p else p.updRun q (fun r => r.told e.tag o)
  | _ => p

/-- Tell the requester of an older request, unless it is the one whose access is in progress, which takes the outcome with its own. -/
def Pkg.tellOther (p : Pkg) (e : Env) (me : Option MemUser) (u : MemUser) (o : LineOutcome) : Pkg × LineOutcome :=
  if me = some u then (p, o) else (p.tellRun e u o, .ok)

/-- A request's status code for a reason of its answer (Table 10-10). -/
def servedCode (reason : Nat) : Nat :=
  if reason = 0 then 0 else if reason = 0x50 then 0x3f else if reason = 0x59 then 0x0a else if reason = 0x56 then 0x11 else 0x10

/-- Answer a request at a controller: a packet's answer goes back over the fabric; a core also takes the machine check of an uncorrectable error or
the access fault of a hole (R40, R310, R322). -/
def Pkg.memReply (p : Pkg) (w : WaitingReq) (s : Served) : Pkg :=
  match w.pkt with
  | some k => { p with memDone := p.memDone ++ [.packet k { s with delay := if w.delay = 0 then s.delay else w.delay }] }
  | none =>
    let p1 := p.memAnswer w.user w.addr (servedCode s.reason) s.data
    match w.user with
    | .core g =>
      if s.reason = 0x59 ∨ s.reason = 0x50 then
        { p1 with memDone := p1.memDone ++ [.coreFault g (if s.reason = 0x59 then .check else .access) w.addr (w.op != .read)] }
      else p1
    | _ => p1

/-! ### What a requester sees -/

/-- Data that a requester sees at an address: writes to the line that are queued, that wait or that are held are served first, in order (R291). -/
def Pkg.view (p : Pkg) (a : Nat) : Byte :=
  match p.regionAt a with
  | none => 0
  | some r =>
    let st := p.stack (r.place (a - r.base)).1
    let b0 := st.stripes.foldl (fun b w => if coversAddr a w.addr w.bytes then byteAt w.bytes (a - w.addr) else b) (p.clear r a)
    let b1 := st.waiting.foldl (fun b w => match w.op with
      | .write bs => if coversAddr a w.addr bs then byteAt bs (a - w.addr) else b
      | _ => b) b0
    p.held.foldl (fun b w => if coversAddr a w.addr w.bytes then byteAt w.bytes (a - w.addr) else b) b1

/-- The bytes a requester sees from an address. -/
def Pkg.viewBytes (p : Pkg) (a n : Nat) : List Byte := (List.range n).map (fun i => p.view (a + i))

/-! ### Stripe writes (R295, R318) -/

/-- A queued write belongs to the stripe of a device that a line number lies in. -/
def StripeWrite.inStripe (w : StripeWrite) (r : Region) (dev j : Nat) : Bool :=
  r.holds w.addr && (r.place (w.addr - r.base)).1 == dev && r.lineNo w.addr / 17 == j / 17

/-- Begin the update of the stripe that line j of a device lies in, for an access of a requester: every queued write to the stripe is performed with
the requester's own, as one write of their combined w; the queued writes' requesters are told how it went (R291, R295, R321, R322). -/
def Pkg.updateStripe (p : Pkg) (e : Env) (me : Option MemUser) (r : Region) (dev j : Nat) (own : List (Nat × List Byte)) : Pkg × LineOutcome :=
  let st := p.stack dev
  let mine := st.stripes.filter (fun w => w.inStripe r dev j)
  let p1 := if mine.isEmpty then p else p.setStack dev { st with stripes := st.stripes.filter (fun w => !w.inStripe r dev j) }
  let x := p1.writeStripe r dev (mine.map (fun w => (w.addr, w.bytes)) ++ own)
  mine.foldl (fun (s : Pkg × LineOutcome) w =>
    let t := s.1.tellOther e me w.user x.2
    (if x.2 = .failed then t.1.memAnswer w.user w.addr 0x0a [] else t.1, s.2.join t.2)) (x.1, if own.isEmpty then .ok else x.2)

/-- The writes to a stripe wait for an entry of the write-behind list: those not yet marked are marked with reason CAL (R318). -/
def Pkg.markStripe (p : Pkg) (e : Env) (me : Option MemUser) (r : Region) (dev j : Nat) : Pkg × LineOutcome :=
  let st := p.stack dev
  let fresh := st.stripes.filter (fun w => w.inStripe r dev j && !w.cal)
  let p1 := p.setStack dev { st with stripes := st.stripes.map (fun w => if w.inStripe r dev j then { w with cal := true } else w) }
  fresh.foldl (fun (s : Pkg × LineOutcome) w => let t := (s.1.countCal dev).tellOther e me w.user .late; (t.1, s.2.join t.2)) (p1, .ok)

/-- Update the stripe of a line if it has queued writes and the write-behind list has room for it; a read that comes next sees them in any case. -/
def Pkg.settleStripe (p : Pkg) (e : Env) (me : Option MemUser) (r : Region) (dev j : Nat) : Pkg × LineOutcome :=
  let mine := (p.stack dev).stripes.filter (fun w => w.inStripe r dev j)
  if mine.isEmpty then (p, .ok)
  else if p.listFull r dev (r.linesTouched (mine.map (fun w => (w.addr, w.bytes)))) then p.markStripe e me r dev j
  else p.updateStripe e me r dev j []

/-- Write pieces of lines of one stripe, with what is queued for it; without room in the write-behind list they join the queue (R295, R318). -/
def Pkg.writeOrQueue (p : Pkg) (e : Env) (u : MemUser) (r : Region) (dev j : Nat) (own : List (Nat × List Byte)) : Pkg × LineOutcome :=
  if p.listFull r dev (r.linesTouched own) then
    let st := p.stack dev
    (p.setStack dev { st with stripes := st.stripes ++ own.map (fun w => ⟨u, w.1, w.2, false⟩) }).markStripe e (some u) r dev j
  else p.updateStripe e (some u) r dev j own

/-! ### Service of one request (R291, R316 to R323, R388, R518) -/

/-- Hold a write for a masked page and start its demand copy (R518, R519). -/
def Pkg.holdWrite (p : Pkg) (now : Nat) (u : MemUser) (a : Nat) (bs : List Byte) : Pkg :=
  { p.demandCopy a bs.length with held := p.held ++ [⟨u, a, bs, now⟩] }

/-- The write of one request, within a line: held for a masked page, queued for its stripe, or performed (R295, R518). The delay reason is that of a
held write (Table 06-14). -/
def Pkg.serveWrite (p : Pkg) (e : Env) (me : Option MemUser) (r : Region) (w : WaitingReq) (bs : List Byte) : Pkg × LineOutcome × Nat :=
  if p.rangeMasked w.addr bs.length then
    let p1 := p.holdWrite e.hall w.user w.addr bs
    (match w.user with | .descriptor q => p1.delayRun q e.tag 5 | _ => p1, .ok, 5)
  else if r.patch then
    let dev := (r.place (w.addr - r.base)).1
    let st := p.stack dev
    (p.setStack dev { st with stripes := st.stripes ++ [⟨w.user, w.addr, bs, false⟩] }, .ok, 0)
  else
    let x := p.writePlain r w.addr bs
    let t := x.1.tellOther e me w.user x.2
    (t.1, if x.2 = .failed then .failed else t.2, 0)

/-- Read the line of one request: the queued writes of its stripe first (R291), then the line itself. -/
def Pkg.serveRead (p : Pkg) (e : Env) (me : Option MemUser) (r : Region) (w : WaitingReq) : Pkg × LineOutcome × LineOutcome :=
  let dj := r.place (w.addr - r.base)
  let x := if r.patch then p.settleStripe e me r dj.1 dj.2 else (p, .ok)
  let y := (x.1.countRead dj.1 1).checkLine r dj.1 dj.2 w.addr
  let t := y.1.tellOther e me w.user y.2
  (t.1, y.2, x.2.join t.2)

/-- Serve one request and answer it; the outcome is what it means for the access in progress (R291, R316 to R323, R388). -/
def Pkg.serveNow (p : Pkg) (e : Env) (me : Option MemUser) (w : WaitingReq) : Pkg × LineOutcome :=
  match p.regionAt w.addr with
  | none => (p.memReply w (Served.nack 0x50), .ok)
  | some r =>
    match w.op with
    | .read =>
      let x := p.serveRead e me r w
      (x.1.memReply w (if x.2.1 = .failed then Served.nack 0x59 else ⟨0, x.1.viewBytes w.addr w.len, 0, 0⟩), x.2.2)
    | .write bs =>
      let x := p.serveWrite e me r w bs
      let held : Bool := x.2.2 != 0 && w.pkt.isNone
      let p1 := if held then x.1.memAnswer w.user w.addr 1 [] else x.1.memReply w (if x.2.1 = .failed then Served.nack 0x59 else ⟨0, [], 0, x.2.2⟩)
      (p1, x.2.1)
    | .atomics ops =>
      let x := p.serveRead e me r w
      if x.2.1 = .failed then (x.1.memReply w (Served.nack 0x59), x.2.2)
      else
        let n := runAtomics (x.1.viewBytes w.addr w.len) ops
        let y := x.1.serveWrite e me r w n.2.2
        (y.1.memReply w (if y.2.1 = .failed then Served.nack 0x59 else ⟨0, n.1.flatten, n.2.1, y.2.2⟩), x.2.2.join y.2.1)

/-- Take a request out of a stack's waiting list. -/
def Pkg.unwait (p : Pkg) (s : Nat) (w : WaitingReq) : Pkg := let st := p.stack s; p.setStack s { st with waiting := st.waiting.erase w }

/-- Serve the requests to a line that wait ahead of an access to it, in order (R291). -/
def Pkg.settleLine (p : Pkg) (e : Env) (u : MemUser) (a : Nat) : Pkg × LineOutcome :=
  match p.regionAt a with
  | none => (p, .ok)
  | some r =>
    let dev := (r.place (a - r.base)).1
    ((p.stack dev).waiting.filter (fun w => w.addr / 256 == a / 256)).foldl
      (fun (s : Pkg × LineOutcome) w => let y := (s.1.unwait dev w).serveNow e (some u) w; (y.1, s.2.join y.2)) (p, .ok)

/-! ### Accesses of the package's own requesters (R40, R289, R291) -/

/-- Read one local line for a requester: what came before it first, then check it and count it. A hole fails. -/
def Pkg.touchLine (p : Pkg) (e : Env) (u : MemUser) (a : Nat) : Pkg × LineOutcome :=
  match p.regionAt a with
  | none => (p, .failed)
  | some r =>
    let dj := r.place (a - r.base)
    let x := p.settleLine e u a
    let y := if r.patch then x.1.settleStripe e (some u) r dj.1 dj.2 else (x.1, .ok)
    let z := (y.1.countRead dj.1 1).checkLine r dj.1 dj.2 a
    (z.1, (x.2.join y.2).join z.2)

/-- Read every line of a range. -/
def Pkg.touchRange (p : Pkg) (e : Env) (u : MemUser) (a n : Nat) : Pkg × LineOutcome :=
  (linesOf a n).foldl (fun st l => let x := st.1.touchLine e u l; (x.1, st.2.join x.2)) (p, .ok)

/-- Read the lines of a range that lie in regions. -/
def Pkg.touchHeld (p : Pkg) (e : Env) (u : MemUser) (a n : Nat) : Pkg × LineOutcome :=
  ((linesOf a n).filter (fun l => (p.regionAt l).isSome)).foldl (fun st l => let x := st.1.touchLine e u l; (x.1, st.2.join x.2)) (p, .ok)

/-- A piece of a line that a write goes to, with its region. -/
abbrev WritePiece := Region × Nat × List Byte

/-- The pieces of writes, line by line; a range that leaves its region, or begins in a hole, is not performed, and has none (R40). -/
def Pkg.writePieces (p : Pkg) (segs : List (Nat × List Byte)) : List WritePiece :=
  (segs.map (fun s =>
    match p.regionAt s.1 with
    | some r => if r.holds (s.1 + s.2.length - 1) then (linePieces s.1 s.2).map (fun w => (r, w)) else []
    | none => [])).flatten

/-- Pieces of patch-protected lines by their stripe: region, device, first line. -/
def stripeGroups (ps : List WritePiece) : List ((Nat × Nat × Nat) × List WritePiece) :=
  ps.foldl (fun g w =>
    let k := (w.1.num, (w.1.place (w.2.1 - w.1.base)).1, 17 * (w.1.lineNo w.2.1 / 17))
    assocPut g k ((assoc? g k).getD [] ++ [w])) []

/-- Write pieces: one by one in parity-only regions, stripe by stripe in patch-protected ones (R289, R295). -/
def Pkg.writeAll (p : Pkg) (e : Env) (u : MemUser) (ps : List WritePiece) : Pkg × LineOutcome :=
  let x := (ps.filter (fun w => !w.1.patch)).foldl (fun (s : Pkg × LineOutcome) w => let y := s.1.writePlain w.1 w.2.1 w.2.2; (y.1, s.2.join y.2))
    (p, LineOutcome.ok)
  (stripeGroups (ps.filter (fun w => w.1.patch))).foldl (fun (s : Pkg × LineOutcome) g =>
    match g.2 with
    | [] => s
    | w :: _ => let y := s.1.writeOrQueue e u w.1 g.1.2.1 g.1.2.2 (g.2.map (·.2)); (y.1, s.2.join y.2)) x

/-- Store bytes for a requester of the package: what came before on their lines first, then all of them, the lines of a stripe as one write; what is
not performed fails (R40, R291, R295). -/
def Pkg.storeAll (p : Pkg) (e : Env) (u : MemUser) (segs0 : List (Nat × List Byte)) : Pkg × LineOutcome :=
  let segs := segs0.filter (fun s => !s.2.isEmpty)
  let x := ((segs.map (fun s => linesOf s.1 s.2.length)).flatten).foldl
    (fun (s : Pkg × LineOutcome) l => let y := s.1.settleLine e u l; (y.1, s.2.join y.2)) (p, LineOutcome.ok)
  let y := x.1.writeAll e u (x.1.writePieces segs)
  let whole := segs.all (fun s => match x.1.regionAt s.1 with | some r => r.holds (s.1 + s.2.length - 1) | none => false)
  (y.1, if whole then x.2.join y.2 else .failed)

/-- Store bytes from an address on. -/
def Pkg.store (p : Pkg) (e : Env) (u : MemUser) (a : Nat) (bs : List Byte) : Pkg × LineOutcome := p.storeAll e u [(a, bs)]

/-- Store bytes unless a mask holds the write; a held write starts a demand copy (R518, R519). -/
def Pkg.storeOrHold (p : Pkg) (e : Env) (u : MemUser) (a : Nat) (bs : List Byte) : Pkg × LineOutcome :=
  if p.rangeMasked a bs.length then (p.holdWrite e.hall u a bs, .ok) else p.store e u a bs

/-- A parity-only read of a range would wait for a retraining, or a write would wait for a write-behind entry (R318, R319). -/
def Pkg.calDelays (p : Pkg) (a n : Nat) (write : Bool) : Bool :=
  (linesOf a n).any (fun l =>
    match p.regionAt l with
    | none => false
    | some r =>
      let dj := r.place (l - r.base)
      (!r.patch && dj.1 < 24 && p.chanTraining dj.1 (r.channelOf dj.2)) || (r.patch && write && p.listFull r dj.1 [dj.2]))

/-- Complete everything that a device's controller has accepted, in order (R301). -/
def Pkg.settleDevice (p : Pkg) (e : Env) (dev : Nat) : Pkg :=
  let p1 := (p.stack dev).waiting.foldl (fun (q : Pkg) w => ((q.unwait dev w).serveNow e none w).1) p
  (p1.stack dev).stripes.foldl (fun (q : Pkg) w =>
    match q.regionAt w.addr with
    | some r => if (q.stack dev).stripes.contains w then (q.updateStripe e none r dev (r.lineNo w.addr) []).1 else q
    | none => q) p1

end Sys2Proof.Machine
end

