-- ==== Sys2Proof/Machine/Operands.lean ====
section
/-! DEFINITION. Descriptors and their operands (spec 06_descriptor_streams.md, R209 to R225, R638; 02_number_formats.md, R47 to R63): the
fields of a descriptor, tensor descriptors, loop-nest origins, the bytes an operand covers, reading elements and writing codes. -/

namespace Sys2Proof.Machine

/-! ### The descriptor's fields (Tables 06-1 to 06-3, 06-7, 06-8) -/

/-- Header word (Table 06-2). -/
def dHdr (d : List Byte) : Nat := leAt d 0 4
def dKind (d : List Byte) : Nat := bitsOf (dHdr d) 3 0
def dPrio (d : List Byte) : Nat := bitsOf (dHdr d) 7 4
def dJclass (d : List Byte) : Nat := bitsOf (dHdr d) 10 8
def dHard (d : List Byte) : Bool := (dHdr d).testBit 11
def dIrq (d : List Byte) : Bool := (dHdr d).testBit 12
def dGsh (d : List Byte) (h : Nat) : Nat := bitsOf (dHdr d) (4 * h + 19) (4 * h + 16)
/-- Operation word. -/
def dOp (d : List Byte) : Nat := leAt d 4 4
/-- Handle h. -/
def dHandle (d : List Byte) (h : Nat) : Nat := leAt d (8 + 2 * h) 2
/-- Wait word i and signal word i (Table 06-3). -/
def dWait (d : List Byte) (i : Nat) : Nat := leAt d (0x10 + 8 * i) 8
def dSig (d : List Byte) (i : Nat) : Nat := leAt d (0x30 + 8 * i) 8
def wEn (w : Nat) : Bool := w.testBit 12
def wFlag (w : Nat) : Nat := w % 4096
def wAmount (w : Nat) : Nat := bitsOf w 63 16
def sCond (w : Nat) : Bool := w.testBit 13
def dDeadline (d : List Byte) : Nat := leAt d 0x40 8
def dParam (d : List Byte) : Nat := leAt d 0x48 4
/-- Count of loop level l (the field plus 1). -/
def dCount (d : List Byte) (l : Nat) : Nat := leAt d (0x4c + 2 * l) 2 + 1
/-- Increment of handle h at level l (Table 06-7). -/
def dInc (d : List Byte) (l h : Nat) : Nat := leAt d (0x58 + 8 * l + 2 * h) 2
def incDim (w : Nat) : Nat := bitsOf w 15 13
def incCount (w : Nat) : Int := toSigned 13 w

/-- A parameter block is named (Table 06-1). -/
def dHasParam (d : List Byte) : Bool := dParam d != 0xffffffff

/-- Iterations I of the loop nest (R222). -/
def dIters (d : List Byte) : Nat := (List.range 5).foldl (fun a l => a * dCount d l) 1

/-- The loop indices of iteration n, level 0 fastest (R222). -/
def iterDigits (d : List Byte) : Nat → Nat → List Nat
  | 0, _ => []
  | k + 1, n => let c := dCount d (5 - (k + 1)); (n % c) :: iterDigits d k (n / c)

/-- Indices (i0, …, i4) of iteration n. -/
def iterIndex (d : List Byte) (n : Nat) : List Nat := iterDigits d 5 n

/-- Reserved bits and codes of the header, waits and signals (R209): a descriptor with a breach ends with cause 0x01. -/
def headerBad (d : List Byte) : Bool :=
  bitsOf (dHdr d) 15 13 != 0 || dKind d > 6 || dJclass d > 2 ||
  (List.range 4).any (fun i => bitsOf (dWait d i) 15 13 != 0) ||
  (List.range 2).any (fun i => bitsOf (dSig d i) 15 14 != 0) ||
  leAt d 0x56 2 != 0

/-! ### Tensor descriptors (Tables 06-4, 06-5) -/

/-- A tensor descriptor as the dispatcher copied it (R218), with the handle it was read through. -/
structure Tensor where
  handle : Nat
  loc : Nat
  base : Nat
  scale : Nat
  quench : Nat
  fmt : Nat
  seed : Nat
  sizes : List Nat
  strides : List Nat
  res2f : Nat
  deriving DecidableEq, Repr

/-- Read a tensor descriptor's 64 bytes. -/
def parseTensor (handle : Nat) (b : List Byte) : Tensor :=
  { handle := handle, loc := bitsOf (leAt b 0 8) 63 46, base := bitsOf (leAt b 0 8) 45 0, scale := leAt b 8 8,
    quench := leAt b 0x10 8, fmt := leAt b 0x18 4, seed := leAt b 0x1c 4,
    sizes := (List.range 5).map (fun k => leAt b (0x20 + 3 * k) 3 + 1),
    strides := (List.range 5).map (fun k => if k = 0 then 0 else 16 * leAt b (0x30 + 4 * (k - 1)) 4),
    res2f := leAt b 0x2f 1 }

def Tensor.size (t : Tensor) (k : Nat) : Nat := t.sizes.getD k 1
def Tensor.stride (t : Tensor) (k : Nat) : Nat := t.strides.getD k 0
def Tensor.storedCode (t : Tensor) : Nat := bitsOf t.fmt 4 0
def Tensor.viewCode (t : Tensor) : Nat := bitsOf t.fmt 9 5
def Tensor.sat (t : Tensor) : Bool := t.fmt.testBit 10
def Tensor.rndCode (t : Tensor) : Nat := bitsOf t.fmt 12 11
def Tensor.bscale (t : Tensor) : Bool := t.fmt.testBit 13
def Tensor.valid (t : Tensor) : Bool := t.fmt.testBit 14
def Tensor.region (t : Tensor) : Nat := bitsOf t.fmt 21 16
def Tensor.stored (t : Tensor) : Fmt := (Fmt.ofCode t.storedCode).getD .f64
def Tensor.view (t : Tensor) : Fmt := (Fmt.ofCode t.viewCode).getD .f64
def Tensor.rnd (t : Tensor) : RMode := (RMode.ofCode t.rndCode).getD .nearestEven

/-- The quench word's fields (Table 04-1). -/
def Tensor.theta (t : Tensor) : Nat := t.quench % 1024
def Tensor.reheat (t : Tensor) : Bool := t.quench.testBit 10
def Tensor.clip (t : Tensor) : Nat := bitsOf t.quench 12 11
def Tensor.budget (t : Tensor) : Nat := bitsOf t.quench 31 16
def Tensor.shadow (t : Tensor) : Nat := bitsOf t.quench 35 32
def Tensor.quenchReserved (t : Tensor) : Bool := bitsOf t.quench 63 36 != 0 || bitsOf t.quench 15 13 != 0

/-- A format that quench writes (R124). -/
def Fmt.isQuench (f : Fmt) : Bool := f == .q4 || f == .t2

/-- The tensor is quenched at the array edge (R124, R125). -/
def Tensor.edgeQuenched (t : Tensor) : Bool := t.view.isQuench && t.stored != t.view

/-- The tensor is quenched as it is stored (R124). -/
def Tensor.storeQuenched (t : Tensor) : Bool := t.stored.isQuench

/-- Bytes of the packed run of dimension 0 (R49 to R52, X_0 of R219). -/
def Tensor.runBytes (t : Tensor) : Nat := ceilDiv (t.size 0 * t.stored.bits) 8

/-- Byte extents X_0 to X_4 (R219). -/
def Tensor.extent (t : Tensor) : Nat → Nat
  | 0 => t.runBytes
  | k + 1 => (t.size (k + 1) - 1) * t.stride (k + 1) + t.extent k

/-- Blocks of one run along dimension 0 (R58). -/
def Tensor.runBlocks (t : Tensor) : Nat := ceilDiv (t.size 0) t.stored.blockLen

/-- Blocks that one step of dimension k moves over (R59, R223). -/
def Tensor.blockStep (t : Tensor) : Nat → Nat
  | 0 => 1
  | 1 => t.runBlocks
  | k + 2 => t.blockStep (k + 1) * t.size (k + 1)

/-- E8 bytes of the whole tensor (R59). -/
def Tensor.blocks (t : Tensor) : Nat := t.runBlocks * t.size 1 * t.size 2 * t.size 3 * t.size 4

/-- A stride is shorter than the extent below it (R219). -/
def Tensor.stridesBad (t : Tensor) : Bool := (List.range 4).any (fun k => t.size (k + 1) > 1 && t.stride (k + 1) < t.extent k)

/-- `DSP_TD_BSCALE` does not suit the stored format (R220). -/
def Tensor.bscaleBad (t : Tensor) : Bool :=
  match t.stored with
  | .q4 | .t2 => !t.bscale
  | .int4 | .int8 => false
  | _ => t.bscale

/-- The tensor scale's four bytes, when it is in use (Table 02-6, R61). -/
def Pkg.scaleWord (p : Pkg) (t : Tensor) : Option Nat :=
  if t.bscale && (p.view (t.scale + 4)).toNat % 2 = 1 then some (leNat (p.viewBytes t.scale 4)) else none

/-- A positive, finite, normal F32 (R62). -/
def normalF32 (w : Nat) : Bool := w < 2 ^ 31 && 1 ≤ bitsOf w 30 23 && bitsOf w 30 23 ≤ 254

/-- The tensor scale S of an operand; 1 when it is not in use (R61). -/
def Pkg.tensorScale (p : Pkg) (t : Tensor) : Num :=
  match p.scaleWord t with
  | some w => decodeNum .f32 w
  | none => .fin false 1 1

/-- Step 2 of R638 for one handle: the cause, or 0 when every check passes. -/
def Pkg.tensorCause (p : Pkg) (raw : List Byte) (t : Tensor) (anvil readsQuench : Bool) : Nat :=
  if raw.isEmpty || !t.valid then 0x02
  else if bitsOf t.fmt 31 22 != 0 || t.fmt.testBit 15 || t.res2f != 0 then 0x02
  else if (Fmt.ofCode t.storedCode).isNone || (Fmt.ofCode t.viewCode).isNone ||
      (!anvil && (t.stored == .bfx64 || t.view == .bfx64)) then 0x03
  else if t.rndCode == 3 then 0x03
  else if t.bscaleBad then 0x02
  else if t.bscale && (t.scale == 0 || t.scale % 16 != 0) then 0x03
  else if (match p.scaleWord t with | some w => !normalF32 w | none => false) then 0x03
  else if t.stored.bits ≥ 16 && t.base % (t.stored.bits / 8) != 0 then 0x03
  else if t.stridesBad then 0x02
  else if readsQuench && t.quenchReserved then 0x07
  else 0

/-! ### Loop-nest origins and byte ranges (R221 to R224) -/

/-- Elements that handle h moves along dimension k at iteration indices `is` (R223). -/
def handleMove (d : List Byte) (h k : Nat) (is : List Nat) : Int :=
  (List.range 5).foldl (fun (a : Int) l =>
    let w := dInc d l h
    if incDim w = k then a + (is.getD l 0 : Nat) * incCount w * (2 ^ dGsh d h : Nat) else a) 0

/-- The origin of handle h in iteration n: its element index in each dimension. -/
def handleOrigin (d : List Byte) (h n : Nat) : List Int :=
  let is := iterIndex d n
  (List.range 5).map (fun k => handleMove d h k is)

/-- One level's move of handle h breaks R223: along dimension 0 it must be a whole number of bytes and, for a block-scaled handle, of
blocks; a level that runs once moves nothing. -/
def moveBad (d : List Byte) (h : Nat) (t : Tensor) (l : Nat) : Bool :=
  let w := dInc d l h
  dCount d l > 1 && incDim w == 0 &&
    (let e := incCount w * (2 ^ dGsh d h : Nat)
     e * t.stored.bits % 8 != 0 || (t.bscale && e % t.stored.blockLen != 0))

/-- Step 4 of R638: the loop nest of the descriptor and the handles it examines (R222 to R224). -/
def nestBad (d : List Byte) (ts : List (Nat × Tensor)) : Bool :=
  dIters d > 2 ^ 32 ||
  (List.range 5).any (fun l => (List.range 4).any (fun h => incDim (dInc d l h) > 4)) ||
  ts.any (fun ht => (List.range 5).any (fun l => moveBad d ht.1 ht.2 l))

/-- Byte address of an element from its indices, and the bit at which a sub-byte element begins (R49 to R52). Indices are those of the
element in the tensor, the loop nest's move included; `org` is the origin of its run. -/
def Tensor.elemAddr (t : Tensor) (org rel : List Int) : Int × Nat :=
  let o0 := org.getD 0 0
  let r0 := rel.getD 0 0
  let hi := (List.range 4).foldl (fun (a : Int) k => a + (org.getD (k + 1) 0 + rel.getD (k + 1) 0) * (t.stride (k + 1) : Nat)) 0
  let b : Nat := t.stored.bits
  ((t.base : Int) + o0 * b / 8 + r0 * b / 8 + hi, (r0 * b % 8).toNat)

/-- Position of an element's E8 code (R59, R223). -/
def Tensor.e8Addr (t : Tensor) (org rel : List Int) : Nat :=
  let bl : Int := (t.stored.blockLen : Nat)
  let hi := (List.range 4).foldl (fun (a : Int) k => a + (org.getD (k + 1) 0 + rel.getD (k + 1) 0) * (t.blockStep (k + 1) : Nat)) 0
  ((t.scale : Int) + 16 + org.getD 0 0 / bl + rel.getD 0 0 / bl + hi).toNat

/-- The logical index n of an element, from its own indices in the tensor, modulo 2^64 (R71). -/
def Tensor.logical (t : Tensor) (org rel : List Int) : Nat :=
  ofSigned 64 ((List.range 5).foldr (fun k (a : Int) => org.getD k 0 + rel.getD k 0 + (t.size k : Nat) * a) 0)

/-- Lowest and highest move of a handle's byte position over all iterations, by a per-dimension weight. -/
def moveSpan (d : List Byte) (h : Nat) (weight : Nat → Int → Int) : Int × Int :=
  (List.range 5).foldl (fun (lohi : Int × Int) l =>
    let w := dInc d l h
    let m := weight (incDim w) (incCount w * (2 ^ dGsh d h : Nat) * (dCount d l - 1 : Nat))
    (lohi.1 + min 0 m, lohi.2 + max 0 m)) (0, 0)

/-- The first and one past the last byte that a handle can touch over all iterations: its elements and its scale area (R221). -/
def Tensor.reach (t : Tensor) (d : List Byte) (h : Nat) : List (Int × Int) :=
  let el := moveSpan d h (fun k e => if k = 0 then e * (t.stored.bits : Nat) / 8 else e * (t.stride k : Nat))
  let elems := ((t.base : Int) + el.1, (t.base : Int) + el.2 + (t.extent 4 : Nat))
  if t.bscale then
    let sc := moveSpan d h (fun k e => if k = 0 then e / (t.stored.blockLen : Nat) else e * (t.blockStep k : Nat))
    [elems, (min (t.scale : Int) ((t.scale : Int) + 16 + sc.1), (t.scale : Int) + 16 + sc.2 + (t.blocks : Nat))]
  else if t.stored == .bfx64 then [elems, ((t.scale : Int), (t.scale : Int) + 16)]
  else [elems]

/-- The location names this package (Table 06-4: zero, or the package's own). -/
def Pkg.isLocal (p : Pkg) (loc : Nat) : Bool :=
  loc == 0 || (p.on Reg.FAB_LOC Fld.FAB_LOC_VALID && loc == p.fld Reg.FAB_LOC Fld.FAB_LOC_VALUE)

/-- Step 5 of R638: a handle names a valid region of another partition (R221). -/
def Pkg.foreignRegion (p : Pkg) (c : Nat) (t : Tensor) : Bool := let r := p.region t.region; r.valid && r.owner != c

/-- Step 6 of R638: an operand lies in another package, or a byte lies outside its region or that region is not ready (R221). -/
def Pkg.reachBad (p : Pkg) (d : List Byte) (h : Nat) (t : Tensor) : Bool :=
  let r := p.region t.region
  !p.isLocal t.loc || !r.valid || !r.ready ||
  (t.reach d h).any (fun ab => ab.1 < (r.base : Int) || (r.base + r.size : Nat) < ab.2)

/-! ### Sets of bytes -/

/-- Disjoint, rising half-open ranges of addresses. -/
abbrev Ranges := List (Nat × Nat)

/-- Add one range, merging what it meets. -/
def Ranges.insert (x : Nat × Nat) : Ranges → Ranges
  | [] => [x]
  | y :: ys =>
    if x.2 < y.1 then x :: y :: ys
    else if y.2 < x.1 then y :: Ranges.insert x ys
    else Ranges.insert (min x.1 y.1, max x.2 y.2) ys

/-- Two sets share a byte. -/
def Ranges.meet (a b : Ranges) : Bool := a.any (fun x => b.any (fun y => x.1 < y.2 && y.1 < x.2))

/-- Bytes of a set. -/
def Ranges.count (a : Ranges) : Nat := a.foldl (fun n x => n + (x.2 - x.1)) 0

/-- The runs of dimension 0 of a handle placed at an origin (R52). -/
def Tensor.runStarts (t : Tensor) (org : List Int) : List Nat :=
  let steps (k : Nat) (as : List Int) : List Int :=
    (as.map (fun a => (List.range (t.size k)).map (fun (i : Nat) => a + (i : Int) * (t.stride k : Nat)))).flatten
  (steps 1 (steps 2 (steps 3 (steps 4 [(t.elemAddr org [0, 0, 0, 0, 0]).1])))).map Int.toNat

/-- The bytes a handle covers at an origin, its E8 codes included. -/
def Tensor.covers (t : Tensor) (org : List Int) : Ranges :=
  let els := (t.runStarts org).foldl (fun (s : Ranges) a => s.insert (a, a + t.runBytes)) []
  if t.bscale then Ranges.insert (t.e8Addr org [0, 0, 0, 0, 0], t.e8Addr org [0, 0, 0, 0, 0] + t.blocks) els else els

/-- Some output's whole range meets some input's (R221). Where none does, no iteration's ranges overlap. -/
def operandsMeet (d : List Byte) (ins outs : List (Nat × Tensor)) : Bool :=
  outs.any (fun o => (o.2.reach d o.1).any (fun x => ins.any (fun i => (i.2.reach d i.1).any (fun y => x.1 < y.2 && y.1 < x.2))))

/-- The loop nest has at most 2^32 iterations; a longer one never runs (R222). -/
def nestRuns (d : List Byte) : Bool := dIters d ≤ 2 ^ 32

/-- An output byte range of some iteration overlaps an input byte range of the same or a later one (R210). Iterations are taken from the
last to the first. -/
def overlaps (d : List Byte) (ins outs : List (Nat × Tensor)) : Bool :=
  nestRuns d && operandsMeet d ins outs &&
  (countFold (dIters d) (fun k (st : Ranges × Bool) =>
    if st.2 then st else
    let n := dIters d - 1 - k
    let later := ins.foldl (fun s ht => (ht.2.covers (handleOrigin d ht.1 n)).foldl (fun s x => s.insert x) s) st.1
    (later, outs.any (fun ht => (ht.2.covers (handleOrigin d ht.1 n)).meet later))) (([], false) : Ranges × Bool)).2

/-- Every byte that handles cover over all iterations. -/
def coveredBytes (d : List Byte) (ts : List (Nat × Tensor)) : Ranges :=
  if !nestRuns d then [] else countFold (dIters d) (fun n (s : Ranges) =>
    ts.foldl (fun s ht => (ht.2.covers (handleOrigin d ht.1 n)).foldl (fun s x => s.insert x) s) s) []

/-- The 256-byte lines of an output footprint over all iterations (R493). -/
def footprintLines (d : List Byte) (outs : List (Nat × Tensor)) : Nat :=
  if !nestRuns d then 0 else Ranges.count (countFold (dIters d) (fun n (s : Ranges) =>
    outs.foldl (fun s ht => (ht.2.covers (handleOrigin d ht.1 n)).foldl (fun s x => s.insert (x.1 / 256, (x.2 + 255) / 256)) s) s) [])

/-! ### Reading elements -/

/-- A pre-image byte of the drop cloth. -/
def preimageAt (pre : List Segment) (a : Nat) : Option Byte :=
  (pre.find? (fun s => s.addr ≤ a && a < s.addr + s.bytes.length)).map (fun s => byteAt s.bytes (a - s.addr))

/-- The input bytes of a pass: a reheat or shadow pass sees every byte as it stood when the descriptor began (R141); any other pass takes
the pre-image of a byte that an earlier attempt of the descriptor overwrote and this one has not yet written (R494). -/
def Pkg.inputByte (p : Pkg) (r : Run) (original : Bool) (a : Nat) : Byte :=
  match preimageAt r.preimages a with
  | some b => if !original && r.rewritten.any (fun x => x.1 ≤ a && a < x.1 + x.2) then p.view a else b
  | none => p.view a

/-- The code of an element. -/
def Tensor.code (t : Tensor) (src : Nat → Byte) (org rel : List Int) : Nat :=
  let ab := t.elemAddr org rel
  let a := ab.1.toNat
  let n := t.stored.bits
  if n ≥ 8 then leNat ((List.range (n / 8)).map (fun i => src (a + i))) else ((src a).toNat >>> ab.2) % 2 ^ n

/-- The exponent of a BFX64 vector, in the first two bytes of its exponent record (R65, R244). -/
def Tensor.vecExp (t : Tensor) (src : Nat → Byte) : Int := toSigned 16 (leNat [src t.scale, src (t.scale + 1)])

/-- The exact value of an element, block scale applied and tensor scale `s` multiplied in (R60, R61, R65). -/
def Tensor.elem (t : Tensor) (s : Num) (src : Nat → Byte) (org rel : List Int) : Num :=
  let c := t.code src org rel
  if t.bscale then scaledNum t.stored c (src (t.e8Addr org rel)).toNat s
  else if t.stored == .bfx64 then (decodeNum .bfx64 c).scale2 (t.vecExp src)
  else decodeNum t.stored c

/-- The stream value of an element converted through a handle (R71). -/
def Tensor.stream (t : Tensor) (org rel : List Int) : Nat := streamU t.seed t.handle (t.logical org rel)

/-- The value of an element as an engine reads it through the view format, with the flags of that conversion (R61, R219). Away from the array
edge nothing is quenched (R124): a view of Q4 or T2 then takes the element as it is, with no block scale (log entry 91). -/
def Tensor.readAs (t : Tensor) (s : Num) (src : Nat → Byte) (org rel : List Int) : Num × Nat :=
  if t.view == t.stored then (t.elem s src org rel, 0)
  else
    let c := convert t.view t.rnd t.sat (t.stream org rel) (t.elem s src org rel)
    (decodeNum t.view c.code, c.flags)

/-- An input's index for an output index: a dimension of size 1 is repeated (R176). -/
def Tensor.repeatIdx (t : Tensor) (rel : List Int) : List Int := rel.zipIdx.map (fun xk => if t.size xk.2 = 1 then 0 else xk.1)

/-- Index of an element in dimensions 0 and 1. -/
def rel2 (k i : Nat) : List Int := [(k : Int), (i : Int), 0, 0, 0]

/-- Passes of a tile (R138, R149). -/
inductive Pass where
  | narrow | reheat | shadow
  deriving DecidableEq, Repr

/-- One row of an operand panel: its values as the array takes them, the flags of its conversions, and what quench counted. -/
structure PanelRow where
  vals : List Num
  flags : Nat
  sats : Nat
  flushes : Nat
  deriving DecidableEq, Repr

/-- Read elements [k0, k0 + kn) of run i of an operand in a pass (R91, R125, R129 to R132, R139, R149). Values leave the tensor scale to the
drain (R92), but for a conversion that is no quench, whose source value holds it (R61). -/
def Tensor.panelRow (t : Tensor) (s : Num) (src : Nat → Byte) (org : List Int) (pass : Pass) (k0 kn i : Nat) : PanelRow :=
  let one : Num := .fin false 1 1
  if t.view == t.stored then
    ⟨(List.range kn).map (fun k => t.elem one src org (rel2 (k0 + k) i)), 0, 0, 0⟩
  else if !t.edgeQuenched then
    let cs := (List.range kn).map (fun k =>
      convert t.view t.rnd t.sat (t.stream org (rel2 (k0 + k) i)) (t.elem s src org (rel2 (k0 + k) i)))
    ⟨cs.map (fun c => decodeNum t.view c.code), cs.foldl (fun f c => f ||| c.flags) 0, 0, 0⟩
  else
    match pass with
    | .shadow =>
      let cs := (List.range kn).map (fun k => convert .bf16 .nearestEven true 0 (t.elem s src org (rel2 (k0 + k) i)))
      ⟨cs.map (fun c => decodeNum .bf16 c.code), cs.foldl (fun f c => f ||| c.flags) 0, 0, 0⟩
    | _ =>
      let bl := t.view.blockLen
      let f : Fmt := if pass = .reheat then .e4m3 else t.view
      let clip := if pass = .reheat then 0 else t.clip
      let lo := k0 / bl
      let hi := ceilDiv (k0 + kn) bl
      (List.range (hi - lo)).foldl (fun acc b =>
        -- a block's scale comes from the whole block, also where a part of K ends inside it
        let b0 := (lo + b) * bl
        let b1 := min (b0 + bl) (t.size 0)
        let whole := (List.range (b1 - b0)).map (fun k => t.elem one src org (rel2 (b0 + k) i))
        let c := quenchCode (quenchMax f) clip whole
        let lo' := max b0 k0
        let hi' := min b1 (k0 + kn)
        let mine := (whole.drop (lo' - b0)).take (hi' - lo')
        let us := (List.range (hi' - lo')).map (fun k => t.stream org (rel2 (lo' + k) i))
        let q := quenchBlock f t.rnd one c mine us
        { vals := acc.vals ++ q.codes.map (fun x => if c = 0xff then .nan false else (decodeNum f x).scale2 ((c : Int) - 127))
          flags := acc.flags ||| q.flags
          sats := if pass = .narrow then acc.sats + q.sats else acc.sats
          flushes := if pass = .narrow then acc.flushes + q.flushes else acc.flushes }) ⟨[], 0, 0, 0⟩

/-! ### Writing codes -/

/-- Bytes that one run of codes writes from lane `q0` of a run on: pairs of address and byte, in ascending address. `none` leaves an
element as it is; a run's last byte takes zero in its unused bits (R50 to R52). -/
def Tensor.codeBytes (t : Tensor) (old : Nat → Byte) (org : List Int) (q0 : Nat) (rel : Nat → List Int) (codes : List (Option Nat)) :
    List (Nat × Byte) :=
  let n := t.stored.bits
  if n ≥ 8 then
    (codes.zipIdx.map (fun ci =>
      match ci.1 with
      | none => []
      | some c =>
        let a := (t.elemAddr org (rel (q0 + ci.2))).1.toNat
        (leBytes (n / 8) c).zipIdx.map (fun bi => (a + bi.2, bi.1)))).flatten
  else
    let per := 8 / n
    ((runsOf per codes).zipIdx.map (fun gi =>
      if gi.1.all Option.isNone then [] else
      let a := (t.elemAddr org (rel (q0 + per * gi.2))).1.toNat
      let o := (old a).toNat
      let v := (List.range per).foldl (fun acc j =>
        let keep := (o >>> (j * n)) % 2 ^ n
        let x := if q0 + per * gi.2 + j ≥ t.size 0 then 0 else
          match gi.1.getD j none with
          | some c => c % 2 ^ n
          | none => keep
        acc + x * 2 ^ (j * n)) 0
      [(a, BitVec.ofNat 8 v)])).flatten

/-- Join address and byte pairs into segments of rising addresses. -/
def segmentsOf (bs : List (Nat × Byte)) : List Segment :=
  bs.foldl (fun (acc : List Segment) ab =>
    match acc.reverse with
    | s :: rest => if s.addr + s.bytes.length = ab.1 then (⟨s.addr, s.bytes ++ [ab.2]⟩ :: rest).reverse else acc ++ [⟨ab.1, [ab.2]⟩]
    | [] => [⟨ab.1, [ab.2]⟩]) []

end Sys2Proof.Machine
end

