-- ==== Sys2Proof/Machine/Flags.lean ====
section
/-! DEFINITION. Flag computations and statuses: the sticky flag registers (R78 to R82), status groups and the choice of a descriptor's
status (R237), signals and waits (R212, R213), and the completion record (Table 06-12). -/

namespace Sys2Proof.Machine

/-- OR flags into a sticky register; what a commit sets counts as a write of the beat that a clear of the same cycle gives way to (R79, R81). -/
def Pkg.commitFlags (p : Pkg) (key f : Nat) : Pkg :=
  let q := p.orReg key f
  if f = 0 then q else { q with cycle := q.cycle ++ [⟨key, hardwareDie, BitVec.ofNat 64 f⟩] }

/-- OR a committed unit's flags into `ARR_FLAGS` of die `d` for a context (R79). -/
def Pkg.commitArrFlags (p : Pkg) (d c f : Nat) : Pkg := p.commitFlags (Reg.ARR_FLAGS d c) f

/-- OR a committed unit's flags into `COAT_FLAGS` (R79, R186). -/
def Pkg.commitCoatFlags (p : Pkg) (d c f : Nat) : Pkg := p.commitFlags (Reg.COAT_FLAGS d c) f

/-- OR a committed unit's flags into `ANV_FLAGS` (R79). -/
def Pkg.commitAnvFlags (p : Pkg) (h c f : Nat) : Pkg := p.commitFlags (Reg.ANV_FLAGS h c) f

/-- OR a committed unit's flags into `COL_FLAGS` (R79). -/
def Pkg.commitColFlags (p : Pkg) (f c fl : Nat) : Pkg := p.commitFlags (Reg.COL_FLAGS f c) fl

/-- Groups of status codes: 0 served, 1 refused, 2 outcome, 3 failure (Table 06-13). -/
def statusGroup (code : Nat) : Nat := min 3 (code / 16)

/-- Rank within the served group, highest first (R237). -/
def servedRank (code : Nat) : Nat :=
  match code with
  | 4 => 5 | 3 => 4 | 2 => 3 | 0xe => 2 | 1 => 1 | _ => 0

/-- Precedence of groups: failure, outcome, refused, served (R237). -/
def groupRank (code : Nat) : Nat :=
  match statusGroup code with
  | 3 => 3 | 2 => 2 | 1 => 1 | _ => 0

/-- One status raised at a beat takes precedence over another (R237); 0x32 over 0x34 whatever their beats. -/
def statusWins (a b : Nat × Nat) : Bool :=
  if groupRank a.2 ≠ groupRank b.2 then groupRank a.2 > groupRank b.2
  else if groupRank a.2 = 0 then servedRank a.2 > servedRank b.2
  else if a.2 = 0x32 ∧ b.2 = 0x34 then true
  else if a.2 = 0x34 ∧ b.2 = 0x32 then false
  else if a.1 ≠ b.1 then a.1 < b.1
  else a.2 < b.2

/-- The status a record carries (R237): 0x00 when none was raised. -/
def chooseStatus (ss : List (Nat × Nat)) : Nat :=
  match ss with
  | [] => 0
  | s :: rest => (rest.foldl (fun best x => if statusWins x best then x else best) s).2

/-- The fields of a completion record (Table 06-12). -/
structure Rec where
  status : Nat
  reason : Nat
  undef : Bool
  qcause : Nat
  flags : Nat
  late : Bool
  reheated : Nat
  kept : Nat
  replays : Nat
  kindInfo : Nat
  hall : Nat
  detail : Nat
  deriving DecidableEq, Repr

/-- A record with a status and a reason and nothing else. -/
def Rec.plain (status reason hall : Nat) : Rec := ⟨status, reason, false, 0, 0, false, 0, 0, 0, 0, hall, 0⟩

/-- Saturate a 16-bit count. -/
def sat16 (n : Nat) : Nat := min n 0xffff

/-- The record's 32 bytes (Table 06-12). -/
def Rec.bytes (r : Rec) (q seq slots : Nat) : List Byte :=
  leBytes 1 r.status ++ leBytes 1 r.reason ++
  leBytes 1 ((if r.undef then 128 else 0) + 32 * (r.qcause % 4) + r.flags % 32) ++
  leBytes 1 ((1 - seq / slots % 2) * 128 + (if r.late then 64 else 0) + q % 64) ++
  leBytes 4 seq ++ leBytes 2 (sat16 r.reheated) ++ leBytes 2 (sat16 r.kept) ++ leBytes 2 (sat16 r.replays) ++
  leBytes 2 r.kindInfo ++ leBytes 8 r.hall ++ leBytes 8 r.detail

/-- The record of a run that ends at a hall time (R146, R227, R236, R237). -/
def Run.record (r : Run) (hall : Nat) : Rec :=
  let st := chooseStatus r.statuses
  { status := st, reason := if st = 1 then r.delay else if st = 0x3f then r.reason else 0, undef := r.undef, qcause := r.qcause,
    flags := r.flags, late := r.late, reheated := r.reheated, kept := r.kept, replays := r.replays, kindInfo := r.kindInfo,
    hall := hall, detail := r.detail }

/-- A wait word is met against the context's flags (R212). -/
def Pkg.waitMet (p : Pkg) (c w : Nat) : Bool := !wEn w || p.flag c (wFlag w) ≥ wAmount w

/-- Every wait of a descriptor is met (R207). -/
def Pkg.waitsMet (p : Pkg) (c : Nat) (d : List Byte) : Bool := (List.range 4).all (fun i => p.waitMet c (dWait d i))

/-- The index of the first unmet wait. -/
def Pkg.firstUnmet (p : Pkg) (c : Nat) (d : List Byte) : Option Nat := (List.range 4).find? (fun i => !p.waitMet c (dWait d i))

/-- A signal word fires for a status: enabled, and its COND admits the status (Table 06-3, R213). -/
def signalFires (w status : Nat) : Bool :=
  wEn w && (statusGroup status == 0 || (statusGroup status == 2 && !sCond w))

/-- Fire the signals of a descriptor (R213, step 3). -/
def Pkg.fireSignals (p : Pkg) (c : Nat) (d : List Byte) (status : Nat) : Pkg :=
  [0, 1].foldl (fun q i => let w := dSig d i; if signalFires w status then q.addFlag (p.leadDie c) c (wFlag w) (wAmount w) else q) p

end Sys2Proof.Machine
end

