-- ==== Sys2Proof/Machine/Sched.lean ====
section
/-! DEFINITION. The dispatcher's view of its queues (spec 06_descriptor_streams.md, R198 to R210, R217, R218, R226, R232, R233;
13_time_and_determinism.md, R471; 14_faults_replay_and_sparing.md, R489 to R493): rings, engines, journal classes, readiness and the
choice of the next descriptor, and the proof of a wait cycle. -/

namespace Sys2Proof.Machine

/-! ### Rings -/

def Pkg.head (p : Pkg) (q : Nat) : Nat := p.regNat (Reg.DSP_QHEAD q)
def Pkg.tail (p : Pkg) (q : Nat) : Nat := p.regNat (Reg.DSP_QTAIL q)
def Pkg.chead (p : Pkg) (q : Nat) : Nat := p.regNat (Reg.DSP_QCHEAD q)

/-- Descriptors between HEAD and TAIL (R200). -/
def Pkg.waitingCount (p : Pkg) (q : Nat) : Nat := seqDiff (p.tail q) (p.head q)

/-- Address of a descriptor's slot (R199, R200). -/
def Pkg.ringAddr (p : Pkg) (q s : Nat) : Nat := p.fld (Reg.DSP_QBASE q) Fld.DSP_Q_RING * 4096 + 128 * (s % p.ringSlots q)

/-- Address of a completion record's slot (R200). -/
def Pkg.cplAddr (p : Pkg) (q s : Nat) : Nat := p.fld (Reg.DSP_QCPL q) Fld.DSP_Q_CPL * 4096 + 32 * (s % p.ringSlots q)

/-- The 128 bytes in a descriptor's slot. -/
def Pkg.ringDesc (p : Pkg) (q s : Nat) : List Byte := p.viewBytes (p.ringAddr q s) 128

/-- The queue is halted. -/
def Pkg.halted (p : Pkg) (q : Nat) : Bool := (p.queueSt q).halted

/-- Active: enabled, not halted, not empty (R232). -/
def Pkg.activeQueue (p : Pkg) (q : Nat) : Bool := p.queueEnabled q && !p.halted q && p.waitingCount q != 0

/-- The head descriptor, once fetched and not started. -/
def Pkg.headDesc (p : Pkg) (q : Nat) : Option (List Byte) :=
  if (p.runOf q).isSome || p.waitingCount q == 0 then none else
  match (p.queueSt q).prefetch with
  | some (s, b) => if s = p.head q then some b else none
  | none => none

/-- The head as it stands: the fetched copy, else the bytes of its slot. -/
def Pkg.headBytes (p : Pkg) (q : Nat) : List Byte := (p.headDesc q).getD (p.ringDesc q (p.head q))

/-- Sequence numbers of a queue's unstarted descriptors. -/
def Pkg.unstartedSeqs (p : Pkg) (q : Nat) : List Nat :=
  let skip := if (p.runOf q).isSome then 1 else 0
  ((List.range (p.waitingCount q)).drop skip).map (fun i => (p.head q + i) % 2 ^ 32)

/-- The bytes of an unstarted descriptor. -/
def Pkg.unstartedDesc (p : Pkg) (q s : Nat) : List Byte := if s = p.head q then p.headBytes q else p.ringDesc q s

/-! ### Engines, journal classes and the drop cloth -/

/-- Engines of R205: 0 array group, 1 to 4 the Anvils, 5 the fabric-engine group, 6 and 7 the checkpoint engines, 8 the dispatcher. -/
def engineOf (d : List Byte) : Nat :=
  match dKind d with
  | 0 | 1 => 0
  | 2 => 1 + bitsOf (dOp d) 17 16
  | 3 | 4 => 5
  | 5 => 6 + bitsOf (dOp d) 8 8
  | 6 => if dOp d % 65536 ≥ 0x100 then 8 else 0
  | _ => 0

/-- Anvils and checkpoint engines are one for the package; the others belong to a context. -/
def engineShared (key : Nat) : Bool := (1 ≤ key && key ≤ 4) || key == 6 || key == 7

/-- A hearth control routine (R230). -/
def isControl (d : List Byte) : Bool := dKind d == 6 && dOp d % 65536 ≥ 0x100

/-- A tensor-table entry's 64 bytes; empty when the handle lies beyond the table (R217). -/
def Pkg.tableEntry (p : Pkg) (c x : Nat) : List Byte :=
  let tb := Reg.DSP_CTX_TT_BASE c
  if x < 2 ^ (p.fld tb Fld.DSP_TT_N + 4) then p.viewBytes (p.fld tb Fld.DSP_TT_ADDR * 64 + 64 * x) 64 else []

/-- Address of a table entry. -/
def Pkg.entryAddr (p : Pkg) (c x : Nat) : Nat := p.fld (Reg.DSP_CTX_TT_BASE c) Fld.DSP_TT_ADDR * 64 + 64 * x

/-- The tensor descriptor of handle h of a descriptor, as the table holds it now. -/
def Pkg.tensorOf (p : Pkg) (c : Nat) (d : List Byte) (h : Nat) : Tensor := parseTensor (dHandle d h) (p.tableEntry c (dHandle d h))

/-- Address of the parameter block (Table 06-1). -/
def Pkg.paramAddr (p : Pkg) (c : Nat) (d : List Byte) : Nat := p.fld (Reg.DSP_CTX_PARAM_BASE c) Fld.DSP_PARAM_ADDR * 64 + 64 * dParam d

/-- The image in a coat program slot of a die. -/
def Pkg.coatImage (p : Pkg) (die slot : Nat) : Option CoatImage := assoc? p.coatSlots (64 * die + slot)

/-- The image that a coat or array operation word names on the partition of a context: none for the plain drain or an empty slot. -/
def Pkg.imageOf (p : Pkg) (c : Nat) (d : List Byte) : Option CoatImage :=
  let s := bitsOf (dOp d) 15 8
  if s ≥ 0x40 then none else p.coatImage (p.leadDie c) s

/-- The parameter block's bytes as the dispatcher copies them (R218). -/
def Pkg.paramBytes (p : Pkg) (c : Nat) (d : List Byte) (n : Nat) : List Byte := if dHasParam d then p.viewBytes (p.paramAddr c d) n else []

/-- The descriptor of one group of a GEMM_GROUPED: the call's own, with the group's operation word and handles (Table 06-9). -/
def groupDesc (d b : List Byte) (g : Nat) : List Byte :=
  let w (i : Nat) : Nat := leAt b (4 + 20 * g + 4 * i) 4
  leBytes 4 (dHdr d / 16 * 16) ++ leBytes 4 (w 0) ++ leBytes 2 (w 1) ++ leBytes 2 (w 2) ++ leBytes 2 (w 3) ++ leBytes 2 (w 4) ++ d.drop 16

/-- The descriptors of a GEMM_GROUPED's groups; a count beyond 256 never runs. -/
def Pkg.groupDescs (p : Pkg) (c : Nat) (d : List Byte) : List (List Byte) :=
  let g := leAt (p.paramBytes c d 4) 0 4
  if g > 256 then [] else
  let b := p.paramBytes c d (4 + 20 * g)
  (List.range g).map (groupDesc d b)

/-- A call of GEMM_GROUPED. -/
def isGrouped (d : List Byte) : Bool := dKind d == 6 && dOp d % 65536 == 0x10

/-- A descriptor that reheats and shadows tiles: an array descriptor, or a call of an array routine (R138; log entry 92). -/
def descReheats (d : List Byte) : Bool := dKind d == 0 || (dKind d == 6 && (dOp d % 65536 == 0x10 || dOp d % 65536 == 0x11))

/-- Input handles and output handles of a descriptor's kind (Tables 03-2, 05-9, 06-9, 07-3; R210, R383). -/
def Pkg.roles (p : Pkg) (c : Nat) (d : List Byte) : List Nat × List Nat :=
  match dKind d with
  | 0 => (if (dOp d).testBit 3 then [0, 1, 3] else [0, 1], [2])
  | 1 =>
    (match p.imageOf c d with
     | some im => ([0, 1].filter (fun h => im.readsInput h), [2, 3].filter (fun h => im.storesTo h))
     | none => ([], [2]))
  | 2 => if bitsOf (dOp d) 27 24 ≤ 3 then ([0, 2], [2]) else ([0, 1], [2, 3])
  | 3 => if dOp d % 16 = 0 then ([0], [2]) else ([], [])
  | 6 =>
    (match dOp d % 65536 with
     | 0x11 => ([0, 1, 3], [2])
     | 0x20 => ([0, 1], [2])
     | 0x21 => ([0, 1, 3], [2])
     | 0x22 => ([0], [2])
     | 0x30 => ([0], [2, 3])
     | 0x31 => ([0, 1], [2])
     | 0x32 => ([0, 1, 2], [2])
     | 0x40 => ([0, 1, 3], [2])
     | 0x50 => ([0], [2])
     | 0x51 => ([0], [2])
     | _ => ([], []))
  | _ => ([], [])

/-- The operands that a descriptor reads and writes, each with its position; those of a GEMM_GROUPED are its groups' (R210). -/
def Pkg.roleTensors (p : Pkg) (c : Nat) (d : List Byte) : List (Nat × Tensor) × List (Nat × Tensor) :=
  let one (g : List Byte) : List (Nat × Tensor) × List (Nat × Tensor) :=
    let r := p.roles c g
    (r.1.map (fun h => (h, p.tensorOf c g h)), r.2.map (fun h => (h, p.tensorOf c g h)))
  if isGrouped d then
    let xs := (p.groupDescs c d).map one
    ((xs.map (·.1)).flatten, (xs.map (·.2)).flatten)
  else one d

/-- Those of a list that lie in this package. -/
def Pkg.localOf (p : Pkg) (ts : List (Nat × Tensor)) : List (Nat × Tensor) := ts.filter (fun ht => p.isLocal ht.2.loc)

/-- The descriptor's inputs and outputs overlap as R210 states. -/
def Pkg.inPlace (p : Pkg) (c : Nat) (d : List Byte) : Bool :=
  let r := p.roleTensors c d
  let ins := p.localOf r.1
  let outs := p.localOf r.2
  -- a COPY takes part only when both its handles lie in this package
  if dKind d = 3 ∧ (ins.isEmpty ∨ outs.isEmpty) then false else !outs.isEmpty && overlaps d ins outs

/-- Treated as class 2 whatever the header says (R497). -/
def Pkg.alwaysExternal (p : Pkg) (c : Nat) (d : List Byte) : Bool :=
  dKind d == 4 || dKind d == 5 ||
  (dKind d == 3 && (dOp d % 16 != 0 || [0, 2].any (fun h =>
    let loc := (p.tensorOf c d h).loc
    -- location value 0 is absolute under `FAB_OP_ABS` (R367)
    !p.isLocal loc || (loc == 0 && (dOp d).testBit 17 && p.fld Reg.FAB_LOC Fld.FAB_LOC_VALUE != 0))))

/-- The journal class that applies (R210, R497). -/
def Pkg.journalClass (p : Pkg) (c : Nat) (d : List Byte) : Nat :=
  if p.alwaysExternal c d then 2
  else if dJclass d = 0 ∧ p.inPlace c d then 1
  else dJclass d

/-- The descriptor keeps a drop cloth (R210, R492). -/
def Pkg.keepsCloth (p : Pkg) (c : Nat) (d : List Byte) : Bool :=
  let j := p.journalClass c d
  !(p.roleTensors c d).2.isEmpty && (j == 1 || (j == 2 && (dKind d ≤ 2 || descReheats d) && p.inPlace c d))

/-- Drop-cloth lines that a descriptor reserves (R493). -/
def Pkg.clothLines (p : Pkg) (c : Nat) (d : List Byte) : Nat :=
  if p.keepsCloth c d then footprintLines d (p.localOf (p.roleTensors c d).2) else 0

/-- Lines of a context's drop cloth: its journal region without the 16 KiB of entries (R490). -/
def Pkg.clothSize (p : Pkg) (c : Nat) : Nat := ((p.region (p.fld (Reg.RAS_CTX_CFG c) Fld.RAS_JR_REGION)).size - 16384) / 256

/-- Lines of a context's drop cloth not reserved. -/
def Pkg.clothFree (p : Pkg) (c : Nat) : Nat :=
  p.clothSize c - (p.dsp.runs.filter (fun r => r.ctx == c)).foldl (fun n r => n + r.reserved) 0 -
    (p.pairHeld.filter (fun h => p.queueCtx h.queue == c)).foldl (fun n h => n + h.reserved) 0

/-- Journal entries in use in a context: started and not retired (R490). -/
def Pkg.journalUsed (p : Pkg) (c : Nat) : Nat :=
  (p.dsp.runs.filter (fun r => r.ctx == c)).length + (p.pairHeld.filter (fun h => p.queueCtx h.queue == c)).length

/-! ### Readiness and choice -/

/-- A unit is under a targeted self-test or a march test with its work held (Table 14-2). -/
def Pkg.unitHeld (p : Pkg) (die unit : Nat) : Bool :=
  p.ras.tests.any (fun t => t.die == die && t.unit == unit) ||
  p.ras.marching.any (fun t => t.die == die && t.unit == unit && !t.spare)

/-- An Anvil is held by a test of one of its units (Table 14-2). -/
def Pkg.anvilHeld (p : Pkg) (h : Nat) : Bool :=
  let mine (t : UnitTest) : Bool := t.die == 16 + h && 0xa ≤ t.unit / 4096 && t.unit / 4096 ≤ 0xc
  p.ras.tests.any mine || p.ras.marching.any (fun t => mine t && !t.spare)

/-- A die is out of service (Table 14-6). -/
def Pkg.dieLost (p : Pkg) (i : Nat) : Bool := (p.fld Reg.RAS_LOST Fld.RAS_LOST).testBit i

/-- An engine runs something. -/
def Pkg.engineBusy (p : Pkg) (c key : Nat) : Bool := p.dsp.runs.any (fun r => r.engine == key && (engineShared key || r.ctx == c))

/-- An engine counts as free for a descriptor (R207, R490, R493, Table 14-2). -/
def Pkg.engineFree (p : Pkg) (c : Nat) (d : List Byte) : Bool :=
  let key := engineOf d
  !p.engineBusy c key &&
  p.journalUsed c < 16 &&
  !p.unitHeld (p.leadDie c) (0xd000 + c) &&
  !(1 ≤ key && key ≤ 4 && p.anvilHeld (key - 1)) &&
  (let n := p.clothLines c d; n = 0 || n > p.clothSize c || n ≤ p.clothFree c)

/-- A dispatcher may start descriptors of a context: its partition is configured, no lock-step stop holds it, and no class-1 or class-2
event has ended the package's work (R198, R475). -/
def Pkg.ctxRuns (p : Pkg) (c : Nat) : Bool := p.partValid c && !(p.ctxSt c).pairStopped

/-- A deadline has passed at a hall time: non-zero, and not later (R226). -/
def deadlinePassed (hall : Nat) (d : List Byte) : Bool := dDeadline d != 0 && dDeadline d ≤ hall

/-- The head of a queue is ready (R207). -/
def Pkg.ready (p : Pkg) (q : Nat) : Bool :=
  p.queueEnabled q && !p.halted q && p.ctxRuns (p.queueCtx q) &&
  match p.headDesc q with
  | some d => p.waitsMet (p.queueCtx q) d && p.engineFree (p.queueCtx q) d
  | none => false

/-- Beat of the doorbell that covered a sequence number (R471). -/
def QueueSt.coverBeat (s : QueueSt) (head n : Nat) : Nat :=
  ((s.covers.find? (fun tb => seqDiff tb.1 head > seqDiff n head)).map (·.2)).getD 0

/-- One place in the fixed order of R471: doorbell beat, queue, sequence number as its distance from the head. -/
def orderLe (a b : Nat × Nat × Nat) : Bool :=
  if a.1 ≠ b.1 then a.1 < b.1 else if a.2.1 ≠ b.2.1 then a.2.1 < b.2.1 else a.2.2 ≤ b.2.2

/-- The unstarted descriptors of a context for an engine, in the fixed order of timed-reproducible mode (R471): beat, queue, distance. -/
def Pkg.fixedOrder (p : Pkg) (c key : Nat) : List (Nat × Nat × Nat) :=
  sortBy orderLe ((p.ctxQueues c).filter (fun q => p.queueEnabled q && !p.halted q) |>.map (fun q =>
    ((p.unstartedSeqs q).filter (fun s => engineOf (p.unstartedDesc q s) == key)).map (fun s =>
      ((p.queueSt q).coverBeat (p.head q) s, q, seqDiff s (p.head q))))).flatten

/-- The fixed order holds back the head of a queue: another descriptor comes first on its engine (R471). -/
def Pkg.heldByOrder (p : Pkg) (q : Nat) : Bool :=
  p.on Reg.TIM_CTRL Fld.TIM_TRMODE &&
  match (p.fixedOrder (p.queueCtx q) (engineOf (p.headBytes q))).head? with
  | some x => x.2.1 != q || x.2.2 != 0
  | none => false

/-- The queue whose descriptor ran last on an engine of a context. -/
def Pkg.lastQueueOn (p : Pkg) (c key : Nat) : Option Nat := assoc? p.dsp.lastOn (16 * c + key)

/-- One ready head goes before another on an engine: higher priority, then the queue that ran last there, then the lower queue (R207). -/
def Pkg.goesBefore (p : Pkg) (c key : Nat) (a b : Nat) : Bool :=
  let pa := dPrio (p.headBytes a)
  let pb := dPrio (p.headBytes b)
  if pa ≠ pb then pa > pb
  else if p.lastQueueOn c key = some a then true
  else if p.lastQueueOn c key = some b then false
  else a < b

/-- The queue whose head the dispatcher starts next on an engine (R207, R471). -/
def Pkg.choice (p : Pkg) (c key : Nat) : Option Nat :=
  ((p.ctxQueues c).filter (fun q => p.ready q && engineOf (p.headBytes q) == key && !p.heldByOrder q)).foldl
    (fun best q => match best with
      | none => some q
      | some b => if p.goesBefore c key q b then some q else some b) none

/-! ### Wait cycles (R232, R233) -/

/-- A queue is blocked: its head is unstarted with an unmet wait, or held back by the fixed order (R232, R471). -/
def Pkg.blocked (p : Pkg) (q : Nat) : Bool :=
  p.activeQueue q && (p.runOf q).isNone && (!p.waitsMet (p.queueCtx q) (p.headBytes q) || p.heldByOrder q)

/-- An unstarted descriptor is a pending setter of a flag: a signal names it, or it is a control routine (R232). -/
def setsFlag (d : List Byte) (n : Nat) : Bool := isControl d || [0, 1].any (fun i => wEn (dSig d i) && wFlag (dSig d i) == n)

/-- An armed trigger entry of a context is a pending setter of a flag (R423). -/
def Pkg.triggerSets (p : Pkg) (c n : Nat) : Bool :=
  p.trigs.any (fun t => p.partOfEngines (t.engine / 4) == some c && wEn (leAt t.bytes 0x38 8) && wFlag (leAt t.bytes 0x38 8) == n)

/-- An armed timed release of a context is a pending setter of a flag (R464). -/
def Pkg.releaseSets (p : Pkg) (c n : Nat) : Bool :=
  p.on (Reg.TIM_CTX_CFG c) Fld.TIM_REL_ARM && p.fld (Reg.TIM_CTX_CFG c) Fld.TIM_REL_FLAG == n

/-- Every pending setter of a flag is an unstarted descriptor in an active queue of the context. -/
def Pkg.settersAllBlocked (p : Pkg) (c n : Nat) : Bool :=
  !p.triggerSets c n && !p.releaseSets c n &&
  (p.ctxQueues c).all (fun q => p.activeQueue q || (p.unstartedSeqs q).all (fun s => !setsFlag (p.unstartedDesc q s) n))

/-- The wait-cycle proof of a context holds (R233). -/
def Pkg.waitCycle (p : Pkg) (c : Nat) : Bool :=
  let act := (p.ctxQueues c).filter p.activeQueue
  !act.isEmpty && act.all p.blocked &&
  act.all (fun q =>
    let d := p.headBytes q
    dDeadline d == 0 &&
    (List.range 4).all (fun i => p.waitMet c (dWait d i) ||
      (!p.flagWritable c (wFlag (dWait d i)) && p.settersAllBlocked c (wFlag (dWait d i)))))

/-- State of a queue as `DSP_Q_STATE` reads (Table 06-18). -/
def Pkg.queueState (p : Pkg) (q : Nat) : Nat :=
  if (p.runOf q).isSome then 4
  else if !p.queueEnabled q then 0
  else if p.halted q then 5
  else if p.waitingCount q = 0 then 1
  else if p.blocked q then 2
  else 3

end Sys2Proof.Machine
end

