-- ==== Sys2Proof/Machine/Complete.lean ====
section
/-! DEFINITION. How a descriptor ends (spec 06_descriptor_streams.md, R203, R213, R236, R237; 04_quench_and_reheat.md, R155;
13_time_and_determinism.md, R475; 14_faults_replay_and_sparing.md, R479, R490 to R500): its record, signals, interrupt and retirement, a
record that cannot be written, a replay owed, and a dispatcher's copy errors. -/

namespace Sys2Proof.Machine

/-- A ring fault of a queue is logged and raises the context's interrupt (R203, Table 16-11). -/
def Pkg.ringReport (p : Pkg) (q detail addr : Nat) : Pkg :=
  let c := p.queueCtx q
  let die := p.leadDie c
  (p.record die 0 0xe detail (leBytes 4 c ++ leBytes 4 q ++ leBytes 8 addr)).raiseIrq 13 die (64 + c)

/-- Halt a queue on a status (R213). -/
def Pkg.haltQueue (p : Pkg) (q status : Nat) : Pkg :=
  (p.setQueueSt q { p.queueSt q with halted := true }).setFld (Reg.DSP_QSTATUS q) Fld.DSP_Q_LASTST status

/-- Advance HEAD past a completed descriptor and drop what the dispatcher kept about it (R200). -/
def Pkg.advanceHead (p : Pkg) (q seq : Nat) : Pkg :=
  let h := (p.head q + 1) % 2 ^ 32
  let s := p.queueSt q
  let pf := match s.prefetch with | some x => if x.1 = seq then none else some x | none => none
  let cov := s.covers.filter (fun tb => tb.1 ≠ h && seqDiff tb.1 h < 2 ^ 31)
  (p.setNat (Reg.DSP_QHEAD q) h).setQueueSt q { s with prefetch := pf, covers := cov, readySince := none }

/-- Add to a histogram register, saturating (R157). -/
def Pkg.addHist (p : Pkg) (die n k : Nat) : Pkg := p.setNat (Reg.ARR_SHADOW_HIST die n) (min 0xffffffff (p.regNat (Reg.ARR_SHADOW_HIST die n) + k))

/-- Add a staging set to the quench counters of its die (R155). -/
def Pkg.countStage (p : Pkg) (st : QuenchStage) : Pkg :=
  let d := st.die
  ((((p.quenchCount d (Reg.ARR_CNT_QSAT d) st.sats).quenchCount d (Reg.ARR_CNT_QFLUSH d) st.flushes).quenchCount d
    (Reg.ARR_CNT_REHEAT d) st.reheats).quenchCount d (Reg.ARR_CNT_KEPT_NARROW d) st.kept).quenchCount d (Reg.ARR_CNT_SHADOW d) st.shadows

/-- Add a staging set to the histogram of a context on its die (R155). -/
def Pkg.binStage (p : Pkg) (c : Nat) (st : QuenchStage) : Pkg := st.bins.foldl (fun q b => q.addHist st.die (32 * c + b) 1) p

/-- Move a staging set into the quench counters and the histogram of its die (R155). -/
def Pkg.applyStage (p : Pkg) (c : Nat) (st : QuenchStage) : Pkg :=
  let q := (p.countStage st).binStage c st
  { q with stageCycle := q.stageCycle ++ [(c, st)] }

/-- A lock-step pair watches this context (R475). -/
def Pkg.paired (p : Pkg) (c : Nat) : Bool :=
  p.on Reg.TIM_PAIR_CFG Fld.TIM_PAIR_EN && p.fld Reg.TIM_PAIR_CFG Fld.TIM_PAIR_CTX == c

/-- Order of the bytes that a digest runs over: tile, then handle, then address (R475). -/
def Written.le (a b : Written) : Bool :=
  if a.tile ≠ b.tile then a.tile < b.tile else if a.handle ≠ b.handle then a.handle < b.handle else a.addr ≤ b.addr

/-- The eight record bytes of a digest: the rule names six and counts eight; the other two are free (R475). -/
def Rec.digestBytes (r : Rec) : List Byte :=
  leBytes 1 (if statusGroup r.status = 0 then 0 else r.status) ++
  leBytes 1 ((if r.undef then 128 else 0) + 32 * (r.qcause % 4) + r.flags % 32) ++ leBytes 2 (sat16 r.reheated) ++ leBytes 2 r.kindInfo ++
  leBytes 2 Config.digestPad.toNat

/-- The digest of a descriptor (R475). -/
def digestOf (ws : List Written) (r : Rec) : Nat := crc64 (((sortBy Written.le ws).map (·.bytes)).flatten ++ r.digestBytes)

/-- The digests of its tiles, ascending t' (R475). -/
def tileDigests (ws : List Written) : List Nat :=
  let s := sortBy Written.le ws
  let ts := s.foldl (fun acc w => if acc.contains w.tile then acc else acc ++ [w.tile]) []
  ts.map (fun t => crc64 ((s.filter (fun w => w.tile = t)).map (·.bytes)).flatten)

/-- Steps 3 and 4 of R213: signals, then the interrupt. -/
def Pkg.signalsAndIrq (p : Pkg) (q : Nat) (d : List Byte) (status : Nat) : Pkg :=
  let c := p.queueCtx q
  let p1 := p.fireSignals c d status
  if dIrq d && p1.on (Reg.DSP_QCTRL q) Fld.DSP_Q_IRQEN then p1.raiseIrq 12 (p1.leadDie c) q else p1

/-- The first tile whose digests differ; 0xFFFF_FFFF when a descriptor has more than 2^20 tiles or none differs. -/
def firstDiffer (a b : List Nat) : Nat :=
  if a.length > 2 ^ 20 then 0xffffffff else
  ((List.range (max a.length b.length)).find? (fun i => a.getD i 0 ≠ b.getD i 0 ∨ (i < a.length) ≠ (i < b.length))).getD 0xffffffff

/-- Write the lock-step report unless one is held (Table 13-9). -/
def Pkg.pairReport (p : Pkg) (kind q seq tile local_ partner hall : Nat) : Pkg :=
  if p.on Reg.TIM_PAIR_RPT_0 Fld.TIM_PR_VALID then p else
  (((((((p.setReg Reg.TIM_PAIR_RPT_0 0).setFld Reg.TIM_PAIR_RPT_0 Fld.TIM_PR_VALID 1).setFld Reg.TIM_PAIR_RPT_0 Fld.TIM_PR_KIND kind).setFld
    Reg.TIM_PAIR_RPT_0 Fld.TIM_PR_QUEUE q).setFld Reg.TIM_PAIR_RPT_0 Fld.TIM_PR_SEQ seq).setNat Reg.TIM_PAIR_RPT_1 (tile % 2 ^ 32)).setNat
    Reg.TIM_PAIR_RPT_2 local_).setNat Reg.TIM_PAIR_RPT_3 partner |>.setNat Reg.TIM_PAIR_RPT_4 hall

/-- Stop the paired context: its dispatcher starts no further descriptor (R475). -/
def Pkg.pairStop (p : Pkg) (c : Nat) : Pkg := p.setCtxSt c { p.ctxSt c with pairStopped := true }

/-- Compare a held descriptor's digest with the partner's: apply its signals and interrupt, or stop and report (R475). -/
def Pkg.pairCompare (p : Pkg) (e : Env) (h : PairHeld) (x : PairIn) : Pkg :=
  let c := p.queueCtx h.queue
  let p1 := { p with pairHeld := p.pairHeld.erase h, pairIn := p.pairIn.erase x }
  if h.digest = x.digest then p1.signalsAndIrq h.queue h.desc h.status
  else
    let p2 := ({ p1 with pairHeld := p1.pairHeld ++ [h] }).event 4 (p.leadDie c) (0xd000 + c) 1 0 (leBytes 8 h.digest ++ leBytes 8 x.digest)
    (p2.pairReport 1 h.queue h.seq (firstDiffer h.tiles x.tiles) h.digest x.digest e.tagHall).pairStop c

/-- The output operands of a running descriptor, from its start copies (R218, R431): a collective's is handle 2, an ATOMIC's are its target and its
results (R384). -/
def Pkg.outTensors (p : Pkg) (r : Run) : List (Nat × Tensor) :=
  if isGrouped r.desc then (p.roleTensors r.ctx r.desc).2
  else
    let hs := match r.kind with
      | 4 => if dOp r.desc % 16 ≤ 4 ∨ dOp r.desc % 16 = 6 then [2] else []
      | 3 => if dOp r.desc % 16 = 0 then [2] else [2, 3]
      | _ => (p.roles r.ctx r.desc).2
    hs.map (fun h => (h, parseTensor (dHandle r.desc h) (r.tds.getD h [])))

/-- A record's UNDEF says that the contents of the output buffers are undefined (Table 06-12): they are from then on. -/
def Pkg.undefineOutputs (p : Pkg) (r : Run) : Pkg :=
  if r.undef then (coveredBytes r.desc (p.localOf (p.outTensors r))).foldl (fun (s : Pkg) x => s.freeBytes x.1 (x.2 - x.1)) p else p

/-- A descriptor completes with a record: the record's 32 bytes are written, then signals and interrupt follow, or wait for the partner
of a lock-step pair, HEAD advances, and a refused or failed status halts the queue (R213, R236, R475). A record whose place is not owned
is withheld with its signals and interrupt, and the queue is disabled (R203). DESIGN CHOICE (log 98): the staging sets of R155 of a descriptor whose
record is withheld are dropped with it. -/
def Pkg.complete (p : Pkg) (e : Env) (q seq : Nat) (d : List Byte) (r : Rec) (run : Option Run) : Pkg :=
  let c := p.queueCtx q
  let a := p.cplAddr q seq
  let p0 := p.dropRun q
  if !p0.rangeOwned c a 32 then
    ((p0.setFld (Reg.DSP_QCTRL q) Fld.DSP_Q_ENABLE 0).setFld (Reg.DSP_QSTATUS q) Fld.DSP_Q_RINGERR 1).ringReport q 2 a
  else
    let pu := match run with | some x => p0.undefineOutputs x | none => p0
    let p1 := (pu.storeOrHold e (.dispatcher c) a (r.bytes q seq (p0.ringSlots q))).1
    let p2 := match run with
      | some x => x.stage.foldl (fun (s : Pkg) st => s.applyStage c st) p1
      | none => p1
    let p3 :=
      if p2.paired c then
        let ws := match run with | some x => x.written | none => []
        let h : PairHeld := ⟨q, seq, digestOf ws r, tileDigests ws, d, r.status, (match run with | some x => x.reserved | none => 0), e.tagHall⟩
        match p2.pairIn.find? (fun (x : PairIn) => x.queue == q && x.seq == seq) with
        | some x => ({ p2 with pairHeld := p2.pairHeld ++ [h] }).pairCompare e h x
        | none => { p2 with pairHeld := p2.pairHeld ++ [h] }
      else p2.signalsAndIrq q d r.status
    let p4 := p3.advanceHead q seq
    if statusGroup r.status = 1 ∨ statusGroup r.status = 3 then p4.haltQueue q r.status else p4

/-- Complete an unstarted head with a status and a reason (R203, R226, R234, R638). The DETAIL of an Anvil solve is the residual norm, the canonical NaN
where none was computed (R282). -/
def Pkg.completeHead (p : Pkg) (e : Env) (q : Nat) (d : List Byte) (status reason : Nat) : Pkg :=
  p.complete e q (p.head q) d { Rec.plain status reason e.tagHall with detail := if dKind d = 2 then 0x7ff8000000000000 else 0 } none

/-- A descriptor needs a replay as a whole for an error of a unit (R479, R495 to R497, Table 14-1): owed when its class admits one and
fewer than three attempts were made; a third failure is a class-4 event; a class-2 descriptor stops issuing. -/
def Pkg.oweReplay (p : Pkg) (e : Env) (q die unit : Nat) : Pkg :=
  match p.runOf q with
  | none => p
  | some r =>
    if r.jclass = 2 then
      p.setRun { r with stopped := true, replayOn := some (die, unit) }
    else if r.attempts ≥ 3 then
      (p.setRun { r.abort e.tag 0x0a with undef := true, stopped := true, finished := true, replayOn := none }).event 4 die unit 1 0 (leBytes 8 r.seq)
    else p.setRun { r with replayOn := some (die, unit), finished := false }

/-- The dispatcher of a context (Table 14-1, kind 0xD). -/
def dspUnit (c : Nat) : Nat := 0xd000 + c

/-- Both copies of a flag or sequence number fail (R479): every started, unretired descriptor of the context ends with 0x3F, cause 0x0A and
UNDEF, and every queue of the context halts. -/
def Pkg.bothCopiesFail (p : Pkg) (e : Env) (c : Nat) : Pkg :=
  let p1 := p.event 4 (p.leadDie c) (dspUnit c) 1 0 (leBytes 8 c)
  let p2 := { p1 with dsp := { p1.dsp with runs := p1.dsp.runs.map (fun (r : Run) =>
    if r.ctx = c then { r.abort e.tag 0x0a with undef := true, stopped := true, finished := true, replayOn := none } else r) } }
  (p2.ctxQueues c).foldl (fun s q => s.haltQueue q 0x3f) p2

/-- A copy error met on reading the dispatcher's records (R479): a repaired copy, a replayed descriptor, or an aborted context, whose
flag or sequence number `zero` sets to 0. -/
def Pkg.copyFault (p : Pkg) (e : Env) (c : Nat) (q : Option Nat) (zero : Pkg → Pkg) (x : CopyError) : Pkg :=
  match x with
  | .oneCopy => p.event 8 (p.leadDie c) (dspUnit c) 1 0 (leBytes 8 c)
  | .bothCopies => zero (p.bothCopiesFail e c)
  | .journal =>
    let p1 := p.event 8 (p.leadDie c) (dspUnit c) 1 0 (leBytes 8 c)
    match q with
    | some x => p1.oweReplay e x (p.leadDie c) (dspUnit c)
    | none => p1

end Sys2Proof.Machine
end

