-- ==== Sys2Proof/Machine/MemCmds.lean ====
section
/-! DEFINITION. The memory commands (spec 08_memory_system.md): requests under the bandwidth classes, stripe updates, region fills,
windows and budgets, live calibration, scrub, refresh and the counter clear (R291, R295, R300, R305 to R325). -/

namespace Sys2Proof.Machine

/-- Line slots of a stack in one 1 µs window: 100 lines per µs per percent (R308). -/
abbrev windowLines : Nat := 10000

/-! ### Classes of service (R307 to R309) -/

/-- Tokens a partition holds at a stack, in lines. -/
def StackSt.tokensOf (st : StackSt) (c : Nat) : Nat := (assoc? st.tokens c).getD 0

/-- A priority read may still use the stack's priority slots of this window (R307). -/
def Pkg.prioRoom (p : Pkg) (st : StackSt) : Bool := st.prioUsed < p.fld Reg.MEM_PRIO_CAP Fld.MEM_PRIO_CAP * 100 && st.windowUsed < windowLines

/-- A waiting request that the calibration of its pseudo-channel holds back (R318, R319). -/
def Pkg.calBlocks (p : Pkg) (w : WaitingReq) : Bool := p.calDelays w.addr w.len (w.op != .read)

/-- A waiting request may be served: no older one to its line waits (R291), calibration does not hold it back. -/
def Pkg.mayServe (p : Pkg) (s : Nat) (w : WaitingReq) : Bool :=
  (p.stack s).waiting.contains w && ((p.stack s).waiting.takeWhile (fun x => x != w)).all (fun x => x.addr / 256 != w.addr / 256) && !p.calBlocks w

/-- Serve a waiting request in a line slot of the window, with what its class takes of the stack's account. -/
def Pkg.serveSlot (p : Pkg) (e : Env) (s : Nat) (w : WaitingReq) (take : StackSt → StackSt) : Pkg :=
  let st := p.stack s
  ((p.setStack s (take { st with waiting := st.waiting.erase w, windowUsed := st.windowUsed + 1 })).serveNow e none w).1

/-- A request is marked with reason CAL, once: counted, and its descriptor delayed (R318, R319). -/
def Pkg.markCal (p : Pkg) (e : Env) (s : Nat) (w : WaitingReq) : Pkg :=
  if w.cal || !p.calBlocks w then p
  else
    let st := p.stack s
    let w1 : WaitingReq := { w with cal := true, delay := if w.delay = 0 then 2 else w.delay }
    ((p.setStack s { st with waiting := st.waiting.map (fun x => if x = w then w1 else x) }).countCal s).tellRun e w.user .late

/-- Mark every waiting request that calibration holds back. -/
def Pkg.markWaiting (p : Pkg) (e : Env) (s : Nat) : Pkg := (p.stack s).waiting.foldl (fun (q : Pkg) w => q.markCal e s w) p

/-- Priority reads go ahead of all other requests up to the cap (R307). -/
def Pkg.servePriority (p : Pkg) (e : Env) (s : Nat) : Pkg :=
  (p.stack s).waiting.foldl (fun (q : Pkg) w =>
    if w.priority && q.prioRoom (q.stack s) && q.mayServe s w then q.serveSlot e s w (fun st => { st with prioUsed := st.prioUsed + 1 }) else q) p

/-- Requests whose partition holds a token are served in order of arrival, one token a line (R308). -/
def Pkg.serveTokens (p : Pkg) (e : Env) (s : Nat) : Pkg :=
  (p.stack s).waiting.foldl (fun (q : Pkg) w =>
    let st := q.stack s
    if st.tokensOf w.part ≥ 1 && st.windowUsed < windowLines && q.mayServe s w then
      q.serveSlot e s w (fun x => { x with tokens := assocPut x.tokens w.part (x.tokensOf w.part - 1) })
    else q) p

/-- One best-effort slot: the next partition in turn that has a request with BE = 1 takes it (R309). Partition 8 stands for cores whose group no
partition owns. -/
def Pkg.serveBestEffort (p : Pkg) (e : Env) (s : Nat) : Pkg :=
  let st := p.stack s
  if st.windowUsed ≥ windowLines then p else
  let mine (c : Nat) : Option WaitingReq := if p.regBestEffort c then st.waiting.find? (fun w => w.part == c && p.mayServe s w) else none
  match ((List.range 9).map (fun i => (st.beLast + 1 + i) % 9)).find? (fun c => (mine c).isSome) with
  | none => p
  | some c =>
    match mine c with
    | none => p
    | some w => p.serveSlot e s w (fun x => { x with beLast := c })

/-- Serve what may be served of a stack's waiting requests: priority reads, then the regulated class, then best effort in what these leave unused
(R307 to R309); nothing while the controller's buffer is under test (Table 14-2). -/
def Pkg.serveWaiting (p : Pkg) (e : Env) (s : Nat) : Pkg :=
  if p.stackHeld s then p
  else
    let p1 := ((p.markWaiting e s).servePriority e s).serveTokens e s
    countFold (p1.stack s).waiting.length (fun _ q => q.serveBestEffort e s) p1

/-- A request enters a stack's controller behind those that wait, and is served at once if its turn is now (R291, R307 to R309). -/
def Pkg.enterStack (p : Pkg) (e : Env) (s : Nat) (w : WaitingReq) : Pkg :=
  let st := p.stack s
  (p.setStack s { st with waiting := st.waiting ++ [w] }).serveWaiting e s

/-- A fabric request from another package waits in a stack's inbound queue. -/
def WaitingReq.inbound (w : WaitingReq) (own : Nat) : Bool := match w.user with | .fabric l => l != own | _ => false

/-- A stack's inbound queue of 256 entries is full (R311). -/
def Pkg.inboundFull (p : Pkg) (s : Nat) : Bool := ((p.stack s).waiting.filter (fun w => w.inbound p.ownLoc)).length ≥ 256

/-- A request is refused with 0x10 or 0x11 and counted (R311, R312, Table 08-11). -/
def Pkg.refuseReq (p : Pkg) (s : Nat) (w : WaitingReq) (reason : Nat) : Pkg :=
  (p.memCount s (Reg.MEM_CNT_REFUSED s) 1).memReply w (Served.nack reason)

/-- A byte fails parity in a controller's buffer: an event of class 8 of the buffer, and a replay of every descriptor that has a request in it; their
requests leave with it (R292, Table 14-1). -/
def Pkg.bufferError (p : Pkg) (s line : Nat) (me : MemUser) (a : Nat) : Pkg :=
  let die := deviceDie s
  let unit := bufferUnit s
  let p1 := p.memErr 5 line
  let p2 := p1.event 8 die unit 1 5 (memErrData p1 line a)
  let st := p2.stack s
  let qs := ((me :: st.waiting.map (fun w => w.user)) ++ st.stripes.map (fun w => w.user)).filterMap (fun u => match u with | .descriptor q => some q | _ => none)
  let gone (u : MemUser) : Bool := match u with | .descriptor _ => true | _ => false
  { p2.setStack s { st with waiting := st.waiting.filter (fun w => !gone w.user), stripes := st.stripes.filter (fun w => !gone w.user) } with
    memDone := p2.memDone ++ qs.eraseDups.map (fun q => .replay q die unit) }

/-- A request enters its controller (R291, R296, R305 to R312, R316 to R319). A core of a partition without HBM bandwidth takes the access fault of
R40. -/
def memoryRequest (req : MemReq) (e : Env) (p0 : Pkg) : Pkg :=
  let p := p0.markBad req.badBytes
  let u := memUser req.agent
  let op : MemOp := match req.write with | some bs => .write bs | none => .read
  let len := match req.write with | some bs => bs.length | none => req.len
  match p.regionAt req.addr with
  | none => p.memReply ⟨u, 0, req.addr, op, len, false, e.hall, false, false, 0, none⟩ (Served.nack 0x50)
  | some r =>
    let part := p.memPart u r
    let prio : Bool := req.write.isNone && (r.prio || (match u with | .dispatcher _ => true | _ => false))
    let w : WaitingReq := ⟨u, part, req.addr, op, len, prio, e.hall, false, false, 0, none⟩
    if len = 0 ∨ req.addr / 256 ≠ (req.addr + len - 1) / 256 then p
    else if r.stash then (p.serveNow e none w).1
    else
      let dj := r.place (req.addr - r.base)
      let s := dj.1
      if p.noBandwidth part then
        (match u with
         | .core g => { p.memAnswer u req.addr 0x11 [] with memDone := p.memDone ++ [.coreFault g .access req.addr req.write.isSome] }
         | .descriptor q => (p.refuseReq s w 0x56).updRun q (fun x => x.raise e.tag 0x11)
         | _ => p.refuseReq s w 0x56)
      else if w.inbound p.ownLoc && p.inboundFull s then p.refuseReq s w 0x55
      else
        let hit : Bool := match u with | .descriptor _ => req.buffer | _ => false
        let p1 := if req.buffer then p.bufferError s (r.code s dj.2) u req.addr else p
        if hit then p1
        else
          let p2 := p1.enterStack e s w
          if (p2.stack s).waiting.any (fun x => x.user == u && x.addr == req.addr && x.entered == e.hall && x.op == op) then p2.memAnswer u req.addr 1 []
          else p2

/-- The stack or stash device begins the update of the stripe its oldest queued write belongs to; every queued write to that stripe is
performed with it, unless it must wait for an entry of the write-behind list (R295, R318). -/
def stripeUpdate (dev : Nat) (badBytes : List Nat) (e : Env) (p0 : Pkg) : Pkg :=
  let p := p0.markBad badBytes
  match (p.stack dev).stripes with
  | [] => p
  | w :: _ =>
    match p.regionAt w.addr with
    | none => p
    | some r => (p.settleStripe e none r dev (r.lineNo w.addr)).1

/-- Drop every listed byte of a local range: it reads as zero. -/
def Pkg.zeroRange (p : Pkg) (a n : Nat) : Pkg := { p with mem := p.mem.filter (fun c => !(a ≤ c.1 && c.1 < a + n)) }

/-- Physical lines that a region's extent holds (R297). -/
def Region.owns (r : Region) (line : Nat) : Bool :=
  r.devices.contains (codeDev line) && 1024 * r.slotBase ≤ codeSlot line && codeSlot line < 1024 * (r.slotBase + r.slots)

/-- The fill writes a region's lines under the keys that its controllers hold (R302, R613). -/
def Pkg.fillUnder (p : Pkg) (r : Region) : Pkg :=
  { p with mgt := { p.mgt with
      lineKeys := p.mgt.lineKeys.filter (fun x => !(r.base ≤ 256 * x.1 && 256 * x.1 < r.base + r.size))
      fillKeys := match p.keyNow r with | some k => assocPut p.mgt.fillKeys r.num k | none => assocDrop p.mgt.fillKeys r.num } }

/-- The zero fill of a region completes (R300). -/
def regionFillEnd (n : Nat) (_ : Env) (p : Pkg) : Pkg :=
  let r := p.region n
  if r.valid && !r.ready then
    let p1 := (p.zeroRange r.base r.size).fillUnder r
    ({ p1 with bad := p1.bad.filter (fun b => !r.owns (b / 256)) }).setFld (Reg.MEM_RG_ATTR n) Fld.MEM_RG_READY 1
  else p

/-- A 1 µs window ends: buckets fill, the priority use resets, and what waits is served in its classes (R307 to R309). -/
def bandwidthWindow (s : Nat) (e : Env) (p : Pkg) : Pkg :=
  let st := p.stack s
  let fill := (List.range 8).foldl (fun t c =>
    assocPut t c (min ((assoc? t c).getD 0 + p.regRate c * 100) (p.regDepth c * p.regRate c * 100))) st.tokens
  (p.setStack s { st with tokens := fill, prioUsed := 0, windowUsed := 0 }).serveWaiting e s

/-- The region of a waiting fabric request lets it wait no longer than its budget (R312). -/
def Pkg.hardWait (p : Pkg) (w : WaitingReq) : Bool :=
  (match w.user with | .fabric _ => true | _ => false) && (match p.regionAt w.addr with | some r => r.hardq | none => false)

/-- A waiting request has reached its partition's budget, for a HARDQ region, or passed it (R310, R312). -/
def Pkg.budgetDue (p : Pkg) (e : Env) (w : WaitingReq) : Bool :=
  let lim := w.entered + 1000 * p.regBudget w.part
  !w.quota && (if p.hardWait w then e.hall ≥ lim else e.hall > lim)

/-- The oldest request that has waited more than its partition's budget is marked with reason QUOTA, or refused for a HARDQ region (R310, R312). -/
def quotaBudgetExpiry (s : Nat) (e : Env) (p : Pkg) : Pkg :=
  let st := p.stack s
  match st.waiting.find? (p.budgetDue e) with
  | none => p
  | some w =>
    if p.hardWait w then (p.unwait s w).refuseReq s w 0x56
    else
      let w1 : WaitingReq := { w with quota := true, delay := if w.delay = 0 then 1 else w.delay }
      let p1 := (p.setStack s { st with waiting := st.waiting.map (fun x => if x = w then w1 else x) }).memCount s (Reg.MEM_CNT_QUOTA_DELAY s) 1
      match w.user with
      | .descriptor q => p1.delayRun q e.tag 1
      | _ => p1

/-- The calibration interval in ns: 250 ms, or the policy's units of 50 ms (R313, Table 16-14). -/
def Pkg.calInterval (p : Pkg) : Nat := 50000000 * p.fld Reg.MGT_CAL_POLICY Fld.MGT_CAL_INTERVAL

/-- In timed-reproducible mode a pseudo-channel retrains only in its own window of the interval (R472). -/
def Pkg.inCalWindow (p : Pkg) (e : Env) (pc : Nat) : Bool :=
  !p.on Reg.TIM_CTRL Fld.TIM_TRMODE || p.calInterval == 0 ||
    (let ph := e.hall % p.calInterval
     pc * p.calInterval / 64 ≤ ph && ph < (pc + 1) * p.calInterval / 64)

/-- A pseudo-channel's turn arrives: the controller stops issuing to it, or the turn waits while another retrains (R313, R315, R472). -/
def retrainingDue (s pc : Nat) (e : Env) (p : Pkg) : Pkg :=
  let st := p.stack s
  if p.chanRetired s pc || !p.inCalWindow e pc then p
  else if st.retrain.isSome then
    p.setStack s { st with due := if st.due.contains pc then st.due else st.due ++ [pc] }
  else
    let p1 := p.setStack s { st with retrain := some ⟨pc, 0, false, e.hall⟩, due := st.due.filter (fun c => c ≠ pc) }
    ((p1.setFld (Reg.MEM_STK_STATUS s) Fld.MEM_CAL_ACTIVE 1).setFld (Reg.MEM_STK_STATUS s) Fld.MEM_CAL_PC pc).markWaiting e s

/-- The thermal trigger in °C (R313, Table 16-14). -/
def Pkg.calTrigger (p : Pkg) : Nat := p.fld Reg.MGT_CAL_POLICY Fld.MGT_CAL_TRIG

/-- The stack's temperature is read; channels whose temperature has moved by the trigger since their last training become due (R288,
R313). A channel with no training temperature yet takes this one. -/
def stackTemperatureRead (s temp : Nat) (_ : Env) (p : Pkg) : Pkg :=
  let p1 := p.setFld (Reg.MEM_STK_STATUS s) Fld.MEM_TEMP temp
  let st := p1.stack s
  let dist (a b : Nat) : Nat := if a < b then b - a else a - b
  let moved := rangeFilter 64 (fun c => !st.due.contains c && !p1.chanRetired s c &&
    match assoc? st.trainTemp c with | some t => dist t temp ≥ p1.calTrigger | none => false)
  let temps := (List.range 64).foldl (fun m c => if (assoc? m c).isSome then m else assocPut m c temp) st.trainTemp
  let p2 := p1.setStack s { st with due := st.due ++ moved, trainTemp := temps }
  moved.foldl (fun q c => q.record (s / 3) (channelUnit s c) 0xd 2 (leBytes 4 s ++ leBytes 4 c)) p2

/-- The retraining pseudo-channel's issued operations complete, and retraining begins (R315, step 2). -/
def issuedOperationsDrained (s : Nat) (_ : Env) (p : Pkg) : Pkg :=
  let st := p.stack s
  match st.retrain with
  | some t => if t.step = 0 ∧ !t.suspended then p.setStack s { st with retrain := some { t with step := 1 } } else p
  | none => p

/-- Retraining completes: the new timing takes effect, the channel's training temperature is kept, waiting requests issue, and the list
begins to drain (R315, R317, R319). -/
def retrainingEnd (s : Nat) (e : Env) (p : Pkg) : Pkg :=
  let st := p.stack s
  match st.retrain with
  | some t =>
    if t.step = 1 ∧ !t.suspended then
      let next : Option Retrain := if st.behind.isEmpty then none else some { t with step := 2 }
      let waits := (st.waiting.filter (fun w => w.cal)).map (fun w => e.hall - w.entered)
      let p1 := p.setStack s { st with
        retrain := next, trainTemp := assocPut st.trainTemp t.pc (p.fld (Reg.MEM_STK_STATUS s) Fld.MEM_TEMP)
        trained := assocPut st.trained t.pc e.hall, retrains := st.retrains + 1, calMax := waits.foldl max st.calMax }
      let p2 := (p1.setFld (Reg.MEM_STK_STATUS s) Fld.MEM_CAL_ACTIVE 0).memCount s (Reg.MEM_CNT_RETRAIN s) 1
      p2.serveWaiting e s
    else p
  | none => p

/-- One line of the write-behind list drains; a list that empties ends the drain, or lets a suspended retraining resume (R317, R318). -/
def writeBehindDrain (s : Nat) (e : Env) (p : Pkg) : Pkg :=
  let st := p.stack s
  let draining : Bool := match st.retrain with | some t => t.step == 2 || t.suspended | none => (match st.behind with | b :: _ => !p.chanTraining s b.pc | [] => true)
  match st.behind with
  | [] => match st.retrain with
    | some t => if t.suspended then p.setStack s { st with retrain := some { t with suspended := false, step := 0 } } else p
    | none => p
  | _ :: rest =>
    if draining then
      let next : Option Retrain := match st.retrain with
        | some t => if rest.isEmpty then (if t.suspended then some { t with suspended := false, step := 0 } else none) else some t
        | none => none
      let p1 := (p.setStack s { st with behind := rest, retrain := next }).setFld (Reg.MEM_STK_STATUS s) Fld.MEM_WB_COUNT rest.length
      p1.serveWaiting e s
    else p

/-- The scrub reads one line of a patch-protected region and handles a parity error (R325). -/
def scrub (dev line : Nat) (badBytes : List Nat) (_ : Env) (p0 : Pkg) : Pkg :=
  let p := p0.markBad badBytes
  let ch := codeChan line
  match ((List.range 64).map p.region).find? (fun r => r.valid && r.ready && r.patch && r.owns line && codeDev line == dev) with
  | none => p
  | some r =>
    let j := (codeSlot line - 1024 * r.slotBase) * r.channels + ch
    (p.checkLine r dev j (r.addrOf dev j)).1

/-- The stack's error-check-and-scrub status is read and logged (R288); a non-zero one is an on-die report (Table 08-10). -/
def ecsStatusRead (s status : Nat) (_ : Env) (p : Pkg) : Pkg :=
  let p1 := if status = 0 then p else p.setFld (Reg.MEM_ERR_INFO s) Fld.MEM_ERR_KIND 4
  p1.record (s / 3) (channelUnit s 0) 1 4 (leBytes 8 (p1.regNat (Reg.MEM_ERR_INFO s)) ++ leBytes 8 status)

/-- The counters of a stack (Table 08-11). -/
def memCounters (s : Nat) : List Nat := (List.range 9).map (fun i => Reg.MEM_CNT_RD_LINES s + 8 * i)

end Sys2Proof.Machine
end

