-- ==== Sys2Proof/Machine/Start.lean ====
section
/-! DEFINITION. How a descriptor starts (spec 06_descriptor_streams.md, R209, R217 to R226, R638): the checks before a start in their
order, the refusals that follow them, and the journal entry of a descriptor that runs (R490, R493). -/

namespace Sys2Proof.Machine

/-- What a check says: nothing, or the status and reason that end the descriptor. -/
abbrev Verdict := Option (Nat × Nat)

/-- The first check that fails decides (R638). -/
def firstFail : List Verdict → Verdict
  | [] => none
  | some x :: _ => some x
  | none :: vs => firstFail vs

/-- A breach ends a descriptor with 0x3F ABORTED and a cause. -/
def abortIf (b : Bool) (cause : Nat) : Verdict := if b then some (0x3f, cause) else none

/-- The pairings of Table 10-5. -/
def atomicLegal (aop ty : Nat) : Bool :=
  ty ≤ 5 &&
  match aop with
  | 0 => ty == 0 || ty == 1 || ty == 4 || ty == 5
  | 3 | 4 => true
  | 1 | 2 | 5 | 6 | 7 => ty ≤ 1
  | _ => false

/-- Reserved bits and codes of the operation word (R209; Tables 03-3, 07-2, 10-4, 11-5, 15-2; R193). -/
def opBad (d : List Byte) : Bool :=
  let o := dOp d
  match dKind d with
  | 0 => o >>> 16 != 0 || bitsOf o 7 5 != 0 || o % 8 > 4 || (0x40 ≤ bitsOf o 15 8 && bitsOf o 15 8 < 0xff)
  | 1 => o >>> 16 != 0 || bitsOf o 7 0 != 0 || bitsOf o 15 8 ≥ 0x40
  | 2 =>
    -- the restart length has a cause of its own (Table 07-7)
    bitsOf o 31 28 != 0 || bitsOf o 27 24 > 5 || bitsOf o 23 20 > 5 || bitsOf o 19 18 != 0 || bitsOf o 7 0 != 0
  | 3 => o >>> 20 != 0 || bitsOf o 19 18 > 1 || bitsOf o 15 12 > 5 || bitsOf o 11 8 > 7 || bitsOf o 7 4 != 0 || o % 16 > 1 ||
      (o % 16 == 1 && !atomicLegal (bitsOf o 11 8) (bitsOf o 15 12))
  | 4 => o >>> 20 != 0 || bitsOf o 19 16 > 4 || o.testBit 9 || bitsOf o 6 4 > 5 || o % 16 > 9
  -- a reserved kind or ports code has a cause of its own (Table 15-9)
  | 5 => o >>> 18 != 0 || bitsOf o 11 9 != 0 || bitsOf o 7 4 != 0
  | _ => false

/-- Step 1 of R638: the descriptor's own bits and codes. -/
def ownBad (d : List Byte) : Bool := headerBad d || opBad d

/-- The tensor descriptor of handle h, as a start examines it: its copy and its fields (R217, R218). -/
def Pkg.examine (p : Pkg) (c : Nat) (d : List Byte) (h : Nat) : List Byte × Tensor :=
  let b := p.tableEntry c (dHandle d h)
  (b, parseTensor (dHandle d h) b)

/-- Step 2 of R638 for the handles in ascending position; an entry that lies in a hole cannot be read (R40). -/
def Pkg.handleVerdict (p : Pkg) (c : Nat) (d : List Byte) (anvil : Bool) (readsQuench : Nat → Tensor → Bool) (hs : List Nat) : Verdict :=
  firstFail (hs.map (fun h =>
    let x := p.examine c d h
    let hole := !x.1.isEmpty && !p.noHole (p.entryAddr c (dHandle d h)) 64
    let cause := if hole then 0x05 else p.tensorCause x.1 x.2 anvil (readsQuench h x.2)
    abortIf (cause != 0) cause))

/-- Steps 4 to 6 of R638 over the examined handles. -/
def Pkg.nestVerdicts (p : Pkg) (c : Nat) (d : List Byte) (ts : List (Nat × Tensor)) : List Verdict :=
  [abortIf (nestBad d ts) 0x06,
   if ts.any (fun ht => p.foreignRegion c ht.2) then some (0x12, 0) else none,
   abortIf (ts.any (fun ht => p.reachBad d ht.1 ht.2)) 0x05]

/-- An operand of an HBM region in a context without HBM bandwidth (R312). -/
def Pkg.bandwidthVerdict (p : Pkg) (c : Nat) (ts : List (Nat × Tensor)) : Verdict :=
  if p.regRate c == 0 && !p.regBestEffort c && ts.any (fun ht => !(p.region ht.2.region).stash) then some (0x11, 0) else none

/-- The footprint exceeds the whole drop cloth (R493). -/
def Pkg.clothVerdict (p : Pkg) (c : Nat) (d : List Byte) : Verdict := if p.clothLines c d > p.clothSize c then some (0x10, 0) else none

/-- A die of the partition is out of service (R486). -/
def Pkg.lostVerdict (p : Pkg) (c : Nat) : Verdict := if (p.partDies c).any p.dieLost then some (0x37, 0) else none

/-- The journal entry of a starting descriptor (R490): its bytes and copies, its start beat, an empty progress record. -/
def Pkg.newRun (p : Pkg) (e : Env) (q : Nat) (d : List Byte) (params : List Byte) : Run :=
  let c := p.queueCtx q
  { queue := q, seq := p.head q, ctx := c, kind := dKind d, engine := engineOf d, desc := d,
    tds := (List.range 4).map (fun h => p.tableEntry c (dHandle d h)), params := params, extraTds := [], chain := 0, startBeat := e.tag,
    jclass := p.journalClass c d, image := none, statuses := [], reason := 0, delay := 0, undef := false, late := false, qcause := 0,
    flags := 0, reheated := 0, kept := 0, replays := 0, kindInfo := 0, detail := 0, incs := 0, appended := false, tiles := [],
    shares := [], stage := [], reserved := p.clothLines c d, preimages := [], rewritten := [], written := [], attempts := 1,
    replayOn := none, stopped := false, finished := false, step := 0, endBeat := e.tag }

/-- Array, coat, Anvil and dispatcher work runs on clocks that a supply episode stretches (R583, R585). -/
def Run.stretches (r : Run) : Bool := r.engine ≤ 4 || r.engine == 8

/-- A unit that a run uses is throttled (R589, R591): an array die of its partition, or its Anvil. -/
def Pkg.throttled (p : Pkg) (r : Run) : Bool :=
  let level (u : Nat) : Nat := (assoc? p.pwr.levels u).getD 0
  if r.engine = 0 ∨ r.engine = 8 then (p.partDies r.ctx).any (fun d => level d != 0)
  else 1 ≤ r.engine && r.engine ≤ 4 && level (31 + r.engine) != 0

/-- A descriptor that runs on a stretched or throttled unit is delayed (R585, R591). -/
def Pkg.slowed (p : Pkg) (tag : Nat) (r : Run) : Run :=
  let r1 := if p.on Reg.PWR_STATUS Fld.PWR_STRETCHED && r.stretches then r.delayBy tag 3 else r
  if p.throttled r then r1.delayBy tag 4 else r1

/-- The dispatcher writes bytes of a context's journal region, an entry or lines of its drop cloth (R490, R492). What stands there is in Run; the form
and the place that the region gives it are open, so that free bytes stand in the region (DESIGN CHOICE, log 101). -/
def Pkg.journalBytes (p : Pkg) (c off n : Nat) : Pkg :=
  if p.on (Reg.RAS_CTX_CFG c) Fld.RAS_JR_VALID then
    p.freeBytes ((p.region (p.fld (Reg.RAS_CTX_CFG c) Fld.RAS_JR_REGION)).base + off) n
  else p

/-- Enter a started descriptor: its journal entry, its run, the engine's last queue, the end of a stall (R207, R235, R490). -/
def Pkg.enterRun (p : Pkg) (r : Run) : Pkg :=
  let p1 := (p.journalBytes r.ctx (1024 * (p.journalUsed r.ctx % 16)) 1024).addRun (p.slowed r.startBeat r)
  let cs := p1.ctxSt r.ctx
  ({ p1 with dsp := { p1.dsp with lastOn := assocPut p1.dsp.lastOn (16 * r.ctx + r.engine) r.queue } }).setCtxSt r.ctx
    { cs with blockedSince := none, stallNoticed := false }

/-- The head of a queue that the dispatcher starts next on its engine (R207, R471), with its context. -/
def Pkg.startable (p : Pkg) (q : Nat) : Option (List Byte) :=
  match p.headDesc q with
  | some d => if p.choice (p.queueCtx q) (engineOf d) = some q then some d else none
  | none => none

/-- What the dispatcher reads of a descriptor's tensor-table entries at its start (R218). -/
def Pkg.entryReads (p : Pkg) (c : Nat) (d : List Byte) (hs : List Nat) : List (Nat × Nat) :=
  (hs.filter (fun h => !(p.tableEntry c (dHandle d h)).isEmpty)).map (fun h => (p.entryAddr c (dHandle d h), 64))

/-- What it reads of its parameter block. -/
def Pkg.paramReads (p : Pkg) (c : Nat) (d : List Byte) (n : Nat) : List (Nat × Nat) := if dHasParam d && n != 0 then [(p.paramAddr c d, n)] else []

/-- The dispatcher reads ranges of memory before a start: the parity of each line is checked (R321). -/
def Pkg.readAhead (p : Pkg) (e : Env) (c : Nat) (xs : List (Nat × Nat)) : Pkg × LineOutcome :=
  xs.foldl (fun (st : Pkg × LineOutcome) x => let y := st.1.touchHeld e (.dispatcher c) x.1 x.2; (y.1, st.2.join y.2)) (p, .ok)

/-- Start the head of a queue: a passed deadline ends it first (R226), then its own bits and codes (R209); `body` makes the other checks and
runs it. `mine` says that the command is the one for this descriptor's kind and operation; a descriptor whose kind or operation code is
reserved is ended by any start. `reads` are the ranges that the dispatcher reads for it: one that cannot be rebuilt ends it with cause 0x0A, and what
else reading them met is told to the descriptor (R319, R321, R322). -/
def Pkg.start (p : Pkg) (e : Env) (q : Nat) (mine : List Byte → Bool) (reads : List Byte → List (Nat × Nat)) (body : Pkg → List Byte → Pkg) : Pkg :=
  match p.startable q with
  | none => p
  | some d =>
    if deadlinePassed e.tagHall d then p.completeHead e q d 0x21 0
    else if ownBad d then p.completeHead e q d 0x3f 0x01
    else if mine d then
      let t := p.readAhead e (p.queueCtx q) (reads d)
      match t.2 with
      | .ok => body t.1 d
      | .failed => t.1.completeHead e q d 0x3f 0x0a
      | o => (body t.1 d).updRun q (fun r => r.told e.tag o)
    else p

/-- End a starting descriptor by a verdict, or run it. -/
def Pkg.orRun (p : Pkg) (e : Env) (q : Nat) (d : List Byte) (v : Verdict) (k : Pkg) : Pkg :=
  match v with
  | some x => p.completeHead e q d x.1 x.2
  | none => k

/-! ### Array and coat descriptors -/

/-- Operand classes of the array (Table 03-1): 1 the 16-class, 4, 2, and 0 the split formats; none for the others. -/
def arrayClass : Fmt → Option Nat
  | .f16 | .bf16 | .e5m2 | .e4m3 | .int8 | .int16 => some 1
  | .q4 | .int4 => some 4
  | .t2 => some 2
  | .f32 | .f64 => some 0
  | _ => none

/-- Handles that an array operation examines (Table 03-2). -/
def arrayHandles (op : Nat) : List Nat := if op.testBit 3 then [0, 1, 2, 3] else [0, 1, 2]

/-- Array descriptors read the quench word of edge-quenched operands, C-in among them, and of handle 2 (R127). -/
def arrayReadsQuench (h : Nat) (t : Tensor) : Bool := h == 2 || t.edgeQuenched

/-- The sizes of dimensions 2 to 4 are 1. -/
def Tensor.flat (t : Tensor) : Bool := t.size 2 == 1 && t.size 3 == 1 && t.size 4 == 1

/-- Operand shapes and classes of an array operation (R86, R88, R90). -/
def arrayShapeBad (op : Nat) (ts : List (Nat × Tensor)) : Bool :=
  match assoc? ts 0, assoc? ts 1, assoc? ts 2 with
  | some a, some b, some c =>
    let pm := op % 8
    ts.any (fun ht => !ht.2.flat) || a.size 0 != b.size 0 || c.size 0 != b.size 1 || c.size 1 != a.size 1 ||
    (match assoc? ts 3 with | some z => z.size 0 != c.size 0 || z.size 1 != c.size 1 | none => false) ||
    a.size 0 > 2 ^ 24 ||
    (arrayClass a.view).isNone || arrayClass a.view != arrayClass b.view ||
    (pm == 0 && arrayClass a.view == some 0) ||
    (pm == 1 && !(a.view == .f32 && b.view == .f32)) ||
    (pm ≥ 2 && !(a.view == .f64 && b.view == .f64))
  | _, _, _ => true

/-- A program image is resident on every die of the partition in one kind (R90, R188, R192). -/
def Pkg.imageReady (p : Pkg) (c slot : Nat) (standalone : Bool) : Bool :=
  (p.partDies c).all (fun d => match p.coatImage d slot with | some im => im.standalone == standalone | none => false)

/-- A program stores to a Q4 or T2 handle through a predicate (R192). -/
def predicatedQuench (im : CoatImage) (ts : List (Nat × Tensor)) : Bool :=
  ts.any (fun ht => (ht.1 == 2 || ht.1 == 3) && ht.2.storeQuenched && im.storesPredicated ht.1)

/-- Pair handles with their tensors. -/
def Pkg.tensors (p : Pkg) (c : Nat) (d : List Byte) (hs : List Nat) : List (Nat × Tensor) := hs.map (fun h => (h, p.tensorOf c d h))

/-- Tensors of the handles that an array operation examines. -/
def Pkg.arrayTensors (p : Pkg) (c : Nat) (d : List Byte) : List (Nat × Tensor) := p.tensors c d (arrayHandles (dOp d))

/-- Step 2 of R638 for an array operation. -/
def Pkg.arrayHandleVerdict (p : Pkg) (c : Nat) (d : List Byte) : Verdict := p.handleVerdict c d false arrayReadsQuench (arrayHandles (dOp d))

/-- Step 3 of R638 for an array operation: shapes, classes and its drain program (R86 to R90, R192). -/
def Pkg.arrayKindVerdict (p : Pkg) (c : Nat) (d : List Byte) : Verdict :=
  let ts := p.arrayTensors c d
  let slot := bitsOf (dOp d) 15 8
  abortIf (arrayShapeBad (dOp d) ts || (slot != 0xff && !p.imageReady c slot false) ||
    (slot != 0xff && (match p.imageOf c d with | some im => predicatedQuench im ts | none => false))) 0x04

/-- The refusals at start that follow the checks (R312, R486, R493). -/
def Pkg.refusals (p : Pkg) (c : Nat) (d : List Byte) (ts : List (Nat × Tensor)) : List Verdict :=
  [p.bandwidthVerdict c ts, p.clothVerdict c d, p.lostVerdict c]

/-- The checks of an array operation before it starts, in the order of R638, then the refusals that follow. -/
def Pkg.arrayVerdict (p : Pkg) (c : Nat) (d : List Byte) : Verdict :=
  let ts := p.arrayTensors c d
  firstFail ([p.arrayHandleVerdict c d, p.arrayKindVerdict c d] ++ p.nestVerdicts c d ts ++ p.refusals c d ts)

/-- Handles that a coat descriptor examines: those its program reads and those it stores to (R193). -/
def Pkg.coatHandles (p : Pkg) (c : Nat) (d : List Byte) : List Nat :=
  match p.imageOf c d with
  | some im => [0, 1].filter (fun h => im.readsInput h) ++ [2, 3].filter (fun h => im.storesTo h)
  | none => []

/-- The handle whose dimensions cut a coat descriptor's tiles: handle 2 (Table 05-9), or handle 3 where the program stores to that one alone,
since handle 2 is then not examined (R193; log entry 93). -/
def tileHandle (im : Option CoatImage) : Nat := match im with | some i => if i.storesTo 3 && !i.storesTo 2 then 3 else 2 | none => 2

/-- A coat handle's dimensions break Table 05-9. -/
def coatDimsBad (o : Tensor) (ts : List (Nat × Tensor)) : Bool :=
  ts.any (fun ht => (List.range 5).any (fun k => ht.2.size k != o.size k && !(ht.1 < 2 && ht.2.size k == 1)))

/-- The checks of a coat descriptor before it starts (R192, R193, R638), then the refusals that follow. -/
def Pkg.coatVerdict (p : Pkg) (c : Nat) (d : List Byte) : Verdict :=
  let hs := p.coatHandles c d
  let ts := p.tensors c d hs
  let slot := bitsOf (dOp d) 15 8
  firstFail ([p.handleVerdict c d false (fun h t => h ≥ 2 && t.storeQuenched) hs,
    abortIf (!p.imageReady c slot true || coatDimsBad (p.tensorOf c d (tileHandle (p.imageOf c d))) ts ||
      (match p.imageOf c d with | some im => predicatedQuench im ts | none => true)) 0x04] ++
    p.nestVerdicts c d ts ++ p.refusals c d ts)

/-- The budget share of each die rank (R142): the smallest budget among the quenched tensors whose REHEAT is 1. -/
def budgetShares (d : Nat) (qs : List Tensor) : List Nat :=
  match (qs.filter Tensor.reheat).map Tensor.budget with
  | [] => List.replicate d 0
  | b :: bs => let m := bs.foldl min b; (List.range d).map (fun j => m / d + (if j < m % d then 1 else 0))

/-- The quenched tensors of an array descriptor (R124). -/
def quenchedTensors (ts : List (Nat × Tensor)) : List Tensor :=
  (ts.filter (fun ht => (ht.1 < 2 && ht.2.edgeQuenched) || (ht.1 == 2 && ht.2.storeQuenched))).map (·.2)

/-- Cells that an array's skew keeps busy before the last of them takes part, in array cycles (R84, R113). -/
abbrev skewCycles : Nat := 1022

/-- An array operation begins on the dies that take part: a K-split is counted, and so is the skew (R84, R108, R113, Table 03-11). -/
def Pkg.countStart (p : Pkg) (dies : List Nat) (tiles s : Nat) : Pkg :=
  (dies.take (tiles * s)).foldl (fun q die =>
    let q1 := if s > 1 then q.arrCount die (Reg.ARR_CNT_KSPLIT die) 1 else q
    q1.arrCount die (Reg.ARR_CNT_BUSY die) skewCycles) p

/-- The dispatcher starts a ready array descriptor and spreads it over the partition's dies (R107, R108, R142, R191). -/
def startArray (q : Nat) (e : Env) (p : Pkg) : Pkg :=
  p.start e q (fun d => dKind d == 0) (fun d => p.entryReads (p.queueCtx q) d (arrayHandles (dOp d))) (fun p d =>
    let c := p.queueCtx q
    p.orRun e q d (p.arrayVerdict c d)
      (let ts := p.arrayTensors c d
       let dies := p.partDies c
       let r := p.newRun e q d []
       let a := (assoc? ts 0).getD (parseTensor 0 [])
       let b := (assoc? ts 1).getD (parseTensor 0 [])
       let tiles := ceilDiv (a.size 1) 512 * ceilDiv (b.size 1) 512
       let s := ksplitFactor (a.size 0) tiles dies.length ((dOp d).testBit 4)
       let p1 := p.enterRun { r with image := p.imageOf c d, shares := budgetShares dies.length (quenchedTensors ts) }
       p1.countStart dies tiles s))

/-- The dispatcher starts a ready coat descriptor (R191, R193). -/
def startCoat (q : Nat) (e : Env) (p : Pkg) : Pkg :=
  p.start e q (fun d => dKind d == 1) (fun d => p.entryReads (p.queueCtx q) d (p.coatHandles (p.queueCtx q) d)) (fun p d =>
    let c := p.queueCtx q
    p.orRun e q d (p.coatVerdict c d)
      (p.enterRun { p.newRun e q d [] with image := p.imageOf c d, shares := List.replicate (p.partDies c).length 0 }))

end Sys2Proof.Machine
end

