-- ==== Sys2Proof/Machine/Tiles.lean ====
section
/-! DEFINITION. The work on tiles (spec 03_matrix_array.md, R107 to R121; 04_quench_and_reheat.md, R124 to R156; 05_coat_engine.md, R161 to
R196): a tile's panels and passes, its drain, its commit, reheat decision, replay and shadow pass, and the shared end of a tile attempt. -/

namespace Sys2Proof.Machine

/-! ### The operation of a running descriptor -/

/-- The copied tensor of handle h of a run (R218). -/
def Run.tensor (r : Run) (h : Nat) : Tensor := parseTensor (dHandle r.desc h) (r.tds.getD h [])

/-- Origin of handle h in iteration n. -/
def Run.origin (r : Run) (h n : Nat) : List Int := handleOrigin r.desc h n

/-- What an array descriptor computes, resolved once: its operands, sizes, tiles and K-split factor. -/
structure ArrayJob where
  a : Tensor
  b : Tensor
  c : Tensor
  z : Option Tensor
  /-- activation code and bias of GEMM_EPILOGUE, in the drain program's place (Table 06-9) -/
  epi : Option (Nat × Tensor)
  pmode : Nat
  k : Nat
  tr : Nat
  tc : Nat
  s : Nat
  dies : List Nat
  deriving DecidableEq, Repr

/-- The `ARR_OP` word of a run: its descriptor's, or the one that a GEMM_EPILOGUE takes as its parameter (Table 06-9). -/
def Run.arrOp (r : Run) : Nat := if dKind r.desc = 6 then leAt r.params 0 4 else dOp r.desc

/-- Resolve an array run over the dies of its partition (R107, R108). Handle 3 of a GEMM_EPILOGUE is its bias, whatever `ARR_OP_ACC` is (log
entry 95). -/
def Pkg.arrayJob (p : Pkg) (r : Run) : ArrayJob :=
  let op := r.arrOp
  let call : Bool := dKind r.desc == 6
  let a := r.tensor 0
  let b := r.tensor 1
  let tr := ceilDiv (a.size 1) 512
  let tc := ceilDiv (b.size 1) 512
  let dies := p.partDies r.ctx
  { a := a, b := b, c := r.tensor 2, z := if op.testBit 3 && !call then some (r.tensor 3) else none,
    epi := if call then some (leAt r.params 4 4, r.tensor 3) else none, pmode := op % 8, k := a.size 0,
    tr := tr, tc := tc, s := ksplitFactor (a.size 0) (tr * tc) dies.length (op.testBit 4), dies := dies }

/-- Tiles of one iteration T (R107). -/
def ArrayJob.tiles (j : ArrayJob) : Nat := j.tr * j.tc

/-- Both operands are integer formats without block scales: the anchor is fixed (R96). -/
def ArrayJob.fixed (j : ArrayJob) : Bool :=
  let plain (t : Tensor) : Bool := t.view.isInt && !(t.bscale && t.view == t.stored)
  j.pmode == 0 && plain j.a && plain j.b

/-- The die that holds a part of tile t (R107, R108). -/
def ArrayJob.dieOf (j : ArrayJob) (t part : Nat) : Nat :=
  j.dies.getD (if j.s > 1 then t % j.tiles + j.tiles * part else t % j.tiles % j.dies.length) 0

/-- Rank of the home die of tile t'. -/
def ArrayJob.rankOf (j : ArrayJob) (t : Nat) : Nat := if j.s > 1 then t % j.tiles else t % j.tiles % j.dies.length

/-- A die works on the descriptor; the other ranks are idle (R108). -/
def ArrayJob.works (j : ArrayJob) (die : Nat) : Bool := (j.dies.take (j.tiles * j.s)).contains die

/-- A die holds a part of tile t'. -/
def ArrayJob.holds (j : ArrayJob) (die t : Nat) : Bool := (List.range j.s).any (fun u => j.dieOf t u == die)

/-- K-steps that a part's die accumulates for a tile, with the C term (R93, R108). -/
def ArrayJob.kPrime (j : ArrayJob) (part : Nat) : Nat := (ksplitPart j.k j.s part).2 + (if j.z.isSome then 1 else 0)

/-- Rows, columns and their first indices of tile t' (R107). -/
structure TilePlace where
  iter : Nat
  row0 : Nat
  col0 : Nat
  rows : Nat
  cols : Nat
  deriving DecidableEq, Repr

/-- Place of tile t' (R107, R225). -/
def ArrayJob.place (j : ArrayJob) (t : Nat) : TilePlace :=
  let u := t % j.tiles
  let r0 := 512 * (u / j.tc)
  let c0 := 512 * (u % j.tc)
  ⟨t / j.tiles, r0, c0, min 512 (j.a.size 1 - r0), min 512 (j.b.size 1 - c0)⟩

/-- A tile's record, fresh when nothing of it was done. -/
def Run.tile (r : Run) (t : Nat) : TileSt :=
  (r.tiles.find? (fun x => x.t = t)).getD ⟨t, [], 0, false, false, false, 0, 0, 0, 0, none, .fin false 1 1, false, 0⟩

/-- Put a tile's record back. -/
def Run.setTile (r : Run) (x : TileSt) : Run :=
  { r with tiles := if r.tiles.any (fun y => y.t = x.t) then r.tiles.map (fun y => if y.t = x.t then x else y) else r.tiles ++ [x] }

/-- Committed tiles. -/
def Run.committed (r : Run) : Nat := (r.tiles.filter (fun x => x.committed)).length

/-- The staging set of a die, fresh when it has none (R155). -/
def Run.stageOf (r : Run) (die : Nat) : QuenchStage := (r.stage.find? (fun s => s.die = die)).getD ⟨die, 0, 0, 0, 0, 0, []⟩

/-- Put a staging set back. -/
def Run.setStage (r : Run) (s : QuenchStage) : Run := { r with stage := r.stage.filter (fun x => x.die ≠ s.die) ++ [s] }

/-! ### Panels and passes -/

/-- What one pass over a range of K gives before its drain: the accumulation, the flags of the edges, what quench counted, whether an edge
quench put it over threshold, and whether its panels hold a spread event (R104). -/
structure PassOut where
  accum : Accum
  flags : Nat
  sats : Nat
  flushes : Nat
  overT : Bool
  spread : Bool
  deriving DecidableEq, Repr

/-- Sum of counts over panel rows. -/
def panelSum (f : PanelRow → Nat) (rs : List PanelRow) : Nat := rs.foldl (fun n r => n + f r) 0

/-- OR of flags over panel rows. -/
def panelFlags (rs : List PanelRow) : Nat := rs.foldl (fun n r => n ||| r.flags) 0

/-- The exact values of a row of C read through handle 3, its view and scales applied, with the flags of its conversions (R91, R95, R126, R219).
What quench counts in C-in is compared with no threshold and staged for no counter, and its quench stays narrow in every pass (log entry 88). -/
def cRow (z : Tensor) (s : Num) (src : Nat → Byte) (org : List Int) (k0 kn i : Nat) : PanelRow :=
  let x := z.panelRow s src org .narrow k0 kn i
  if z.view == z.stored then { x with vals := (List.range kn).map (fun k => z.elem s src org (rel2 (k0 + k) i)) }
  else if z.edgeQuenched then { x with vals := x.vals.map (fun v => (v.mul s).1), sats := 0, flushes := 0 }
  else x

/-- The rows of A and the columns of B of a tile over K-steps [k0, k0 + kn). -/
def ArrayJob.panels (j : ArrayJob) (pass : Pass) (sa sb : Num) (src : Nat → Byte) (oa ob : List Int) (pl : TilePlace) (k0 kn : Nat) :
    List PanelRow × List PanelRow :=
  ((List.range pl.rows).map (fun i => j.a.panelRow sa src oa pass k0 kn (pl.row0 + i)),
   (List.range pl.cols).map (fun i => j.b.panelRow sb src ob pass k0 kn (pl.col0 + i)))

/-- The tile's panels, over the whole K, hold a spread event of D6 or D6P (R104). -/
def ArrayJob.spreads (j : ArrayJob) (sa sb : Num) (src : Nat → Byte) (oa ob : List Int) (pl : TilePlace) : Bool :=
  (j.pmode == 2 || j.pmode == 4) &&
  (let x := j.panels .narrow sa sb src oa ob pl 0 j.k
   spreadPanels (x.1.map (·.vals)) (x.2.map (·.vals)))

/-- One pass of a tile over K-steps [k0, k0 + kn) (R93 to R105, R139, R149). `withC` says that this part holds the C term, and `spread` that the
tile is counted under R104, so that D6P computes all of it in D10 (R105). -/
def ArrayJob.pass (j : ArrayJob) (pass : Pass) (sa sb sz : Num) (src : Nat → Byte) (oa ob oz : List Int) (pl : TilePlace) (k0 kn : Nat)
    (withC spread : Bool) : PassOut :=
  let rows := j.panels pass sa sb src oa ob pl k0 kn
  let ar := rows.1
  let br := rows.2
  let av := ar.map (·.vals)
  let bv := br.map (·.vals)
  let zr := match j.z with
    | some z => if withC then (List.range pl.rows).map (fun i => cRow z sz src oz pl.col0 pl.cols (pl.row0 + i)) else []
    | none => []
  let cz := if j.z.isSome && withC then some (zr.map (·.vals)) else none
  let kPrime := kn + (if j.z.isSome then 1 else 0)
  let acc := match j.pmode with
    | 0 => accumDirect av bv cz kPrime j.fixed
    | 1 => accumSplit 2 av bv cz kPrime
    | 2 => accumSplit 3 av bv cz kPrime
    | 3 => accumSplit 4 av bv cz kPrime
    | _ => accumSplit (if spread then 4 else 3) av bv cz kPrime
  let hot (t : Tensor) (rs : List PanelRow) (n : Nat) : Bool :=
    t.edgeQuenched && overThreshold t.reheat t.theta (n * kn) (panelSum (·.sats) rs) (panelSum (·.flushes) rs)
  { accum := acc, flags := panelFlags ar ||| panelFlags br ||| panelFlags zr, sats := panelSum (·.sats) ar + panelSum (·.sats) br,
    flushes := panelSum (·.flushes) ar + panelSum (·.flushes) br, overT := hot j.a ar pl.rows || hot j.b br pl.cols, spread := spread }

/-- The tensor-scale product of R92: scales of operands whose values left them to the drain in this pass. -/
def ArrayJob.factor (j : ArrayJob) (pass : Pass) (sa sb : Num) : Num :=
  let f (t : Tensor) (s : Num) : Num :=
    if t.view == t.stored || (t.edgeQuenched && pass != .shadow) then s else .fin false 1 1
  ((f j.a sa).mul (f j.b sb)).1

/-- Read the lines of an operand's rows through the memory system (R289, R321, R322). -/
def Pkg.touchRows (p : Pkg) (e : Env) (u : MemUser) (t : Tensor) (org : List Int) (k0 kn i0 n : Nat) : Pkg × LineOutcome :=
  (List.range n).foldl (fun st i =>
    let a0 := (t.elemAddr org (rel2 k0 (i0 + i))).1.toNat
    let a1 := (t.elemAddr org (rel2 (k0 + kn - 1) (i0 + i))).1.toNat + max 1 (t.stored.bits / 8)
    let x := st.1.touchRange e u a0 (a1 - a0)
    let y := if t.bscale then
        (let e0 := t.e8Addr org (rel2 k0 (i0 + i))
         x.1.touchRange e u e0 (t.e8Addr org (rel2 (k0 + kn - 1) (i0 + i)) + 1 - e0))
      else (x.1, .ok)
    (y.1, (st.2.join x.2).join y.2)) (p, .ok)

/-- Read what one pass of a tile reads. -/
def Pkg.touchPass (p : Pkg) (e : Env) (u : MemUser) (j : ArrayJob) (oa ob oz : List Int) (pl : TilePlace) (k0 kn : Nat) (withC : Bool) : Pkg × LineOutcome :=
  let x := p.touchRows e u j.a oa k0 kn pl.row0 pl.rows
  let y := x.1.touchRows e u j.b ob k0 kn pl.col0 pl.cols
  let w := match j.z with
    | some z => if withC then y.1.touchRows e u z oz pl.col0 pl.cols pl.row0 pl.rows else (y.1, .ok)
    | none => (y.1, .ok)
  let v := match j.epi with
    | some b =>
      let one (k : Nat) : Bool := b.2.size k == 1
      w.1.touchRows e u b.2 oz (if one 0 then 0 else pl.col0) (if one 0 then 1 else pl.cols) (if one 1 then 0 else pl.row0) (if one 1 then 1 else pl.rows)
    | none => (w.1, .ok)
  (v.1, ((x.2.join y.2).join w.2).join v.2)

/-- A read of the run met an uncorrectable error (R322), a rebuilt line (R321) or a wait for calibration (R319). -/
def Run.readOutcome (r : Run) (e : Env) (o : LineOutcome) : Run :=
  match o with
  | .failed => { r.abort e.tag 0x0a with undef := true, stopped := true, finished := true, endBeat := e.tag }
  | o => r.told e.tag o

/-- Compute one pass of tile t' over a range of K. -/
def Pkg.passOf (p : Pkg) (r : Run) (j : ArrayJob) (pass : Pass) (t k0 kn : Nat) (withC : Bool) : PassOut :=
  let pl := j.place t
  let src := p.inputByte r (pass != .narrow)
  let sa := p.tensorScale j.a
  let sb := p.tensorScale j.b
  let oa := r.origin 0 pl.iter
  let ob := r.origin 1 pl.iter
  j.pass pass sa sb (match j.z with | some z => p.tensorScale z | none => .fin false 1 1) src oa ob (r.origin 3 pl.iter) pl k0 kn withC
    (pass == .narrow && j.spreads sa sb src oa ob pl)

/-- The drain's view of an accumulation: bank 0 and bank 1 of every cell, with the exponents of their lowest bits (R102, R175). -/
def tileView (acc : Accum) (rows cols : Nat) (factor : Num) : TileView :=
  let a := acc.anchor.getD 0
  { rows := rows, cols := cols, unit0 := a - 70, unit1 := a - 140 + (acc.g : Int), factor := factor, level := 0, inputs := [],
    banks := acc.cells.map (fun row => row.map (fun c =>
      if acc.split then (⟨c.hi, c.tag, 0⟩, ⟨c.w - c.hi * (2 ^ (70 - acc.g) : Nat), c.tag, 1⟩, c.nv)
      else (⟨c.w, c.tag, 0⟩, ⟨0, 0, 1⟩, c.nv))) }

/-! ### Stores -/

/-- What the stores to one handle of a tile give: bytes to write, flags of ordinary stores and of store quench, its counts, and how many
free values it used. -/
structure StoreOut where
  bytes : List (Nat × Byte)
  flags : Nat
  qflags : Nat
  sats : Nat
  flushes : Nat
  count : Nat
  free : Nat
  deriving DecidableEq, Repr

/-- Nothing stored. -/
def StoreOut.none : StoreOut := ⟨[], 0, 0, 0, 0, 0, 0⟩

/-- Join the stores of two rows. -/
def StoreOut.join (a b : StoreOut) : StoreOut :=
  ⟨a.bytes ++ b.bytes, a.flags ||| b.flags, a.qflags ||| b.qflags, a.sats + b.sats, a.flushes + b.flushes, a.count + b.count, a.free + b.free⟩

/-- Store one row of a tile: values by lane, `none` where nothing is stored. `rel` gives an element's index from its index along dimension
0 (R63, R129 to R132, R182, R183). An element of a NaN block of an integer format has a code that no rule gives. -/
def Tensor.storeRow (t : Tensor) (s : Num) (old : Nat → Byte) (org : List Int) (q0 : Nat) (rel : Nat → List Int) (free : Nat)
    (vals : List (Option Num)) : StoreOut :=
  let us (q : Nat) : Nat := t.stream org (rel q)
  if vals.all Option.isNone then StoreOut.none
  else if t.storeQuenched then
    let xs := vals.map (fun v => v.getD Num.zero)
    let q := quenchRun t.stored t.stored.blockLen t.rnd t.clip s xs ((List.range xs.length).map (fun i => us (q0 + i)))
    { bytes := t.codeBytes old org q0 rel (q.codes.map some) ++
        q.scales.zipIdx.map (fun ci => (t.e8Addr org (rel (q0 + t.stored.blockLen * ci.2)), BitVec.ofNat 8 ci.1)),
      flags := 0, qflags := q.flags, sats := q.sats, flushes := q.flushes, count := xs.length, free := 0 }
  else
    let cs : List (Option Conv) := vals.zipIdx.map (fun vi =>
      vi.1.map (fun x =>
        let q := q0 + vi.2
        if t.bscale then
          (let e8 := (old (t.e8Addr org (rel q))).toNat
           if e8 = 0xff then ⟨(Config.freeByte (free + vi.2)).toNat % 2 ^ t.stored.bits, 0, false⟩
           else convert t.stored t.rnd t.sat (us q) (unscaleNum x e8 s))
        else convert t.stored t.rnd t.sat (us q) x))
    { bytes := t.codeBytes old org q0 rel (cs.map (fun c => c.map (·.code))),
      flags := cs.foldl (fun f c => match c with | some y => f ||| y.flags | none => f) 0,
      qflags := 0, sats := 0, flushes := 0, count := (cs.filter Option.isSome).length, free := if t.bscale then vals.length else 0 }

/-- Store a tile's elements to one handle: `cells` gives the value at a row and lane. -/
def Tensor.storeTile (t : Tensor) (s : Num) (old : Nat → Byte) (org : List Int) (q0 rows cols : Nat) (rel : Nat → Nat → List Int)
    (free : Nat) (cells : List CoatStore) : StoreOut :=
  (List.range rows).foldl (fun acc i =>
    let mine := cells.filter (fun c => c.row = i)
    let vals := (List.range cols).map (fun l => (mine.find? (fun c => c.lane = l)).map (·.value))
    acc.join (t.storeRow s old org q0 (fun q => rel q i) (free + acc.free) vals)) StoreOut.none

/-- What a drain gives: its stores, the flags of the lanes, and its traps (R168, R170, R184, R186). -/
structure DrainOut where
  stores : List CoatStore
  flags : Nat
  traps : List Trap
  deriving DecidableEq, Repr

/-- Drain a tile by a program or by the plain drain. -/
def drainTile (im : Option CoatImage) (v : TileView) (split latchk : Bool) : DrainOut :=
  match im with
  | none => let x := plainDrain v split; ⟨x.1, x.2, []⟩
  | some i => let s := runCoat i v latchk; ⟨s.stores, s.flags, if latchk then s.trapList else []⟩

/-- Iterations and bundles that a drain issues are counted (Table 05-16). -/
def Pkg.countDrain (p : Pkg) (die : Nat) (im : Option CoatImage) : Pkg :=
  let n := match im with | some i => 512 + i.delta | none => 512
  let l := match im with | some i => i.len | none => 1
  (p.coatCount die (Reg.COAT_CNT_ROWS die) n).coatCount die (Reg.COAT_CNT_ISSUE die) (n * l)

/-- A tile trapped: the first trap is recorded on the die unless one is held, every trap is counted, once for all the lanes that meet it (log
entry 89), nothing of the tile is committed, and the descriptor ends with 0x3F, cause 0x08 (R170). The die discards the tile until the descriptor
completes; the partition's other dies leave their tiles. -/
def Pkg.trapTile (p : Pkg) (e : Env) (r : Run) (die t slot : Nat) (traps : List Trap) : Pkg :=
  let k := Reg.COAT_TRAP_INFO die
  let p1 := p.coatCount die (Reg.COAT_CNT_TRAP die) traps.length
  let p2 := match (sortBy Trap.le traps).head? with
    | some t =>
      if p1.on k Fld.COAT_TRAP_VALID then p1 else
      (((((((p1.setReg k 0).setFld k Fld.COAT_TRAP_VALID 1).setFld k Fld.COAT_TRAP_KIND t.kind).setFld k Fld.COAT_TRAP_PROG slot).setFld k
        Fld.COAT_TRAP_BUNDLE t.bundle).setFld k Fld.COAT_TRAP_SLOT t.slot).setFld k Fld.COAT_TRAP_FILE t.file).setFld k Fld.COAT_TRAP_REG t.reg
        |>.setFld k Fld.COAT_TRAP_ROW (t.row % 256)
    | none => p1
  ({ p2 with coatNow := assocPut (p2.coatNow.filter (fun x => x.2.queue ≠ r.queue)) die ⟨r.queue, t, true⟩ }).setRun { r.abort e.tag 0x08 with undef := r.committed != 0, stopped := true, finished := true, endBeat := e.tag }

/-! ### Ends of a tile attempt -/

/-- A failed check of a tile's attempt (R116, R117, R119, R195): the error register, the class-8 event, the counters; a third failure of the
pass is a class-4 event that ends the descriptor. `f` puts the next attempt into the run. -/
def Pkg.failTile (p : Pkg) (e : Env) (r : Run) (die t : Nat) (fl : CheckFail) (attempts : Nat) (f : Run → Run) : Pkg :=
  let k := Reg.ARR_ERR_INFO die
  let coat : Bool := fl.unit / 4096 == 3
  let seq := (p.fld k Fld.ARR_ERR_SEQ + 1) % 256
  let p1 := if coat then p else
    ((((p.setReg k 0).setFld k Fld.ARR_ERR_KIND fl.kind).setFld k Fld.ARR_ERR_COL (if fl.unit / 4096 = 1 then fl.unit % 4096 else 0)).setFld k
      Fld.ARR_ERR_ROW (if fl.kind = 1 ∨ fl.kind = 4 ∨ fl.kind = 5 then fl.row else 0)).setFld k Fld.ARR_ERR_SEQ seq
  let data := leBytes 8 (if coat then 0 else p1.regNat k) ++ leBytes 8 t
  let p2 := p1.event 8 die fl.unit 1 fl.kind data
  if attempts + 1 ≥ 3 then
    (p2.setRun { r.abort e.tag 0x0a with detail := t, undef := true, stopped := true, finished := true, endBeat := e.tag }).event 4 die
      fl.unit 1 fl.kind data
  else
    let p3 := ((if coat then p2.coatCount die (Reg.COAT_CNT_REPLAY die) 1 else p2.arrCount die (Reg.ARR_CNT_REPLAY die) 1).rasCount
      Reg.RAS_CNT_TILE_REPLAY 1).disturb 1 die fl.unit
    p3.setRun (f { r.raise e.tag 4 with replays := r.replays + 1 })

/-- Lines whose pre-image the drop cloth does not hold yet are copied into it (R492). -/
def Pkg.clothe (p : Pkg) (r : Run) (segs : List Segment) : Pkg × Run :=
  let lines := (segs.map (fun s => linesOf s.addr s.bytes.length)).flatten
  let fresh := lines.foldl (fun acc l => if acc.contains l || (preimageAt r.preimages l).isSome then acc else acc ++ [l]) ([] : List Nat)
  let held := ((p.dsp.runs.filter (fun x => x.ctx == r.ctx)).map (fun x => x.preimages.length)).sum
  ((p.journalBytes r.ctx (16384 + 256 * held) (256 * fresh.length)).rasCount Reg.RAS_CNT_PREIMAGE fresh.length,
    { r with preimages := r.preimages ++ fresh.map (fun l => ⟨l, p.viewBytes l 256⟩) })

/-- The context, the queue's run and its handle 2 of bindings get their increments in tile order (R417, R500). -/
def Pkg.applyIncs (p : Pkg) (r : Run) : Nat → Pkg × Run
  | 0 => (p, r)
  | n + 1 =>
    if (r.tile r.incs).committed then
      let p1 := (p.binds.filter (fun b => b.ctx == r.ctx && b.handle == dHandle r.desc 2)).foldl
        (fun q b => q.addReg (Reg.COL_TCNT b.engine b.counter) 1) p
      p1.applyIncs { r with incs := r.incs + 1 } n
    else (p, r)

/-- Write a tile's outputs and remember them (R117, R492, R494, R499). -/
def Pkg.writeOutputs (p : Pkg) (e : Env) (r : Run) (t : Nat) (outs : List (Nat × List Segment)) : Pkg × Run :=
  let segs := (outs.map (·.2)).flatten
  let keep := r.reserved != 0
  let x := if keep then p.clothe r segs else (p, r)
  let w := x.1.storeAll e (.descriptor r.queue) (segs.map (fun s => (s.addr, s.bytes)))
  let r1 := (x.2.readOutcome e w.2)
  (w.1, { r1 with
    rewritten := if keep then r1.rewritten ++ segs.map (fun s => (s.addr, s.bytes.length)) else r1.rewritten
    written := r1.written.filter (fun y => y.tile ≠ t) ++ (outs.map (fun o => o.2.map (fun s => ⟨t, o.1, s.addr, s.bytes⟩))).flatten })

/-- Some output of a tile lies on a masked, uncopied page (R518). -/
def Pkg.segsMasked (p : Pkg) (segs : List Segment) : Bool := segs.any (fun s => p.rangeMasked s.addr s.bytes.length)

/-- A commit stalls on masked pages: their demand copies start, and the descriptor is delayed (R518, R519, Table 06-14). -/
def Pkg.stallOnMask (p : Pkg) (e : Env) (r : Run) (segs : List Segment) : Pkg :=
  (segs.foldl (fun q s => if q.rangeMasked s.addr s.bytes.length then q.demandCopy s.addr s.bytes.length else q) p).setRun (r.delayBy e.tag 5)

/-- A run's tiles are all committed and its shadow passes done: its last output is committed (R118, R236). -/
def Run.closeIf (r : Run) (e : Env) (total : Nat) (owesShadow : Nat → Bool) : Run :=
  if r.committed = total && r.tiles.all (fun x => !owesShadow x.t || x.shadowDone) then { r with finished := true, endBeat := e.tag } else r

/-! ### Array tiles -/

/-- At least one operand is edge-quenched: the tile is reheatable (R138). The operands are A and B; C-in, handle 3, is not counted as one (log
entry 88). -/
def ArrayJob.reheatable (j : ArrayJob) : Bool := j.a.edgeQuenched || j.b.edgeQuenched

/-- A tile is shadowed (R148). -/
def ArrayJob.shadowed (j : ArrayJob) (t : Nat) : Bool :=
  j.reheatable && j.c.shadow != 0 && (let n := 2 ^ (j.c.shadow - 1); t % n == shadowOffset j.c.seed n)

/-- Over-threshold status of every earlier tile that this die holds is settled (R145). -/
def ArrayJob.settled (j : ArrayJob) (r : Run) (t : Nat) : Bool :=
  (List.range t).all (fun u => j.rankOf u != j.rankOf t || (r.tile u).committed || (r.tile u).reheat)

/-- Tile t' may end a pass now: every earlier iteration is committed (R222, R225), and every earlier tile of this iteration that the die holds
has ended a pass, be it that its replay or its reheat is still to come (R107, R118). -/
def ArrayJob.inTurn (j : ArrayJob) (r : Run) (die t : Nat) : Bool :=
  (List.range t).all (fun u =>
    let x := r.tile u
    x.committed || (u / j.tiles == t / j.tiles && (!j.holds die u || x.reheat || x.attempts != 0)))

/-- Rates of the array for the busy count: cycles of one pass of a tile (R112). A D6P tile with a spread event runs its six discarded passes
and then the ten of D10 (R105). -/
def ArrayJob.cycles (j : ArrayJob) (pass : Pass) (kn : Nat) (spread : Bool) : Nat :=
  match pass with
  | .narrow =>
    (match j.pmode with
     | 0 => (match arrayClass j.a.view with | some 4 => ceilDiv kn 8 | some 2 => ceilDiv kn 16 | _ => kn)
     | 1 => 3 * kn
     | 2 => 6 * kn
     | 3 => 10 * kn
     | _ => if spread && j.pmode == 4 then 16 * kn else 6 * kn)
  | _ => kn

/-- Array cycles in which a K-split part's bytes reach the home die, at 4 TB/s (R109, R113; the S grade's clock is 1.8 GHz, Table 00-1). -/
def Pkg.transferCycles (p : Pkg) (bytes : Nat) : Nat := if p.grade = 1 then ceilDiv (9 * bytes) 20000 else ceilDiv bytes 2000

/-- Elements drained with a non-zero tag (Table 03-11). -/
def Accum.specials (a : Accum) : Nat := a.cells.foldl (fun n row => n + row.countP (fun c => c.tag != 0)) 0

/-- The array run that works on a die. -/
def Pkg.arrayRun (p : Pkg) (die kind : Nat) : Option Run :=
  match p.partOfDie die with
  | some c => p.dsp.runs.find? (fun r => r.ctx == c && r.engine == 0 && r.kind == kind && !r.finished && !r.stopped && r.replayOn.isNone)
  | none => none

/-- A die holds its tile starts while a column, edge or lane of it is under test (Table 14-2), and at a tile boundary until a column or lane that
was found faulty is replaced (R120, R196). -/
def Pkg.tilesHeld (p : Pkg) (die : Nat) : Bool :=
  let mine (t : UnitTest) : Bool := t.die == die && 1 ≤ t.unit / 4096 && t.unit / 4096 ≤ 3
  p.ras.tests.any mine || p.ras.marching.any (fun t => mine t && !t.spare) ||
  p.ras.waiting.any (fun u => u.1 == die && (u.2 / 4096 == 1 || u.2 / 4096 == 3))

/-- Tiles of the current descriptor not yet committed on a die (Table 03-9). -/
def ArrayJob.tilesLeft (j : ArrayJob) (r : Run) (die : Nat) : Nat :=
  ((List.range (dIters r.desc * j.tiles)).filter (fun u => j.holds die u && !(r.tile u).committed)).length

/-- Commit a tile's drained stores with flags, counters and trigger increments. `x` holds the tile's flags and counts so far, and `kept` says
that an over-threshold tile keeps its narrow result. NV of a K-split element that only the combination finds is the drain's, and goes with the
coat engine's flags (R110; log entry 90). -/
def Pkg.commitTile (p : Pkg) (e : Env) (r : Run) (j : ArrayJob) (die t : Nat) (x : TileSt) (acc : Accum) (factor : Num)
    (drained : DrainOut) (st : StoreOut) (kept : Bool) : Pkg :=
  let segs := segmentsOf st.bytes
  let w := p.writeOutputs e r t [(2, segs)]
  let arrF := x.arrFlags ||| st.qflags
  let coatF := x.coatFlags ||| drained.flags ||| st.flags ||| (if acc.nv then flagNV else 0)
  let stg := w.2.stageOf die
  let r1 := ((w.2.setTile { x with committed := true, arrFlags := arrF, coatFlags := coatF, result := some acc, factor := factor }).setStage
    { stg with sats := stg.sats + x.sats + st.sats, flushes := stg.flushes + x.flushes + st.flushes,
               reheats := stg.reheats + (if x.reheat then 1 else 0), kept := stg.kept + (if kept then 1 else 0) })
  let r2 : Run := { r1 with
    flags := r1.flags ||| arrF ||| coatF, endBeat := e.tag
    reheated := r1.reheated + (if x.reheat then 1 else 0), kept := r1.kept + (if kept then 1 else 0)
    qcause := r1.qcause ||| (if kept then (if j.reheatable then 1 else 2) else 0) }
  let r3 := if kept then r2.raise e.tag 0x20 else if x.reheat then r2.raise e.tag 3 else r2
  let y := w.1.applyIncs r3 (r3.tiles.length + 1)
  let total := dIters r.desc * j.tiles
  let r4 := y.2.closeIf e total j.shadowed
  let p1 := ((y.1.setRun r4).commitArrFlags die r.ctx arrF).commitCoatFlags die r.ctx coatF
  let p2 := (List.range j.s).foldl (fun q u => q.arrCount (j.dieOf t u) (Reg.ARR_CNT_TILES (j.dieOf t u)) 1) p1
  p2.arrCount die (Reg.ARR_CNT_SPECIAL die) acc.specials

/-- Over threshold by store quench (R134). -/
def storeOver (c : Tensor) (st : StoreOut) : Bool := c.storeQuenched && overThreshold c.reheat c.theta st.count st.sats st.flushes

/-- The drain of GEMM_EPILOGUE: each element with its bias, repeated over dimensions of size 1, through the activation, and rounded once as it is
stored (R229; log entry 95). GELU and SiLU are functions of that sum that no rule rounds. -/
def epilogueDrain (level act : Nat) (bias : Tensor) (sb : Num) (src : Nat → Byte) (org : List Int) (pl : TilePlace) (acc : Accum) (factor : Num) :
    DrainOut :=
  let cells := acc.cells.zipIdx.map (fun ri => ri.1.zipIdx.map (fun cj =>
    let rel := bias.repeatIdx (rel2 (pl.col0 + cj.2) (pl.row0 + ri.2))
    let b := bias.readAs sb src org rel
    let x := ((acc.value cj.1).mul factor).1.add .nearestEven b.1
    let y := match act with
      | 0 => x.1
      | 1 => if x.1.isNan || !x.1.neg then x.1 else Num.zero
      | _ => if x.1.isNan then x.1 else Config.hearth level 0x11 [act] [[x.1]] 0
    let fl := b.2 ||| x.2 ||| (if cj.1.nv then flagNV else 0) ||| (if act ≤ 1 then 0 else (Config.hearthFlags level 0x11 [act] [[x.1]]).toNat)
    ((⟨2, ri.2, cj.2, y⟩ : CoatStore), fl)))
  ⟨cells.flatten.map (·.1), cells.flatten.foldl (fun f c => f ||| c.2) 0, []⟩

/-- Drain an accumulation of tile t' on a die and convert its stores. -/
def Pkg.drainStores (p : Pkg) (r : Run) (j : ArrayJob) (die t : Nat) (acc : Accum) (factor : Num) : DrainOut × StoreOut :=
  let pl := j.place t
  let dr := match j.epi with
    | some b => epilogueDrain p.numLevel b.1 b.2 (p.tensorScale b.2) (p.inputByte r false) (r.origin 3 pl.iter) pl acc factor
    | none => drainTile r.image { tileView acc pl.rows pl.cols factor with level := p.numLevel } acc.split (p.on (Reg.COAT_CTRL die) Fld.COAT_LATCHK)
  (dr, j.c.storeTile (p.tensorScale j.c) p.view (r.origin 2 pl.iter) pl.col0 pl.rows pl.cols (fun q i => rel2 q (pl.row0 + i)) p.free
    dr.stores)

/-- Charge a reheat to the share of a die rank (R142). -/
def Run.chargeShare (r : Run) (j : Nat) : Run := { r with shares := putAt r.shares j (r.shares.getD j 0 - 1) }

/-- The narrow pass of a tile: the parts joined at the home die, or the whole K there (R109, R110). -/
def Pkg.narrowOf (p : Pkg) (r : Run) (j : ArrayJob) (t : Nat) : PassOut :=
  if j.s > 1 then
    let x := r.tile t
    let o := p.passOf r j .narrow t 0 (ksplitPart j.k j.s 0).2 true
    -- the other parts as their headers and records tell of them
    let sent := (List.range (j.s - 1)).filterMap (fun u => x.parts.find? (fun (q : TilePart) => q.part = u + 1))
    let accs := sent.map (fun (q : TilePart) => Accum.ofRecord q.data (j.place t).cols (clog2 (j.kPrime q.part)) o.accum.split)
    { accum := combineParts j.fixed (o.accum :: accs),
      flags := sent.foldl (fun f (q : TilePart) => f ||| leAt q.data 2 1) (o.flags ||| o.accum.nvFlag),
      sats := sent.foldl (fun n (q : TilePart) => n + q.sats) o.sats, flushes := sent.foldl (fun n (q : TilePart) => n + q.flushes) o.flushes,
      overT := o.overT || sent.any (fun (q : TilePart) => (leAt q.data 3 1).testBit 0), spread := o.spread }
  else p.passOf r j .narrow t 0 j.k true

/-- Every part of tile t' but the home die's own has reached the home die. -/
def ArrayJob.partsIn (j : ArrayJob) (x : TileSt) : Bool :=
  (List.range (j.s - 1)).all (fun u => x.parts.any (fun (q : TilePart) => q.part = u + 1))

/-- A tile's drain ends with its stores converted: it traps (R170), stalls on a masked page until the page is copied (R518), or commits. `busy` are
the cycles of its pass and `spread` counts it under R104. -/
def Pkg.endDrain (p : Pkg) (e : Env) (r : Run) (j : ArrayJob) (die t : Nat) (x : TileSt) (acc : Accum) (factor : Num) (ds : DrainOut × StoreOut)
    (busy : Nat) (spread kept : Bool) : Pkg :=
  let segs := segmentsOf ds.2.bytes
  let p1 := if spread then p.arrCount die (Reg.ARR_CNT_SPREAD die) 1 else p
  let p2 := (p1.countDrain die r.image).arrCount die (Reg.ARR_CNT_BUSY die) busy
  if !ds.1.traps.isEmpty then p2.trapTile e r die t (bitsOf (dOp r.desc) 15 8) ds.1.traps
  else if p.segsMasked segs then p.stallOnMask e r segs
  else ((p2.drawFree ds.2.free).2).commitTile e r j die t x acc factor ds.1 ds.2 kept

/-- A tile's pass ends on its home die (R117, R138 to R145, R156): a failed check replays the pass; a reheat pass commits; a narrow pass is
reheated when it is over threshold, reheatable and within the share, once every earlier tile of the die is settled, and otherwise commits. -/
def tileCommit (die t : Nat) (fail : Option CheckFail) (e : Env) (p : Pkg) : Pkg :=
  match p.arrayRun die 0 with
  | none => p
  | some r =>
    let j := p.arrayJob r
    let x := r.tile t
    if j.dieOf t 0 ≠ die ∨ t ≥ dIters r.desc * j.tiles ∨ x.committed ∨ p.tilesHeld die ∨ !j.inTurn r die t ∨
        (j.s > 1 ∧ !x.reheat ∧ !j.partsIn x) then p
    else
      let pl := j.place t
      let k0 := if j.s > 1 && !x.reheat then (ksplitPart j.k j.s 0).2 else j.k
      match fail with
      | some fl =>
        (p.arrCount die (Reg.ARR_CNT_BUSY die) (j.cycles (if x.reheat then .reheat else .narrow) k0 false)).failTile e r die t fl x.attempts
          (fun s => s.setTile { x with attempts := x.attempts + 1 })
      | none =>
        let rd := p.touchPass e (.descriptor r.queue) j (r.origin 0 pl.iter) (r.origin 1 pl.iter) (r.origin 3 pl.iter) pl 0 k0 true
        let r1 := r.readOutcome e rd.2
        if rd.2 = .failed then rd.1.setRun r1 else
        let p1 := rd.1.setRun r1
        let sa := p1.tensorScale j.a
        let sb := p1.tensorScale j.b
        if x.reheat then
          let o := p1.passOf r1 j .reheat t 0 j.k true
          let f := j.factor .reheat sa sb
          p1.endDrain e r1 j die t { x with arrFlags := x.arrFlags ||| o.flags } o.accum f (p1.drainStores r1 j die t o.accum f)
            (j.cycles .reheat j.k false) false false
        else
          let o := p1.narrowOf r1 j t
          let f := j.factor .narrow sa sb
          let y : TileSt := { x with arrFlags := x.arrFlags ||| o.flags, sats := o.sats, flushes := o.flushes, overT := o.overT }
          let busy := j.cycles .narrow k0 o.spread
          let room : Bool := r1.shares.getD (j.rankOf t) 0 != 0
          let reheatNow (q : Pkg) (z : TileSt) : Pkg :=
            (q.arrCount die (Reg.ARR_CNT_BUSY die) busy).setRun
              ((r1.chargeShare (j.rankOf t)).setTile { z with reheat := true, overT := true, attempts := 0, parts := [] })
          let ds := p1.drainStores r1 j die t o.accum f
          if o.overT && j.reheatable then
            if !j.settled r1 t then p
            else if room then reheatNow p1 y  -- the narrow accumulation is not drained (R140)
            else p1.endDrain e r1 j die t y o.accum f ds busy o.spread true
          else
            let hot := storeOver j.c ds.2
            if hot && j.reheatable && ds.1.traps.isEmpty && (!j.settled r1 t || room) then
              if !j.settled r1 t then p
              else reheatNow (p1.countDrain die r.image) { y with
                arrFlags := y.arrFlags ||| ds.2.qflags, coatFlags := ds.1.flags ||| ds.2.flags,
                sats := y.sats + ds.2.sats, flushes := y.flushes + ds.2.flushes }
            else p1.endDrain e r1 j die t { y with overT := hot } o.accum f ds busy o.spread hot

/-- A K-split part's records reach the home die (R109, R110, R135); a failed check replays that part alone (R117). -/
def ksplitRecord (die t part : Nat) (fail : Option CheckFail) (e : Env) (p : Pkg) : Pkg :=
  match p.arrayRun die 0 with
  | none => p
  | some r =>
    let j := p.arrayJob r
    let x := r.tile t
    let ks := ksplitPart j.k j.s part
    if j.s ≤ 1 ∨ part = 0 ∨ part ≥ j.s ∨ j.dieOf t part ≠ die ∨ t ≥ dIters r.desc * j.tiles ∨ x.committed ∨ x.reheat ∨ p.tilesHeld die ∨
        !j.inTurn r die t ∨ x.parts.any (fun q => q.part = part) then p
    else match fail with
    | some fl => (p.arrCount die (Reg.ARR_CNT_BUSY die) (j.cycles .narrow ks.2 false)).failTile e r die t fl x.attempts
        (fun s => s.setTile { x with attempts := x.attempts + 1 })
    | none =>
      let pl := j.place t
      let rd := p.touchPass e (.descriptor r.queue) j (r.origin 0 pl.iter) (r.origin 1 pl.iter) (r.origin 3 pl.iter) pl ks.1 ks.2 false
      let r1 := r.readOutcome e rd.2
      if rd.2 = .failed then rd.1.setRun r1 else
      let p1 := rd.1.setRun r1
      let o := p1.passOf r1 j .narrow t ks.1 ks.2 false
      let data := o.accum.record (o.flags ||| o.accum.nvFlag) o.overT
      let home := j.dieOf t 0
      ((p1.arrCount die (Reg.ARR_CNT_BUSY die) (j.cycles .narrow ks.2 o.spread)).arrCount home (Reg.ARR_CNT_BUSY home)
        (p1.transferCycles data.length)).setRun (r1.setTile { x with parts := x.parts ++ [⟨part, data, o.sats, o.flushes⟩] })

/-- A shadow pass ends: its result is compared with the committed one and a bin recorded; its outputs and flags are discarded (R149 to R152,
R154). -/
def shadowPassEnd (die t : Nat) (fail : Option CheckFail) (e : Env) (p : Pkg) : Pkg :=
  match p.arrayRun die 0 with
  | none => p
  | some r =>
    let j := p.arrayJob r
    let x := r.tile t
    if j.dieOf t 0 ≠ die ∨ !x.committed ∨ x.shadowDone ∨ !j.shadowed t ∨ p.tilesHeld die then p
    else match fail with
    | some fl => (p.arrCount die (Reg.ARR_CNT_BUSY die) (j.cycles .shadow j.k false)).failTile e r die t fl x.shadowAttempts
        (fun s => s.setTile { x with shadowAttempts := x.shadowAttempts + 1 })
    | none =>
      let pl := j.place t
      let rd := p.touchPass e (.descriptor r.queue) j (r.origin 0 pl.iter) (r.origin 1 pl.iter) (r.origin 3 pl.iter) pl 0 j.k true
      let r1 := r.readOutcome e rd.2
      if rd.2 = .failed then rd.1.setRun r1 else
      let p1 := rd.1.setRun r1
      let o := p1.passOf r1 j .shadow t 0 j.k true
      let f := j.factor .shadow (p1.tensorScale j.a) (p1.tensorScale j.b)
      let ys := (x.result.map (fun a => (a.cells.flatten).map (fun c => (c.tag, ((a.value c).mul x.factor).1)))).getD []
      let zs := (o.accum.cells.flatten).map (fun c => (c.tag, ((o.accum.value c).mul f).1))
      let both := (ys.zip zs).filter (fun w => w.1.1 = 0 ∧ w.2.1 = 0)
      let bin := shadowBin (both.map (fun w => w.1.2)) (both.map (fun w => w.2.2))
      let stg := r1.stageOf die
      let r2 := (r1.setTile { x with shadowDone := true }).setStage
        { stg with shadows := stg.shadows + 1, bins := match bin with | some b => stg.bins ++ [b] | none => stg.bins }
      (p1.setRun (r2.closeIf e (dIters r.desc * j.tiles) j.shadowed)).arrCount die (Reg.ARR_CNT_BUSY die) (j.cycles .shadow j.k false)

/-! ### What the status registers show -/

/-- The array-group descriptor that a die's partition works on, unfinished. -/
def Pkg.groupRun (p : Pkg) (die : Nat) : Option Run :=
  match p.partOfDie die with
  | some c => p.dsp.runs.find? (fun r => r.ctx == c && r.engine == 0 && !r.finished)
  | none => none

/-- The array descriptor in progress on a die that takes part in it. -/
def Pkg.arrayOn (p : Pkg) (die : Nat) : Option (Run × ArrayJob) :=
  match p.groupRun die with
  | some r => if r.kind = 0 then (let j := p.arrayJob r; if j.works die then some (r, j) else none) else none
  | none => none

/-- `ARR_STATE` of a die (Table 03-9; log entry 94): a column map to be switched, a replay, a K-split tile's parts on their way or all there, the
skew after a start, or computing. -/
def Pkg.arrayState (p : Pkg) (e : Env) (die : Nat) : Nat :=
  if p.ras.waiting.any (fun u => u.1 == die && u.2 / 4096 == 1) then 6 else
  match p.arrayOn die with
  | none => 0
  | some (r, j) =>
    let mine (u : Nat) : Bool := j.holds die u && !(r.tile u).committed
    let home (x : TileSt) : Bool := j.s > 1 && j.dieOf x.t 0 == die && !x.committed && !x.reheat && !x.parts.isEmpty
    let owes : Bool := r.tiles.any (fun x => x.committed && j.dieOf x.t 0 == die && j.shadowed x.t && !x.shadowDone)
    if r.replayOn.isSome || r.tiles.any (fun x => mine x.t && x.attempts != 0) then 5
    else if j.tilesLeft r die = 0 && !owes then 0
    else if r.tiles.any (fun x => home x && j.partsIn x) then 3
    else if r.tiles.any home then 4
    else if e.tag < r.startBeat + ceilDiv skewCycles 32 then 1
    else 2

/-- `ARR_STATUS` of a die as it reads (Table 03-9): its spare columns are stored, the rest follows from the descriptor on the die. -/
def Pkg.arrayStatus (p : Pkg) (e : Env) (die : Nat) (w : W64) : W64 :=
  let w1 := setField w Fld.ARR_STATE (p.arrayState e die)
  match p.arrayOn die with
  | none => w1
  | some (r, j) =>
    let left := min 0xffff (j.tilesLeft r die)
    setField (setField (setField w1 Fld.ARR_TILES_LEFT left) Fld.ARR_CTX r.ctx) Fld.ARR_SPLIT_ACTIVE (if j.pmode ≠ 0 ∧ left ≠ 0 then 1 else 0)

/-- `COAT_STATUS` of a die as it reads (Table 05-12; log entry 94): a trapped tile that is discarded, a coat descriptor's program, or the drain of
the array descriptor in progress. -/
def Pkg.coatStatus (p : Pkg) (e : Env) (die : Nat) (w : W64) : W64 :=
  let put (prog ctx st : Nat) : W64 := setField (setField (setField w Fld.COAT_CUR_PROG prog) Fld.COAT_CTX ctx) Fld.COAT_STATE st
  match assoc? p.coatNow die with
  | some now =>
    match p.runOf now.queue with
    | some r => put (bitsOf (dOp r.desc) 15 8) r.ctx (if r.stopped then 3 else 2)
    | none => put 0xff 0 0
  | none =>
    let st := p.arrayState e die
    match p.arrayOn die with
    | some (r, _) => if st = 2 ∨ st = 3 then put (bitsOf r.arrOp 15 8) r.ctx (if bitsOf r.arrOp 15 8 = 0xff then 1 else 2) else put 0xff 0 0
    | none => put 0xff 0 0

end Sys2Proof.Machine
end

