-- ==== Sys2Proof/Machine/CoatTiles.lean ====
section
/-! DEFINITION. Coat descriptors' tiles (spec 05_coat_engine.md, R161, R168 to R171, R176, R182, R186, R193 to R195), the retirement of
array columns and coat lanes (R120, R123, R196), and the clears of the array's counters (R122, R157, R158, R197). -/

namespace Sys2Proof.Machine

/-- Place of a coat tile: iteration, first lane and row, lanes, rows, and its indices in dimensions 2 to 4 (R194, R225). -/
structure CoatPlace where
  iter : Nat
  lane0 : Nat
  row0 : Nat
  lanes : Nat
  rows : Nat
  upper : List Int
  deriving DecidableEq, Repr

/-- Tiles of one iteration of a coat descriptor (R107, R194). -/
def coatTilesOf (o : Tensor) : Nat := ceilDiv (o.size 0) 512 * ceilDiv (o.size 1) 512 * o.size 2 * o.size 3 * o.size 4

/-- The place of tile t', the dimension-0 tile index fastest (R194). -/
def coatPlace (o : Tensor) (t : Nat) : CoatPlace :=
  let n0 := ceilDiv (o.size 0) 512
  let n1 := ceilDiv (o.size 1) 512
  let u := t % coatTilesOf o
  let v := u / (n0 * n1)
  let l0 := 512 * (u % n0)
  let r0 := 512 * (u / n0 % n1)
  ⟨t / coatTilesOf o, l0, r0, min 512 (o.size 0 - l0), min 512 (o.size 1 - r0),
    [((v % o.size 2 : Nat) : Int), ((v / o.size 2 % o.size 3 : Nat) : Int), ((v / (o.size 2 * o.size 3) : Nat) : Int)]⟩

/-- Index of an output element at a run index and a row of a place. -/
def CoatPlace.rel (pl : CoatPlace) (q i : Nat) : List Int := ((q : Nat) : Int) :: ((i : Nat) : Int) :: pl.upper

/-- The F32 patterns and flags of an input's rows for a tile: each element read through its view and then converted (R176, R219). -/
def coatInput (t : Tensor) (s : Num) (src : Nat → Byte) (org : List Int) (pl : CoatPlace) : List (List (Nat × Nat)) :=
  (List.range pl.rows).map (fun i => (List.range pl.lanes).map (fun l =>
    let rel := t.repeatIdx (pl.rel (pl.lane0 + l) (pl.row0 + i))
    let x := t.readAs s src org rel
    let c := convert .f32 t.rnd t.sat (t.stream org rel) x.1
    (c.code, x.2 ||| c.flags)))

/-- Read the lines of an input's rows for a tile (R289, R321, R322). -/
def Pkg.touchCoat (p : Pkg) (e : Env) (u : MemUser) (t : Tensor) (org : List Int) (pl : CoatPlace) : Pkg × LineOutcome :=
  (List.range pl.rows).foldl (fun (st : Pkg × LineOutcome) i =>
    let r0 := t.repeatIdx (pl.rel pl.lane0 (pl.row0 + i))
    let r1 := t.repeatIdx (pl.rel (pl.lane0 + pl.lanes - 1) (pl.row0 + i))
    let a0 := (t.elemAddr org r0).1.toNat
    let x := st.1.touchRange e u a0 ((t.elemAddr org r1).1.toNat + max 1 (t.stored.bits / 8) - a0)
    let y := if t.bscale then x.1.touchRange e u (t.e8Addr org r0) (t.e8Addr org r1 + 1 - t.e8Addr org r0) else (x.1, .ok)
    (y.1, (st.2.join x.2).join y.2)) (p, .ok)

/-- The coat run that works on a die, with its image. -/
def Pkg.coatRun (p : Pkg) (die : Nat) : Option (Run × CoatImage) :=
  match p.arrayRun die 1 with
  | some r => (match r.image with | some im => some (r, im) | none => none)
  | none => none

/-- The tensor whose dimensions cut a coat run's tiles (Table 05-9). -/
def Run.coatOut (r : Run) : Tensor := r.tensor (tileHandle r.image)

/-- A die takes part in an array-group descriptor; the other dies of the partition are idle meanwhile (R108, R194). -/
def Pkg.takesPart (p : Pkg) (r : Run) (die : Nat) : Bool :=
  match r.kind with
  | 0 => (p.arrayJob r).works die
  | 1 => ((p.partDies r.ctx).take (coatTilesOf r.coatOut)).contains die
  | _ => (p.partDies r.ctx).contains die

/-- Tile t' of a coat run may start: every earlier iteration is committed (R222, R225). -/
def Run.coatTurn (r : Run) (t : Nat) : Bool :=
  let n := coatTilesOf r.coatOut
  (List.range (t / n * n)).all (fun u => (r.tile u).committed)

/-- Tile t' of a coat run belongs to a die: the die of rank t mod d (R194). -/
def Pkg.coatDie (p : Pkg) (r : Run) (t : Nat) : Nat :=
  let ds := p.partDies r.ctx
  ds.getD (t % coatTilesOf r.coatOut % ds.length) 0

/-- A coat tile starts: every lane's state is as R161 sets it, and the die's latency-check mode takes effect (R171). -/
def coatTileStart (die t : Nat) (_ : Env) (p : Pkg) : Pkg :=
  match p.coatRun die with
  | none => p
  | some ri =>
    let r := ri.1
    if p.coatDie r t ≠ die ∨ t ≥ dIters r.desc * coatTilesOf r.coatOut ∨ (r.tile t).committed ∨ p.tilesHeld die ∨ !r.coatTurn t ∨
        (assoc? p.coatNow die).isSome then p
    else { p with coatNow := assocPut p.coatNow die ⟨r.queue, t, p.on (Reg.COAT_CTRL die) Fld.COAT_LATCHK⟩ }

/-- The engine of a die is idle again (Table 05-12). -/
def Pkg.coatIdle (p : Pkg) (die : Nat) : Pkg := { p with coatNow := assocDrop p.coatNow die }

/-- The stores of a coat tile to one handle: stored when the program stores to it. -/
def Pkg.coatStores (p : Pkg) (r : Run) (im : CoatImage) (pl : CoatPlace) (h free : Nat) (ss : List CoatStore) : StoreOut :=
  if im.storesTo h then
    let t := r.tensor h
    t.storeTile (p.tensorScale t) p.view (r.origin h pl.iter) pl.lane0 pl.rows pl.lanes (fun q i => pl.rel q (pl.row0 + i)) free
      (ss.filter (fun s => s.handle = h))
  else StoreOut.none

/-- Commit a coat tile's stores with its flags, quench counts and trigger increments (R117, R145, R155, R168, R186, R417). -/
def Pkg.commitCoat (p : Pkg) (e : Env) (r : Run) (die t : Nat) (flags : Nat) (s2 s3 : StoreOut) : Pkg :=
  let seg2 := segmentsOf s2.bytes
  let seg3 := segmentsOf s3.bytes
  if p.segsMasked (seg2 ++ seg3) then p.stallOnMask e r (seg2 ++ seg3) else
  let w := p.writeOutputs e r t [(2, seg2), (3, seg3)]
  let kept := storeOver (r.tensor 2) s2 || storeOver (r.tensor 3) s3
  let arrF := s2.qflags ||| s3.qflags
  let coatF := flags ||| s2.flags ||| s3.flags
  let k := if kept then 1 else 0
  let stg := w.2.stageOf die
  let r1 := (w.2.setTile { (w.2.tile t) with committed := true, overT := kept, arrFlags := arrF, coatFlags := coatF }).setStage
    { stg with sats := stg.sats + s2.sats + s3.sats, flushes := stg.flushes + s2.flushes + s3.flushes, kept := stg.kept + k }
  let r2 : Run := { r1 with
    flags := r1.flags ||| arrF ||| coatF, endBeat := e.tag, kept := r1.kept + k
    qcause := r1.qcause ||| (if kept then 2 else 0) }
  let r3 := if kept then r2.raise e.tag 0x20 else r2
  let y := w.1.applyIncs r3 (r3.tiles.length + 1)
  let r4 := y.2.closeIf e (dIters r.desc * coatTilesOf r.coatOut) (fun _ => false)
  (((y.1.setRun r4).commitArrFlags die r.ctx arrF).commitCoatFlags die r.ctx coatF).coatIdle die

/-- A coat tile's last store completes (R163 to R168): a failed check replays the tile from its inputs (R195), a trap ends the descriptor
(R170), and otherwise its outputs are committed as a whole. -/
def coatTileCommit (die t : Nat) (fail : Option CheckFail) (e : Env) (p : Pkg) : Pkg :=
  match p.coatRun die, assoc? p.coatNow die with
  | some ri, some now =>
    let r := ri.1
    let im := ri.2
    if now.t ≠ t ∨ now.queue ≠ r.queue ∨ p.tilesHeld die then p
    else match fail with
    | some fl =>
      (p.coatIdle die).failTile e r die t fl (r.tile t).attempts (fun s => s.setTile { s.tile t with attempts := (s.tile t).attempts + 1 })
    | none =>
      let pl := coatPlace r.coatOut t
      let ins := [0, 1].filter im.readsInput
      let rd := ins.foldl (fun (st : Pkg × LineOutcome) h =>
        let x := st.1.touchCoat e (.descriptor r.queue) (r.tensor h) (r.origin h pl.iter) pl
        (x.1, st.2.join x.2)) (p, LineOutcome.ok)
      let r1 := r.readOutcome e rd.2
      if rd.2 = .failed then (rd.1.coatIdle die).setRun r1 else
      let p1 := rd.1.setRun r1
      let view : TileView := { rows := pl.rows, cols := pl.lanes, banks := [], unit0 := 0, unit1 := 0, factor := .fin false 1 1, level := p1.numLevel, inputs := [0, 1].map (fun h => if im.readsInput h then
          coatInput (r.tensor h) (p1.tensorScale (r.tensor h)) (p1.inputByte r1 false) (r.origin h pl.iter) pl else []) }
      let dr := drainTile (some im) view false now.latchk
      let p2 := p1.countDrain die (some im)
      if !dr.traps.isEmpty then
        (p2.trapTile e r1 die t (bitsOf (dOp r.desc) 15 8) dr.traps)
      else
        let s2 := p2.coatStores r1 im pl 2 p2.free dr.stores
        let s3 := p2.coatStores r1 im pl 3 (p2.free + s2.free) dr.stores
        ((p2.drawFree (s2.free + s3.free)).2).commitCoat e r1 die t dr.flags s2 s3
  | _, _ => p

/-! ### Retirement of columns and lanes -/

/-- The first unit of a kind on a die whose retirement waits for its boundary. -/
def Pkg.waitingUnit (p : Pkg) (die kind : Nat) : Option (Nat × Nat) := p.ras.waiting.find? (fun u => u.1 == die && u.2 / 4096 == kind)

/-- The first spare of 16 not in use and not itself retired. -/
def Pkg.freeSpare (p : Pkg) (die kind : Nat) (map : Nat → Nat) (valid : Field) : Option Nat :=
  (List.range 16).find? (fun s => !p.on (map s) valid && !p.ras.retired.contains (die, kind * 4096 + 512 + s))

/-- Put a spare in a unit's place: logical index and map entry (R120, R123, R196). A spare in use that fails gives its place to the next one; a spare
that stands for nothing leaves the map as it is. A retired spare is no longer counted free (log entry 97). -/
def Pkg.retireMapped (p : Pkg) (die kind : Nat) (map : Nat → Nat) (valid col : Field) (status : Nat) (freeF : Field) : Pkg :=
  match p.waitingUnit die kind with
  | none => p
  | some u =>
    let phys := u.2 % 4096
    let idle : Bool := phys ≥ 512 && !p.on (map (phys - 512)) valid
    let logical := if phys < 512 then phys else p.fld (map (phys - 512)) col
    let p1 := if phys < 512 then p else p.setReg (map (phys - 512)) 0
    let p2 := { p1 with ras := { p1.ras with waiting := p1.ras.waiting.erase u } }
    let less (q : Pkg) : Pkg := q.setFld status freeF (q.fld status freeF - 1)
    if idle then less p2 else
    match p2.freeSpare die kind map valid with
    | none => p2
    | some s => less ((p2.setFld (map s) valid 1).setFld (map s) col logical)

/-- The first column of a die that waits for its spare gets it. -/
def Pkg.mapColumn (p : Pkg) (die : Nat) : Pkg :=
  p.retireMapped die 1 (Reg.ARR_COLMAP die) Fld.ARR_MAP_VALID Fld.ARR_MAP_COL (Reg.ARR_STATUS die) Fld.ARR_SPARES_FREE

/-- The first lane of a die that waits for its spare gets it. -/
def Pkg.mapLane (p : Pkg) (die : Nat) : Pkg :=
  p.retireMapped die 3 (Reg.COAT_LANEMAP die) Fld.COAT_MAP_VALID Fld.COAT_MAP_LANE (Reg.COAT_STATUS die) Fld.COAT_SPARES_FREE

/-- With nothing running, every retired column and lane that waits for its spare gets it: the maps stand as the records have them (R123). -/
def Pkg.settleMaps (p : Pkg) : Pkg :=
  p.ras.waiting.foldl (fun (q : Pkg) u => if u.2 / 4096 = 1 then q.mapColumn u.1 else if u.2 / 4096 = 3 then q.mapLane u.1 else q) p

/-- A faulty column is replaced by a spare at the die's next tile boundary (R120, R485). -/
def retireColumn (die : Nat) (_ : Env) (p : Pkg) : Pkg := p.mapColumn die

/-- A faulty coat lane is replaced by a spare at the die's next tile boundary (R196). -/
def retireLane (die : Nat) (_ : Env) (p : Pkg) : Pkg :=
  if (assoc? p.coatNow die).isSome then p else p.mapLane die

/-! ### Clears -/

/-- Every counter of Table 03-11. -/
def arrCounters (d : Nat) : List Nat :=
  [Reg.ARR_CNT_TILES d, Reg.ARR_CNT_BUSY d, Reg.ARR_CNT_IDLE d, Reg.ARR_CNT_KSPLIT d, Reg.ARR_CNT_SPREAD d, Reg.ARR_CNT_SPECIAL d,
   Reg.ARR_CNT_REPLAY d]

/-- Every counter of Table 04-7. -/
def quenchCounters (d : Nat) : List Nat :=
  [Reg.ARR_CNT_QSAT d, Reg.ARR_CNT_QFLUSH d, Reg.ARR_CNT_REHEAT d, Reg.ARR_CNT_KEPT_NARROW d, Reg.ARR_CNT_SHADOW d]

/-- Every counter of Table 05-16. -/
def coatCounters (d : Nat) : List Nat := [Reg.COAT_CNT_ROWS d, Reg.COAT_CNT_ISSUE d, Reg.COAT_CNT_TRAP d, Reg.COAT_CNT_REPLAY d]

/-- `ARR_CNT_CLR` (Table 03-8). -/
def arrCntClr (_src : Source) (die : Nat) (_ : Env) (p : Pkg) : Pkg := p.zeroRegs (arrCounters die)

/-- Staging sets that went to a die earlier in the beat and in the same cycle as a clear (R158; log entry 83). -/
def Pkg.stagedNow (p : Pkg) (die : Nat) : List (Nat × QuenchStage) × Pkg :=
  p.sameCycle (p.stageCycle.filter (fun (x : Nat × QuenchStage) => x.2.die == die))

/-- `ARR_QCNT_CLR` (R157). An update of the same cycle is kept (R158). -/
def arrQcntClr (_src : Source) (die : Nat) (_ : Env) (p : Pkg) : Pkg :=
  let x := p.stagedNow die
  x.1.foldl (fun (q : Pkg) s => q.countStage s.2) (x.2.zeroRegs (quenchCounters die))

/-- `ARR_QHIST_CLR`: the 32 histogram registers of every context whose bit is 1 (R157). An update of the same cycle is kept (R158). -/
def arrQhistClr (_src : Source) (die mask : Nat) (_ : Env) (p : Pkg) : Pkg :=
  let x := p.stagedNow die
  (x.1.filter (fun s => mask.testBit s.1)).foldl (fun (q : Pkg) s => q.binStage s.1 s.2)
    (x.2.zeroRegs (((rangeFilter 8 (fun c => mask.testBit c)).map (fun c =>
      (List.range 32).map (fun b => Reg.ARR_SHADOW_HIST die (32 * c + b)))).flatten))

/-- `COAT_CNT_CLR` (Table 05-11). -/
def coatCntClr (_src : Source) (die : Nat) (_ : Env) (p : Pkg) : Pkg := p.zeroRegs (coatCounters die)

/-! ### The commands -/

/-- ARRAY_DESCRIPTOR (R107). -/
def execArrayDescriptor (q : Fin 64) (s : State) : Host.Outcome State Fault Refusal := s.work Ev.none (startArray q.val)

/-- COAT_DESCRIPTOR (R193). -/
def execCoatDescriptor (q : Fin 64) (s : State) : Host.Outcome State Fault Refusal := s.work Ev.none (startCoat q.val)

/-- The event a failed check stands for: class 8 of its unit. -/
def checkEv (die : Nat) (fail : Option CheckFail) : Ev := match fail with | some f => ⟨8, die, f.unit⟩ | none => Ev.none

/-- TILE_COMMIT (R117). -/
def execTileCommit (die : Fin 8) (tile : Nat) (fail : Option CheckFail) (s : State) : Host.Outcome State Fault Refusal :=
  s.work (checkEv die.val fail) (tileCommit die.val tile fail)

/-- KSPLIT_RECORD (R109). -/
def execKsplitRecord (die : Fin 8) (tile part : Nat) (fail : Option CheckFail) (s : State) : Host.Outcome State Fault Refusal :=
  s.work (checkEv die.val fail) (ksplitRecord die.val tile part fail)

/-- SHADOW_PASS_END (R149). -/
def execShadowPassEnd (die : Fin 8) (tile : Nat) (fail : Option CheckFail) (s : State) : Host.Outcome State Fault Refusal :=
  s.work (checkEv die.val fail) (shadowPassEnd die.val tile fail)

/-- COLUMN_RETIREMENT (R120). -/
def execColumnRetirement (die : Fin 8) (s : State) : Host.Outcome State Fault Refusal := s.work Ev.none (retireColumn die.val)

/-- ARR_CNT_CLR (Table 03-8). -/
def execArrCntClr (src : Source) (die : Fin 8) (s : State) : Host.Outcome State Fault Refusal :=
  s.through src (s.work Ev.none (arrCntClr src die.val))

/-- ARR_QCNT_CLR (R157). -/
def execArrQcntClr (src : Source) (die : Fin 8) (s : State) : Host.Outcome State Fault Refusal :=
  s.through src (s.work Ev.none (arrQcntClr src die.val))

/-- ARR_QHIST_CLR (R157). -/
def execArrQhistClr (src : Source) (die : Fin 8) (mask : Fin 256) (s : State) : Host.Outcome State Fault Refusal :=
  s.through src (s.work Ev.none (arrQhistClr src die.val mask.val))

/-- COAT_TILE_START (R161). -/
def execCoatTileStart (die : Fin 8) (tile : Nat) (s : State) : Host.Outcome State Fault Refusal :=
  s.work Ev.none (coatTileStart die.val tile)

/-- COAT_TILE_COMMIT (R168). -/
def execCoatTileCommit (die : Fin 8) (tile : Nat) (fail : Option CheckFail) (s : State) : Host.Outcome State Fault Refusal :=
  s.work (checkEv die.val fail) (coatTileCommit die.val tile fail)

/-- LANE_RETIREMENT (R196). -/
def execLaneRetirement (die : Fin 8) (s : State) : Host.Outcome State Fault Refusal := s.work Ev.none (retireLane die.val)

/-- COAT_CNT_CLR (Table 05-11). -/
def execCoatCntClr (src : Source) (die : Fin 8) (s : State) : Host.Outcome State Fault Refusal :=
  s.through src (s.work Ev.none (coatCntClr src die.val))

end Sys2Proof.Machine
end

