-- ==== Sys2Proof/Machine/AnvRecord.lean ====
section
/-! DEFINITION. What an Anvil solve reports (spec 07_anvil_solver.md, R281, R282, R286): the result record, KIND_INFO16 and DETAIL, and the end of every started
solve, its return or another unit's doing. -/

namespace Sys2Proof.Machine

/-- The solve in progress on Anvil `h`. -/
def Pkg.solve (p : Pkg) (h : Nat) : Option AnvSolve := assoc? p.anvils h

/-- Put a solve back. -/
def Pkg.setSolve (p : Pkg) (h : Nat) (s : AnvSolve) : Pkg := { p with anvils := assocPut p.anvils h s }

/-- State of an Anvil as `ANV_STATE` shows it. -/
def Pkg.anvState (p : Pkg) (h st : Nat) : Pkg := p.setFld (Reg.ANV_STATUS h) Fld.ANV_STATE st

/-- The norm of a solve that computed none, in a record: the canonical NaN (Table 07-10). -/
def noNorm : Nat := 0x7ff8000000000000

/-- The 64-byte result record (Table 07-10). -/
def resultRecord (s : AnvSolve) (st : Nat) : List Byte :=
  let m := (if s.pivots ≠ 0 then 1 else 0) + (if s.unreliable then 2 else 0) + (if s.tracked then 4 else 0) + (if s.dualToo then 8 else 0) +
    (if s.innerHit then 16 else 0)
  let lp : Bool := s.method ≥ 4
  leBytes 4 s.iters ++ leBytes 4 s.inner ++ leBytes 4 (min 0xffffffff s.pivots) ++ leBytes 2 (sat16 s.retries) ++ leBytes 1 m ++ leBytes 1 st ++
  leBytes 8 (if st = 0x24 then noNorm else s.resid) ++ leBytes 8 s.resid0 ++
  leBytes 8 (if s.ended = some 0x22 ∨ s.ended = some 0x23 then s.cert else if lp then s.primal else 0) ++
  leBytes 8 (if lp then s.dual else 0) ++ leBytes 8 (16 * s.lastIter) ++ leBytes 8 0

/-- KIND_INFO16 and DETAIL of a solve's record (R282). -/
def solveInfo (s : AnvSolve) (r : Run) (st : Nat) : Nat × Nat :=
  ((if s.unreliable then 0x8000 else 0) + (if s.pivots ≠ 0 then 0x4000 else 0) + (if s.tracked then 0x2000 else 0) + min 0xfff s.retries,
   if st = 0x22 then leAt (r.tds.getD 3 []) 0 8 else if st = 0x23 then leAt (r.tds.getD 2 []) 0 8
   else if st = 0x24 then noNorm else s.resid)

/-- What a started solve leaves in its workspace is undefined (R260). -/
def Pkg.scratch (p : Pkg) (e : Env) (r : Run) : Pkg :=
  let f := p.drawFree (leAt r.params 0x18 8)
  (f.2.storeOrHold e (.descriptor r.queue) (leAt r.params 0x10 8) ((List.range (leAt r.params 0x18 8)).map (fun i => Config.freeByte (f.1 + i)))).1

/-- A solve leaves its Anvil, which counts it (R286). -/
def Pkg.dropSolve (p : Pkg) (h : Nat) : Pkg :=
  (({ p with anvils := assocDrop p.anvils h }).anvState h 0).anvCount h (Reg.ANV_CNT_SOLVES h) 1

/-- The result record is written, and the run takes what its completion record carries (R281, R282). -/
def Pkg.reportSolve (p : Pkg) (e : Env) (h : Nat) (s : AnvSolve) (r : Run) : Pkg × Run :=
  let st := chooseStatus r.statuses
  let ki := solveInfo s r st
  ((((p.storeOrHold e (.descriptor r.queue) (leAt r.params 0x20 8) (resultRecord s st)).1.scratch e r).dropSolve h),
    { r with kindInfo := ki.1, detail := ki.2 })

/-- A run that completes while its solve still holds an Anvil, as when a unit was lost or an attempt too many failed: the solve reports and ends
(R281, R282). -/
def Pkg.closeSolve (p : Pkg) (e : Env) (r : Run) : Pkg × Run :=
  match p.anvils.find? (fun x => x.2.queue == r.queue && r.kind == 2) with
  | some x => p.reportSolve e x.1 x.2 r
  | none => (p, r)

end Sys2Proof.Machine
end

