-- ==== Sys2Proof/Machine/Csr.lean ====
section
/-! DEFINITION. A host core's control and status registers, its modes, traps and interrupts, its triggers and its physical memory protection (spec
09_host_cores_and_qvx.md, R327, R330, R331, R339, R359, Table 09-2). Numbers and layouts are those of the published RISC-V privileged, advanced-interrupt
and debug specifications that R330 names (PRESUMED, in the assumption log). -/

namespace Sys2Proof.Machine

/-! ### Numbers -/

abbrev csrMstatus : Nat := 0x300
abbrev csrMedeleg : Nat := 0x302
abbrev csrMideleg : Nat := 0x303
abbrev csrMie : Nat := 0x304
abbrev csrMtvec : Nat := 0x305
abbrev csrMcounteren : Nat := 0x306
abbrev csrMenvcfg : Nat := 0x30a
abbrev csrMcountinhibit : Nat := 0x320
abbrev csrMepc : Nat := 0x341
abbrev csrMcause : Nat := 0x342
abbrev csrMtval : Nat := 0x343
abbrev csrMip : Nat := 0x344
abbrev csrStvec : Nat := 0x105
abbrev csrScounteren : Nat := 0x106
abbrev csrSenvcfg : Nat := 0x10a
abbrev csrSepc : Nat := 0x141
abbrev csrScause : Nat := 0x142
abbrev csrStval : Nat := 0x143
abbrev csrSatp : Nat := 0x180
abbrev csrTselect : Nat := 0x7a0
abbrev csrTcontrol : Nat := 0x7a5

/-- Where `tdata1` and `tdata2` of trigger `k` stand among the registers. -/
def trigKey (k which : Nat) : Nat := 0x20000 + 4 * k + which

/-- Where an IMSIC file's indirect register stands among the registers: the M-level file's, or the S-level file's. -/
def imsicKey (s : Bool) (sel : Nat) : Nat := (if s then 0x11000 else 0x10000) + sel

/-- Replace bits [hi:lo] of a number. -/
def putBits (n hi lo v : Nat) : Nat := n - bitsOf n hi lo * 2 ^ lo + v % 2 ^ (hi + 1 - lo) * 2 ^ lo

/-- Bits of `new` where the mask has ones, of `old` elsewhere. -/
def mergeBits (old new mask : Nat) : Nat := (old ^^^ (old &&& mask)) ||| (new &&& mask)

/-- What a register holds at reset: 64-bit modes in `mstatus`, no trigger set. -/
def csrReset (n : Nat) : Nat :=
  if n = csrMstatus then 0xa00000000 else if 0x20000 ≤ n ∧ n < 0x20010 ∧ n % 4 = 1 then 0xf000000000000000 else 0

/-- A core at reset: machine mode, XS Off, every QVX register, predicate and SAT bit zero (R339). -/
def Core.reset : Core := ⟨[], [], [], [], false, 0, 0, 0, [], [], none, none, false, 3, 0, []⟩

/-- A register as it is held. -/
def Core.csrNat (c : Core) (n : Nat) : Nat := ((assoc? c.csr n).map BitVec.toNat).getD (csrReset n)

/-- Set a register as it is held. -/
def Core.setCsr (c : Core) (n v : Nat) : Core := { c with csr := assocPut c.csr n (BitVec.ofNat 64 v) }

/-- A bit of `mstatus`. -/
def Core.ms (c : Core) (i : Nat) : Bool := (c.csrNat csrMstatus).testBit i

/-- `mstatus`.FS is not Off. -/
def Core.floatOn (c : Core) : Bool := bitsOf (c.csrNat csrMstatus) 14 13 != 0

/-- The float registers or `fcsr` are written: FS becomes Dirty. -/
def Core.floatDirty (c : Core) : Core := c.setCsr csrMstatus (putBits (c.csrNat csrMstatus) 14 13 3)

/-! ### The IMSIC (Table 09-2: two files of 255 identities) -/

/-- Identities pending in a file. -/
def Core.fileIds (c : Core) (s : Bool) : List Nat := if s then c.imsicS else c.imsicM

/-- Replace the identities pending in a file. -/
def Core.setFile (c : Core) (s : Bool) (ids : List Nat) : Core := if s then { c with imsicS := ids } else { c with imsicM := ids }

/-- An identity is enabled in a file. -/
def Core.identOn (c : Core) (s : Bool) (i : Nat) : Bool := (c.csrNat (imsicKey s (0xc0 + 2 * (i / 64)))).testBit (i % 64)

/-- The lowest identity of a file that is pending, enabled and below the threshold; 0 for none. -/
def Core.topIdent (c : Core) (s : Bool) : Nat :=
  let th := c.csrNat (imsicKey s 0x72)
  (((c.fileIds s).filter (fun i => c.identOn s i && (th == 0 || i < th))).foldl (fun (m : Nat) i => if m = 0 then i else min m i) 0)

/-- A file signals an external interrupt. -/
def Core.signals (c : Core) (s : Bool) : Bool := c.csrNat (imsicKey s 0x70) == 1 && c.topIdent s != 0

/-- `mip`: external interrupts from the files, the rest as software left it. -/
def Core.mip (c : Core) : Nat :=
  (c.csrNat csrMip ||| (if c.signals false then 2 ^ 11 else 0)) ||| (if c.signals true then 2 ^ 9 else 0)

/-- The major interrupt of a level that is pending and enabled, in the default order; 0 for none. -/
def Core.topMajor (c : Core) (s : Bool) : Nat :=
  ([11, 3, 7, 9, 1, 5].find? (fun i => c.mip.testBit i && (c.csrNat csrMie).testBit i && (c.csrNat csrMideleg).testBit i == s)).getD 0

/-- The interrupt a core takes: handled in S-mode or not, and its cause. -/
def Core.dueInterrupt (c : Core) : Option (Bool × Nat) :=
  if c.topMajor false ≠ 0 && (c.mode < 3 || c.ms 3) then some (false, c.topMajor false)
  else if c.topMajor true ≠ 0 && (c.mode < 1 || (c.mode == 1 && c.ms 1)) then some (true, c.topMajor true)
  else none

/-! ### Traps -/

/-- The handler's address: an interrupt under the vectored mode goes to its own entry. -/
def trapVector (tvec : Nat) (intr : Bool) (cause : Nat) : Nat := tvec / 4 * 4 + (if intr && tvec % 4 == 1 then 4 * cause else 0)

/-- The code in a cause register. -/
def causeCode (intr : Bool) (cause : Nat) : Nat := (if intr then 2 ^ 63 else 0) + cause

/-- Enter a handler: the address and cause are saved, interrupts are disabled, the mode that was left is kept. -/
def Core.enter (c : Core) (toS intr : Bool) (cause value pc : Nat) : Core :=
  let ms := c.csrNat csrMstatus
  let back := pc / 2 * 2
  if toS then
    let ms1 := putBits (putBits (putBits ms 8 8 c.mode) 5 5 (bit ms 1)) 1 1 0
    { (((c.setCsr csrMstatus ms1).setCsr csrSepc back).setCsr csrScause (causeCode intr cause)).setCsr csrStval value with
      mode := 1, pc := trapVector (c.csrNat csrStvec) intr cause }
  else
    let ms1 := putBits (putBits (putBits ms 12 11 c.mode) 7 7 (bit ms 3)) 3 3 0
    let tc := c.csrNat csrTcontrol
    { ((((c.setCsr csrMstatus ms1).setCsr csrMepc back).setCsr csrMcause (causeCode intr cause)).setCsr csrMtval value).setCsr csrTcontrol
        (putBits (putBits tc 7 7 (bit tc 3)) 3 3 0) with
      mode := 3, pc := trapVector (c.csrNat csrMtvec) intr cause }

/-- Take an exception. One from S or U mode is handled in S-mode where `medeleg` says so; its bit 24 reads zero, so cause 24 goes to M-mode (R359). -/
def Core.takeTrap (c : Core) (cause value pc : Nat) : Core :=
  { c.enter (c.mode ≤ 1 && (c.csrNat csrMedeleg).testBit cause) false cause value pc with trap := some (cause, value) }

/-- MRET. -/
def Core.mret (c : Core) : Core :=
  let ms := c.csrNat csrMstatus
  let mpp := bitsOf ms 12 11
  let ms1 := putBits (putBits (putBits ms 3 3 (bit ms 7)) 7 7 1) 12 11 0
  let tc := c.csrNat csrTcontrol
  { (c.setCsr csrMstatus (if mpp = 3 then ms1 else putBits ms1 17 17 0)).setCsr csrTcontrol (putBits tc 3 3 (bit tc 7)) with
    mode := mpp, pc := c.csrNat csrMepc }

/-- SRET. -/
def Core.sret (c : Core) : Core :=
  let ms := c.csrNat csrMstatus
  { c.setCsr csrMstatus (putBits (putBits (putBits (putBits ms 1 1 (bit ms 5)) 5 5 1) 17 17 0) 8 8 0) with
    mode := bit ms 8, pc := c.csrNat csrSepc }

/-! ### Which registers there are -/

/-- Counters whose values the spec does not fix: cycles, instructions and the 16 programmable ones. -/
def csrCounts (n : Nat) : Bool :=
  n == 0xb00 || n == 0xb02 || n == 0xc00 || n == 0xc02 || (0xb03 ≤ n && n ≤ 0xb12) || (0xc03 ≤ n && n ≤ 0xc12)

/-- The registers of Table 09-2's options. -/
def csrExists (n : Nat) : Bool :=
  csrCounts n || n == 0xc01 || (0xb13 ≤ n && n ≤ 0xb1f) || (0xc13 ≤ n && n ≤ 0xc1f) || (0x323 ≤ n && n ≤ 0x33f) || (0x3b0 ≤ n && n ≤ 0x3bf) ||
  [0x001, 0x002, 0x003, 0x100, 0x104, csrStvec, csrScounteren, csrSenvcfg, 0x140, csrSepc, csrScause, csrStval, 0x144, 0x150, 0x151, 0x15c, csrSatp,
    0xdb0, csrMstatus, 0x301, csrMedeleg, csrMideleg, csrMie, csrMtvec, csrMcounteren, 0x308, 0x309, csrMenvcfg, csrMcountinhibit, 0x340, csrMepc,
    csrMcause, csrMtval, csrMip, 0x350, 0x351, 0x35c, 0x3a0, 0x3a2, csrTselect, 0x7a1, 0x7a2, 0x7a3, 0x7a4, csrTcontrol, 0xf11, 0xf12, 0xf13, 0xf14,
    0xf15, 0xfb0].contains n

/-- Indirect registers of a file that a selection reaches: priorities, delivery, threshold, pending and enable words of even number. -/
def selExists (sel : Nat) : Bool :=
  sel == 0x70 || sel == 0x72 || ((0x30 ≤ sel && sel ≤ 0x3f || 0x80 ≤ sel && sel ≤ 0xff) && sel % 2 == 0)

/-- The file's selection behind `mireg` or `sireg`. -/
def Core.selOf (c : Core) (s : Bool) : Nat := c.csrNat (if s then 0x150 else 0x350)

/-- A counter is readable in the core's mode. -/
def Core.counterOn (c : Core) (n : Nat) : Bool :=
  (c.mode == 3 || (c.csrNat csrMcounteren).testBit (n % 32)) && (c.mode != 0 || (c.csrNat csrScounteren).testBit (n % 32))

/-- An access to a register is legal: it exists, the mode may reach it, a write is not to a read-only one, and its own condition holds. -/
def Core.csrLegal (c : Core) (n : Nat) (writes : Bool) : Bool :=
  csrExists n && bitsOf n 9 8 ≤ c.mode && !(writes && bitsOf n 11 10 == 3) &&
  (!(0xc00 ≤ n && n ≤ 0xc1f) || c.counterOn n) && !(n == csrSatp && c.mode == 1 && c.ms 20) && (!(1 ≤ n && n ≤ 3) || c.floatOn) &&
  (n != 0x351 || selExists (c.selOf false)) && (n != 0x151 || selExists (c.selOf true))

/-! ### Reading -/

/-- `mstatus` with XS and SD. -/
def Core.mstatus (c : Core) : Nat :=
  let m := putBits (c.csrNat csrMstatus) 16 15 c.xs
  putBits m 63 63 (if c.xs = 3 ∨ bitsOf m 14 13 = 3 then 1 else 0)

/-- The bits of `mstatus` that `sstatus` shows. -/
abbrev sstatusMask : Nat := 0x80000003000de122

/-- Pending identities of a word of 64, as bits. -/
def pendingWord (ids : List Nat) (k : Nat) : Nat := ids.foldl (fun (a : Nat) i => if i / 64 = k then a ||| 2 ^ (i % 64) else a) 0

/-- An indirect register of a file. -/
def Core.indirect (c : Core) (s : Bool) (sel : Nat) : Nat :=
  if 0x80 ≤ sel && sel < 0xc0 then pendingWord (c.fileIds s) ((sel - 0x80) / 2)
  else if sel = 0x70 ∨ sel = 0x72 ∨ 0xc0 ≤ sel then c.csrNat (imsicKey s sel)
  else 0

/-- What a register reads as, the counters aside. `time` is hall time in nanoseconds (Table 09-2, R331); `mhartid` is the core's number (R327). -/
def Core.csrRead (c : Core) (e : Env) (g n : Nat) : Nat :=
  let ident (s : Bool) : Nat := let i := c.topIdent s; i * 65536 + i
  let major (s : Bool) : Nat := let i := c.topMajor s; if i = 0 then 0 else i * 65536 + 1
  let trig (w : Nat) : Nat := c.csrNat (trigKey (c.csrNat csrTselect) w)
  match n with
  | 0x001 => c.fflags
  | 0x002 => c.frm
  | 0x003 => c.frm * 32 + c.fflags
  | 0x100 => c.mstatus &&& sstatusMask
  | 0x104 => c.csrNat csrMie &&& c.csrNat csrMideleg
  | 0x144 => c.mip &&& c.csrNat csrMideleg
  | 0x151 => c.indirect true (c.selOf true)
  | 0x15c => ident true
  | 0xdb0 => major true
  | 0x300 => c.mstatus
  | 0x301 => 0x800000000094112d
  | 0x344 => c.mip
  | 0x351 => c.indirect false (c.selOf false)
  | 0x35c => ident false
  | 0xfb0 => major false
  | 0x7a1 => trig 1
  | 0x7a2 => trig 2
  | 0x7a3 => 0
  | 0x7a4 => 0x8040
  | 0xc01 => e.hall
  | 0xf11 => 0
  | 0xf12 => 0x8000000000000c1a
  | 0xf13 => 0x10
  | 0xf14 => g
  | 0xf15 => 0
  | _ => c.csrNat n

/-! ### Writing -/

/-- Physical-memory-protection entry `i`: its configuration byte. -/
def Core.pmpCfg (c : Core) (i : Nat) : Nat := bitsOf (c.csrNat (0x3a0 + 2 * (i / 8))) (8 * (i % 8) + 7) (8 * (i % 8))

/-- An entry is locked. -/
def Core.pmpLocked (c : Core) (i : Nat) : Bool := i < 16 && (c.pmpCfg i).testBit 7

/-- A configuration byte as a write leaves it: a locked one stays; write without read is reserved and keeps the old permissions; under a granularity of
4 KiB the mode of a 4-byte region cannot be chosen. -/
def pmpByte (old new : Nat) : Nat :=
  if old.testBit 7 then old
  else
    let x := new &&& 0x9f
    let y := if bitsOf x 1 0 = 2 then putBits x 2 0 (bitsOf old 2 0) else x
    if bitsOf y 4 3 = 2 then putBits y 4 3 (bitsOf old 4 3) else y

/-- A configuration register of eight entries. -/
def pmpWord (old new : Nat) : Nat :=
  (List.range 8).foldl (fun (a : Nat) i => a + pmpByte (bitsOf old (8 * i + 7) (8 * i)) (bitsOf new (8 * i + 7) (8 * i)) * 2 ^ (8 * i)) 0

/-- `mstatus` as a write leaves it: a reserved MPP keeps the old mode. -/
def Core.putStatus (c : Core) (v mask : Nat) : Core :=
  let old := c.csrNat csrMstatus
  let v1 := if bitsOf v 12 11 = 2 then putBits v 12 11 (bitsOf old 12 11) else v
  { c.setCsr csrMstatus (mergeBits old v1 (mask &&& 0x7e79aa)) with xs := bitsOf v 16 15 }

/-- A block-operation field keeps its old code where the new one is reserved (Table 09-2: 0b01 and 0b11, beside off). -/
def putEnv (old v mask : Nat) : Nat :=
  let v1 := if bitsOf v 5 4 = 2 then putBits v 5 4 (bitsOf old 5 4) else v
  v1 &&& mask

/-- Write an indirect register of a file. -/
def Core.putIndirect (c : Core) (s : Bool) (sel v : Nat) : Core :=
  if sel = 0x70 then (if v ≤ 1 then c.setCsr (imsicKey s sel) v else c)
  else if sel = 0x72 then c.setCsr (imsicKey s sel) (v % 256)
  else if 0x80 ≤ sel && sel < 0xc0 then
    let k := (sel - 0x80) / 2
    c.setFile s (rangeFilter 256 (fun i => i != 0 && (if i / 64 = k then v.testBit (i % 64) else (c.fileIds s).contains i)))
  else if 0xc0 ≤ sel && sel ≤ 0xc6 then c.setCsr (imsicKey s sel) (if sel = 0xc0 then v / 2 * 2 else v)
  else c

/-- A write of a claim register clears the identity that it shows. -/
def Core.claim (c : Core) (s : Bool) : Core := c.setFile s ((c.fileIds s).filter (fun i => i ≠ c.topIdent s))

/-- `tdata1` as a write leaves it: an address match of type 6 with action 0, or disabled. -/
def trigData (v : Nat) : Nat := if bitsOf v 63 60 = 6 then 6 * 2 ^ 60 + (v &&& 0x5f) else 0xf000000000000000

/-- Write a register; reserved values are replaced by legal ones. -/
def Core.csrWrite (c : Core) (n v : Nat) : Core :=
  let keep (mask : Nat) : Core := c.setCsr n (v &&& mask)
  let sel := c.csrNat csrTselect
  match n with
  | 0x001 => { c.floatDirty with fflags := v % 32 }
  | 0x002 => { c.floatDirty with frm := v % 8 }
  | 0x003 => { c.floatDirty with fflags := v % 32, frm := v / 32 % 8 }
  | 0x100 => c.putStatus (mergeBits c.mstatus v sstatusMask) sstatusMask
  | 0x104 => c.setCsr csrMie (mergeBits (c.csrNat csrMie) v (c.csrNat csrMideleg))
  | 0x144 => c.setCsr csrMip (mergeBits (c.csrNat csrMip) v (c.csrNat csrMideleg &&& 2))
  | 0x105 => if v % 4 ≤ 1 then c.setCsr n v else c.setCsr n (v / 4 * 4 + c.csrNat n % 4)
  | 0x106 => keep 0x7ffff
  | 0x10a => c.setCsr n (putEnv (c.csrNat n) v 0xf1)
  | 0x141 => keep (2 ^ 64 - 2)
  | 0x150 => keep 0xfff
  | 0x151 => c.putIndirect true (c.selOf true) v
  | 0x15c => c.claim true
  | 0x180 => if bitsOf v 63 60 = 0 ∨ bitsOf v 63 60 = 8 ∨ bitsOf v 63 60 = 9 then c.setCsr n v else c
  | 0x300 => c.putStatus v 0x7e79aa
  | 0x301 => c
  | 0x302 => keep 0xb3ff
  | 0x303 => keep 0x222
  | 0x304 => keep 0xaaa
  | 0x305 => if v % 4 ≤ 1 then c.setCsr n v else c.setCsr n (v / 4 * 4 + c.csrNat n % 4)
  | 0x306 => keep 0x7ffff
  | 0x308 => c
  | 0x309 => c
  | 0x30a => c.setCsr n (putEnv (c.csrNat n) v (0xf1 + 2 ^ 62))
  | 0x320 => keep 0x7fffd
  | 0x341 => keep (2 ^ 64 - 2)
  | 0x344 => keep 0x222
  | 0x350 => keep 0xfff
  | 0x351 => c.putIndirect false (c.selOf false) v
  | 0x35c => c.claim false
  | 0x3a0 => c.setCsr n (pmpWord (c.csrNat n) v)
  | 0x3a2 => c.setCsr n (pmpWord (c.csrNat n) v)
  | 0x7a0 => if v < 4 then c.setCsr n v else c
  | 0x7a1 => c.setCsr (trigKey sel 1) (trigData v)
  | 0x7a2 => c.setCsr (trigKey sel 2) v
  | 0x7a3 => c
  | 0x7a4 => c
  | 0x7a5 => keep 0x88
  | _ =>
    if 0x3b0 ≤ n ∧ n ≤ 0x3bf then
      let i := n - 0x3b0
      if c.pmpLocked i || (c.pmpLocked (i + 1) && bitsOf (c.pmpCfg (i + 1)) 4 3 == 1) then c else keep (2 ^ 54 - 1)
    else if csrCounts n ∨ (0xb13 ≤ n ∧ n ≤ 0xb1f) ∨ (0x333 ≤ n ∧ n ≤ 0x33f) then c
    else c.setCsr n v

/-! ### Physical memory protection (Table 09-2: 16 entries, granularity 4 KiB) -/

/-- What an access does. -/
inductive AccKind where
  | load | store | fetch
  /-- a block operation, which a readable or a writable page admits -/
  | block
  deriving DecidableEq, Repr

/-- The bytes that an entry covers, as first and past-the-last address. -/
def Core.pmpRange (c : Core) (i : Nat) : Nat × Nat :=
  let a := c.csrNat (0x3b0 + i) / 1024 * 1024
  match bitsOf (c.pmpCfg i) 4 3 with
  | 1 => (if i = 0 then 0 else c.csrNat (0x3b0 + i - 1) / 1024 * 4096, a * 4)
  | 3 =>
    -- ones from bit 0 up give the size: the granularity makes bits [8:0] read as ones
    let x := c.csrNat (0x3b0 + i) ||| 0x1ff
    let t := (List.range 54).foldl (fun (k : Nat) j => if k = j && x.testBit j then k + 1 else k) 0
    (x / 2 ^ (t + 1) * 2 ^ (t + 3), (x / 2 ^ (t + 1) + 1) * 2 ^ (t + 3))
  | _ => (0, 0)

/-- Physical memory protection admits an access of `n` bytes in a mode: the first entry that covers any of its bytes must cover all and permit it; with
no entry, M-mode alone has access. -/
def Core.pmpAdmits (c : Core) (mode a n : Nat) (k : AccKind) : Bool :=
  match (List.range 16).find? (fun i => let r := c.pmpRange i; a < r.2 && r.1 < a + n) with
  | none => mode == 3
  | some i =>
    let r := c.pmpRange i
    let f := c.pmpCfg i
    r.1 ≤ a && a + n ≤ r.2 &&
    ((mode == 3 && !f.testBit 7) || (match k with
      | .load => f.testBit 0 | .store => f.testBit 1 | .fetch => f.testBit 2 | .block => f.testBit 0 || f.testBit 1))

/-- The mode in which an access is made: MPRV lends data accesses the mode of MPP. -/
def Core.accMode (c : Core) (k : AccKind) : Nat := if k != .fetch && c.ms 17 then bitsOf (c.csrNat csrMstatus) 12 11 else c.mode

/-! ### Triggers (Table 09-2: Sdtrig with 4 triggers) -/

/-- A trigger fires on an access at an address: an enabled address match of type 6; in M-mode only under `tcontrol`.MTE. -/
def Core.trigFires (c : Core) (k : AccKind) (va : Nat) : Bool :=
  (c.mode != 3 || (c.csrNat csrTcontrol).testBit 3) &&
  (List.range 4).any (fun i =>
    let d := c.csrNat (trigKey i 1)
    bitsOf d 63 60 == 6 && c.csrNat (trigKey i 2) == va && d.testBit (if c.mode = 3 then 6 else if c.mode = 1 then 4 else 3) &&
    (match k with | .load => d.testBit 0 | .store => d.testBit 1 | .fetch => d.testBit 2 | .block => false))

end Sys2Proof.Machine
end

