-- ==== Sys2Proof/Machine/Cores.lean ====
section
/-! DEFINITION. Host cores' registers, the exceptions they take and their machine-check records (spec 09_host_cores_and_qvx.md, R330, R332,
R334, R339, R359 to R361). -/

namespace Sys2Proof.Machine

/-- Core `g`. -/
def Pkg.core (p : Pkg) (g : Nat) : Core := (assoc? p.cores g).getD Core.reset

/-- Set core `g`. -/
def Pkg.setCore (p : Pkg) (g : Nat) (c : Core) : Pkg := { p with cores := assocPut p.cores g c }

/-- Integer register `r`; x0 reads zero. -/
def Core.xReg (c : Core) (r : Nat) : W64 := if r = 0 then 0 else (assoc? c.x r).getD 0

/-- Write integer register `r`; x0 discards the result (R345). -/
def Core.setX (c : Core) (r : Nat) (w : W64) : Core := if r = 0 then c else { c with x := assocPut c.x r w }

/-- Float register `r`. -/
def Core.fReg (c : Core) (r : Nat) : W64 := (assoc? c.f r).getD 0

/-- Write float register `r`. -/
def Core.setF (c : Core) (r : Nat) (w : W64) : Core := { c with f := assocPut c.f r w }.floatDirty

/-- Vector register `r`. -/
def Core.vReg (c : Core) (r : Nat) : VecWord := (assoc? c.v r).getD 0

/-- Write vector register `r`: XS becomes Dirty (R339). -/
def Core.setV (c : Core) (r : Nat) (w : VecWord) : Core := { c with v := assocPut c.v r w, xs := 3 }

/-- Predicate `r`; p0 reads as all ones (Table 09-4). -/
def Core.pReg (c : Core) (r : Nat) : PredWord := if r = 0 then BitVec.allOnes 128 else (assoc? c.p r).getD 0

/-- Write predicate `r`: p0 ignores writes, and XS becomes Dirty (R339). -/
def Core.setP (c : Core) (r : Nat) (w : PredWord) : Core :=
  if r = 0 then { c with xs := 3 } else { c with p := assocPut c.p r w, xs := 3 }

/-- Causes of the base's exceptions and the custom cause 24 (Table 09-2, R359). -/
abbrev causeFetchFault : Nat := 1
abbrev causeIllegal : Nat := 2
abbrev causeBreakpoint : Nat := 3
abbrev causeLoadMisaligned : Nat := 4
abbrev causeLoadFault : Nat := 5
abbrev causeStoreMisaligned : Nat := 6
abbrev causeStoreFault : Nat := 7
abbrev causeFetchPage : Nat := 12
abbrev causeLoadPage : Nat := 13
abbrev causeStorePage : Nat := 15
abbrev causeHardware : Nat := 24

/-- A core takes an exception of an instruction, which has not completed: its address is saved, a free value where no command names it (R359). -/
def Pkg.trapCore (p : Pkg) (g cause value : Nat) (pc : Option Nat) : Pkg :=
  match pc with
  | some x => p.setCore g ((p.core g).takeTrap cause value x)
  | none => let f := p.drawFree 1; f.2.setCore g ((p.core g).takeTrap cause value (Config.freeWord f.1).toNat)

/-- The host die and local number of a core. -/
def coreDie (g : Nat) : Nat := 16 + g / 36

/-- The unit code of a core (Table 14-1). -/
def coreUnit (g : Nat) : Nat := 0xe000 + g % 36

/-- Event class of a machine-check kind (Table 09-12); 0 when it is no event. -/
def hostClass (kind : Nat) : Nat := if kind = 1 then 8 else if kind = 5 ∨ kind = 6 ∨ kind = 7 then 0 else 4

/-- Precedence of a machine-check kind within a beat: its event class, after every class when it is no event (R361). -/
def hostRank (kind : Nat) : Nat := if hostClass kind = 0 then 13 else hostClass kind

/-- A core's machine-check record takes an error, and a recorded error is logged (R359, R360, Table 16-11). An error that arrives while a
record is held sets OVER and is not recorded, unless the held record is of kind 1 or of this beat and of lower precedence (R361, Table
09-15). An uncorrectable memory error is the memory's event under R322, so its record is logged with that class and is no second event. -/
def Pkg.hostRecord (p : Pkg) (e : Env) (g kind unit line reason : Nat) (restart async : Bool) : Pkg :=
  let h := g / 36
  let c := g % 36
  let st := Reg.RAS_HMC_STATUS h c
  let old := p.fld st Fld.RAS_HMC_KIND
  let sameBeat : Bool := p.regNat (Reg.RAS_HMC_TIME h c) == e.tagHall
  let ahead : Bool := hostRank kind < hostRank old || (hostRank kind == hostRank old && unit < p.fld st Fld.RAS_HMC_UNIT)
  let cls := hostClass kind
  if p.on st Fld.RAS_HMC_VALID && !(old == 1 && kind ≥ 2) && !(sameBeat && ahead) then
    let q := p.setFld st Fld.RAS_HMC_OVER 1
    if cls = 0 ∨ kind = 3 then q else q.rasCount (if cls = 8 then Reg.RAS_CNT_DETECTED else Reg.RAS_CNT_UNCORR) 1
  else
    let p1 :=
      (((((((p.setReg st 0).setFld st Fld.RAS_HMC_VALID 1).setFld st Fld.RAS_HMC_RESTART (if restart then 1 else 0)).setFld st
        Fld.RAS_HMC_ASYNC (if async then 1 else 0)).setFld st Fld.RAS_HMC_KIND kind).setFld st Fld.RAS_HMC_UNIT unit).setNat
        (Reg.RAS_HMC_ADDR h c) (if kind = 4 then 0 else line / 256 % 2 ^ 48 * 256)).setNat (Reg.RAS_HMC_TIME h c) e.tagHall
        |>.setReg (Reg.RAS_HMC_INFO h c) 0 |>.setFld (Reg.RAS_HMC_INFO h c) Fld.RAS_HMC_REASON reason
    let data := leBytes 4 g ++ leBytes 4 (p1.regNat st) ++ leBytes 8 (p1.regNat (Reg.RAS_HMC_ADDR h c))
    if cls = 0 then p1.record (coreDie g) (coreUnit g) 0xf kind data
    else if kind = 3 then { p1 with raised := p1.raised ++ [⟨false, coreDie g, coreUnit g, cls, 0xf, kind, padTo 28 data⟩] }
    else p1.event cls (coreDie g) (coreUnit g) 0xf kind data

/-- The access fault of an access. -/
def AccKind.fault (k : AccKind) : Nat := match k with | .load => causeLoadFault | .fetch => causeFetchFault | _ => causeStoreFault

/-- The page fault of an access. -/
def AccKind.pageFault (k : AccKind) : Nat := match k with | .load => causeLoadPage | .fetch => causeFetchPage | _ => causeStorePage

/-- A core's access takes an access fault with a record of a kind: 5 for a hole, a malformed address, a refused aperture or register access,
6 and 7 for a fabric refusal and an unknown outcome (R332, R334 to R336). Unit 8 is the load/store path and 10 the fabric. -/
def Pkg.accessFault (p : Pkg) (e : Env) (g kind reason : Nat) (k : AccKind) (x : HostAt) : Pkg :=
  (p.hostRecord e g kind (if kind = 5 then 8 else 10) x.pa reason false false).trapCore g k.fault x.va x.pc

/-- A register access of a core's command that names no instruction and breaks R334: the address of the register is all that is known of it. -/
def Pkg.registerFault (p : Pkg) (e : Env) (g off : Nat) : Pkg :=
  p.accessFault e g 5 0 .store ⟨none, 0x30000000000 + off, 0x30000000000 + off⟩

/-- A core takes the exception of a failed access: an uncorrectable error is cause 24, restartable; a page fault and an access that protection denies
are no errors of Table 09-12 (R359). -/
def Pkg.hostFault (p : Pkg) (e : Env) (g : Nat) (f : HostFail) (k : AccKind) (x : HostAt) : Pkg :=
  match f with
  | .check => (p.hostRecord e g 3 9 x.pa 0 true false).trapCore g causeHardware x.va x.pc
  | .page => p.trapCore g k.pageFault x.va x.pc
  | .denied => p.trapCore g k.fault x.va x.pc
  | .access => p.accessFault e g 5 0 k x

/-- An illegal-instruction exception (R339, R344). -/
def Pkg.illegal (p : Pkg) (g pc : Nat) : Pkg := p.trapCore g causeIllegal 0 (some pc)

end Sys2Proof.Machine
end

