-- ==== Sys2Proof/Machine/DspCmds.lean ====
section
/-! DEFINITION. The dispatchers' commands on queues, flags, deadlines, wait cycles and completions (spec 06_descriptor_streams.md, R202 to
R216, R226, R227, R233 to R236; 13_time_and_determinism.md, R471; 14_faults_replay_and_sparing.md, R479). -/

namespace Sys2Proof.Machine

/-! ### Doorbells -/

/-- The count of R234 restarts at this beat: a doorbell, an enable, a resume, a flush or a commit of the context was sampled. -/
def Pkg.restartCount (p : Pkg) (c : Nat) : Pkg := p.setCtxSt c { p.ctxSt c with cycleCount := 0, restart := true }

/-- A refused doorbell changes nothing but `DSP_Q_DBERR` and the log (R202). -/
def Pkg.refuseBell (p : Pkg) (src : Source) (q off v : Nat) : Pkg :=
  (p.setFld (Reg.DSP_QSTATUS q) Fld.DSP_Q_DBERR 1).refuse (p.leadDie (p.queueCtx q)) 3 src off v

/-- TAIL, CHEAD and HEAD as a write would leave them lie in the ranges of R202 for the register written. -/
def bellOk (slots tail chead head : Nat) (isTail anyOf : Bool) : Bool :=
  (!isTail || seqDiff tail chead ≤ slots) &&
  (!(isTail || anyOf) || seqDiff tail head < 2 ^ 31) &&
  (isTail && !anyOf || !(1 ≤ seqDiff chead head && seqDiff chead head < 2 ^ 31))

/-- A doorbell covers the descriptors up to a tail value at a beat (R471). -/
def Pkg.cover (p : Pkg) (q tail beat : Nat) : Pkg :=
  let s := p.queueSt q
  p.setQueueSt q { s with covers := s.covers ++ [(tail, beat)] }

/-- A write of `DSP_QTAIL_q` (R202, R204). -/
def tailBell (src : Source) (q v : Nat) (e : Env) (p : Pkg) : Pkg :=
  let off := p.queueEnabled q
  if bellOk (p.ringSlots q) v (p.chead q) (p.head q) true (!off) then
    ((p.setNat (Reg.DSP_QTAIL q) v).cover q v e.tag).restartCount (p.queueCtx q)
  else p.refuseBell src q (Reg.DSP_QTAIL q) v

/-- A 32-bit pointer of a queue takes a write in the order of its cycle (R31). -/
def Pkg.bell (p : Pkg) (src : Source) (key value : Nat) (act : Nat → Pkg → Pkg) : Pkg :=
  p.inOrder (sourceDie src key) key (BitVec.ofNat 64 (2 ^ 32 - 1)) (BitVec.ofNat 64 (value % 2 ^ 32)) (fun s => s.reg key)
    (fun w s => act (w.toNat % 2 ^ 32) s)

/-- TAIL_DOORBELL: a write of `DSP_QTAIL_q` (R31, R202). -/
def tailDoorbell (src : Source) (q value : Nat) (e : Env) (p : Pkg) : Pkg :=
  p.bell src (Reg.DSP_QTAIL q) value (fun v s => tailBell src q v e s)

/-- A write of `DSP_QCHEAD_q` (R202). -/
def headBell (src : Source) (q v : Nat) (p : Pkg) : Pkg :=
  if bellOk (p.ringSlots q) (p.tail q) v (p.head q) false (!p.queueEnabled q) then
    (p.setNat (Reg.DSP_QCHEAD q) v).restartCount (p.queueCtx q)
  else p.refuseBell src q (Reg.DSP_QCHEAD q) v

/-- HEAD_DOORBELL: a write of `DSP_QCHEAD_q` (R31, R202). -/
def headDoorbell (src : Source) (q value : Nat) (_ : Env) (p : Pkg) : Pkg :=
  p.bell src (Reg.DSP_QCHEAD q) value (fun v s => headBell src q v s)

/-- A write of `DSP_QHEAD_q` of a disabled queue (R202). -/
def qheadBell (src : Source) (q v : Nat) (p : Pkg) : Pkg :=
  if bellOk (p.ringSlots q) (p.tail q) (p.chead q) v false true then
    (p.setNat (Reg.DSP_QHEAD q) v).setQueueSt q { p.queueSt q with prefetch := none }
  else p.refuseBell src q (Reg.DSP_QHEAD q) v

/-- QHEAD_WRITE: ignored while the queue is enabled (R31, R202, R239). -/
def qheadWrite (src : Source) (q value : Nat) (_ : Env) (p : Pkg) : Pkg :=
  if p.queueEnabled q then p else p.bell src (Reg.DSP_QHEAD q) value (fun v s => qheadBell src q v s)

/-! ### Queue control -/

/-- The first 4 KiB page of a range that is not owned: regions begin and end at such pages (R203). -/
def Pkg.firstUnowned (p : Pkg) (c a n : Nat) : Option Nat :=
  ((List.range (ceilDiv n 4096)).map (fun i => a + 4096 * i)).find? (fun x =>
    match p.regionAt x with | some r => r.owner != c | none => true)

/-- The first address that fails the ring check of R203; a reserved ring size fails at the ring's base. -/
def Pkg.ringFault (p : Pkg) (q : Nat) : Option Nat :=
  let c := p.queueCtx q
  let ring := p.fld (Reg.DSP_QBASE q) Fld.DSP_Q_RING * 4096
  let cpl := p.fld (Reg.DSP_QCPL q) Fld.DSP_Q_CPL * 4096
  if p.fld (Reg.DSP_QBASE q) Fld.DSP_Q_SIZE > 10 then some ring
  else match p.firstUnowned c ring (128 * p.ringSlots q) with
    | some a => some a
    | none => p.firstUnowned c cpl (32 * p.ringSlots q)

/-- Software writes 1 to `DSP_Q_ENABLE` (R198, R203). What the dispatcher read ahead of a disabled queue is dropped. -/
def queueEnable (_src : Source) (q : Nat) (_ : Env) (p : Pkg) : Pkg :=
  let c := p.queueCtx q
  if p.queueEnabled q then p
  else match p.ringFault q with
    | some a => ((p.setFld (Reg.DSP_QSTATUS q) Fld.DSP_Q_RINGERR 1).ringReport q 1 a).restartCount c
    | none =>
      if p.partValid c then
        ((p.setFld (Reg.DSP_QCTRL q) Fld.DSP_Q_ENABLE 1).setQueueSt q { p.queueSt q with prefetch := none, readySince := none }).restartCount c
      else p

/-- Software writes 0 to `DSP_Q_ENABLE`: a running descriptor finishes (Table 06-17). -/
def queueDisable (_src : Source) (q : Nat) (_ : Env) (p : Pkg) : Pkg := p.setFld (Reg.DSP_QCTRL q) Fld.DSP_Q_ENABLE 0

/-- Complete unstarted descriptors of a queue with 0x3F, cause 0x0B, until none is left or a record is withheld (Table 06-17). -/
def Pkg.flushAll (p : Pkg) (e : Env) (q : Nat) : Nat → Pkg
  | 0 => p
  | n + 1 =>
    if p.waitingCount q = 0 then p else
    let h := p.head q
    let p1 := p.completeHead e q (p.headBytes q) 0x3f 0x0b
    if p1.head q = h then p1 else p1.flushAll e q n

/-- Software writes 1 to `DSP_Q_FLUSH` of a halted queue: every unstarted descriptor up to TAIL completes. Those behind a head that still runs follow
it as it completes, since HEAD passes descriptors in order (R200, R206; Table 06-17). -/
def queueFlush (_src : Source) (q : Nat) (e : Env) (p : Pkg) : Pkg :=
  if !p.halted q then p
  else if (p.runOf q).isNone then (p.flushAll e q (p.waitingCount q)).restartCount (p.queueCtx q)
  else p.setQueueSt q { p.queueSt q with flush := some (p.tail q) }

/-- Software writes 1 to `DSP_Q_RESUME` of a halted queue (Table 06-17). -/
def queueResume (_src : Source) (q : Nat) (_ : Env) (p : Pkg) : Pkg :=
  if p.halted q then (p.setQueueSt q { p.queueSt q with halted := false }).restartCount (p.queueCtx q) else p

/-! ### Fetch -/

/-- Read a descriptor from its ring: its bytes, or a cause (R203). -/
def Pkg.fetchSlot (p : Pkg) (e : Env) (q s : Nat) : Pkg × Option Nat × List Byte :=
  let a := p.ringAddr q s
  if !p.rangeOwned (p.queueCtx q) a 128 then (p, some 0x05, [])
  else
    let x := p.touchRange e (.dispatcher (p.queueCtx q)) a 128
    match x.2 with
    | .failed => (x.1, some 0x0a, [])
    | _ => (x.1, none, x.1.viewBytes a 128)

/-- The dispatcher fetches the head of a queue, or the one after a running head, once a doorbell covers it (R201, R203). -/
def descriptorFetch (q : Nat) (e : Env) (p : Pkg) : Pkg :=
  let skip := if (p.runOf q).isSome then 1 else 0
  let s := (p.head q + skip) % 2 ^ 32
  if !p.queueEnabled q || p.waitingCount q ≤ skip || (match (p.queueSt q).prefetch with | some x => x.1 == s | none => false) then p
  else
    let x := p.fetchSlot e q s
    match x.2.1 with
    | none => x.1.setQueueSt q { x.1.queueSt q with prefetch := some (s, x.2.2) }
    | some cause =>
      if skip = 1 then x.1
      else (x.1.ringReport q 2 (p.ringAddr q s)).complete e q s (List.replicate 128 0) (Rec.plain 0x3f cause e.tagHall) none

/-! ### Completion -/

/-- A run's record as it completes: LATE when its deadline passed while it ran (R227), but for an Anvil solve. -/
def Run.finalRecord (r : Run) : Rec :=
  let h := 16 * r.endBeat
  (if r.kind ≠ 2 ∧ deadlinePassed h r.desc then { r with late := true } else r).record h

/-- A started descriptor whose work has ended completes (R121, R213, R236). -/
def Pkg.completeRun (p : Pkg) (e : Env) (q : Nat) : Pkg :=
  match p.runOf q with
  | some r =>
    if r.finished && r.replayOn.isNone then
      let x := p.closeSolve e r
      let p1 := x.1.complete e q r.seq r.desc x.2.finalRecord (some x.2)
      match (p1.queueSt q).flush with
      | some t =>
        let p2 := p1.setQueueSt q { p1.queueSt q with flush := none }
        (p2.flushAll e q (min (p2.waitingCount q) (seqDiff t (p2.head q)))).restartCount r.ctx
      | none => p1
    else p
  | none => p

/-- DESCRIPTOR_COMPLETE, with what reading the dispatcher's copies met (R213, R479). -/
def descriptorComplete (q : Nat) (x : Option CopyError) (e : Env) (p : Pkg) : Pkg :=
  match p.runOf q with
  | none => p
  | some r =>
    if !r.finished || r.replayOn.isSome then p
    else match x with
      | none => p.completeRun e q
      | some c => (p.copyFault e r.ctx (some q) (fun s => s.setNat (Reg.DSP_QHEAD q) 0) c).completeRun e q

/-! ### Flags -/

/-- A write to a flag window is discarded: `DSP_CTX_FWERR`, the context's interrupt and the log (R214, Table 09-11). -/
def Pkg.flagRefused (p : Pkg) (src : Source) (c off v : Nat) : Pkg :=
  ((p.setFld (Reg.DSP_CTX_STATUS c) Fld.DSP_CTX_FWERR 1).refuse c 2 src off v).raiseIrq 13 c (64 + c)

/-- A write to a flag window: a host core's narrow access takes an access fault, any other narrow write and a write to a device-set flag are
discarded, and otherwise `f` acts (R214). Widths are in bytes. -/
def Pkg.flagAccess (p : Pkg) (e : Env) (src : Source) (c n off width v : Nat) (f : Pkg → Pkg) : Pkg :=
  match src with
  | .core g =>
    if width ≠ 8 then p.registerFault e g.val off
    else if p.flagWritable c n then f p else p.flagRefused src c off v
  | _ => if width = 8 && p.flagWritable c n then f p else p.flagRefused src c off v

/-- FLAG_WRITE: a write of `DSP_FLAG_n` (R214), with what reading the flag's copies met (R479). -/
def flagWrite (src : Source) (c n width v : Nat) (x : Option CopyError) (e : Env) (p : Pkg) : Pkg :=
  let p1 := match x with
    | some k => p.copyFault e c none (fun s => s.setNat (Reg.DSP_FLAG c n) 0) k
    | none => p
  p1.flagAccess e src c n (Reg.DSP_FLAG c n) width v (fun s => s.setFlag (sourceDie src (Reg.DSP_FLAG c n)) c n v)

/-- FLAG_ADD: a write of `DSP_FLAG_ADD_n` (R214). -/
def flagAdd (src : Source) (c n width v : Nat) (e : Env) (p : Pkg) : Pkg :=
  p.flagAccess e src c n (Reg.DSP_FLAG_ADD c n) width v (fun s => s.addFlag (sourceDie src (Reg.DSP_FLAG_ADD c n)) c n v)

/-- FLAG_CLR: every flag of the context becomes zero when it has no enabled queue (R216). -/
def flagClr (src : Source) (c : Nat) (_ : Env) (p : Pkg) : Pkg :=
  if p.ctxHasEnabled c then p.flagRefused src c (Reg.DSP_CTX_CTRL c) 1
  else p.zeroRegs ((List.range 4096).map (Reg.DSP_FLAG c))

/-! ### Deadlines, wait cycles and stalls -/

/-- DEADLINE_EXPIRY: the deadline of a queue's descriptor has passed. An unstarted head completes with 0x21; a running descriptor but an Anvil
solve gets LATE (R226, R227). -/
def deadlineExpiry (q : Nat) (e : Env) (p : Pkg) : Pkg :=
  match p.runOf q with
  | some r => if r.kind ≠ 2 ∧ deadlinePassed e.tagHall r.desc then p.setRun { r with late := true } else p
  | none =>
    match p.headDesc q with
    | some d => if p.activeQueue q && p.ctxRuns (p.queueCtx q) && deadlinePassed e.tagHall d then p.completeHead e q d 0x21 0 else p
    | none => p

/-- One entry of the wait-cycle report, as its two words (Table 06-11). -/
def Pkg.reportEntry (p : Pkg) (c q : Nat) : List Nat :=
  let d := p.headBytes q
  match p.firstUnmet c d with
  | some i => [p.head q + 2 ^ 32 * q + 2 ^ 40 * i + 2 ^ 48 * wFlag (dWait d i), p.flag c (wFlag (dWait d i))]
  | none => [p.head q + 2 ^ 32 * q + 2 ^ 40 * 0xff, 0]

/-- DETAIL of a head that a wait cycle aborts: its first unmet wait word (Table 06-12). -/
def Pkg.cycleDetail (p : Pkg) (c q : Nat) : Nat :=
  match p.firstUnmet c (p.headBytes q) with | some i => dWait (p.headBytes q) i | none => 0

/-- Write the report entries of the blocked queues, in ascending queue number. -/
def Pkg.writeReport (p : Pkg) (c : Nat) (qs : List Nat) : Pkg :=
  ((qs.map (p.reportEntry c)).flatten.zipIdx).foldl (fun (s : Pkg) wi => s.setNat (Reg.DSP_CTX_REPORT c wi.2) wi.1) p

/-- WAIT_CYCLE_ABORT: the proof held at 6,250 consecutive beats, counting the one in progress (R234). -/
def waitCycleAbort (c : Nat) (e : Env) (p : Pkg) : Pkg :=
  if (p.ctxSt c).cycleCount < 6249 || !p.waitCycle c then p else
  let qs := (p.ctxQueues c).filter p.activeQueue
  let heads := qs.map (fun q => (q, p.head q, p.headBytes q, p.cycleDetail c q))
  let first := qs.headD 0
  let p1 := ((p.writeReport c qs).setFld (Reg.DSP_CTX_STATUS c) Fld.DSP_CTX_NREPORT qs.length).setFld (Reg.DSP_CTX_STATUS c) Fld.DSP_CTX_CYCLE 1
  let p2 := heads.foldl (fun (s : Pkg) h =>
    s.complete e h.1 h.2.1 h.2.2.1 { Rec.plain 0x33 0 e.tagHall with detail := h.2.2.2 } none) p1
  let p3 := qs.foldl (fun (s : Pkg) q => s.haltQueue q 0x33) p2
  ((p3.event 9 (p.leadDie c) (dspUnit c) 0xe 4 (leBytes 4 c ++ leBytes 4 first ++ leBytes 8 (p.head first))).raiseIrq 9 (p.leadDie c)
    (64 + c)).restartCount c

/-- STALL_NOTICE: every active queue has been blocked for the stall time and no proof holds (R235). -/
def stallNotice (c : Nat) (e : Env) (p : Pkg) : Pkg :=
  let cs := p.ctxSt c
  let us := p.fld (Reg.DSP_CTX_STALL c) Fld.DSP_CTX_STALL_US
  match cs.blockedSince with
  | none => p
  | some t =>
    if us = 0 || cs.stallNoticed || e.tagHall < t + 1000 * us || p.waitCycle c then p
    else
      let q := ((p.ctxQueues c).filter p.activeQueue).headD 0
      (((p.setFld (Reg.DSP_CTX_STATUS c) Fld.DSP_CTX_STALLED 1).setCtxSt c { cs with stallNoticed := true }).event 9 (p.leadDie c) (dspUnit c)
        0xe 3 (leBytes 4 c ++ leBytes 4 q ++ leBytes 8 (p.head q) ++ leBytes 8 t)).raiseIrq 9 (p.leadDie c) (64 + c)

/-! ### The commands -/

/-- An event of a queue's dispatcher (R204, R236): its class, the lead die and the dispatcher's unit. -/
def Pkg.queueEv (p : Pkg) (cls q : Nat) : Ev := ⟨cls, p.leadDie (p.queueCtx q), dspUnit (p.queueCtx q)⟩

/-- TAIL_DOORBELL (R202). -/
def execTailDoorbell (src : Source) (q : Fin 64) (value : Nat) (s : State) : Host.Outcome State Fault Refusal :=
  s.through src (s.work (s.pkg.queueEv 11 q.val) (tailDoorbell src q.val value))

/-- HEAD_DOORBELL (R202). -/
def execHeadDoorbell (src : Source) (q : Fin 64) (value : Nat) (s : State) : Host.Outcome State Fault Refusal :=
  s.through src (s.work (s.pkg.queueEv 11 q.val) (headDoorbell src q.val value))

/-- QHEAD_WRITE (R202). -/
def execQheadWrite (src : Source) (q : Fin 64) (value : Nat) (s : State) : Host.Outcome State Fault Refusal :=
  s.through src (s.work (s.pkg.queueEv 11 q.val) (qheadWrite src q.val value))

/-- QUEUE_ENABLE (R203). -/
def execQueueEnable (src : Source) (q : Fin 64) (s : State) : Host.Outcome State Fault Refusal := s.through src (s.work .none (queueEnable src q.val))

/-- QUEUE_DISABLE (Table 06-17). -/
def execQueueDisable (src : Source) (q : Fin 64) (s : State) : Host.Outcome State Fault Refusal :=
  s.through src (s.work .none (queueDisable src q.val))

/-- QUEUE_FLUSH (Table 06-17). -/
def execQueueFlush (src : Source) (q : Fin 64) (s : State) : Host.Outcome State Fault Refusal := s.through src (s.work .none (queueFlush src q.val))

/-- QUEUE_RESUME (Table 06-17). -/
def execQueueResume (src : Source) (q : Fin 64) (s : State) : Host.Outcome State Fault Refusal := s.through src (s.work .none (queueResume src q.val))

/-- DESCRIPTOR_FETCH (R203). -/
def execDescriptorFetch (q : Fin 64) (s : State) : Host.Outcome State Fault Refusal := s.work .none (descriptorFetch q.val)

/-- FLAG_WRITE (R214), an event of class 10. -/
def execFlagWrite (src : Source) (ctx : Fin 8) (n : Fin 4096) (width value : Nat) (copyError : Option CopyError) (s : State) :
    Host.Outcome State Fault Refusal := s.through src (s.work ⟨10, ctx.val, dspUnit ctx.val⟩ (flagWrite src ctx.val n.val width value copyError))

/-- FLAG_ADD (R214), an event of class 10. -/
def execFlagAdd (src : Source) (ctx : Fin 8) (n : Fin 4096) (width value : Nat) (s : State) : Host.Outcome State Fault Refusal :=
  s.through src (s.work ⟨10, ctx.val, dspUnit ctx.val⟩ (flagAdd src ctx.val n.val width value))

/-- FLAG_CLR (R216). -/
def execFlagClr (src : Source) (ctx : Fin 8) (s : State) : Host.Outcome State Fault Refusal := s.through src (s.work .none (flagClr src ctx.val))

/-- DEADLINE_EXPIRY (R226), an event of class 9. -/
def execDeadlineExpiry (q : Fin 64) (s : State) : Host.Outcome State Fault Refusal := s.work (s.pkg.queueEv 9 q.val) (deadlineExpiry q.val)

/-- WAIT_CYCLE_ABORT (R234), an event of class 9. -/
def execWaitCycleAbort (ctx : Fin 8) (s : State) : Host.Outcome State Fault Refusal :=
  s.work ⟨9, ctx.val, dspUnit ctx.val⟩ (waitCycleAbort ctx.val)

/-- STALL_NOTICE (R235), an event of class 9. -/
def execStallNotice (ctx : Fin 8) (s : State) : Host.Outcome State Fault Refusal :=
  s.work ⟨9, ctx.val, dspUnit ctx.val⟩ (stallNotice ctx.val)

end Sys2Proof.Machine
end

