-- ==== Sys2Proof/Machine/Hearth.lean ====
section
/-! DEFINITION. The hearth library (spec 06_descriptor_streams.md, R228 to R231; 05_coat_engine.md, R187 to R191): the program loader, the
control routines, and the compute routines. A routine's effect is taken as it starts. The library's catalogue names the compute routines and
does not state the roundings of some: what those write is a free function of what they read (`Config.hearth`; log entry 95). -/

namespace Sys2Proof.Machine

/-- Routine ID, library major and minor version of a call (Table 06-8). -/
def hId (d : List Byte) : Nat := dOp d % 65536
def hMajor (d : List Byte) : Nat := bitsOf (dOp d) 23 16
def hMinor (d : List Byte) : Nat := bitsOf (dOp d) 31 24

/-- The routines of library 2.4 (Table 06-9). -/
def hearthIds : List Nat := [0x01, 0x10, 0x11, 0x20, 0x21, 0x22, 0x30, 0x31, 0x32, 0x40, 0x50, 0x51, 0x100, 0x101, 0x102]

/-- A call of a routine, or of one that the library does not hold, which any hearth start ends (R228). -/
def isCall (id : Nat) (d : List Byte) : Bool := dKind d == 6 && (hId d == id || !hearthIds.contains (hId d))

/-- A call that R228 ends with cause 0x0C: an unknown routine, another version, or no parameter block where one is taken. -/
def callBad (takesParam : Bool) (d : List Byte) : Bool :=
  !hearthIds.contains (hId d) || hMajor d != 2 || hMinor d > 4 || (takesParam && !dHasParam d)

/-- Quench words that a routine's handles are read for: outputs stored as Q4 or T2, and the operands of GEMM_EPILOGUE as an array operation's
(R127). -/
def callReadsQuench (id : Nat) (h : Nat) (t : Tensor) : Bool :=
  if id = 0x11 then h < 3 && arrayReadsQuench h t else (h == 2 || (id == 0x30 && h == 3)) && t.storeQuenched

/-- The checks of a hearth call in the order of R638, then those that follow: `extra` holds the routine's own. A control routine examines no handle;
its loop nest is checked all the same (R222, R224). -/
def Pkg.callVerdict (p : Pkg) (c : Nat) (d : List Byte) (hs : List Nat) (paramLen : Nat) (extra : List Verdict) : Verdict :=
  let known : Bool := hearthIds.contains (hId d)
  let hs' := if known then hs else []
  let ts := p.tensors c d hs'
  firstFail ([p.handleVerdict c d false (callReadsQuench (hId d)) hs', abortIf (callBad (paramLen != 0) d) 0x0c,
      abortIf (paramLen != 0 && !p.noHole (p.paramAddr c d) paramLen) 0x05] ++ extra ++
    (if isControl d then [abortIf (nestBad d []) 0x06] else p.nestVerdicts c d ts ++ p.refusals c d ts))

/-- What the dispatcher reads for a call: its handles' entries and its parameter block. -/
def Pkg.callReads (p : Pkg) (c : Nat) (d : List Byte) (hs : List Nat) (paramLen : Nat) : List (Nat × Nat) :=
  if hearthIds.contains (hId d) then p.entryReads c d hs ++ p.paramReads c d paramLen else []

/-- Start a hearth call of a routine: its checks, then `body` on its run. An array-group routine waits while a die of its partition holds tile
starts (Table 14-2). -/
def Pkg.startCall (p : Pkg) (e : Env) (q id : Nat) (hs : List Nat) (paramLen : Nat)
    (extra : Pkg → List Byte → List Byte → List Verdict) (body : Pkg → Run → Pkg) : Pkg :=
  p.start e q (isCall id) (fun d => p.callReads (p.queueCtx q) d hs paramLen) (fun p d =>
    let c := p.queueCtx q
    let prm := p.paramBytes c d paramLen
    if id < 0x100 && (p.partDies c).any p.tilesHeld then p
    else p.orRun e q d (p.callVerdict c d hs paramLen (extra p d prm)) (body p (p.newRun e q d prm)))

/-- A run whose work ended as it started. -/
def Run.done (r : Run) (e : Env) : Run := { r with finished := true, endBeat := e.tag }

/-! ### COAT_LOAD (R187 to R191) -/

/-- Record a rejected load on every die of the partition (R189, Table 05-14). -/
def Pkg.loadRejected (p : Pkg) (c slot : Nat) (f : LoadFault) : Pkg :=
  (p.partDies c).foldl (fun (s : Pkg) die =>
    let k := Reg.COAT_LOAD_ERR die
    ((((s.setReg k 0).setFld k Fld.COAT_LERR_CODE f.code).setFld k Fld.COAT_LERR_BUNDLE f.bundle).setFld k Fld.COAT_LERR_SLOT f.slot).setFld k
      Fld.COAT_LERR_PROG (slot % 64)) p

/-- Put an image into a slot of every die of the partition (R188, Table 05-15). -/
def Pkg.loadImage (p : Pkg) (c slot : Nat) (im : CoatImage) : Pkg :=
  (p.partDies c).foldl (fun (s : Pkg) die =>
    let k := Reg.COAT_PROG_INFO die slot
    let s1 := { s with coatSlots := assocPut s.coatSlots (64 * die + slot) im }
    (((((s1.setReg k 0).setFld k Fld.COAT_PI_VALID 1).setFld k Fld.COAT_PI_KIND (if im.standalone then 1 else 0)).setFld k Fld.COAT_PI_LUT
      (if im.lut.isSome then 1 else 0)).setFld k Fld.COAT_PI_LEN im.len).setFld k Fld.COAT_PI_DELTA im.delta) p

/-- Reject a load: no slot changes, and the routine ends with 0x3F, cause 0x09 (R189). -/
def Pkg.rejectLoad (p : Pkg) (e : Env) (r : Run) (slot : Nat) (f : LoadFault) : Pkg :=
  (p.loadRejected r.ctx slot f).enterRun ((r.abort e.tag 0x09).done e)

/-- A range of a list or image that a routine reads: 0x12 when another partition owns it, cause 0x05 when it lies outside a valid, ready
region (R221, R231), and 0x11 when it lies in HBM and the context has no HBM bandwidth (R312). -/
def Pkg.listVerdict (p : Pkg) (c a n : Nat) : Verdict :=
  if n = 0 then none else
  let rs := (linesOf a n).map p.regionAt
  if rs.any (fun r => match r with | some x => x.owner != c | none => false) then some (0x12, 0)
  else if rs.any Option.isNone then some (0x3f, 0x05)
  else if p.regRate c == 0 && !p.regBestEffort c && rs.any (fun r => match r with | some x => !x.stash | none => false) then some (0x11, 0)
  else none

/-- The bundle and slot of the first byte of an image that fails parity (R189). -/
def parityPlace (off : Nat) : LoadFault := if off < 0x40 then ⟨11, 0, 0⟩ else ⟨11, min 127 ((off - 0x40) / 16), (off - 0x40) / 4 % 4⟩

/-- COAT_LOAD: the loader checks the whole image before it changes any slot (R189). A line that cannot be rebuilt rejects the image when a failing byte
of it belongs to the image. -/
def Pkg.loadWork (p : Pkg) (e : Env) (r : Run) : Pkg :=
  let a := leAt r.params 0 8
  let slot := leAt r.params 8 1
  if slot > 0x3f then p.rejectLoad e r slot ⟨12, 0, 0⟩
  else if a % 64 ≠ 0 then p.rejectLoad e r slot ⟨13, 0, 0⟩
  else match p.listVerdict r.ctx a 0x40 with
  | some v => p.completeHead e r.queue r.desc v.1 v.2
  | none =>
    let h := leNat (p.viewBytes a 4)
    let n := if h % 256 = 0 ∨ h % 256 > 128 then 0x40 else imageBytes h
    match p.listVerdict r.ctx a n with
    | some v => p.completeHead e r.queue r.desc v.1 v.2
    | none =>
      let rd := (linesOf a n).foldl (fun (st : Pkg × List Nat) l =>
        let x := st.1.touchLine e (.descriptor r.queue) l
        (x.1, if x.2 = .failed then st.2 ++ [l] else st.2)) (p, [])
      match (List.range n).find? (fun i => rd.2.contains ((a + i) / 256 * 256) && rd.1.byteBad (a + i)) with
      | some off => rd.1.rejectLoad e r slot (parityPlace off)
      | none =>
        match parseImage (rd.1.viewBytes a n) with
        | .inr f => rd.1.rejectLoad e r slot f
        | .inl im => (rd.1.loadImage r.ctx slot im).enterRun (r.done e)

/-- COAT_LOAD starts. -/
def coatLoad (q : Nat) (e : Env) (p : Pkg) : Pkg := p.startCall e q 0x01 [] 9 (fun _ _ _ => []) (fun p r => p.loadWork e r)

/-! ### Control routines (R230, R231) -/

/-- Write descriptors into the slots of a queue from its tail on, as the control routine's append does. -/
def Pkg.writeSlots (p : Pkg) (e : Env) (q s : Nat) : List (List Byte) → Pkg
  | [] => p
  | d :: ds => (p.storeOrHold e (.dispatcher (p.queueCtx q)) (p.ringAddr q s) d).1.writeSlots e q ((s + 1) % 2 ^ 32) ds

/-- Append descriptors to the tail of a target queue, once for each iteration of the routine's nest (R222): the tail advances as a doorbell of class
11 (R230); nothing is appended when the target lies in another context or lacks room for all of it (R231). -/
def Pkg.append (p : Pkg) (e : Env) (r : Run) (target : Nat) (lists : List (Nat × Nat)) (own : List (List Byte)) : Pkg :=
  let c := r.ctx
  let times := dIters r.desc
  let total := times * lists.foldl (fun n l => n + l.2) own.length
  let stop (st rs : Nat) : Pkg := p.enterRun (((if st = 0x3f then r.abort e.tag rs else r.raise e.tag st)).done e)
  if target ≥ 64 || p.queueCtx target != c then stop 0x12 0
  else match firstFail (lists.map (fun l => p.listVerdict c l.1 (128 * l.2))) with
  | some v => stop v.1 v.2
  | none =>
    let t := p.tail target
    let t' := (t + total) % 2 ^ 32
    if total > p.ringSlots target || !bellOk (p.ringSlots target) t' (p.chead target) (p.head target) true (!p.queueEnabled target) then stop 0x10 0
    else
      let rd := lists.foldl (fun (st : Pkg × LineOutcome) l => let x := st.1.touchRange e (.descriptor r.queue) l.1 (128 * l.2); (x.1, st.2.join x.2)) (p, LineOutcome.ok)
      if rd.2 = .failed then rd.1.enterRun ((r.abort e.tag 0x0a).done e)
      else if total ≠ 0 && !((List.range total).all (fun i => p.noHole (p.ringAddr target ((t + i) % 2 ^ 32)) 128)) then stop 0x3f 0x05
      else
        let one := (lists.map (fun l => (List.range l.2).map (fun i => p.viewBytes (l.1 + 128 * i) 128))).flatten ++ own
        let ds := if total = 0 then [] else (List.replicate times one).flatten
        let p1 := rd.1.writeSlots e target t ds
        let p2 := if total = 0 then p1 else ((p1.setNat (Reg.DSP_QTAIL target) t').cover target t' e.tag).restartCount c
        p2.enterRun { (r.told e.tag rd.2).done e with appended := true, kindInfo := sat16 total }

/-- ENQ_LIST. -/
def enqList (q : Nat) (e : Env) (p : Pkg) : Pkg :=
  p.startCall e q 0x100 [] 24 (fun _ _ b => [abortIf (leAt b 0 3 != 0 || leAt b 4 4 != 0 || leAt b 0x14 4 != 0) 0x0c]) (fun p r =>
    p.append e r (leAt r.params 3 1) [(leAt r.params 8 8, leAt r.params 0x10 4)] [])

/-- The compare of ENQ_SELECT (Table 06-10). -/
def enqCompare (code flag value : Nat) : Bool := match code with | 0 => flag ≥ value | 1 => flag == value | _ => flag < value

/-- ENQ_SELECT. -/
def enqSelect (q : Nat) (e : Env) (p : Pkg) : Pkg :=
  p.startCall e q 0x101 [] 40 (fun _ _ b => [abortIf (leAt b 0 2 ≥ 4096 || leAt b 2 1 > 2 || leAt b 4 4 != 0) 0x0c]) (fun p r =>
    let b := r.params
    let holds := enqCompare (leAt b 2 1) (p.flag r.ctx (leAt b 0 2)) (leAt b 8 8)
    p.append e r (leAt b 3 1) [if holds then (leAt b 0x10 8, leAt b 0x18 4) else (leAt b 0x20 8, leAt b 0x1c 4)] [])

/-- ENQ_REPEAT: below the stop threshold it appends its list and a copy of its own 128 bytes as it read them. -/
def enqRepeat (q : Nat) (e : Env) (p : Pkg) : Pkg :=
  p.startCall e q 0x102 [] 32 (fun _ _ b => [abortIf (leAt b 0 2 ≥ 4096 || leAt b 2 1 != 0 || leAt b 4 4 != 0 || leAt b 0x1c 4 != 0) 0x0c]) (fun p r =>
    let b := r.params
    if p.flag r.ctx (leAt b 0 2) < leAt b 8 8 then p.append e r (leAt b 3 1) [(leAt b 0x10 8, leAt b 0x18 4)] [r.desc]
    else p.append e r (leAt b 3 1) [] [])

/-! ### Compute routines -/

/-- Store segments for a routine: pre-images first where it keeps a drop cloth (R492), held where a page is masked (R518). -/
def Pkg.routineStore (p : Pkg) (e : Env) (r : Run) (t : Nat) (outs : List (Nat × List Segment)) : Pkg × Run :=
  let segs := (outs.map (·.2)).flatten
  if p.segsMasked segs then
    let x := if r.reserved != 0 then p.clothe r segs else (p, r)
    (segs.foldl (fun (s : Pkg) g => (s.storeOrHold e (.descriptor r.queue) g.addr g.bytes).1) x.1, x.2.delayBy e.tag 5)
  else p.writeOutputs e r t outs

/-- Read every byte that a routine's inputs cover in all iterations (R289, R321, R322). -/
def Pkg.touchInputs (p : Pkg) (e : Env) (r : Run) (hs : List Nat) : Pkg × LineOutcome :=
  countFold (dIters r.desc) (fun n (st : Pkg × LineOutcome) =>
    hs.foldl (fun (s : Pkg × LineOutcome) h => ((r.tensor h).covers (r.origin h n)).foldl (fun (u : Pkg × LineOutcome) ab =>
      let x := u.1.touchRange e (.descriptor r.queue) ab.1 (ab.2 - ab.1); (x.1, u.2.join x.2)) s) st) (p, .ok)

/-- Indices in dimensions 1 to 4 of every run of a tensor, dimension 1 fastest. -/
def Tensor.runIndices (t : Tensor) : List (List Int) :=
  (List.range (t.size 1 * t.size 2 * t.size 3 * t.size 4)).map (fun (n : Nat) =>
    [((n % t.size 1 : Nat) : Int), ((n / t.size 1 % t.size 2 : Nat) : Int), ((n / (t.size 1 * t.size 2) % t.size 3 : Nat) : Int),
     ((n / (t.size 1 * t.size 2 * t.size 3) : Nat) : Int)])

/-- The indices of a run within a tensor of other sizes: each is taken modulo its dimension. -/
def Tensor.fitRun (t : Tensor) (up : List Int) : List Int := up.zipIdx.map (fun xk => xk.1 % (t.size (xk.2 + 1) : Nat))

/-- A run of an operand as a routine reads it through the view, with the flags (R219). -/
def Pkg.readRun (p : Pkg) (r : Run) (h n : Nat) (up : List Int) : List Num × Nat :=
  let t := r.tensor h
  let src := p.inputByte r false
  let xs := (List.range (t.size 0)).map (fun (k : Nat) => t.readAs (p.tensorScale t) src (r.origin h n) ((k : Int) :: t.fitRun up))
  (xs.map (·.1), xs.foldl (fun f x => f ||| x.2) 0)

/-- What the work of a routine has gathered: stores to each of its outputs, flags of the edge and of quench, flags of the routine and its stores,
free values drawn. -/
structure CallOut where
  stores : List (Nat × List (Nat × Byte))
  arrFlags : Nat
  coatFlags : Nat
  free : Nat
  deriving DecidableEq, Repr

/-- Store a run of an output: `none` leaves an element as it is. What store quench counts is staged for no counter and compared with no threshold
(log entry 96). -/
def CallOut.put (x : CallOut) (p : Pkg) (r : Run) (h n : Nat) (up : List Int) (vals : List (Option Num)) : CallOut :=
  let t := r.tensor h
  let st := t.storeRow (p.tensorScale t) p.view (r.origin h n) 0 (fun q => ((q : Nat) : Int) :: up) x.free vals
  { stores := x.stores ++ [(h, st.bytes)], arrFlags := x.arrFlags ||| st.qflags, coatFlags := x.coatFlags ||| st.flags, free := x.free + st.free }

/-- Add flags of the view's conversions and of the routine's own operations. -/
def CallOut.flag (x : CallOut) (edge own : Nat) : CallOut := { x with arrFlags := x.arrFlags ||| edge, coatFlags := x.coatFlags ||| own }

/-- Write what one iteration of a routine gathered, and commit its flags on the lead die (R79; log entry 96). -/
def Pkg.putCall (p : Pkg) (e : Env) (r : Run) (n : Nat) (x : CallOut) : Pkg × Run :=
  let w := ({ p with free := x.free }).routineStore e r n (x.stores.map (fun (s : Nat × List (Nat × Byte)) => (s.1, segmentsOf s.2)))
  let die := p.leadDie r.ctx
  ((w.1.commitArrFlags die r.ctx x.arrFlags).commitCoatFlags die r.ctx x.coatFlags, { w.2 with flags := w.2.flags ||| x.arrFlags ||| x.coatFlags })

/-- Read a routine's inputs, run every iteration of it, and put its run back, ended (R222). -/
def Pkg.callWork (p : Pkg) (e : Env) (r : Run) (ins : List Nat) (body : Pkg → Run → Nat → CallOut) : Pkg :=
  let rd := p.touchInputs e r ins
  let r1 := r.readOutcome e rd.2
  if rd.2 = .failed then rd.1.setRun r1
  else
    let x := countFold (dIters r.desc) (fun n (st : Pkg × Run) =>
      if st.2.stopped then st else st.1.putCall e st.2 n (body st.1 st.2 n)) (rd.1, r1)
    x.1.setRun (x.2.done e)

/-- An iteration of a routine whose roundings no rule states: every run of its output from the runs of its inputs, its parameters as words. -/
def freeCall (ins : List Nat) (p : Pkg) (r : Run) (n : Nat) : CallOut :=
  let o := r.tensor 2
  let prm := runsOf 4 r.params |>.map leNat
  o.runIndices.foldl (fun (acc : CallOut) up =>
    let xs := ins.map (fun h => p.readRun r h n up)
    let rows := xs.map (·.1)
    let vals := (List.range (o.size 0)).map (fun (i : Nat) => some (Config.hearth p.numLevel (hId r.desc) prm rows i))
    (acc.put p r 2 n up vals).flag (xs.foldl (fun f x => f ||| x.2) 0) (Config.hearthFlags p.numLevel (hId r.desc) prm rows).toNat) ⟨[], 0, 0, p.free⟩

/-- Whether score a of a run goes before score b: the larger does; equal scores, and every score of a run that holds a NaN, have an order that no
rule gives. -/
def scoreBefore (row : List Num) (a b : Nat) : Bool :=
  let x := row.getD a Num.zero
  let y := row.getD b Num.zero
  if row.any Num.isNan || x.eqVal y then Config.topOrder row a ≤ Config.topOrder row b else y.lt? x == some true

/-- TOP_K, an iteration: the k largest scores of each run, largest first, and their places in the run (R229; log entry 95). -/
def topCall (p : Pkg) (r : Run) (n : Nat) : CallOut :=
  let o := r.tensor 2
  let k := leAt r.params 0 4
  o.runIndices.foldl (fun (acc : CallOut) up =>
    let x := p.readRun r 0 n up
    let best := (sortBy (scoreBefore x.1) (List.range x.1.length)).take k
    let vals (f : Nat → Num) (t : Tensor) : List (Option Num) := (List.range (t.size 0)).map (fun (i : Nat) => (best[i]?).map f)
    ((acc.put p r 2 n up (vals (fun i => x.1.getD i Num.zero) o)).put p r 3 n ((r.tensor 3).fitRun up)
      (vals (fun i => Num.ofInt (i : Nat)) (r.tensor 3))).flag x.2 0) ⟨[], 0, 0, p.free⟩

/-- A value that no rule gives, as a number. -/
def freeNum (k : Nat) : Num := decodeNum .f64 (Config.freeWord k).toNat

/-- Index i of a routine's index operand in an iteration. -/
def Pkg.rowIndex (p : Pkg) (r : Run) (n i : Nat) : Int := toSigned 32 ((r.tensor 1).code (p.inputByte r false) (r.origin 1 n) (rel2 i 0))

/-- GATHER, an iteration: run i of the output is the table's run that index i names, read through the table's view; an index outside the table
gives free values (R229). -/
def gatherCall (p : Pkg) (r : Run) (n : Nat) : CallOut :=
  let t := r.tensor 0
  let o := r.tensor 2
  (List.range (o.size 1)).foldl (fun (acc : CallOut) (i : Nat) =>
    let row := p.rowIndex r n i
    let up : List Int := [(i : Int), 0, 0, 0]
    if 0 ≤ row ∧ row < (t.size 1 : Nat) then
      let x := p.readRun r 0 n [row, 0, 0, 0]
      (acc.put p r 2 n up (x.1.map some)).flag x.2 0
    else
      { acc with free := acc.free + o.size 0 }.put p r 2 n up ((List.range (o.size 0)).map (fun k => some (freeNum (acc.free + k)))))
    ⟨[], 0, 0, p.free⟩

/-- The sum of values in any order, for one rounding to come: exact, and special as Table 03-4 joins infinities and NaNs. -/
def sumNums (xs : List Num) : Num × Nat :=
  let sp := (xs.foldl (fun (s : Special) x => s.join (specialOfTerm x)) Special.none).close
  let v := (xs.filter Num.isFin).foldl (fun (a : Option Num) x => some (match a with | none => x | some y => (y.add .nearestEven x).1)) none
  (match sp.1 with | 0 => v.getD Num.zero | 1 => .inf false | 2 => .inf true | _ => .nan false, if sp.2 then flagNV else 0)

/-- The run of the target that run i of SCATTER_ADD's values is added to: an index outside the target is added to a free one, or to none. -/
def Pkg.scatterRow (p : Pkg) (r : Run) (n i : Nat) : Nat :=
  let t := r.tensor 2
  let row := p.rowIndex r n i
  if 0 ≤ row ∧ row < (t.size 1 : Nat) then row.toNat else (Config.freeWord (p.free + i)).toNat % (t.size 1 + 1)

/-- SCATTER_ADD, an iteration: each element of the target with every value that an index adds to it, summed exactly and rounded once, so that the
order of the indices does not matter (R229; log entry 95). A run that no index names is left as it is. -/
def scatterCall (p : Pkg) (r : Run) (n : Nat) : CallOut :=
  let v := r.tensor 0
  let t := r.tensor 2
  let m := v.size 1
  let rows := (List.range m).map (p.scatterRow r n)
  (List.range (t.size 1)).foldl (fun (acc : CallOut) (y : Nat) =>
    let mine := (List.range m).filter (fun i => rows.getD i 0 = y)
    if mine.isEmpty then acc else
    let up : List Int := [(y : Int), 0, 0, 0]
    let old := p.readRun r 2 n up
    let xs := mine.map (fun (i : Nat) => p.readRun r 0 n [(i : Int), 0, 0, 0])
    let sums := (List.range (t.size 0)).map (fun k => sumNums (old.1.getD k Num.zero :: xs.map (fun x => x.1.getD k Num.zero)))
    (acc.put p r 2 n up (sums.map (fun s => some s.1))).flag (xs.foldl (fun f x => f ||| x.2) old.2) (sums.foldl (fun f s => f ||| s.2) 0))
    ⟨[], 0, 0, p.free + m⟩

/-- An element lies within its dimension's halo width of an edge of a field, in some dimension. -/
def inHalo (t : Tensor) (ws : List Nat) (rel : List Int) : Bool :=
  (List.range 5).any (fun k => let i := (rel.getD k 0).toNat; i < ws.getD k 0 || t.size k ≤ i + ws.getD k 0)

/-- Element number x of a tensor, dimension 0 fastest. -/
def Tensor.nth (t : Tensor) (x : Nat) : List Int :=
  ((x % t.size 0 : Nat) : Int) :: (t.runIndices.getD (x / t.size 0 % max 1 t.runIndices.length) [0, 0, 0, 0])

/-- HALO_PACK and HALO_UNPACK, an iteration: elements of one operand copied to the other, in an order that no rule gives. Packing fills the buffer from
the field; unpacking writes the field's elements that lie within the halo widths of an edge (R229; log entry 95). -/
def haloCall (unpack : Bool) (p : Pkg) (r : Run) (n : Nat) : CallOut :=
  let i := r.tensor 0
  let o := r.tensor 2
  let ws := runsOf 4 r.params |>.map leNat
  let count := i.size 0 * i.runIndices.length
  o.runIndices.foldl (fun (acc : CallOut) up =>
    let xs : List (Option (Num × Nat)) := (List.range (o.size 0)).map (fun (k : Nat) =>
      let rel : List Int := (k : Int) :: up
      if unpack && !inHalo o ws rel then none
      else some (i.readAs (p.tensorScale i) (p.inputByte r false) (r.origin 0 n)
        (i.nth (Config.haloPlace ws o.sizes (o.logical [0, 0, 0, 0, 0] rel) % count))))
    (acc.put p r 2 n up (xs.map (fun x => x.map (·.1)))).flag (xs.foldl (fun f x => match x with | some y => f ||| y.2 | none => f) 0) 0)
    ⟨[], 0, 0, p.free⟩

/-! ### The array's routines -/

/-- Run the tiles of one iteration of an array operation to their commits: the parts of a K-split tile, its narrow pass, its reheat pass and its
shadow pass. -/
def Pkg.runTiles (p : Pkg) (e : Env) (q n : Nat) : Pkg :=
  match p.runOf q with
  | none => p
  | some r =>
    let j := p.arrayJob r
    countFold j.tiles (fun i (s : Pkg) =>
      let t := n * j.tiles + i
      let s1 := countFold (j.s - 1) (fun u (x : Pkg) => ksplitRecord (j.dieOf t (u + 1)) t (u + 1) none e x) s
      let home := j.dieOf t 0
      shadowPassEnd home t none e (tileCommit home t none e (tileCommit home t none e s1))) p

/-- Run one iteration of an array operation that a routine makes of descriptor `gd` with tensors `tds`, from the tiles and budget shares it has so
far. Such an operation moves no trigger counter (R417). -/
def Pkg.runArray (p : Pkg) (e : Env) (r : Run) (gd : List Byte) (tds : List (List Byte)) (n : Nat) (st : List TileSt × List Nat) :
    Pkg × List TileSt × List Nat :=
  let r1 : Run := { r with
    desc := gd, kind := 0, tds := tds, image := p.imageOf r.ctx gd, tiles := st.1, shares := st.2, finished := false, written := [] }
  let j := p.arrayJob r1
  let p1 := if n = 0 then p.countStart j.dies j.tiles j.s else p
  let p2 := ({ p1.setRun r1 with binds := [] }).runTiles e r.queue n
  match p2.runOf r.queue with
  | none => (p2, st)
  | some x =>
    let base := r.written.foldl (fun m (w : Written) => max m (w.tile + 1)) 0
    (({ p2 with binds := p.binds }).setRun { x with
        desc := r.desc, kind := r.kind, tds := r.tds, image := r.image, tiles := [], finished := x.stopped
        written := r.written ++ x.written.map (fun (w : Written) => { w with tile := w.tile + base }) },
      x.tiles, x.shares)

/-- Tensor descriptors of group g, copied before the start and used throughout (R218). -/
def Run.groupTds (r : Run) (g : Nat) : List (List Byte) := (r.extraTds.drop (4 * g)).take 4

/-- Pair handles of a group with their tensors. -/
def groupTensors (gd : List Byte) (tds : List (List Byte)) : List (Nat × Tensor) :=
  (arrayHandles (dOp gd)).map (fun h => (h, parseTensor (dHandle gd h) (tds.getD h [])))

/-- Budget shares of an array operation that a routine makes; each group has its own (log entry 92). -/
def Pkg.groupShares (p : Pkg) (c : Nat) (ts : List (Nat × Tensor)) : List Nat := budgetShares (p.partDies c).length (quenchedTensors ts)

/-- End a routine's run unless something ended it already. -/
def Pkg.endCall (p : Pkg) (e : Env) (q : Nat) : Pkg :=
  match p.runOf q with
  | some r => if r.stopped then p else p.setRun (r.done e)
  | none => p

/-- GEMM_GROUPED: in each iteration every group in turn, an array operation of its own (R222, R229). -/
def Pkg.groupedWork (p : Pkg) (e : Env) (r : Run) : Pkg :=
  let gs := List.range (leAt r.params 0 4)
  let gd (g : Nat) : List Byte := groupDesc r.desc r.params g
  let st0 := gs.map (fun g => (([] : List TileSt), p.groupShares r.ctx (groupTensors (gd g) (r.groupTds g))))
  let x := countFold (dIters r.desc) (fun n (a : Pkg × List (List TileSt × List Nat)) =>
    gs.foldl (fun (a : Pkg × List (List TileSt × List Nat)) g =>
      match a.1.runOf r.queue with
      | some y =>
        if y.stopped then a else
        let z := a.1.runArray e y (gd g) (y.groupTds g) n (a.2.getD g ([], []))
        (z.1, putAt a.2 g z.2)
      | none => a) a) (p, st0)
  x.1.endCall e r.queue

/-- GEMM_EPILOGUE: an array operation drained through its bias and activation (R229; log entry 95). -/
def Pkg.epilogueWork (p : Pkg) (e : Env) (r : Run) : Pkg :=
  let st0 := (([] : List TileSt), p.groupShares r.ctx ([0, 1, 2].map (fun h => (h, r.tensor h))))
  let x := countFold (dIters r.desc) (fun n (a : Pkg × List TileSt × List Nat) =>
    match a.1.runOf r.queue with
    | some y => if y.stopped then a else a.1.runArray e y y.desc y.tds n a.2
    | none => a) (p, st0)
  x.1.endCall e r.queue

/-! ### Starting and repeating a compute routine -/

/-- What a started compute routine does: on its start, and again on a replay of it as a whole (R229, R495). RING_ATTN goes on in steps. -/
def Pkg.hearthWork (p : Pkg) (e : Env) (r : Run) : Pkg :=
  match hId r.desc with
  | 0x10 => p.groupedWork e r
  | 0x11 => p.epilogueWork e r
  | 0x20 => p.callWork e r [0, 1] (freeCall [0, 1])
  | 0x21 => p.callWork e r [0, 1, 3] (freeCall [0, 1, 3])
  | 0x22 => p.callWork e r [0] (freeCall [0])
  | 0x30 => p.callWork e r [0] topCall
  | 0x31 => p.callWork e r [0, 1] gatherCall
  | 0x32 => p.callWork e r [0, 1, 2] scatterCall
  | 0x40 => p.setRun r
  | 0x50 => p.callWork e r [0] (haloCall false)
  | 0x51 => p.callWork e r [0] (haloCall true)
  | _ => p.setRun (r.done e)

/-- Enter a routine's run and do its work. -/
def Pkg.enterWork (p : Pkg) (e : Env) (r : Run) : Pkg :=
  let p1 := p.enterRun r
  match p1.runOf r.queue with
  | some x => p1.hearthWork e x
  | none => p1

/-- Start a compute routine that examines the handles of a list. -/
def Pkg.startWork (p : Pkg) (e : Env) (q id : Nat) (hs : List Nat) (paramLen : Nat)
    (extra : Pkg → List Byte → List Byte → List Verdict) : Pkg :=
  p.startCall e q id hs paramLen extra (fun p r => p.enterWork e r)

/-- RMS_NORM. -/
def rmsNorm (q : Nat) (e : Env) (p : Pkg) : Pkg := p.startWork e q 0x20 [0, 1, 2] 4 (fun _ _ _ => [])

/-- LAYER_NORM. -/
def layerNorm (q : Nat) (e : Env) (p : Pkg) : Pkg := p.startWork e q 0x21 [0, 1, 2, 3] 4 (fun _ _ _ => [])

/-- SOFTMAX_Q. -/
def softmaxQ (q : Nat) (e : Env) (p : Pkg) : Pkg := p.startWork e q 0x22 [0, 2] 4 (fun _ _ _ => [])

/-- TOP_K: k is at most 1,024. -/
def topK (q : Nat) (e : Env) (p : Pkg) : Pkg := p.startWork e q 0x30 [0, 2, 3] 4 (fun _ _ b => [abortIf (leAt b 0 4 > 1024) 0x0c])

/-- GATHER: out has the table's run length and one run for each index. -/
def gather (q : Nat) (e : Env) (p : Pkg) : Pkg :=
  p.startWork e q 0x31 [0, 1, 2] 0 (fun p d _ =>
    let ts := p.tensors (p.queueCtx q) d [0, 1, 2]
    match assoc? ts 0, assoc? ts 1, assoc? ts 2 with
    | some t, some ix, some o => [abortIf (ix.stored != .int32 || o.size 0 != t.size 0 || o.size 1 != ix.size 0) 0x04]
    | _, _, _ => [])

/-- SCATTER_ADD: its target is read and written; its values have the target's run length and one run for each index. -/
def scatterAdd (q : Nat) (e : Env) (p : Pkg) : Pkg :=
  p.startWork e q 0x32 [0, 1, 2] 0 (fun p d _ =>
    let ts := p.tensors (p.queueCtx q) d [0, 1, 2]
    match assoc? ts 0, assoc? ts 1, assoc? ts 2 with
    | some v, some ix, some t => [abortIf (ix.stored != .int32 || v.size 0 != t.size 0 || v.size 1 != ix.size 0) 0x04]
    | _, _, _ => [])

/-- HALO_PACK. -/
def haloPack (q : Nat) (e : Env) (p : Pkg) : Pkg := p.startWork e q 0x50 [0, 2] 20 (fun _ _ _ => [])

/-- HALO_UNPACK. -/
def haloUnpack (q : Nat) (e : Env) (p : Pkg) : Pkg := p.startWork e q 0x51 [0, 2] 20 (fun _ _ _ => [])

/-- RING_ATTN starts: it then takes one step for each block that the paired RING_PASS delivers (R450), at the beats. -/
def ringAttn (q : Nat) (e : Env) (p : Pkg) : Pkg := p.startWork e q 0x40 [0, 1, 2, 3] 16 (fun _ _ _ => [])

/-- A block of keys or values in the receive buffer of a step: buffer s mod 2 along dimension 2 (R449, R450). -/
def Pkg.attnBlock (p : Pkg) (r : Run) (h s : Nat) : List Num :=
  let t := r.tensor h
  countFold (dIters r.desc) (fun n (acc : List Num) =>
    acc ++ ((t.runIndices.filter (fun up => t.size 2 != 2 || up.getD 1 0 == ((s % 2 : Nat) : Int))).map (fun up => (p.readRun r h n up).1)).flatten) []

/-- The output of RING_ATTN, from what it holds after its last block and the queries. -/
def Pkg.ringOutput (p : Pkg) (e : Env) (r : Run) : Pkg :=
  p.callWork e r [0] (fun s x n => freeCall [0] s { x with params := x.params ++ leBytes (8 * (x.chain + 1)) x.chain } n)

/-- One step of a RING_ATTN: when RF ≥ s + 1 it computes with buffer s mod 2 and adds 1 to CF; after the last step its output is written
(R450). CF is changed from the lead die (log entry 83). -/
def Pkg.ringAttnStep (p : Pkg) (e : Env) (q : Nat) : Pkg :=
  match p.runOf q with
  | none => p
  | some r =>
    let n := leAt r.params 4 4
    let w := leAt r.params 12 4
    if r.kind ≠ 6 ∨ hId r.desc ≠ 0x40 ∨ r.finished ∨ r.stopped ∨ r.replayOn.isSome then p
    else if r.step < n ∧ p.flag r.ctx (w % 4096) ≥ r.step + 1 then
      let rd := p.touchInputs e r [1, 3]
      let r1 := r.readOutcome e rd.2
      if rd.2 = .failed then rd.1.setRun r1 else
      let r2 := { r1 with step := r1.step + 1, chain := Config.attnStep r1.chain (rd.1.attnBlock r1 1 r1.step) (rd.1.attnBlock r1 3 r1.step) }
      let p1 := (rd.1.addFlag (rd.1.leadDie r.ctx) r.ctx (bitsOf w 27 16) 1).setRun r2
      if r2.step = n then p1.ringOutput e r2 else p1
    else if n = 0 then p.ringOutput e r
    else p

/-- A bias of GEMM_EPILOGUE has the output's dimensions, or size 1 where it is repeated (log entry 95). -/
def biasBad (o b : Tensor) : Bool := (List.range 5).any (fun k => b.size k != 1 && b.size k != o.size k)

/-- Bytes that the outputs of a routine's run lie in. -/
def Pkg.callOutputs (p : Pkg) (r : Run) : Ranges :=
  match hId r.desc with
  | 0x10 => coveredBytes r.desc ((List.range (leAt r.params 0 4)).map (fun g =>
      (2, parseTensor (dHandle (groupDesc r.desc r.params g) 2) ((r.groupTds g).getD 2 []))))
  | _ => coveredBytes r.desc ((p.roles r.ctx r.desc).2.map (fun h => (h, r.tensor h)))

/-- The outputs of an array's routine lie on masked pages: their demand copies begin, and its work waits for them (R518, R519). -/
def Pkg.callMasked (p : Pkg) (r : Run) : Option Pkg :=
  let rs := if descReheats r.desc then p.callOutputs r else []
  if rs.any (fun ab => p.rangeMasked ab.1 (ab.2 - ab.1)) then some (rs.foldl (fun (u : Pkg) ab => u.demandCopy ab.1 (ab.2 - ab.1)) p) else none

/-- GEMM_EPILOGUE: shapes as Table 03-2; a reserved operation word or activation code breaks its parameter block. -/
def gemmEpilogue (q : Nat) (e : Env) (p : Pkg) : Pkg :=
  p.startCall e q 0x11 [0, 1, 2, 3] 8 (fun p d b =>
    let op := leAt b 0 4
    let ts := p.tensors (p.queueCtx q) d [0, 1, 2]
    [abortIf (op >>> 16 != 0 || bitsOf op 7 5 != 0 || op % 8 > 4 || leAt b 4 4 > 3) 0x0c,
     abortIf (arrayShapeBad (op % 8) ts || biasBad (p.tensorOf (p.queueCtx q) d 2) (p.tensorOf (p.queueCtx q) d 3)) 0x04]) (fun p r =>
    (p.callMasked r).getD (p.enterWork e r))

/-- A handle of a group lies beyond every table. -/
def groupHandlesBad (b : List Byte) (g : Nat) : Bool := [1, 2, 3, 4].any (fun i => leAt b (4 + 20 * g + 4 * i) 4 ≥ 65536)

/-- The checks of a GEMM_GROUPED in the order of R638, each step over every group in turn. Its handles stand in its parameter block, which is read
first. -/
def Pkg.groupedVerdict (p : Pkg) (c : Nat) (d : List Byte) : Verdict :=
  let known : Bool := hearthIds.contains (hId d)
  let g := if known then leAt (p.paramBytes c d 4) 0 4 else 0
  let b := p.paramBytes c d (4 + 20 * g)
  let gs := if known then p.groupDescs c d else []
  let ts := (gs.map (p.arrayTensors c)).flatten
  firstFail ([abortIf (known && dHasParam d && (!p.noHole (p.paramAddr c d) 4 || (g ≤ 256 && !p.noHole (p.paramAddr c d) (4 + 20 * g)))) 0x05] ++
    gs.zipIdx.map (fun x => if groupHandlesBad b x.2 then some (0x3f, 0x02) else p.arrayHandleVerdict c x.1) ++
    [abortIf (callBad true d || g > 256 || gs.any opBad) 0x0c] ++ gs.map (p.arrayKindVerdict c) ++ p.nestVerdicts c d ts ++ p.refusals c d ts)

/-- What the dispatcher reads for a GEMM_GROUPED: its parameter block, and the entries of every group's handles. -/
def Pkg.groupReads (p : Pkg) (c : Nat) (d : List Byte) : List (Nat × Nat) :=
  if !hearthIds.contains (hId d) then [] else
  p.paramReads c d 4 ++ ((p.groupDescs c d).map (fun gd => p.entryReads c gd (arrayHandles (dOp gd)))).flatten ++
    p.paramReads c d (4 + 20 * (p.groupDescs c d).length)

/-- GEMM_GROUPED: every group is checked before any runs, and the tensor descriptors copied then are used throughout (R218). -/
def gemmGrouped (q : Nat) (e : Env) (p : Pkg) : Pkg :=
  p.start e q (isCall 0x10) (fun d => p.groupReads (p.queueCtx q) d) (fun p d =>
    let c := p.queueCtx q
    if (p.partDies c).any p.tilesHeld then p
    else p.orRun e q d (p.groupedVerdict c d)
      (let b := p.paramBytes c d (4 + 20 * leAt (p.paramBytes c d 4) 0 4)
       let tds := ((p.groupDescs c d).map (fun gd => (List.range 4).map (fun h => p.tableEntry c (dHandle gd h)))).flatten
       let r : Run := { p.newRun e q d b with extraTds := tds }
       (p.callMasked r).getD (p.enterWork e r)))

/-! ### The commands -/

/-- COAT_LOAD (R189). -/
def execCoatLoad (q : Fin 64) (s : State) : Host.Outcome State Fault Refusal := s.work .none (coatLoad q.val)
/-- GEMM_GROUPED (R229). -/
def execGemmGrouped (q : Fin 64) (s : State) : Host.Outcome State Fault Refusal := s.work .none (gemmGrouped q.val)
/-- GEMM_EPILOGUE (R229). -/
def execGemmEpilogue (q : Fin 64) (s : State) : Host.Outcome State Fault Refusal := s.work .none (gemmEpilogue q.val)
/-- RMS_NORM (R229). -/
def execRmsNorm (q : Fin 64) (s : State) : Host.Outcome State Fault Refusal := s.work .none (rmsNorm q.val)
/-- LAYER_NORM (R229). -/
def execLayerNorm (q : Fin 64) (s : State) : Host.Outcome State Fault Refusal := s.work .none (layerNorm q.val)
/-- SOFTMAX_Q (R229). -/
def execSoftmaxQ (q : Fin 64) (s : State) : Host.Outcome State Fault Refusal := s.work .none (softmaxQ q.val)
/-- TOP_K (R229). -/
def execTopK (q : Fin 64) (s : State) : Host.Outcome State Fault Refusal := s.work .none (topK q.val)
/-- GATHER (R229). -/
def execGather (q : Fin 64) (s : State) : Host.Outcome State Fault Refusal := s.work .none (gather q.val)
/-- SCATTER_ADD (R229). -/
def execScatterAdd (q : Fin 64) (s : State) : Host.Outcome State Fault Refusal := s.work .none (scatterAdd q.val)
/-- RING_ATTN (R229, R450). -/
def execRingAttn (q : Fin 64) (s : State) : Host.Outcome State Fault Refusal := s.work .none (ringAttn q.val)
/-- HALO_PACK (R229). -/
def execHaloPack (q : Fin 64) (s : State) : Host.Outcome State Fault Refusal := s.work .none (haloPack q.val)
/-- HALO_UNPACK (R229). -/
def execHaloUnpack (q : Fin 64) (s : State) : Host.Outcome State Fault Refusal := s.work .none (haloUnpack q.val)
/-- ENQ_LIST (R230). -/
def execEnqList (q : Fin 64) (s : State) : Host.Outcome State Fault Refusal := s.work .none (enqList q.val)
/-- ENQ_SELECT (R230). -/
def execEnqSelect (q : Fin 64) (s : State) : Host.Outcome State Fault Refusal := s.work .none (enqSelect q.val)
/-- ENQ_REPEAT (R230). -/
def execEnqRepeat (q : Fin 64) (s : State) : Host.Outcome State Fault Refusal := s.work .none (enqRepeat q.val)

end Sys2Proof.Machine
end

