-- ==== Sys2Proof/Machine/Anvil.lean ====
section
/-! DEFINITION. The Anvil solver engine (spec 07_anvil_solver.md, R241 to R286): the matrices and checks of a solve, its start, the commits of
its setup phases and iterations, deadlines, its return, errors and lane retirement. What a unit of work computes stands in AnvArith.lean,
AnvFactor.lean, AnvLinear.lean and AnvInterior.lean. -/

namespace Sys2Proof.Machine

/-! ### Matrices (R258) -/

/-- A matrix header (Table 07-5). -/
structure MatHdr where
  addr : Nat
  raw : List Byte
  deriving DecidableEq, Repr

def MatHdr.fmt (m : MatHdr) : Nat := leAt m.raw 0 4
def MatHdr.storage (m : MatHdr) : Nat := m.fmt % 16
def MatHdr.valFmt (m : MatHdr) : Option Fmt := Fmt.ofCode (bitsOf m.fmt 8 4)
def MatHdr.region (m : MatHdr) : Nat := bitsOf m.fmt 21 16
def MatHdr.rows (m : MatHdr) : Nat := leAt m.raw 8 4
def MatHdr.cols (m : MatHdr) : Nat := leAt m.raw 0xc 4
def MatHdr.nnz (m : MatHdr) : Nat := leAt m.raw 0x10 8
def MatHdr.ptr (m : MatHdr) : Nat := leAt m.raw 0x18 8
def MatHdr.idx (m : MatHdr) : Nat := leAt m.raw 0x20 8
def MatHdr.val (m : MatHdr) : Nat := leAt m.raw 0x28 8

/-- Block size of a BCSR storage; 1 otherwise. -/
def MatHdr.block (m : MatHdr) : Nat := match m.storage with | 1 => 4 | 2 => 8 | _ => 1

/-- Bytes of one value. -/
def MatHdr.valBytes (m : MatHdr) : Nat := if m.valFmt = some .f64 then 8 else 4

/-- Entries of the pointer array (Table 07-6). -/
def MatHdr.ptrCount (m : MatHdr) : Nat :=
  match m.storage with
  | 3 => ceilDiv m.rows 32 + 1
  | _ => m.rows / m.block + 1

/-- Entries of the index array. -/
def MatHdr.idxCount (m : MatHdr) : Nat := m.nnz / (m.block * m.block)

/-- Cause 0x40: a reserved code or bit, another value format, a size out of range, a BCSR size that is no multiple (Table 07-7). -/
def MatHdr.bad (m : MatHdr) : Bool :=
  m.addr % 64 != 0 || m.storage > 3 || !(m.valFmt == some .f64 || m.valFmt == some .f32) || bitsOf m.fmt 15 9 != 0 || m.fmt >>> 22 != 0 ||
  leAt m.raw 4 4 != 0 || leAt m.raw 0x30 16 != 0 || m.rows == 0 || m.cols == 0 || m.nnz == 0 || m.nnz > 2 ^ 34 ||
  m.val % m.valBytes != 0 || m.rows % m.block != 0 || m.cols % m.block != 0

/-- The header at an address. -/
def Pkg.matHdr (p : Pkg) (a : Nat) : MatHdr := ⟨a, p.viewBytes a 64⟩

/-- Entry i of the pointer array. -/
def Pkg.matPtr (p : Pkg) (m : MatHdr) (i : Nat) : Nat := leNat (p.viewBytes (m.ptr + 8 * i) 8)

/-- Entry k of the index array. -/
def Pkg.matIdx (p : Pkg) (m : MatHdr) (k : Nat) : Nat := leNat (p.viewBytes (m.idx + 4 * k) 4)

/-- Value k. -/
def Pkg.matVal (p : Pkg) (m : MatHdr) (k : Nat) : Num :=
  decodeNum (m.valFmt.getD .f64) (leNat (p.viewBytes (m.val + m.valBytes * k) m.valBytes))

/-- The stored entries of a row, in storage order (Table 07-6). -/
def Pkg.matRow (p : Pkg) (m : MatHdr) (r : Nat) : List (Nat × Num) :=
  let b := m.block
  if m.storage = 3 then
    let s := r / 32
    let p0 := p.matPtr m s
    ((List.range ((p.matPtr m (s + 1) - p0) / 32)).map (fun k => p0 + 32 * k + r % 32)).filterMap (fun k =>
      let c := p.matIdx m k
      if c = 0xffffffff then none else some (c, p.matVal m k))
  else
    let p0 := p.matPtr m (r / b)
    ((List.range (p.matPtr m (r / b + 1) - p0)).map (fun k =>
      let c := p.matIdx m (p0 + k)
      (List.range b).map (fun j => (c * b + j, p.matVal m ((p0 + k) * b * b + r % b * b + j))))).flatten

/-- Column indices strictly rising. -/
def risingCols : List (Nat × Num) → Bool
  | a :: b :: t => a.1 < b.1 && risingCols (b :: t)
  | _ => true

/-- Cause 0x41: the pointer array is not as Table 07-6 states, an index at or beyond the columns, or a factorised matrix whose rows are not
sorted without duplicates. -/
def Pkg.structureBad (p : Pkg) (m : MatHdr) (factorised : Bool) : Bool :=
  let n := m.ptrCount
  let last := p.matPtr m (n - 1)
  p.matPtr m 0 != 0 ||
  (List.range (n - 1)).any (fun i => p.matPtr m (i + 1) < p.matPtr m i ||
    (m.storage == 3 && (p.matPtr m (i + 1) - p.matPtr m i) % 32 != 0)) ||
  last * m.block * m.block != m.nnz ||
  (List.range m.idxCount).any (fun k => let c := p.matIdx m k; !(m.storage == 3 && c == 0xffffffff) && c ≥ m.cols / m.block) ||
  (factorised && (List.range m.rows).any (fun r => !risingCols (p.matRow m r)))

/-- Some value is a NaN or an infinity. -/
def Pkg.matNonfinite (p : Pkg) (m : MatHdr) : Bool := (List.range m.nnz).any (fun k => !(p.matVal m k).isFin)

/-- Every value is zero. -/
def Pkg.matZero (p : Pkg) (m : MatHdr) : Bool := (List.range m.nnz).all (fun k => (p.matVal m k).isZero)

/-- Stored entries of the factors apart from the diagonal: the strict lower triangle for IC(0), all but the diagonal for ILU(0). -/
def Pkg.factorEntries (p : Pkg) (m : MatHdr) (lowerOnly : Bool) : Nat :=
  (List.range m.rows).foldl (fun n r => n + (p.matRow m r).countP (fun e => if lowerOnly then e.1 < r else e.1 != r)) 0

/-! ### The solve's words -/

def anvMethod (d : List Byte) : Nat := bitsOf (dOp d) 27 24
def anvPc (d : List Byte) : Nat := bitsOf (dOp d) 23 20
def anvUnit (d : List Byte) : Nat := bitsOf (dOp d) 17 16
def anvRestart (d : List Byte) : Nat := bitsOf (dOp d) 15 8
def anvLinear (d : List Byte) : Bool := anvMethod d ≤ 3

/-- Fields of the parameter block (Table 07-4). -/
def pMatA (b : List Byte) : Nat := leAt b 0 8
def pMatQ (b : List Byte) : Nat := leAt b 8 8
def pWork (b : List Byte) : Nat := leAt b 0x10 8
def pWorkBytes (b : List Byte) : Nat := leAt b 0x18 8
def pResult (b : List Byte) : Nat := leAt b 0x20 8
def pMaxit (b : List Byte) : Nat := leAt b 0x28 4
def pInnerMaxit (b : List Byte) : Nat := leAt b 0x2c 4
def pFloor (b : List Byte) : Nat := if leAt b 0x58 2 = 0 then 26 else leAt b 0x58 2
def pBlock (b : List Byte) : Nat := leAt b 0x5a 1
def pCheb (b : List Byte) : Nat := leAt b 0x5b 1

/-- An F64 of the parameter block. -/
def pNum (b : List Byte) (off : Nat) : Num := decodeNum .f64 (leAt b off 8)

/-- A tolerance that is negative or not finite. -/
def tolBad (x : Num) : Bool := !x.isFin || (x.neg && !x.isZero)

/-- Handles that a solve examines (Table 07-3). -/
def anvHandles (d : List Byte) : List Nat := if anvLinear d then [0, 2] else [0, 1, 2, 3]

/-- The preconditioners that each method accepts. -/
def pcAccepted (method pc : Nat) : Bool :=
  match method with
  | 0 | 3 => pc != 4
  | 1 | 2 => true
  | _ => pc ≤ 2

/-- The dimension of the preconditioned system (Table 07-8). -/
def pcDim (d : List Byte) (a : MatHdr) : Nat := if anvMethod d = 4 then a.rows else a.cols

/-- Required workspace bytes W (R260). -/
def Pkg.workspaceNeeded (p : Pkg) (d b : List Byte) (a : MatHdr) (q : Option MatHdr) : Nat :=
  let n := a.cols
  let vl := match anvMethod d with
    | 0 => 9 * n
    | 1 | 3 => 15 * n
    | 2 => (anvRestart d + 8) * n
    | _ => 26 * (a.rows + n)
  let dim := pcDim d a
  let pc := match anvPc d with
    | 0 => 0
    | 1 => 8 * dim
    | 2 => 8 * dim * pBlock b
    | 3 => 12 * p.factorEntries a true + 16 * dim
    | 4 => 12 * p.factorEntries a false + 16 * dim
    | _ => 24 * dim
  ceilDiv (8 * vl + 4 * (a.rows + (match q with | some m => m.rows | none => 0)) + pc) 4096 * 4096

/-- Cause 0x42 (Table 07-7). -/
def combinationBad (d b : List Byte) (a : MatHdr) (q : Option MatHdr) : Bool :=
  let m := anvMethod d
  let rs := anvRestart d
  !pcAccepted m (anvPc d) || (if m == 2 then rs == 0 || rs > 64 else rs != 0) || ((m == 5) != (pMatQ b != 0)) ||
  (m ≤ 3 && a.rows != a.cols) || ((anvPc d == 3 || anvPc d == 4) && a.storage != 0) ||
  (match q with | some x => x.rows != a.cols || x.cols != a.cols | none => false)

/-- Cause 0x44 (Table 07-7): tolerances, limits, f, b_J, degree, the Chebyshev interval, and reserved bytes. -/
def parameterBad (d b : List Byte) : Bool :=
  let lin := anvLinear d
  let pc := anvPc d
  tolBad (pNum b 0x30) || tolBad (pNum b 0x38) || pMaxit b == 0 ||
  (if lin then pInnerMaxit b != 0 || leAt b 0x50 8 != 0 else pInnerMaxit b == 0 || tolBad (pNum b 0x50)) ||
  (if pc == 5 then tolBad (pNum b 0x40) || tolBad (pNum b 0x48) || (pNum b 0x40).isZero || (pNum b 0x40).lt? (pNum b 0x48) != some true
   else if lin then leAt b 0x40 8 != 0 || leAt b 0x48 8 != 0
   else tolBad (pNum b 0x40) || tolBad (pNum b 0x48)) ||
  leAt b 0x58 2 > 1000 ||
  (if pc == 2 then !([4, 8, 16, 32, 64].contains (pBlock b)) else pBlock b != 0) ||
  (if pc == 5 then pCheb b == 0 || pCheb b > 16 else pCheb b != 0) || leAt b 0x5c 36 != 0

/-- The length that Table 07-3 gives a handle. -/
def vectorLength (d : List Byte) (a : MatHdr) (h : Nat) : Nat := if anvLinear d then a.rows else if h = 0 ∨ h = 3 then a.rows else a.cols

/-- Cause 0x45: a vector handle that breaks R256, or a reserved byte of an exponent record. -/
def Pkg.vectorBad (p : Pkg) (d : List Byte) (a : MatHdr) (ts : List (Nat × Tensor)) : Bool :=
  ts.any (fun ht =>
    let t := ht.2
    t.view != .bfx64 || !(t.stored == .f64 || t.stored == .f32 || t.stored == .bfx64) || !t.flat || t.size 1 != 1 ||
    t.size 0 != vectorLength d a ht.1 || (t.stored == .bfx64 && p.viewBytes (t.scale + 2) 14 != List.replicate 14 0))

/-- Byte ranges of a solve beside its handles: its headers' arrays with their regions, its workspace and its result record (R258). -/
def anvRanges (b : List Byte) (ms : List MatHdr) : List (Option Nat × Nat × Nat) :=
  (ms.map (fun m => [(some m.region, m.ptr, 8 * m.ptrCount), (some m.region, m.idx, 4 * m.idxCount), (some m.region, m.val, m.valBytes * m.nnz)])).flatten ++
  [(none, pWork b, pWorkBytes b), (none, pResult b, 64)]

/-- A range names another partition's region (0x12), or lies outside its region or in one that is not ready (0x05) (R221). -/
def Pkg.rangeVerdict (p : Pkg) (c : Nat) (x : Option Nat × Nat × Nat) : Verdict :=
  let r? : Option Region := match x.1 with
    | some n => some (p.region n)
    | none => ((List.range 64).map p.region).find? (fun r => r.valid && r.holds x.2.1)
  match r? with
  | none => some (0x3f, 0x05)
  | some r =>
    if r.valid && r.owner != c then some (0x12, 0)
    else if !r.valid || !r.ready || x.2.1 < r.base || r.base + r.size < x.2.1 + x.2.2 then some (0x3f, 0x05)
    else none

/-- The checks of a solve before it starts (R254 to R260, Table 07-7, R638), then the refusals that follow (R255, R312, R486, R493). -/
def Pkg.anvVerdict (p : Pkg) (c : Nat) (d b : List Byte) : Verdict :=
  let hs := anvHandles d
  let ts := p.tensors c d hs
  let a := p.matHdr (pMatA b)
  let q := if pMatQ b = 0 then none else some (p.matHdr (pMatQ b))
  let ms := a :: q.toList
  let rs := (anvRanges b ms).map (p.rangeVerdict c)
  firstFail ([p.handleVerdict c d true (fun _ _ => false) hs,
    abortIf ((List.range 5).any (fun l => dCount d l != 1)) 0x06,
    abortIf (!dHasParam d) 0x44,
    abortIf (!p.noHole (p.paramAddr c d) 128 || ms.any (fun m => !p.noHole m.addr 64)) 0x05,
    abortIf (ms.any MatHdr.bad) 0x40, abortIf (combinationBad d b a q) 0x42,
    abortIf (pWork b % 4096 != 0 || pWorkBytes b < p.workspaceNeeded d b a q) 0x43,
    abortIf (parameterBad d b) 0x44, abortIf (p.vectorBad d a ts || pResult b % 64 != 0) 0x45] ++
    p.nestVerdicts c d ts ++ rs.filter (fun v => v = some (0x12, 0)) ++ rs ++
    [(if p.partHas c Fld.SEC_PART_ANVILS (anvUnit d) then none else some (0x12, 0)), p.bandwidthVerdict c ts, p.clothVerdict c d,
     (if p.dieLost (16 + anvUnit d) then some (0x37, 0) else none)])

/-! ### Start and setup -/

/-- A solve at its start: the range scan, the preconditioner where one is formed in setup, and the first residual are its setup phases. -/
def newSolve (q : Nat) (d : List Byte) (heads : List (Nat × List Byte)) : AnvSolve :=
  { queue := q, heads := heads, key := [], data := ⟨⟨[], [], ⟨0, 0⟩, ⟨0, 0⟩⟩, ⟨[], [], ⟨0, 0⟩, ⟨0, 0⟩⟩, ⟨[], 0⟩, ⟨[], 0⟩, ⟨0, 0⟩⟩, factor := .none,
    gam := (8, 8), again := false, vars := .none, norm := ⟨0, 0⟩, outs := [], method := anvMethod d, phase := 0,
    phases := if anvPc d ≠ 0 ∧ anvLinear d then 3 else 2, iters := 0, inner := 0, retries := 0, pivots := 0, unreliable := false, innerHit := false,
    dualToo := false, resid := noNorm, resid0 := noNorm, tracked := true, cert := 0, primal := 0, dual := 0, lastCommit := 0, lastIter := 0,
    soft := false, ended := none, endTag := 0 }

/-- What the dispatcher reads for a solve: its handles' entries, its parameter block, its matrices' headers. -/
def Pkg.solveReads (p : Pkg) (c : Nat) (d : List Byte) : List (Nat × Nat) :=
  let b := p.paramBytes c d 128
  p.entryReads c d (anvHandles d) ++ p.paramReads c d 128 ++
    (if b.isEmpty then [] else (pMatA b, 64) :: (if pMatQ b = 0 then [] else [(pMatQ b, 64)]))

/-- A solve of a method starts on the Anvil it names. -/
def startSolve (method q : Nat) (e : Env) (p : Pkg) : Pkg :=
  p.start e q (fun d => dKind d == 2 && anvMethod d == method) (fun d => p.solveReads (p.queueCtx q) d) (fun p d =>
    let c := p.queueCtx q
    let b := p.paramBytes c d 128
    match p.anvVerdict c d b with
    | some v =>
      let a := p.matHdr (pMatA b)
      let w := p.workspaceNeeded d b a (if pMatQ b = 0 then none else some (p.matHdr (pMatQ b)))
      if v = (0x3f, 0x43) then p.complete e q (p.head q) d { Rec.plain v.1 v.2 e.tagHall with detail := w } none
      else p.completeHead e q d v.1 v.2
    | none =>
      let h := anvUnit d
      let heads := (pMatA b :: (if pMatQ b = 0 then [] else [pMatQ b])).map (fun a => (a, (p.matHdr a).raw))
      ((((p.enterRun (p.newRun e q d b)).setSolve h (newSolve q d heads)).setFld (Reg.ANV_STATUS h) Fld.ANV_CTX c).setFld (Reg.ANV_STATUS h)
        Fld.ANV_METHOD method).anvState h 1)

/-- The run of the solve on an Anvil, while it may work: no replay owed and its Anvil not under test (Table 14-2). -/
def Pkg.solveRun (p : Pkg) (h : Nat) : Option (AnvSolve × Run) :=
  match p.solve h with
  | none => none
  | some s =>
    match p.runOf s.queue with
    | some r => if r.replayOn.isSome || r.stopped || r.finished || p.anvilHeld h then none else some (s, r)
    | none => none

/-- A failed check stops the solve, which is replayed from its descriptor (R284). -/
def Pkg.failSolve (p : Pkg) (e : Env) (h : Nat) (s : AnvSolve) (fl : CheckFail) : Pkg :=
  let k := Reg.ANV_ERR_INFO h
  let seq := (p.fld k Fld.ANV_ERR_SEQ + 1) % 256
  let p1 := (((p.setReg k 0).setFld k Fld.ANV_ERR_KIND fl.kind).setFld k Fld.ANV_ERR_LANE (if 1 ≤ fl.kind ∧ fl.kind ≤ 3 then fl.unit % 4096 else 0)).setFld
    k Fld.ANV_ERR_SEQ seq
  let p2 := (p1.event 8 (16 + h) fl.unit 1 fl.kind (leBytes 8 (p1.regNat k))).anvCount h (Reg.ANV_CNT_REPLAY h) 1
  (p2.oweReplay e s.queue (16 + h) fl.unit).anvState h 6

/-- Vectors of a solve that are inputs: b and x, or b and c (Table 07-3). -/
def solveInputs (d : List Byte) : List Nat := if anvLinear d then [0, 2] else [0, 1]

/-- Every vector that the setup scan reads, as its exact elements. -/
def Pkg.solveVector (p : Pkg) (r : Run) (h : Nat) : List Num :=
  let t := r.tensor h
  (List.range (t.size 0)).map (fun i => t.elem (p.tensorScale t) (p.inputByte r false) (r.origin h 0) (rel2 i 0))

/-- The cause the setup scan finds, if any (Table 07-7). -/
def Pkg.scanCause (p : Pkg) (r : Run) (a : MatHdr) (q : Option MatHdr) : Option Nat :=
  let fact : Bool := anvPc r.desc == 3 || anvPc r.desc == 4
  if p.structureBad a fact || (match q with | some m => p.structureBad m false | none => false) then some 0x41
  else if (solveInputs r.desc).any (fun h => (p.solveVector r h).any (fun x => !x.isFin)) || p.matNonfinite a ||
      (match q with | some m => p.matNonfinite m | none => false) then some 0x46
  else if p.matZero a then some 0x47
  else none

/-- The bytes of a matrix: its header as copied at the start, and its arrays. -/
def Pkg.matBytes (p : Pkg) (m : MatHdr) : List Byte :=
  m.raw ++ p.viewBytes m.ptr (8 * m.ptrCount) ++ p.viewBytes m.idx (4 * m.idxCount) ++ p.viewBytes m.val (m.valBytes * m.nnz)

/-- Read a matrix's arrays (R289, R321, R322). -/
def Pkg.touchMat (p : Pkg) (e : Env) (u : MemUser) (m : MatHdr) : Pkg × LineOutcome :=
  let x := p.touchRange e u m.ptr (8 * m.ptrCount)
  let y := x.1.touchRange e u m.idx (4 * m.idxCount)
  let z := y.1.touchRange e u m.val (m.valBytes * m.nnz)
  (z.1, (x.2.join y.2).join z.2)

/-- The exponent record of a BFX64 tensor (R244): its E; none for another stored format. -/
def Pkg.tensorExp (p : Pkg) (t : Tensor) : Option Int :=
  if t.stored = .bfx64 then some (toSigned 16 (leNat (p.viewBytes t.scale 2))) else none

/-- Everything that an open value of a solve depends on (R253): its descriptor, its tensors' descriptors, its parameter block, its matrices, its input
vectors with their exponents, and the numerics firmware level. -/
def Pkg.solveKey (p : Pkg) (r : Run) (ms : List MatHdr) : List Byte :=
  r.desc ++ r.tds.flatten ++ r.params ++ leBytes 2 p.numLevel ++ (ms.map p.matBytes).flatten ++
  ((solveInputs r.desc).map (fun h =>
    let t := r.tensor h
    (match p.tensorExp t with | some x => leBytes 2 (ofSigned 16 x) | none => []) ++
    ((t.covers (r.origin h 0)).map (fun ab => (List.range (ab.2 - ab.1)).map (fun i => p.inputByte r false (ab.1 + i)))).flatten)).flatten

/-! ### Inputs in normal form (R245) -/

/-- A finite input as an exact scalar: the formats' denominators are powers of two. -/
def Num.sca : Num → Sca
  | .fin s n d => ⟨if s then -(n : Int) else n, -(Nat.log2 d : Int)⟩
  | _ => ⟨0, 0⟩

/-- Convert an input at the exponent that brings its largest magnitude into [2^61, 2^62), with the flags of the conversion (R76, R245, R251). -/
def inputAt (xs : List Sca) (keep : Int) : AnvM Bfx := do
  match (largest xs).log with
  | none => return ⟨xs.map (fun _ => 0), keep⟩
  | some b =>
    let e ← anvExp (b - 61)
    let ms ← xs.mapM (fun x => do
      if losesAt e x.m x.e then anvRaise flagNX
      anvRound (b - 61) e x.m x.e)
    return ⟨ms, e⟩

/-- An input vector (R245): an all-zero one keeps its E, or takes 0 where its format has none. -/
def Pkg.inputVec (p : Pkg) (r : Run) (h : Nat) : AnvM Bfx :=
  inputAt ((p.solveVector r h).map Num.sca) ((p.tensorExp (r.tensor h)).getD 0)

/-- Stored entries of a row, block fill and padding included (Table 07-5, R247). -/
def Pkg.rowStored (p : Pkg) (m : MatHdr) (r : Nat) : Nat :=
  if m.storage = 3 then (p.matPtr m (r / 32 + 1) - p.matPtr m (r / 32)) / 32
  else (p.matPtr m (r / m.block + 1) - p.matPtr m (r / m.block)) * m.block

/-- The largest row absolute sum (Table 07-1). -/
def largestSum (rows : List AnvRow) : Sca := largest (rows.map (fun r => r.es.foldl (fun (a : Sca) e => a.plus e.2.abs) ⟨0, 0⟩))

/-- A matrix after the setup scan: each row a BFX64 vector with its own exponent (R246, R247). -/
def Pkg.scanMat (p : Pkg) (m : MatHdr) (both : Bool) : AnvM AnvMat := do
  let rows ← (List.range m.rows).mapM (fun i => do
    let es := p.matRow m i
    let v ← inputAt (es.map (fun x => x.2.sca)) 0
    return AnvRow.mk ((es.zip v.m).map (fun x => (x.1.1, ⟨x.2, v.e⟩))) (p.rowStored m i))
  let cols := if both then transposeRows m.cols 0 rows else []
  return ⟨rows, cols, largestSum rows, largestSum cols⟩

/-- A number of the parameter block as a scalar, or the default that 0 selects (Table 07-4). -/
def pSca (b : List Byte) (off : Nat) (dflt : Sca) : Sca := let x := pNum b off; (if x.isZero then dflt else x.sca).wide

/-- What the setup scan gives: the inputs, and iterate 0 (R245, R263, R272). -/
def Pkg.scanSolve (p : Pkg) (r : Run) (a : MatHdr) (q : Option MatHdr) : AnvM (AnvData × List (Nat × Bfx)) := do
  let lin := anvLinear r.desc
  let ma ← p.scanMat a (!lin)
  let mq ← match q with | some m => p.scanMat m false | none => pure ⟨[], [], ⟨0, 0⟩, ⟨0, 0⟩⟩
  let b ← p.inputVec r 0
  if lin then
    let x ← p.inputVec r 2
    let tol ← scaSum [(pSca r.params 0x30 ⟨0, 0⟩, ← anvNorm b), (pSca r.params 0x38 ⟨0, 0⟩, Sca.one)]
    return (⟨ma, mq, b, ⟨[], 0⟩, tol⟩, [(2, x)])
  else
    let c ← p.inputVec r 1
    return (⟨ma, mq, b, c, ⟨0, 0⟩⟩, [(2, ⟨List.replicate a.cols (2 ^ 61), -61⟩), (3, Bfx.zeros a.rows)])

/-! ### Units of work (R79, R249 to R252) -/

/-- How an attempt of a unit of work comes out: it is retried with a raised γ; it needs more range than a retry gives; or it is done. -/
inductive Attempt (α : Type) where
  | retry (gam : Nat × Nat)
  | range (value : α)
  | done (value : α) (work : AnvWork)

/-- Run an attempt from the start state (R249, R250). -/
def AnvSolve.attempt {α : Type} (s : AnvSolve) (m : AnvM α) : Attempt α :=
  let x := m.run ⟨0, s.gam, s.again, none, false, false, 0⟩
  if x.2.exceeded then .range x.1
  else match x.2.overflow with
    | none => .done x.1 x.2
    | some kg =>
      if s.again then .range x.1
      else
        let g := (8 + kg.2).toNat
        .retry (if kg.1 = 0 then (g, s.gam.2) else if kg.1 = 1 then (s.gam.1, g) else s.gam)

/-- An attempt is abandoned, and the unit of work runs again from its start state (R249). -/
def Pkg.retrySolve (p : Pkg) (h : Nat) (s : AnvSolve) (gam : Nat × Nat) : Pkg :=
  ((p.setSolve h { s with gam := gam, again := true, retries := s.retries + 1 }).anvCount h (Reg.ANV_CNT_RETRY h) 1).anvState h 3

/-- Commit a unit of work: its flags, its γ, its pivots and marks, and the workspace it wrote (R79, R252, R269). -/
def Pkg.commitSolve (p : Pkg) (e : Env) (h : Nat) (r : Run) (s : AnvSolve) (w : AnvWork) : Pkg :=
  let s1 := { s with lastCommit := e.tag, again := false, gam := w.gam, unreliable := s.unreliable || w.unreliable, pivots := s.pivots + w.pivots }
  ((((p.setRun { r with flags := r.flags ||| w.flags, endBeat := e.tag }).commitAnvFlags h r.ctx w.flags).setSolve h s1).anvCount h
    (Reg.ANV_CNT_PIVOT h) w.pivots).scratch e r

/-- A solve ends with a status: its return follows (R281). -/
def Pkg.endSolve (p : Pkg) (e : Env) (h st : Nat) : Pkg :=
  match p.solve h with
  | none => p
  | some s =>
    ((p.updRun s.queue (fun r => if st = 0 then r else r.raise e.tag st)).setSolve h { s with ended := some st, endTag := e.tag }).anvState h 5

/-- A scalar in F64, as records give norms (Table 07-10). -/
def Sca.f64 (a : Sca) : Nat := (convert .f64 .nearestEven false 0 a.num).code

/-- What an iteration of a linear method takes from the solve. -/
def AnvSolve.linCtx (s : AnvSolve) (r : Run) (last : Bool) : AnvCtx :=
  { d := s.data, f := s.factor, never := (pNum r.params 0x30).isZero && (pNum r.params 0x38).isZero, restart := anvRestart r.desc, last := last }

/-- What an interior-point step takes from the solve (Table 07-4). -/
def AnvSolve.ipm (s : AnvSolve) (r : Run) : IpmParams :=
  let b := r.params
  { qp := s.method == 5, epsP := pSca b 0x30 ⟨1, -27⟩, epsD := pSca b 0x38 ⟨1, -27⟩, epsG := pSca b 0x40 ⟨1, -27⟩, epsT := pSca b 0x48 ⟨1, -30⟩,
    rtol := pSca b 0x50 ⟨1, -20⟩, limit := pInnerMaxit b, pc := anvPc r.desc, floor := pFloor b, block := pBlock b, key := s.key }

/-- The last setup phase: the initial residual of a linear solve with the first vectors of its method, or the measure of an interior-point start. -/
def AnvSolve.first (s : AnvSolve) (r : Run) : AnvM AnvStep := do
  if s.method ≥ 4 then
    match ipmStart s.data.a.rows.length s.data.c.m.length with
    | .interior x y z tau kappa => ipmStep (s.ipm r) s.data x y z tau kappa 0 false
    | v => return .linear v ⟨[], 0⟩ ⟨0, 0⟩ none ⟨0, 0⟩ 0
  else
    let c := s.linCtx r false
    let x := (assoc? s.outs 2).getD ⟨[], 0⟩
    let t ← c.residual x
    return .linear (← linearStart s.method c x t.1 t.2) x t.2 none t.2 0

/-- An iteration of the solve's method; none is a breakdown. -/
def AnvSolve.iterate (s : AnvSolve) (r : Run) : AnvM (Option AnvStep) :=
  match s.vars with
  | .interior x y z tau kappa => ipmIterate (s.ipm r) s.data (s.iters + 1) x y z tau kappa
  | v => linearIterate (s.linCtx r (s.iters + 1 = pMaxit r.params)) s.outs s.norm v

/-- A solve after the setup phase that a command ends. -/
def AnvSolve.afterStep (s : AnvSolve) (t : AnvStep) : AnvSolve :=
  { s with vars := t.vars, outs := t.outs, norm := t.norm, resid := t.report.f64, primal := t.primal.f64, dual := t.dualObj.f64 }

/-- SETUP_PHASE_COMMIT: a setup phase commits its vectors and flags together (R252), or its attempt is abandoned for a retry (R249); the first holds the
setup scan of Table 07-7. -/
def setupPhaseCommit (h : Nat) (fail : Option CheckFail) (e : Env) (p : Pkg) : Pkg :=
  match p.solveRun h with
  | none => p
  | some sr =>
    let s := sr.1
    let r := sr.2
    if s.phase ≥ s.phases ∨ s.ended.isSome then p else
    match fail with
    | some fl => p.failSolve e h s fl
    | none =>
      if s.phase = 0 then
        let ms := s.heads.map (fun x => MatHdr.mk x.1 x.2)
        let a := ms.headD ⟨0, []⟩
        let rd := ms.foldl (fun (st : Pkg × LineOutcome) m => let x := st.1.touchMat e (.descriptor r.queue) m; (x.1, st.2.join x.2))
          (p.touchInputs e r (solveInputs r.desc))
        let r1 := r.readOutcome e rd.2
        if rd.2 = .failed then
          let x := rd.1.reportSolve e h s { r1 with undef := false }
          x.1.setRun x.2
        else match rd.1.scanCause r a ms[1]? with
        | some cause =>
          let ki := solveInfo s r 0x3f
          ((rd.1.setRun { r1.abort e.tag cause with finished := true, endBeat := e.tag, kindInfo := ki.1, detail := ki.2 }).dropSolve h).scratch e r
        | none =>
          let s1 := { s with key := rd.1.solveKey r ms, phase := 1 }
          match s.attempt (rd.1.scanSolve r a ms[1]?) with
          | .retry g => rd.1.retrySolve h s g
          | .range d => ((rd.1.setRun r1).setSolve h { s with outs := d.2 }).endSolve e h 0x25
          | .done d w => (rd.1.commitSolve e h r1 { s1 with data := d.1, outs := d.2 } w).anvState h 1
      else if s.phase = 1 ∧ s.phases = 3 then
        let f := do
          formFactor (anvPc r.desc) (pFloor r.params) (pBlock r.params) (pCheb r.params) (pSca r.params 0x40 ⟨0, 0⟩) (pSca r.params 0x48 ⟨0, 0⟩)
            (← s.data.a.rows.mapM (fun x => mergeCols x.es))
        match s.attempt f with
        | .retry g => p.retrySolve h s g
        | .range _ => p.endSolve e h 0x25
        | .done f w => (p.commitSolve e h r { s with phase := 2, factor := f } w).anvState h 1
      else
        match s.attempt (s.first r) with
        | .retry g => p.retrySolve h s g
        | .range _ => p.endSolve e h 0x25
        | .done t w =>
          (p.commitSolve e h r { (s.afterStep t) with phase := s.phases, resid0 := t.report.f64 } w).anvState h 2

/-! ### Iterations -/

/-- The status that stops a solve when its unit of work does not complete: a deadline that was sampled before it comes first (R276, R279). -/
def AnvSolve.stopWith (s : AnvSolve) (st : Nat) : Nat := if s.soft then 0x21 else st

/-- An iteration commits its buffers and counts (R252, R262), then its tests decide (R263, R264, R273, R274, R276). -/
def Pkg.commitIteration (p : Pkg) (e : Env) (h : Nat) (r : Run) (s : AnvSolve) (t : AnvStep) (w : AnvWork) : Pkg :=
  let k := s.iters + 1
  let out := if s.soft then none else t.ends
  let s1 := { (s.afterStep t) with
    iters := k, inner := s.inner + t.cycles, lastIter := e.tag, innerHit := s.innerHit || t.hit, tracked := out != some 0, dualToo := out.isSome && t.dual,
    cert := t.cert.f64 }
  let p1 := ((p.commitSolve e h r s1 w).anvCount h (Reg.ANV_CNT_ITER h) 1).anvState h 2
  match out with
  | some st => p1.endSolve e h st
  | none =>
    if s.soft then p1.endSolve e h 0x21
    else if k = pMaxit r.params then p1.endSolve e h 0x26
    else p1

/-- ITERATION_COMMIT: an iteration commits, its attempt is abandoned for a retry, or it breaks down or passes its range and the last completed iterate
stands (R249, R250, R265). -/
def iterationCommit (h : Nat) (fail : Option CheckFail) (e : Env) (p : Pkg) : Pkg :=
  match p.solveRun h with
  | none => p
  | some sr =>
    let s := sr.1
    let r := sr.2
    if s.phase < s.phases ∨ s.ended.isSome then p else
    match fail with
    | some fl => p.failSolve e h s fl
    | none =>
      match s.attempt (s.iterate r) with
      | .retry g => p.retrySolve h s g
      | .range _ => p.endSolve e h (s.stopWith 0x25)
      | .done none _ => p.endSolve e h (s.stopWith 0x27)
      | .done (some t) w => p.commitIteration e h r s t w

/-- ANVIL_DEADLINE_EXPIRY: expiry is sampled for a running solve (R275 to R279). A replay of a solve is sampled again (R284). -/
def anvilDeadline (h : Nat) (e : Env) (p : Pkg) : Pkg :=
  match p.solve h with
  | none => p
  | some s =>
    match p.runOf s.queue with
    | none => p
    | some r =>
      if !deadlinePassed e.tagHall r.desc then p else
      let p1 := p.setRun { r with late := true }
      match s.ended with
      | some st => if st = 0x26 ∧ s.endTag = e.tag ∧ !r.late then p1.setRun ({ r with late := true }.raise e.tag 0x21) else p1
      | none =>
        if r.replayOn.isSome then p1
        else if s.phase < s.phases then p1.endSolve e h 0x24
        else if s.soft then p1
        else if s.lastCommit ≥ e.tag || dHard r.desc then p1.endSolve e h 0x21
        else (p1.setSolve h { s with soft := true }).anvState h 4

/-! ### Return -/

/-- Convert a vector that a solve returns into a handle's stored format (R76, R256): its bytes and flags. -/
def Pkg.returnVector (p : Pkg) (r : Run) (s : AnvSolve) (h : Nat) : List Segment × Nat :=
  let t := r.tensor h
  let v := (assoc? s.outs h).getD ⟨[], 0⟩
  let vals := v.m.map (fun m => some (if t.stored = .bfx64 then Num.ofInt m else (Num.ofInt m).scale2 v.e))
  let st := t.storeRow (.fin false 1 1) p.view (r.origin h 0) 0 (fun q => rel2 q 0) p.free vals
  (segmentsOf st.bytes ++ (if t.stored = .bfx64 then [⟨t.scale, leBytes 2 (ofSigned 16 v.e) ++ List.replicate 14 0⟩] else []), st.flags)

/-- Handles that a return writes for an ending (R263, R273, R274, R278). -/
def returnHandles (s : AnvSolve) (d : List Byte) : List Nat :=
  match s.ended with
  | some 0x24 => []
  | some 0x22 => if s.dualToo then [2, 3] else [3]
  | some 0x23 => [2]
  | _ => if anvLinear d then [2] else [2, 3]

/-- SOLVE_RETURN_END: the return writes its handles and the result record, and the completion follows (R280 to R282); a check that fails in it sends the
solve to its replay (R284). -/
def solveReturnEnd (h : Nat) (fail : Option CheckFail) (e : Env) (p : Pkg) : Pkg :=
  match p.solveRun h with
  | none => p
  | some sr =>
    let s := sr.1
    let r := sr.2
    match s.ended, fail with
    | none, _ => p
    | some _, some fl => p.failSolve e h s fl
    | some code, none =>
      let w := (returnHandles s r.desc).foldl (fun (st : Pkg × Run × Nat) x =>
        let v := st.1.returnVector st.2.1 s x
        let y := st.1.routineStore e st.2.1 x [(x, v.1)]
        (y.1, y.2, st.2.2 ||| v.2)) (p, r, 0)
      let r1 := w.2.1
      let p1 := if code = 0x21 ∨ code = 0x24 ∨ chooseStatus r1.statuses = 0x21 then w.1.anvCount h (Reg.ANV_CNT_STOP h) 1 else w.1
      let x := p1.reportSolve e h s r1
      (x.1.setRun { x.2.done e with flags := r1.flags ||| w.2.2 }).commitAnvFlags h r.ctx w.2.2

/-- A solve begins again from its descriptor, its headers and parameter block as its start copied them (R284, R495). No setup phase starts once expiry was
sampled, so a replay of a solve that is late ends at once (R275, R278). -/
def Pkg.restartSolve (p : Pkg) (e : Env) (r : Run) : Pkg :=
  if r.kind = 2 then
    let h := anvUnit r.desc
    let heads := match p.solve h with | some s => s.heads | none => []
    let p1 := (p.setSolve h (newSolve r.queue r.desc heads)).anvState h 1
    if r.late then p1.endSolve e h 0x24 else p1
  else p

/-- ANVIL_LANE_RETIREMENT: a faulty lane leaves service at the next iteration boundary; at most 8 multiply-accumulate and 2 divide lanes
(R285). -/
def anvilLaneRetirement (h : Nat) (_ : Env) (p : Pkg) : Pkg :=
  let k := Reg.ANV_STATUS h
  match p.ras.waiting.find? (fun u => u.1 == 16 + h && (u.2 / 4096 == 0xa || u.2 / 4096 == 0xb)) with
  | none => p
  | some u =>
    let p1 := { p with ras := { p.ras with waiting := p.ras.waiting.erase u } }
    if u.2 / 4096 = 0xa then p1.setFld k Fld.ANV_LANES (max 120 (p1.fld k Fld.ANV_LANES - 1))
    else p1.setFld k Fld.ANV_DLANES (max 14 (p1.fld k Fld.ANV_DLANES - 1))

/-- Counters of Table 07-16. -/
def anvCounters (h : Nat) : List Nat := (List.range 7).map (fun i => Reg.ANV_CNT_SOLVES h + 8 * i)

/-! ### The commands -/

/-- CG (R262). -/
def execCg (q : Fin 64) (s : State) : Host.Outcome State Fault Refusal := s.work .none (startSolve 0 q.val)
/-- BICGSTAB (R262). -/
def execBicgstab (q : Fin 64) (s : State) : Host.Outcome State Fault Refusal := s.work .none (startSolve 1 q.val)
/-- GMRES (R262). -/
def execGmres (q : Fin 64) (s : State) : Host.Outcome State Fault Refusal := s.work .none (startSolve 2 q.val)
/-- MINRES (R262). -/
def execMinres (q : Fin 64) (s : State) : Host.Outcome State Fault Refusal := s.work .none (startSolve 3 q.val)
/-- LP (R272). -/
def execLp (q : Fin 64) (s : State) : Host.Outcome State Fault Refusal := s.work .none (startSolve 4 q.val)
/-- QP (R272). -/
def execQp (q : Fin 64) (s : State) : Host.Outcome State Fault Refusal := s.work .none (startSolve 5 q.val)

/-- SETUP_PHASE_COMMIT (R252). -/
def execSetupPhaseCommit (h : Fin 4) (fail : Option CheckFail) (s : State) : Host.Outcome State Fault Refusal :=
  s.work (checkEv (16 + h.val) fail) (setupPhaseCommit h.val fail)
/-- ITERATION_COMMIT (R252). -/
def execIterationCommit (h : Fin 4) (fail : Option CheckFail) (s : State) : Host.Outcome State Fault Refusal :=
  s.work (checkEv (16 + h.val) fail) (iterationCommit h.val fail)
/-- ANVIL_DEADLINE_EXPIRY (R275), an event of class 9. -/
def execAnvilDeadlineExpiry (h : Fin 4) (s : State) : Host.Outcome State Fault Refusal :=
  s.work ⟨9, 16 + h.val, 0xc000⟩ (anvilDeadline h.val)
/-- SOLVE_RETURN_END (R281). -/
def execSolveReturnEnd (ret : SolveReturn) (s : State) : Host.Outcome State Fault Refusal :=
  s.work (checkEv (16 + ret.anvil.val) ret.fail) (solveReturnEnd ret.anvil.val ret.fail)
/-- ANVIL_LANE_RETIREMENT (R285). -/
def execAnvilLaneRetirement (h : Fin 4) (s : State) : Host.Outcome State Fault Refusal := s.work .none (anvilLaneRetirement h.val)
/-- ANV_CNT_CLR (R286). -/
def execAnvCntClr (src : Source) (h : Fin 4) (s : State) : Host.Outcome State Fault Refusal :=
  s.through src (s.work .none (fun _ p => p.zeroRegs (anvCounters h.val)))

end Sys2Proof.Machine
end

