-- ==== Sys2Proof/Machine/RvAlu.lean ====
section
/-! DEFINITION. The integer results of the base's instructions (spec 09_host_cores_and_qvx.md, R330, Table 09-2: RV64I, M, Zba, Zbb, Zbs). Encodings and
results are those of the published specification that R330 names. -/

namespace Sys2Proof.Machine

/-- Count leading zeros, trailing zeros and ones of the low `w` bits. -/
def countLead (w n : Nat) : Nat := if n % 2 ^ w = 0 then w else w - 1 - Nat.log2 (n % 2 ^ w)
def countTrail (w n : Nat) : Nat := ((List.range w).find? (fun i => n.testBit i)).getD w
def countOnes (w n : Nat) : Nat := (rangeFilter w (fun i => n.testBit i)).length

/-- Rotate right within `w` bits. -/
def rotRight (w n k : Nat) : Nat := let r := k % w; (n >>> r ||| n <<< (w - r)) % 2 ^ w

/-- Division of the base: by zero it gives all ones and the dividend; the one overflow wraps. -/
def rvDiv (w : Nat) (signed : Bool) (a b : Nat) : Nat :=
  if b = 0 then 2 ^ w - 1 else if signed then ofSigned w ((toSigned w a).tdiv (toSigned w b)) else a / b
def rvRem (w : Nat) (signed : Bool) (a b : Nat) : Nat :=
  if b = 0 then a else if signed then ofSigned w ((toSigned w a).tmod (toSigned w b)) else a % b

/-- Register-register operations on `w` bits, by funct7 and funct3. The shifts take log2 w bits of b. -/
def rvOp (w f7 f3 a b : Nat) : Option Nat :=
  let m := 2 ^ w
  let s := toSigned w
  let k := b % w
  match f7, f3 with
  | 0x00, 0 => some ((a + b) % m)
  | 0x00, 1 => some (a <<< k % m)
  | 0x00, 5 => some (a >>> k)
  | 0x20, 0 => some ((a + m - b) % m)
  | 0x20, 5 => some (ofSigned w (s a / (2 ^ k : Nat)))
  | 0x01, 0 => some (a * b % m)
  | 0x01, 4 => some (rvDiv w true a b)
  | 0x01, 5 => some (rvDiv w false a b)
  | 0x01, 6 => some (rvRem w true a b)
  | 0x01, 7 => some (rvRem w false a b)
  | 0x30, 1 => some (rotRight w a (w - k))
  | 0x30, 5 => some (rotRight w a k)
  | _, _ => none

/-- Register-register operations of 64 bits alone. -/
def rvOp64 (f7 f3 a b : Nat) : Option Nat :=
  let m := 2 ^ 64
  let s := toSigned 64
  let less (x : Bool) : Nat := if x then 1 else 0
  match f7, f3 with
  | 0x00, 2 => some (less (s a < s b))
  | 0x00, 3 => some (less (a < b))
  | 0x00, 4 => some (a ^^^ b)
  | 0x00, 6 => some (a ||| b)
  | 0x00, 7 => some (a &&& b)
  | 0x20, 7 => some (a &&& (m - 1 - b))
  | 0x20, 6 => some (a ||| (m - 1 - b))
  | 0x20, 4 => some (m - 1 - (a ^^^ b))
  | 0x01, 1 => some (ofSigned 64 (s a * s b / (m : Nat)))
  | 0x01, 2 => some (ofSigned 64 (s a * (b : Int) / (m : Nat)))
  | 0x01, 3 => some (a * b / m)
  | 0x10, 2 => some ((a * 2 + b) % m)
  | 0x10, 4 => some ((a * 4 + b) % m)
  | 0x10, 6 => some ((a * 8 + b) % m)
  | 0x05, 4 => some (if s b < s a then b else a)
  | 0x05, 5 => some (if b < a then b else a)
  | 0x05, 6 => some (if s a < s b then b else a)
  | 0x05, 7 => some (if a < b then b else a)
  | 0x24, 1 => some (a &&& (m - 1 - 2 ^ (b % 64)))
  | 0x24, 5 => some (bit a (b % 64))
  | 0x34, 1 => some (a ^^^ 2 ^ (b % 64))
  | 0x14, 1 => some (a ||| 2 ^ (b % 64))
  | _, _ => rvOp 64 f7 f3 a b

/-- The low 32 bits of a result, sign-extended. -/
def rvWord (n : Nat) : Nat := ofSigned 64 (toSigned 32 n)

/-- Register-register operations of 32 bits, and those that take the unsigned low half of rs1. -/
def rvOp32 (f7 f3 rs2 a b : Nat) : Option Nat :=
  let u := a % 2 ^ 32
  match f7, f3 with
  | 0x04, 0 => some ((u + b) % 2 ^ 64)
  | 0x04, 4 => if rs2 = 0 then some (a % 2 ^ 16) else none
  | 0x10, 2 => some ((u * 2 + b) % 2 ^ 64)
  | 0x10, 4 => some ((u * 4 + b) % 2 ^ 64)
  | 0x10, 6 => some ((u * 8 + b) % 2 ^ 64)
  | _, _ => (rvOp 32 f7 f3 u (b % 2 ^ 32)).map rvWord

/-- Every byte that is not zero becomes all ones. -/
def orBytes (n : Nat) : Nat := (List.range 8).foldl (fun (a : Nat) i => a + (if bitsOf n (8 * i + 7) (8 * i) = 0 then 0 else 255) * 2 ^ (8 * i)) 0

/-- The bytes of a word in reverse order. -/
def revBytes (n : Nat) : Nat := (List.range 8).foldl (fun (a : Nat) i => a + bitsOf n (8 * i + 7) (8 * i) * 2 ^ (56 - 8 * i)) 0

/-- Operations with an immediate of 12 bits. -/
def rvImm (f3 imm a : Nat) : Option Nat :=
  let v := ofSigned 64 (toSigned 12 imm)
  let k := imm % 64
  match f3 with
  | 1 =>
    if imm = 0x600 then some (countLead 64 a) else if imm = 0x601 then some (countTrail 64 a) else if imm = 0x602 then some (countOnes 64 a)
    else if imm = 0x604 then some (ofSigned 64 (toSigned 8 a)) else if imm = 0x605 then some (ofSigned 64 (toSigned 16 a))
    else match imm / 64 with
      | 0x00 => rvOp64 0x00 1 a k
      | 0x12 => rvOp64 0x24 1 a k
      | 0x1a => rvOp64 0x34 1 a k
      | 0x0a => rvOp64 0x14 1 a k
      | _ => none
  | 5 =>
    if imm = 0x287 then some (orBytes a) else if imm = 0x6b8 then some (revBytes a)
    else match imm / 64 with
      | 0x00 => rvOp64 0x00 5 a k
      | 0x10 => rvOp64 0x20 5 a k
      | 0x18 => rvOp64 0x30 5 a k
      | 0x12 => rvOp64 0x24 5 a k
      | _ => none
  | _ => rvOp64 0x00 f3 a v

/-- Operations of 32 bits with an immediate. -/
def rvImm32 (f3 imm a : Nat) : Option Nat :=
  let u := a % 2 ^ 32
  match f3 with
  | 0 => some (rvWord (u + imm + (if imm < 2048 then 0 else 2 ^ 32 - 4096)))
  | 1 =>
    if imm / 64 = 2 then some (u <<< (imm % 64) % 2 ^ 64)
    else if imm = 0x600 then some (countLead 32 a) else if imm = 0x601 then some (countTrail 32 a) else if imm = 0x602 then some (countOnes 32 a)
    else if imm / 32 = 0 then rvOp32 0x00 1 0 a imm else none
  | 5 => match imm / 32 with
    | 0x00 => rvOp32 0x00 5 0 a (imm % 32)
    | 0x20 => rvOp32 0x20 5 0 a (imm % 32)
    | 0x30 => rvOp32 0x30 5 0 a (imm % 32)
    | _ => none
  | _ => none

/-- A branch is taken; none where the comparison is reserved. -/
def rvBranch (f3 a b : Nat) : Option Bool :=
  match f3 with
  | 0 => some (a == b)
  | 1 => some (a != b)
  | 4 => some (toSigned 64 a < toSigned 64 b)
  | 5 => some (!decide (toSigned 64 a < toSigned 64 b))
  | 6 => some (a < b)
  | 7 => some (!decide (a < b))
  | _ => none

end Sys2Proof.Machine
end

