-- ==== Sys2Proof/Machine/Mmio.lean ====
section
/-! DEFINITION. Reads and writes of the package's registers (R9 to R12, R31, R41, R43, R214, R239, R334, R411, R464, R467, R545 to R547, R558
to R560): computed registers, access codes, staging into the undercoat, mailboxes, and the registers whose write is an action. -/

namespace Sys2Proof.Machine

/-! ### Reads -/

/-- Mesh row and column of a die (Table 01-2); a stash die reports its array die's. -/
def meshPos (die : Nat) : Nat × Nat :=
  let d := if 8 ≤ die ∧ die < 16 then die - 8 else die
  if d < 4 then (1, d + 1) else if d < 8 then (2, d - 3)
  else match d with
    | 16 => (0, 1) | 17 => (0, 4) | 18 => (3, 1) | 19 => (3, 4)
    | 20 => (0, 0) | 21 => (0, 5) | 22 => (1, 0) | 23 => (1, 5) | 24 => (2, 0) | 25 => (2, 5) | 26 => (3, 0) | 27 => (3, 5)
    | 28 => (0, 2) | 29 => (3, 2) | 30 => (0, 3) | _ => (3, 3)

/-- The kind code of a die (Table 01-7). -/
def dieKindCode (die : Nat) : Nat :=
  if die < 8 then 0 else if die < 16 then 1 else if die < 20 then 2 else if die < 28 then 3 else if die < 30 then 4
  else if die = 30 then 5 else 6

/-- `PKG_DIE_INFO` of a die (Table 01-7); stepping B0 reads 0x10. -/
def dieInfo (die : Nat) : Nat :=
  0x10 * 2 ^ 24 + (meshPos die).1 * 2 ^ 20 + (meshPos die).2 * 2 ^ 17 + islandOf die * 2 ^ 12 + dieKindCode die * 2 ^ 8 + die

/-- The numerics signature of a context (R467, Table 13-3). -/
def Pkg.numSig (p : Pkg) (c : Nat) : Nat :=
  if p.partValid c then
    0x10 * 2 ^ 56 + p.numLevel * 2 ^ 40 + 2 * 2 ^ 32 + 4 * 2 ^ 24 + log2 (p.partDies c).length * 2 ^ 20 +
      p.fld (Reg.TIM_CTX_CFG c) Fld.TIM_DETMODE * 2 ^ 16
  else 0

/-- Feature register i as a die reads it (Table 06-20). -/
def Pkg.feature (p : Pkg) (die i : Nat) : Nat :=
  match i with
  | 16 => if p.grade = 1 then 1800 else 2000
  | 17 => p.grade
  | 18 => match p.partOfDie die with | some c => (p.partDies c).length | none => 0
  | _ => [512, 512, 16, 8, 24, 65536, 1024, 512, 64, 0x3fff, 64, 8, 4096, 65536, 5, 0x20004].getD i 0

/-- Armed entries of an engine (Table 11-12). -/
def Pkg.armedCount (p : Pkg) (en : Nat) : Nat := (p.trigs.filter (fun t => t.engine == en)).length

/-- Reduction slots that communicators reserve on each fabric die (R428). -/
def Pkg.slotsReserved (p : Pkg) : Nat := (p.col.comms.map (fun (c : Comm) => c.slots)).sum

/-- Slots that the stages of a communicator's collectives claim (R442). -/
def Pkg.slotsClaimed (p : Pkg) (c : Comm) : Nat :=
  ((p.col.runs.filter (fun (r : ColRun) => r.ctx == c.ctx && r.comm == c.id)).map (fun (r : ColRun) =>
    c.window * (r.stages.filter (fun (s : ColStage) => s.claim == 1)).length)).sum

/-- Requests an engine holds outstanding (R380): those it has issued. -/
def Pkg.outstanding (p : Pkg) (en : Nat) : Nat := (p.fab.reqs.filter (fun r => r.engine == en)).length

/-- The word a register holds as a read finds it, before WO fields and reserved bits read zero: stored, or computed. -/
def Pkg.regView (p : Pkg) (e : Env) (off : Nat) (h : RegHit) : W64 :=
  let die := off / blockBytes
  let w := p.reg h.key
  let n (x : Nat) : W64 := BitVec.ofNat 64 x
  match h.spec.name with
  | "PKG_DIE_INFO" => n (dieInfo die)
  | "DSP_NUMSIG" => n (p.numSig die)
  | "DSP_FEAT" => n (p.feature die h.index)
  | "DSP_QSTATUS" => setField w Fld.DSP_Q_STATE (p.queueState (8 * die + h.index))
  | "COL_TRIG_STATUS" => n (p.armedCount (4 * (die - 20) + h.index))
  | "COL_SLOT_STATUS" =>
    let claimed := (p.col.comms.map p.slotsClaimed).sum
    n ((2048 - p.slotsReserved) + 2 ^ 16 * (p.slotsReserved - claimed))
  | "FAB_ENG_STATUS" => n ((match p.partOfEngines (die - 20) with | some c => c | none => 0) * 2 ^ 11 + p.outstanding (4 * (die - 20) + h.index))
  | "ARR_STATUS" => p.arrayStatus e die w
  | "COAT_STATUS" => p.coatStatus e die w
  | "TIM_HALL" => n e.hall
  | "TIM_BEAT" => n e.clock.beat
  | "MGT_LOG_NEXT" => n e.log.next
  | "MGT_UC_STATUS" => setField w Fld.MGT_UC_ENTRIES p.staged.length
  | "TIM_STATUS" => setField w Fld.TIM_IS_MASTER (if p.on Reg.FAB_LOC Fld.FAB_LOC_VALID && p.ownLoc == p.time.master then 1 else 0)
  | "SEC_STATUS" =>
    let key (r : Nat) : Nat := if (assoc? p.mgt.keys r).isSome then 1 else 0
    let keys := key 0 + 2 * key 1 + ((List.range 8).map (fun c => 2 ^ (2 + c) * key (8 + c))).sum
    let ck := ((List.range 8).map (fun c => if (assoc? p.mgt.ckptKeys c).isSome then 2 ^ c else 0)).sum
    n (keys * 2 ^ 12 + min 15 p.mgt.proposals.length * 2 ^ 8 + ck)
  | "CKP_MASK_STATUS" =>
    let mine := p.ckp.runs.filter (fun (r : CkRun) => r.engine == die - 28)
    let free := (mine.map (fun (r : CkRun) => r.stagePages - r.stages.length)).sum
    n (min 0xffff (p.masks.filter (fun m => mine.any (fun (r : CkRun) => r.queue == m.queue))).length * 2 ^ 16 + free)
  | "RAS_STATUS" => setField (setField w Fld.RAS_MARCH_PEND (min 255 p.ras.marchDue.length)) Fld.RAS_TEST_ACTIVE
      (min 255 p.ras.tests.length)
  | _ => w

/-- Byte position of an offset within the register it lies in. -/
def regLane (h : RegHit) (off : Nat) : Nat := off % blockBytes - (h.spec.off + h.index * h.spec.stride)

/-- A read of up to 8 bytes at an MMIO offset; unassigned offsets read zero (R9, R11, R41, R43). A read across two 32-bit registers reads
both. -/
def Pkg.mmioRead (p : Pkg) (e : Env) (off width : Nat) : Nat :=
  let one (o wd : Nat) : Nat :=
    match findReg o with
    | none => 0
    | some h => (h.spec.readBack (p.regView e o h)).toNat >>> (8 * regLane h o) % 2 ^ (8 * wd)
  match findReg off with
  | some h => if h.spec.bytes = 4 ∧ width = 8 then one off 4 + one (off + 4) 4 * 2 ^ 32 else one off width
  | none => if width = 8 then one (off + 4) 4 * 2 ^ 32 else 0

/-! ### Staging (R558 to R560) -/

/-- The canonical offset of a staged register. -/
def Staged.key (s : Staged) : Nat := match findReg s.off with | some h => h.key | none => s.off

/-- The undercoat's entry for a register. -/
def Pkg.stagedAt (p : Pkg) (key : Nat) : Option Staged := p.staged.find? (fun s => s.key == key)

/-- States of the undercoat (Table 16-14). -/
abbrev ucEmpty : Nat := 0
abbrev ucOpen : Nat := 1
abbrev ucChecked : Nat := 2
abbrev ucArmed : Nat := 3

/-- The undercoat's state and holder. -/
def Pkg.ucState (p : Pkg) : Nat := p.fld Reg.MGT_UC_STATUS Fld.MGT_UC_STATE
def Pkg.ucHolder (p : Pkg) : Nat := p.fld Reg.MGT_UC_STATUS Fld.MGT_UC_HOLDER

/-- A mailbox may stage: the undercoat is empty, or it holds it and it is not armed (R558, R567). -/
def Pkg.mayStage (p : Pkg) (m : Nat) : Bool :=
  p.ucState == ucEmpty || (p.ucState != ucArmed && p.ucHolder == m)

/-- Add 1 to the generation (R560). -/
def Pkg.nextGen (p : Pkg) : Pkg := p.setNat Reg.MGT_UC_GEN ((p.regNat Reg.MGT_UC_GEN + 1) % 2 ^ 32)

/-- Put registers into the undercoat, replacing those it holds. -/
def Pkg.putStaged (p : Pkg) (xs : List Staged) : Pkg :=
  xs.foldl (fun (q : Pkg) x =>
    if (q.stagedAt x.key).isSome then { q with staged := q.staged.map (fun s => if s.key = x.key then x else s) }
    else { q with staged := q.staged ++ [x] }) p

/-- Registers the undercoat would hold beside its own. -/
def Pkg.newStaged (p : Pkg) (xs : List Staged) : Nat :=
  (xs.foldl (fun (acc : List Nat) x => if acc.contains x.key || (p.stagedAt x.key).isSome then acc else acc ++ [x.key]) []).length

/-- A mailbox stages registers: the undercoat opens with it as holder, and one generation passes (R558, R560); none is taken beyond 4,096
registers. -/
def Pkg.stage (p : Pkg) (e : Env) (m : Nat) (xs : List Staged) : Option Pkg :=
  if p.staged.length + p.newStaged xs > 4096 then none
  else some { ((((p.putStaged xs).setFld Reg.MGT_UC_STATUS Fld.MGT_UC_STATE ucOpen).setFld Reg.MGT_UC_STATUS Fld.MGT_UC_HOLDER m).nextGen) with
    ucSince := e.hall }

/-- The ST part of a register write (R559): nothing when it equals what the undercoat holds or, when it holds none, what is in effect; else
a staging by the source's principal, or a discard that is logged. -/
def Pkg.stagePart (p : Pkg) (e : Env) (src : Source) (off : Nat) (h : RegHit) (full : W64) : Pkg :=
  let st := h.spec.stMask
  let base := match p.stagedAt h.key with | some s => s.value | none => p.reg h.key
  let drop := p.refuse 30 5 src off full.toNat
  if full &&& st = base &&& st then p
  else match src with
    | .engine _ => drop
    | .fabric _ => drop
    | _ =>
      match p.principalOf src with
      | none => drop
      | some m =>
        if p.complexUp && p.mayStage m then
          (match p.stage e m [⟨off, h.spec.bytes, full, false⟩] with
           | some q => q
           | none => drop)
        else drop

/-! ### Mailboxes (R545 to R547) -/

/-- A write to a mailbox from a source its binding does not name (R545). -/
def Pkg.mailReject (p : Pkg) (m : Nat) (src : Source) (off v : Nat) : Pkg :=
  (p.setFld (Reg.MGT_MB_STATUS m) Fld.MGT_MB_REJECT 1).refuse 30 4 src off v

/-- The command area of a mailbox (R546). -/
def Pkg.mailArea (p : Pkg) (m : Nat) : List Byte := ((List.range 32).map (fun i => leBytes 8 (p.regNat (Reg.MGT_MB_CMD m i)))).flatten

/-- Put a command area. -/
def Pkg.setMailArea (p : Pkg) (m : Nat) (bs : List Byte) : Pkg :=
  (List.range 32).foldl (fun (q : Pkg) i => q.setNat (Reg.MGT_MB_CMD m i) (leAt bs (8 * i) 8)) p

/-- A doorbell is sampled: BUSY, not DONE, and a copy of the command area; refused while BUSY (R546, R547). A command of the undercoat's
holder renews its hold (R558). -/
def Pkg.mailDoorbell (p : Pkg) (e : Env) (m tag : Nat) (oob : Bool) (refused : Pkg → Pkg) : Pkg :=
  if p.on (Reg.MGT_MB_STATUS m) Fld.MGT_MB_BUSY then refused (p.setFld (Reg.MGT_MB_STATUS m) Fld.MGT_MB_OVERRUN 1)
  else
    let p1 := (p.setFld (Reg.MGT_MB_STATUS m) Fld.MGT_MB_BUSY 1).setFld (Reg.MGT_MB_STATUS m) Fld.MGT_MB_DONE 0
    let p2 := { p1 with mbox := p1.mbox ++ [(m, ⟨p.mailArea m, tag % 65536, e.tag, oob, false⟩)] }
    if p2.ucState ≠ ucEmpty ∧ p2.ucHolder = m then { p2 with ucSince := e.hall } else p2

/-! ### Fabric ports -/

/-- The fabric die, 0 to 7, of a port. -/
def portFab (port : Nat) : Nat := portDie port - 20

/-- The unit code of a port and of its lane (Table 14-1). -/
def portUnit (port : Nat) : Nat := 0x9000 + port
def portLaneUnit (port lane : Nat) : Nat := 0x8000 + 4 * port + lane

/-- Record a fabric error in its die's error register (Table 10-12). -/
def Pkg.fabErr (p : Pkg) (kind port reason : Nat) : Pkg :=
  let k := Reg.FAB_ERR_INFO (portFab port)
  ((((p.setFld k Fld.FAB_ERR_KIND kind).setFld k Fld.FAB_ERR_PORT port).setFld k Fld.FAB_ERR_REASON reason)).setFld k Fld.FAB_ERR_SEQ
    ((p.fld k Fld.FAB_ERR_SEQ + 1) % 256)

/-- The data of a port's error event: the error register, then the port. -/
def portErrData (p : Pkg) (port : Nat) : List Byte := leBytes 8 (p.regNat (Reg.FAB_ERR_INFO (portFab port))) ++ leBytes 8 port

/-- State of a port: 0 down, 1 training, 2 and 3 up, 4 quarantined, 5 unused (Table 10-12). -/
def Pkg.portState (p : Pkg) (port : Nat) : Nat := p.fld (Reg.FAB_PORT_STATUS port) Fld.FAB_PS_STATE

/-- A port carries traffic. -/
def Pkg.portUp (p : Pkg) (port : Nat) : Bool := p.portState port == 2 || p.portState port == 3

/-- A port goes down (R412). -/
def Pkg.portFalls (p : Pkg) (port : Nat) : Pkg :=
  if p.portState port = 0 ∨ p.portState port = 5 then p
  else ((p.setFld (Reg.FAB_PORT_STATUS port) Fld.FAB_PS_STATE 0).setFld (Reg.FAB_PORT_STATUS port) Fld.FAB_PS_LANES 0).fabErr 5 port 0

/-- The state of an up port by its lanes in service: four or three (R374, Table 10-12). -/
def upState (lanes : Nat) : Nat := if ((List.range 4).filter (fun i => lanes.testBit i)).length = 4 then 2 else 3

/-- The operator ends a port's quarantine (R411), logged under Table 16-11. -/
def Pkg.portRestore (p : Pkg) (port : Nat) : Pkg :=
  if p.portState port = 4 then
    (p.setFld (Reg.FAB_PORT_STATUS port) Fld.FAB_PS_STATE (upState (p.fld (Reg.FAB_PORT_STATUS port) Fld.FAB_PS_LANES))).record
      (portDie port) (portUnit port) 0xa 3 (leBytes 4 port)
  else p

/-! ### Counter clears -/

/-- Counters of Table 10-13 on fabric die f. -/
def fabCounters (f : Nat) : List Nat := (List.range 10).map (fun i => Reg.FAB_CNT_TX f + 8 * i)

/-- Counters of Tables 11-14 and 11-15 on fabric die f. -/
def colCounters (f : Nat) : List Nat :=
  ((List.range 5).map (fun l => [Reg.COL_CNT_INNET f l, Reg.COL_CNT_FALLBACK f l, Reg.COL_CNT_STALL f l, Reg.COL_CNT_DETOUR f l])).flatten ++
  [Reg.COL_CNT_MISMATCH f, Reg.COL_CNT_TIMEOUT f, Reg.COL_CNT_TRIG_ERR f]

/-- Counters that `RAS_CNT_CLR` clears: those of Table 14-7 but the down time, which MRAM keeps (R507). -/
def rasCounters : List Nat := (List.range 9).map (fun i => Reg.RAS_CNT_DETECTED + 8 * i)

/-- Counters of Table 15-12 on X `x`. -/
def ckpCounters (x : Nat) : List Nat := (List.range 7).map (fun i => Reg.CKP_CNT_BYTES_OUT x + 8 * i)

/-- Counters of Table 16-15. -/
def mgtCounters : List Nat := (List.range 6).map (fun i => Reg.MGT_CNT_CMD + 8 * i)

/-- Counters of Table 17-6. -/
def pwrCounters : List Nat := (List.range 4).map (fun i => Reg.PWR_CNT_WARN + 8 * i)

/-! ### Writes -/

/-- A timed release is armed (R464): a release whose beat has passed is late. -/
def Pkg.armRelease (p : Pkg) (e : Env) (c : Nat) : Pkg :=
  let k := Reg.TIM_CTX_CFG c
  let late : Bool := ceilDiv (p.regNat (Reg.TIM_REL_AT c)) 16 ≤ e.clock.beat
  let p1 := p.setFld k Fld.TIM_REL_ARM 1
  if late then p1.setFld k Fld.TIM_REL_LATE 1 else p1

/-- The fields of a register take a write by their access codes (R9, R10, R559): `full` is the register's word with the written bytes in
place, `v` those bytes alone. -/
def Pkg.writeFields (p : Pkg) (e : Env) (src : Source) (off : Nat) (h : RegHit) (full v : W64) : Pkg :=
  let old := p.reg h.key
  let s := h.spec
  let lk := s.lkMask ||| s.mask (fun a => a == .woLk)
  let p1 := p.setReg h.key ((old &&& ~~~s.rwMask ||| full &&& s.rwMask) &&& ~~~(v &&& s.w1cMask))
  let p2 :=
    if lk = 0 then p1
    else if s.name = "MEM_RG_ATTR" then  -- its owner belongs to the protection tables, which no write changes (R600, log entry 82)
      (if full &&& lk = old &&& lk then p1 else p1.refuse (off / blockBytes) 1 src off full.toNat)
    else if p.granted src h full.toNat then p1.setReg h.key ((p1.reg h.key &&& ~~~s.lkMask) ||| (full &&& s.lkMask))
    else p1.refuse (off / blockBytes) 1 src off full.toNat
  p2.stagePart e src off h ((full &&& ~~~lk) ||| (p2.reg h.key &&& lk))

/-- Zero counters when bit 0 of a control register is written 1. -/
def Pkg.clearIf (p : Pkg) (v : W64) (ks : List Nat) : Pkg := if v.getLsbD 0 then p.zeroRegs ks else p

/-- The control register of a queue: IRQEN, then enable or disable, flush, resume (Table 06-17). -/
def Pkg.writeQctrl (p : Pkg) (e : Env) (src : Source) (q : Nat) (full v : W64) : Pkg :=
  let p1 := p.setFld (Reg.DSP_QCTRL q) Fld.DSP_Q_IRQEN (getField full Fld.DSP_Q_IRQEN)
  let p2 := if getField full Fld.DSP_Q_ENABLE = 1 then queueEnable src q e p1 else queueDisable src q e p1
  let p3 := if getField v Fld.DSP_Q_FLUSH = 1 then queueFlush src q e p2 else p2
  if getField v Fld.DSP_Q_RESUME = 1 then queueResume src q e p3 else p3

/-- The word of a register as writes have left it: the fields in effect, and the ST fields as staged. -/
def Pkg.heldWord (p : Pkg) (h : RegHit) : W64 :=
  match p.stagedAt h.key with
  | some s => (p.reg h.key &&& ~~~h.spec.stMask) ||| (s.value &&& h.spec.stMask)
  | none => p.reg h.key

/-- One register takes the word `full` of a write of `v`, by its fields or as an action. -/
def Pkg.actReg (p : Pkg) (e : Env) (src : Source) (off width value : Nat) (h : RegHit) (full v : W64) : Pkg :=
  let die := off / blockBytes
  let plain := p.writeFields e src off h full v
  let q := 8 * die + h.index
  match h.spec.name with
  | "DSP_QTAIL" => tailDoorbell src q full.toNat e p
  | "DSP_QCHEAD" => headDoorbell src q full.toNat e p
  | "DSP_QHEAD" => qheadWrite src q full.toNat e p
  | "DSP_QCTRL" => p.writeQctrl e src q full v
  | "DSP_QBASE" => if p.queueEnabled q then p else plain
  | "DSP_QCPL" => if p.queueEnabled q then p else plain
  | "DSP_CTX_CTRL" => if v.getLsbD 0 then flagClr src die e p else p
  | "DSP_FLAG" => flagWrite src die h.index width value none e p
  | "DSP_FLAG_ADD" => flagAdd src die h.index width value e p
  | "ARR_CTRL" => plain.clearIf v (arrCounters die)
  | "ARR_QCTRL" => arrQhistClr src die (getField v Fld.ARR_QHIST_CLR) e (plain.clearIf v (quenchCounters die))
  | "COAT_CTRL" => plain.clearIf v (coatCounters die)
  | "ANV_CTRL" => plain.clearIf v (anvCounters (die - 16))
  | "MEM_CTRL" => plain.clearIf v (memCounters (3 * die + h.index))
  | "FAB_CTRL" => plain.clearIf v (fabCounters (die - 20))
  | "COL_CTRL" => plain.clearIf v (colCounters (die - 20))
  | "RAS_CTRL" => plain.clearIf v rasCounters
  | "CKP_CTRL" => plain.clearIf v (ckpCounters (die - 28))
  | "MGT_CTRL" => plain.clearIf v mgtCounters
  | "PWR_CTRL" => plain.clearIf v pwrCounters
  | "RAS_HMC_STATUS" =>
    if getField v Fld.RAS_HMC_VALID = 1 then plain.setReg h.key (setField (plain.reg h.key) Fld.RAS_HMC_OVER 0) else plain
  | "FAB_PORT_CTRL" =>
    if p.granted src h full.toNat then
      (match (List.range 36).find? (fun x => Reg.FAB_PORT_CTRL x == h.key) with
       | some x =>
         let p1 := if getField v Fld.FAB_PC_RESTORE = 1 then plain.portRestore x else plain
         if getField full Fld.FAB_PC_DISABLE = 1 then p1.portFalls x else p1
       | none => plain)
    else plain
  | "TIM_CTX_CFG" =>
    if p.granted src h full.toNat && getField full Fld.TIM_REL_ARM == 1 && !p.on h.key Fld.TIM_REL_ARM then plain.armRelease e h.index
    else plain
  | "MGT_MB_CMD" =>
    let m := off % blockBytes / 0x1000
    if p.bindNames m src then p.setReg h.key full else p.mailReject m src off value
  | "MGT_MB_RSP" => p
  | "MGT_MB_DOORBELL" =>
    if p.bindNames h.index src then p.mailDoorbell e h.index v.toNat false (fun s => s.refuse 30 6 src off value)
    else p.mailReject h.index src off value
  | _ => plain

/-- Registers whose writes take their own place in a cycle: the pointers of queues and the flags. -/
def selfOrdered : List String := ["DSP_QTAIL", "DSP_QCHEAD", "DSP_QHEAD", "DSP_FLAG", "DSP_FLAG_ADD"]

/-- One register takes a write of bytes that lie within it, in the order of its cycle (R31). -/
def Pkg.writeReg (p : Pkg) (e : Env) (src : Source) (off width value : Nat) (h : RegHit) : Pkg :=
  let lane := 8 * regLane h off
  let v : W64 := BitVec.ofNat 64 ((value % 2 ^ (8 * width)) <<< lane)
  let wm : W64 := BitVec.ofNat 64 ((2 ^ (8 * width) - 1) <<< lane)
  let full := (p.heldWord h &&& ~~~wm) ||| v
  -- flags that a commit of the same cycle set remain set (R81)
  let x := p.sameCycle (p.cycle.filter (fun (c : CycleWrite) => c.key == h.key && c.die == hardwareDie))
  let v1 := v &&& ~~~((x.1.foldl (fun (m : W64) (c : CycleWrite) => m ||| c.bits) 0) &&& h.spec.mask (fun a => a == .rw1c))
  if selfOrdered.contains h.spec.name then x.2.actReg e src off width value h full v1
  else x.2.inOrder (sourceDie src off) h.key wm full (fun s => s.heldWord h) (fun w s => s.actReg e src off width value h w v1)

/-- A write of 1, 2, 4 or 8 bytes at an MMIO offset; unassigned offsets ignore it (R41, R43). Eight bytes across two 32-bit registers are
two writes, lower first. -/
def Pkg.mmioWrite (p : Pkg) (e : Env) (src : Source) (off width value : Nat) : Pkg :=
  let one (q : Pkg) (o wd v : Nat) : Pkg := match findReg o with | some h => q.writeReg e src o wd v h | none => q
  match findReg off with
  | some h =>
    if h.spec.bytes = 4 ∧ width = 8 then one (one p off 4 (value % 2 ^ 32)) (off + 4) 4 (value / 2 ^ 32 % 2 ^ 32)
    else one p off (min width (h.spec.bytes - regLane h off)) value
  | none => if width = 8 then one p (off + 4) 4 (value / 2 ^ 32 % 2 ^ 32) else p

/-- A host core's access to MMIO is admitted: naturally aligned, of the register's own width (R334, R41). A mailbox area takes either width
(R578). -/
def hostMmioOk (off width : Nat) : Bool :=
  (width == 4 || width == 8) && off % width == 0 &&
  match findReg off with
  | some h =>
    if h.spec.name = "MGT_MB_CMD" ∨ h.spec.name = "MGT_MB_RSP" then true else h.spec.bytes == width && regLane h off == 0
  | none => true

/-- A register write from a source: a host core's that breaks R334 takes an access fault. -/
def registerWrite (src : Source) (off width value : Nat) (e : Env) (p : Pkg) : Pkg :=
  match src with
  | .core g =>
    if hostMmioOk off width then p.mmioWrite e src off width value else p.registerFault e g.val off
  | _ => p.mmioWrite e src off width value

/-- REGISTER_WRITE (R9). Management registers answer while the complex runs, whatever the package's stage. -/
def execRegisterWrite (src : Source) (off width value : Nat) (s : State) : Host.Outcome State Fault Refusal :=
  s.through src (if off / blockBytes = 30 then s.any (registerWrite src off width value) else s.work .none (registerWrite src off width value))

/-- STAGING_WRITE (R559): a write of a register that holds ST fields. -/
def execStagingWrite (src : Source) (off width value : Nat) (s : State) : Host.Outcome State Fault Refusal := s.through src (s.work .none (fun e p =>
    match findReg off with
    | some h => if h.spec.stMask = 0 then p else registerWrite src off width value e p
    | none => p))

/-! ### Clears and restores with rows of their own -/

/-- FAB_PC_RESTORE (R411): granted to the OPERATOR. -/
def execFabPcRestore (src : Source) (port : Fin 36) (s : State) : Host.Outcome State Fault Refusal := s.through src (s.work .none (fun _ p =>
    if p.isOperator src then p.portRestore port.val else p.refuse (portDie port.val) 1 src (Reg.FAB_PORT_CTRL port.val) 1))

/-- FAB_CNT_CLR (R413). -/
def execFabCntClr (src : Source) (die : Fin 8) (s : State) : Host.Outcome State Fault Refusal :=
  s.through src (s.work .none (fun _ p => p.zeroRegs (fabCounters die.val)))

/-- A write of `COL_TCNT_e_c` sets the counter in the order of its cycle (R31, R416, Table 11-13: an LK field of the engine's partition's owner); a host core's must be of 64 bits
(R334), a narrower one from elsewhere sets the low bytes. Widths are in bytes. -/
def colTcntWrite (src : Source) (en c width v : Nat) (e : Env) (p : Pkg) : Pkg :=
  let k := Reg.COL_TCNT en c
  let m := 2 ^ (8 * min width 8)
  let full := p.regNat k / m * m + v % m
  let act :=
    if p.isOwner src (p.partOfEngines (en / 4)) then
      p.inOrder (sourceDie src k) k (BitVec.ofNat 64 (m - 1)) (BitVec.ofNat 64 full) (fun s => s.reg k) (fun w s => s.setReg k w)
    else p.refuse (20 + en / 4) 1 src k full
  match src with
  | .core g => if width = 8 then act else p.registerFault e g.val k
  | _ => act

/-- COL_TCNT_WRITE (R416). -/
def execColTcntWrite (src : Source) (engine : Fin 32) (c : Fin 16384) (width value : Nat) (s : State) : Host.Outcome State Fault Refusal :=
  s.through src (s.work .none (colTcntWrite src engine.val c.val width value))

/-- COL_CNT_CLR (R452). -/
def execColCntClr (src : Source) (die : Fin 8) (s : State) : Host.Outcome State Fault Refusal :=
  s.through src (s.work .none (fun _ p => p.zeroRegs (colCounters die.val)))

/-- TIMED_RELEASE_ARM (R464): granted to the context's owner. -/
def execTimedReleaseArm (src : Source) (ctx : Fin 8) (s : State) : Host.Outcome State Fault Refusal := s.through src (s.work .none (fun e p =>
    if p.isOwner src (some ctx.val) then p.armRelease e ctx.val else p.refuse 30 1 src (Reg.TIM_CTX_CFG ctx.val) 0x80000000))

/-- RAS_CNT_CLR (R509). -/
def execRasCntClr (src : Source) (s : State) : Host.Outcome State Fault Refusal := s.through src (s.work .none (fun _ p => p.zeroRegs rasCounters))

/-- CKP_CNT_CLR (R539). -/
def execCkpCntClr (src : Source) (x : Fin 2) (s : State) : Host.Outcome State Fault Refusal :=
  s.through src (s.work .none (fun _ p => p.zeroRegs (ckpCounters x.val)))

/-- MGT_CNT_CLR (R578). -/
def execMgtCntClr (src : Source) (s : State) : Host.Outcome State Fault Refusal := s.through src (s.any (fun _ p => p.zeroRegs mgtCounters))

/-- PWR_CNT_CLR (R596). -/
def execPwrCntClr (src : Source) (s : State) : Host.Outcome State Fault Refusal := s.through src (s.work .none (fun _ p => p.zeroRegs pwrCounters))

end Sys2Proof.Machine
end

