-- ==== Sys2Proof/Machine/FabNet.lean ====
section
/-! DEFINITION. The switch and the homes of the Qorloth Fabric (spec 10_qorloth_fabric.md, R364 to R378, R388 to R412; 18_protection_and_tenancy.md,
R601, R602): locations and routing, packets and check values, the violations of a port, service at a home, and flows as their
destination keeps them. -/

namespace Sys2Proof.Machine

/-! ### Locations and routing (R364 to R378) -/

def locRow (l : Nat) : Nat := bitsOf l 17 12
def locRack (l : Nat) : Nat := bitsOf l 11 6
def locTray (l : Nat) : Nat := bitsOf l 5 2
def locPkg (l : Nat) : Nat := l % 4

/-- This package's location is set (R368). -/
def Pkg.locValid (p : Pkg) : Bool := p.on Reg.FAB_LOC Fld.FAB_LOC_VALID

/-- Sizes of the topology: XR, YR, XM, YM and the trays of a rack (R369). -/
structure Topo where
  xr : Nat
  yr : Nat
  xm : Nat
  ym : Nat
  trays : Nat
  deriving DecidableEq, Repr

/-- A topology word (Table 10-11). -/
def topoOf (w : W64) : Topo :=
  ⟨getField w Fld.FAB_TOPO_XR + 1, getField w Fld.FAB_TOPO_YR + 1, getField w Fld.FAB_TOPO_XM + 1, getField w Fld.FAB_TOPO_YM + 1,
   getField w Fld.FAB_TOPO_TRAYS + 1⟩

/-- A location lies in a topology (R366, R368, R369). -/
def Topo.holds (t : Topo) (l : Nat) : Bool :=
  l < 2 ^ 18 && locRow l % 8 < t.xm && locRow l / 8 < t.ym && locRack l % 8 < t.xr && locRack l / 8 < t.yr && locTray l < t.trays

/-- The topology in effect. -/
def Pkg.topo (p : Pkg) : Topo := topoOf (p.reg Reg.FAB_TOPO)

/-- Ports of a torus hop that reduce the distance from a to b in a ring of n (R376); in a ring of 2 both directions are parallel (R373). -/
def ringPorts (n a b : Nat) (plus minus : List Nat) : List Nat :=
  let d := (b + n - a % n) % n
  if d = 0 then [] else (if 2 * d ≤ n then plus else []) ++ (if 2 * (n - d) ≤ n then minus else [])

/-- The level of the next hop towards a location and its admissible ports (R376, Table 10-2): 4 machine, 3 row, 2 rack, 1 tray, 0 here. -/
def nextHop (t : Topo) (own dest : Nat) : Nat × List Nat :=
  if locRow own ≠ locRow dest then
    (4, ringPorts t.xm (locRow own % 8) (locRow dest % 8) [32] [33] ++ ringPorts t.ym (locRow own / 8) (locRow dest / 8) [34] [35])
  else if locRack own ≠ locRack dest then
    (3, ringPorts t.xr (locRack own % 8) (locRack dest % 8) [24, 25] [26, 27] ++
      ringPorts t.yr (locRack own / 8) (locRack dest / 8) [28, 29] [30, 31])
  else if locTray own ≠ locTray dest then
    (2, [9 + (if locTray dest > locTray own then locTray dest - 1 else locTray dest)])
  else if locPkg own ≠ locPkg dest then
    let i := if locPkg dest > locPkg own then locPkg dest - 1 else locPkg dest
    (1, [3 * i, 3 * i + 1, 3 * i + 2])
  else (0, [])

/-- A port has a peer under the topology (R373). -/
def Topo.hasPeer (t : Topo) (port : Nat) : Bool :=
  if port < 9 then true
  else if port < 24 then port - 9 + 1 < t.trays
  else if port < 28 then t.xr > 1
  else if port < 32 then t.yr > 1
  else if port < 34 then t.xm > 1
  else t.ym > 1

/-- The ports a detour takes first: those of the tray peers that are up (R378). -/
def Pkg.detourPorts (p : Pkg) (not : List Nat) : List Nat := rangeFilter 9 (fun x => p.portUp x && !not.contains x)

/-- One of several ports: by the flow's hash for class 0, and freely for class 1, whose choice follows queued traffic (R377). -/
def Pkg.pickPort (p : Pkg) (xs : List Nat) (src dest eng cls : Nat) : Nat × Pkg :=
  match xs with
  | [] => (0, p)
  | [x] => (x, p)
  | _ =>
    if cls = 0 then (xs.getD ((Config.flowHash src dest eng cls).toNat % xs.length) 0, p)
    else let f := p.drawFree 1; (xs.getD ((Config.freeWord f.1).toNat % xs.length) 0, f.2)

/-- The port on which a packet leaves towards a location; none when no path is up (R376 to R378). The flag says that it detours. -/
def Pkg.route (p : Pkg) (dest src eng cls : Nat) : Option (Nat × Bool) × Pkg :=
  if !p.locValid || !p.topo.holds dest then (none, p)
  else
    let hop := (nextHop p.topo p.ownLoc dest).2
    match hop.filter p.portUp with
    | [] =>
      match p.detourPorts hop with
      | [] => (none, p)
      | ds => let x := p.pickPort ds src dest eng cls; (some (x.1, true), x.2)
    | xs => let x := p.pickPort xs src dest eng cls; (some (x.1, false), x.2)

/-! ### Borrowing a level (R447) -/

/-- The ports of a level (Table 10-2). -/
def levelPorts (lv : Nat) : List Nat :=
  (List.range 36).filter (fun x => match lv with | 1 => x < 9 | 2 => 9 ≤ x && x < 24 | 3 => 24 ≤ x && x < 32 | 4 => 32 ≤ x | _ => false)

/-- The level of a port. -/
def portLevel (port : Nat) : Nat := if port < 9 then 1 else if port < 24 then 2 else if port < 32 then 3 else 4

/-- A port's busy share in its last window, in percent. -/
def Pkg.busyOf (p : Pkg) (port : Nat) : Nat := (assoc? p.fab.busy port).getD 0

/-- The ports of the next level by which a detour-eligible packet leaves: its hop's admissible ports were all more than 90 % busy, and those
of the next level below 30 %. -/
def Pkg.borrowPorts (p : Pkg) (dest : Nat) : List Nat :=
  let hop := nextHop p.topo p.ownLoc dest
  let adm := hop.2.filter p.portUp
  let ups := (levelPorts (hop.1 + 1)).filter p.portUp
  if 1 ≤ hop.1 ∧ hop.1 ≤ 3 ∧ adm ≠ [] ∧ adm.all (fun x => p.busyOf x > 90) ∧ ups.all (fun x => p.busyOf x < 30) then ups else []

/-- The ports by which a packet that borrowed a level crosses at the level below: it came by a port on which it would return. -/
def Pkg.crossPorts (p : Pkg) (dest port : Nat) : List Nat :=
  let back := (nextHop p.topo p.ownLoc dest).2.any (fun x => x == port || (24 ≤ x && x < 32 && x / 2 == port / 2))
  let lo := 2 ^ (match portLevel port with | 2 => 2 | 3 => 6 | 4 => 12 | _ => 0)
  if back then ((nextHop p.topo p.ownLoc (p.ownLoc / lo * lo + dest % lo)).2).filter p.portUp else []

/-- The port on which a packet leaves, a detour-eligible collective packet's borrowed level taken in (R447). -/
def Pkg.routeOf (p : Pkg) (dest src eng cls : Nat) (eligible : Bool) (from_ : Option Nat) : Option (Nat × Bool) × Pkg :=
  let cross := match from_ with | some x => if eligible && p.topo.holds dest then p.crossPorts dest x else [] | none => []
  let ups := if eligible && p.topo.holds dest && cross.isEmpty then p.borrowPorts dest else []
  if !cross.isEmpty then let x := p.pickPort cross src dest eng cls; (some (x.1, true), x.2)
  else if !ups.isEmpty then
    let x := p.pickPort ups src dest eng cls
    let f := portFab x.1
    (some (x.1, true), x.2.colCount f (Reg.COL_CNT_DETOUR f (nextHop p.topo p.ownLoc dest).1) 1)
  else p.route dest src eng cls

/-! ### Packets (R395 to R397) -/

abbrev tyRead : Nat := 1
abbrev tyWrite : Nat := 2
abbrev tyAtomic : Nat := 3
abbrev tyReply : Nat := 4
abbrev tyNack : Nat := 5
abbrev tySync : Nat := 6

/-- The fields of a packet header (Table 10-6). -/
structure Hdr where
  ty : Nat
  cls : Nat
  detour : Bool
  comb : Bool
  count : Nat
  seqLo : Nat
  src : Nat
  eng : Nat
  addr : Nat
  len : Nat
  op : Nat
  reason : Nat
  flags : Nat
  epoch : Nat
  reserved : Bool
  deriving DecidableEq, Repr

/-- Read a header's 32 bytes. -/
def parseHdr (b : List Byte) : Hdr :=
  let f := leAt b 1 1
  let s := leAt b 4 4
  { ty := leAt b 0 1, cls := f % 4, detour := f.testBit 2, comb := f.testBit 3, count := f / 16 + 1, seqLo := leAt b 2 2,
    src := s % 2 ^ 18, eng := bitsOf s 22 18, addr := leAt b 8 8, len := leAt b 0x10 1 + 1, op := leAt b 0x11 1,
    reason := leAt b 0x12 1, flags := leAt b 0x13 1 % 32, epoch := leAt b 0x14 4,
    reserved := bitsOf s 31 23 != 0 || leAt b 0x18 8 != 0 || leAt b 0x13 1 / 32 != 0 }

/-- Write a header's 32 bytes. -/
def Hdr.bytes (h : Hdr) : List Byte :=
  leBytes 1 h.ty ++ leBytes 1 (h.cls + (if h.detour then 4 else 0) + (if h.comb then 8 else 0) + 16 * (h.count - 1)) ++ leBytes 2 h.seqLo ++
  leBytes 4 (h.src + h.eng * 2 ^ 18) ++ leBytes 8 h.addr ++ leBytes 1 (h.len - 1) ++ leBytes 1 h.op ++ leBytes 1 h.reason ++
  leBytes 1 h.flags ++ leBytes 4 h.epoch ++ leBytes 8 0

/-- Destination location of a request, from its fabric address (Table 10-1). -/
def addrLoc (a : Nat) : Nat := a / 2 ^ 46 % 2 ^ 18

/-- Local offset of a fabric address. -/
def addrOff (a : Nat) : Nat := a % 2 ^ 46

/-- A fabric address (R365). -/
def fabAddr (loc off : Nat) : Nat := loc * 2 ^ 46 + off

/-- The location a packet travels to: a reply or NACK to its requester, another packet to its address. -/
def Hdr.dest (h : Hdr) : Nat := if h.ty = tyReply ∨ h.ty = tyNack then h.src else addrLoc h.addr

/-- A collective packet marked detour-eligible (R447). -/
def Hdr.borrows (h : Hdr) : Bool := 0x10 ≤ h.ty && h.ty ≤ 0x15 && h.detour

/-- The check value of a packet (R396). -/
def checkOf (dest addr seq : Nat) (header payload : List Byte) : Nat :=
  crc32c (leBytes 4 dest ++ leBytes 8 addr ++ leBytes 4 seq ++ header ++ payload)

/-- A packet is on a port's lanes. -/
def Pkg.putOut (p : Pkg) (x : FabOut) : Pkg :=
  let q : Pkg := { p with fab := { p.fab with sent := p.fab.sent ++ [x] } }
  q.fabCount (portFab x.port) (Reg.FAB_CNT_TX (portFab x.port)) 1

/-- Put a packet on a port's lanes. -/
def Pkg.emit (p : Pkg) (port seq : Nat) (h : Hdr) (payload : List Byte) : Pkg :=
  let hb := h.bytes
  p.putOut ⟨port, seq, hb, payload, checkOf h.dest h.addr seq hb payload⟩

/-- Send a packet towards its destination; the flag says whether a path exists. A detour is a disturbance (R378, R474). -/
def Pkg.sendOn (p : Pkg) (h : Hdr) (seq : Nat) (payload : List Byte) : Pkg × Bool :=
  match p.routeOf h.dest h.src h.eng h.cls h.borrows none with
  | (none, q) => (q, false)
  | (some (port, det), q) =>
    let q1 := q.emit port seq h payload
    (if det then q1.disturb 4 (portDie port) (portUnit port) else q1, true)

/-- Answer a request with a packet: the request's source fields, address and number name the flow it answers. -/
def Pkg.answerPkt (p : Pkg) (h : Hdr) (seq ty reason flags : Nat) (payload : List Byte) : Pkg :=
  let a : Hdr := { h with ty := ty, reason := reason, flags := flags, epoch := p.regNat Reg.FAB_EPOCH, detour := false, reserved := false, len := max 1 payload.length }
  (p.sendOn a seq payload).1

/-- Answer a request with a NACK, counted on the die of the arrival port (R404, Table 10-13). -/
def Pkg.nackPkt (p : Pkg) (f : Nat) (h : Hdr) (seq reason : Nat) : Pkg :=
  (p.answerPkt { h with comb := false, count := 1 } seq tyNack reason 0 []).fabCount f (Reg.FAB_CNT_NACK f) 1

/-! ### Port violations (R410, R411) -/

/-- Violations of a port by window, the one in progress first. -/
def Pkg.violWins (p : Pkg) (port : Nat) : List Nat := (assoc? p.fab.viols port).getD [0]

/-- Set a port's windows; `FAB_PV_COUNT` is their sum, saturating. -/
def Pkg.setViols (p : Pkg) (port : Nat) (ws : List Nat) : Pkg :=
  ({ p with fab := { p.fab with viols := assocPut p.fab.viols port ws } }).setFld (Reg.FAB_PORT_VIOL port) Fld.FAB_PV_COUNT (min 0xffff ws.sum)

/-- Quarantine a port (R411). -/
def Pkg.quarantine (p : Pkg) (port reason src : Nat) : Pkg :=
  if p.portState port = 4 then p
  else
    let p1 := p.setFld (Reg.FAB_PORT_STATUS port) Fld.FAB_PS_STATE 4
    ((p1.event 8 (portDie port) (portUnit port) 1 3 (portErrData p1 port)).raiseIrq 8 (portDie port) (104 + portFab port)).record
      (portDie port) (portUnit port) 0xa 2 (leBytes 4 port ++ leBytes 4 reason ++ leBytes 4 src)

/-- A packet breaks the format or contract: counted, logged, and the port quarantined past 1,000 (R410, R411). -/
def Pkg.violation (p : Pkg) (port reason src : Nat) : Pkg :=
  let ws := p.violWins port
  let ws1 := match ws with | [] => [1] | w :: t => (w + 1) :: t
  let p1 := ((p.setViols port ws1).fabErr 3 port reason).fabCount (portFab port) (Reg.FAB_CNT_VIOL (portFab port)) 1
  let p2 := p1.record (portDie port) (portUnit port) 0xa 1 (leBytes 4 port ++ leBytes 4 reason ++ leBytes 4 src)
  if ws1.sum > 1000 then p2.quarantine port reason src else p2

/-- A violation of a packet whose source can be decoded is answered with a NACK. -/
def Pkg.violationNack (p : Pkg) (port : Nat) (h : Hdr) (seq reason : Nat) : Pkg :=
  let p1 := p.violation port reason h.src
  if p1.topo.holds h.src then p1.nackPkt (portFab port) h seq reason else p1

/-! ### Atomics (R388, R389) -/

/-! ### Service at the home (R385, R392, R394, R404, R601) -/

/-- Rights of an access-list entry: bit 0 R, 1 W, 2 A (Table 18-6). -/
abbrev rightR : Nat := 0
abbrev rightW : Nat := 1
abbrev rightA : Nat := 2

/-- A valid access-list entry grants a source a right to a region, or to a context's windows (R601). -/
def Pkg.aclGrants (p : Pkg) (src right target : Nat) (ctx : Bool) : Bool :=
  (List.range 256).any (fun i =>
    let k := Reg.SEC_ACL i
    p.on k Fld.SEC_ACL_VALID && p.fld k Fld.SEC_ACL_FIRST ≤ src && src ≤ p.fld k Fld.SEC_ACL_LAST &&
    (p.fld k Fld.SEC_ACL_RIGHTS).testBit right && p.on k Fld.SEC_ACL_CTX == ctx && p.fld k Fld.SEC_ACL_TARGET == target)

/-- The rights a kind of request needs (R601). -/
def kindRight (kind : Nat) : Nat := if kind = tyRead then rightR else if kind = tyAtomic then rightA else rightW

/-- The delay reason of an outcome: a wait for calibration (Table 06-14). -/
def LineOutcome.reason (o : LineOutcome) : Nat := if o = .late ∨ o = .lateRebuilt then 2 else 0

/-- Store a write of this package's own; a masked page delays it (R518). -/
def Pkg.homeStore (p : Pkg) (e : Env) (src a : Nat) (bs : List Byte) : Pkg × Served :=
  let delay := if p.rangeMasked a bs.length then 5 else 0
  let x := p.storeOrHold e (.fabric src) a bs
  (x.1, if x.2 = .failed then Served.nack 0x59 else ⟨0, [], 0, max delay x.2.reason⟩)

/-- An atomic's operands as its request carries them. -/
def atomOp (op : Nat) (data : List Byte) : AtomOp := ⟨op % 16, op / 16, data⟩

/-- A request on memory that its home serves in place: hole, access list, quota, and the access itself (R40, R312, R322, R404, R601). A refusal for
want of bandwidth is counted (Table 08-11). -/
def Pkg.homeMemory (p : Pkg) (e : Env) (src kind a len op : Nat) (data : List Byte) : Pkg × Served :=
  match p.regionAt a with
  | none => (p, Served.nack 0x50)
  | some r =>
    let s := (r.place (a - r.base)).1
    if !r.holds (a + len - 1) then (p, Served.nack 0x50)
    else if src != p.ownLoc && !p.aclGrants src (kindRight kind) r.num false then (p, Served.nack 0x54)
    else if !r.stash && p.noBandwidth r.owner then (p.memCount s (Reg.MEM_CNT_REFUSED s) 1, Served.nack 0x56)
    else if kind = tyWrite then p.homeStore e src a data
    else
      let x := p.touchRange e (.fabric src) a len
      if x.2 = .failed then (x.1, Served.nack 0x59)
      else
        let old := x.1.viewBytes a len
        if kind = tyRead then (x.1, ⟨0, old, 0, x.2.reason⟩)
        else
          let n := runAtomics old [atomOp op data]
          let y := x.1.homeStore e src a n.2.2
          (y.1, if y.2.reason = 0 then ⟨0, old, n.2.1, max x.2.reason y.2.delay⟩ else y.2)

/-- Fields of MMIO that a foreign request may reach: a host-writable flag window of a context, or a trigger counter of a partition's
engine; the context is the answer (R601). -/
def Pkg.windowCtx (p : Pkg) (off : Nat) : Option Nat :=
  match findReg off with
  | some h =>
    let die := off / blockBytes
    if h.spec.name = "DSP_FLAG" ∨ h.spec.name = "DSP_FLAG_ADD" then (if p.flagWritable die h.index then some die else none)
    else if h.spec.name = "COL_TCNT" then p.partOfEngines (die - 20)
    else none
  | none => none

/-- Read-modify-write of a window or counter by an atomic. -/
def Pkg.homeMmioAtomic (p : Pkg) (e : Env) (src off len op : Nat) (data : List Byte) : Pkg × Served :=
  let old := p.mmioRead e off len
  let n := typeBytes (op / 16)
  let x := atomicResult (op % 16) (op / 16) old (leAt data 0 n) (leAt data n n)
  let q :=
    match findReg off with
    | some h => if h.spec.name = "COL_TCNT" then p.setNat h.key x.1 else p.mmioWrite e (.fabric (Fin.ofNat 262144 src)) off len x.1
    | none => p
  (q, ⟨0, leBytes len old, x.2, 0⟩)

/-- A request on MMIO (R45, R214, R416, R601). A trigger counter changes by an atomic alone. -/
def Pkg.homeMmio (p : Pkg) (e : Env) (src kind a len op : Nat) (data : List Byte) : Pkg × Served :=
  let off := a - 0x30000000000
  let foreign : Bool := src != p.ownLoc
  let named (s : String) : Bool := match findReg off with | some h => h.spec.name == s | none => false
  let ok : Bool := match p.windowCtx off with | some c => p.aclGrants src (kindRight kind) c true | none => false
  if foreign && (!ok || kind == tyRead || (named "COL_TCNT" && kind != tyAtomic)) then (p, Served.nack 0x54)
  else if kind = tyRead then
    (p, ⟨0, (List.range (ceilDiv len 8)).foldl (fun (acc : List Byte) i =>
      acc ++ leBytes (min 8 (len - 8 * i)) (p.mmioRead e (off + 8 * i) (min 8 (len - 8 * i)))) [], 0, 0⟩)
  else if kind = tyAtomic then p.homeMmioAtomic e src off len op data
  else
    ((List.range (ceilDiv len 8)).foldl (fun (q : Pkg) i =>
      let n := min 8 (len - 8 * i)
      q.mmioWrite e (.fabric (Fin.ofNat 262144 src)) (off + 8 * i) n (leAt data (8 * i) n)) p, ⟨0, [], 0, 0⟩)

/-- Serve a request at its home (R392, R394): memory, MMIO, a PCI Express window, whose data the model leaves free, or a hole. -/
def Pkg.serveHome (p : Pkg) (e : Env) (src kind addr len op : Nat) (data : List Byte) : Pkg × Served :=
  let a := addrOff addr
  if isHbm a || isStash a then p.homeMemory e src kind a len op data
  else if isMmio a then p.homeMmio e src kind a len op data
  else if isWindow a then
    (if src ≠ p.ownLoc then (p, Served.nack 0x54)
     else if kind = tyWrite then (p, ⟨0, [], 0, 0⟩)
     else let f := p.drawFree len; (f.2, ⟨0, (List.range len).map (fun i => Config.freeByte (f.1 + i)), 0, 0⟩))
  else (p, Served.nack 0x50)

/-! ### Flows at the destination (R390, R397, R400 to R402) -/

/-- A flow's record; a flow never heard of expects 0. -/
def Pkg.inFlow (p : Pkg) (src eng cls : Nat) : InFlow :=
  (p.fab.inflows.find? (fun f => f.src == src && f.engine == eng && f.cls == cls)).getD ⟨src, eng, cls, 0, [], [], 0⟩

/-- Put back a flow's record. -/
def Pkg.setInFlow (p : Pkg) (f : InFlow) : Pkg :=
  let same (x : InFlow) : Bool := x.src == f.src && x.engine == f.engine && x.cls == f.cls
  let fs := p.fab.inflows
  let xs := if fs.any same then fs.map (fun x => if same x then f else x) else fs ++ [f]
  { p with fab := { p.fab with inflows := xs } }

/-- The full sequence number of a header's low 16 bits, in [X − 32,768, X + 32,767] (R397). -/
def fullSeq (x lo : Nat) : Nat := (x + 2 ^ 32 - 32768 + (lo + 2 ^ 32 - (x + 2 ^ 32 - 32768) % 2 ^ 16) % 2 ^ 16) % 2 ^ 32

/-- `a` comes before `b` in sequence. -/
def seqBefore (a b : Nat) : Bool := seqDiff a b ≥ 2 ^ 31

/-- The home die of a request (R394). -/
def homeDie (addr : Nat) : Nat := addrOff addr / 256 % 8

/-- An atomic entry of a home die. -/
def Pkg.atomEntry (p : Pkg) (home src eng seq : Nat) : Option AtomEntry :=
  p.fab.atoms.find? (fun a => a.home == home && a.src == src && a.engine == eng && a.seq == seq)

/-- Record that a number of a flow was applied: the last 1,024 are kept (R400). -/
def Pkg.noteApplied (p : Pkg) (src eng cls seq : Nat) : Pkg :=
  let f := p.inFlow src eng cls
  p.setInFlow { f with applied := (f.applied ++ [seq]).filter (fun s => !(seqBefore s f.next && seqDiff f.next s > 1024)) }

/-- A request repeats one that was applied (R400 to R402): the stored reply, an answer for a store, STALE, or none for a new request. -/
def Pkg.repeatOf (p : Pkg) (kind home src eng cls seq : Nat) : Option Served :=
  let f := p.inFlow src eng cls
  let below : Bool := seqBefore seq f.next && seqDiff f.next seq > 1024
  if kind = tyRead then none
  else if kind = tyAtomic then
    match p.atomEntry home src eng seq with
    | some a => some ⟨0, a.reply, a.flags, 0⟩
    | none => if below || f.applied.contains seq then some (Served.nack 0x57) else none
  else if f.applied.contains seq then some ⟨0, [], 0, 0⟩
  else if below then some (Served.nack 0x57)
  else none

/-- Entries a home die holds (R401). -/
def Pkg.atomCount (p : Pkg) (home : Nat) : Nat := (p.fab.atoms.filter (fun a => a.home == home)).length

/-- Apply one request of a flow at its home once, or answer its repeat (R400, R401). -/
def Pkg.applyOnce (p : Pkg) (e : Env) (kind src eng cls seq addr len op : Nat) (data : List Byte) : Pkg × Served :=
  let home := homeDie addr
  match p.repeatOf kind home src eng cls seq with
  | some s => (if s.reason = 0 then p.fabCount home (Reg.FAB_CNT_DUP home) 1 else p, s)
  | none =>
    if kind = tyAtomic ∧ p.atomCount home ≥ 65536 then (p, Served.nack 0x55)
    else
      let x := p.serveHome e src kind addr len op data
      if x.2.reason ≠ 0 ∨ kind = tyRead then x
      else
        let q := x.1.noteApplied src eng cls seq
        (if kind = tyAtomic then
           { q with fab := { q.fab with atoms := q.fab.atoms ++ [⟨home, src, eng, seq, x.2.data, x.2.flags, e.hall⟩] } }
         else q, x.2)

/-- Components of a combined atomic (R395): source location and engine, full sequence number, operand. -/
structure Component where
  src : Nat
  eng : Nat
  seq : Nat
  opd : List Byte
  deriving DecidableEq, Repr

/-- Read the components of a payload. -/
def parseComponents (n : Nat) (b : List Byte) : List Component :=
  (List.range n).map (fun i =>
    let s := leAt b (16 * i) 4
    ⟨s % 2 ^ 18, bitsOf s 22 18, leAt b (16 * i + 4) 4, (b.drop (16 * i + 8)).take 8⟩)

/-- A component's 16 bytes. -/
def Component.bytes (c : Component) : List Byte := leBytes 4 (c.src + c.eng * 2 ^ 18) ++ leBytes 4 c.seq ++ padTo 8 c.opd

/-- The home applies a combined atomic's components in order, one entry for each, and answers them together (R408): the reply's payload has a
component for each, with the old value in the operand's place. -/
def Pkg.applyCombined (p : Pkg) (e : Env) (h : Hdr) (cs : List Component) : Pkg × Served :=
  let n := typeBytes (h.op / 16)
  let x := cs.foldl (fun (s : Pkg × Served) c =>
    let y := s.1.applyOnce e tyAtomic c.src c.eng h.cls c.seq h.addr h.len h.op (c.opd.take n)
    (y.1, ⟨if s.2.reason ≠ 0 then s.2.reason else y.2.reason, s.2.data ++ ({ c with opd := y.2.data } : Component).bytes,
           s.2.flags ||| y.2.flags, max s.2.delay y.2.delay⟩)) (p, (⟨0, [], 0, 0⟩ : Served))
  x

/-! ### Format checks (R383, R388, R395, R410) -/

/-- A request's format: 0, or the NACK reason of its violation. -/
def formatReason (t : Topo) (h : Hdr) (payload : List Byte) : Nat :=
  let aop := h.op % 16
  let ty := h.op / 16
  let n := typeBytes ty
  let crosses : Bool := addrOff h.addr % 256 + h.len > 256
  if h.reserved || h.cls > 1 || h.reason != 0 || h.flags != 0 then 0x51
  else if !t.holds h.src then 0x5b
  else if h.ty = tyRead then (if h.comb || h.count != 1 || h.op != 0 then 0x51 else if crosses || !payload.isEmpty then 0x52 else 0)
  else if h.ty = tyWrite then
    (if h.comb || h.count != 1 || h.op != 0 then 0x51 else if crosses || payload.length != h.len then 0x52 else 0)
  else if h.ty = tyAtomic then
    (if aop > 7 || ty > 5 || (!h.comb && h.count != 1) then 0x51
     else if !atomicLegal aop ty then 0x53
     else if h.comb then
       (if aop = 2 || (aop = 0 && ty ≥ 4) then 0x53
        else if h.len != n || addrOff h.addr % n != 0 || payload.length != 16 * h.count then 0x52 else 0)
     else if addrOff h.addr % n != 0 || crosses then 0x52
     else if aop = 2 then (if h.len != n || payload.length != 2 * n then 0x52 else 0)
     else if aop = 0 then (if h.len % n != 0 || payload.length != h.len then 0x52 else 0)
     else if h.len != n || payload.length != n then 0x52 else 0)
  else if h.ty = tySync then (if payload.length != 4 then 0x52 else 0)
  else if 0x10 ≤ h.ty ∧ h.ty ≤ 0x15 then (if payload.length < 16 then 0x52 else 0)
  else 0x51

/-! ### Hot lines and combining (R406, R407) -/

/-- Send notices of a hot line, or of its end, back on ports (R406). -/
def Pkg.notify (p : Pkg) (ports : List Nat) (line home : Nat) (ends : Bool) : Pkg :=
  { p with fab := { p.fab with notices := p.fab.notices ++ (ports.filter p.portUp).map (fun x => ⟨x, line, home, ends⟩) } }

/-- A request arrives at its home on a port: its line's queue grows, and a line with more than 64 queued is declared hot, with a notice back on every port
on which requests for it arrive. -/
def Pkg.queueLine (p : Pkg) (e : Env) (port addr : Nat) : Pkg :=
  let line := addrOff addr / 256
  let l := (p.fab.lines.find? (fun x => x.line == line)).getD ⟨line, 0, [], false, e.hall⟩
  let l1 := { l with count := l.count + 1, ports := if l.ports.contains port then l.ports else l.ports ++ [port],
                     low := if l.count + 1 < 16 then l.low else e.hall }
  let declare : Bool := !l.hot && l1.count > 64
  let l2 := { l1 with hot := l.hot || declare }
  let ls := p.fab.lines
  let xs := if ls.any (fun x => x.line == line) then ls.map (fun x => if x.line = line then l2 else x) else ls ++ [l2]
  let p1 : Pkg := { p with fab := { p.fab with lines := xs } }
  if declare then (p1.fabCount (homeDie addr) (Reg.FAB_CNT_HOT (homeDie addr)) 1).notify l1.ports line p.ownLoc false
  else if l2.hot && !l.ports.contains port then p1.notify [port] line p.ownLoc false
  else p1

/-- A switch combines requests for a line of a home. -/
def Pkg.combines (p : Pkg) (home line : Nat) : Bool := p.fab.combine.contains (home, line)

/-- Ports on which requests for a line of a home came lately. -/
def Pkg.seenPorts (p : Pkg) (home line : Nat) : List Nat := (p.fab.seen.filter (fun s => s.home == home && s.line == line)).map (fun s => s.port)

/-- Requests for a line of a home passed through on a port; a switch that had the line's notice passes it on there (R406). -/
def Pkg.seeLine (p : Pkg) (e : Env) (home line port : Nat) : Pkg :=
  let p1 : Pkg := { p with fab := { p.fab with seen := (p.fab.seen.filter (fun s => !(s.home == home && s.line == line && s.port == port))) ++
    [⟨home, line, port, e.hall⟩] } }
  if p.combines home line && !(p.seenPorts home line).contains port then p1.notify [port] line home false else p1

/-- A packet that may be merged: a read, or an atomic that is neither a float FADD nor a CAS nor an ACC run (R407). -/
def mergeable (h : Hdr) : Bool :=
  h.ty == tyRead || (h.ty == tyAtomic && h.op % 16 != 2 && !(h.op % 16 == 0 && h.op / 16 ≥ 4) && h.len == typeBytes (h.op / 16))

/-- The number a packet's check value was computed with, among those that agree with its low 16 bits: CRC-32C tells them apart. -/
def seqOfCheck (h : Hdr) (x : RawPacket) : Option Nat :=
  ((List.range 65536).map (fun i => 65536 * i + h.seqLo)).find? (fun s => checkOf h.dest h.addr s x.header x.payload = x.check)

/-- A switch core holds a request for a hot line (R407). -/
def Pkg.holdCombine (p : Pkg) (die home line : Nat) (k : FabPkt) : Pkg :=
  let same (x : CombineHold) : Bool := x.die == die && x.home == home && x.line == line
  let hs := p.fab.holds
  let xs := if hs.any same then hs.map (fun (x : CombineHold) => if same x then { x with pkts := x.pkts ++ [k] } else x)
    else hs ++ [⟨die, home, line, [k]⟩]
  { p with fab := { p.fab with holds := xs } }

/-- Packets of one kind merge: reads of one address and length, atomics of one operation, type and address. -/
def sameMerge (a b : Hdr) : Bool := a.ty == b.ty && a.addr == b.addr && a.len == b.len && (a.ty == tyRead || a.op == b.op) && a.cls == b.cls

/-- Components of an atomic packet, combined or plain. -/
def FabPkt.components (k : FabPkt) : List Component :=
  let h := parseHdr k.header
  if h.comb then parseComponents h.count k.payload else [⟨h.src, h.eng, k.seq, k.payload⟩]

/-- Group packets that merge: in order, at most 16 components to a group of atomics. -/
def mergeGroups (ks : List FabPkt) : List (List FabPkt) :=
  ks.foldl (fun (gs : List (List FabPkt)) k =>
    let h := parseHdr k.header
    let fits (g : List FabPkt) : Bool :=
      match g with
      | [] => false
      | x :: _ => sameMerge (parseHdr x.header) h &&
        (h.ty == tyRead || ((g ++ [k]).map (fun y => y.components.length)).sum ≤ 16)
    if gs.any fits then
      (gs.foldl (fun (s : List (List FabPkt) × Bool) g => if !s.2 && fits g then (s.1 ++ [g ++ [k]], true) else (s.1 ++ [g], s.2)) ([], false)).1
    else gs ++ [[k]]) []

/-- Forward a packet that a switch holds; without a path its request is answered with ROUTE (R378). -/
def Pkg.forward (p : Pkg) (f seq : Nat) (h : Hdr) (payload : List Byte) : Pkg :=
  let x := p.sendOn h seq payload
  if x.2 then x.1
  else if h.ty = tyReply ∨ h.ty = tyNack then x.1
  else x.1.nackPkt f h seq 0x5b

/-- Forward the groups of a hold (R407): a lone packet as it came, a group as one packet whose answer the switch will share out. -/
def Pkg.forwardGroup (p : Pkg) (die : Nat) (g : List FabPkt) : Pkg :=
  match g with
  | [] => p
  | [k] => p.forward die k.seq (parseHdr k.header) k.payload
  | k :: _ =>
    let h := parseHdr k.header
    let p0 : Pkg := { p with fab := { p.fab with merged := p.fab.merged ++ [⟨h.src, h.eng, k.seq, g⟩] } }
    let p1 := p0.fabCount die (Reg.FAB_CNT_COMBINED die) (g.length - 1)
    if h.ty = tyRead then p1.forward die k.seq h k.payload
    else
      let cs := (g.map FabPkt.components).flatten
      p1.forward die k.seq { h with comb := true, count := cs.length } (cs.map Component.bytes).flatten

/-- The answer to a merged packet passes the switch that merged it: each requester gets its own (R407, R408). -/
def Pkg.shareOut (p : Pkg) (m : Merged) (h : Hdr) (payload : List Byte) : Pkg :=
  let p1 := { p with fab := { p.fab with merged := p.fab.merged.erase m } }
  let cs := parseComponents (payload.length / 16) payload
  m.parts.foldl (fun (q : Pkg) k =>
    let kh := parseHdr k.header
    let n := typeBytes (kh.op / 16)
    let mine (c : Component) : Bool := k.components.any (fun x => x.src == c.src && x.eng == c.eng && x.seq == c.seq)
    let body := if h.ty = tyNack then [] else if kh.ty = tyRead then payload
      else if kh.comb then ((cs.filter mine).map Component.bytes).flatten
      else match cs.find? mine with | some c => c.opd.take n | none => []
    let a : Hdr := { h with src := kh.src, eng := kh.eng, seqLo := k.seq % 65536, comb := kh.comb && h.ty == tyReply,
                            count := if kh.comb && h.ty == tyReply then kh.count else 1, len := max 1 body.length }
    (q.sendOn a k.seq body).1) p1

/-- A packet for another package passes through (R375 to R378, R406, R407); one without a path is answered with ROUTE. -/
def Pkg.transit (p : Pkg) (e : Env) (port : Nat) (h : Hdr) (x : RawPacket) : Pkg :=
  let f := portFab port
  let home := h.dest
  let line := addrOff h.addr / 256
  match p.fab.merged.find? (fun m => (h.ty == tyReply || h.ty == tyNack) && m.src == h.src && m.engine == h.eng && m.seq % 65536 == h.seqLo) with
  | some m => p.shareOut m h x.payload
  | none =>
    let req : Bool := h.ty == tyRead || h.ty == tyWrite || h.ty == tyAtomic
    let p1 := if req then p.seeLine e home line port else p
    match (if req && p.combines home line && mergeable h then seqOfCheck h x else none) with
    | some s => p1.holdCombine f home line ⟨port, s, x.header, x.payload⟩
    | none =>
      match p1.routeOf h.dest h.src h.eng h.cls h.borrows (some port) with
      | (some (out, det), q) =>
        let q1 := q.putOut ⟨out, h.seqLo, x.header, x.payload, x.check⟩
        if det then q1.disturb 4 (portDie out) (portUnit out) else q1
      | (none, q) =>
        if h.ty = tyReply ∨ h.ty = tyNack then q
        else match seqOfCheck h x with
          | some s => q.nackPkt f h s 0x5b
          | none => q

/-! ### Requests on arrival -/

/-- Components of a request's atomics that are no repeats (R401, R408). -/
def Pkg.freshComponents (p : Pkg) (h : Hdr) (cs : List Component) : List Component :=
  cs.filter (fun c => (p.repeatOf tyAtomic (homeDie h.addr) c.src c.eng h.cls c.seq).isNone)

/-- What a request does to its line, without the components that are repeats; none for a request that repeats one altogether. -/
def Pkg.packetOp (p : Pkg) (k : FabPkt) : Option MemOp :=
  let h := parseHdr k.header
  if h.ty = tyRead then some .read
  else if h.comb then
    let cs := p.freshComponents h (parseComponents h.count k.payload)
    if cs.isEmpty then none else some (.atomics (cs.map (fun c => atomOp h.op (c.opd.take (typeBytes (h.op / 16))))))
  else if (p.repeatOf h.ty (homeDie h.addr) h.src h.eng h.cls k.seq).isSome then none
  else some (if h.ty = tyWrite then .write k.payload else .atomics [atomOp h.op k.payload])

/-- The packet of a request that waits at a controller is of a flow. -/
def FabPkt.ofFlow (k : FabPkt) (src eng : Nat) : Bool := let h := parseHdr k.header; h.cls == 0 && h.src == src && h.eng == eng

/-- Packets whose requests wait at the controllers. -/
def Pkg.packetsWaiting (p : Pkg) : List FabPkt := ((p.stackCtl.map (fun x => x.2.waiting.filterMap (fun w => w.pkt)))).flatten

/-- A class-0 request of a flow waits at a controller, so its successors wait for it (R390). -/
def Pkg.flowHeld (p : Pkg) (src eng : Nat) : Bool := p.packetsWaiting.any (fun k => k.ofFlow src eng)

/-- A request on HBM enters the controller of its stack, behind those that wait, and is answered once it is served (R291, R306 to R312, R394); a
retransmission of one that waits there adds nothing. None for a request that its home serves or refuses in place: one on the stash, on MMIO or in a
hole, one that the access list denies, a repeat, an atomic without room in its table. -/
def Pkg.enterPacket (p : Pkg) (e : Env) (k : FabPkt) : Option Pkg :=
  let h := parseHdr k.header
  let a := addrOff h.addr
  let atomic : Bool := h.ty == tyAtomic
  match p.regionAt a, p.packetOp k with
  | some r, some op =>
    let s := (r.place (a - r.base)).1
    let w : WaitingReq := ⟨.fabric h.src, r.owner, a, op, h.len, r.prio && op == .read, e.hall, false, false, 0, some k⟩
    if !isHbm a || r.stash || !r.holds (a + h.len - 1) || !(h.ty == tyRead || h.ty == tyWrite || atomic) then none
    else if h.src != p.ownLoc && !p.aclGrants h.src (kindRight h.ty) r.num false then none
    else if atomic && p.atomCount (homeDie h.addr) ≥ 65536 then none
    else if p.packetsWaiting.any (fun x => x.seq == k.seq && x.header == k.header) then some p
    else if p.noBandwidth r.owner then some (p.refuseReq s w 0x56)
    else if h.src != p.ownLoc && p.inboundFull s then some (p.refuseReq s w 0x55)
    else some (p.enterStack e s w)
  | _, _ => none

/-- Note a store or atomic as applied, an atomic with its entry (R400, R401). -/
def Pkg.noteServed (p : Pkg) (e : Env) (kind home src eng cls seq flags : Nat) (data : List Byte) : Pkg :=
  let q := p.noteApplied src eng cls seq
  if kind = tyAtomic then { q with fab := { q.fab with atoms := q.fab.atoms ++ [⟨home, src, eng, seq, data, flags, e.hall⟩] } } else q

/-- Answer a packet that a controller has served (R400, R401, R404, R408): the old values in its data are those of the components that were no repeats,
in their order. -/
def Pkg.answerServed (p : Pkg) (e : Env) (k : FabPkt) (s : Served) : Pkg :=
  let h := parseHdr k.header
  let home := homeDie h.addr
  if s.reason ≠ 0 then p.nackPkt (portFab k.port) h k.seq s.reason
  else if h.ty = tyRead then p.answerPkt h k.seq tyReply s.delay s.flags s.data
  else if h.comb then
    let n := typeBytes (h.op / 16)
    let x := (parseComponents h.count k.payload).foldl (fun (st : Pkg × List Byte × List Byte × Nat) c =>
      match st.1.repeatOf tyAtomic home c.src c.eng h.cls c.seq with
      | some o => (st.1, st.2.1, st.2.2.1 ++ ({ c with opd := o.data } : Component).bytes, st.2.2.2 ||| o.flags)
      | none => (st.1.noteServed e tyAtomic home c.src c.eng h.cls c.seq s.flags (st.2.1.take n), st.2.1.drop n,
          st.2.2.1 ++ ({ c with opd := st.2.1.take n } : Component).bytes, st.2.2.2 ||| s.flags)) (p, s.data, [], 0)
    x.1.answerPkt h k.seq tyReply s.delay x.2.2.2 x.2.2.1
  else (p.noteServed e h.ty home h.src h.eng h.cls k.seq s.flags s.data).answerPkt h k.seq tyReply s.delay s.flags s.data

/-- Serve one request of a flow in its turn, and answer it (R390 to R408); one on HBM is answered once its controller has served it. -/
def Pkg.serveRequest (p : Pkg) (e : Env) (k : FabPkt) : Pkg :=
  let h := parseHdr k.header
  let f := portFab k.port
  let r := formatReason p.topo h k.payload
  if r ≠ 0 then p.violationNack k.port h k.seq r
  else if h.epoch ≠ p.regNat Reg.FAB_EPOCH then p.nackPkt f h k.seq 0x58
  else
    let p0 := p.queueLine e k.port h.addr
    match p0.enterPacket e k with
    | some q => q
    | none =>
      let x := if h.comb then p0.applyCombined e h (parseComponents h.count k.payload)
        else p0.applyOnce e h.ty h.src h.eng h.cls k.seq h.addr h.len h.op k.payload
      if x.2.reason ≠ 0 then x.1.nackPkt f h k.seq x.2.reason
      else x.1.answerPkt h k.seq tyReply x.2.delay x.2.flags x.2.data

/-- Serve the held packets of a class-0 flow whose turn has come (R390). -/
def Pkg.serveTurn (p : Pkg) (e : Env) (src eng : Nat) : Nat → Pkg
  | 0 => p
  | n + 1 =>
    let f := p.inFlow src eng 0
    if p.flowHeld src eng then p
    else match f.waiting.find? (fun k => k.seq == f.next) with
    | none => p
    | some k =>
      ((p.setInFlow { f with waiting := f.waiting.erase k, next := (f.next + 1) % 2 ^ 32 }).serveRequest e k).serveTurn e src eng n

/-- Answer the packets that the controllers have served; each answer of class 0 lets the next request of its flow have its turn. -/
def Pkg.answerOne (p : Pkg) (e : Env) : Nat → Pkg
  | 0 => p
  | n + 1 =>
    let mine (d : MemDone) : Bool := match d with | .packet _ _ => true | _ => false
    match p.memDone.find? mine with
    | some (.packet k s) =>
      let h := parseHdr k.header
      let q := ({ p with memDone := p.memDone.erase (.packet k s) }).answerServed e k s
      (if h.cls = 0 then q.serveTurn e h.src h.eng (q.inFlow h.src h.eng 0).waiting.length else q).answerOne e n
    | _ => p

/-- Answer every packet that the controllers have served. -/
def Pkg.answerPackets (p : Pkg) (e : Env) : Pkg :=
  p.answerOne e (p.memDone.length + p.packetsWaiting.length + (p.fab.inflows.map (fun f => f.waiting.length)).sum)

/-- A checked request of a flow arrives: class 0 in its turn, class 1 at once, a number behind X as a repeat (R390, R397). -/
def Pkg.arriveRequest (p : Pkg) (e : Env) (k : FabPkt) (serve : Pkg → FabPkt → Pkg) : Pkg :=
  let h := parseHdr k.header
  let f := { p.inFlow h.src h.eng h.cls with last := e.hall }
  if seqBefore k.seq f.next then (serve (p.setInFlow f) k).answerPackets e
  else if h.cls = 0 ∧ (k.seq ≠ f.next ∨ p.flowHeld h.src h.eng = true) then
    p.setInFlow { f with waiting := if f.waiting.any (fun x => x.seq == k.seq) then f.waiting else f.waiting ++ [k] }
  else
    let p1 := serve (p.setInFlow { f with next := (k.seq + 1) % 2 ^ 32 }) k
    (if h.cls = 0 then p1.serveTurn e h.src h.eng f.waiting.length else p1).answerPackets e

/-- A packet that fails its check is dropped and counted: a class-8 event of the arrival port (R398). -/
def Pkg.dropCheck (p : Pkg) (port : Nat) : Pkg :=
  let p1 := (p.fabErr 1 port 0).fabCount (portFab port) (Reg.FAB_CNT_CHECK (portFab port)) 1
  p1.event 8 (portDie port) (portUnit port) 1 1 (portErrData p1 port)

/-- A packet arrives on a port (R374, R395 to R398). `mine` says that it is of the command's kind; a packet of a reserved type breaks the
format, one for another package passes through, and one whose check fails is dropped. `act` takes the checked packet. -/
def Pkg.receive (p : Pkg) (e : Env) (port : Nat) (x : RawPacket) (mine : Hdr → Bool) (act : Pkg → FabPkt → Pkg) : Pkg :=
  if !p.portUp port || !p.locValid then p
  else
    let h := parseHdr x.header
    let known : Bool := (1 ≤ h.ty && h.ty ≤ 6) || (0x10 ≤ h.ty && h.ty ≤ 0x15)
    if x.header.length ≠ 32 ∨ x.payload.length > 256 then
      (p.fabCount (portFab port) (Reg.FAB_CNT_RX (portFab port)) 1).violation port 0x51 0
    else if known && !mine h then p
    else
      let p1 := p.fabCount (portFab port) (Reg.FAB_CNT_RX (portFab port)) 1
      if h.dest ≠ p.ownLoc then p1.transit e port h x
      else
        let f := p1.inFlow h.src h.eng h.cls
        let seq :=
          if h.ty = tySync then leAt x.payload 0 4
          else if h.ty = tyReply ∨ h.ty = tyNack then
            -- the request's own number: among this engine's outstanding ones
            ((p1.fab.reqs.find? (fun r => r.engine == h.eng && r.addr == h.addr && r.seq % 65536 == h.seqLo)).map (fun r => r.seq)).getD h.seqLo
          else fullSeq f.next h.seqLo
        if checkOf h.dest h.addr seq x.header x.payload ≠ x.check then p1.dropCheck port
        else if !known then p1.violationNack port h seq 0x51
        else act p1 ⟨port, seq, x.header, x.payload⟩

end Sys2Proof.Machine
end

