-- ==== Sys2Proof/Machine/Fabric.lean ====
section
/-! DEFINITION. The fabric engines and the fabric's commands (spec 10_qorloth_fabric.md, R380 to R386, R390 to R393, R397 to R414;
11_collectives_and_mapping.md, R418 to R422): descriptors and trigger fires cut into requests, flows and retransmission, replies, NACKs,
hot lines, ports. -/

namespace Sys2Proof.Machine

/-! ### What a descriptor or a fire asks for -/

/-- One request of a descriptor or a fire: kind, destination location and offset, length, operation byte, the local addresses its data and
its compare value are read from, where its reply's data goes, and the iteration and byte offset it stands at. -/
structure Piece where
  kind : Nat
  loc : Nat
  off : Nat
  len : Nat
  op : Nat
  src : Option Nat
  cmp : Option Nat
  dst : Option Nat
  iter : Nat
  at_ : Nat
  deriving DecidableEq, Repr

/-- The location a handle names in a fabric descriptor (R367). -/
def Pkg.fabLoc (p : Pkg) (d : List Byte) (t : Tensor) : Nat :=
  if t.loc = 0 ∧ !(dOp d).testBit 17 then p.ownLoc else t.loc

/-- Cut a run of bytes into requests of up to 256 bytes within one line at the source and at the target (R383). -/
def cutRun : Nat → Nat → Nat → Nat → List (Nat × Nat × Nat)
  | 0, _, _, _ => []
  | k + 1, s, d, n =>
    if n = 0 then [] else
    let m := min n (min (256 - s % 256) (256 - d % 256))
    (s, d, m) :: cutRun k (s + m) (d + m) (n - m)

/-- Cut a run of bytes at the target's lines alone (R418). -/
def cutLines (s d n : Nat) : List (Nat × Nat × Nat) :=
  (linesOf d n).map (fun l => let lo := max d l; (s + (lo - d), lo, min (d + n) (l + 256) - lo))

/-- Addresses of a handle's elements at an origin, dimension 0 fastest. -/
def Tensor.elemAddrs (t : Tensor) (org : List Int) : List Nat :=
  ((t.runStarts org).map (fun a => (List.range (t.size 0)).map (fun i => a + i * (t.stored.bits / 8)))).flatten

/-- A byte's offset from an origin, as 32 bits hold it: negative strides reach below the origin (R386). -/
def byteOffset (a base : Nat) : Nat := ofSigned 32 ((a : Int) - base)

/-- The requests of a COPY (R383). -/
def Pkg.copyPieces (p : Pkg) (d : List Byte) (a b : Tensor) : List Piece :=
  let la := p.fabLoc d a
  let lb := p.fabLoc d b
  ((List.range (dIters d)).map (fun n =>
    let oa := handleOrigin d 0 n
    let ob := handleOrigin d 2 n
    let base := (b.elemAddr ob [0, 0, 0, 0, 0]).1.toNat
    (((a.runStarts oa).zip (b.runStarts ob)).map (fun sd =>
      (cutRun (a.runBytes + 1) sd.1 sd.2 a.runBytes).map (fun x =>
        if la = p.ownLoc then (⟨tyWrite, lb, x.2.1, x.2.2, 0, some x.1, none, none, n, byteOffset x.2.1 base⟩ : Piece)
        else ⟨tyRead, la, x.1, x.2.2, 0, none, none, some x.2.1, n, byteOffset x.2.1 base⟩))).flatten)).flatten

/-- The requests of an ATOMIC (R384). -/
def Pkg.atomicPieces (p : Pkg) (d : List Byte) (ts : List (Nat × Tensor)) : List Piece :=
  match assoc? ts 0, assoc? ts 2 with
  | some a, some b =>
    let op := bitsOf (dOp d) 15 8
    ((List.range (dIters d)).map (fun n =>
      let addrs (h : Nat) : List Nat := match assoc? ts h with | some t => t.elemAddrs (handleOrigin d h n) | none => []
      let base := (b.elemAddr (handleOrigin d 2 n) [0, 0, 0, 0, 0]).1.toNat
      let cs := addrs 1
      let rs := addrs 3
      (((a.elemAddrs (handleOrigin d 0 n)).zip (addrs 2)).zipIdx.map (fun x =>
        (⟨tyAtomic, p.fabLoc d b, x.1.2, typeBytes (op / 16), op, some x.1.1, cs[x.2]?, rs[x.2]?, n, byteOffset x.1.2 base⟩ : Piece))))).flatten
  | _, _ => []

/-- Handles that a fabric operation examines (R382 to R384). -/
def fabHandles (d : List Byte) : List Nat :=
  if dOp d % 16 = 0 then [0, 2]
  else [0] ++ (if bitsOf (dOp d) 11 8 = 2 then [1] else []) ++ [2] ++ (if (dOp d).testBit 16 then [] else [3])

/-- A running fabric descriptor's tensors, from its start copies (R218). -/
def Run.fabTensors (r : Run) : List (Nat × Tensor) := (fabHandles r.desc).map (fun h => (h, parseTensor (dHandle r.desc h) (r.tds.getD h [])))

/-- All requests of a running fabric descriptor, in issue order. -/
def Pkg.fabPieces (p : Pkg) (r : Run) : List Piece :=
  let ts := r.fabTensors
  if dOp r.desc % 16 = 0 then
    (match assoc? ts 0, assoc? ts 2 with | some a, some b => p.copyPieces r.desc a b | _, _ => [])
  else p.atomicPieces r.desc ts

/-- Engines of a partition, ascending (R381). -/
def Pkg.ctxEngines (p : Pkg) (c : Nat) : List Nat := rangeFilter 32 (fun en => p.partHas c Fld.SEC_PART_ENGINES (en / 4))

/-- The engine that issues a partition's requests to a location (R381). -/
def Pkg.engineFor (p : Pkg) (c loc : Nat) : Nat := let es := p.ctxEngines c; es.getD (loc % max 1 es.length) 0

/-- The destination location of a fabric descriptor: the remote one of a COPY's handles, else that of handle 2. -/
def Pkg.fabDest (p : Pkg) (d : List Byte) (ts : List (Nat × Tensor)) : Nat :=
  let loc (h : Nat) : Nat := match assoc? ts h with | some t => p.fabLoc d t | none => p.ownLoc
  if dOp d % 16 = 0 ∧ loc 2 = p.ownLoc then loc 0 else loc 2

/-- Fields of a trigger entry (Table 11-1). -/
def teCounter (b : List Byte) : Nat := leAt b 0 2 % 2 ^ 14
def teOp (b : List Byte) : Nat := leAt b 2 1 % 16
def teType (b : List Byte) : Nat := leAt b 2 1 / 16
def teAop (b : List Byte) : Nat := leAt b 3 1 % 16
def teRcen (b : List Byte) : Bool := (leAt b 3 1).testBit 4
def teAbs (b : List Byte) : Bool := (leAt b 3 1).testBit 5
def teRepeat (b : List Byte) : Nat := leAt b 4 4
def teThresh (b : List Byte) : Nat := leAt b 8 8 % 2 ^ 48
def teStep (b : List Byte) : Nat := leAt b 0x10 4
def teLen (b : List Byte) : Nat := leAt b 0x14 4
def teSrc (b : List Byte) : Nat := leAt b 0x18 8
def teDst (b : List Byte) : Nat := leAt b 0x20 8
def teSrcStep (b : List Byte) : Int := toSigned 32 (leAt b 0x28 4)
def teDstStep (b : List Byte) : Int := toSigned 32 (leAt b 0x2c 4)
def teRcnt (b : List Byte) : Nat := leAt b 0x30 8
def teSig (b : List Byte) : Nat := leAt b 0x38 8

/-- The location a fabric address of a trigger entry names (R419). -/
def Pkg.teLoc (p : Pkg) (b : List Byte) (a : Nat) : Nat := if addrLoc a = 0 ∧ !teAbs b then p.ownLoc else addrLoc a

/-- The requests of a fire (Table 11-2). -/
def Pkg.firePieces (p : Pkg) (b : List Byte) : List Piece :=
  let n := teLen b
  let s := teSrc b
  let d := teDst b
  match teOp b with
  | 0 => (cutRun (n + 1) (addrOff s) (addrOff d) n).map (fun x => ⟨tyWrite, p.teLoc b d, x.2.1, x.2.2, 0, some x.1, none, none, 0, 0⟩)
  | 1 => (cutRun (n + 1) (addrOff s) (addrOff d) n).map (fun x => ⟨tyRead, p.teLoc b s, x.1, x.2.2, 0, none, none, some x.2.1, 0, 0⟩)
  | 2 => [⟨tyAtomic, p.teLoc b d, addrOff d, n, teAop b + 16 * teType b, some (addrOff s), if teAop b = 2 then some (addrOff s + n) else none,
           none, 0, 0⟩]
  | 3 => (cutLines (addrOff s) (addrOff d) n).map (fun x => ⟨tyAtomic, p.teLoc b d, x.2.1, x.2.2, 16 * teType b, some x.1, none, none, 0, 0⟩)
  | _ => []

/-! ### How a request ends -/

/-- Requests of a descriptor, or of a fire, that are outstanding. -/
def FabUser.ofQueue (u : FabUser) (q : Nat) : Bool := match u with | .desc x _ _ _ => x == q | _ => false
def FabUser.ofFire (u : FabUser) (f : Fire) : Bool := match u with | .fire en i t _ => en == f.engine && i == f.idx && t == f.tag | _ => false

/-- A status with its REASON byte as a request gives it: status, NACK reason. -/
structure FabFail where
  status : Nat
  reason : Nat
  deriving DecidableEq, Repr

/-- A descriptor's outcome for a NACK reason (Table 10-9). 0x12, 0x11 and 0x10 become 0x34 at the end when something was applied. -/
def nackStatus (reason : Nat) : Nat :=
  match reason with
  | 0x54 => 0x12 | 0x55 => 0x10 | 0x56 => 0x11 | 0x57 => 0x32 | 0x58 => 0x32 | _ => 0x3f

/-- A failure by a NACK. -/
def FabFail.ofNack (reason : Nat) : FabFail := ⟨nackStatus reason, reason⟩

/-- A request of a descriptor fails: its status; the first failure gives KIND_INFO16 and DETAIL; the engine issues no more of it (R386, R403,
R404). 0x32 and 0x34 set UNDEF and raise the engine's interrupt. -/
def Pkg.descFail (p : Pkg) (e : Env) (en q iter off : Nat) (x : FabFail) : Pkg :=
  let p1 := p.updRun q (fun r =>
    let r1 := if x.status = 0x3f then r.abort e.tag x.reason else r.raise e.tag x.status
    { r1 with stopped := true, appended := true, undef := r1.undef || x.status == 0x32 || x.status == 0x34,
              kindInfo := if r.appended then r.kindInfo else (if 0x50 ≤ x.reason ∧ x.reason ≤ 0x5f then x.reason * 256 else 0),
              detail := if r.appended then r.detail else iter % 2 ^ 32 * 2 ^ 32 + off % 2 ^ 32 })
  if x.status = 0x32 ∨ x.status = 0x34 then p1.raiseIrq 12 (20 + en / 4) (72 + en) else p1

/-- A trigger entry's fire fails: the entry disarms, the error is recorded unless one is held, the engine's interrupt is raised (R422,
Table 11-13). -/
def Pkg.fireFail (p : Pkg) (e : Env) (en idx tag reason : Nat) : Pkg :=
  let same (f : Fire) : Bool := f.engine == en && f.idx == idx && f.tag == tag
  let seen : Bool := p.fires.any (fun f => same f && f.failed)
  if seen then p
  else
    let fs := p.fires.map (fun f => if same f then { f with failed := true } else f)
    let ts := p.trigs.filter (fun t => !(t.engine == en && t.idx == idx))
    let p1 := ({ p with fires := fs, trigs := ts }).colCount (en / 4) (Reg.COL_CNT_TRIG_ERR (en / 4)) 1
    let k := Reg.COL_TRIG_ERR en
    let p2 := if p1.on k Fld.COL_TE_VALID then p1 else
      ((((p1.setReg k 0).setFld k Fld.COL_TE_VALID 1).setFld k Fld.COL_TE_REASON reason).setFld k Fld.COL_TE_ENTRY idx).setNat
        (Reg.COL_TE_TIME en) e.tagHall
    p2.raiseIrq 13 (20 + en / 4) (72 + en)

/-- Write a reply's data at a local address. -/
def Pkg.writeLocal (p : Pkg) (e : Env) (a : Nat) (bs : List Byte) : Pkg × Served :=
  p.serveHome e p.ownLoc tyWrite (fabAddr p.ownLoc a) bs.length 0 bs

/-- Write the destination register of a core's load: an integer register, or from 32 on a float register, in which a narrow value is boxed in ones. -/
def Pkg.coreResult (p : Pkg) (g rd width : Nat) (sext : Bool) (v : Nat) : Pkg :=
  let w := v % 2 ^ (8 * width)
  let x : W64 := if sext then BitVec.ofInt 64 (toSigned (8 * width) w) else BitVec.ofNat 64 w
  if rd < 32 then p.setCore g ((p.core g).setX rd x)
  else p.setCore g ((p.core g).setF (rd - 32) (BitVec.ofNat 64 (if width = 4 then 0xffffffff00000000 + w else w)))

/-- A broadcast member's OR into the originator's bitmap stands so (R535). -/
def Pkg.setOr (p : Pkg) (q uid v : Nat) : Pkg :=
  { p with ckp := { p.ckp with bcasts := p.ckp.bcasts.map (fun (b : Bcast) =>
      if b.queue = q ∧ b.uid = uid ∧ b.orState = 1 then { b with orState := v } else b) } }

/-- A host core's load, whose outcome is never unknown (R402). -/
def FabReq.loads (r : FabReq) : Bool := match r.user with | .core _ _ _ _ store _ => !store | _ => false

/-- A request ends without being served (R402 to R404, R336, R422): 0x32 is counted on the engine's die. -/
def Pkg.noteFail (p : Pkg) (e : Env) (r : FabReq) (x : FabFail) : Pkg :=
  let unknown : Bool := x.status == 0x32 && !r.loads
  let p0 := if unknown then p.fabCount (r.engine / 4) (Reg.FAB_CNT_UNKNOWN (r.engine / 4)) 1 else p
  match r.user with
  | .desc q iter off _ => p0.descFail e r.engine q iter off x
  | .core g _ _ _ store place =>
    -- a load that is given up has no outcome at all; a NACK of a load is one whatever its reason
    if x.reason = 0 ∨ unknown then p0.accessFault e g 7 0x32 (if store then .store else .load) place
    else p0.accessFault e g 6 x.reason (if store then .store else .load) place
  | .fire en i t _ => p0.fireFail e en i t (if x.reason = 0 ∨ x.status = 0x32 then 0x32 else x.reason)
  -- an OR of a broadcast member whose outcome is unknown is issued again (R535)
  | .bcast q uid => p0.setOr q uid (if x.status = 0x32 then 0 else 2)
  | _ => p0

/-- A request is answered (R386, R389, R421): its data goes where its user wants it, its flags join the descriptor's. -/
def Pkg.noteOk (p : Pkg) (e : Env) (r : FabReq) (s : Served) : Pkg :=
  match r.user with
  | .desc q _ _ dst =>
    let x := match dst with | some a => p.writeLocal e a s.data | none => (p, s)
    x.1.updRun q (fun u =>
      let u1 := { u with incs := u.incs + 1, flags := u.flags ||| s.flags }
      let u2 := if s.delay ≠ 0 then u1.delayBy e.tag s.delay else u1
      if x.2.reason ≠ 0 then { u2.abort e.tag 0x0a with stopped := true, appended := true } else u2)
  | .core g rd width sext store _ => if r.kind = tyWrite ∧ store then p else p.coreResult g rd width sext (leNat s.data)
  | .fire en i t dst =>
    (match dst with
     | some a =>
       let x := p.writeLocal e a s.data
       if x.2.reason ≠ 0 then x.1.fireFail e en i t x.2.reason else x.1
     | none => p)
  | .bcast q uid => p.setOr q uid 2
  | _ => p

/-! ### Flows and sending (R390, R391, R397) -/

/-- An engine's flow. -/
def Pkg.outFlow (p : Pkg) (en dest cls : Nat) : Option OutFlow :=
  p.fab.flows.find? (fun f => f.engine == en && f.dest == dest && f.cls == cls)

/-- Put back an engine's flow. -/
def Pkg.setOutFlow (p : Pkg) (f : OutFlow) : Pkg :=
  let same (x : OutFlow) : Bool := x.engine == f.engine && x.dest == f.dest && x.cls == f.cls
  let fs := p.fab.flows
  let xs := if fs.any same then fs.map (fun x => if same x then f else x) else fs ++ [f]
  { p with fab := { p.fab with flows := xs } }

/-- Replace the outstanding requests. -/
def Pkg.setReqs (p : Pkg) (rs : List FabReq) : Pkg := { p with fab := { p.fab with reqs := rs } }

/-- A flow starts, or starts again, from a number of its own choice by a SYNC exchange (R397, R402). -/
def Pkg.startFlow (p : Pkg) (e : Env) (en dest cls : Nat) : Pkg :=
  let f := p.drawFree 1
  let n := (Config.freeWord f.1).toNat % 2 ^ 32
  let p1 := f.2.setOutFlow ⟨en, dest, cls, n, 0, false⟩
  p1.setReqs (p1.fab.reqs ++ [⟨en, n, dest, cls, tySync, fabAddr dest 0, 4, 0, leBytes 4 n, .sync, e.hall, 0, false, 0, none, none⟩])

/-- Enter a request of an engine: it takes its flow's next number (R397). -/
def Pkg.addReq (p : Pkg) (e : Env) (en dest cls kind addr len op : Nat) (data : List Byte) (u : FabUser) : Pkg :=
  let p1 := if (p.outFlow en dest cls).isSome then p else p.startFlow e en dest cls
  match p1.outFlow en dest cls with
  | none => p1
  | some f =>
    let p2 := p1.setOutFlow { f with next := (f.next + 1) % 2 ^ 32 }
    p2.setReqs (p2.fab.reqs ++ [⟨en, f.next, dest, cls, kind, addr, len, op, data, u, e.hall, 0, false, 0, none, none⟩])

/-- The packet of a request. -/
def Pkg.reqHdr (p : Pkg) (r : FabReq) : Hdr :=
  -- a collective's request keeps its detour bit where another keeps its operation
  { ty := r.kind, cls := r.cls, detour := r.kind ≥ 0x10 && r.op == 1, comb := false, count := 1, seqLo := r.seq % 65536, src := p.ownLoc,
    eng := r.engine, addr := r.addr, len := r.len, op := if r.kind ≥ 0x10 then 0 else r.op, reason := 0, flags := 0,
    epoch := (match p.outFlow r.engine r.dest r.cls with | some f => f.epoch | none => 0), reserved := false }

/-- A request may go out: injections are not held (R583), its flow is synchronised, and no earlier request of its engine to the same line is
outstanding (R391). A collective's packets name no line. -/
def Pkg.maySend (p : Pkg) (r : FabReq) : Bool :=
  !p.on Reg.PWR_STATUS Fld.PWR_FAB_HELD &&
  (r.kind == tySync ||
  ((match p.outFlow r.engine r.dest r.cls with | some f => f.synced | none => false) &&
   (r.kind ≥ 0x10 || !(p.fab.reqs.takeWhile (fun x => x != r)).any (fun x =>
     x.kind != tySync && x.kind < 0x10 && x.engine == r.engine && x.addr / 256 == r.addr / 256))))

/-- Send an engine's requests that may go out, in issue order; one without a path ends with ROUTE (R378). -/
def Pkg.sendReqs (p : Pkg) (e : Env) (en : Nat) : Pkg :=
  (p.fab.reqs.filter (fun r => r.engine == en && !r.sent)).foldl (fun (q : Pkg) r =>
    if !q.fab.reqs.contains r || !q.maySend r then q
    else
      let x := q.sendOn (q.reqHdr r) r.seq r.data
      if x.2 then x.1.setReqs (x.1.fab.reqs.map (fun y => if y = r then { r with sent := true, issued := e.hall } else y))
      else (x.1.setReqs (x.1.fab.reqs.filter (fun y => y ≠ r))).noteFail e r (FabFail.ofNack 0x5b)) p

/-- Issue one request for a user: data is read as it issues; one that names this package is served inside it (R367, R386); a location outside
the topology has no path (R368). -/
def Pkg.issue (p : Pkg) (e : Env) (en cls : Nat) (u : FabUser) (x : Piece) (readData : Pkg → Nat → Nat → Pkg × Served) : Pkg :=
  let stub : FabReq := ⟨en, 0, x.loc, cls, x.kind, fabAddr x.loc x.off, x.len, x.op, [], u, e.hall, 0, false, 0, none, none⟩
  let get (q : Pkg) (a : Option Nat) : Pkg × Served := match a with | some v => readData q v x.len | none => (q, ⟨0, [], 0, 0⟩)
  let a := get p x.src
  let b := get a.1 x.cmp
  if a.2.reason ≠ 0 ∨ b.2.reason ≠ 0 then
    let why := if a.2.reason ≠ 0 then a.2.reason else b.2.reason
    -- a descriptor's own operand that cannot be read ends it with cause 0x0A (R322)
    b.1.noteFail e stub (match u with | .desc _ _ _ _ => ⟨0x3f, if why = 0x59 then 0x0a else 0x05⟩ | _ => FabFail.ofNack why)
  else
    let data := a.2.data ++ b.2.data
    if x.loc = p.ownLoc then
      let y := b.1.serveHome e p.ownLoc x.kind (fabAddr x.loc x.off) x.len x.op data
      if y.2.reason = 0 then y.1.noteOk e stub y.2 else y.1.noteFail e stub (FabFail.ofNack y.2.reason)
    else if !b.1.locValid || !b.1.topo.holds x.loc then b.1.noteFail e stub (FabFail.ofNack 0x5b)
    else b.1.addReq e en x.loc cls x.kind (fabAddr x.loc x.off) x.len x.op data u

/-- Read local bytes for a request. -/
def readLocal (e : Env) (p : Pkg) (a n : Nat) : Pkg × Served := p.serveHome e p.ownLoc tyRead (fabAddr p.ownLoc a) n 0 []

/-- A COPY within the package moves one piece: the source as the journal keeps it, and a drop cloth of what it overwrites (R210, R492). -/
def Pkg.copyInside (p : Pkg) (e : Env) (r : Run) (x : Piece) : Pkg :=
  match x.src with
  | none => p
  | some a =>
    let t := p.touchRange e (.descriptor r.queue) a x.len
    if t.2 = .failed then t.1.setRun { r.abort e.tag 0x0a with stopped := true, appended := true, undef := true }
    else
      let r1 := r.told e.tag t.2
      let w := t.1.routineStore e r1 r.step [(2, [⟨x.off, (List.range x.len).map (fun i => t.1.inputByte r false (a + i))⟩])]
      w.1.setRun { w.2 with incs := w.2.incs + 1 }

/-- The engine issues a descriptor's further requests while it has room for them (R380, R403, R497). -/
def Pkg.pumpRun (p : Pkg) (e : Env) (q : Nat) : Pkg :=
  match p.runOf q with
  | none => p
  | some r =>
    if r.kind ≠ 3 ∨ r.finished then p else
    let ps := p.fabPieces r
    let en := p.engineFor r.ctx (p.fabDest r.desc r.fabTensors)
    let cls := bitsOf (dOp r.desc) 19 18
    (ps.drop r.step).foldl (fun (s : Pkg) x =>
      match s.runOf q with
      | none => s
      | some u =>
        if u.stopped || u.replayOn.isSome || s.outstanding en ≥ 768 then s
        else
          let s1 := if x.kind = tyWrite ∧ x.loc = s.ownLoc then s.copyInside e u x
            else s.issue e en cls (.desc q x.iter x.at_ x.dst) x (readLocal e)
          s1.updRun q (fun v => { v with step := v.step + 1 })) p

/-- The engine issues a fire's further requests. -/
def Pkg.pumpFire (p : Pkg) (e : Env) (f : Fire) : Pkg :=
  ((p.firePieces f.bytes).drop f.step).foldl (fun (s : Pkg) x =>
    match s.fires.find? (fun g => g.engine == f.engine && g.idx == f.idx && g.tag == f.tag) with
    | none => s
    | some g =>
      if g.failed || s.outstanding f.engine ≥ 768 then s
      else
        let s1 := s.issue e f.engine 0 (.fire f.engine f.idx f.tag x.dst) x (readLocal e)
        { s1 with fires := s1.fires.map (fun (y : Fire) =>
            if y.engine == f.engine && y.idx == f.idx && y.tag == f.tag then { y with step := y.step + 1 } else y) }) p

/-- A fabric descriptor whose requests are all answered has finished its work (R386); a refusal after something was applied is 0x34 (R404,
R405). -/
def Pkg.concludeRun (p : Pkg) (e : Env) (q : Nat) : Pkg :=
  match p.runOf q with
  | none => p
  | some r =>
    if r.kind ≠ 3 ∨ r.finished ∨ p.fab.reqs.any (fun x => x.user.ofQueue q) then p
    else if r.replayOn.isSome then p
    else if r.step ≥ (p.fabPieces r).length || (r.stopped && r.appended) then
      let soft (s : Nat) : Bool := s == 0x10 || s == 0x11 || s == 0x12
      let part : Bool := r.incs > 0 && r.statuses.any (fun s => soft s.2)
      let r1 := if part then { r with statuses := r.statuses.map (fun s => if soft s.2 then (s.1, 0x34) else s), undef := true } else r
      let en := p.engineFor r.ctx (p.fabDest r.desc r.fabTensors)
      (if part then p.raiseIrq 12 (20 + en / 4) (72 + en) else p).setRun { r1 with finished := true, endBeat := e.tag }
    else p

/-- A fire whose requests are all answered completes: the remote increment, then the signal (R421). -/
def Pkg.concludeFire (p : Pkg) (e : Env) (f : Fire) : Pkg :=
  if p.fab.reqs.any (fun x => x.user.ofFire f) then p
  else if !f.failed && f.step < (p.firePieces f.bytes).length then p
  else
    let p1 : Pkg := { p with fires := p.fires.filter (fun g => g ≠ f) }
    if f.failed then p1
    else
      let rc := teRcnt f.bytes
      let loc := rc % 2 ^ 18
      let en := bitsOf rc 22 18
      let c := bitsOf rc 36 23
      let p2 :=
        if !teRcen f.bytes then p1
        else if loc = p1.ownLoc then p1.addReg (Reg.COL_TCNT en c) 1
        else if !p1.locValid || !p1.topo.holds loc then p1
        else p1.addReq e f.engine loc 0 tyAtomic (fabAddr loc (0x30000000000 + Reg.COL_TCNT en c)) 8 0x10 (leBytes 8 1) .increment
      let sg := teSig f.bytes
      match p2.partOfEngines (f.engine / 4) with
      | some ctx => if wEn sg then p2.addFlag (20 + f.engine / 4) ctx (wFlag sg) (wAmount sg) else p2
      | none => p2

/-- Send what each engine may send. -/
def Pkg.sendAll (p : Pkg) (e : Env) : Pkg :=
  let es := (p.fab.reqs.map (fun r => r.engine)).foldl (fun (acc : List Nat) x => if acc.contains x then acc else acc ++ [x]) []
  (sortBy (fun a b => decide (a ≤ b)) es).foldl (fun (q : Pkg) en => q.sendReqs e en) p

/-- Aperture stores and atomics of a core that are not yet answered. -/
def Pkg.unanswered (p : Pkg) (g : Nat) : List FabReq :=
  p.fab.reqs.filter (fun r => match r.user with | .core c _ _ _ store _ => c == g && store | _ => false)

/-- A waiting fence of a core completes once every earlier aperture store and atomic of the core is answered (R393). -/
def Pkg.fencesEnd (p : Pkg) : Pkg :=
  { p with cores := p.cores.map (fun gc => (gc.1, { gc.2 with fencing := gc.2.fencing && !(p.unanswered gc.1).isEmpty })) }

/-- Everything that follows an answer: further requests issue, descriptors whose requests are answered have finished their work, and failed
fires end. -/
def Pkg.settle (p : Pkg) (e : Env) : Pkg :=
  let qs := (p.dsp.runs.filter (fun r => r.kind == 3)).map (fun r => r.queue)
  let p1 := qs.foldl (fun (s : Pkg) q => s.pumpRun e q) p
  let p2 := p1.fires.foldl (fun (s : Pkg) f => s.pumpFire e f) p1
  let p3 := p2.sendAll e
  let p4 := qs.foldl (fun (s : Pkg) q => s.concludeRun e q) p3
  (((p4.fires.filter (fun f => f.failed)).foldl (fun (s : Pkg) f => s.concludeFire e f) p4).sendAll e).fencesEnd

/-! ### Fabric descriptors (R382 to R386) -/

/-- The conditions of R383 and R384 on sizes, formats and locations. -/
def Pkg.fabShape (p : Pkg) (d : List Byte) (ts : List (Nat × Tensor)) : Verdict :=
  let own (h : Nat) : Bool := match assoc? ts h with | some t => p.fabLoc d t == p.ownLoc | none => true
  match assoc? ts 0, assoc? ts 2 with
  | some a, some b =>
    if dOp d % 16 = 0 then
      firstFail [abortIf (a.sizes != b.sizes) 0x04,
        abortIf (a.stored != b.stored || a.view != a.stored || b.view != b.stored) 0x03, abortIf (!own 0 && !own 2) 0x05]
    else
      let f : Fmt := match bitsOf (dOp d) 15 12 with | 0 | 2 => .int32 | 1 | 3 => .int64 | 4 => .f32 | _ => .f64
      firstFail [abortIf (ts.any (fun ht => ht.2.stored != f || ht.2.view != f)) 0x03,
        abortIf (ts.any (fun ht => ht.2.sizes != b.sizes)) 0x04, abortIf (!own 0 || !own 1 || !own 3) 0x05]
  | _, _ => some (0x3f, 0x02)

/-- Every check before a fabric descriptor starts (R385, R486, R638). -/
def Pkg.fabVerdict (p : Pkg) (c : Nat) (d : List Byte) : Verdict :=
  let hs := fabHandles d
  let ts := hs.map (fun h => (h, (p.examine c d h).2))
  let here := ts.filter (fun ht => p.fabLoc d ht.2 == p.ownLoc)
  let en := p.engineFor c (p.fabDest d ts)
  firstFail ([p.handleVerdict c d false (fun _ _ => false) hs, p.fabShape d ts, abortIf (nestBad d ts) 0x06,
    (if here.any (fun ht => p.foreignRegion c ht.2) then some (0x12, 0) else none),
    abortIf (here.any (fun ht => p.reachBad d ht.1 { ht.2 with loc := 0 })) 0x05,
    p.bandwidthVerdict c here, p.clothVerdict c d,
    (if (p.ctxEngines c).isEmpty then some (0x12, 0) else none),
    (if p.dieLost (20 + en / 4) then some (0x37, 0) else none)])

/-- The dispatcher starts a ready fabric descriptor of an operation. -/
def startFabric (kind q : Nat) (e : Env) (p : Pkg) : Pkg :=
  p.start e q (fun d => dKind d == 3 && dOp d % 16 == kind) (fun d => p.entryReads (p.queueCtx q) d (fabHandles d)) (fun p d =>
    p.orRun e q d (p.fabVerdict (p.queueCtx q) d) ((p.enterRun (p.newRun e q d [])).settle e))

/-! ### Replies, NACKs, retransmission (R386, R397 to R405) -/

/-- The outstanding request that an answer names. -/
def Pkg.answered (p : Pkg) (h : Hdr) : Option FabReq :=
  p.fab.reqs.find? (fun r => r.sent && r.engine == h.eng && r.addr == h.addr && r.seq % 65536 == h.seqLo && h.src == p.ownLoc)

/-- An engine learns its target's epoch from an answer. -/
def Pkg.learnEpoch (p : Pkg) (r : FabReq) (epoch : Nat) (sync : Bool) : Pkg :=
  match p.outFlow r.engine r.dest r.cls with
  | some f => p.setOutFlow { f with epoch := epoch, synced := f.synced || sync }
  | none => p

/-- Drop an outstanding request. -/
def Pkg.dropReq (p : Pkg) (r : FabReq) : Pkg := p.setReqs (p.fab.reqs.filter (fun x => x ≠ r))

/-- A REPLY completes its request (R386). -/
def takeReply (e : Env) (p : Pkg) (k : FabPkt) : Pkg :=
  let h := parseHdr k.header
  match p.answered h with
  | none => p
  | some r =>
    let p1 := (p.dropReq r).learnEpoch r h.epoch (r.kind == tySync)
    (if r.kind = tySync then p1 else p1.noteOk e r ⟨0, k.payload, h.flags, h.reason⟩).settle e

/-- After an EPOCH NACK: every outstanding store and atomic of the engine to that target is unknown, and its flows start again (R402). -/
def Pkg.epochLost (p : Pkg) (e : Env) (en dest : Nat) : Pkg :=
  let hit (r : FabReq) : Bool := r.engine == en && r.dest == dest && r.sent && (r.kind == tyWrite || r.kind == tyAtomic)
  let p1 := (p.fab.reqs.filter hit).foldl (fun (s : Pkg) r => (s.dropReq r).noteFail e r ⟨0x32, 0⟩) p
  (p1.fab.flows.filter (fun f => f.engine == en && f.dest == dest)).foldl (fun (s : Pkg) f =>
    let waiting := s.fab.reqs.filter (fun r => r.engine == en && r.dest == dest && r.cls == f.cls && !r.sent && r.kind != tySync)
    let s1 := (s.setReqs (s.fab.reqs.filter (fun r => !waiting.contains r && !(r.kind == tySync && r.engine == en && r.dest == dest && r.cls == f.cls)))).startFlow
      e en dest f.cls
    waiting.foldl (fun (u : Pkg) r => u.addReq e en dest f.cls r.kind r.addr r.len r.op r.data r.user) s1) p1

/-- A NACK ends, retries or refuses its request (R404, R405); it is a disturbance (R474). -/
def takeNack (e : Env) (p : Pkg) (k : FabPkt) : Pkg :=
  let h := parseHdr k.header
  match p.answered h with
  | none => p
  | some r =>
    let p0 := p.disturb 4 (20 + r.engine / 4) (portUnit k.port)
    if h.reason = 0x55 then
      let b := if r.backoff = 0 then 2 else min 64 (2 * r.backoff)
      let r1 := { r with backoff := b, retryAt := some (e.hall + 1000 * b), refused := some (r.refused.getD e.hall) }
      p0.setReqs (p0.fab.reqs.map (fun x => if x = r then r1 else x))
    else
      let p1 := ((p0.dropReq r).learnEpoch r h.epoch false).noteFail e r (FabFail.ofNack h.reason)
      (if h.reason = 0x58 then p1.epochLost e r.engine r.dest else p1).settle e

/-- Times after its first issue at which a request is retransmitted, in ns (R399). -/
def retxTimes : List Nat := [100000, 300000, 700000, 1500000, 3100000, 6300000]

/-- The time at which a request is given up (R399). -/
abbrev giveUpNs : Nat := 10000000

/-- A request of an engine by its number that a test admits. -/
def Pkg.reqWhere (p : Pkg) (en seq : Nat) (t : FabReq → Bool) : Option FabReq :=
  p.fab.reqs.find? (fun r => r.engine == en && r.seq == seq && r.sent && t r)

/-- A request without a reply is retransmitted with its number (R399, R474): REPLAYS counts it once. -/
def fabricRetransmit (en seq : Nat) (e : Env) (p : Pkg) : Pkg :=
  match p.reqWhere en seq (fun r => r.retryAt.isNone && r.tries < 6 && r.issued + retxTimes.getD r.tries 0 ≤ e.hall) with
  | none => p
  | some r =>
    let p1 := (p.setReqs (p.fab.reqs.map (fun x => if x = r then { r with tries := r.tries + 1 } else x))).fabCount (en / 4)
      (Reg.FAB_CNT_RETX (en / 4)) 1
    let p2 := match r.user with
      | .desc q _ _ _ | .coll q | .bcast q _ => p1.updRun q (fun u => { u.raise e.tag 4 with replays := u.replays + (if r.tries = 0 then 1 else 0) })
      | _ => p1
    ((p2.sendOn (p2.reqHdr r) r.seq r.data).1).disturb 4 (20 + en / 4) 0

/-- A request without a reply at 10 ms is given up (R399, R402): a load is INCOMPLETE, a store or atomic unknown; requests that waited for a
SYNC were never issued. -/
def requestGiveUp (en seq : Nat) (e : Env) (p : Pkg) : Pkg :=
  match p.reqWhere en seq (fun r => r.retryAt.isNone && r.issued + giveUpNs ≤ e.hall) with
  | none => p
  | some r =>
    let p1 := p.dropReq r
    let p2 :=
      if r.kind = tySync then
        let stuck := p1.fab.reqs.filter (fun x => x.engine == en && x.dest == r.dest && x.cls == r.cls && !x.sent)
        let p3 : Pkg := { p1 with fab := { p1.fab with flows := p1.fab.flows.filter (fun f => !(f.engine == en && f.dest == r.dest && f.cls == r.cls)) } }
        stuck.foldl (fun (s : Pkg) x => (s.dropReq x).noteFail e x ⟨0x34, 0⟩) p3
      else p1.noteFail e r (if r.kind = tyRead then ⟨0x34, 0⟩ else ⟨0x32, 0⟩)
    p2.settle e

/-- A request refused with FULL is issued again after its wait, or ends when the limit has passed since its first refusal (R405). -/
def fullReissue (en seq : Nat) (e : Env) (p : Pkg) : Pkg :=
  match p.reqWhere en seq (fun r => match r.retryAt with | some t => t ≤ e.hall | none => false) with
  | none => p
  | some r =>
    let lim := 1000 * p.fld (Reg.FAB_CTRL (en / 4)) Fld.FAB_REFUSE_LIMIT_US
    if (r.refused.getD e.hall) + lim ≤ e.hall then ((p.dropReq r).noteFail e r (FabFail.ofNack 0x55)).settle e
    else
      -- its next wait for a reply begins with this issue (R399)
      let p1 := p.setReqs (p.fab.reqs.map (fun x => if x = r then { r with retryAt := none, issued := e.hall } else x))
      (p1.sendOn (p1.reqHdr r) r.seq r.data).1

/-- A SYNC sets the start number of a flow: its records begin anew, and the reply carries this package's epoch (R397, R402). -/
def takeSync (e : Env) (p : Pkg) (k : FabPkt) : Pkg :=
  let h := parseHdr k.header
  let r := formatReason p.topo h k.payload
  if r ≠ 0 then p.violationNack k.port h k.seq r
  else (p.setInFlow ⟨h.src, h.eng, h.cls, leAt k.payload 0 4, [], [], e.hall⟩).answerPkt h k.seq tyReply 0 0 []

/-! ### Hot lines (R406, R407) -/

/-- A notice comes in: the switch combines requests for the line and passes the notice on where requests for it arrive. -/
def hotLineNotice (port line home : Nat) (_ : Env) (p : Pkg) : Pkg :=
  if home = p.ownLoc ∨ p.combines home line then p
  else ({ p with fab := { p.fab with combine := p.fab.combine ++ [(home, line)] } }).notify ((p.seenPorts home line).filter (fun x => x ≠ port)) line home false

/-- The end of a hot line: at its home when the queue has stayed below 16 for 10 µs, and at a switch, which then forwards what it holds; each sends the
end notice back as it sent the first (R406). -/
def hotLineEnd (line home : Nat) (e : Env) (p : Pkg) : Pkg :=
  if home = p.ownLoc then
    let cools (l : HomeLine) : Bool := l.line == line && l.hot && l.count < 16 && l.low + 10000 ≤ e.hall
    let p1 : Pkg := { p with fab := { p.fab with lines := p.fab.lines.map (fun (l : HomeLine) => if cools l then { l with hot := false } else l) } }
    p1.notify (((p.fab.lines.filter cools).map (fun l => l.ports)).flatten) line home true
  else if !p.combines home line then p
  else
    let mine := p.fab.holds.filter (fun h => h.home == home && h.line == line)
    let p1 : Pkg := ({ p with fab := { p.fab with
      combine := p.fab.combine.filter (fun x => x ≠ (home, line)), holds := p.fab.holds.filter (fun h => !mine.contains h) } } : Pkg).notify
        (p.seenPorts home line) line home true
    mine.foldl (fun (s : Pkg) h => (mergeGroups h.pkts).foldl (fun (u : Pkg) g => u.forwardGroup h.die g) s) p1

/-- A switch core's hold of a line ends: what merged goes out (R407). -/
def combineHoldExpiry (die line : Nat) (_ : Env) (p : Pkg) : Pkg :=
  let mine := p.fab.holds.filter (fun h => h.die == die && h.line == line)
  let p1 : Pkg := { p with fab := { p.fab with holds := p.fab.holds.filter (fun h => !mine.contains h) } }
  mine.foldl (fun (s : Pkg) h => (mergeGroups h.pkts).foldl (fun (u : Pkg) g => u.forwardGroup h.die g) s) p1

/-- Home queues drain by one request per 2 ns, eight a beat (R409), and forgotten arrivals leave the switch's view. -/
def Pkg.drainLines (p : Pkg) (e : Env) : Pkg :=
  let ls := p.fab.lines.map (fun (l : HomeLine) => { l with count := l.count - 8 })
  { p with fab := { p.fab with
      lines := ls.filter (fun l => l.hot || l.count ≠ 0)
      seen := p.fab.seen.filter (fun s => e.hall < s.last + 10000) } }

/-! ### Records that expire (R400, R401) -/

/-- A flow's record is dropped 20 ms after its last packet; the number it expects is kept. -/
def flowRecordExpiry (_die idx : Nat) (e : Env) (p : Pkg) : Pkg :=
  match p.fab.inflows[idx]? with
  | none => p
  | some f => if f.last + 20000000 ≤ e.hall ∧ f.waiting.isEmpty then p.setInFlow { f with applied := [] } else p

/-- An atomic entry of a home die is freed 20 ms after its atomic was applied. -/
def atomicEntryExpiry (die idx : Nat) (e : Env) (p : Pkg) : Pkg :=
  match (p.fab.atoms.filter (fun a => a.home == die))[idx]? with
  | none => p
  | some a => if a.since + 20000000 ≤ e.hall then { p with fab := { p.fab with atoms := p.fab.atoms.erase a } } else p

/-! ### Ports (R373, R374, R411, R412, R459) -/

/-- A frame at a port (R374): clean or corrected, it passes; one that cannot be corrected is retransmitted from the peer's link buffer, a class-8
event; its unit is the lane the frame's errors name, for the lane's self-test. -/
def frameReceive (port : Nat) (o : FrameOutcome) (_ : Env) (p : Pkg) : Pkg :=
  match o with
  | .clean => p
  | .corrected => p
  | .uncorrectable lane =>
    if !p.portUp port then p
    else
      let p1 := p.fabErr 2 port 0
      p1.event 8 (portDie port) (portLaneUnit port lane.val) 1 2 (portErrData p1 port)

/-- A port finishes training: its lanes, its peer, its one-way delay (R373, R459). A disabled port or one with no peer stays as it is. -/
def portTrainingEnd (port lanes peerLoc peerPort delay : Nat) (_ : Env) (p : Pkg) : Pkg :=
  let k := Reg.FAB_PORT_STATUS port
  let retired := (List.range 4).filter (fun i => p.ras.retired.contains (portDie port, portLaneUnit port i))
  if p.on (Reg.FAB_PORT_CTRL port) Fld.FAB_PC_DISABLE || !p.topo.hasPeer port || p.portState port > 1 || lanes < 3 || retired.length ≥ 2 ||
      (lanes = 4 && !retired.isEmpty) then p
  else
    let gone := match retired with | i :: _ => 2 ^ i | [] => if lanes = 4 then 0 else 8
    let p1 := (((p.setFld k Fld.FAB_PS_STATE (if lanes = 4 then 2 else 3)).setFld k Fld.FAB_PS_LANES (15 - gone)).setFld k Fld.FAB_PS_PEER_PORT
      peerPort).setFld k Fld.FAB_PS_PEER_LOC peerLoc
    { p1 with fab := { p1.fab with delays := assocPut p1.fab.delays port delay } }

/-- A port measures its one-way delay (R459). -/
def portDelayMeasure (port delay : Nat) (_ : Env) (p : Pkg) : Pkg :=
  if p.portUp port then { p with fab := { p.fab with delays := assocPut p.fab.delays port delay } } else p

/-- A 1 ms window of a port ends: the window that leaves the last 1,000 takes its violations with it (R411). -/
def violationWindow (port : Nat) (_ : Env) (p : Pkg) : Pkg := p.setViols port ((0 :: p.violWins port).take 1000)

/-! ### The commands -/

/-- COPY (R383). -/
def execCopy (q : Fin 64) (s : State) : Host.Outcome State Fault Refusal := s.work .none (startFabric 0 q.val)

/-- ATOMIC (R384). -/
def execAtomic (q : Fin 64) (s : State) : Host.Outcome State Fault Refusal := s.work .none (startFabric 1 q.val)

/-- READ_REQUEST (R392). -/
def execReadRequest (port : Fin 36) (pkt : RawPacket) (s : State) : Host.Outcome State Fault Refusal :=
  s.work ⟨8, portDie port.val, portUnit port.val⟩ (fun e p =>
    p.receive e port.val pkt (fun h => h.ty == tyRead) (fun q k => q.arriveRequest e k (fun u x => u.serveRequest e x)))

/-- WRITE_REQUEST (R400). -/
def execWriteRequest (port : Fin 36) (pkt : RawPacket) (s : State) : Host.Outcome State Fault Refusal :=
  s.work ⟨8, portDie port.val, portUnit port.val⟩ (fun e p =>
    p.receive e port.val pkt (fun h => h.ty == tyWrite) (fun q k => q.arriveRequest e k (fun u x => u.serveRequest e x)))

/-- An ATOMIC that a fire's remote increment sends: its address is a trigger counter's. -/
def isIncrement (h : Hdr) : Bool :=
  isMmio (addrOff h.addr) && match findReg (addrOff h.addr - 0x30000000000) with | some r => r.spec.name == "COL_TCNT" | none => false

/-- ATOMIC_REQUEST (R401). -/
def execAtomicRequest (port : Fin 36) (pkt : RawPacket) (s : State) : Host.Outcome State Fault Refusal :=
  s.work ⟨8, portDie port.val, portUnit port.val⟩ (fun e p =>
    p.receive e port.val pkt (fun h => h.ty == tyAtomic && !h.comb && !isIncrement h)
      (fun q k => q.arriveRequest e k (fun u x => u.serveRequest e x)))

/-- COMBINED_ATOMIC (R408). -/
def execCombinedAtomic (port : Fin 36) (pkt : RawPacket) (s : State) : Host.Outcome State Fault Refusal :=
  s.work ⟨8, portDie port.val, portUnit port.val⟩ (fun e p =>
    p.receive e port.val pkt (fun h => h.ty == tyAtomic && h.comb) (fun q k => q.arriveRequest e k (fun u x => u.serveRequest e x)))

/-- REMOTE_INCREMENT (R416, R421): an atomic of 1 on a trigger counter of this package. -/
def execRemoteIncrement (port : Fin 36) (pkt : RawPacket) (s : State) : Host.Outcome State Fault Refusal :=
  s.work ⟨10, portDie port.val, portUnit port.val⟩ (fun e p =>
    p.receive e port.val pkt (fun h => h.ty == tyAtomic && !h.comb && isIncrement h)
      (fun q k => q.arriveRequest e k (fun u x => u.serveRequest e x)))

/-- REPLY (R386). -/
def execReply (port : Fin 36) (pkt : RawPacket) (s : State) : Host.Outcome State Fault Refusal :=
  s.work ⟨12, portDie port.val, portUnit port.val⟩ (fun e p => p.receive e port.val pkt (fun h => h.ty == tyReply) (takeReply e))

/-- NACK (R404). -/
def execNack (port : Fin 36) (pkt : RawPacket) (s : State) : Host.Outcome State Fault Refusal :=
  s.work ⟨12, portDie port.val, portUnit port.val⟩ (fun e p => p.receive e port.val pkt (fun h => h.ty == tyNack) (takeNack e))

/-- SYNC (R397). -/
def execSync (port : Fin 36) (pkt : RawPacket) (s : State) : Host.Outcome State Fault Refusal :=
  s.work .none (fun e p => p.receive e port.val pkt (fun h => h.ty == tySync) (takeSync e))

/-- FABRIC_RETRANSMIT (R399). -/
def execFabricRetransmit (engine : Fin 32) (seq : Nat) (s : State) : Host.Outcome State Fault Refusal :=
  s.work .none (fabricRetransmit engine.val seq)

/-- REQUEST_GIVE_UP (R402), an event of class 12. -/
def execRequestGiveUp (engine : Fin 32) (seq : Nat) (s : State) : Host.Outcome State Fault Refusal :=
  s.work ⟨12, 20 + engine.val / 4, 0⟩ (requestGiveUp engine.val seq)

/-- FULL_REISSUE (R405). -/
def execFullReissue (engine : Fin 32) (seq : Nat) (s : State) : Host.Outcome State Fault Refusal :=
  s.work .none (fullReissue engine.val seq)

/-- HOT_LINE_NOTICE (R406). -/
def execHotLineNotice (port : Fin 36) (line home : Nat) (s : State) : Host.Outcome State Fault Refusal :=
  s.work .none (hotLineNotice port.val line home)

/-- HOT_LINE_END (R406). -/
def execHotLineEnd (line home : Nat) (s : State) : Host.Outcome State Fault Refusal := s.work .none (hotLineEnd line home)

/-- COMBINE_HOLD_EXPIRY (R407). -/
def execCombineHoldExpiry (die : Fin 8) (line : Nat) (s : State) : Host.Outcome State Fault Refusal :=
  s.work .none (combineHoldExpiry die.val line)

/-- FLOW_RECORD_EXPIRY (R400). -/
def execFlowRecordExpiry (die : Fin 8) (idx : Nat) (s : State) : Host.Outcome State Fault Refusal :=
  s.work .none (flowRecordExpiry die.val idx)

/-- ATOMIC_ENTRY_EXPIRY (R401). -/
def execAtomicEntryExpiry (die : Fin 8) (idx : Nat) (s : State) : Host.Outcome State Fault Refusal :=
  s.work .none (atomicEntryExpiry die.val idx)

/-- FRAME_RECEIVE (R374), an event of class 8. -/
def execFrameReceive (port : Fin 36) (outcome : FrameOutcome) (s : State) : Host.Outcome State Fault Refusal :=
  s.work ⟨8, portDie port.val, portUnit port.val⟩ (frameReceive port.val outcome)

/-- PORT_DOWN (R412). -/
def execPortDown (port : Fin 36) (s : State) : Host.Outcome State Fault Refusal := s.work .none (fun _ p => p.portFalls port.val)

/-- PORT_TRAINING_END (R459). -/
def execPortTrainingEnd (port : Fin 36) (lanes : Fin 5) (peerLoc peerPort delay : Nat) (s : State) : Host.Outcome State Fault Refusal :=
  s.work .none (portTrainingEnd port.val lanes.val peerLoc peerPort delay)

/-- PORT_DELAY_MEASURE (R459). -/
def execPortDelayMeasure (port : Fin 36) (delay : Nat) (s : State) : Host.Outcome State Fault Refusal :=
  s.work .none (portDelayMeasure port.val delay)

/-- VIOLATION_WINDOW (R411). -/
def execViolationWindow (port : Fin 36) (s : State) : Host.Outcome State Fault Refusal := s.work .none (violationWindow port.val)

end Sys2Proof.Machine
end

