-- ==== Sys2Proof/Machine/HostMem.lean ====
section
/-! DEFINITION. What lies between a host core and memory (spec 09_host_cores_and_qvx.md, R328, R329, R332, R333, Table 09-1 to Table 09-3): the physical
address, the host caches, address translation, and the pieces of an access. -/

namespace Sys2Proof.Machine

/-! ### Physical addresses (R332, R333) -/

/-- Where a host physical address leads. -/
inductive HostPlace where
  | bad
  | memory
  | mmio (off : Nat)
  | window
  | aperture (n off : Nat)
  deriving DecidableEq, Repr

/-- R332 and Table 09-3. -/
def Pkg.hostPlace (p : Pkg) (pa : Nat) : HostPlace :=
  if pa ≥ 2 ^ 56 then .bad
  else if pa.testBit 55 then (if bitsOf pa 54 52 = 0 then .aperture (bitsOf pa 51 46) (pa % 2 ^ 46) else .bad)
  else if bitsOf pa 54 46 ≠ 0 then .bad
  else if isHbm pa || isStash pa then (if (p.regionAt pa).isSome then .memory else .bad)
  else if isMmio pa then .mmio (pa - 0x30000000000)
  else if isWindow pa then .window
  else .bad

/-! ### The host caches (R328, R329) -/

/-- The line of an address in the host caches. -/
def Pkg.cached (p : Pkg) (a : Nat) : Option HostLine := p.hostLines.find? (fun l => l.addr == a / 256 * 256)

/-- Drop a line from the host caches. -/
def Pkg.uncache (p : Pkg) (a : Nat) : Pkg := { p with hostLines := p.hostLines.filter (fun l => l.addr ≠ a / 256 * 256) }

/-- Put back a line of the host caches. -/
def Pkg.setLine (p : Pkg) (l : HostLine) : Pkg := let q := p.uncache l.addr; { q with hostLines := q.hostLines ++ [l] }

/-- Lines of 256 bytes that a cache holds (Table 09-1). -/
def HostCache.lines : HostCache → Nat
  | .l1i _ => 256
  | .l1d _ => 256
  | .l2 _ => 4096
  | .llc _ => 393216

/-- The caches that hold a line which a core uses: as data, or as instructions. -/
def cachesOf (g : Nat) (fetch : Bool) : List HostCache := [if fetch then .l1i g else .l1d g, .l2 g, .llc (g / 36)]

/-- A core's access to HBM is refused for want of bandwidth (R312): its group's partition has none. -/
def Pkg.coreRefused (p : Pkg) (g a : Nat) : Bool :=
  isHbm a && match p.partOfGroup (coreGroup g) with | some c => p.noBandwidth c | none => false

/-- Read bytes of memory past the caches. -/
def Pkg.readBehind (p : Pkg) (e : Env) (g a n : Nat) : Pkg × Except HostFail (List Byte) :=
  if !p.noHole a n || p.coreRefused g a then (p, .error .access)
  else
    let x := p.touchRange e (.core g) a n
    (x.1, if x.2 = .failed then .error .check else .ok (x.1.viewBytes a n))

/-- Another core's reservation on a line ends when the line is written. -/
def Pkg.breakReserves (p : Pkg) (g line : Nat) : Pkg :=
  { p with cores := p.cores.map (fun gc => if gc.1 ≠ g ∧ gc.2.reserve = some line then (gc.1, { gc.2 with reserve := none }) else gc) }

/-- Write bytes of memory past the caches. -/
def Pkg.writeBehind (p : Pkg) (e : Env) (g a : Nat) (bs : List Byte) : Pkg × Except HostFail Unit :=
  if !p.noHole a bs.length || p.coreRefused g a then (p, .error .access)
  else
    let x := (linePieces a bs).foldl (fun (st : Pkg × LineOutcome) ab =>
      let y := st.1.storeOrHold e (.core g) ab.1 ab.2
      (y.1.breakReserves g (ab.1 / 256 * 256), st.2.join y.2)) (p, .ok)
    (x.1, if x.2 = .failed then .error .check else .ok ())

/-- Write a dirty line back; it stays, clean, unless memory refuses it. -/
def Pkg.cleanLine (p : Pkg) (e : Env) (g a : Nat) : Pkg × Except HostFail Unit :=
  match p.cached a with
  | some l =>
    if l.dirty then
      let x := p.writeBehind e g l.addr l.bytes
      (match x.2 with | .error _ => x.1 | .ok _ => x.1.setLine { l with dirty := false }, x.2)
    else (p, .ok ())
  | none => (p, .ok ())

/-- The kind of Table 09-12 that a failed write-back is recorded as. -/
def HostFail.kind : HostFail → Nat
  | .check => 3
  | _ => 5

/-- A line leaves the caches, written back if it is dirty; what memory refuses is recorded and stays. -/
def Pkg.evictLine (p : Pkg) (e : Env) (g a : Nat) : Pkg :=
  let x := p.cleanLine e g a
  match x.2 with
  | .error f => x.1.hostRecord e g f.kind 9 a 0 false true
  | .ok _ => x.1.uncache a

/-- A cache that holds more lines than it has room for gives up one that a free value chooses, beside the line in use; a line that no cache holds leaves
them (Table 09-1; the spec states no replacement). -/
def Pkg.trimCache (p : Pkg) (e : Env) (g : Nat) (c : HostCache) (line : Nat) : Pkg :=
  if (p.hostLines.filter (fun l => l.within.contains c)).length ≤ c.lines then p
  else
    let others := p.hostLines.filter (fun l => l.within.contains c && l.addr != line)
    let f := p.drawFree 1
    match others[(Config.freeWord f.1).toNat % others.length]? with
    | none => f.2
    | some l =>
      let l1 : HostLine := { l with within := l.within.filter (fun x => x ≠ c) }
      if l1.within.isEmpty then f.2.evictLine e g l.addr else f.2.setLine l1

/-- A line that a core uses stands in the core's caches; one it writes leaves every other core's (R329). -/
def Pkg.holdLine (p : Pkg) (e : Env) (g : Nat) (fetch alone : Bool) (l : HostLine) : Pkg :=
  let mine := cachesOf g fetch
  let w := if alone then mine else l.within ++ mine.filter (fun c => !l.within.contains c)
  if w = l.within && p.cached l.addr == some l then p
  else mine.foldl (fun (q : Pkg) c => q.trimCache e g c l.addr) (p.setLine { l with within := w })

/-- Bring a line into a core's caches. -/
def Pkg.fetchLine (p : Pkg) (e : Env) (g a : Nat) (fetch : Bool) : Pkg × Except HostFail HostLine :=
  match p.cached a with
  | some l => (p.holdLine e g fetch false l, .ok l)
  | none =>
    let x := p.readBehind e g (a / 256 * 256) 256
    match x.2 with
    | .error k => (x.1, .error k)
    | .ok bs => let l : HostLine := ⟨a / 256 * 256, bs, false, []⟩; (x.1.holdLine e g fetch false l, .ok l)

/-- Read bytes through the caches, line by line in ascending order. -/
def Pkg.readCached (p : Pkg) (e : Env) (g a n : Nat) (fetch : Bool) : Pkg × Except HostFail (List Byte) :=
  (linesOf a n).foldl (fun (st : Pkg × Except HostFail (List Byte)) l =>
    match st.2 with
    | .error k => (st.1, .error k)
    | .ok bs =>
      let x := st.1.fetchLine e g l fetch
      (x.1, match x.2 with
        | .error k => .error k
        | .ok h => let lo := max a l; .ok (bs ++ (h.bytes.drop (lo - l)).take (min (a + n) (l + 256) - lo)))) (p, .ok [])

/-- Replace bytes of a list from a position on. -/
def patchBytes (old : List Byte) (off : Nat) (bs : List Byte) : List Byte := old.take off ++ bs ++ old.drop (off + bs.length)

/-- Write bytes into the caches: each line is brought in first, and a fault leaves every byte unwritten. -/
def Pkg.writeCached (p : Pkg) (e : Env) (g a : Nat) (bs : List Byte) : Pkg × Except HostFail Unit :=
  let x := p.readCached e g a bs.length false
  match x.2 with
  | .error k => (x.1, .error k)
  | .ok _ =>
    ((linePieces a bs).foldl (fun (q : Pkg) ab =>
      match q.cached ab.1 with
      | some l =>
        (q.holdLine e g false true { l with bytes := patchBytes l.bytes (ab.1 - l.addr) ab.2, dirty := true }).breakReserves g l.addr
      | none => q) x.1, .ok ())

/-- Read memory for a core: through the caches, or past them under an NC or IO mapping (R333). -/
def Pkg.hostRead (p : Pkg) (e : Env) (g a n pbmt : Nat) : Pkg × Except HostFail (List Byte) :=
  if pbmt = 0 then p.readCached e g a n false else p.readBehind e g a n

/-- Write memory for a core. -/
def Pkg.hostWrite (p : Pkg) (e : Env) (g a : Nat) (bs : List Byte) (pbmt : Nat) : Pkg × Except HostFail Unit :=
  if pbmt = 0 then p.writeCached e g a bs else p.writeBehind e g a bs

/-! ### Address translation (Table 09-2: Sv39, Sv48, Svpbmt) -/

/-- A leaf entry permits an access in a mode: readable, writable or executable, its user bit, accessed and, for a store, dirty. -/
def Core.leafAdmits (c : Core) (mode pte : Nat) (k : AccKind) : Bool :=
  let r : Bool := pte.testBit 1 || (c.ms 19 && pte.testBit 3)
  (if mode = 0 then pte.testBit 4 else !pte.testBit 4 || (c.ms 18 && k != .fetch)) && pte.testBit 6 &&
  (match k with
   | .load => r
   | .store => pte.testBit 2 && pte.testBit 7
   | .fetch => pte.testBit 3
   | .block => r || pte.testBit 2)

/-- An entry breaks the published format: not valid, writable without being readable, a reserved bit, or a memory type that is reserved or switched off. -/
def Core.pteBad (c : Core) (pte : Nat) : Bool :=
  let t := bitsOf pte 62 61
  !pte.testBit 0 || (pte.testBit 2 && !pte.testBit 1) || pte.testBit 63 || bitsOf pte 60 54 != 0 || t == 3 ||
  (t != 0 && !(c.csrNat csrMenvcfg).testBit 62)

/-- Walk the table at page `ppn` for a virtual address, `levels` levels from its leaves: the physical address with the page's memory type. -/
def Pkg.walk (p : Pkg) (e : Env) (g mode va : Nat) (k : AccKind) : Nat → Nat → Pkg × Except HostFail (Nat × Nat)
  | 0, _ => (p, .error .page)
  | levels + 1, ppn =>
    let c := p.core g
    let a := ppn * 4096 + bitsOf va (20 + 9 * levels) (12 + 9 * levels) * 8
    if !c.pmpAdmits 1 a 8 .load then (p, .error .denied)
    else if p.hostPlace a ≠ .memory then (p, .error .access)
    else
      let x := p.readCached e g a 8 false
      match x.2 with
      | .error f => (x.1, .error f)
      | .ok bs =>
        let pte := leNat bs
        let next := bitsOf pte 53 10
        if c.pteBad pte then (x.1, .error .page)
        else if !pte.testBit 1 && !pte.testBit 3 then
          if pte.testBit 4 || pte.testBit 6 || pte.testBit 7 || bitsOf pte 62 61 != 0 then (x.1, .error .page)
          else x.1.walk e g mode va k levels next
        else if next % 2 ^ (9 * levels) ≠ 0 || !c.leafAdmits mode pte k then (x.1, .error .page)
        else (x.1, .ok (next * 4096 + va % 2 ^ (12 + 9 * levels), bitsOf pte 62 61))

/-- Translate an address: the physical address and memory type. M-mode and `satp` off translate nothing. -/
def Pkg.translate (p : Pkg) (e : Env) (g va : Nat) (k : AccKind) : Pkg × Except HostFail (Nat × Nat) :=
  let c := p.core g
  let mode := c.accMode k
  let satp := c.csrNat csrSatp
  let how := bitsOf satp 63 60
  if mode = 3 ∨ how = 0 then (p, .ok (va, 0))
  else
    let levels := if how = 9 then 4 else 3
    let top := bitsOf va 63 (11 + 9 * levels)
    if top ≠ 0 ∧ top ≠ 2 ^ (53 - 9 * levels) - 1 then (p, .error .page) else p.walk e g mode va k levels (bitsOf satp 43 0)

/-- A piece of an access within one page: its virtual and physical address, its bytes, the page's memory type (0 none, 1 NC, 2 IO). -/
structure Span where
  va : Nat
  pa : Nat
  len : Nat
  pbmt : Nat
  deriving DecidableEq, Repr

/-- What stops an access: how, at which virtual and physical address. -/
structure SpanStop where
  how : HostFail
  va : Nat
  pa : Nat
  deriving DecidableEq, Repr

/-- The pages of 4 KiB that `n` bytes from an address touch, as first address and length. -/
def pageParts (va n : Nat) : List (Nat × Nat) :=
  let first := 4096 - va % 4096
  if n ≤ first then [(va, n)] else [(va, first), ((va + first) % 2 ^ 64, n - first)]

/-- Translate an access of at most a page, and check it against physical memory protection. -/
def Pkg.spans (p : Pkg) (e : Env) (g va n : Nat) (k : AccKind) : Pkg × Except SpanStop (List Span) :=
  (pageParts va n).foldl (fun (st : Pkg × Except SpanStop (List Span)) x =>
    match st.2 with
    | .error s => (st.1, .error s)
    | .ok xs =>
      let t := st.1.translate e g x.1 k
      match t.2 with
      | .error f => (t.1, .error ⟨f, x.1, 0⟩)
      | .ok y =>
        let c := t.1.core g
        if c.pmpAdmits (c.accMode k) y.1 x.2 k then (t.1, .ok (xs ++ [⟨x.1, y.1, x.2, y.2⟩])) else (t.1, .error ⟨.denied, x.1, y.1⟩))
    (p, .ok [])

/-- Read the pieces of an access to memory. -/
def Pkg.readSpans (p : Pkg) (e : Env) (g : Nat) (xs : List Span) : Pkg × Except SpanStop (List Byte) :=
  xs.foldl (fun (st : Pkg × Except SpanStop (List Byte)) x =>
    match st.2 with
    | .error s => (st.1, .error s)
    | .ok bs =>
      let y := st.1.hostRead e g x.pa x.len x.pbmt
      (y.1, match y.2 with | .error f => .error ⟨f, x.va, x.pa⟩ | .ok d => .ok (bs ++ d))) (p, .ok [])

/-- Write the pieces of an access to memory, after what precedes them is written. -/
def Pkg.writeSpans (p : Pkg) (e : Env) (g : Nat) : List Span → List Byte → Pkg × Except SpanStop Unit
  | [], _ => (p, .ok ())
  | x :: xs, bs =>
    let y := p.hostWrite e g x.pa (bs.take x.len) x.pbmt
    match y.2 with
    | .error f => (y.1, .error ⟨f, x.va, x.pa⟩)
    | .ok _ => y.1.writeSpans e g xs (bs.drop x.len)

end Sys2Proof.Machine
end

