-- ==== Sys2Proof/Machine/Host.lean ====
section
/-! DEFINITION. Host cores' accesses (spec 09_host_cores_and_qvx.md, R329, R332 to R338, R359 to R361; 10_qorloth_fabric.md, R393): memory, registers,
windows and fabric apertures, machine checks, fences. -/

namespace Sys2Proof.Machine

/-! ### How an access fails (R359) -/

/-- A dirty line with a parity error is written back with the failing byte's parity inverted (Table 09-12); the byte is the one that the
access meets. -/
def Pkg.writeBackBad (p : Pkg) (e : Env) (g a : Nat) : Pkg :=
  match p.cached a, p.regionAt a with
  | some l, some r =>
    if l.dirty then
      let dj := r.place (a / 256 * 256 - r.base)
      ((p.writeBehind e g l.addr l.bytes).1.markBad [r.code dj.1 dj.2 * 256 + a % 256]).uncache a
    else p.uncache a
  | _, _ => p.uncache a

/-- After an error that is not restartable the core's architectural state is undefined (R360): every register takes free values. -/
def Pkg.undefineCore (p : Pkg) (g : Nat) : Pkg :=
  let f := p.drawFree 592
  let w (i : Nat) : W64 := Config.freeWord (f.1 + i)
  let wide (base n : Nat) : Nat := (List.range n).foldl (fun acc i => acc + (w (base + i)).toNat * 2 ^ (64 * i)) 0
  let c := f.2.core g
  f.2.setCore g { c with
    x := (List.range 31).map (fun i => (i + 1, w i))
    f := (List.range 32).map (fun i => (i, w (31 + i)))
    v := (List.range 32).map (fun i => (i, BitVec.ofNat 1024 (wide (63 + 16 * i) 16)))
    p := (List.range 7).map (fun i => (i + 1, BitVec.ofNat 128 (wide (575 + 2 * i) 2)))
    sat := (w 589).getLsbD 0
    fflags := (w 590).toNat % 32
    frm := (w 591).toNat % 8 }

/-- A host error met on an access, as a kind of Table 09-12 with its unit; the answer says whether the access goes on. -/
def Pkg.hostError (p : Pkg) (e : Env) (g : Nat) (x : HostAt) (err : Option (Nat × Nat)) : Pkg × Bool :=
  match err with
  | none => (p, true)
  | some ku =>
    if ku.1 = 1 then ((p.hostRecord e g 1 ku.2 x.pa 0 false false).uncache x.pa, true)
    else if ku.1 = 2 then (((p.writeBackBad e g x.pa).hostRecord e g 2 ku.2 x.pa 0 true false).trapCore g causeHardware x.va x.pc, false)
    else if ku.1 = 3 then (p.hostFault e g .check .load x, false)
    else if ku.1 = 4 then (((p.undefineCore g).hostRecord e g 4 ku.2 x.pa 0 false false).trapCore g causeHardware 0 x.pc, false)
    else if ku.1 = 8 then (((p.writeBackBad e g x.pa).hostRecord e g 8 ku.2 x.pa 0 false true).raiseIrq 4 (coreDie g) 133, false)
    else (p, true)

/-! ### Accesses -/

/-- Atomic memory operations on a word of `w` bits: fetched, then combined (base A extension). -/
def amoResult (op : HostOp) (w old x : Nat) : Nat :=
  let slt (a b : Nat) : Bool := toSigned w a < toSigned w b
  match op with
  | .amoAdd => (old + x) % 2 ^ w
  | .amoSwap => x
  | .amoAnd => old &&& x
  | .amoOr => old ||| x
  | .amoXor => old ^^^ x
  | .amoMin => if slt x old then x else old
  | .amoMax => if slt old x then x else old
  | .amoMinu => if x < old then x else old
  | .amoMaxu => if old < x then x else old
  | _ => old

/-- The fabric operation byte of an AMO of `w` bits (R336): aop in bits 3:0, type above. -/
def amoFabric (op : HostOp) (w : Nat) : Nat :=
  let s := if w = 32 then 0 else 1
  match op with
  | .amoAdd => 16 * s
  | .amoSwap => 1 + 16 * s
  | .amoAnd => 5 + 16 * s
  | .amoOr => 6 + 16 * s
  | .amoXor => 7 + 16 * s
  | .amoMin => 3 + 16 * s
  | .amoMax => 4 + 16 * s
  | .amoMinu => 3 + 16 * (s + 2)
  | _ => 4 + 16 * (s + 2)

/-- Kinds of operations. -/
def opLoads (o : HostOp) : Bool := o == .load || o == .loadu || o == .fload
def opPuts (o : HostOp) : Bool := o == .store || o == .fstore
def opCbo (o : HostOp) : Bool := o == .cboClean || o == .cboInval || o == .cboFlush || o == .cboZero
def opAmo (o : HostOp) : Bool := !opLoads o && !opPuts o && !opCbo o && o != .lr && o != .sc && o != .evict && o != .fetch
/-- An operation of no size of its own. -/
def opFree (o : HostOp) : Bool := opCbo o || o == .evict

/-- What an operation's access is to translation, protection and the cause of its fault. -/
def accKind (o : HostOp) : AccKind :=
  if o = .fetch then .fetch else if opLoads o || o == .lr then .load
  else if o = .cboClean ∨ o = .cboFlush ∨ o = .cboInval then .block else .store

/-- The bytes an operation touches: a block operation its whole line. -/
def accSpan (a : HostAccess) : Nat × Nat := if opFree a.op then (a.va / 256 * 256, 256) else (a.va % 2 ^ 64, a.size)

/-- The register a load writes: the float registers follow the integer ones. -/
def accDest (a : HostAccess) : Nat := if a.op = .fload then a.rd.val + 32 else a.rd.val

/-- Where an access stands. -/
def accPlace (a : HostAccess) (pa : Nat) : HostAt := ⟨some a.pc, a.va, pa⟩

/-- A loaded value enters its register: zero-extended by `loadu` alone. -/
def Pkg.loadInto (p : Pkg) (g : Nat) (acc : HostAccess) (v : Nat) : Pkg := p.coreResult g (accDest acc) acc.size (acc.op != .loadu) v

/-- The reservation a core holds. -/
def Pkg.reserveOf (p : Pkg) (g : Nat) (r : Option Nat) : Pkg := p.setCore g { p.core g with reserve := r }

/-- An access to HBM or stash, of one page or two. -/
def Pkg.hostMemory (p : Pkg) (e : Env) (g : Nat) (acc : HostAccess) (xs : List Span) : Pkg :=
  let x0 : Span := xs.headD ⟨acc.va, 0, acc.size, 0⟩
  let a := x0.pa
  let line := a / 256 * 256
  let bs := leBytes acc.size acc.data
  let stop (q : Pkg) (s : SpanStop) : Pkg := q.hostFault e g s.how (accKind acc.op) ⟨some acc.pc, s.va, s.pa⟩
  let fail (q : Pkg) (f : HostFail) : Pkg := q.hostFault e g f (accKind acc.op) (accPlace acc a)
  let write (q : Pkg) (bs : List Byte) (k : Pkg → Pkg) : Pkg :=
    let y := q.writeSpans e g xs bs
    match y.2 with | .error s => stop y.1 s | .ok _ => k y.1
  let read (k : Pkg → Nat → Pkg) : Pkg :=
    let x := p.readSpans e g xs
    match x.2 with | .error s => stop x.1 s | .ok d => k x.1 (leNat d)
  let flush (q : Pkg) : Pkg := let x := q.cleanLine e g a; match x.2 with | .error f => fail x.1 f | .ok _ => x.1.uncache a
  match acc.op with
  | .load => read (fun q v => q.loadInto g acc v)
  | .loadu => read (fun q v => q.loadInto g acc v)
  | .fload => read (fun q v => q.loadInto g acc v)
  | .fetch =>
    let x := if x0.pbmt = 0 then p.readCached e g a acc.size true else p.readBehind e g a acc.size
    match x.2 with | .error f => fail x.1 f | .ok _ => x.1
  | .store => write p bs (fun q => q)
  | .fstore => write p bs (fun q => q)
  | .lr => read (fun q v => (q.loadInto g acc v).reserveOf g (some line))
  | .sc =>
    if (p.core g).reserve = some line then write p bs (fun q => (q.coreResult g acc.rd.val 8 false 0).reserveOf g none)
    else (p.coreResult g acc.rd.val 8 false 1).reserveOf g none
  | .cboClean => let x := p.cleanLine e g a; match x.2 with | .error f => fail x.1 f | .ok _ => x.1
  | .cboFlush => flush p
  | .cboInval =>
    -- Table 09-2: below M-mode CBIE turns an invalidation into a flush
    if (p.core g).mode < 3 && (bitsOf ((p.core g).csrNat csrMenvcfg) 5 4 == 1 ||
      ((p.core g).mode == 0 && bitsOf ((p.core g).csrNat csrSenvcfg) 5 4 == 1)) then flush p else p.uncache a
  | .cboZero =>
    if x0.pbmt = 0 then (p.holdLine e g false true ⟨line, List.replicate 256 0, true, []⟩).breakReserves g line
    else let y := p.writeBehind e g line (List.replicate 256 0); match y.2 with | .error f => fail y.1 f | .ok _ => y.1
  | .evict => p.evictLine e g a
  | .insn _ => p
  | .interrupt => p
  | _ => read (fun q v => write q (leBytes acc.size (amoResult acc.op (8 * acc.size) v (acc.data % 2 ^ (8 * acc.size))))
      (fun u => u.loadInto g acc v))

/-- An access to a register (R334): LR, SC, instruction fetches and block operations other than reads of nothing take an access fault. -/
def Pkg.hostRegister (p : Pkg) (e : Env) (g : Fin 144) (pa off : Nat) (acc : HostAccess) : Pkg :=
  if acc.op = .lr ∨ acc.op = .sc ∨ acc.op = .cboZero ∨ acc.op = .fetch ∨ (!opFree acc.op && !hostMmioOk off acc.size) then
    p.hostFault e g.val .access (accKind acc.op) (accPlace acc pa)
  else if opLoads acc.op then p.loadInto g.val acc (p.mmioRead e off acc.size)
  else if opPuts acc.op then p.mmioWrite e (.core g) off acc.size (acc.data % 2 ^ (8 * acc.size))
  else if opAmo acc.op then
    let old := p.mmioRead e off acc.size
    (p.mmioWrite e (.core g) off acc.size (amoResult acc.op (8 * acc.size) old (acc.data % 2 ^ (8 * acc.size)))).loadInto g.val acc old
  else p

/-- An access to a PCI Express or CXL window: the device beyond it answers a read. -/
def Pkg.hostWindow (p : Pkg) (e : Env) (g pa : Nat) (acc : HostAccess) : Pkg :=
  if acc.op = .lr ∨ acc.op = .sc ∨ acc.op = .cboZero ∨ acc.op = .fetch ∨ (!opFree acc.op && pa % acc.size != 0) then
    p.hostFault e g .access (accKind acc.op) (accPlace acc pa)
  else if opLoads acc.op || opAmo acc.op then p.loadInto g acc acc.device
  else p

/-- An access through a fabric aperture (R335, R336, R381, R393). -/
def Pkg.hostAperture (p : Pkg) (e : Env) (g pa n off : Nat) (acc : HostAccess) : Pkg :=
  let k := Reg.FAB_HAPT (g / 36) n
  let part := p.partOfGroup (coreGroup g)
  let fail : Pkg := p.hostFault e g .access (accKind acc.op) (accPlace acc pa)
  match part with
  | none => fail
  | some c =>
    if !p.on k Fld.FAB_HAPT_VALID || p.fld k Fld.FAB_HAPT_OWNER != c || (p.ctxEngines c).isEmpty then fail
    else if acc.op = .lr ∨ acc.op = .sc ∨ acc.op = .cboZero ∨ acc.op = .fetch then fail
    else if opFree acc.op then p
    else if off % acc.size != 0 then fail
    else
      let loc := p.fld k Fld.FAB_HAPT_LOC
      let w := 8 * acc.size
      let kind := if opLoads acc.op then tyRead else if opPuts acc.op then tyWrite else tyAtomic
      let x : Piece := ⟨kind, loc, off, acc.size, if kind = tyAtomic then amoFabric acc.op w else 0,
        if kind = tyRead then none else some 0, none, none, 0, 0⟩
      (p.issue e (p.engineFor c loc) 0 (.core g (accDest acc) acc.size (acc.op != .loadu) ((accKind acc.op) == .store) (accPlace acc pa)) x
        (fun q _ _ => (q, ⟨0, leBytes acc.size acc.data, 0, 0⟩))).settle e

/-- The size of an access is one that its operation has (Table 09-2). -/
def accSized (a : HostAccess) : Bool :=
  opFree a.op || a.size == 4 || (a.size == 8 && a.op != .fetch) || (a.size == 1 && (a.op == .load || a.op == .loadu || a.op == .store)) ||
  (a.size == 2 && (a.op == .load || a.op == .loadu || a.op == .store || a.op == .fetch))

/-- An instruction of the base is legal in the core's state: float accesses need FS, block operations below M-mode the enables of `menvcfg` and
`senvcfg` (Table 09-2). -/
def Core.opLegal (c : Core) (o : HostOp) : Bool :=
  let on (hi lo : Nat) : Bool :=
    c.mode == 3 || (bitsOf (c.csrNat csrMenvcfg) hi lo != 0 && (c.mode != 0 || bitsOf (c.csrNat csrSenvcfg) hi lo != 0))
  match o with
  | .fload => c.floatOn
  | .fstore => c.floatOn
  | .cboClean => on 6 6
  | .cboFlush => on 6 6
  | .cboInval => on 5 4
  | .cboZero => on 7 7
  | _ => true

/-- An access that translation and protection admit. -/
def Pkg.hostAt (p : Pkg) (e : Env) (g : Fin 144) (acc : HostAccess) (xs : List Span) : Pkg :=
  let x0 : Span := xs.headD ⟨acc.va, 0, acc.size, 0⟩
  let pa := if opFree acc.op then x0.pa + acc.va % 256 else x0.pa
  let h := p.hostError e g.val (accPlace acc pa) acc.error
  if !h.2 then h.1
  else
    let q := h.1
    let odd : Bool := !opFree acc.op && acc.va % acc.size != 0
    match q.hostPlace pa with
    | .bad => if acc.op == .evict then q else q.hostFault e g.val .access (accKind acc.op) (accPlace acc pa)
    | .mmio off => q.hostRegister e g pa off acc
    | .window => q.hostWindow e g.val pa acc
    | .aperture n off => q.hostAperture e g.val pa n off acc
    | .memory =>
      if odd && (opAmo acc.op || acc.op == .sc) then q.trapCore g.val causeStoreMisaligned acc.va (some acc.pc)
      else if odd && acc.op == .lr then q.trapCore g.val causeLoadMisaligned acc.va (some acc.pc)
      else
        match xs.find? (fun x => q.hostPlace x.pa != .memory || (odd && acc.op != .fetch && x.pbmt == 2)) with
        | some x => q.hostFault e g.val .access (accKind acc.op) ⟨some acc.pc, x.va, x.pa⟩
        | none => q.hostMemory e g.val acc xs

/-- A host core's access (R332 to R336): a trigger may take it, then it is translated and protected. A size that the operation has not is no instruction
of the base and changes nothing; a core whose fence waits makes no access. An eviction is the caches' own, of a physical line. -/
def Pkg.hostAccess (p : Pkg) (e : Env) (g : Fin 144) (acc : HostAccess) : Pkg :=
  if !accSized acc || (!opFree acc.op && (p.core g.val).fencing) then p
  else if acc.op = .evict then p.hostAt e g acc [⟨acc.va, acc.va / 256 * 256, 256, 0⟩]
  else if !(p.core g.val).opLegal acc.op then p.illegal g.val acc.pc
  else if (p.core g.val).trigFires (accKind acc.op) acc.va then p.trapCore g.val causeBreakpoint acc.va (some acc.pc)
  else
    let x := p.spans e g.val (accSpan acc).1 (accSpan acc).2 (accKind acc.op)
    match x.2 with
    | .error s => x.1.hostFault e g.val s.how (accKind acc.op) ⟨some acc.pc, if opFree acc.op then acc.va else s.va, s.pa⟩
    | .ok xs => x.1.hostAt e g acc xs

/-! ### Fences (R393) -/

/-- A fence whose predecessor set includes I or O stays with its core until every earlier aperture store and atomic of the core is answered. -/
def fence (g : Nat) (predIO : Bool) (_ : Env) (p : Pkg) : Pkg :=
  let waits : Bool := predIO && !(p.unanswered g).isEmpty
  p.setCore g { p.core g with fencing := waits }

/-- FENCE (R393). -/
def execFence (core : Fin 144) (predIO : Bool) (s : State) : Host.Outcome State Fault Refusal := s.work .none (fence core.val predIO)

end Sys2Proof.Machine
end

