-- ==== Sys2Proof/Machine/Qvx.lean ====
section
/-! DEFINITION. The QVX vector extension (spec 09_host_cores_and_qvx.md, R339 to R354, Tables 09-4 to 09-9). -/

namespace Sys2Proof.Machine

/-! ### Elements and predicates (R340, R341) -/

/-- The `w`-bit elements of a vector register, element 0 first. -/
def elems (w : Nat) (v : VecWord) : List Nat := (List.range (1024 / w)).map (fun i => (v.toNat >>> (w * i)) % 2 ^ w)

/-- The vector register that holds `w`-bit elements. -/
def packElems (w : Nat) (xs : List Nat) : VecWord := BitVec.ofNat 1024 (xs.foldr (fun x acc => x % 2 ^ w + 2 ^ w * acc) 0)

/-- Element `i` of `w` bits is active under a predicate. -/
def active (g : PredWord) (w i : Nat) : Bool := g.getLsbD (i * (w / 8))

/-- The predicate that gives each element's result on all its lanes. -/
def predOf (w : Nat) (bs : List Bool) : PredWord :=
  BitVec.ofNat 128 (bs.foldr (fun b acc => (if b then 2 ^ (w / 8) - 1 else 0) + 2 ^ (w / 8) * acc) 0)

/-- What one element's operation gives: its code, its flags of Table 02-9, whether it clamped. -/
structure ElemOut where
  code : Nat
  flags : Nat
  sat : Bool
  deriving DecidableEq, Repr

/-- A result without flags. -/
def ElemOut.plain (code : Nat) : ElemOut := ⟨code, 0, false⟩

/-- The base's `fflags` bits of a flag set: NX 0, UF 1, OF 2, NV 4. -/
def rvFlags (f : Nat) : Nat :=
  (if f &&& flagNX ≠ 0 then 1 else 0) + (if f &&& flagUF ≠ 0 then 2 else 0) + (if f &&& flagOF ≠ 0 then 4 else 0) +
  (if f &&& flagNV ≠ 0 then 16 else 0)

/-- Flags accrue into `fflags`, and clamping sets SAT (R342). -/
def Core.accrue (c : Core) (os : List ElemOut) : Core :=
  { c with fflags := c.fflags ||| rvFlags (os.foldl (fun a o => a ||| o.flags) 0), sat := c.sat || os.any (fun o => o.sat) }

/-- Write the elements of vd under PG and Z; inactive elements raise nothing (R341). -/
def Core.putElems (c : Core) (f : QvxFields) (w : Nat) (out : List ElemOut) : Core :=
  let g := c.pReg f.pg.val
  let res := ((elems w (c.vReg f.vd.val)).zip out).zipIdx.map (fun x => if active g w x.2 then x.1.2.code else if f.z then 0 else x.1.1)
  (c.setV f.vd.val (packElems w res)).accrue ((out.zipIdx.filter (fun x => active g w x.2)).map (fun x => x.1))

/-- Write a predicate of element results under PG and Z (R340, R341, R345). -/
def Core.putPred (c : Core) (f : QvxFields) (w : Nat) (out : List ElemOut) : Core :=
  let g := c.pReg f.pg.val
  let old := c.pReg f.vd.val
  let m := predOf w ((List.range (1024 / w)).map (fun i => active g w i))
  let res := predOf w (out.map (fun o => o.code == 1))
  (c.setP f.vd.val ((res &&& m) ||| (if f.z then 0 else old &&& ~~~m))).accrue ((out.zipIdx.filter (fun x => active g w x.2)).map (fun x => x.1))

/-- A QVX instruction runs, or raises an illegal-instruction exception when XS is Off or its code or fields break R344 (R339); a parity error of a register
file or a pipeline takes cause 24, not restartable (R359). -/
def Pkg.qvxRun (p : Pkg) (e : Env) (g : Nat) (f : QvxFields) (legal : Bool) (body : Pkg) : Pkg :=
  if (p.core g).xs = 0 || !legal || f.res then p.illegal g f.pc
  else
    match f.error with
    | some x => if x.kind = 4 then (p.hostError e g ⟨some f.pc, 0, 0⟩ (some (4, x.unit))).1 else body
    | none => body

/-- A QVX instruction that works on the core's registers alone. -/
def Pkg.qvx (p : Pkg) (e : Env) (g : Nat) (f : QvxFields) (legal : Bool) (body : Core → Core) : Pkg :=
  p.qvxRun e g f legal (p.setCore g (body (p.core g)))

/-! ### Integer operations (R346) -/

/-- Bits of an integer element. -/
def intBits (e : Nat) : Nat := 8 * 2 ^ e

/-- An element-wise operation of vs1 and vs2 into vd. -/
def Core.intOp (c : Core) (f : QvxFields) (op : Nat → Nat → Nat → ElemOut) : Core :=
  let w := intBits f.e.val
  c.putElems f w (((elems w (c.vReg f.vs1.val)).zip (elems w (c.vReg f.vs2.val))).map (fun ab => op w ab.1 ab.2))

/-- An element-wise comparison of vs1 and vs2 into a predicate. -/
def Core.intCmp (c : Core) (f : QvxFields) (op : Nat → Nat → Nat → Bool) : Core :=
  let w := intBits f.e.val
  c.putPred f w (((elems w (c.vReg f.vs1.val)).zip (elems w (c.vReg f.vs2.val))).map (fun ab => .plain (if op w ab.1 ab.2 then 1 else 0)))

/-- Clamp an exact result to the range of `w` bits (R346). -/
def clampInt (w : Nat) (z : Int) : ElemOut :=
  let lo : Int := -(2 ^ (w - 1) : Nat)
  let hi : Int := (2 ^ (w - 1) : Nat) - 1
  if z < lo then ⟨ofSigned w lo, 0, true⟩ else if hi < z then ⟨ofSigned w hi, 0, true⟩ else .plain (ofSigned w z)

/-- Operations of Table 09-6 on elements of `w` bits. -/
def qAdd (w a b : Nat) : ElemOut := .plain ((a + b) % 2 ^ w)
def qSub (w a b : Nat) : ElemOut := .plain ((a + 2 ^ w - b) % 2 ^ w)
def qMul (w a b : Nat) : ElemOut := .plain (a * b % 2 ^ w)
def qAdds (w a b : Nat) : ElemOut := clampInt w (toSigned w a + toSigned w b)
def qSubs (w a b : Nat) : ElemOut := clampInt w (toSigned w a - toSigned w b)
def qMin (w a b : Nat) : ElemOut := .plain (if toSigned w b < toSigned w a then b else a)
def qMax (w a b : Nat) : ElemOut := .plain (if toSigned w a < toSigned w b then b else a)
def qEq (_w a b : Nat) : Bool := a == b
def qLt (w a b : Nat) : Bool := toSigned w a < toSigned w b
def qAnd (_w a b : Nat) : ElemOut := .plain (a &&& b)
def qOr (_w a b : Nat) : ElemOut := .plain (a ||| b)
def qXor (_w a b : Nat) : ElemOut := .plain (a ^^^ b)
def qAndn (w a b : Nat) : ElemOut := .plain (a &&& (2 ^ w - 1 - b))
def qSll (w a b : Nat) : ElemOut := .plain (a <<< (b % w) % 2 ^ w)
def qSrl (w a b : Nat) : ElemOut := .plain (a >>> (b % w))
def qSra (w a b : Nat) : ElemOut := .plain (ofSigned w (toSigned w a / (2 ^ (b % w) : Nat)))

/-! ### Float operations (R347, R348) -/

/-- The format of a float E code (Table 09-7). -/
def qFmt (e : Nat) : Fmt := match e with | 0 => .bf16 | 1 => .f16 | 2 => .f32 | _ => .f64

/-- The mode of `frm`; the base reserves 5 to 7. -/
def frmMode (n : Nat) : Option RMode :=
  match n with
  | 0 => some .nearestEven | 1 => some .towardZero | 2 => some .down | 3 => some .up | 4 => some .nearestMax | _ => none

/-- The rounding mode of a core. -/
def Core.roundMode (c : Core) : RMode := (frmMode c.frm).getD .nearestEven

/-- Round an exact value into a float format; float targets have no SAT bit (R348). -/
def toFloat (m : RMode) (f : Fmt) (x : Num) (fl : Nat) : ElemOut :=
  let c := convFloat f m false 0 x
  ⟨c.code, (fl ||| c.flags) % 16, false⟩

/-- The result of float arithmetic: BF16 is computed as F32 and then rounded once into BF16 (R347). -/
def roundArith (m : RMode) (f : Fmt) (x : Num) (fl : Nat) : ElemOut :=
  if f = .bf16 then
    let a := toFloat m .f32 x fl
    toFloat m .bf16 (decodeNum .f32 a.code) a.flags
  else toFloat m f x fl

/-- Operations of Table 09-7 on element codes: a of vs1, b of vs2, d of vd. -/
def qFadd (m : RMode) (f : Fmt) (a b _d : Nat) : ElemOut := let s := Num.add m (decodeNum f a) (decodeNum f b); roundArith m f s.1 s.2
def qFsub (m : RMode) (f : Fmt) (a b _d : Nat) : ElemOut :=
  let s := Num.add m (decodeNum f a) (decodeNum f b).negate; roundArith m f s.1 s.2
def qFmul (m : RMode) (f : Fmt) (a b _d : Nat) : ElemOut := let s := (decodeNum f a).mul (decodeNum f b); roundArith m f s.1 s.2
def qFma (m : RMode) (f : Fmt) (a b d : Nat) : ElemOut :=
  let s := Num.fma m (decodeNum f a) (decodeNum f b) (decodeNum f d); roundArith m f s.1 s.2
def qFnma (m : RMode) (f : Fmt) (a b d : Nat) : ElemOut :=
  let s := Num.fma m (decodeNum f a).negate (decodeNum f b) (decodeNum f d); roundArith m f s.1 s.2
def qFmax (_m : RMode) (f : Fmt) (a b _d : Nat) : ElemOut := let x := floatMaxMin f true a b; ⟨x.1, x.2, false⟩
def qFmin (_m : RMode) (f : Fmt) (a b _d : Nat) : ElemOut := let x := floatMaxMin f false a b; ⟨x.1, x.2, false⟩

/-- An element-wise float operation of vs1, vs2 and the old vd. -/
def Core.floatOp (c : Core) (f : QvxFields) (op : RMode → Fmt → Nat → Nat → Nat → ElemOut) : Core :=
  let t := qFmt f.e.val
  c.putElems f t.bits (((elems t.bits (c.vReg f.vs1.val)).zip ((elems t.bits (c.vReg f.vs2.val)).zip (elems t.bits (c.vReg f.vd.val)))).map
    (fun abd => op c.roundMode t abd.1 abd.2.1 abd.2.2))

/-- An element-wise float comparison; NV only for a signalling NaN (Table 09-7). -/
def Core.floatCmp (c : Core) (f : QvxFields) (op : Num → Num → Bool) : Core :=
  let t := qFmt f.e.val
  c.putPred f t.bits (((elems t.bits (c.vReg f.vs1.val)).zip (elems t.bits (c.vReg f.vs2.val))).map (fun ab =>
    let x := decodeNum t ab.1
    let y := decodeNum t ab.2
    ⟨if op x y then 1 else 0, if x.isSnan || y.isSnan then flagNV else 0, false⟩))

/-- Comparisons; an unordered pair gives 0. -/
def qFlt (x y : Num) : Bool := x.lt? y == some true
def qFle (x y : Num) : Bool := x.lt? y == some true || x.eqVal y
def qFeq (x y : Num) : Bool := x.eqVal y
def qFun (x y : Num) : Bool := x.isNan || y.isNan

/-- The integer format as wide as an E code. -/
def qInt (e : Nat) : Fmt := match e with | 1 => .int16 | 2 => .int32 | _ => .int64

/-- A conversion of vs1 element by element within one width. -/
def Core.convOp (c : Core) (f : QvxFields) (op : RMode → Nat → ElemOut) : Core :=
  let w := intBits f.e.val
  c.putElems f w ((elems w (c.vReg f.vs1.val)).map (op c.roundMode))

/-- FCVT.IF: a signed integer to the float of its width. -/
def qFcvtIf (e : Nat) (m : RMode) (a : Nat) : ElemOut := toFloat m (qFmt e) (decodeNum (qInt e) a) 0

/-- FCVT.FI: a float to the signed integer of its width; a clamp sets SAT (R342, R348). -/
def qFcvtFi (e : Nat) (m : RMode) (a : Nat) : ElemOut :=
  let c := convert (qInt e) m true 0 (decodeNum (qFmt e) a)
  ⟨c.code, c.flags % 16, c.flags &&& flagSA != 0⟩

/-- The format that a narrowing or widening pairs with E (Table 09-7). -/
def wideOf (e : Nat) : Fmt := if e = 2 then .f64 else .f32
def narrowOf (e : Nat) (bf : Bool) : Fmt := if e = 3 then .f32 else if bf then .bf16 else .f16

/-- The elements of half `h` of a list of elements. -/
def halfOf (xs : List Nat) (h : Nat) : List Nat := (xs.drop (h * (xs.length / 2))).take (xs.length / 2)

/-- Widen half h of vs1 exactly; an element is governed at its place in the source (R340). -/
def Core.widen (c : Core) (f : QvxFields) : Core :=
  let s := qFmt f.e.val
  let t := wideOf f.e.val
  let h := f.vs2.val % 2
  let g := c.pReg f.pg.val
  let n := 1024 / t.bits
  let out := (halfOf (elems s.bits (c.vReg f.vs1.val)) h).map (fun a => toFloat .nearestEven t (decodeNum s a) 0)
  let on (i : Nat) : Bool := active g s.bits (h * n + i)
  let res := ((elems t.bits (c.vReg f.vd.val)).zip out).zipIdx.map (fun x => if on x.2 then x.1.2.code else if f.z then 0 else x.1.1)
  (c.setV f.vd.val (packElems t.bits res)).accrue ((out.zipIdx.filter (fun x => on x.2)).map (fun x => x.1))

/-- Narrow vs1 into half h of vd; the other half stays. -/
def Core.narrow (c : Core) (f : QvxFields) : Core :=
  let s := qFmt f.e.val
  let t := narrowOf f.e.val (f.vs2.val.testBit 1)
  let h := f.vs2.val % 2
  let g := c.pReg f.pg.val
  let out := (elems s.bits (c.vReg f.vs1.val)).map (fun a => toFloat c.roundMode t (decodeNum s a) 0)
  let old := elems t.bits (c.vReg f.vd.val)
  let n := out.length
  let mine := (halfOf old h).zip out |>.zipIdx.map (fun x => if active g s.bits x.2 then x.1.2.code else if f.z then 0 else x.1.1)
  let res := old.take (h * n) ++ mine ++ old.drop ((h + 1) * n)
  (c.setV f.vd.val (packElems t.bits res)).accrue ((out.zipIdx.filter (fun x => active g s.bits x.2)).map (fun x => x.1))

/-! ### Moves, predicates, reductions -/

/-- One value in every element. -/
def Core.broadcast (c : Core) (f : QvxFields) (w : Nat) (o : ElemOut) : Core := c.putElems f w (List.replicate (1024 / w) o)

/-- A vector whose element 0 is a value and whose other elements are zero. -/
def firstElem (w v : Nat) : VecWord := packElems w (v :: List.replicate (1024 / w - 1) 0)

/-- REDSUM.I: the wrapping sum of the active elements. -/
def Core.redsumI (c : Core) (f : QvxFields) : Core :=
  let w := intBits f.e.val
  let g := c.pReg f.pg.val
  let s := (elems w (c.vReg f.vs1.val)).zipIdx.foldl (fun a x => if active g w x.2 then (a + x.1) % 2 ^ w else a) 0
  c.setV f.vd.val (firstElem w s)

/-- One level of the tree of R351: neighbours are added. -/
def treeLevel (m : RMode) (f : Fmt) : List ElemOut → List ElemOut
  | a :: b :: rest => (let s := qFadd m f a.code b.code 0; ⟨s.code, a.flags ||| b.flags ||| s.flags, false⟩) :: treeLevel m f rest
  | xs => xs

/-- REDSUM.F: the fixed binary tree; an inactive element contributes +0 (R351). -/
def Core.redsumF (c : Core) (f : QvxFields) : Core :=
  let t := qFmt f.e.val
  let g := c.pReg f.pg.val
  let xs := (elems t.bits (c.vReg f.vs1.val)).zipIdx.map (fun x => ElemOut.plain (if active g t.bits x.2 then x.1 else 0))
  let o := (countFold 6 (fun _ ys => treeLevel c.roundMode t ys) xs).headD (.plain 0)
  (c.setV f.vd.val (firstElem t.bits o.code)).accrue [o]

/-- MV.X: an element, sign-extended; an index past the elements gives 0. -/
def Core.moveX (c : Core) (f : QvxFields) : Core :=
  let w := intBits f.e.val
  let i := (c.xReg f.vs2.val).toNat
  c.setX f.vd.val (if i < 1024 / w then BitVec.ofInt 64 (toSigned w ((elems w (c.vReg f.vs1.val)).getD i 0)) else 0)

/-- PWHILE: element i is 1 when x[rs1] + i < x[rs2], unsigned. -/
def Core.pwhile (c : Core) (f : QvxFields) : Core :=
  let w := intBits f.e.val
  c.setP f.vd.val (predOf w ((List.range (1024 / w)).map (fun i => decide ((c.xReg f.vs1.val).toNat + i < (c.xReg f.vs2.val).toNat))))

/-- PLOG: AND, OR, XOR or ANDN of two whole predicates. -/
def Core.plog (c : Core) (f : QvxFields) : Core :=
  let a := c.pReg f.vs1.val
  let b := c.pReg (f.vs2.val % 8)
  c.setP f.vd.val (match f.vs2.val / 8 with | 0 => a &&& b | 1 => a ||| b | 2 => a ^^^ b | _ => a &&& ~~~b)

/-- PCNT: the elements whose bit is 1. -/
def Core.pcnt (c : Core) (f : QvxFields) : Core :=
  let w := intBits f.e.val
  c.setX f.vd.val (BitVec.ofNat 64 ((List.range (1024 / w)).filter (fun i => active (c.pReg f.vs1.val) w i)).length)

/-! ### Widening and dot products (R349, R350) -/

/-- A product of two codes of `w` bits by signedness, as an integer. -/
def mulBits (w : Nat) (sa sb : Bool) (a b : Nat) : Int :=
  (if sa then toSigned w a else (a : Int)) * (if sb then toSigned w b else (b : Int))

/-- WMUL, or WMACC with `acc`: half H of each source, at twice the width. -/
def Core.wmul (c : Core) (f : QvxFields) (h u acc : Bool) : Core :=
  let w := intBits f.e.val
  let hn := if h then 1 else 0
  let xs := (halfOf (elems w (c.vReg f.vs1.val)) hn).zip (halfOf (elems w (c.vReg f.vs2.val)) hn)
  c.putElems f (2 * w) (((elems (2 * w) (c.vReg f.vd.val)).zip xs).map (fun x =>
    .plain (ofSigned (2 * w) ((if acc then (x.1 : Int) else 0) + mulBits w (!u) (!u) x.2.1 x.2.2))))

/-- Sums of `n` products at a time, added into the elements of vd. -/
def Core.dotInto (c : Core) (f : QvxFields) (w n : Nat) (ss : Nat) (xs : List (Nat × Nat)) : Core :=
  let prods := xs.map (fun ab => mulBits w (ss != 1) (ss == 0) ab.1 ab.2)
  let wide := if n = 4 then 32 else 64
  c.putElems f wide ((elems wide (c.vReg f.vd.val)).zipIdx.map (fun x =>
    .plain (ofSigned wide ((x.1 : Int) + ((prods.drop (n * x.2)).take n).foldl (fun (a : Int) y => a + y) 0))))

/-- DOT4 on bytes, or DOT2 on 16-bit elements of a half. -/
def Core.dot (c : Core) (f : QvxFields) (ss half : Nat) : Core :=
  if f.e.val = 0 then c.dotInto f 8 4 ss ((elems 8 (c.vReg f.vs1.val)).zip (elems 8 (c.vReg f.vs2.val)))
  else c.dotInto f 16 2 ss ((halfOf (elems 16 (c.vReg f.vs1.val)) half).zip (halfOf (elems 16 (c.vReg f.vs2.val)) half))

/-! ### Memory (R353, R354) -/

/-- The address of a vector access. -/
def Core.vecAddr (c : Core) (f : QvxFields) : Nat := (c.xReg f.vs1.val + c.xReg f.vs2.val).toNat

/-- How a vector access ends early: a fault at an element's piece, or an exception that the core has taken. -/
inductive VecStop where
  | fault (elem : Nat) (s : SpanStop)
  | taken
  deriving DecidableEq, Repr

/-- The pieces of a vector access's part, which only cacheable and NC memory admits (R353), with the host error that it meets. -/
def Pkg.vecSpans (p : Pkg) (e : Env) (g : Nat) (f : QvxFields) (i a n : Nat) (k : AccKind) : Pkg × Except VecStop (List Span) :=
  let x := p.spans e g a n k
  match x.2 with
  | .error s => (x.1, .error (.fault i s))
  | .ok xs =>
    match xs.find? (fun y => x.1.hostPlace y.pa != .memory || x.1.hostPlace (y.pa + y.len - 1) != .memory || y.pbmt == 2) with
    | some y => (x.1, .error (.fault i ⟨.access, y.va, y.pa⟩))
    | none =>
      match f.error with
      | some r =>
        if r.elem = i ∧ r.kind ≠ 4 ∧ r.kind ≠ 8 then
          let h := x.1.hostError e g ⟨some f.pc, a, (xs.headD ⟨a, 0, n, 0⟩).pa⟩ (some (r.kind, r.unit))
          (h.1, if h.2 then .ok xs else .error .taken)
        else (x.1, .ok xs)
      | none => (x.1, .ok xs)

/-- Load a part of a vector access. -/
def Pkg.vecRead (p : Pkg) (e : Env) (g : Nat) (f : QvxFields) (i a n : Nat) : Pkg × Except VecStop Nat :=
  let x := p.vecSpans e g f i a n .load
  match x.2 with
  | .error s => (x.1, .error s)
  | .ok xs =>
    let y := x.1.readSpans e g xs
    (y.1, match y.2 with | .error s => .error (.fault i s) | .ok bs => .ok (leNat bs))

/-- Store a part of a vector access. -/
def Pkg.vecWrite (p : Pkg) (e : Env) (g : Nat) (f : QvxFields) (i a : Nat) (bs : List Byte) : Pkg × Except VecStop Unit :=
  let x := p.vecSpans e g f i a bs.length .store
  match x.2 with
  | .error s => (x.1, .error s)
  | .ok xs =>
    let y := x.1.writeSpans e g xs bs
    (y.1, match y.2 with | .error s => .error (.fault i s) | .ok _ => .ok ())

/-- Load the active elements from an address in ascending order, up to the first that stops: elements loaded, and the stop (R353). -/
def Pkg.loadElems (p : Pkg) (e : Env) (g : Nat) (f : QvxFields) (pg : PredWord) (w a : Nat) : Pkg × List (Nat × Nat) × Option VecStop :=
  (List.range (1024 / w)).foldl (fun (st : Pkg × List (Nat × Nat) × Option VecStop) i =>
    if st.2.2.isSome || !active pg w i then st
    else
      let r := st.1.vecRead e g f i ((a + i * (w / 8)) % 2 ^ 64) (w / 8)
      match r.2 with
      | .error k => (r.1, st.2.1, some k)
      | .ok v => (r.1, st.2.1 ++ [(i, v)], none)) (p, [], none)

/-- Store the active elements in ascending order, up to the first that stops. -/
def Pkg.storeElems (p : Pkg) (e : Env) (g : Nat) (f : QvxFields) (pg : PredWord) (w a : Nat) (xs : List Nat) : Pkg × Option VecStop :=
  xs.zipIdx.foldl (fun (st : Pkg × Option VecStop) vi =>
    if st.2.isSome || !active pg w vi.2 then st
    else
      let r := st.1.vecWrite e g f vi.2 ((a + vi.2 * (w / 8)) % 2 ^ 64) (leBytes (w / 8) vi.1)
      (r.1, match r.2 with | .error k => some k | .ok _ => none)) (p, none)

/-- Take the exception of a vector access that stops. -/
def Pkg.vecFault (p : Pkg) (e : Env) (g : Nat) (f : QvxFields) (k : AccKind) (s : VecStop) : Pkg :=
  match s with
  | .fault _ x => p.hostFault e g x.how k ⟨some f.pc, x.va, x.pa⟩
  | .taken => p

/-- A memory instruction of QVX: illegal, or held by a fence that waits, or run. -/
def Pkg.qvxMem (p : Pkg) (e : Env) (g : Nat) (f : QvxFields) (legal : Bool) (body : Pkg) : Pkg :=
  p.qvxRun e g f legal (if (p.core g).fencing then p else body)

/-- Elements of vd as a load gives them: those loaded, and the old ones or zero for the rest. -/
def Core.putLoaded (c : Core) (f : QvxFields) (w : Nat) (got : List (Nat × Nat)) : Core :=
  c.setV f.vd.val (packElems w ((elems w (c.vReg f.vd.val)).zipIdx.map (fun x =>
    match assoc? got x.2 with | some v => v | none => if f.z then 0 else x.1)))

/-- Change a core as it stands. -/
def Pkg.updCore (p : Pkg) (g : Nat) (h : Core → Core) : Pkg := p.setCore g (h (p.core g))

/-- LD (R353). -/
def qvxLoad (g : Nat) (f : QvxFields) (e : Env) (p : Pkg) : Pkg :=
  p.qvxMem e g f true (
    let c := p.core g
    let w := intBits f.e.val
    let x := p.loadElems e g f (c.pReg f.pg.val) w (c.vecAddr f)
    match x.2.2 with
    | some s => x.1.vecFault e g f .load s
    | none => x.1.updCore g (fun d => d.putLoaded f w x.2.1))

/-- LDFF: a page or access fault of a later element than the first active one ends the load without a trap (R354). -/
def qvxLoadFirst (g : Nat) (f : QvxFields) (e : Env) (p : Pkg) : Pkg :=
  p.qvxMem e g f (f.vs2.val < 8) (
    let c := p.core g
    let w := intBits f.e.val
    let pg := c.pReg f.pg.val
    let x := p.loadElems e g f pg w (c.xReg f.vs1.val).toNat
    let pd := f.vs2.val % 8
    match x.2.2 with
    | some (.fault i s) =>
      if s.how = .check || x.2.1.isEmpty then x.1.vecFault e g f .load (.fault i s)
      else x.1.updCore g (fun d => (d.putLoaded f w x.2.1).setP pd (pg &&& BitVec.ofNat 128 (2 ^ (i * (w / 8)) - 1)))
    | some .taken => x.1
    | none => x.1.updCore g (fun d => (d.putLoaded f w x.2.1).setP pd pg))

/-- ST: active elements are stored in ascending order up to the first fault (R353). -/
def qvxStore (g : Nat) (f : QvxFields) (e : Env) (p : Pkg) : Pkg :=
  p.qvxMem e g f (!f.z) (
    let c := p.core g
    let w := intBits f.e.val
    let x := p.storeElems e g f (c.pReg f.pg.val) w (c.vecAddr f) (elems w (c.vReg f.vd.val))
    match x.2 with
    | some s => x.1.vecFault e g f .store s
    | none => x.1)

/-- PLD: sixteen bytes into a predicate. -/
def qvxPload (g : Nat) (f : QvxFields) (e : Env) (p : Pkg) : Pkg :=
  p.qvxMem e g f (f.vd.val < 8 && f.e.val == 0 && f.pg.val == 0 && !f.z) (
    let x := p.vecRead e g f 0 ((p.core g).vecAddr f) 16
    match x.2 with
    | .error s => x.1.vecFault e g f .load s
    | .ok v => x.1.updCore g (fun d => d.setP f.vd.val (BitVec.ofNat 128 v)))

/-- PST: a predicate's sixteen bytes to memory. -/
def qvxPstore (g : Nat) (f : QvxFields) (e : Env) (p : Pkg) : Pkg :=
  p.qvxMem e g f (f.vd.val < 8 && f.e.val == 0 && f.pg.val == 0 && !f.z) (
    let c := p.core g
    let x := p.vecWrite e g f 0 (c.vecAddr f) (leBytes 16 (c.pReg f.vd.val).toNat)
    match x.2 with
    | .error s => x.1.vecFault e g f .store s
    | .ok _ => x.1)

/-! ### The commands -/

/-- A predicate destination (Table 09-5). -/
def predDest (f : QvxFields) : Bool := f.vd.val < 8

/-- The core's `frm` names a mode, which an instruction that rounds needs. -/
def Pkg.rounds (p : Pkg) (g : Nat) : Bool := (frmMode (p.core g).frm).isSome

/-- ADD (Table 09-6). -/
def execQvxAdd (core : Fin 144) (f : QvxFields) (s : State) : Host.Outcome State Fault Refusal :=
  s.work .none (fun e p => p.qvx e core.val f true (fun c => c.intOp f qAdd))

/-- SUB (Table 09-6). -/
def execQvxSub (core : Fin 144) (f : QvxFields) (s : State) : Host.Outcome State Fault Refusal :=
  s.work .none (fun e p => p.qvx e core.val f true (fun c => c.intOp f qSub))

/-- MUL (Table 09-6). -/
def execQvxMul (core : Fin 144) (f : QvxFields) (s : State) : Host.Outcome State Fault Refusal :=
  s.work .none (fun e p => p.qvx e core.val f true (fun c => c.intOp f qMul))

/-- ADDS (Table 09-6). -/
def execQvxAdds (core : Fin 144) (f : QvxFields) (s : State) : Host.Outcome State Fault Refusal :=
  s.work .none (fun e p => p.qvx e core.val f true (fun c => c.intOp f qAdds))

/-- SUBS (Table 09-6). -/
def execQvxSubs (core : Fin 144) (f : QvxFields) (s : State) : Host.Outcome State Fault Refusal :=
  s.work .none (fun e p => p.qvx e core.val f true (fun c => c.intOp f qSubs))

/-- MIN (Table 09-6). -/
def execQvxMin (core : Fin 144) (f : QvxFields) (s : State) : Host.Outcome State Fault Refusal :=
  s.work .none (fun e p => p.qvx e core.val f true (fun c => c.intOp f qMin))

/-- MAX (Table 09-6). -/
def execQvxMax (core : Fin 144) (f : QvxFields) (s : State) : Host.Outcome State Fault Refusal :=
  s.work .none (fun e p => p.qvx e core.val f true (fun c => c.intOp f qMax))

/-- AND (Table 09-6). -/
def execQvxAnd (core : Fin 144) (f : QvxFields) (s : State) : Host.Outcome State Fault Refusal :=
  s.work .none (fun e p => p.qvx e core.val f true (fun c => c.intOp f qAnd))

/-- OR (Table 09-6). -/
def execQvxOr (core : Fin 144) (f : QvxFields) (s : State) : Host.Outcome State Fault Refusal :=
  s.work .none (fun e p => p.qvx e core.val f true (fun c => c.intOp f qOr))

/-- XOR (Table 09-6). -/
def execQvxXor (core : Fin 144) (f : QvxFields) (s : State) : Host.Outcome State Fault Refusal :=
  s.work .none (fun e p => p.qvx e core.val f true (fun c => c.intOp f qXor))

/-- ANDN (Table 09-6). -/
def execQvxAndn (core : Fin 144) (f : QvxFields) (s : State) : Host.Outcome State Fault Refusal :=
  s.work .none (fun e p => p.qvx e core.val f true (fun c => c.intOp f qAndn))

/-- SLL (Table 09-6). -/
def execQvxSll (core : Fin 144) (f : QvxFields) (s : State) : Host.Outcome State Fault Refusal :=
  s.work .none (fun e p => p.qvx e core.val f true (fun c => c.intOp f qSll))

/-- SRL (Table 09-6). -/
def execQvxSrl (core : Fin 144) (f : QvxFields) (s : State) : Host.Outcome State Fault Refusal :=
  s.work .none (fun e p => p.qvx e core.val f true (fun c => c.intOp f qSrl))

/-- SRA (Table 09-6). -/
def execQvxSra (core : Fin 144) (f : QvxFields) (s : State) : Host.Outcome State Fault Refusal :=
  s.work .none (fun e p => p.qvx e core.val f true (fun c => c.intOp f qSra))

/-- CMPEQ (Table 09-6). -/
def execQvxCmpeq (core : Fin 144) (f : QvxFields) (s : State) : Host.Outcome State Fault Refusal :=
  s.work .none (fun e p => p.qvx e core.val f (predDest f) (fun c => c.intCmp f qEq))

/-- CMPLT (Table 09-6). -/
def execQvxCmplt (core : Fin 144) (f : QvxFields) (s : State) : Host.Outcome State Fault Refusal :=
  s.work .none (fun e p => p.qvx e core.val f (predDest f) (fun c => c.intCmp f qLt))

/-- FADD (Table 09-7). -/
def execQvxFadd (core : Fin 144) (f : QvxFields) (s : State) : Host.Outcome State Fault Refusal :=
  s.work .none (fun e p => p.qvx e core.val f (p.rounds core.val) (fun c => c.floatOp f qFadd))

/-- FSUB (Table 09-7). -/
def execQvxFsub (core : Fin 144) (f : QvxFields) (s : State) : Host.Outcome State Fault Refusal :=
  s.work .none (fun e p => p.qvx e core.val f (p.rounds core.val) (fun c => c.floatOp f qFsub))

/-- FMUL (Table 09-7). -/
def execQvxFmul (core : Fin 144) (f : QvxFields) (s : State) : Host.Outcome State Fault Refusal :=
  s.work .none (fun e p => p.qvx e core.val f (p.rounds core.val) (fun c => c.floatOp f qFmul))

/-- FMA (Table 09-7). -/
def execQvxFma (core : Fin 144) (f : QvxFields) (s : State) : Host.Outcome State Fault Refusal :=
  s.work .none (fun e p => p.qvx e core.val f (p.rounds core.val) (fun c => c.floatOp f qFma))

/-- FNMA (Table 09-7). -/
def execQvxFnma (core : Fin 144) (f : QvxFields) (s : State) : Host.Outcome State Fault Refusal :=
  s.work .none (fun e p => p.qvx e core.val f (p.rounds core.val) (fun c => c.floatOp f qFnma))

/-- FMAX (Table 09-7). -/
def execQvxFmax (core : Fin 144) (f : QvxFields) (s : State) : Host.Outcome State Fault Refusal :=
  s.work .none (fun e p => p.qvx e core.val f true (fun c => c.floatOp f qFmax))

/-- FMIN (Table 09-7). -/
def execQvxFmin (core : Fin 144) (f : QvxFields) (s : State) : Host.Outcome State Fault Refusal :=
  s.work .none (fun e p => p.qvx e core.val f true (fun c => c.floatOp f qFmin))

/-- FCMPLT (Table 09-7). -/
def execQvxFcmplt (core : Fin 144) (f : QvxFields) (s : State) : Host.Outcome State Fault Refusal :=
  s.work .none (fun e p => p.qvx e core.val f (predDest f) (fun c => c.floatCmp f qFlt))

/-- FCMPLE (Table 09-7). -/
def execQvxFcmple (core : Fin 144) (f : QvxFields) (s : State) : Host.Outcome State Fault Refusal :=
  s.work .none (fun e p => p.qvx e core.val f (predDest f) (fun c => c.floatCmp f qFle))

/-- FCMPEQ (Table 09-7). -/
def execQvxFcmpeq (core : Fin 144) (f : QvxFields) (s : State) : Host.Outcome State Fault Refusal :=
  s.work .none (fun e p => p.qvx e core.val f (predDest f) (fun c => c.floatCmp f qFeq))

/-- FCMPUN (Table 09-7). -/
def execQvxFcmpun (core : Fin 144) (f : QvxFields) (s : State) : Host.Outcome State Fault Refusal :=
  s.work .none (fun e p => p.qvx e core.val f (predDest f) (fun c => c.floatCmp f qFun))

/-- FCVT.IF (Table 09-7). -/
def execQvxFcvtIf (core : Fin 144) (f : QvxFields) (s : State) : Host.Outcome State Fault Refusal :=
  s.work .none (fun e p => p.qvx e core.val f (p.rounds core.val && f.e.val != 0 && f.vs2.val == 0) (fun c => c.convOp f (qFcvtIf f.e.val)))

/-- FCVT.FI (Table 09-7). -/
def execQvxFcvtFi (core : Fin 144) (f : QvxFields) (s : State) : Host.Outcome State Fault Refusal :=
  s.work .none (fun e p => p.qvx e core.val f (p.rounds core.val && f.e.val != 0 && f.vs2.val == 0) (fun c => c.convOp f (qFcvtFi f.e.val)))

/-- FWIDEN (Table 09-7). -/
def execQvxFwiden (core : Fin 144) (f : QvxFields) (s : State) : Host.Outcome State Fault Refusal :=
  s.work .none (fun e p => p.qvx e core.val f (f.e.val != 3 && f.vs2.val < 2) (fun c => c.widen f))

/-- FNARROW (Table 09-7). -/
def execQvxFnarrow (core : Fin 144) (f : QvxFields) (s : State) : Host.Outcome State Fault Refusal :=
  s.work .none (fun e p => p.qvx e core.val f (p.rounds core.val && f.e.val ≥ 2 && f.vs2.val < (if f.e.val = 3 then 2 else 4)) (fun c => c.narrow f))

/-- LD (Table 09-8). -/
def execQvxLd (core : Fin 144) (f : QvxFields) (s : State) : Host.Outcome State Fault Refusal :=
  s.work .none (qvxLoad core.val f)

/-- LDFF (Table 09-8). -/
def execQvxLdff (core : Fin 144) (f : QvxFields) (s : State) : Host.Outcome State Fault Refusal :=
  s.work .none (qvxLoadFirst core.val f)

/-- ST (Table 09-8). -/
def execQvxSt (core : Fin 144) (f : QvxFields) (s : State) : Host.Outcome State Fault Refusal :=
  s.work .none (qvxStore core.val f)

/-- PLD (Table 09-8). -/
def execQvxPld (core : Fin 144) (f : QvxFields) (s : State) : Host.Outcome State Fault Refusal :=
  s.work .none (qvxPload core.val f)

/-- PST (Table 09-8). -/
def execQvxPst (core : Fin 144) (f : QvxFields) (s : State) : Host.Outcome State Fault Refusal :=
  s.work .none (qvxPstore core.val f)

/-- BCAST.X (Table 09-8). -/
def execQvxBcastX (core : Fin 144) (f : QvxFields) (s : State) : Host.Outcome State Fault Refusal :=
  s.work .none (fun e p => p.qvx e core.val f (f.vs2.val == 0) (fun c =>
    c.broadcast f (intBits f.e.val) (.plain ((c.xReg f.vs1.val).toNat % 2 ^ intBits f.e.val))))

/-- BCAST.F (Table 09-8). -/
def execQvxBcastF (core : Fin 144) (f : QvxFields) (s : State) : Host.Outcome State Fault Refusal :=
  s.work .none (fun e p => p.qvx e core.val f (p.rounds core.val && f.vs2.val == 0) (fun c =>
    c.broadcast f (qFmt f.e.val).bits (toFloat c.roundMode (qFmt f.e.val) (decodeNum .f64 (c.fReg f.vs1.val).toNat) 0)))

/-- MV.X (Table 09-8). -/
def execQvxMvX (core : Fin 144) (f : QvxFields) (s : State) : Host.Outcome State Fault Refusal :=
  s.work .none (fun e p => p.qvx e core.val f (!f.z && f.pg.val == 0) (fun c => c.moveX f))

/-- PWHILE (Table 09-8). -/
def execQvxPwhile (core : Fin 144) (f : QvxFields) (s : State) : Host.Outcome State Fault Refusal :=
  s.work .none (fun e p => p.qvx e core.val f (predDest f && f.pg.val == 0) (fun c => c.pwhile f))

/-- PLOG (Table 09-8). -/
def execQvxPlog (core : Fin 144) (f : QvxFields) (s : State) : Host.Outcome State Fault Refusal :=
  s.work .none (fun e p => p.qvx e core.val f (predDest f && f.vs1.val < 8 && f.e.val == 0 && f.pg.val == 0) (fun c => c.plog f))

/-- PCNT (Table 09-8). -/
def execQvxPcnt (core : Fin 144) (f : QvxFields) (s : State) : Host.Outcome State Fault Refusal :=
  s.work .none (fun e p => p.qvx e core.val f (f.vs1.val < 8 && f.vs2.val == 0 && f.pg.val == 0) (fun c => c.pcnt f))

/-- RDSAT (Table 09-8). -/
def execQvxRdsat (core : Fin 144) (f : QvxFields) (s : State) : Host.Outcome State Fault Refusal :=
  s.work .none (fun e p => p.qvx e core.val f (f.e.val == 0 && !f.z && f.pg.val == 0 && f.vs2.val == 0 && f.vs1.val == 0) (fun c =>
    c.setX f.vd.val (if c.sat then 1 else 0)))

/-- WRSAT (Table 09-8). -/
def execQvxWrsat (core : Fin 144) (f : QvxFields) (s : State) : Host.Outcome State Fault Refusal :=
  s.work .none (fun e p => p.qvx e core.val f (f.e.val == 0 && !f.z && f.pg.val == 0 && f.vs2.val == 0 && f.vd.val == 0) (fun c =>
    { c with sat := (c.xReg f.vs1.val).getLsbD 0, xs := 3 }))

/-- REDSUM.I (Table 09-8). -/
def execQvxRedsumI (core : Fin 144) (f : QvxFields) (s : State) : Host.Outcome State Fault Refusal :=
  s.work .none (fun e p => p.qvx e core.val f (!f.z && f.vs2.val == 0) (fun c => c.redsumI f))

/-- REDSUM.F (Table 09-8). -/
def execQvxRedsumF (core : Fin 144) (f : QvxFields) (s : State) : Host.Outcome State Fault Refusal :=
  s.work .none (fun e p => p.qvx e core.val f (p.rounds core.val && !f.z && f.vs2.val == 0) (fun c => c.redsumF f))

/-- WMUL (Table 09-9). -/
def execQvxWmul (core : Fin 144) (h u : Bool) (f : QvxFields) (s : State) : Host.Outcome State Fault Refusal :=
  s.work .none (fun e p => p.qvx e core.val f (f.e.val != 3) (fun c => c.wmul f h u false))

/-- WMACC (Table 09-9). -/
def execQvxWmacc (core : Fin 144) (h u : Bool) (f : QvxFields) (s : State) : Host.Outcome State Fault Refusal :=
  s.work .none (fun e p => p.qvx e core.val f (f.e.val != 3) (fun c => c.wmul f h u true))

/-- DOT (Table 09-9). -/
def execQvxDot (core : Fin 144) (ss : Fin 4) (f : QvxFields) (s : State) : Host.Outcome State Fault Refusal :=
  s.work .none (fun e p => p.qvx e core.val f (f.e.val < 2 && ss.val != 3) (fun c => c.dot f ss.val 0))

/-- DOT2U (Table 09-9). -/
def execQvxDot2u (core : Fin 144) (ss : Fin 4) (f : QvxFields) (s : State) : Host.Outcome State Fault Refusal :=
  s.work .none (fun e p => p.qvx e core.val f (f.e.val == 1 && ss.val != 3) (fun c => c.dot f ss.val 1))

end Sys2Proof.Machine
end

