-- ==== Sys2Proof/Machine/RvFloat.lean ====
section
/-! DEFINITION. The float results of the base's instructions (spec 09_host_cores_and_qvx.md, R330, Table 09-2: RV64F and D). Encodings and results are those
of the published specification that R330 names; the scalar conversions keep their own definitions (R348). -/

namespace Sys2Proof.Machine

/-- The format of a two-bit field; half and quad precision are not implemented. -/
def rvFmt (n : Nat) : Option Fmt := match n with | 0 => some .f32 | 1 => some .f64 | _ => none

/-- A float register as a code: a narrow value that is not boxed in ones reads as the canonical NaN. -/
def unbox (f : Fmt) (v : Nat) : Nat := if f = .f64 then v else if v / 2 ^ 32 = 2 ^ 32 - 1 then v % 2 ^ 32 else 0x7fc00000

/-- A code as a float register holds it. -/
def boxIn (f : Fmt) (c : Nat) : Nat := if f = .f64 then c else 0xffffffff00000000 + c % 2 ^ 32

/-- What a float instruction gives: into an integer register or a float register, and its `fflags`. -/
structure RvOut where
  toX : Bool
  val : Nat
  flags : Nat
  deriving DecidableEq, Repr

/-- A result of arithmetic, rounded once. -/
def rvArith (f : Fmt) (m : RMode) (x : Num × Nat) : RvOut := let o := toFloat m f x.1 x.2; ⟨false, boxIn f o.code, rvFlags o.flags⟩

/-- The canonical NaN of an invalid operation. -/
def rvInvalid (f : Fmt) : RvOut := ⟨false, boxIn f f.layout.nanCode, 16⟩

/-- Division: a zero divisor of a finite non-zero dividend raises DZ. -/
def rvFdiv (f : Fmt) (m : RMode) (x y : Num) : RvOut :=
  if x.isNan || y.isNan then rvArith f m (.nan false, if x.isSnan || y.isSnan then flagNV else 0)
  else if (x.isInf && y.isInf) || (x.isZero && y.isZero) then rvInvalid f
  else if y.isInf then rvArith f m (.fin (x.neg != y.neg) 0 1, 0)
  else if x.isInf then rvArith f m (.inf (x.neg != y.neg), 0)
  else if y.isZero then ⟨false, boxIn f (toFloat m f (.inf (x.neg != y.neg)) 0).code, 8⟩
  else rvArith f m (x.divFin y, 0)

/-- A square root to 128 bits past its denominator, with half a step more where it is not exact, so that one rounding follows. -/
def sqrtFrac (n d : Nat) : Nat × Nat :=
  let q := n * d * 4 ^ 128
  let r := isqrt q
  if r * r = q then (r, d * 2 ^ 128) else (2 * r + 1, d * 2 ^ 129)

/-- Square root. -/
def rvFsqrt (f : Fmt) (m : RMode) (x : Num) : RvOut :=
  match x with
  | .nan s => rvArith f m (.nan false, if s then flagNV else 0)
  | .inf s => if s then rvInvalid f else rvArith f m (.inf false, 0)
  | .fin s n d => if n = 0 then rvArith f m (.fin s 0 1, 0) else if s then rvInvalid f else let r := sqrtFrac n d; rvArith f m (.fin false r.1 r.2, 0)

/-- Minimum and maximum: of a number and a NaN the number; −0 below +0. -/
def rvMinMax (f : Fmt) (big : Bool) (a b : Nat) : RvOut :=
  let x := decodeNum f a
  let y := decodeNum f b
  let fl := if x.isSnan || y.isSnan then 16 else 0
  if x.isNan && y.isNan then ⟨false, boxIn f f.layout.nanCode, fl⟩
  else if x.isNan then ⟨false, boxIn f b, fl⟩
  else if y.isNan then ⟨false, boxIn f a, fl⟩
  else
    let less : Bool := x.lt? y == some true || (x.eqVal y && x.neg && !y.neg)
    ⟨false, boxIn f (if less != big then a else b), fl⟩

/-- Comparison by funct3: less-or-equal and less raise NV for any NaN, equal for a signalling one. -/
def rvCompare (f3 : Nat) (x y : Num) : Option RvOut :=
  let one (b q : Bool) : Option RvOut := some ⟨true, if b then 1 else 0, if q then 16 else 0⟩
  match f3 with
  | 0 => one (qFle x y) (qFun x y)
  | 1 => one (qFlt x y) (qFun x y)
  | 2 => one (qFeq x y) (x.isSnan || y.isSnan)
  | _ => none

/-- A float as an integer of `w` bits: a value beyond its range gives the nearest limit, a NaN the upper one, with NV. -/
def rvToInt (w : Nat) (signed : Bool) (m : RMode) (x : Num) : RvOut :=
  let hi : Int := if signed then (2 ^ (w - 1) : Nat) - 1 else (2 ^ w : Nat) - 1
  let lo : Int := if signed then -(2 ^ (w - 1) : Nat) else 0
  let out (z : Int) (fl : Nat) : RvOut := ⟨true, ofSigned 64 (toSigned w (ofSigned w z)), fl⟩
  match x with
  | .nan _ => out hi 16
  | .inf s => out (if s then lo else hi) 16
  | .fin s n d =>
    let q := roundQuot m s 0 n d
    let z : Int := if s then -(q : Int) else q
    if z < lo then out lo 16 else if hi < z then out hi 16 else out z (if q * d = n then 0 else 1)

/-- The class of a value, one bit of ten. -/
def rvClass (f : Fmt) (c : Nat) : Nat :=
  let l := f.layout
  let sub : Bool := c % 2 ^ (l.bits - 1) < 2 ^ (l.prec - 1)
  match decodeNum f c with
  | .nan s => if s then 2 ^ 8 else 2 ^ 9
  | .inf s => if s then 1 else 2 ^ 7
  | .fin s n _ => if n = 0 then (if s then 2 ^ 3 else 2 ^ 4) else if sub then (if s then 2 ^ 2 else 2 ^ 5) else (if s then 2 else 2 ^ 6)

/-- Sign injection by funct3. -/
def rvSign (f : Fmt) (f3 a b : Nat) : Option RvOut :=
  let top := f.bits - 1
  let put (s : Nat) : Option RvOut := some ⟨false, boxIn f (a % 2 ^ top + s * 2 ^ top), 0⟩
  match f3 with
  | 0 => put (bit b top)
  | 1 => put (1 - bit b top)
  | 2 => put ((bit a top + bit b top) % 2)
  | _ => none

/-- The rounding mode of an instruction: its own, or `frm`'s. -/
def Core.rvMode (c : Core) (rm : Nat) : Option RMode := frmMode (if rm = 7 then c.frm else rm)

/-- An instruction of the opcode for float operations, by its upper five bits. -/
def Core.rvFloat (c : Core) (w : Nat) : Option RvOut :=
  let f3 := bitsOf w 14 12
  let sel := bitsOf w 24 20
  match rvFmt (bitsOf w 26 25) with
  | none => none
  | some f =>
    let raw := (c.fReg (bitsOf w 19 15)).toNat
    let a := unbox f raw
    let b := unbox f (c.fReg sel).toNat
    let x := decodeNum f a
    let y := decodeNum f b
    let v := (c.xReg (bitsOf w 19 15)).toNat
    let m := c.rvMode f3
    match bitsOf w 31 27 with
    | 0x00 => m.map (fun m => rvArith f m (Num.add m x y))
    | 0x01 => m.map (fun m => rvArith f m (Num.add m x y.negate))
    | 0x02 => m.map (fun m => rvArith f m (x.mul y))
    | 0x03 => m.map (fun m => rvFdiv f m x y)
    | 0x0b => if sel = 0 then m.map (fun m => rvFsqrt f m x) else none
    | 0x04 => rvSign f f3 a b
    | 0x05 => if f3 < 2 then some (rvMinMax f (f3 == 1) a b) else none
    | 0x08 =>
      match rvFmt sel with
      | some s => if s = f then none else m.map (fun m => let z := decodeNum s (unbox s raw); rvArith f m (z, if z.isSnan then flagNV else 0))
      | none => none
    | 0x14 => rvCompare f3 x y
    | 0x18 =>
      match sel with
      | 0 => m.map (fun m => rvToInt 32 true m x)
      | 1 => m.map (fun m => rvToInt 32 false m x)
      | 2 => m.map (fun m => rvToInt 64 true m x)
      | 3 => m.map (fun m => rvToInt 64 false m x)
      | _ => none
    | 0x1a =>
      match sel with
      | 0 => m.map (fun m => rvArith f m (Num.ofInt (toSigned 32 v), 0))
      | 1 => m.map (fun m => rvArith f m (Num.ofInt (v % 2 ^ 32 : Nat), 0))
      | 2 => m.map (fun m => rvArith f m (Num.ofInt (toSigned 64 v), 0))
      | 3 => m.map (fun m => rvArith f m (Num.ofInt (v : Nat), 0))
      | _ => none
    | 0x1c =>
      if sel ≠ 0 then none
      else if f3 = 0 then some ⟨true, if f = .f64 then raw else ofSigned 64 (toSigned 32 raw), 0⟩
      else if f3 = 1 then some ⟨true, rvClass f a, 0⟩ else none
    | 0x1e => if sel = 0 ∧ f3 = 0 then some ⟨false, boxIn f v, 0⟩ else none
    | _ => none

/-- A fused multiply-add by its opcode: the product's and the addend's sign. -/
def Core.rvFused (c : Core) (w : Nat) : Option RvOut :=
  match rvFmt (bitsOf w 26 25) with
  | none => none
  | some f =>
    let x := decodeNum f (unbox f (c.fReg (bitsOf w 19 15)).toNat)
    let y := decodeNum f (unbox f (c.fReg (bitsOf w 24 20)).toNat)
    let z := decodeNum f (unbox f (c.fReg (bitsOf w 31 27)).toNat)
    let op := bitsOf w 6 0
    (c.rvMode (bitsOf w 14 12)).map (fun m =>
      rvArith f m (Num.fma m (if op = 0x4b ∨ op = 0x4f then x.negate else x) y (if op = 0x47 ∨ op = 0x4f then z.negate else z)))

end Sys2Proof.Machine
end

