-- ==== Sys2Proof/Machine/Rvc.lean ====
section
/-! DEFINITION. The 16-bit instructions of the base's C extension (spec 09_host_cores_and_qvx.md, R330, Table 09-2), each as the 32-bit word it stands for.
Encodings are those of the published specification that R330 names. -/

namespace Sys2Proof.Machine

/-- Words of the base's formats. -/
def rvI (imm rs1 f3 rd op : Nat) : Nat := imm % 4096 * 2 ^ 20 + rs1 * 2 ^ 15 + f3 * 2 ^ 12 + rd * 128 + op
def rvR (f7 rs2 rs1 f3 rd op : Nat) : Nat := f7 * 2 ^ 25 + rs2 * 2 ^ 20 + rs1 * 2 ^ 15 + f3 * 2 ^ 12 + rd * 128 + op
def rvS (imm rs2 rs1 f3 op : Nat) : Nat := imm / 32 % 128 * 2 ^ 25 + rs2 * 2 ^ 20 + rs1 * 2 ^ 15 + f3 * 2 ^ 12 + imm % 32 * 128 + op
def rvB (imm rs1 f3 : Nat) : Nat :=
  bit imm 12 * 2 ^ 31 + bitsOf imm 10 5 * 2 ^ 25 + rs1 * 2 ^ 15 + f3 * 2 ^ 12 + bitsOf imm 4 1 * 256 + bit imm 11 * 128 + 0x63
def rvJ (imm rd : Nat) : Nat :=
  bit imm 20 * 2 ^ 31 + bitsOf imm 10 1 * 2 ^ 21 + bit imm 11 * 2 ^ 20 + bitsOf imm 19 12 * 2 ^ 12 + rd * 128 + 0x6f

/-- Sign-extend `w` bits to 64. -/
def sx (w n : Nat) : Nat := ofSigned 64 (toSigned w n)

/-- Quadrant 0: loads and stores of the eight registers from x8, and the address of a stack slot. -/
def rvc0 (h : Nat) : Option Nat :=
  let rd := bitsOf h 4 2 + 8
  let rs := bitsOf h 9 7 + 8
  let w := bitsOf h 12 10 * 8 + bit h 6 * 4 + bit h 5 * 64
  let d := bitsOf h 12 10 * 8 + bitsOf h 6 5 * 64
  match bitsOf h 15 13 with
  | 0 =>
    let n := bitsOf h 12 11 * 16 + bitsOf h 10 7 * 64 + bit h 6 * 4 + bit h 5 * 8
    if n = 0 then none else some (rvI n 2 0 rd 0x13)
  | 1 => some (rvI d rs 3 rd 0x07)
  | 2 => some (rvI w rs 2 rd 0x03)
  | 3 => some (rvI d rs 3 rd 0x03)
  | 5 => some (rvS d rd rs 3 0x27)
  | 6 => some (rvS w rd rs 2 0x23)
  | 7 => some (rvS d rd rs 3 0x23)
  | _ => none

/-- Quadrant 1: immediates, register arithmetic, jumps and branches. -/
def rvc1 (h : Nat) : Option Nat :=
  let rd := bitsOf h 11 7
  let imm := sx 6 (bit h 12 * 32 + bitsOf h 6 2)
  let r := bitsOf h 9 7 + 8
  let r2 := bitsOf h 4 2 + 8
  let br := sx 9 (bit h 12 * 256 + bitsOf h 6 5 * 64 + bit h 2 * 32 + bitsOf h 11 10 * 8 + bitsOf h 4 3 * 2)
  match bitsOf h 15 13 with
  | 0 => some (rvI imm rd 0 rd 0x13)
  | 1 => if rd = 0 then none else some (rvI imm rd 0 rd 0x1b)
  | 2 => some (rvI imm 0 0 rd 0x13)
  | 3 =>
    if imm = 0 then none
    else if rd = 2 then
      some (rvI (sx 10 (bit h 12 * 512 + bitsOf h 4 3 * 128 + bit h 5 * 64 + bit h 2 * 32 + bit h 6 * 16)) 2 0 2 0x13)
    else some (imm % 2 ^ 20 * 4096 + rd * 128 + 0x37)
  | 4 =>
    match bitsOf h 11 10 with
    | 0 => some (rvI (imm % 64) r 5 r 0x13)
    | 1 => some (rvI (imm % 64 + 0x400) r 5 r 0x13)
    | 2 => some (rvI imm r 7 r 0x13)
    | _ =>
      match bit h 12, bitsOf h 6 5 with
      | 0, 0 => some (rvR 0x20 r2 r 0 r 0x33)
      | 0, 1 => some (rvR 0 r2 r 4 r 0x33)
      | 0, 2 => some (rvR 0 r2 r 6 r 0x33)
      | 0, _ => some (rvR 0 r2 r 7 r 0x33)
      | _, 0 => some (rvR 0x20 r2 r 0 r 0x3b)
      | _, 1 => some (rvR 0 r2 r 0 r 0x3b)
      | _, _ => none
  | 5 =>
    some (rvJ (sx 12 (bit h 12 * 2048 + bit h 8 * 1024 + bitsOf h 10 9 * 256 + bit h 6 * 128 + bit h 7 * 64 + bit h 2 * 32 + bit h 11 * 16 +
      bitsOf h 5 3 * 2)) 0)
  | 6 => some (rvB br r 0)
  | _ => some (rvB br r 1)

/-- Quadrant 2: shifts, stack loads and stores, register moves and jumps. -/
def rvc2 (h : Nat) : Option Nat :=
  let rd := bitsOf h 11 7
  let rs2 := bitsOf h 6 2
  let d := bit h 12 * 32 + bitsOf h 6 5 * 8 + bitsOf h 4 2 * 64
  let w := bit h 12 * 32 + bitsOf h 6 4 * 4 + bitsOf h 3 2 * 64
  let sd := bitsOf h 12 10 * 8 + bitsOf h 9 7 * 64
  let sw := bitsOf h 12 9 * 4 + bitsOf h 8 7 * 64
  match bitsOf h 15 13 with
  | 0 => some (rvI (bit h 12 * 32 + rs2) rd 1 rd 0x13)
  | 1 => some (rvI d 2 3 rd 0x07)
  | 2 => if rd = 0 then none else some (rvI w 2 2 rd 0x03)
  | 3 => if rd = 0 then none else some (rvI d 2 3 rd 0x03)
  | 4 =>
    if bit h 12 = 0 then
      (if rs2 = 0 then (if rd = 0 then none else some (rvI 0 rd 0 0 0x67)) else some (rvR 0 rs2 0 0 rd 0x33))
    else if rs2 = 0 then (if rd = 0 then some 0x00100073 else some (rvI 0 rd 0 1 0x67))
    else some (rvR 0 rs2 rd 0 rd 0x33)
  | 5 => some (rvS sd rs2 2 3 0x27)
  | 6 => some (rvS sw rs2 2 2 0x23)
  | _ => some (rvS sd rs2 2 3 0x23)

/-- The word that a 16-bit instruction stands for; none where it is reserved. -/
def rvcWord (h : Nat) : Option Nat := match h % 4 with | 0 => rvc0 h | 1 => rvc1 h | 2 => rvc2 h | _ => none

end Sys2Proof.Machine
end

