-- ==== Sys2Proof/Machine/Base.lean ====
section
/-! DEFINITION. HOST_MEMORY_ACCESS (spec 09_host_cores_and_qvx.md, R330, R332): a host core's access, or an instruction word of the base, which a core runs
against its own registers. Encodings are those of the published specification that R330 names. -/

namespace Sys2Proof.Machine

/-- The core goes on at an address. -/
def Core.goOn (c : Core) (pc : Nat) : Core := { c with pc := pc % 2 ^ 64 }

/-- An integer result, or an illegal instruction where there is none. -/
def Pkg.putX (p : Pkg) (g : Nat) (acc : HostAccess) (rd next : Nat) (v : Option Nat) : Pkg :=
  match v with
  | some x => p.updCore g (fun c => (c.setX rd (BitVec.ofNat 64 x)).goOn next)
  | none => p.illegal g acc.pc

/-- A float instruction's result with its flags; FS Off makes it illegal. -/
def Pkg.putRv (p : Pkg) (g : Nat) (acc : HostAccess) (rd next : Nat) (o : Option RvOut) : Pkg :=
  if !(p.core g).floatOn then p.illegal g acc.pc
  else
    match o with
    | none => p.illegal g acc.pc
    | some r =>
      p.updCore g (fun c =>
        let c1 := if r.toX then c.setX rd (BitVec.ofNat 64 r.val) else c.setF rd (BitVec.ofNat 64 r.val)
        (if r.flags = 0 then c1 else { c1 with fflags := c1.fflags ||| r.flags }.floatDirty).goOn next)

/-- A memory instruction: the access of an operation at an address, after which the core goes on unless it traps. -/
def Pkg.insnMem (p : Pkg) (e : Env) (g : Fin 144) (acc : HostAccess) (next : Nat) (op : HostOp) (va size data rd : Nat) : Pkg :=
  (p.updCore g.val (fun c => c.goOn next)).hostAccess e g { acc with op := op, va := va % 2 ^ 64, size := size, data := data, rd := Fin.ofNat 32 rd }

/-- The operation of an AMO by its upper five bits. -/
def amoOf (f5 : Nat) : Option HostOp :=
  match f5 with
  | 0x00 => some .amoAdd | 0x01 => some .amoSwap | 0x02 => some .lr | 0x03 => some .sc | 0x04 => some .amoXor | 0x08 => some .amoOr
  | 0x0c => some .amoAnd | 0x10 => some .amoMin | 0x14 => some .amoMax | 0x18 => some .amoMinu | 0x1c => some .amoMaxu | _ => none

/-- A CSR instruction (Zicsr): read, then written, set or cleared. A counter reads as a free value (R355 states no cycle count a program can tell). -/
def Pkg.csrInsn (p : Pkg) (e : Env) (g : Nat) (acc : HostAccess) (w next : Nat) : Pkg :=
  let n := bitsOf w 31 20
  let f3 := bitsOf w 14 12
  let rs := bitsOf w 19 15
  let c := p.core g
  let how := f3 % 4
  let writes : Bool := how == 1 || rs != 0
  let x := if f3 < 4 then (c.xReg rs).toNat else rs
  if !c.csrLegal n writes then p.illegal g acc.pc
  else
    let r : Nat × Pkg := if csrCounts n then (let f := p.drawFree 1; ((Config.freeWord f.1).toNat, f.2)) else (c.csrRead e g n, p)
    let old := if n = csrMip then c.csrNat csrMip else r.1
    let new := if how = 1 then x else if how = 2 then old ||| x else old ^^^ (old &&& x)
    r.2.updCore g (fun d => ((if writes then d.csrWrite n new else d).setX (bitsOf w 11 7) (BitVec.ofNat 64 r.1)).goOn next)

/-- An instruction of the SYSTEM opcode: calls, returns, waits, fences of translation, CSR accesses. -/
def Pkg.systemInsn (p : Pkg) (e : Env) (g : Nat) (acc : HostAccess) (w next : Nat) : Pkg :=
  let c := p.core g
  let bad : Pkg := p.illegal g acc.pc
  let nop : Pkg := p.updCore g (fun d => d.goOn next)
  let fenceOk : Bool := c.mode == 3 || (c.mode == 1 && !c.ms 20)
  if bitsOf w 14 12 = 4 then bad
  else if bitsOf w 14 12 ≠ 0 then p.csrInsn e g acc w next
  else if w = 0x00000073 then p.trapCore g (8 + c.mode) 0 (some acc.pc)
  else if w = 0x00100073 then p.trapCore g causeBreakpoint acc.pc (some acc.pc)
  else if w = 0x30200073 then (if c.mode = 3 then p.updCore g Core.mret else bad)
  else if w = 0x10200073 then (if c.mode = 3 ∨ (c.mode = 1 ∧ c.ms 22 = false) then p.updCore g Core.sret else bad)
  -- a wait may end at once
  else if w = 0x10500073 then (if c.mode = 3 || !c.ms 21 then nop else bad)
  -- SFENCE.VMA and SINVAL.VMA: every translation walks the tables, so there is nothing to drop
  else if (bitsOf w 31 25 = 0x09 ∨ bitsOf w 31 25 = 0x0b) ∧ bitsOf w 11 7 = 0 then (if fenceOk then nop else bad)
  else if w = 0x18000073 ∨ w = 0x18100073 then (if c.mode = 0 then bad else nop)
  else bad

/-- Run an instruction word of 32 bits. -/
def Pkg.insn32 (p : Pkg) (e : Env) (g : Fin 144) (acc : HostAccess) (w next : Nat) : Pkg :=
  let c := p.core g.val
  let op := bitsOf w 6 0
  let rd := bitsOf w 11 7
  let f3 := bitsOf w 14 12
  let f7 := bitsOf w 31 25
  let a := (c.xReg (bitsOf w 19 15)).toNat
  let b := (c.xReg (bitsOf w 24 20)).toNat
  let immI := ofSigned 64 (toSigned 12 (bitsOf w 31 20))
  let immS := ofSigned 64 (toSigned 12 (bitsOf w 31 25 * 32 + rd))
  let immB := ofSigned 64 (toSigned 13 (bit w 31 * 4096 + bit w 7 * 2048 + bitsOf w 30 25 * 32 + bitsOf w 11 8 * 2))
  let immJ := ofSigned 64 (toSigned 21 (bit w 31 * 2 ^ 20 + bitsOf w 19 12 * 4096 + bit w 20 * 2048 + bitsOf w 30 21 * 2))
  let upper := ofSigned 64 (toSigned 32 (bitsOf w 31 12 * 4096))
  let bad : Pkg := p.illegal g.val acc.pc
  let mem (o : HostOp) (va size data rd : Nat) : Pkg := p.insnMem e g acc next o va size data rd
  match op with
  | 0x37 => p.putX g.val acc rd next (some upper)
  | 0x17 => p.putX g.val acc rd next (some ((acc.pc + upper) % 2 ^ 64))
  | 0x6f => p.putX g.val acc rd (acc.pc + immJ) (some next)
  | 0x67 => if f3 = 0 then p.putX g.val acc rd ((a + immI) % 2 ^ 64 / 2 * 2) (some next) else bad
  | 0x63 => (match rvBranch f3 a b with
    | some t => p.updCore g.val (fun d => d.goOn (if t then acc.pc + immB else next))
    | none => bad)
  | 0x03 => if f3 = 7 then bad else mem (if f3 < 4 then .load else .loadu) (a + immI) (2 ^ (f3 % 4)) 0 rd
  | 0x23 => if f3 < 4 then mem .store (a + immS) (2 ^ f3) b 0 else bad
  | 0x07 => if f3 = 2 ∨ f3 = 3 then mem .fload (a + immI) (2 ^ f3) 0 rd else bad
  | 0x27 => if f3 = 2 ∨ f3 = 3 then mem .fstore (a + immS) (2 ^ f3) (c.fReg (bitsOf w 24 20)).toNat 0 else bad
  | 0x13 => p.putX g.val acc rd next (rvImm f3 (bitsOf w 31 20) a)
  | 0x1b => p.putX g.val acc rd next (rvImm32 f3 (bitsOf w 31 20) a)
  | 0x33 => p.putX g.val acc rd next (rvOp64 f7 f3 a b)
  | 0x3b => p.putX g.val acc rd next (rvOp32 f7 f3 (bitsOf w 24 20) a b)
  | 0x0f =>
    if f3 = 0 then fence g.val (bit w 27 == 1 || bit w 26 == 1) e (p.updCore g.val (fun d => d.goOn next))
    else if f3 = 1 then p.updCore g.val (fun d => d.goOn next)
    else if f3 = 2 ∧ rd = 0 then
      (match bitsOf w 31 20 with
       | 0 => mem .cboInval a 0 0 0
       | 1 => mem .cboClean a 0 0 0
       | 2 => mem .cboFlush a 0 0 0
       | 4 => mem .cboZero a 0 0 0
       | _ => bad)
    else bad
  | 0x2f => (match amoOf (bitsOf w 31 27) with
    | some o => if (f3 = 2 ∨ f3 = 3) ∧ (o = .lr → bitsOf w 24 20 = 0) then mem o a (2 ^ f3) b rd else bad
    | none => bad)
  | 0x43 => p.putRv g.val acc rd next (c.rvFused w)
  | 0x47 => p.putRv g.val acc rd next (c.rvFused w)
  | 0x4b => p.putRv g.val acc rd next (c.rvFused w)
  | 0x4f => p.putRv g.val acc rd next (c.rvFused w)
  | 0x53 => p.putRv g.val acc rd next (c.rvFloat w)
  | 0x73 => p.systemInsn e g.val acc w next
  | _ => bad

/-- Run an instruction word: an interrupt does not precede it, a trigger on its address does; a word whose low bits are not ones is a 16-bit one. -/
def Pkg.insn (p : Pkg) (e : Env) (g : Fin 144) (acc : HostAccess) (word : BitVec 32) : Pkg :=
  let w := word.toNat
  let h := if acc.error.isSome && (acc.error.map (fun x => x.1)) == some 4 then p.hostError e g.val (accPlace acc 0) acc.error else (p, true)
  if (p.core g.val).fencing then p
  else if !h.2 then h.1
  else if (p.core g.val).trigFires .fetch acc.pc then p.trapCore g.val causeBreakpoint acc.pc (some acc.pc)
  else if w % 4 = 3 then p.insn32 e g acc w (acc.pc + 4)
  else match rvcWord (w % 65536) with
    | some x => p.insn32 e g acc x (acc.pc + 2)
    | none => p.illegal g.val acc.pc

/-- A core takes an interrupt that is pending and enabled, before the instruction at an address; else nothing happens. -/
def Pkg.takeInterrupt (p : Pkg) (g pc : Nat) : Pkg :=
  match (p.core g).dueInterrupt with
  | some x => p.updCore g (fun c => c.enter x.1 true x.2 0 pc)
  | none => p

/-- HOST_MEMORY_ACCESS: an access, an instruction of the base, or an interrupt. -/
def hostMemoryAccess (g : Fin 144) (acc : HostAccess) (e : Env) (p : Pkg) : Pkg :=
  match acc.op with
  | .insn w => p.insn e g acc w
  | .interrupt => p.takeInterrupt g.val acc.pc
  | _ => p.hostAccess e g acc

/-- Run a QVX instruction. -/
def runQvx (i : Instr) (s : State) : Host.Outcome State Fault Refusal :=
  match i with
  | .qvxAdd c f => execQvxAdd c f s
  | .qvxSub c f => execQvxSub c f s
  | .qvxMul c f => execQvxMul c f s
  | .qvxAdds c f => execQvxAdds c f s
  | .qvxSubs c f => execQvxSubs c f s
  | .qvxMin c f => execQvxMin c f s
  | .qvxMax c f => execQvxMax c f s
  | .qvxCmpeq c f => execQvxCmpeq c f s
  | .qvxCmplt c f => execQvxCmplt c f s
  | .qvxAnd c f => execQvxAnd c f s
  | .qvxOr c f => execQvxOr c f s
  | .qvxXor c f => execQvxXor c f s
  | .qvxAndn c f => execQvxAndn c f s
  | .qvxSll c f => execQvxSll c f s
  | .qvxSrl c f => execQvxSrl c f s
  | .qvxSra c f => execQvxSra c f s
  | .qvxFadd c f => execQvxFadd c f s
  | .qvxFsub c f => execQvxFsub c f s
  | .qvxFmul c f => execQvxFmul c f s
  | .qvxFma c f => execQvxFma c f s
  | .qvxFnma c f => execQvxFnma c f s
  | .qvxFmax c f => execQvxFmax c f s
  | .qvxFmin c f => execQvxFmin c f s
  | .qvxFcmplt c f => execQvxFcmplt c f s
  | .qvxFcmple c f => execQvxFcmple c f s
  | .qvxFcmpeq c f => execQvxFcmpeq c f s
  | .qvxFcmpun c f => execQvxFcmpun c f s
  | .qvxFcvtIf c f => execQvxFcvtIf c f s
  | .qvxFcvtFi c f => execQvxFcvtFi c f s
  | .qvxFwiden c f => execQvxFwiden c f s
  | .qvxFnarrow c f => execQvxFnarrow c f s
  | .qvxLd c f => execQvxLd c f s
  | .qvxLdff c f => execQvxLdff c f s
  | .qvxSt c f => execQvxSt c f s
  | .qvxPld c f => execQvxPld c f s
  | .qvxPst c f => execQvxPst c f s
  | .qvxBcastX c f => execQvxBcastX c f s
  | .qvxBcastF c f => execQvxBcastF c f s
  | .qvxMvX c f => execQvxMvX c f s
  | .qvxPwhile c f => execQvxPwhile c f s
  | .qvxPlog c f => execQvxPlog c f s
  | .qvxPcnt c f => execQvxPcnt c f s
  | .qvxRdsat c f => execQvxRdsat c f s
  | .qvxWrsat c f => execQvxWrsat c f s
  | .qvxRedsumI c f => execQvxRedsumI c f s
  | .qvxRedsumF c f => execQvxRedsumF c f s
  | .qvxWmul c h u f => execQvxWmul c h u f s
  | .qvxWmacc c h u f => execQvxWmacc c h u f s
  | .qvxDot c ss f => execQvxDot c ss f s
  | .qvxDot2u c ss f => execQvxDot2u c ss f s
  | _ => .next s

/-- The QVX instruction in an access's word. -/
def qvxWord (core : Fin 144) (acc : HostAccess) : Option Instr :=
  match acc.op with
  | .insn w => decodeQvx core acc.pc (acc.error.map (fun (x : Nat × Nat) => ⟨x.1, x.2, 0⟩)) w
  | _ => none

/-- HOST_MEMORY_ACCESS (R332). A word of QVX runs as the instruction it spells (R343). -/
def execHostMemoryAccess (core : Fin 144) (acc : HostAccess) (s : State) : Host.Outcome State Fault Refusal :=
  let c := s.pkg.core core.val
  match qvxWord core acc with
  | none => s.work .none (hostMemoryAccess core acc)
  | some i =>
    if !s.pkg.working || c.fencing then .next s
    else if c.trigFires .fetch acc.pc then s.work .none (fun _ p => p.trapCore core.val causeBreakpoint acc.pc (some acc.pc))
    else runQvx i { s with pkg := s.pkg.updCore core.val (fun c => c.goOn (acc.pc + 4)) }

end Sys2Proof.Machine
end

