-- ==== Sys2Proof/Machine/Colls.lean ====
section
/-! DEFINITION. Communicators and the stages of collectives (spec 11_collectives_and_mapping.md, R425 to R446, R449, R450): who leads which
stage, signatures, contributions and results, reduction slots and the fall-back to a ring, reports, timeouts. -/

namespace Sys2Proof.Machine

/-! ### Communicators (R425, R426, R436) -/

/-- What locations of one level-`lv` group share (R436). -/
def levelKey (lv loc : Nat) : Nat :=
  match lv with
  | 0 => loc | 1 => loc / 4 | 2 => loc / 64 | 3 => loc / 4096 | _ => 0

/-- The members of a location's group at a level. -/
def Comm.group (m : Comm) (lv loc : Nat) : List (Nat × Nat) := m.members.filter (fun x => levelKey lv x.1 == levelKey lv loc)

/-- The leader of a location's group at a level: its member of lowest rank. -/
def Comm.leader (m : Comm) (lv loc : Nat) : Nat := match m.group lv loc with | x :: _ => x.1 | [] => loc

/-- A location leads its group at a level. -/
def Comm.leads (m : Comm) (lv loc : Nat) : Bool := lv ≤ 4 && m.leader lv loc == loc

/-- The highest level that a location leads. -/
def Comm.lead (m : Comm) (loc : Nat) : Nat := ((List.range 5).filter (fun lv => m.leads lv loc)).foldl max 0

/-- The members of the stage at a level: the leaders of the groups below. -/
def Comm.stage (m : Comm) (lv loc : Nat) : List Nat := ((m.group lv loc).filter (fun x => m.leader (lv - 1) x.1 == x.1)).map (·.1)

/-- A location's index in its stage at a level: its group's. -/
def Comm.idxIn (m : Comm) (lv loc : Nat) : Nat := ((m.stage lv loc).takeWhile (fun x => x != m.leader (lv - 1) loc)).length

/-- Ranks before a location's own (R426). -/
def Comm.rankBase (m : Comm) (loc : Nat) : Nat := ((m.members.takeWhile (fun x => x.1 != loc)).map (·.2)).sum

/-- Local ranks of a location. -/
def Comm.ranksAt (m : Comm) (loc : Nat) : Nat := (assoc? m.members loc).getD 0

/-- All ranks N_r. -/
def Comm.total (m : Comm) : Nat := (m.members.map (·.2)).sum

/-- The ranks of a location's group at a level, from the first to before the last. -/
def Comm.groupRanks (m : Comm) (lv loc : Nat) : Nat × Nat :=
  let b := m.rankBase (m.leader lv loc)
  (b, b + ((m.group lv loc).map (·.2)).sum)

/-- The location that holds a rank. -/
def Comm.locOf (m : Comm) (k : Nat) : Nat :=
  match m.members.find? (fun x => m.rankBase x.1 ≤ k && k < m.rankBase x.1 + x.2) with | some x => x.1 | none => 0

/-- The other members' locations. -/
def Comm.others (m : Comm) (loc : Nat) : List Nat := (m.members.map (·.1)).filter (fun x => x != loc)

/-- A communicator of a context; its SETUP may still wait. -/
def Pkg.comm? (p : Pkg) (ctx id : Nat) : Option Comm := p.col.comms.find? (fun m => m.ctx == ctx && m.id == id)

/-- Put back a communicator. -/
def Pkg.setComm (p : Pkg) (m : Comm) : Pkg :=
  let cs := p.col.comms
  let same (x : Comm) : Bool := x.ctx == m.ctx && x.id == m.id
  { p with col := { p.col with comms := if cs.any same then cs.map (fun x => if same x then m else x) else cs ++ [m] } }

/-- Free a communicator's ID. -/
def Pkg.dropComm (p : Pkg) (m : Comm) : Pkg :=
  { p with col := { p.col with comms := p.col.comms.filter (fun x => !(x.ctx == m.ctx && x.id == m.id)) } }

/-- Two records are of one collective. -/
def ColRun.same (a b : ColRun) : Bool := a.ctx == b.ctx && a.comm == b.comm && a.seq == b.seq

/-- A collective in flight by its number. -/
def Pkg.colRun? (p : Pkg) (ctx comm seq : Nat) : Option ColRun :=
  p.col.runs.find? (fun r => r.ctx == ctx && r.comm == comm && r.seq == seq)

/-- Put back a collective in flight. -/
def Pkg.setCol (p : Pkg) (r : ColRun) : Pkg :=
  let rs := p.col.runs
  { p with col := { p.col with runs := if rs.any r.same then rs.map (fun x => if r.same x then r else x) else rs ++ [r] } }

/-- A collective is no longer in flight at this package. -/
def Pkg.dropCol (p : Pkg) (r : ColRun) : Pkg := { p with col := { p.col with runs := p.col.runs.filter (fun x => !r.same x) } }

/-- A collective of which nothing is known yet but its number and kind. -/
def newCol (ctx comm seq kind : Nat) : ColRun :=
  { queue := none, ctx := ctx, comm := comm, seq := seq, started := false, sig := 0, kind := kind, op := 0, n := 0, root := 0, chunks := 0,
    base := 0, stages := [], parts := [], ring := [], sent := [], told := false, ringed := false, fell := false, downs := [], ended := none,
    steps := [], landed := [], counted := [], credits := [], seen := [] }

/-! ### The operation word and the units of data (Table 11-5, R437) -/

def opType (o : Nat) : Nat := bitsOf o 19 16
def opComm (o : Nat) : Nat := bitsOf o 15 10
def opDetour (o : Nat) : Bool := o.testBit 8
def opDet (o : Nat) : Bool := o.testBit 7
def opRop (o : Nat) : Nat := bitsOf o 6 4
def opKind (o : Nat) : Nat := o % 16

/-- Bytes of an element in the accumulation type. -/
def accBytes (ty : Nat) : Nat := if ty = 3 ∨ ty = 4 then 8 else 4

/-- Elements of a unit of 128 bytes, the piece of a chunk that one packet carries. -/
def unitElems (ty : Nat) : Nat := 128 / accBytes ty

/-- Elements of a chunk (R437). -/
def chunkElems (ty : Nat) : Nat := 4096 / accBytes ty

/-- Chunks of a vector of n elements. -/
def colChunks (ty n : Nat) : Nat := ceilDiv n (chunkElems ty)

/-- Units of vector v of n elements each: 32 to a chunk, chunk after chunk. -/
def unitsOf (ty n v : Nat) : List Nat := (List.range (ceilDiv n (unitElems ty))).map (fun u => v * 32 * colChunks ty n + u)

/-- The vector a unit belongs to, and its first element and end there. -/
def unitSpan (ty n u : Nat) : Nat × Nat × Nat :=
  let per := 32 * max 1 (colChunks ty n)
  let lo := u % per * unitElems ty
  (u / per, lo, min n (lo + unitElems ty))

/-- The kinds that reduce and claim slots (R438). -/
def reduces (kind : Nat) : Bool := kind ≤ 1

/-- The atomic operation and operand type that compute a reduction step (R439, Tables 10-4 and 11-5). -/
def ropAop (rop : Nat) : Nat := match rop with | 0 => 0 | 1 => 3 | 2 => 4 | 3 => 5 | 4 => 6 | _ => 7
def accAtom (ty : Nat) : Nat := match ty with | 2 => 0 | 3 => 1 | 4 => 5 | _ => 4

/-- Fold contributions in their order: codes and the flags of the steps (R439, R440). -/
def colFold (o : Nat) : List ColPart → List Nat × Nat
  | [] => ([], 0)
  | x :: xs => xs.foldl (fun (s : List Nat × Nat) y =>
      let z := (s.1.zip y.codes).map (fun ab => atomicResult (ropAop (opRop o)) (accAtom (opType o)) ab.1 ab.2 0)
      (z.map (·.1), z.foldl (fun f c => f ||| c.2) s.2)) (x.codes, 0)

/-- The element type's stored format at the input (R432). -/
def colInFmt (ty : Nat) : Fmt := match ty with | 0 => .f32 | 1 => .bf16 | 2 => .int32 | 3 => .int64 | _ => .f64

/-- An input code in the accumulation type (R439). -/
def colWiden (ty c : Nat) : Nat := if ty = 1 then c * 65536 else c

/-- Elements of a rank: the product of dimensions 0, 2, 3 and 4 (R431). -/
def Tensor.rankElems (t : Tensor) : Nat := t.size 0 * t.size 2 * t.size 3 * t.size 4

/-- Index of a rank's x-th element, dimension 0 fastest. -/
def Tensor.rankIndex (t : Tensor) (j x : Nat) : List Int :=
  let a := t.size 0
  let b := t.size 2
  let c := t.size 3
  [((x % a : Nat) : Int), (j : Int), ((x / a % b : Nat) : Int), ((x / (a * b) % c : Nat) : Int), ((x / (a * b * c) : Nat) : Int)]

/-- The signature of a collective (R444). -/
def colSig (uid seq o n : Nat) : Nat :=
  let w := opKind o ||| (opRop o <<< 4) ||| (opType o <<< 8) ||| ((if opDet o then 1 else 0) <<< 12)
  let x := mix64 ((uid ^^^ (seq <<< 16) ^^^ w) % 2 ^ 64)
  let s := mix64 ((x ^^^ (if opKind o = 5 then 0 else n)) % 2 ^ 64) / 2 ^ 32
  if s = 0 then 1 else s

/-! ### Packets (R441) -/

/-- A collective packet's payload: the extension of R441, then what the model adds, whose layout no rule gives: flags with the fallback bit,
kind, ring mark, and the communicator's UID. -/
structure ColPkt where
  sig : Nat
  seq : Nat
  chunk : Nat
  level : Nat
  idx : Nat
  flags : Nat
  fell : Bool
  kind : Nat
  mark : Nat
  uid : Nat
  data : List Byte
  deriving DecidableEq, Repr

def ColPkt.bytes (x : ColPkt) : List Byte :=
  leBytes 4 x.sig ++ leBytes 4 x.seq ++ leBytes 4 x.chunk ++ leBytes 1 x.level ++ leBytes 3 x.idx ++
  leBytes 1 (x.flags % 32 + (if x.fell then 32 else 0)) ++ leBytes 1 x.kind ++ leBytes 2 x.mark ++ leBytes 8 x.uid ++ x.data

def parseCol (b : List Byte) : ColPkt :=
  { sig := leAt b 0 4, seq := leAt b 4 4, chunk := leAt b 8 4, level := leAt b 12 1, idx := leAt b 13 3, flags := leAt b 16 1 % 32,
    fell := (leAt b 16 1).testBit 5, kind := leAt b 17 1, mark := leAt b 18 2, uid := leAt b 20 8, data := b.drop 28 }

abbrev tyContrib : Nat := 0x10
abbrev tyResult : Nat := 0x11
abbrev tyAbort : Nat := 0x12
abbrev tyCredit : Nat := 0x13
abbrev tyFallback : Nat := 0x14
abbrev tySetup : Nat := 0x15

/-- Enter a collective packet for another member: class 1 (R441), from the engine of R381. -/
def Pkg.colSend (p : Pkg) (e : Env) (m : Comm) (queue : Option Nat) (dest ty off : Nat) (detour : Bool) (x : ColPkt) : Pkg :=
  let b := x.bytes
  p.addReq e (p.engineFor m.ctx dest) dest 1 ty (fabAddr dest off) b.length (if detour then 1 else 0) b (.coll (queue.getD 64))

/-- The packet of a collective at a level. -/
def Pkg.colPkt (p : Pkg) (m : Comm) (r : ColRun) (sig unit lv flags mark : Nat) (data : List Byte) : ColPkt :=
  ⟨sig, r.seq, unit / 32, lv, m.idxIn lv p.ownLoc, flags, r.fell, r.kind, mark, m.uid, data⟩

/-- Send a unit's packet of a collective. -/
def Pkg.sendUnit (p : Pkg) (e : Env) (m : Comm) (r : ColRun) (dest ty sig unit lv flags mark : Nat) (codes : List Nat) : Pkg :=
  let data := (codes.map (leBytes (accBytes (opType r.op)))).flatten
  p.colSend e m r.queue dest ty (128 * (unit % 32)) (opDetour r.op) (p.colPkt m r sig unit lv flags mark data)

/-! ### How a collective ends -/

/-- Report of Table 11-9; entries are (rank, signature) in ascending rank. -/
def colReport (seq maj lv kind rank : Nat) (es : List (Nat × Nat)) : List Byte :=
  padTo 128 (leBytes 4 seq ++ leBytes 4 maj ++ leBytes 1 lv ++ leBytes 1 kind ++ leBytes 2 0 ++ leBytes 4 rank ++ leBytes 4 es.length ++
    leBytes 12 0 ++ ((es.take 12).map (fun x => leBytes 4 x.1 ++ leBytes 4 x.2)).flatten)

/-- A rank's descriptor ends by a report (R445, R446): 0x30 for a mismatch, 0x28 for a timeout, with UNDEF and the detail its rule gives. -/
def Run.endByReport (r : Run) (e : Env) (b : List Byte) : Run :=
  let mis : Bool := leAt b 9 1 == 1
  { (r.raise e.tag (if mis then 0x30 else 0x28)) with
      undef := true, finished := true, stopped := true, endBeat := e.tag
      detail := (if mis then leAt b 4 4 else leAt b 8 1) * 2 ^ 32 + leAt b 32 4 }

/-- A collective ends at this package by a report: the first one is written to the report area, the descriptor ends, the slots return. -/
def Pkg.endCol (p : Pkg) (e : Env) (m : Comm) (r : ColRun) (b : List Byte) : Pkg :=
  let p1 := (p.writeLocal e m.report b).1
  if r.started then
    (match r.queue with | some q => p1.updRun q (fun u => u.endByReport e b) | none => p1).dropCol r
  else p1.setCol { r with ended := some b, stages := [], parts := [] }

/-- The package that detects it writes its report, sends ABORT to every rank, and ends its own part. -/
def Pkg.abortCol (p : Pkg) (e : Env) (m : Comm) (r : ColRun) (b : List Byte) : Pkg :=
  let x : ColPkt := ⟨r.sig, r.seq, 0, leAt b 8 1, 0, 0, false, r.kind, 0, m.uid, b⟩
  ((m.others p.ownLoc).foldl (fun (s : Pkg) d => s.colSend e m r.queue d tyAbort 0 (opDetour r.op) x) p).endCol e m r b

/-- How often a signature occurs. -/
def sigCount (es : List (Nat × Nat)) (s : Nat) : Nat := (es.filter (fun x => x.2 == s)).length

/-- The majority signature: held by most, ties to the lowest rank (R445). -/
def majority (es : List (Nat × Nat)) : Nat :=
  (es.foldl (fun (b : Option Nat) x => match b with
    | none => some x.2
    | some s => if sigCount es x.2 > sigCount es s then some x.2 else some s) none).getD 0

/-- A stage leader sees signatures that differ (R445); entries are (rank, signature), ascending. It is counted on F0, the die of chunk 0. -/
def Pkg.mismatch (p : Pkg) (e : Env) (m : Comm) (r : ColRun) (lv : Nat) (es : List (Nat × Nat)) : Pkg :=
  let s := majority es
  let bad := es.filter (fun x => x.2 != s)
  (p.colCount 0 (Reg.COL_CNT_MISMATCH 0) 1).abortCol e m r (colReport r.seq s lv 1 (m.rankBase p.ownLoc) bad)

/-- A wait of T has passed for members or for a result (R446): an event of class 9, counted on the die of the partition's lowest engine. -/
def Pkg.colTimeout (p : Pkg) (e : Env) (m : Comm) (r : ColRun) (lv : Nat) (missing : List Nat) : Pkg :=
  let f := ((p.ctxEngines m.ctx).headD 0) / 4
  ((p.colCount f (Reg.COL_CNT_TIMEOUT f) 1).event 9 (20 + f) 0 1 0 (leBytes 4 m.id ++ leBytes 4 r.seq)).abortCol e m r
    (colReport r.seq 0 lv 2 (m.rankBase p.ownLoc) (missing.map (fun k => (k, 0))))

/-! ### Reduction slots (R442) -/

/-- A stage's record at its leader. -/
def ColRun.stageAt (r : ColRun) (lv : Nat) : ColStage := (r.stages.find? (fun s => s.level == lv)).getD ⟨lv, 0, [], none⟩

/-- Put back a stage's record. -/
def ColRun.setStage (r : ColRun) (s : ColStage) : ColRun :=
  { r with stages := if r.stages.any (fun x => x.level == s.level) then r.stages.map (fun x => if x.level = s.level then s else x)
                     else r.stages ++ [s] }

/-- Members of a stage: local ranks at level 0, packages above. -/
def Comm.stageSize (m : Comm) (lv loc : Nat) : Nat := if lv = 0 then m.ranksAt loc else (m.stage lv loc).length

/-- The first contribution of a reducing collective reaches a stage's leader, which asks for slots; the beat decides (R442). A stage of one
member is skipped. -/
def ColRun.claim (m : Comm) (loc : Nat) (r : ColRun) (lv : Nat) : ColRun :=
  let st := r.stageAt lv
  if !reduces r.kind || st.claim ≠ 0 || m.stageSize lv loc ≤ 1 then r else r.setStage { st with claim := 3 }

/-- A stage's claim is decided: w slots on every die, or the stage falls back and its members hear of it, who reduce round the ring what they
hold; a fall-back is counted on F0 (R442, R443). -/
def Pkg.decideClaim (p : Pkg) (e : Env) (m : Comm) (r : ColRun) (lv : Nat) : Pkg × ColRun :=
  let st := r.stageAt lv
  if p.slotsClaimed m + m.window ≤ m.slots then
    let r1 := r.setStage { st with claim := 1 }
    (p.setCol r1, r1)
  else
    let own := m.idxIn lv p.ownLoc
    let r1 := { r.setStage { st with claim := 2 } with fell := true, parts := r.parts.filter (fun y => y.level != lv || y.idx == own) }
    let p1 := (p.colCount 0 (Reg.COL_CNT_FALLBACK 0 lv) 1).setCol r1
    let ds := if lv = 0 then [] else (m.stage lv p.ownLoc).filter (fun d => d != p.ownLoc)
    (ds.foldl (fun (s : Pkg) d => s.colSend e m r1.queue d tyFallback 0 (opDetour r1.op) (s.colPkt m r1 r1.sig 0 lv 0 0 [])) p1, r1)

/-- A contribution enters a stage that this package leads; in a stage that fell back only the leader's own counts. -/
def Pkg.addPart (p : Pkg) (m : Comm) (r : ColRun) (x : ColPart) : Pkg × ColRun :=
  let c := r.claim m p.ownLoc x.level
  let own : Bool := x.idx == m.idxIn x.level p.ownLoc
  let keep : Bool := ((c.stageAt x.level).claim != 2 || own) && !c.parts.any (fun y => y.level == x.level && y.unit == x.unit && y.idx == x.idx)
  let r1 := if keep then { c with parts := c.parts ++ [x] } else c
  (p.setCol r1, r1)

/-- A member's signature is heard at a stage. -/
def ColRun.hear (r : ColRun) (lv idx sig : Nat) : ColRun :=
  let st := r.stageAt lv
  if st.sigs.any (fun x => x.1 == idx) then r else r.setStage { st with sigs := st.sigs ++ [(idx, sig)] }

/-! ### Stages (R436 to R444) -/

/-- Which members of a stage contribute to a unit: all to a reduction or a barrier, the owner of the data to a copy. -/
def ColRun.contributes (m : Comm) (r : ColRun) (loc lv unit idx : Nat) : Bool :=
  match (m.stage lv loc)[idx]? with
  | none => false
  | some d =>
    let g := m.groupRanks (lv - 1) d
    if r.kind = 2 then let k := (unitSpan (opType r.op) r.n unit).1 % max 1 m.total; g.1 ≤ k && k < g.2
    else if r.kind = 3 then g.1 ≤ r.root && r.root < g.2
    else true

/-- A location's group has data to send up at a level (R438). -/
def ColRun.groupHasData (m : Comm) (r : ColRun) (loc lv : Nat) : Bool :=
  let g := m.groupRanks lv loc
  r.sig != 0 && (r.kind != 3 || (g.1 ≤ r.root && r.root < g.2))

/-- What a stage's ring, or its reduction, has formed for a unit. -/
structure Formed where
  unit : Nat
  codes : List Nat
  flags : Nat
  deriving DecidableEq, Repr

/-- Where a ring begins a unit's chunk: the lowest rank in deterministic order, else a place that no rule gives (R442). -/
def ringBegin (m : Comm) (r : ColRun) (mm unit : Nat) : Nat :=
  if opDet r.op then 0 else (Config.ringStart m.uid r.seq (unit / 32)).toNat % max 1 mm

/-- One unit of a stage that fell back, at one member: start it, or add to what came round, and pass it on (R442). -/
def Pkg.ringStep (p : Pkg) (e : Env) (m : Comm) (r : ColRun) (lv : Nat) (x : ColPart) : Pkg × ColRun :=
  let ms := m.stage lv p.ownLoc
  let mm := ms.length
  let i := m.idxIn lv p.ownLoc
  let s := ringBegin m r mm x.unit
  let came := r.ring.find? (fun y => y.level == lv && y.unit == x.unit && y.idx == 0)
  let acc : Option (List Nat × Nat × Nat) :=
    if i = s then some (x.codes, x.flags, 0)
    else match came with
      | some y => let f := colFold r.op [y, x]; some (f.1, x.flags ||| y.flags, f.2)
      | none => none
  match acc with
  | none => (p, r)
  | some (codes, fl, own) =>
    let p1 := p.commitColFlags (x.unit / 32 % 8) r.ctx own
    let last : Bool := i == (s + mm - 1) % mm
    let r1 := { r with parts := r.parts.filter (fun y => !(y.level == lv && y.unit == x.unit && y.idx == i)),
                       ring := r.ring.filter (fun y => !(y.level == lv && y.unit == x.unit && y.idx == 0)) }
    if last && i == 0 then (p1, { r1 with ring := r1.ring ++ [⟨lv, x.unit, 1, codes, fl ||| own⟩] })
    else
      let dest := if last then ms.headD 0 else ms.getD ((i + 1) % mm) 0
      (p1.sendUnit e m r1 dest tyContrib r1.sig x.unit lv (fl ||| own) (if last then 2 else 1) codes, r1)

/-- Run the ring of a level for every unit this member holds. -/
def Pkg.ringAll (p : Pkg) (e : Env) (m : Comm) (r : ColRun) (lv : Nat) : Pkg × ColRun :=
  let i := m.idxIn lv p.ownLoc
  let x := (r.parts.filter (fun y => y.level == lv && y.idx == i)).foldl (fun (s : Pkg × ColRun) y => s.1.ringStep e m s.2 lv y) (p, r)
  (x.1.setCol x.2, x.2)

/-- The units of a level that its leader can form now, and the record without their contributions: the fold of all members, or what the ring
brought (R440, R442). -/
def Pkg.formUnits (p : Pkg) (m : Comm) (r : ColRun) (lv : Nat) : Pkg × ColRun × List Formed :=
  if (r.stageAt lv).claim = 2 then
    let fs := r.ring.filter (fun y => y.level == lv && y.idx == 1)
    (p, { r with ring := r.ring.filter (fun y => !fs.contains y) }, fs.map (fun y => ⟨y.unit, y.codes, y.flags⟩))
  else
    let mine := r.parts.filter (fun y => y.level == lv)
    let us := mine.foldl (fun (acc : List Nat) y => if acc.contains y.unit then acc else acc ++ [y.unit]) []
    let whole := us.filter (fun u => (List.range (m.stage lv p.ownLoc).length).all (fun i =>
      !r.contributes m p.ownLoc lv u i || mine.any (fun y => y.unit == u && y.idx == i)))
    let out := whole.map (fun u =>
      let xs := mine.filter (fun y => y.unit == u)
      let ord := if opDet r.op then sortBy (fun a b => decide (a.idx ≤ b.idx)) xs else xs
      let f := colFold r.op ord
      (u, f.1, xs.foldl (fun a y => a ||| y.flags) 0, f.2))
    let p1 := out.foldl (fun (s : Pkg) x => s.commitColFlags (x.1 / 32 % 8) r.ctx x.2.2.2) p
    (p1, { r with parts := r.parts.filter (fun y => !(y.level == lv && whole.contains y.unit)) },
      out.map (fun x => ⟨x.1, x.2.1, x.2.2.1 ||| x.2.2.2⟩))

/-- The signature of a stage once every member's is known: agreed, or the list that differs. -/
def Pkg.sigsAt (p : Pkg) (m : Comm) (r : ColRun) (lv : Nat) : Option (Nat ⊕ List (Nat × Nat)) :=
  let ms := m.stage lv p.ownLoc
  let st := r.stageAt lv
  if ms.zipIdx.all (fun x => st.sigs.any (fun y => y.1 == x.2)) then
    let es := ms.zipIdx.map (fun x => (m.rankBase x.1, (assoc? st.sigs x.2).getD 0))
    match es with
    | [] => none
    | z :: _ => if es.all (fun y => y.2 == z.2) then some (.inl z.2) else some (.inr es)
  else none

/-- The group's signature enters the next stage: heard there, or sent up when no data carries it. -/
def Pkg.enterSig (p : Pkg) (e : Env) (m : Comm) (r : ColRun) (lv sig : Nat) : Pkg × ColRun :=
  if lv > 4 then (p, r)
  else if m.leads lv p.ownLoc then
    let r1 := r.hear lv (m.idxIn lv p.ownLoc) sig
    let st := r1.stageAt lv
    let r2 := if st.arrived.isSome then r1 else r1.setStage { st with arrived := some e.hall }
    (p.setCol r2, r2)
  else if (r.groupHasData m p.ownLoc (lv - 1) && !r.ringed) || r.told || r.sent.any (fun _ => true) then (p, r)
  else
    let r1 := { r with told := true, sent := r.sent ++ [(none, e.hall)] }
    ((p.setCol r1).sendUnit e m r1 (m.leader lv p.ownLoc) tyContrib sig 0 lv 0 0 [], r1)

/-- Contributions of this package's group go up to the leader of its stage, or round its ring (R438, R442). -/
def Pkg.sendUp (p : Pkg) (e : Env) (m : Comm) (r : ColRun) (lv : Nat) : Pkg × ColRun :=
  if r.ringed then p.ringAll e m r lv
  else
    let i := m.idxIn lv p.ownLoc
    let todo := r.parts.filter (fun y => y.level == lv && y.idx == i && !r.sent.any (fun z => z.1 == some y.unit))
    let r1 := { r with sent := r.sent ++ todo.map (fun y => (some y.unit, e.hall)) }
    ((todo.foldl (fun (s : Pkg) y => s.sendUnit e m r1 (m.leader lv p.ownLoc) tyContrib r1.sig y.unit lv y.flags 0 y.codes) p).setCol r1, r1)

/-- One level of a collective at a package: a led stage forms what it can and hands it on; the stage above it gets what was formed. -/
def Pkg.colLevel (p : Pkg) (e : Env) (m : Comm) (r : ColRun) (lv : Nat) : Pkg × ColRun :=
  if !m.leads lv p.ownLoc then p.sendUp e m r lv
  else
    let a := if (r.stageAt lv).claim = 2 then p.ringAll e m r lv else (p, r)
    match a.1.sigsAt m a.2 lv with
    | some (.inl s) =>
      -- a stage whose claim the beat has yet to decide forms nothing
      if (a.2.stageAt lv).claim = 3 then a else
      let f := a.1.formUnits m a.2 lv
      let g := f.2.2.foldl (fun (x : Pkg × ColRun) y =>
        let part : ColPart := ⟨lv + 1, y.unit, m.idxIn (lv + 1) p.ownLoc, y.codes, y.flags⟩
        if lv < 4 ∧ m.leads (lv + 1) p.ownLoc then x.1.addPart m x.2 part
        else
          let r2 := { x.2 with parts := x.2.parts ++ [part] }
          (x.1.setCol r2, r2)) (f.1.setCol f.2.1, f.2.1)
      g.1.enterSig e m g.2 (lv + 1) s
    | _ => a

/-! ### Results (R438, R439, R443) -/

/-- A code of the accumulation type, or a copied one, in the output's stored format (R432, R439, Table 02-8, R72): with its flags. -/
def colStoreCode (o : Nat) (reduced : Bool) (t : Tensor) (org rel : List Int) (c : Nat) : Nat × Nat :=
  let ty := opType o
  if ty = 2 ∨ ty = 3 then (c, 0)
  else if reduced ∨ (ty = 1 ∧ t.stored = .f32) then
    let x := convFloat t.stored t.rnd t.sat (t.stream org rel) (decodeNum (if ty = 4 then .f64 else if reduced ∨ ty = 0 then .f32 else .bf16) c)
    (x.code, x.flags)
  else (c, 0)

/-- Write elements of local rank j's output from its x-th on: what failed, and the flags of the conversions. -/
def Pkg.colWrite (p : Pkg) (e : Env) (r : ColRun) (run : Run) (it j x : Nat) (codes : List Nat) : Pkg × Bool × Nat :=
  let t := parseTensor (dHandle run.desc 2) (run.tds.getD 2 [])
  let org := handleOrigin run.desc 2 it
  codes.zipIdx.foldl (fun (s : Pkg × Bool × Nat) ci =>
    let rel := t.rankIndex j (x + ci.2)
    let v := colStoreCode r.op (reduces r.kind) t org rel ci.1
    let w := s.1.writeLocal e (t.elemAddr org rel).1.toNat (leBytes (t.stored.bits / 8) v.1)
    (w.1, s.2.1 || w.2.reason != 0, s.2.2 ||| v.2)) (p, false, 0)

/-- Iterations of a collective's loop nest (R222); a ring pass's are its steps. -/
def Pkg.colIters (p : Pkg) (r : ColRun) : Nat := match r.queue.bind p.runOf with | some u => dIters u.desc | none => 1

/-- Vectors of one iteration. -/
def ColRun.vectors (m : Comm) (r : ColRun) : Nat := if r.kind = 2 then m.total else 1

/-- Elements of a block (Table 11-6). -/
def ColRun.block (m : Comm) (r : ColRun) : Nat := r.n / max 1 m.total

/-- A location's subtree below a level needs a unit's result. -/
def ColRun.wants (m : Comm) (r : ColRun) (lv loc unit : Nat) : Bool :=
  if r.kind = 1 then
    let s := unitSpan (opType r.op) r.n unit
    let g := m.groupRanks lv loc
    s.2.1 < g.2 * r.block m && g.1 * r.block m < s.2.2
  else true

/-- Units whose results this package awaits, with those of the groups it leads. -/
def Pkg.awaited (p : Pkg) (m : Comm) (r : ColRun) : List Nat :=
  if r.kind = 5 then [0]
  else ((List.range (p.colIters r * r.vectors m)).map (fun v => unitsOf (opType r.op) r.n v)).flatten.filter
    (fun u => r.wants m (m.lead p.ownLoc) p.ownLoc u)

/-- The local ranks' outputs take a unit: which elements each rank keeps, and where they stand in its output (Table 11-6). -/
def Pkg.colOutput (p : Pkg) (e : Env) (m : Comm) (r : ColRun) (run : Run) (x : Formed) : Pkg × Bool × Nat :=
  let s := unitSpan (opType r.op) r.n x.unit
  let b := r.block m
  let base := m.rankBase p.ownLoc
  (List.range (m.ranksAt p.ownLoc)).foldl (fun (a : Pkg × Bool × Nat) j =>
    let k := base + j
    let (it, at_, codes) : Nat × Nat × List Nat :=
      if r.kind = 1 then
        let lo := max s.2.1 (k * b)
        let hi := min s.2.2 ((k + 1) * b)
        (s.1, lo - k * b, (x.codes.drop (lo - s.2.1)).take (hi - lo))
      else if r.kind = 2 then (s.1 / max 1 m.total, s.1 % max 1 m.total * r.n + s.2.1, x.codes)
      else (s.1, s.2.1, x.codes)
    let w := a.1.colWrite e r run it j at_ codes
    (w.1, a.2.1 || w.2.1, a.2.2 ||| w.2.2)) (p, false, 0)

/-- A result reaches this package: it goes down to the members of the stages led here that want it, and into the local outputs (R438). -/
def Pkg.deliver (p : Pkg) (e : Env) (m : Comm) (r : ColRun) (x : Formed) : Pkg × ColRun :=
  if r.downs.contains x.unit then (p, r)
  else
    let r1 := { r with downs := r.downs ++ [x.unit], parts := r.parts.filter (fun y => y.unit != x.unit) }
    let p1 := (List.range (m.lead p.ownLoc + 1)).foldl (fun (s : Pkg) lv =>
      if lv = 0 then s
      else ((m.stage lv s.ownLoc).filter (fun d => d != s.ownLoc && r.wants m (lv - 1) d x.unit)).foldl (fun (t : Pkg) d =>
        t.sendUnit e m r1 d tyResult r1.sig x.unit lv x.flags 0 x.codes) s) (p.setCol r1)
    match r1.queue.bind p1.runOf with
    | none => (p1, r1)
    | some u =>
      let w := if r.kind = 5 then (p1, false, 0) else p1.colOutput e m r1 u x
      let q := r1.queue.getD 0
      (w.1.updRun q (fun v =>
        let v1 := { v with flags := v.flags ||| x.flags ||| w.2.2 }
        if w.2.1 then { v1.abort e.tag 0x0a with undef := true } else v1), r1)

/-- A collective whose results have all been delivered is served: its slots return, and each stage that reduced in the network is counted on
F0 (R442, R443); with any stage fallen back it ends with 0x02. -/
def Pkg.finishCol (p : Pkg) (e : Env) (r : ColRun) : Pkg :=
  let p1 := (r.stages.filter (fun s => s.claim == 1)).foldl (fun (s : Pkg) st => s.colCount 0 (Reg.COL_CNT_INNET 0 st.level) 1) p
  (match r.queue with
   | some q => p1.updRun q (fun u => { (if r.fell then u.raise e.tag 2 else u) with finished := true, endBeat := e.tag })
   | none => p1).dropCol r

/-! ### Ring pass (R449, R450) -/

/-- Bytes of a ring pass's block. -/
def ringBlock (run : Run) : Nat :=
  let t := parseTensor (dHandle run.desc 0) (run.tds.getD 0 [])
  t.rankElems * (t.stored.bits / 8)

/-- The bytes of local rank j's block at a step, with the addresses they have in the successor's buffer; a read that fails gives none. -/
def Pkg.ringBytes (p : Pkg) (e : Env) (run : Run) (s j next : Nat) : Pkg × Option (List Segment) :=
  let a := parseTensor (dHandle run.desc 0) (run.tds.getD 0 [])
  let b := parseTensor (dHandle run.desc 2) (run.tds.getD 2 [])
  let oa := handleOrigin run.desc 0 s
  let ob := handleOrigin run.desc 2 s
  let w := a.stored.bits / 8
  let out := (List.range a.rankElems).foldl (fun (acc : Pkg × Bool × List (Nat × Byte)) x =>
    let src := (a.elemAddr oa (a.rankIndex j x)).1.toNat
    let d0 := b.size 0
    let d3 := b.size 3
    let dst := (b.elemAddr ob [((x % d0 : Nat) : Int), (next : Int), ((s % 2 : Nat) : Int), ((x / d0 % d3 : Nat) : Int),
      ((x / (d0 * d3) : Nat) : Int)]).1.toNat
    let g := readLocal e acc.1 src w
    (g.1, acc.2.1 || g.2.reason != 0, acc.2.2 ++ g.2.data.zipIdx.map (fun bi => (dst + bi.2, bi.1)))) (p, false, [])
  (out.1, if out.2.1 then none else some (segmentsOf out.2.2))

/-- Cut a segment into pieces of up to 128 bytes that stay within one line. -/
def smallPieces (g : Segment) : List (Nat × List Byte) :=
  ((linePieces g.addr g.bytes).map (fun x =>
    (List.range (ceilDiv x.2.length 128)).map (fun i => (x.1 + 128 * i, (x.2.drop (128 * i)).take 128)))).flatten

/-- Bytes of a step landed for a local rank. -/
def ColRun.addLanded (r : ColRun) (j s n : Nat) : ColRun :=
  let same (x : Nat × Nat × Nat) : Bool := x.1 == j && x.2.1 == s
  { r with landed := if r.landed.any same then r.landed.map (fun x => if same x then (j, s, x.2.2 + n) else x) else r.landed ++ [(j, s, n)] }

/-- Blocks that have landed in full, step after step, add 1 each to RF + j (R450). -/
def Pkg.ringLand (p : Pkg) (r : ColRun) (run : Run) (ranks : Nat) : Pkg × ColRun :=
  let rf := r.root % 4096
  (List.range ranks).foldl (fun (s : Pkg × ColRun) j =>
    (List.range (dIters run.desc)).foldl (fun (t : Pkg × ColRun) _ =>
      let n := (assoc? t.2.counted j).getD 0
      if t.2.landed.any (fun x => x.1 == j && x.2.1 == n && x.2.2 ≥ ringBlock run) then
        (t.1.addFlag (t.1.leadDie r.ctx) r.ctx (rf + j) 1, { t.2 with counted := assocPut t.2.counted j (n + 1) })
      else t) s) (p, r)

/-- What a rank knows of its successor's consumed flag: the flag itself inside the package, else the last CREDIT. -/
def Pkg.creditOf (p : Pkg) (m : Comm) (r : ColRun) (j : Nat) : Nat :=
  let k := (m.rankBase p.ownLoc + j + 1) % max 1 m.total
  if m.locOf k = p.ownLoc then p.flag r.ctx (bitsOf r.root 27 16 + (k - m.rankBase p.ownLoc)) else (assoc? r.credits j).getD 0

/-- Send every block that may go: gated by its input, and from step 2 on by the successor's credit (R450). -/
def Pkg.ringPump (p : Pkg) (e : Env) (m : Comm) (r : ColRun) (run : Run) : Pkg × ColRun :=
  let base := m.rankBase p.ownLoc
  (List.range (m.ranksAt p.ownLoc)).foldl (fun (acc : Pkg × ColRun) j =>
    (List.range (dIters run.desc)).foldl (fun (t : Pkg × ColRun) _ =>
      let s := (assoc? t.2.steps j).getD 0
      if s ≥ dIters run.desc || s ≥ t.2.chunks || (s ≥ 2 && t.1.creditOf m t.2 j < s - 1) then t
      else
        let k := (base + j + 1) % max 1 m.total
        let d := m.locOf k
        let next := k - m.rankBase d
        let x := t.1.ringBytes e run s j next
        let r1 := { t.2 with steps := assocPut t.2.steps j (s + 1) }
        match x.2 with
        | none => (x.1.updRun run.queue (fun u => { u.abort e.tag 0x0a with undef := true, finished := true }), { r1 with steps := assocPut t.2.steps j (dIters run.desc) })
        | some gs =>
          let ps := (gs.map smallPieces).flatten
          if d = x.1.ownLoc then
            ps.foldl (fun (u : Pkg × ColRun) ab => ((u.1.writeLocal e ab.1 ab.2).1, u.2.addLanded next s ab.2.length)) (x.1, r1)
          else
            (ps.foldl (fun (u : Pkg) ab => u.colSend e m r1.queue d tyResult ab.1 (opDetour r1.op)
              ⟨r1.sig, r1.seq, s, 0, base + j, 0, false, 6, 0, m.uid, ab.2⟩) x.1, r1)) acc) (p, r)

/-- A ring pass's step at this package: blocks go, landed ones count, and after the last it is done (R450). -/
def Pkg.ringFlow (p : Pkg) (e : Env) (m : Comm) (r : ColRun) : Pkg :=
  match r.queue.bind p.runOf with
  | none => p.setCol r
  | some u =>
    let x := p.ringPump e m r u
    let y := x.1.ringLand x.2 u (m.ranksAt p.ownLoc)
    let done : Bool := (List.range (m.ranksAt p.ownLoc)).all (fun j =>
      (assoc? y.2.counted j).getD 0 ≥ dIters u.desc && (assoc? y.2.steps j).getD 0 ≥ dIters u.desc)
    if done then y.1.finishCol e y.2 else y.1.setCol y.2

/-- Each later rise of CF + j goes to the predecessor as a CREDIT (R450). -/
def Pkg.ringCredits (p : Pkg) (e : Env) (m : Comm) (r : ColRun) : Pkg :=
  let base := m.rankBase p.ownLoc
  let x := (List.range (m.ranksAt p.ownLoc)).foldl (fun (s : Pkg × ColRun) j =>
    let v := s.1.flag r.ctx (bitsOf r.root 27 16 + j)
    let k := (base + j + m.total - 1) % max 1 m.total
    let d := m.locOf k
    if v = (assoc? s.2.seen j).getD 0 then s
    else
      let r1 := { s.2 with seen := assocPut s.2.seen j v }
      if d = s.1.ownLoc then (s.1, r1)
      else (s.1.colSend e m r.queue d tyCredit 0 (opDetour r.op) ⟨r.sig, r.seq, v % 2 ^ 32, 0, base + j, 0, false, 6, 0, m.uid, []⟩, r1)) (p, r)
  x.1.setCol x.2

/-! ### All-to-all (R438) -/

/-- The unit of a block from a rank to a local rank of its receiver. -/
def a2aUnit (m : Comm) (r : ColRun) (it src j u : Nat) : Nat :=
  let b := r.block m
  ((it * m.total + src) * 8 + j) * 32 * colChunks (opType r.op) b + u

/-- A block's unit lands: into local rank j's output, block by source rank. -/
def Pkg.a2aLand (p : Pkg) (e : Env) (m : Comm) (r : ColRun) (x : Formed) : Pkg × ColRun :=
  if r.downs.contains x.unit then (p, r)
  else match r.queue.bind p.runOf with
    | none => (p, r)
    | some u =>
      let b := r.block m
      let s := unitSpan (opType r.op) b x.unit
      let src := s.1 / 8 % max 1 m.total
      let r1 := { r with downs := r.downs ++ [x.unit] }
      let w := p.colWrite e r1 u (s.1 / 8 / max 1 m.total) (s.1 % 8) (src * b + s.2.1) x.codes
      (w.1.updRun u.queue (fun v =>
        let v1 := { v with flags := v.flags ||| w.2.2 }
        if w.2.1 then { v1.abort e.tag 0x0a with undef := true } else v1), r1)

/-- Units an all-to-all awaits here. -/
def Pkg.a2aAwaited (p : Pkg) (m : Comm) (r : ColRun) : List Nat :=
  let n := ceilDiv (r.block m) (unitElems (opType r.op))
  ((List.range (p.colIters r)).map (fun it => ((List.range m.total).map (fun k => ((List.range (m.ranksAt p.ownLoc)).map (fun j =>
    (List.range n).map (fun u => a2aUnit m r it k j u))).flatten)).flatten)).flatten

/-! ### The flow of a started collective -/

/-- A started collective goes as far as what has arrived admits; a stage whose signatures differ ends it (R445). -/
def Pkg.colFlow (p : Pkg) (e : Env) (m : Comm) (r : ColRun) : Pkg :=
  if !r.started then p.setCol r
  else if r.kind = 6 ∧ r.sig ≠ 0 then
    (match (r.stageAt 0).sigs.find? (fun x => x.2 != r.sig) with
     | some x => p.mismatch e m r 0 (sortBy (fun a b => decide (a.1 ≤ b.1)) [(m.rankBase p.ownLoc, r.sig), x])
     | none => p.ringFlow e m r)
  else if r.kind = 4 ∧ r.sig ≠ 0 then
    (match (r.stageAt 0).sigs.find? (fun x => x.2 != r.sig) with
     | some x => p.mismatch e m r 0 (sortBy (fun a b => decide (a.1 ≤ b.1)) [(m.rankBase p.ownLoc, r.sig), x])
     | none =>
       let early := r.parts.filter (fun y => y.level == 0)
       let x := early.foldl (fun (s : Pkg × ColRun) y => s.1.a2aLand e m s.2 ⟨y.unit, y.codes, 0⟩)
         (p, { r with parts := r.parts.filter (fun y => y.level != 0) })
       if (x.1.a2aAwaited m x.2).all (fun u => x.2.downs.contains u) then x.1.finishCol e x.2 else x.1.setCol x.2)
  else if r.kind = 4 ∨ r.kind = 6 then p.setCol r
  else
    let x := [1, 2, 3, 4].foldl (fun (s : Pkg × ColRun) lv =>
      if lv ≤ m.lead p.ownLoc + 1 then s.1.colLevel e m s.2 lv else s) (p, r)
    let split := [1, 2, 3, 4].findSome? (fun lv =>
      if m.leads lv p.ownLoc then (match x.1.sigsAt m x.2 lv with | some (.inr es) => some (lv, es) | _ => none) else none)
    match split with
    | some (lv, es) => x.1.mismatch e m x.2 lv es
    | none =>
      let tops := x.2.parts.filter (fun y => y.level == 5)
      let y := tops.foldl (fun (s : Pkg × ColRun) z => s.1.deliver e m s.2 ⟨z.unit, z.codes, z.flags⟩) x
      if y.2.sig ≠ 0 ∧ (y.1.awaited m y.2).all (fun u => y.2.downs.contains u) then y.1.finishCol e y.2 else y.1.setCol y.2

end Sys2Proof.Machine
end

