-- ==== Sys2Proof/Machine/Collect.lean ====
section
/-! DEFINITION. The commands of the collectives (spec 11_collectives_and_mapping.md, R418 to R450): their descriptors, the packets of Table
11-8, SETUP and RELEASE, trigger arming, gates, timeouts and busy windows. -/

namespace Sys2Proof.Machine

/-! ### Reading the input (R433, R437) -/

/-- The descriptor's operation word, with the mode that the context may force (R468). -/
def Pkg.colOp (p : Pkg) (c : Nat) (d : List Byte) : Nat :=
  if p.on (Reg.TIM_CTX_CFG c) Fld.TIM_DETMODE then dOp d ||| 128 else dOp d

/-- Fields of the 16-byte parameter block of R433. -/
def gCounter (b : List Byte) : Nat := leAt b 4 2
def gEngine (b : List Byte) : Nat := leAt b 6 1
def gUnit (b : List Byte) : Nat := leAt b 8 8
def gated (b : List Byte) : Bool := gCounter b != 0xffff

/-- Chunks of one iteration's input; a ring pass takes its block whole. -/
def ColRun.inChunks (r : ColRun) : Nat := if r.kind = 6 then 1 else colChunks (opType r.op) r.n

/-- End byte of a chunk in the input: behind the last of its elements in any local rank, in the tensor's logical order. -/
def gateEnd (run : Run) (ranks : Nat) (r : ColRun) (c : Nat) : Nat :=
  let t := parseTensor (dHandle run.desc 0) (run.tds.getD 0 [])
  let per := max 1 r.inChunks
  let org := handleOrigin run.desc 0 (c / per)
  let last := if r.kind = 6 then r.n - 1 else min r.n ((c % per + 1) * chunkElems (opType r.op)) - 1
  ((List.range ranks).map (fun j => (t.logical org (t.rankIndex j last) + 1) * (t.stored.bits / 8))).foldl max 0

/-- The gate admits a chunk (R433). -/
def Pkg.gateMet (p : Pkg) (run : Run) (ranks : Nat) (r : ColRun) (c : Nat) : Bool :=
  !gated run.params ||
  ((p.regNat (Reg.COL_TCNT (gEngine run.params) (gCounter run.params)) + 2 ^ 64 - r.base) % 2 ^ 64) * gUnit run.params ≥ gateEnd run ranks r c

/-- Codes of elements [lo, hi) of local rank j's input in an iteration, as stored; a failed read says so. -/
def Pkg.colRead (p : Pkg) (e : Env) (run : Run) (it j lo hi : Nat) : Pkg × Bool × List Nat :=
  let t := parseTensor (dHandle run.desc 0) (run.tds.getD 0 [])
  let org := handleOrigin run.desc 0 it
  (List.range (hi - lo)).foldl (fun (s : Pkg × Bool × List Nat) i =>
    let g := readLocal e s.1 (t.elemAddr org (t.rankIndex j (lo + i))).1.toNat (t.stored.bits / 8)
    (g.1, s.2.1 || g.2.reason != 0, s.2.2 ++ [leNat g.2.data])) (p, false, [])

/-- Stage 0 of a reduction: the local ranks' codes of a unit folded, from the lowest rank or, when the stage fell back without a
deterministic order, from where its ring begins (R436, R439, R440, R442). -/
def stageZero (m : Comm) (r : ColRun) (unit : Nat) (xs : List (List Nat)) : List Nat × Nat :=
  let ps : List ColPart := xs.zipIdx.map (fun x => ⟨0, unit, x.2, x.1.map (colWiden (opType r.op)), 0⟩)
  let s := if (r.stageAt 0).claim = 2 then ringBegin m r ps.length unit else 0
  colFold r.op (ps.drop s ++ ps.take s)

/-- Read a unit's elements of every local rank. -/
def Pkg.readUnit (p : Pkg) (e : Env) (run : Run) (ranks it lo hi : Nat) : Pkg × Bool × List (List Nat) :=
  (List.range ranks).foldl (fun (s : Pkg × Bool × List (List Nat)) j =>
    let g := s.1.colRead e run it j lo hi
    (g.1, s.2.1 || g.2.1, s.2.2 ++ [g.2.2])) (p, false, [])

/-- A contribution of this package's own enters stage 1. -/
def Pkg.ownPart (p : Pkg) (m : Comm) (r : ColRun) (unit : Nat) (codes : List Nat) (fl : Nat) : Pkg × ColRun :=
  let x : ColPart := ⟨1, unit, m.idxIn 1 p.ownLoc, codes, fl⟩
  if m.leads 1 p.ownLoc then p.addPart m r x
  else let r1 := { r with parts := r.parts ++ [x] }; (p.setCol r1, r1)

/-- Read one chunk of the input and let it enter (R433, R437): a reduction folds the local ranks, a copy takes each rank's elements as they
are, an all-to-all sends the block units that end in the chunk. The flag says that a read failed. -/
def Pkg.readChunk (p : Pkg) (e : Env) (m : Comm) (run : Run) (r : ColRun) (c : Nat) : Pkg × ColRun × Bool :=
  let ty := opType r.op
  let per := max 1 r.inChunks
  let it := c / per
  let ranks := m.ranksAt p.ownLoc
  let base := m.rankBase p.ownLoc
  let lo := c % per * chunkElems ty
  let hi := min r.n (lo + chunkElems ty)
  let step := unitElems ty
  if r.kind = 4 then
    let b := r.block m
    (List.range m.total).foldl (fun (s : Pkg × ColRun × Bool) k =>
      let d := m.locOf k
      let j := k - m.rankBase d
      (List.range (ceilDiv b step)).foldl (fun (t : Pkg × ColRun × Bool) u =>
        let x := k * b + u * step
        let y := k * b + min b (u * step + step)
        if !(lo < y && y ≤ hi) then t
        else (List.range ranks).foldl (fun (v : Pkg × ColRun × Bool) i =>
          let g := v.1.colRead e run it i x y
          let unit := a2aUnit m v.2.1 it (base + i) j u
          if g.2.1 then (g.1, v.2.1, true)
          else if d = g.1.ownLoc then let z := g.1.a2aLand e m v.2.1 ⟨unit, g.2.2, 0⟩; (z.1, z.2, v.2.2)
          else (g.1.colSend e m v.2.1.queue d tyResult (128 * (unit % 32)) (opDetour v.2.1.op)
            { (g.1.colPkt m v.2.1 v.2.1.sig unit 0 0 0 ((g.2.2.map (leBytes (accBytes ty))).flatten)) with idx := base + i }, v.2.1, v.2.2)) t) s)
      (p, r, false)
  else
    (List.range (ceilDiv (hi - lo) step)).foldl (fun (s : Pkg × ColRun × Bool) u =>
      let x := lo + u * step
      let y := min hi (x + step)
      if reduces r.kind then
        let g := s.1.readUnit e run ranks it x y
        let unit := it * 32 * colChunks ty r.n + x / step
        let f := stageZero m s.2.1 unit g.2.2
        let q := if ranks > 1 then g.1.commitColFlags (unit / 32 % 8) r.ctx f.2 else g.1
        let z := q.ownPart m s.2.1 unit f.1 f.2
        (z.1, z.2, s.2.2 || g.2.1)
      else
        (List.range ranks).foldl (fun (v : Pkg × ColRun × Bool) j =>
          if r.kind = 3 ∧ base + j ≠ r.root then v
          else
            let g := v.1.colRead e run it j x y
            let vec := if r.kind = 2 then it * m.total + base + j else it
            let z := g.1.ownPart m v.2.1 (vec * 32 * colChunks ty r.n + x / step) g.2.2 0
            (z.1, z.2, v.2.2 || g.2.1)) s) (p, r, false)

/-- The input's chunks over all iterations: none for a barrier. -/
def Pkg.allChunks (p : Pkg) (r : ColRun) : Nat := if r.kind = 5 then 0 else p.colIters r * r.inChunks

/-- Read every further chunk that the gate admits, then let the collective go on: a reduction of several local ranks first claims its slots for
stage 0 (R442). A read that fails ends the descriptor with cause 0x0A (R322). -/
def Pkg.colAdmit (p : Pkg) (e : Env) (m : Comm) (r : ColRun) : Pkg :=
  match r.queue.bind p.runOf with
  | none => p.colFlow e m r
  | some u =>
    let ranks := m.ranksAt p.ownLoc
    let more := (List.range (p.allChunks r)).drop r.chunks |>.takeWhile (fun c => p.gateMet u ranks r c)
    let r0 := if more.isEmpty then r else r.claim m p.ownLoc 0
    if (r0.stageAt 0).claim = 3 then p.colFlow e m r0 else
    let r1 := { r with chunks := r.chunks + more.length }
    let x := if r.kind = 6 then (p, r1, false)
      else more.foldl (fun (s : Pkg × ColRun × Bool) c =>
        let y := s.1.readChunk e m u s.2.1 c
        (y.1, y.2.1, s.2.2 || y.2.2)) (p.setCol r1, r1, false)
    if x.2.2 then
      (x.1.updRun u.queue (fun v => { v.abort e.tag 0x0a with undef := true, finished := true, endBeat := e.tag })).dropCol x.2.1
    else x.1.colFlow e m x.2.1

/-! ### Checks before start (R430 to R435, Table 11-7) -/

/-- Parameter bits of R433 that must be zero. -/
def colParamBad (kind : Nat) (b : List Byte) : Bool :=
  leAt b 7 1 != 0 ||
  (if kind = 3 then false else if kind = 6 then bitsOf (leAt b 0 4) 15 12 != 0 || bitsOf (leAt b 0 4) 31 28 != 0 else leAt b 0 4 != 0)

/-- The types of R432. -/
def colTypeBad (o : Nat) (a b : Tensor) : Bool :=
  let ty := opType o
  a.stored != colInFmt ty || a.view != a.stored || b.view != b.stored ||
  !(b.stored == colInFmt ty || (ty == 1 && b.stored == .f32)) ||
  (reduces (opKind o) && ((ty == 4 && !opDet o) || (opRop o ≥ 3 && ty != 2 && ty != 3)))

/-- The shapes of R431 and Table 11-6. -/
def colShapeBad (o ranks total : Nat) (a b : Tensor) : Bool :=
  let n := a.rankElems
  let kind := opKind o
  a.size 1 != ranks || b.size 1 != ranks ||
  ((kind == 1 || kind == 4) && n % max 1 total != 0) ||
  (match kind with
   | 1 => b.rankElems != n / max 1 total
   | 2 => b.rankElems != total * n
   | 6 => b.size 2 != 2 || b.size 0 * b.size 3 * b.size 4 != n
   | _ => b.rankElems != n)

/-- The cause of Table 11-7 that a collective descriptor meets first, or 0. -/
def Pkg.colCause (p : Pkg) (c : Nat) (d b : List Byte) : Nat :=
  let o := p.colOp c d
  let ts := [0, 2].map (fun h => (p.examine c d h).2)
  let a := ts.getD 0 (parseTensor 0 [])
  let z := ts.getD 1 (parseTensor 0 [])
  let bar : Bool := opKind o == 5
  match p.comm? c (opComm o) with
  | none => 0x60
  | some m =>
    if m.queue.isSome then 0x60
    else if !bar && colTypeBad o a z then 0x61
    else if !bar && colShapeBad o (m.ranksAt p.ownLoc) m.total a z then 0x62
    else if opKind o == 3 && leAt b 0 4 ≥ m.total then 0x63
    else if gated b && (gCounter b ≥ 16384 || !(p.ctxEngines c).contains (gEngine b)) then 0x66
    else if dJclass d != 2 then 0x67
    else 0

/-- A table that a SETUP or TRIG_ARM reads from memory: 0x12 when another partition owns a line of it, cause 0x05 when a line lies in no
valid, ready region (R40, R221, R638). -/
def Pkg.tableVerdict (p : Pkg) (c : Nat) (ranges : List (Nat × Nat)) : Verdict :=
  let rs := (ranges.map (fun x => (linesOf x.1 x.2).map p.regionAt)).flatten
  if rs.any (fun r => match r with | some x => x.owner != c | none => false) then some (0x12, 0)
  else if rs.any Option.isNone then some (0x3f, 0x05)
  else none

/-- A parameter block that is missing, holds set reserved bits, or lies in a hole. -/
def Pkg.paramVerdict (p : Pkg) (c : Nat) (d b : List Byte) (len : Nat) (bad : Bool) : Verdict :=
  firstFail [abortIf (!dHasParam d) 0x01, abortIf (!p.noHole (p.paramAddr c d) len) 0x05, abortIf (bad && b.length == len) 0x01]

/-- Take the next sequence number of a communicator (R435). -/
def Pkg.takeSeq (p : Pkg) (m : Comm) : Pkg × Nat := (p.setComm { m with next := (m.next + 1) % 2 ^ 32 }, m.next)

/-- The record of a collective that starts here: what other members' packets have already brought, or a new one. -/
def Pkg.colOf (p : Pkg) (m : Comm) (seq kind : Nat) : ColRun := (p.colRun? m.ctx m.id seq).getD (newCol m.ctx m.id seq kind)

/-- Contributions that came before the local descriptor are bytes still; with the element type known they become codes. -/
def ColRun.decodeEarly (r : ColRun) : ColRun :=
  let w := accBytes (opType r.op)
  let f (x : ColPart) : ColPart := { x with codes := (List.range (x.codes.length / w)).map (fun i =>
    leNat (((x.codes.drop (w * i)).take w).map (fun n => BitVec.ofNat 8 n))) }
  { r with parts := r.parts.map f, ring := r.ring.map f }

/-- A descriptor that failed R434 takes part with signature 0: its group's leaders hear it, an all-to-all or a ring pass tells every member. -/
def Pkg.takePartFailed (p : Pkg) (e : Env) (m : Comm) (o : Nat) : Pkg :=
  let s := p.takeSeq m
  let r0 := s.1.colOf m s.2 (opKind o)
  if r0.ended.isSome then s.1.dropCol r0
  else
    let r : ColRun := { r0 with started := true, sig := 0, op := o, kind := opKind o, queue := none }
    if opKind o = 4 ∨ opKind o = 6 then
      (m.others s.1.ownLoc).foldl (fun (u : Pkg) d => u.colSend e m none d tyResult 0 (opDetour o)
        { (u.colPkt m r 0 0 0 0 0 []) with idx := m.rankBase u.ownLoc }) (s.1.dropCol r)
    else
      let x := (s.1.setCol r).enterSig e m r 1 0
      x.1.colFlow e m x.2

/-- A collective that passed its checks takes its number and enters its communicator's first level (R434 to R438); one that had ended here before
it started takes that report. -/
def Pkg.enterCollective (p : Pkg) (e : Env) (q kind : Nat) (d b : List Byte) (m : Comm) : Pkg :=
  let c := p.queueCtx q
  let o := p.colOp c d
  let s := (p.enterRun (p.newRun e q d b)).takeSeq m
  let r0 := s.1.colOf m s.2 kind
  let n := match assoc? (p.tensors c d (if kind = 5 then [] else [0, 2])) 0 with | some t => t.rankElems | none => 0
  let r : ColRun := ColRun.decodeEarly { r0 with
    queue := some q, started := true, op := o, kind := kind, n := n, sig := colSig m.uid s.2 o n
    root := if kind = 3 ∨ kind = 6 then leAt b 0 4 else 0
    base := if gated b then s.1.regNat (Reg.COL_TCNT (gEngine b) (gCounter b)) else 0
    seen := (List.range (m.ranksAt p.ownLoc)).map (fun j => (j, s.1.flag c (bitsOf (leAt b 0 4) 27 16 + j))) }
  match r0.ended with
  | some rep => ((s.1.updRun q (fun u => u.endByReport e rep)).dropCol r0).settle e
  | none =>
    let r1 := if kind = 5 then { r with parts := r.parts ++ [⟨1, 0, m.idxIn 1 p.ownLoc, [], 0⟩] } else r
    let r2 := if kind = 4 ∨ kind = 6 then { r1 with sent := [(none, e.hall)] } else r1
    let x := if kind = 4 ∨ kind = 6 then (s.1.setCol r2, r2) else (s.1.setCol r2).enterSig e m r2 1 r2.sig
    (x.1.colAdmit e m x.2).settle e

/-- What the dispatcher reads for a collective: its handles' entries and its parameter block. -/
def Pkg.colReads (p : Pkg) (c : Nat) (d : List Byte) (kind : Nat) : List (Nat × Nat) :=
  p.entryReads c d (if kind = 5 then [] else [0, 2]) ++ p.paramReads c d 16

/-- A collective of a kind starts (R434, R435, R638). -/
def startCollective (kind q : Nat) (e : Env) (p : Pkg) : Pkg :=
  p.start e q (fun d => dKind d == 4 && dOp d % 16 == kind)
    (fun d => p.colReads (p.queueCtx q) d kind) (fun p d =>
    let c := p.queueCtx q
    let b := p.paramBytes c d 16
    let hs := if kind = 5 then [] else [0, 2]
    let ts := p.tensors c d hs
    let o := p.colOp c d
    p.orRun e q d (firstFail [p.handleVerdict c d false (fun _ _ => false) hs, p.paramVerdict c d b 16 (colParamBad kind b)])
      (let cause := p.colCause c d b
       if cause ≠ 0 then
         let p1 := p.completeHead e q d 0x3f cause
         match p.comm? c (opComm o) with
         | some m => if m.queue.isSome then p1 else (p1.takePartFailed e m o).settle e
         | none => p1
       else
         p.orRun e q d (firstFail (p.nestVerdicts c d ts ++ [p.bandwidthVerdict c ts,
             if (p.ctxEngines c).any (fun en => p.dieLost (20 + en / 4)) then some (0x37, 0) else none]))
           (match p.comm? c (opComm o) with
            | none => p
            | some m => p.enterCollective e q kind d b m)))

/-! ### Packets of collectives on arrival (R441 to R445, R450, R601) -/

/-- Bring a collective packet into effect. -/
def Pkg.takeCol (p : Pkg) (e : Env) (m : Comm) (src ty off : Nat) (x : ColPkt) : Pkg :=
  -- a packet of a collective that has ended here is late
  let late : Bool := (p.colRun? m.ctx m.id x.seq).isNone && seqBefore x.seq m.next
  if late then p
  else
    let r := p.colOf m x.seq x.kind
    if r.ended.isSome then p
    else
      let here := p.ownLoc
      let w := accBytes (opType r.op)
      let lv := x.level
      -- until the local descriptor tells the element type, data is kept as bytes
      let codes : List Nat := if r.started then (List.range (x.data.length / w)).map (fun i => leAt x.data (w * i) w) else x.data.map (fun b => b.toNat)
      let unit := 32 * x.chunk + off % 4096 / 128
      if ty = tyAbort then p.endCol e m r x.data
      else if ty = tyFallback then
        let r1 := { r with ringed := true, fell := true }
        (p.setCol r1).colFlow e m r1
      else if ty = tyCredit then
        let r1 := { r with credits := assocPut r.credits ((x.idx + m.total - 1) % max 1 m.total - m.rankBase here) x.chunk }
        (p.setCol r1).colFlow e m r1
      else if ty = tyContrib then
        if x.mark = 1 ∨ x.mark = 2 then
          -- a ring's part comes round, or its end reaches the leader
          let r1 := { r with fell := true, ring := r.ring ++ [⟨lv, unit, x.mark - 1, codes, x.flags⟩] }
          (p.setCol r1).colFlow e m r1
        else if !(m.leads lv here && (m.stage lv here)[x.idx]? == some src) then p
        else
          let r1 := { (r.hear lv x.idx x.sig) with fell := r.fell || x.fell }
          let y := if x.data.isEmpty && x.kind ≠ 5 then (p.setCol r1, r1)
            else (p.setCol r1).addPart m r1 ⟨lv, unit, x.idx, codes, x.flags⟩
          y.1.colFlow e m y.2
      else if x.kind = 6 then
        -- a ring pass's block lands at its real address
        let r1 := r.hear 0 x.idx x.sig
        let p1 := if x.data.isEmpty then p else (p.writeLocal e off x.data).1
        let j := (x.idx + 1) % max 1 m.total - m.rankBase here
        let r2 := if x.data.isEmpty then r1 else r1.addLanded j x.chunk x.data.length
        (p1.setCol r2).colFlow e m r2
      else if x.kind = 4 then
        let r1 := r.hear 0 x.idx x.sig
        let r2 := if x.data.isEmpty then r1
          else { r1 with parts := r1.parts ++ [⟨0, unit, x.idx, codes, 0⟩] }
        (p.setCol r2).colFlow e m r2
      else if r.started && r.sig == x.sig && lv ≤ 4 && m.leader lv here == src then
        let r1 := { r with fell := r.fell || x.fell }
        let y := (p.setCol r1).deliver e m r1 ⟨unit, codes, x.flags⟩
        y.1.colFlow e m y.2
      else p

/-- The right a collective packet needs (R601): CONTRIB, RESULT and CREDIT need W on a region of the communicator's partition, a ring pass's
data on the region it lands in. -/
def Pkg.colGranted (p : Pkg) (m : Comm) (src ty off : Nat) (x : ColPkt) : Bool :=
  if ty = tyAbort ∨ ty = tyFallback ∨ ty = tySetup then true
  else if ty = tyResult ∧ x.kind = 6 ∧ !x.data.isEmpty then
    (match p.regionAt off with | some r => p.aclGrants src rightW r.num false && r.holds (off + x.data.length - 1) | none => false)
  else (List.range 64).any (fun n => let r := p.region n; r.valid && r.owner == m.ctx && p.aclGrants src rightW n false)

/-- The communicator a packet names: by its UID, its source a member. -/
def Pkg.commOf (p : Pkg) (src uid : Nat) : Option Comm :=
  p.col.comms.find? (fun m => m.uid == uid && m.queue.isNone && m.members.any (fun x => x.1 == src))

/-- Serve a collective packet once and answer it (R400, R441). -/
def Pkg.serveCol (p : Pkg) (e : Env) (k : FabPkt) : Pkg :=
  let h := parseHdr k.header
  let f := portFab k.port
  let x := parseCol k.payload
  let bad := formatReason p.topo h k.payload
  if bad ≠ 0 then p.violationNack k.port h k.seq bad
  else if h.epoch ≠ p.regNat Reg.FAB_EPOCH then p.nackPkt f h k.seq 0x58
  else if (p.inFlow h.src h.eng h.cls).applied.contains k.seq then
    (p.fabCount (homeDie h.addr) (Reg.FAB_CNT_DUP (homeDie h.addr)) 1).answerPkt h k.seq tyReply 0 0 []
  else
    match p.commOf h.src x.uid with
    | none => (p.noteApplied h.src h.eng h.cls k.seq).answerPkt h k.seq tyReply 0 0 []
    | some m =>
      if !p.colGranted m h.src h.ty (addrOff h.addr) x then p.nackPkt f h k.seq 0x54
      else
        (((p.noteApplied h.src h.eng h.cls k.seq).answerPkt h k.seq tyReply 0 0 []).takeCol e m h.src h.ty (addrOff h.addr) x).settle e

/-- A collective packet of a type arrives on a port. -/
def colPacket (ty port : Nat) (pkt : RawPacket) (serve : Env → Pkg → FabPkt → Pkg) (e : Env) (p : Pkg) : Pkg :=
  p.receive e port pkt (fun h => h.ty == ty) (fun q k => q.arriveRequest e k (fun u x => serve e u x))

/-! ### SETUP and RELEASE (R425 to R429) -/

/-- Fields of Table 11-4. -/
def sUid (b : List Byte) : Nat := leAt b 0 8
def sTable (b : List Byte) : Nat := leAt b 8 8
def sCount (b : List Byte) : Nat := leAt b 0x10 4
def sSlots (b : List Byte) : Nat := leAt b 0x14 2
def sWindow (b : List Byte) : Nat := leAt b 0x16 2
def sScratch (b : List Byte) : Nat := leAt b 0x18 8
def sScratchLen (b : List Byte) : Nat := leAt b 0x20 8
def sReport (b : List Byte) : Nat := leAt b 0x28 8
def sWait (b : List Byte) : Nat := leAt b 0x30 4
def sId (b : List Byte) : Nat := leAt b 0x34 1

/-- Values that Table 11-4 does not admit. -/
def setupBad (b : List Byte) : Bool :=
  sUid b == 0 || sCount b == 0 || sCount b > 262144 || sSlots b > 2048 || sWindow b == 0 || sWindow b > 256 || sScratch b % 256 != 0 ||
  sReport b % 64 != 0 || sWait b > 10000000 || sId b > 63 || leAt b 0x35 8 != 0 || leAt b 0x3d 3 != 0

/-- Entries of the member table as words. -/
def Pkg.memberWords (p : Pkg) (b : List Byte) : List Nat := (List.range (sCount b)).map (fun i => leNat (p.viewBytes (sTable b + 4 * i) 4))

/-- Location and local ranks of a member-table word (R425). -/
def memberOf (w : Nat) : Nat × Nat := (w % 2 ^ 18, bitsOf w 20 18 + 1)

/-- Strictly rising locations. -/
def rising : List (Nat × Nat) → Bool
  | a :: b :: t => a.1 < b.1 && rising (b :: t)
  | _ => true

/-- The cause of Table 11-7 that a SETUP meets first, or 0. -/
def Pkg.setupCause (p : Pkg) (c : Nat) (d b : List Byte) : Nat :=
  let ws := p.memberWords b
  let ms := ws.map memberOf
  let own := (assoc? ms p.ownLoc).getD 0
  if (p.comm? c (sId b)).isSome then 0x60
  else if own > (p.partDies c).length then 0x62
  else if sScratchLen b < 2 * sWindow b * 32768 || !p.rangeOwned c (sScratch b) (sScratchLen b) then 0x64
  else if ws.any (fun w => w >>> 21 != 0) || !rising ms || ms.any (fun x => !p.topo.holds x.1 || !isPow2 x.2) || own == 0 || !p.locValid then 0x65
  else if dJclass d != 2 then 0x67
  else 0

/-- Members whose SETUP has come and agrees; a SETUP that differs ends this one (R427). -/
def Pkg.setupCheck (p : Pkg) (e : Env) (m : Comm) : Pkg :=
  match m.queue with
  | none => p
  | some q =>
    let mine := p.col.setups.filter (fun (x : SetupIn) => x.uid == m.uid && m.members.any (fun y => y.1 == x.src))
    if mine.any (fun (x : SetupIn) => x.count != m.members.length || x.crc != m.crc) then
      let p1 : Pkg := { p with col := { p.col with setups := p.col.setups.filter (fun x => x.uid != m.uid) } }
      (p1.dropComm m).updRun q (fun u => { u.raise e.tag 0x30 with finished := true, endBeat := e.tag })
    else if (m.others p.ownLoc).all (fun l => mine.any (fun (x : SetupIn) => x.src == l)) then
      let g := min m.want (2048 - p.slotsReserved)
      let p1 : Pkg := { p with col := { p.col with setups := p.col.setups.filter (fun x => x.uid != m.uid) } }
      (p1.setComm { m with queue := none, slots := g, next := 0 }).updRun q (fun u =>
        { u with kindInfo := g, finished := true, endBeat := e.tag })
    else p

/-- What the dispatcher reads for a SETUP: its parameter block and its member table. -/
def Pkg.setupReads (p : Pkg) (c : Nat) (d : List Byte) : List (Nat × Nat) :=
  let b := p.paramBytes c d 64
  p.paramReads c d 64 ++ (if b.isEmpty then [] else [(sTable b, 4 * min 262144 (sCount b))])

/-- SETUP starts: it tells every other member, and waits for theirs (R427). -/
def startSetup (q : Nat) (e : Env) (p : Pkg) : Pkg :=
  p.start e q (fun d => dKind d == 4 && dOp d % 16 == 7) (fun d => p.setupReads (p.queueCtx q) d) (fun p d =>
    let c := p.queueCtx q
    let b := p.paramBytes c d 64
    let cause := p.setupCause c d b
    p.orRun e q d (firstFail [p.paramVerdict c d b 64 (setupBad b), p.tableVerdict c [(sTable b, 4 * sCount b)], abortIf (cause != 0) cause])
      (let tb := p.viewBytes (sTable b) (4 * sCount b)
       let m : Comm :=
         { ctx := c, id := sId b, uid := sUid b, crc := crc32c tb, members := (p.memberWords b).map memberOf, slots := 0, window := sWindow b,
           scratch := sScratch b, scratchLen := sScratchLen b, report := sReport b, waitNs := 1000 * (if sWait b = 0 then 100000 else sWait b),
           next := 0, queue := some q, want := sSlots b, heard := [], since := e.hall }
       let p1 := (p.enterRun (p.newRun e q d b)).setComm m
       let x : ColPkt := ⟨0, 0, 0, 0, 0, 0, false, 7, 0, m.uid, leBytes 8 m.uid ++ leBytes 4 m.members.length ++ leBytes 4 m.crc⟩
       let p2 := (m.others p1.ownLoc).foldl (fun (s : Pkg) l => s.colSend e m (some q) l tySetup 0 (opDetour (dOp d)) x) p1
       (p2.setupCheck e m).settle e))

/-- Another member's SETUP arrives: kept, and compared with the one that waits here (R427). -/
def serveSetup (e : Env) (p : Pkg) (k : FabPkt) : Pkg :=
  let h := parseHdr k.header
  let x := parseCol k.payload
  let bad := formatReason p.topo h k.payload
  if bad ≠ 0 then p.violationNack k.port h k.seq bad
  else if h.epoch ≠ p.regNat Reg.FAB_EPOCH then p.nackPkt (portFab k.port) h k.seq 0x58
  else if (p.inFlow h.src h.eng h.cls).applied.contains k.seq then p.answerPkt h k.seq tyReply 0 0 []
  else
    let y : SetupIn := ⟨h.src, leAt x.data 0 8, leAt x.data 8 4, leAt x.data 12 4⟩
    let p1 := (p.noteApplied h.src h.eng h.cls k.seq).answerPkt h k.seq tyReply 0 0 []
    let p2 : Pkg := { p1 with col := { p1.col with setups := p1.col.setups.filter (fun s => !(s.src == y.src && s.uid == y.uid)) ++ [y] } }
    match p2.col.comms.find? (fun m => m.uid == y.uid && m.queue.isSome) with
    | some m => (p2.setupCheck e m).settle e
    | none => p2.settle e

/-- A RELEASE that waits goes on once no collective of its communicator is in flight here (R428). -/
def Pkg.releaseFlow (p : Pkg) (e : Env) (q : Nat) : Pkg :=
  match p.runOf q with
  | none => p
  | some u =>
    if u.kind ≠ 4 ∨ opKind (dOp u.desc) ≠ 8 ∨ u.finished then p
    else match p.comm? u.ctx (opComm (dOp u.desc)) with
      | none => p
      | some m =>
        if p.col.runs.any (fun r => r.ctx == m.ctx && r.comm == m.id && r.started) then p
        else
          let rs := p.col.runs.filter (fun r => !(r.ctx == m.ctx && r.comm == m.id))
          ({ p with col := { p.col with runs := rs } }.dropComm m).updRun q (fun v => { v with finished := true, endBeat := e.tag })

/-- RELEASE starts (R428). -/
def startRelease (q : Nat) (e : Env) (p : Pkg) : Pkg :=
  p.start e q (fun d => dKind d == 4 && dOp d % 16 == 8) (fun _ => []) (fun p d =>
    let c := p.queueCtx q
    let up : Bool := match p.comm? c (opComm (dOp d)) with | some m => m.queue.isNone | none => false
    p.orRun e q d (firstFail [abortIf (!up) 0x60, abortIf (dJclass d != 2) 0x67]) ((p.enterRun (p.newRun e q d [])).releaseFlow e q))

/-! ### TRIG_ARM (R415 to R419, R424) -/

/-- Fields of Table 11-3. -/
def tImages (b : List Byte) : Nat := leAt b 0 8
def tCount (b : List Byte) : Nat := leAt b 8 4
def tFirst (b : List Byte) : Nat := leAt b 0xc 2
def tEngine (b : List Byte) : Nat := leAt b 0xe 1
def tWords (b : List Byte) : Nat := leAt b 0x10 8
def tWordCount (b : List Byte) : Nat := leAt b 0x18 4

/-- Reserved parts of Table 11-3, and addresses off their alignment. -/
def trigParamBad (b : List Byte) : Bool :=
  leAt b 0xf 1 != 0 || (List.range 36).any (fun i => byteAt b (0x1c + i) != 0) || tImages b % 64 != 0 || tWords b % 4 != 0

/-- A trigger entry with a reserved field or code, or a value outside its range (R418, Tables 11-1 and 11-2). -/
def entryBad (b : List Byte) : Bool :=
  let op := teOp b
  leAt b 0 2 ≥ 2 ^ 14 || op > 4 || bitsOf (leAt b 3 1) 7 6 != 0 || leAt b 8 8 ≥ 2 ^ 48 || teRcnt b ≥ 2 ^ 37 || teRepeat b == 0 ||
  bitsOf (teSig b) 15 14 != 0 ||
  (match op with
   | 2 => !atomicLegal (teAop b) (teType b) || teLen b != typeBytes (teType b)
   | 3 => !atomicLegal 0 (teType b) || teAop b != 0 || teLen b == 0 || teLen b > 16777216
   | 4 => teType b != 0 || teAop b != 0 || teLen b != 0 || teSrc b != 0 || teDst b != 0
   | _ => teType b != 0 || teAop b != 0 || teLen b == 0 || teLen b > 16777216)

/-- A binding word of a reserved kind, or a removal that names a handle (R424). -/
def bindBad (w : Nat) : Bool := bitsOf w 15 14 == 1 || bitsOf w 15 14 == 2 || (bitsOf w 15 14 == 3 && w >>> 16 != 0)

/-- Apply a binding word of an engine (R417, R424). -/
def applyBind (c en : Nat) (bs : List Binding) (w : Nat) : List Binding :=
  let k := w % 2 ^ 14
  if bitsOf w 15 14 = 3 then bs.filter (fun x => !(x.engine == en && x.counter == k))
  else
    let x : Binding := ⟨c, en, k, w >>> 16⟩
    if bs.contains x then bs else bs ++ [x]

/-- What the dispatcher reads for a TRIG_ARM: its parameter block, entry images and binding words. -/
def Pkg.trigReads (p : Pkg) (c : Nat) (d : List Byte) : List (Nat × Nat) :=
  let b := p.paramBytes c d 64
  p.paramReads c d 64 ++ (if b.isEmpty then [] else [(tImages b, 64 * min 16384 (tCount b)), (tWords b, 4 * min 256 (tWordCount b))])

/-- TRIG_ARM starts and ends: entries are loaded armed and binding words applied, or nothing is changed (R418, R424). -/
def startTrigArm (q : Nat) (e : Env) (p : Pkg) : Pkg :=
  p.start e q (fun d => dKind d == 4 && dOp d % 16 == 9) (fun d => p.trigReads (p.queueCtx q) d) (fun p d =>
    let c := p.queueCtx q
    let b := p.paramBytes c d 64
    let en := tEngine b
    let imgs := (List.range (tCount b)).map (fun i => p.viewBytes (tImages b + 64 * i) 64)
    let ws := (List.range (tWordCount b)).map (fun i => leNat (p.viewBytes (tWords b + 4 * i) 4))
    let binds := ws.foldl (applyBind c en) p.binds
    p.orRun e q d (firstFail [p.paramVerdict c d b 64 (trigParamBad b),
        abortIf (tFirst b + tCount b > 16384 || en > 31 || !(p.ctxEngines c).contains en || tWordCount b > 256) 0x66,
        p.tableVerdict c [(tImages b, 64 * tCount b), (tWords b, 4 * tWordCount b)],
        abortIf (imgs.any entryBad || ws.any bindBad) 0x01,
        abortIf ((binds.filter (fun x => x.ctx == c)).length > 256) 0x66,
        abortIf (dJclass d != 2) 0x67])
      (let gone (t : TrigEntry) : Bool := t.engine == en && tFirst b ≤ t.idx && t.idx < tFirst b + tCount b
       let ts := p.trigs.filter (fun t => !gone t) ++ imgs.zipIdx.map (fun x => (⟨en, tFirst b + x.2, x.1⟩ : TrigEntry))
       let p1 := p.enterRun { p.newRun e q d b with finished := true, endBeat := e.tag }
       { p1 with trigs := ts, binds := binds }))

/-- A fire of a trigger entry completes: its requests are all answered (R421). -/
def fireComplete (en idx : Nat) (e : Env) (p : Pkg) : Pkg :=
  match p.fires.find? (fun f => f.engine == en && f.idx == idx) with
  | none => p
  | some f => (p.concludeFire e f).settle e

/-! ### Timeouts, gates, busy windows -/

/-- The wait of a collective that has run out here, if any: its level and the missing ranks (R446). -/
def Pkg.colWaited (p : Pkg) (e : Env) (m : Comm) (r : ColRun) : Option (Nat × List Nat) :=
  let here := p.ownLoc
  let past (t : Nat) : Bool := t + m.waitNs ≤ e.hall
  let led := [1, 2, 3, 4].findSome? (fun lv =>
    let st := r.stageAt lv
    let ms := m.stage lv here
    let gone := (ms.zipIdx.filter (fun x => !st.sigs.any (fun y => y.1 == x.2))).map (fun x => m.rankBase x.1)
    match st.arrived with
    | some t => if m.leads lv here && past t && !gone.isEmpty then some (lv, gone) else none
    | none => none)
  match led with
  | some x => some x
  | none =>
    if r.kind = 4 ∨ r.kind = 6 then
      let heard := (r.stageAt 0).sigs.map (·.1)
      let prev := (m.rankBase here + m.total - 1) % max 1 m.total
      let gone := if r.kind = 6 then [prev]
        else ((List.range m.total).filter (fun k => m.locOf k != here && !heard.contains k))
      if r.sent.any (fun x => past x.2) then some (0, gone) else none
    else
      let lv := m.lead here + 1
      let answered (u : Option Nat) : Bool := match u with
        | some k => r.downs.contains k || !r.wants m (m.lead here) here k
        | none => false
      if lv ≤ 4 && r.sent.any (fun x => past x.2 && !answered x.1) then some (lv, [m.rankBase (m.leader lv here)]) else none

/-- The member-wait time runs out for a queue's SETUP or collective (R446). -/
def collectiveTimeout (q : Nat) (e : Env) (p : Pkg) : Pkg :=
  match p.col.comms.find? (fun m => m.queue == some q) with
  | some m =>
    if e.hall < m.since + m.waitNs then p
    else
      let gone := (m.others p.ownLoc).filter (fun l => !p.col.setups.any (fun (x : SetupIn) => x.uid == m.uid && x.src == l))
      let f := ((p.ctxEngines m.ctx).headD 0) / 4
      let p1 := (p.colCount f (Reg.COL_CNT_TIMEOUT f) 1).event 9 (20 + f) 0 1 0 (leBytes 4 m.id)
      (p1.dropComm m).updRun q (fun u =>
        { u.raise e.tag 0x28 with undef := true, finished := true, endBeat := e.tag, detail := m.rankBase (gone.headD 0) })
  | none =>
    match p.col.runs.find? (fun r => r.queue == some q) with
    | none => p
    | some r =>
      match p.comm? r.ctx r.comm with
      | none => p
      | some m =>
        match p.colWaited e m r with
        | some x => (p.colTimeout e m r x.1 x.2).settle e
        | none => p

/-- The gate of a queue's collective admits further chunks (R433). -/
def gateRelease (q : Nat) (e : Env) (p : Pkg) : Pkg :=
  match p.col.runs.find? (fun r => r.queue == some q) with
  | none => p
  | some r =>
    match p.comm? r.ctx r.comm with
    | some m => (p.colAdmit e m r).settle e
    | none => p

/-- A port's 10 µs window ends with a busy share in percent (R447). -/
def busyWindow (port busy : Nat) (_ : Env) (p : Pkg) : Pkg :=
  { p with fab := { p.fab with busy := assocPut p.fab.busy port (min 100 busy) } }

/-- Claims of the beat as (sequence number, level, collective), those of one communicator by ascending sequence number, which may have
wrapped (R435, R442). -/
def Pkg.claimsDue (p : Pkg) (m : Comm) : List (Nat × Nat) :=
  let rs := p.col.runs.filter (fun r => r.ctx == m.ctx && r.comm == m.id)
  sortBy (fun a b => a.1 == b.1 || seqBefore a.1 b.1)
    ((rs.map (fun r => ((List.range 5).filter (fun lv => (r.stageAt lv).claim == 3)).map (fun lv => (r.seq, lv)))).flatten)

/-- The claims made in a beat are decided, and their collectives go on (R442). -/
def Pkg.claimBeat (p : Pkg) (e : Env) : Pkg :=
  p.col.comms.foldl (fun (s : Pkg) m =>
    let due := s.claimsDue m
    let s1 := due.foldl (fun (t : Pkg) x => match t.colRun? m.ctx m.id x.1 with
      | some r => (t.decideClaim e m r x.2).1
      | none => t) s
    due.foldl (fun (t : Pkg) x => match t.colRun? m.ctx m.id x.1 with
      | some r => if x.2 = 0 then t.colAdmit e m r else t.colFlow e m r
      | none => t) s1) p

/-- What collectives do at a beat: claims are decided, a ring pass goes on and tells its predecessor of consumed blocks, a RELEASE looks again
(R428, R442, R450). -/
def Pkg.collBeat (p0 : Pkg) (e : Env) : Pkg :=
  let p := p0.claimBeat e
  let p1 := (p.col.runs.filter (fun r => r.kind == 6 && r.started)).foldl (fun (s : Pkg) r =>
    match s.comm? r.ctx r.comm with
    | some m =>
      let t := s.ringCredits e m r
      (match t.colRun? r.ctx r.comm r.seq with | some x => t.colFlow e m x | none => t)
    | none => s) p
  ((p1.dsp.runs.map (fun r => r.queue)).foldl (fun (s : Pkg) q => s.releaseFlow e q) p1).sendAll e

/-! ### The commands -/

/-- ALLREDUCE (R438). -/
def execAllreduce (q : Fin 64) (s : State) : Host.Outcome State Fault Refusal := s.work .none (startCollective 0 q.val)

/-- REDUCE_SCATTER (R438). -/
def execReduceScatter (q : Fin 64) (s : State) : Host.Outcome State Fault Refusal := s.work .none (startCollective 1 q.val)

/-- ALLGATHER (R438). -/
def execAllgather (q : Fin 64) (s : State) : Host.Outcome State Fault Refusal := s.work .none (startCollective 2 q.val)

/-- BROADCAST (R438). -/
def execBroadcast (q : Fin 64) (s : State) : Host.Outcome State Fault Refusal := s.work .none (startCollective 3 q.val)

/-- ALLTOALL (R438). -/
def execAlltoall (q : Fin 64) (s : State) : Host.Outcome State Fault Refusal := s.work .none (startCollective 4 q.val)

/-- BARRIER (R438). -/
def execBarrier (q : Fin 64) (s : State) : Host.Outcome State Fault Refusal := s.work .none (startCollective 5 q.val)

/-- RING_PASS (R450). -/
def execRingPass (q : Fin 64) (s : State) : Host.Outcome State Fault Refusal := s.work .none (startCollective 6 q.val)

/-- SETUP (R427). -/
def execSetup (q : Fin 64) (s : State) : Host.Outcome State Fault Refusal := s.work .none (startSetup q.val)

/-- RELEASE (R428). -/
def execRelease (q : Fin 64) (s : State) : Host.Outcome State Fault Refusal := s.work .none (startRelease q.val)

/-- TRIG_ARM (R424). -/
def execTrigArm (q : Fin 64) (s : State) : Host.Outcome State Fault Refusal := s.work .none (startTrigArm q.val)

/-- FIRE_COMPLETE (R421). -/
def execFireComplete (engine : Fin 32) (entry : Fin 16384) (s : State) : Host.Outcome State Fault Refusal :=
  s.work .none (fireComplete engine.val entry.val)

/-- CONTRIB (R442). -/
def execContrib (port : Fin 36) (pkt : RawPacket) (s : State) : Host.Outcome State Fault Refusal :=
  s.work .none (colPacket tyContrib port.val pkt (fun e p k => p.serveCol e k))

/-- RESULT (R439). -/
def execResult (port : Fin 36) (pkt : RawPacket) (s : State) : Host.Outcome State Fault Refusal :=
  s.work .none (colPacket tyResult port.val pkt (fun e p k => p.serveCol e k))

/-- ABORT (R445). -/
def execAbort (port : Fin 36) (pkt : RawPacket) (s : State) : Host.Outcome State Fault Refusal :=
  s.work .none (colPacket tyAbort port.val pkt (fun e p k => p.serveCol e k))

/-- CREDIT (R450). -/
def execCredit (port : Fin 36) (pkt : RawPacket) (s : State) : Host.Outcome State Fault Refusal :=
  s.work .none (colPacket tyCredit port.val pkt (fun e p k => p.serveCol e k))

/-- FALLBACK (R442). -/
def execFallback (port : Fin 36) (pkt : RawPacket) (s : State) : Host.Outcome State Fault Refusal :=
  s.work .none (colPacket tyFallback port.val pkt (fun e p k => p.serveCol e k))

/-- SETUP_PACKET (R427). -/
def execSetupPacket (port : Fin 36) (pkt : RawPacket) (s : State) : Host.Outcome State Fault Refusal :=
  s.work .none (colPacket tySetup port.val pkt serveSetup)

/-- COLLECTIVE_TIMEOUT (R446), an event of class 9. -/
def execCollectiveTimeout (q : Fin 64) (s : State) : Host.Outcome State Fault Refusal := s.work ⟨9, 0, 0⟩ (collectiveTimeout q.val)

/-- GATE_RELEASE (R433). -/
def execGateRelease (q : Fin 64) (s : State) : Host.Outcome State Fault Refusal := s.work .none (gateRelease q.val)

/-- BUSY_WINDOW (R447). -/
def execBusyWindow (port : Fin 36) (busy : Nat) (s : State) : Host.Outcome State Fault Refusal := s.work .none (busyWindow port.val busy)

end Sys2Proof.Machine
end

