-- ==== Sys2Proof/Machine/Ckpt.lean ====
section
/-! DEFINITION. SAVE, RESTORE and storage connections (spec 15_checkpoint_restore_and_start.md, R510 to R531, R537 to R539;
18_protection_and_tenancy.md, R614): checks, shards and manifests, masking and demand copies, storage commands. -/

namespace Sys2Proof.Machine

/-- A 2 MiB page, an LBA, the shard number that stands for the manifest. -/
abbrev pageBytes : Nat := 2 ^ 21
abbrev lbaBytes : Nat := 4096
abbrev manifestShard : Nat := 0xffffffff

/-! ### Parameter blocks (Tables 15-2 to 15-4) -/

def ckKind (d : List Byte) : Nat := dOp d % 16
def ckEngine (d : List Byte) : Nat := bitsOf (dOp d) 8 8
def ckPorts (d : List Byte) : Nat := bitsOf (dOp d) 13 12
def ckVerify (d : List Byte) : Bool := (dOp d).testBit 14
def ckEnc (d : List Byte) : Bool := (dOp d).testBit 15
def ckSigchk (d : List Byte) : Bool := (dOp d).testBit 16
def ckFallback (d : List Byte) : Bool := (dOp d).testBit 17

/-- A reserved kind or ports code, or a flag that the kind does not have (cause 0x70). -/
def ckOpBad (d : List Byte) : Bool :=
  ckKind d > 5 || ckPorts d == 0 || (ckFallback d && ckKind d != 1) || (ckSigchk d && ckKind d != 1) || (ckEnc d && ckKind d != 0) ||
  (ckVerify d && ckKind d != 0)

/-- An extent (Table 15-3). -/
def parseExtent (b : List Byte) : Extent := ⟨bitsOf (leAt b 0 8) 53 48, leAt b 0 8 % 2 ^ 48, leAt b 8 4, leAt b 12 4⟩

/-- The shards of a shard table (Table 15-3). -/
def Pkg.shardTable (p : Pkg) (a n : Nat) : List CkShard :=
  (List.range n).map (fun i =>
    let b := p.viewBytes (a + 64 * i) 64
    let xs := (List.range (min 65536 (leAt b 0x18 4))).map (fun j => parseExtent (p.viewBytes (leAt b 0x10 8 + 16 * j) 16))
    ⟨leAt b 0 8, leAt b 8 8, leAt b 0x1c 1, xs⟩)

/-- A shard table entry breaks Table 15-3, or its extents are too small (R515, cause 0x71). -/
def Pkg.shardBad (p : Pkg) (a i : Nat) (s : CkShard) : Bool :=
  let b := p.viewBytes (a + 64 * i) 64
  s.bytes == 0 || leAt b 0x10 8 % 16 != 0 || leAt b 0x18 4 == 0 || leAt b 0x18 4 > 65536 || s.port > 2 ||
  (b.drop 0x1d).any (fun x => x != 0) ||
  (List.range s.extents.length).any (fun j => bitsOf (leNat (p.viewBytes (leAt b 0x10 8 + 16 * j) 8)) 63 54 != 0) ||
  (s.extents.map (fun x => x.count)).sum * lbaBytes < lbaBytes + s.bytes

/-- LBAs of a manifest of n shards (R527). -/
def manifestLbas (n : Nat) : Nat := ceilDiv (256 + 64 * n) lbaBytes

/-- State of a connection (Table 15-11). -/
def Pkg.connState (p : Pkg) (n : Nat) : Nat := p.fld (Reg.CKP_CONN_STATUS n) Fld.CKP_CS_STATE

/-- The storage port of a connection. -/
def Pkg.connPort (p : Pkg) (n : Nat) : Nat := p.fld (Reg.CKP_CONN_STATUS n) Fld.CKP_CS_PORT

/-- A connection is not ready, or not on a named port (cause 0x73). -/
def Pkg.connBad (p : Pkg) (d : List Byte) (port conn : Nat) : Bool :=
  p.connState conn != 2 || !(ckPorts d).testBit (p.connPort conn) || (port < 2 && p.connPort conn != port)

/-- Pages of a range. -/
def pagesOf (a n : Nat) : List Nat := (List.range (ceilDiv n pageBytes)).map (fun i => a / pageBytes + i)

/-- Two ranges share a byte. -/
def rangesMeet (a n b m : Nat) : Bool := n != 0 && m != 0 && a < b + m && b < a + n

/-- The regions that a range touches. -/
def Pkg.regionsIn (p : Pkg) (a n : Nat) : List Region :=
  ((List.range 64).map p.region).filter (fun r => r.valid && rangesMeet a n r.base r.size)

/-- A journal region of a configured partition (R489). -/
def Pkg.isJournal (p : Pkg) (r : Region) : Bool :=
  (List.range 8).any (fun c => p.partValid c && p.fld (Reg.RAS_CTX_CFG c) Fld.RAS_JR_REGION == r.num)

/-- The source ranges of a SAVE break R521 (cause 0x72). -/
def Pkg.sourceBad (p : Pkg) (d b : List Byte) (ss : List CkShard) : Bool :=
  let stage := leAt b 0x18 8
  let stageLen := leAt b 0x14 4 * pageBytes
  (List.range ss.length).any (fun i =>
    let s := ss.getD i ⟨0, 0, 0, []⟩
    s.src % pageBytes != 0 || s.bytes % pageBytes != 0 ||
    (ss.take i).any (fun t => rangesMeet s.src s.bytes t.src t.bytes) ||
    (p.regionsIn s.src s.bytes).any (fun r => p.isJournal r || (r.enc && !ckEnc d)) ||
    rangesMeet s.src s.bytes stage stageLen)

/-- A range needs the partition's checkpoint key, and none is enrolled (R614, cause 0x78). -/
def Pkg.keyMissing (p : Pkg) (c : Nat) (ss : List CkShard) : Bool :=
  (assoc? p.mgt.ckptKeys c).isNone && ss.any (fun s => (p.regionsIn s.src s.bytes).any (fun r => r.enc))

/-- What a SAVE's or RESTORE's parameter block names beside its shards: (address, length) of each table and area (R514). -/
def ckAreas (kind : Nat) (b : List Byte) : List (Nat × Nat) :=
  if kind = 0 then [(leAt b 0x18 8, leAt b 0x14 4 * pageBytes), (leAt b 0x48 8, 266240)]
  else [(leAt b 0x40 8, 4096), (leAt b 0x48 8, 266240)]

/-- Sizes, counts and alignments of a SAVE's or RESTORE's parameter block are wrong (cause 0x71). -/
def ckParamBad (kind : Nat) (b : List Byte) : Bool :=
  let n := leAt b 0x10 4
  leAt b 8 8 % 64 != 0 || n == 0 || n > 4096 || leAt b 0x48 8 % 4096 != 0 || leAt b 0x2c 4 < manifestLbas n ||
  bitsOf (leAt b 0x20 8) 63 54 != 0 ||
  (if kind = 0 then
    leAt b 0 8 == 0 || leAt b 0x14 4 < 8 || leAt b 0x14 4 > 4096 || leAt b 0x18 8 % pageBytes != 0 || (b.drop 0x50).any (fun x => x != 0)
  else
    leAt b 0x18 8 % 64 != 0 || leAt b 0x14 4 > 4096 || leAt b 0x40 8 % 64 != 0 || leAt b 0 8 != 0 || (leAt b 0x30 8 != 0) || leAt b 0x38 8 != 0 ||
    (b.drop 0x50).any (fun x => x != 0))

/-- The second shard table of a RESTORE, when it has one (Table 15-3). -/
def ckPrevTable (b : List Byte) : Option (Nat × Nat) := if leAt b 0x18 8 = 0 then none else some (leAt b 0x18 8, leAt b 0x14 4)

/-- The checks of a SAVE or RESTORE before it starts (R513, R514, R521, R614, R638). -/
def Pkg.ckVerdict (p : Pkg) (c : Nat) (d b : List Byte) : Verdict :=
  let kind := ckKind d
  let n := leAt b 0x10 4
  let t := leAt b 8 8
  let ss := p.shardTable t (min 4096 n)
  let prev := if kind = 1 then ckPrevTable b else none
  let ps := match prev with | some x => p.shardTable x.1 (min 4096 x.2) | none => []
  let own (a len : Nat) : Verdict := p.rangeVerdict c (none, a, len)
  let lists (a k : Nat) : List Verdict := (List.range k).map (fun i =>
    let e := p.viewBytes (a + 64 * i) 64
    own (leAt e 0x10 8) (16 * leAt e 0x18 4))
  let bad (a : Nat) (xs : List CkShard) : Bool := (List.range xs.length).any (fun i => p.shardBad a i (xs.getD i ⟨0, 0, 0, []⟩))
  let conn (xs : List CkShard) : Bool := xs.any (fun s => s.extents.any (fun x => p.connBad d s.port x.conn))
  firstFail ([abortIf (!dHasParam d) 0x01, abortIf (!p.noHole (p.paramAddr c d) 128) 0x05, abortIf (ckOpBad d) 0x70,
    abortIf (ckParamBad kind b) 0x71, own t (64 * n)] ++ lists t ss.length ++
    (match prev with | some x => own x.1 (64 * x.2) :: lists x.1 ps.length | none => []) ++
    [abortIf (bad t ss || (match prev with | some x => bad x.1 ps | none => false)) 0x71,
     abortIf (kind == 0 && p.sourceBad d b ss) 0x72,
     abortIf (conn ss || conn ps || p.connBad d 2 (parseExtent (b.drop 0x20)).conn) 0x73,
     abortIf (kind == 0 && ss.any (fun s => p.rangeMasked s.src s.bytes)) 0x75,
     abortIf (kind == 0 && p.keyMissing c ss) 0x78,
     abortIf ((List.range 5).any (fun l => dCount d l != 1)) 0x06] ++
    (ss.map (fun s => own s.src s.bytes)) ++ (ckAreas kind b).map (fun x => own x.1 x.2) ++
    [if p.dieLost (28 + ckEngine d) then some (0x37, 0) else none])

/-! ### Shards and the manifest (R515, R516, R527) -/

/-- A stored byte behind the mask: the controllers' own, held writes aside (R517). -/
def Pkg.maskedByte (p : Pkg) (a : Nat) : Byte :=
  match p.regionAt a with
  | none => 0
  | some r => (p.stack (r.place (a - r.base)).1).stripes.foldl
      (fun b w => if coversAddr a w.addr w.bytes then byteAt w.bytes (a - w.addr) else b) (p.byte a)

/-- Where a source byte is read: its staging page once a copy of its page is there, else its own place (R519). -/
def Pkg.sourceAt (p : Pkg) (r : CkRun) (a : Nat) : Nat :=
  match r.stages.find? (fun s => s.2 == a / pageBytes) with
  | some s => if p.masks.any (fun m => m.page == s.2 && m.queue == r.queue) then a else r.stageBase + s.1 * pageBytes + a % pageBytes
  | none => a

/-- A shard's header with its step (Table 15-5). -/
def shardHeader (step n mask i : Nat) (s : CkShard) : List Byte :=
  let h := leBytes 4 0x48535147 ++ leBytes 2 1 ++ leBytes 2 0 ++ leBytes 8 step ++ leBytes 4 i ++ leBytes 4 n ++ leBytes 8 s.src ++
    leBytes 8 s.bytes ++ leBytes 8 mask ++ List.replicate 76 0
  padTo lbaBytes (h ++ leBytes 4 (crc32c h))

/-- A payload lies in encrypted memory. -/
def Pkg.shardEnc (p : Pkg) (s : CkShard) : Bool := (p.regionsIn s.src s.bytes).any (fun r => r.enc)

/-- The tweak of a payload's data unit (R614). -/
def xtsTweak (step shard unit : Nat) : Nat := step % 2 ^ 64 * 2 ^ 64 + shard % 2 ^ 32 * 2 ^ 32 + unit % 2 ^ 32

/-- One 4,096-byte payload unit through the partition's checkpoint key, when the shard lies in encrypted memory (R614). -/
def Pkg.cryptUnit (p : Pkg) (enc : Bool) (c step shard unit : Nat) (s : CkShard) (bs : List Byte) : List Byte :=
  match assoc? p.mgt.ckptKeys c with
  | some k => if p.shardEnc s then xtsUnit enc k k (xtsTweak step shard unit) bs else bs
  | none => bs

/-- The block of a shard's stream that a SAVE writes: its header, then its payload (R515). -/
def Pkg.saveBlock (p : Pkg) (r : CkRun) (d b : List Byte) (c i blk : Nat) : List Byte :=
  let s := r.shards.getD i ⟨0, 0, 0, []⟩
  if blk = 0 then shardHeader (leAt b 0 8) (leAt b 0x10 4) r.maskHall i s
  else
    let raw := (List.range lbaBytes).map (fun k => p.maskedByte (p.sourceAt r (s.src + lbaBytes * (blk - 1) + k)))
    if ckEnc d then p.cryptUnit true c (leAt b 0 8) i (blk - 1) s raw else raw

/-- The bytes of a stream that have been written or read, in order. -/
def CkRun.stream (r : CkRun) (i : Nat) : List Byte :=
  ((sortBy (fun (a b : Nat × Nat × List Byte) => decide (a.2.1 ≤ b.2.1)) (r.moved.filter (fun m => m.1 == i))).map (fun m => m.2.2)).flatten

/-- A shard's digest: SHA-256 of the payload as stored (R516, R614). -/
def CkRun.digest (r : CkRun) (i : Nat) : List Byte := sha256 ((r.stream i).drop lbaBytes)

/-- A manifest with its digest field zero (Table 15-7). -/
def manifestBody (flags step mask sig loc prevStep flush : Nat) (prevExt : List Byte) (shards : List (CkShard × List Byte)) : List Byte :=
  let n := shards.length
  padTo (manifestLbas n * lbaBytes)
    (leBytes 4 0x464d5147 ++ leBytes 2 1 ++ leBytes 2 flags ++ leBytes 8 step ++ leBytes 8 mask ++ leBytes 8 sig ++ leBytes 4 loc ++ leBytes 4 n ++
      leBytes 8 ((shards.map (fun s => s.1.bytes)).sum) ++ leBytes 8 prevStep ++ padTo 16 prevExt ++ leBytes 8 flush ++
      List.replicate 144 0 ++ List.replicate 32 0 ++
      ((List.range n).map (fun i =>
        let s := shards.getD i (⟨0, 0, 0, []⟩, [])
        leBytes 4 i ++ leBytes 4 0 ++ leBytes 8 s.1.src ++ leBytes 8 s.1.bytes ++ leBytes 8 0 ++ padTo 32 s.2)).flatten)

/-- Put a digest at 0xE0. -/
def withDigest (m dg : List Byte) : List Byte := m.take 0xe0 ++ padTo 32 dg ++ m.drop 0x100

/-- The digest of a manifest (R527). -/
def manifestDigest (m : List Byte) : List Byte := sha256 (withDigest m (List.replicate 32 0))

/-- The manifest that a SAVE writes; `digests` are the shards', one after another. -/
def Pkg.saveManifest (p : Pkg) (r : CkRun) (d b digests : List Byte) (c : Nat) : List Byte :=
  let flags := (if ckEnc d && r.shards.any p.shardEnc then 2 else 0) + (if ckVerify d then 4 else 0)
  let ds := (List.range r.shards.length).map (fun i => (r.shards.getD i ⟨0, 0, 0, []⟩, (digests.drop (32 * i)).take 32))
  let m := manifestBody flags (leAt b 0 8) r.maskHall (p.numSig c) p.ownLoc (leAt b 0x40 8) r.flushHall ((b.drop 0x30).take 16) ds
  withDigest m (manifestDigest m)

/-! ### Storage commands (R511, R515, R525) -/

/-- Commands over blocks lo to hi − 1 of a stream of extents, at most 256 LBAs each: extent, its LBA, blocks, block of the stream. -/
def extentCuts : List Extent → Nat → Nat → Nat → List (Extent × Nat × Nat × Nat)
  | [], _, _, _ => []
  | x :: xs, pos, lo, hi =>
    let a := max lo pos
    let z := min hi (pos + x.count)
    (if a < z then (List.range (ceilDiv (z - a) 256)).map (fun i =>
        (x, x.lba + (a - pos) + 256 * i, min 256 (z - a - 256 * i), a + 256 * i)) else []) ++
      extentCuts xs (pos + x.count) lo hi

/-- Enter commands at the end of the list. -/
def Pkg.addCmds (p : Pkg) (cs : List StoreCmd) : Pkg :=
  { p with ckp := { p.ckp with
      cmds := p.ckp.cmds ++ (List.range cs.length).filterMap (fun i => (cs[i]?).map (fun c => { c with id := p.ckp.nextId + i }))
      nextId := p.ckp.nextId + cs.length } }

/-- Writes (0) or reads (1) of a stream's blocks. -/
def streamCmds (q kind shard lo hi : Nat) (xs : List Extent) : List StoreCmd :=
  (extentCuts xs 0 lo hi).map (fun x => ⟨0, q, kind, x.1.conn, x.1.ns, x.2.1, x.2.2.1, shard, x.2.2.2 * lbaBytes, [], 0, none⟩)

/-- A Flush for each namespace of a list of extents (R523). -/
def flushCmds (q : Nat) (xs : List Extent) : List StoreCmd :=
  let ns := xs.foldl (fun (acc : List (Nat × Nat)) x => if acc.contains (x.conn, x.ns) then acc else acc ++ [(x.conn, x.ns)]) []
  ns.map (fun x => ⟨0, q, 2, x.1, x.2, 0, 0, manifestShard, 0, [], 0, none⟩)

/-- Put back a SAVE or RESTORE. -/
def Pkg.setCk (p : Pkg) (r : CkRun) : Pkg :=
  { p with ckp := { p.ckp with runs := p.ckp.runs.map (fun x => if x.queue = r.queue then r else x) } }

/-- The SAVE or RESTORE of a queue. -/
def Pkg.ckRun? (p : Pkg) (q : Nat) : Option CkRun := p.ckp.runs.find? (fun r => r.queue == q)

/-- A descriptor's commands not yet completed. -/
def Pkg.cmdsOf (p : Pkg) (q : Nat) : List StoreCmd := p.ckp.cmds.filter (fun c => c.queue == q)

/-- A connection has room for a command in its queues (Table 15-1). -/
def Pkg.connRoom (p : Pkg) (conn : Nat) : Bool :=
  let depth := ((p.ckp.conns.find? (fun c => c.num == conn)).map (fun c => c.depth)).getD 0
  (p.ckp.cmds.filter (fun c => c.conn == conn && c.issued.isSome && c.kind ≤ 2)).length <
    depth * p.fld (Reg.CKP_CONN_STATUS conn) Fld.CKP_CS_QUEUES

/-- The data of a Write as its command is issued; what reading the source met (R322). -/
def Pkg.cmdData (p : Pkg) (e : Env) (x : StoreCmd) : Pkg × LineOutcome × List Byte :=
  match p.ckRun? x.queue, p.runOf x.queue with
  | some r, some u =>
    if x.kind ≠ 0 then (p, .ok, [])
    else if x.shard = manifestShard then
      -- after a failed read-back the manifest's first LBA is written with zeros (R524)
      (p, .ok, if r.phase = 7 then List.replicate lbaBytes 0 else (r.manifest.drop x.off).take (x.blocks * lbaBytes))
    else
      let s := r.shards.getD x.shard ⟨0, 0, 0, []⟩
      let first := x.off / lbaBytes
      let lo := if first = 0 then 0 else first - 1
      let t := p.touchRange e (.descriptor r.queue) (p.sourceAt r (s.src + lo * lbaBytes)) ((first + x.blocks - 1 - lo) * lbaBytes)
      (t.1, t.2, ((List.range x.blocks).map (fun i => t.1.saveBlock r u.desc u.params u.ctx x.shard (first + i))).flatten)
  | _, _ => (p, .ok, [])

/-- Write commands of shards that hold staged pages go before others (R519). -/
def Pkg.storeFirst (p : Pkg) (x : StoreCmd) : Bool :=
  match p.ckRun? x.queue with
  | some r => x.kind == 0 && (match r.shards[x.shard]? with
      | some s => r.stages.any (fun g => s.src / pageBytes ≤ g.2 && g.2 < (s.src + s.bytes) / pageBytes)
      | none => false)
  | none => false

/-- Issue one waiting command, if its connection is ready and has room. -/
def Pkg.issueCmd (p : Pkg) (e : Env) (x : StoreCmd) : Pkg :=
  if x.issued.isSome || !p.ckp.cmds.contains x || (x.kind ≤ 2 && (p.connState x.conn != 2 || !p.connRoom x.conn)) then p
  else
    let y := p.cmdData e x
    let p1 := match y.2.1 with
      | .failed => y.1.updRun x.queue (fun u => { (u.abort e.tag 0x0a) with stopped := true })
      | o => y.1.updRun x.queue (fun u => u.told e.tag o)
    { p1 with ckp := { p1.ckp with cmds := p1.ckp.cmds.map (fun c => if c = x then { x with issued := some e.hall, data := y.2.2 } else c) } }

/-- Issue what may be issued, commands of shards with staged pages first (R519). -/
def Pkg.pumpStore (p : Pkg) (e : Env) : Pkg :=
  let ws := p.ckp.cmds.filter (fun x => x.issued.isNone)
  (ws.filter p.storeFirst ++ ws.filter (fun x => !p.storeFirst x)).foldl (fun (s : Pkg) x => s.issueCmd e x) p

/-! ### Masking (R517 to R522) -/

/-- Held writes whose pages are masked no longer are applied in the order of R291, and the time they were held is counted. -/
def Pkg.applyHeld (p : Pkg) (e : Env) (x : Nat) : Pkg :=
  p.held.foldl (fun (s : Pkg) h =>
    if s.rangeMasked h.addr h.bytes.length then s
    else
      let s1 : Pkg := { s with held := s.held.erase h }
      ((s1.store e h.user h.addr h.bytes).1).ckpCount x (Reg.CKP_CNT_STALL_NS x) (e.hall - h.since)) p

/-- Start the demand copies that held writes wait for (R519). -/
def Pkg.nextCopies (p : Pkg) : Pkg := p.held.foldl (fun (s : Pkg) h => s.demandCopy h.addr h.bytes.length) p

/-- The bytes of a page that its SAVE has yet to see acknowledged. -/
def Pkg.pagePending (p : Pkg) (r : CkRun) (page : Nat) : Bool :=
  (List.range r.shards.length).any (fun i =>
    let s := r.shards.getD i ⟨0, 0, 0, []⟩
    s.src / pageBytes ≤ page && page < (s.src + s.bytes) / pageBytes &&
    (p.cmdsOf r.queue).any (fun x => x.kind == 0 && x.shard == i &&
      rangesMeet (lbaBytes + (page * pageBytes - s.src)) pageBytes x.off (x.blocks * lbaBytes)))

/-- Pages written and acknowledged whole are unmasked, and staging pages written and acknowledged are freed (R518, R519). -/
def Pkg.unmaskDone (p : Pkg) (e : Env) (q : Nat) : Pkg :=
  match p.ckRun? q with
  | none => p
  | some r =>
    let done := (p.masks.filter (fun m => m.queue == q && m.copying.isNone && !p.pagePending r m.page)).map (fun m => m.page)
    let p1 : Pkg := { p with masks := p.masks.filter (fun m => !(m.queue == q && done.contains m.page)) }
    let freed := r.stages.filter (fun s => p.masks.any (fun m => m.queue == q && m.page == s.2) || p.pagePending r s.2)
    ((p1.setCk { r with stages := freed }).applyHeld e r.engine).nextCopies

/-- A SAVE or RESTORE ends, whatever its status: its commands are dropped, what it masks is unmasked, held writes are applied (R522). Where a RESTORE's
payload was being written and its record says UNDEF, the bytes of every source range are undefined (R531). -/
def Pkg.ckDrop (p : Pkg) (e : Env) (q : Nat) : Pkg :=
  match p.ckRun? q with
  | none => p
  | some r =>
    let p1 : Pkg := { p with
      masks := p.masks.filter (fun m => m.queue ≠ q)
      ckp := { p.ckp with runs := p.ckp.runs.filter (fun x => x.queue ≠ q), cmds := p.ckp.cmds.filter (fun c => c.queue ≠ q) } }
    let lost : Bool := r.kind == 1 && r.phase == 3 && (match p.runOf q with | some u => u.undef | none => false)
    let p2 := if lost then r.shards.foldl (fun (s : Pkg) x => s.freeBytes x.src x.bytes) p1 else p1
    (((p2.applyHeld e r.engine).nextCopies).setNat (Reg.CKP_STATUS r.engine) 0).pumpStore e

/-- A checkpoint descriptor has finished its work, with a change to its record. -/
def Pkg.ckEnd (p : Pkg) (e : Env) (q : Nat) (f : Run → Run) : Pkg :=
  (p.updRun q (fun u => { f u with finished := true, endBeat := e.tag })).ckDrop e q

/-- An error enters `CKP_ERR_INFO` of an I/O die (Table 15-11). Table 09-11 gives the engine interrupt source 112 or 113 for a cause that no rule names:
which kinds of error raise it is free. -/
def Pkg.ckErr (p : Pkg) (x kind conn status : Nat) : Pkg :=
  let k := Reg.CKP_ERR_INFO x
  let seq := (p.fld k Fld.CKP_ERR_SEQ + 1) % 256
  let q := (((p.setFld k Fld.CKP_ERR_KIND kind).setFld k Fld.CKP_ERR_CONN conn).setFld k Fld.CKP_ERR_NVME status).setFld k Fld.CKP_ERR_SEQ seq
  if Config.ckptRaises kind then q.raiseIrq (if kind = 1 then 8 else 13) (28 + x) (112 + x) else q

/-- A mismatch of a shard, or of the manifest, ends with 0x2B (R524, R528, R531, R538). -/
def Run.mismatch (u : Run) (tag shard : Nat) : Run := { u.raise tag 0x2b with kindInfo := 0, detail := shard * 2 ^ 32 }

/-- A storage failure ends with 0x3A (R525, R531, R538). -/
def Run.storageLost (u : Run) (tag status shard : Nat) (undef : Bool) : Run :=
  { u.raise tag 0x3a with kindInfo := status, detail := shard * 2 ^ 32, undef := u.undef || undef }

/-! ### What a SAVE or RESTORE does next (R523, R524, R528 to R531) -/

/-- State of an engine as `CKP_STATE` shows it, and the shards being hashed. -/
def Pkg.showCk (p : Pkg) (r : CkRun) (c : Nat) : Pkg :=
  let st := if r.kind = 0 then (if r.phase = 3 ∨ r.phase = 6 then 2 else 1) else if r.phase ≤ 2 then 3 else 4
  let active := ((List.range r.shards.length).filter (fun i => (p.cmdsOf r.queue).any (fun x => x.shard == i && x.kind ≤ 1))).length
  ((p.setFld (Reg.CKP_STATUS r.engine) Fld.CKP_STATE st).setFld (Reg.CKP_STATUS r.engine) Fld.CKP_CTX c).setFld (Reg.CKP_STATUS r.engine)
    Fld.CKP_SHARDS_ACTIVE (min 16 active)

/-- Enter a phase with its commands. -/
def Pkg.ckPhase (p : Pkg) (r : CkRun) (c phase : Nat) (cs : List StoreCmd) : Pkg :=
  let r1 := { r with phase := phase }
  ((p.setCk r1).addCmds cs).showCk r1 c

/-- Writes or reads of every shard's whole stream. -/
def CkRun.shardCmds (r : CkRun) (kind : Nat) : List StoreCmd :=
  ((List.range r.shards.length).map (fun i =>
    let s := r.shards.getD i ⟨0, 0, 0, []⟩
    streamCmds r.queue kind i 0 (1 + s.bytes / lbaBytes) s.extents)).flatten

/-- The manifest extent of a descriptor. -/
def manifestExt (b : List Byte) : Extent := parseExtent (b.drop 0x20)

/-- A SAVE's next phase, once every command of the present one has completed: 1 shards, 2 Flush, 3 read-back of shards, 4 manifest, 5 Flush, 6
read-back of the manifest, 7 and 8 its first LBA zeroed and flushed (R523, R524). -/
def Pkg.saveNext (p : Pkg) (e : Env) (u : Run) (r : CkRun) : Pkg :=
  let b := u.params
  let c := u.ctx
  let n := r.shards.length
  let ext := manifestExt b
  let writeManifest (q : Pkg) (x : CkRun) : Pkg :=
    let m := q.saveManifest x u.desc b x.manifest c
    let w := q.storeOrHold e (.descriptor u.queue) (leAt b 0x48 8) m
    w.1.ckPhase { x with manifest := m, moved := [] } c 4 (streamCmds u.queue 0 manifestShard 0 (manifestLbas n) [ext])
  let served (q : Pkg) : Pkg := q.ckEnd e u.queue (fun v => { v with kindInfo := sat16 r.copies, detail := leAt b 0 8 })
  match r.phase with
  | 1 => p.ckPhase { r with manifest := ((List.range n).map r.digest).flatten, moved := [] } c 2
      (flushCmds u.queue (r.shards.map (fun s => s.extents)).flatten)
  | 2 =>
    let r1 := { r with flushHall := e.tagHall }
    if ckVerify u.desc then p.ckPhase r1 c 3 (r1.shardCmds 1) else writeManifest p r1
  | 3 =>
    let bad := (List.range n).find? (fun i =>
      (r.stream i).take lbaBytes ≠ shardHeader (leAt b 0 8) n r.maskHall i (r.shards.getD i ⟨0, 0, 0, []⟩) ∨
        r.digest i ≠ (r.manifest.drop (32 * i)).take 32)
    (match bad with
     | some i => (p.ckErr r.engine 5 0 0).ckEnd e u.queue (fun v => v.mismatch e.tag i)
     | none => writeManifest p { r with moved := [] })
  | 4 => p.ckPhase r c 5 (flushCmds u.queue [ext])
  | 5 => if ckVerify u.desc then p.ckPhase { r with moved := [] } c 6 (streamCmds u.queue 1 manifestShard 0 (manifestLbas n) [ext]) else served p
  | 6 =>
    if r.stream manifestShard = p.viewBytes (leAt b 0x48 8) r.manifest.length then served p
    else (p.ckErr r.engine 5 ext.conn 0).ckPhase r c 7 (streamCmds u.queue 0 manifestShard 0 1 [ext])
  | 7 => p.ckPhase r c 8 (flushCmds u.queue [ext])
  | _ => p.ckEnd e u.queue (fun v => v.mismatch e.tag manifestShard)

/-- A manifest that a RESTORE reads is not one (cause 0x76): magic, version, digest, shard count. -/
def manifestWrong (m : List Byte) (n : Nat) : Bool :=
  leAt m 0 4 != 0x464d5147 || leAt m 4 2 != 1 || leAt m 0x24 4 != n || (m.drop 0xe0).take 32 != manifestDigest m

/-- Entry i of a manifest: source, payload bytes, digest. -/
def manifestEntry (m : List Byte) (i : Nat) : Nat × Nat × List Byte :=
  let o := 0x100 + 64 * i
  (leAt m (o + 8) 8, leAt m (o + 16) 8, (m.drop (o + 0x20)).take 32)

/-- The report of odd shards (R529). -/
def oddReport (step : Nat) (odd : List (Nat × Nat)) : List Byte :=
  leBytes 8 step ++ leBytes 8 odd.length ++ ((odd.take 255).map (fun x => leBytes 4 x.1 ++ leBytes 4 0 ++ leBytes 8 x.2)).flatten

/-- A RESTORE aborts with a cause. -/
def Pkg.ckAbort (p : Pkg) (e : Env) (q cause : Nat) : Pkg := p.ckEnd e q (fun v => v.abort e.tag cause)

/-- A RESTORE ends with 0x31: the report lists the current manifest's odd shards (R529, R530). -/
def Pkg.ckMixed (p : Pkg) (e : Env) (u : Run) (step : Nat) (odd : List (Nat × Nat)) : Pkg :=
  let w := p.storeOrHold e (.descriptor u.queue) (leAt u.params 0x40 8) (oddReport step odd)
  w.1.ckEnd e u.queue (fun v => { v.raise e.tag 0x31 with kindInfo := 0, detail := odd.length })

/-- A RESTORE turns to the previous manifest (R530). -/
def Pkg.ckFallBack (p : Pkg) (e : Env) (u : Run) (r : CkRun) (step : Nat) (odd : List (Nat × Nat)) : Pkg :=
  let ext := parseExtent ((r.manifest.drop 0x38).take 16)
  match ckPrevTable u.params with
  | none => p.ckAbort e u.queue 0x76
  | some t =>
    if ext.count < manifestLbas t.2 ∨ t.2 = 0 then p.ckAbort e u.queue 0x76
    else if p.connBad u.desc 2 ext.conn then p.ckAbort e u.queue 0x73
    else p.ckPhase { r with previous := true, odd := odd, oddStep := step, shards := p.shardTable t.1 t.2, moved := [] } u.ctx 1
      (streamCmds u.queue 1 manifestShard 0 (manifestLbas t.2) [ext])

/-- The manifest has been read: its checks, then the reads of every header (R528, steps 1 to 3; R614). -/
def Pkg.restoreManifest (p : Pkg) (e : Env) (u : Run) (r : CkRun) : Pkg :=
  let m := r.stream manifestShard
  let n := r.shards.length
  let r1 := { r with manifest := m, moved := [] }
  let enc : Bool := (leAt m 6 2).testBit 1
  if manifestWrong m n || (r.previous && r.oddStep ≤ leAt m 8 8) then p.ckAbort e u.queue 0x76
  else if ckSigchk u.desc && leAt m 0x18 8 != p.numSig u.ctx then p.ckAbort e u.queue 0x74
  else if enc && (assoc? p.mgt.ckptKeys u.ctx).isNone then p.ckAbort e u.queue 0x78
  else
    let w := p.storeOrHold e (.descriptor u.queue) (leAt u.params 0x48 8) m
    w.1.ckPhase r1 u.ctx 2 (((List.range n).map (fun i =>
      streamCmds u.queue 1 i 0 1 (r.shards.getD i ⟨0, 0, 0, []⟩).extents)).flatten)

/-- A shard header as read does not match its manifest entry (R528, step 3). -/
def headerWrong (m h : List Byte) (i : Nat) : Bool :=
  leAt h 0x7c 4 != crc32c (h.take 0x7c) || leAt h 0x10 4 != i || leAt h 0x18 8 != (manifestEntry m i).1 || leAt h 0x20 8 != (manifestEntry m i).2.1

/-- Every header has been read: their checks, odd steps, R514 over the manifest's sources, then the payload reads (R528 to R530). -/
def Pkg.restoreHeaders (p : Pkg) (e : Env) (u : Run) (r : CkRun) : Pkg :=
  let n := r.shards.length
  let m := r.manifest
  let step := leAt m 8 8
  let h (i : Nat) : List Byte := r.stream i
  match (List.range n).find? (fun i => headerWrong m (h i) i) with
  | some i => (p.ckErr r.engine 6 0 0).ckEnd e u.queue (fun v => v.mismatch e.tag i)
  | none =>
    let odd := ((List.range n).map (fun i => (i, leAt (h i) 8 8))).filter (fun x => x.2 != step)
    if !odd.isEmpty then
      if r.previous then p.ckMixed e u r.oddStep r.odd
      else if ckFallback u.desc then p.ckFallBack e u r step odd
      else p.ckMixed e u step odd
    else
      let src (i : Nat) : CkShard := { r.shards.getD i ⟨0, 0, 0, []⟩ with src := (manifestEntry m i).1, bytes := (manifestEntry m i).2.1 }
      let ss := (List.range n).map src
      match firstFail (abortIf (ss.any (fun s => (s.extents.map (fun x => x.count)).sum * lbaBytes < lbaBytes + s.bytes)) 0x71 ::
          ss.map (fun s => p.rangeVerdict u.ctx (none, s.src, s.bytes))) with
      | some v => p.ckEnd e u.queue (fun w => if v.1 = 0x3f then w.abort e.tag v.2 else w.raise e.tag v.1)
      | none =>
        p.ckPhase { r with shards := ss, moved := [] } u.ctx 3 (((List.range n).map (fun i =>
          streamCmds u.queue 1 i 1 (1 + (src i).bytes / lbaBytes) (src i).extents)).flatten)

/-- Every payload has been read and written: the digests decide (R530, R531). -/
def Pkg.restorePayload (p : Pkg) (e : Env) (u : Run) (r : CkRun) : Pkg :=
  let m := r.manifest
  match (List.range r.shards.length).find? (fun i => sha256 (r.stream i) ≠ (manifestEntry m i).2.2) with
  | some i => (p.ckErr r.engine 5 0 0).ckEnd e u.queue (fun v => { v.mismatch e.tag i with undef := true })
  | none => p.ckEnd e u.queue (fun v =>
      { (if r.previous then v.raise e.tag 0x2d else v) with kindInfo := 0, detail := leAt m 8 8 })

/-- Go on with a SAVE or RESTORE when its phase's commands have all completed; one that met an uncorrectable source ends. -/
def Pkg.ckAdvance (p : Pkg) (e : Env) (q : Nat) : Pkg :=
  match p.runOf q, p.ckRun? q with
  | some u, some r =>
    if u.statuses.any (fun s => s.2 = 0x3f) then p.ckEnd e q id
    else if r.phase = 0 || !(p.cmdsOf q).isEmpty then p.showCk r u.ctx
    else if r.kind = 0 then p.saveNext e u r
    else if r.phase = 1 then p.restoreManifest e u r
    else if r.phase = 2 then p.restoreHeaders e u r
    else p.restorePayload e u r
  | _, _ => p

/-- Issue and go on until something waits for storage or the descriptor has finished. -/
def Pkg.ckFlow (p : Pkg) (e : Env) (q : Nat) : Nat → Pkg
  | 0 => p
  | k + 1 =>
    let p1 := p.pumpStore e
    if (p1.ckRun? q).isNone then p1
    else
      let p2 := p1.ckAdvance e q
      if (p2.cmdsOf q).isEmpty && (p2.ckRun? q).isSome && p2.ckRun? q != p1.ckRun? q then p2.ckFlow e q k else p2.pumpStore e

/-- Phases of a SAVE or RESTORE at most. -/
abbrev ckFuel : Nat := 16

/-! ### SAVE and RESTORE -/

/-- A checkpoint start's commands: the kind it is for; one whose kind is reserved is ended by any. -/
def ckMine (kind : Nat) (d : List Byte) : Bool := dKind d == 5 && (ckKind d == kind || ckKind d > 5)

/-- A checkpoint descriptor of a reserved kind ends with 0x70. -/
def Pkg.ckReserved (p : Pkg) (e : Env) (q : Nat) (d : List Byte) (k : Pkg) : Pkg := if ckKind d > 5 then p.completeHead e q d 0x3f 0x70 else k

/-- What is read for a shard table: its entries and their extents. -/
def Pkg.shardReads (p : Pkg) (a n : Nat) : List (Nat × Nat) :=
  (a, 64 * n) :: (List.range n).map (fun i => let b := p.viewBytes (a + 64 * i) 64; (leAt b 0x10 8, 16 * min 65536 (leAt b 0x18 4)))

/-- What is read for a SAVE or RESTORE: its parameter block and its shard tables. -/
def Pkg.ckReads (p : Pkg) (c : Nat) (d : List Byte) : List (Nat × Nat) :=
  let b := p.paramBytes c d 128
  if ckKind d > 5 then [] else
  p.paramReads c d 128 ++ (if b.isEmpty then [] else p.shardReads (leAt b 8 8) (min 4096 (leAt b 0x10 4)) ++
    (if ckKind d = 1 then match ckPrevTable b with | some x => p.shardReads x.1 (min 4096 x.2) | none => [] else []))

/-- SAVE starts: its pages are masked at the next beat (R517, R523). -/
def startSave (q : Nat) (e : Env) (p : Pkg) : Pkg :=
  p.start e q (ckMine 0) (fun d => p.ckReads (p.queueCtx q) d) (fun p d => p.ckReserved e q d (
    let c := p.queueCtx q
    let b := p.paramBytes c d 128
    p.orRun e q d (p.ckVerdict c d b)
      (let r : CkRun := ⟨q, ckEngine d, 0, 0, p.shardTable (leAt b 8 8) (leAt b 0x10 4), e.tagHall + 16, 0, [], [], leAt b 0x18 8, leAt b 0x14 4, [], 0,
          false, [], 0⟩
       let p1 := p.enterRun (p.newRun e q d b)
       let p2 : Pkg := { p1 with ckp := { p1.ckp with runs := p1.ckp.runs ++ [r] } }
       p2.showCk r c)))

/-- The mask beat: every page of the source ranges is masked, and writing begins (R517). -/
def maskApply (q : Nat) (e : Env) (p : Pkg) : Pkg :=
  match p.ckRun? q, p.runOf q with
  | some r, some u =>
    if r.kind ≠ 0 ∨ r.phase ≠ 0 ∨ e.tagHall < r.maskHall then p
    else
      let pages := (r.shards.map (fun s => pagesOf s.src s.bytes)).flatten
      let p1 : Pkg := { p with masks := p.masks ++ pages.map (fun x => ⟨x, q, none⟩) }
      (p1.ckPhase { r with maskHall := e.tagHall } u.ctx 1 (r.shardCmds 0)).ckFlow e q ckFuel
  | _, _ => p

/-- RESTORE starts with the manifest (R528). -/
def startRestore (q : Nat) (e : Env) (p : Pkg) : Pkg :=
  p.start e q (ckMine 1) (fun d => p.ckReads (p.queueCtx q) d) (fun p d => p.ckReserved e q d (
    let c := p.queueCtx q
    let b := p.paramBytes c d 128
    p.orRun e q d (p.ckVerdict c d b)
      (let n := leAt b 0x10 4
       let r : CkRun := ⟨q, ckEngine d, 1, 1, p.shardTable (leAt b 8 8) n, 0, 0, [], [], 0, 0, [], 0, false, [], 0⟩
       let p1 := p.enterRun (p.newRun e q d b)
       let p2 : Pkg := { p1 with ckp := { p1.ckp with runs := p1.ckp.runs ++ [r] } }
       (p2.ckPhase r c 1 (streamCmds q 1 manifestShard 0 (manifestLbas n) [manifestExt b])).ckFlow e q ckFuel)))

/-- A demand copy of a page completes: it lies in its staging page, the page is unmasked, held writes are applied (R518, R519). -/
def demandCopyEnd (page : Nat) (e : Env) (p : Pkg) : Pkg :=
  match p.masks.find? (fun m => m.page == page && m.copying.isSome) with
  | none => p
  | some m =>
    match m.copying, p.ckRun? m.queue with
    | some i, some r =>
      let bs := (List.range pageBytes).map (fun k => p.maskedByte (page * pageBytes + k))
      let w := p.store e (.descriptor r.queue) (r.stageBase + i * pageBytes) bs
      let p1 : Pkg := { w.1 with masks := w.1.masks.filter (fun x => x ≠ m) }
      let p2 := (p1.setCk { r with copies := r.copies + 1 }).ckpCount r.engine (Reg.CKP_CNT_DEMAND_COPY r.engine) 1
      ((p2.applyHeld e r.engine).nextCopies).unmaskDone e m.queue
    | _, _ => p

/-! ### Connections (R512) -/

/-- Length of a NUL-terminated string in memory, none when 223 bytes hold no NUL after them. -/
def Pkg.cString (p : Pkg) (a : Nat) : Option Nat := (List.range 224).find? (fun i => p.view (a + i) == 0)

/-- The checks of a CONNECT (Table 15-4). -/
def Pkg.connectVerdict (p : Pkg) (c : Nat) (d b : List Byte) : Verdict :=
  let n := leAt b 0 1
  let port := leAt b 1 1
  let name (a : Nat) : Verdict := p.rangeVerdict c (none, a, match p.cString a with | some k => k + 1 | none => 224)
  firstFail [abortIf (!dHasParam d) 0x01, abortIf (!p.noHole (p.paramAddr c d) 64) 0x05, abortIf (ckOpBad d) 0x70,
    abortIf (n > 63 || port > 1 || leAt b 4 1 == 0 || leAt b 4 1 > 16 || leAt b 5 1 < 16 || leAt b 5 1 > 128 || leAt b 6 2 != 0 ||
      (b.drop 0x28).any (fun x => x != 0) || (p.cString (leAt b 0x18 8)).isNone || (p.cString (leAt b 0x20 8)).isNone) 0x01,
    abortIf (!(p.connState n == 0 || p.connState n == 3) || !(ckPorts d).testBit port) 0x73,
    abortIf ((List.range 5).any (fun l => dCount d l != 1)) 0x06, name (leAt b 0x18 8), name (leAt b 0x20 8),
    if p.dieLost (28 + ckEngine d) then some (0x37, 0) else none]

/-- Set a connection's status register. -/
def Pkg.setConn (p : Pkg) (n state port queues owner last : Nat) : Pkg :=
  let k := Reg.CKP_CONN_STATUS n
  (((((p.setReg k 0).setFld k Fld.CKP_CS_STATE state).setFld k Fld.CKP_CS_PORT port).setFld k Fld.CKP_CS_QUEUES queues).setFld k Fld.CKP_CS_OWNER
    owner).setFld k Fld.CKP_CS_LAST last

/-- CONNECT starts: the admin queue and the I/O queues are set up in turn (R512). -/
def startConnect (q : Nat) (e : Env) (p : Pkg) : Pkg :=
  p.start e q (ckMine 2) (fun d => p.paramReads (p.queueCtx q) d 64) (fun p d => p.ckReserved e q d (
    let c := p.queueCtx q
    let b := p.paramBytes c d 64
    p.orRun e q d (p.connectVerdict c d b)
      (let n := leAt b 0 1
       let p1 := (p.enterRun (p.newRun e q d b)).setConn n 1 (leAt b 1 1) 0 c 0
       let p2 := p1.addCmds ((List.range (1 + leAt b 4 1)).map (fun i => ⟨0, q, 3, n, i, 0, 0, manifestShard, 0, [], 0, none⟩))
       (((p2.setFld (Reg.CKP_STATUS (ckEngine d)) Fld.CKP_STATE 7).setFld (Reg.CKP_STATUS (ckEngine d)) Fld.CKP_CTX c)).pumpStore e)))

/-- A CONNECT whose queues are all established completes; a DISCONNECT closes when no command of its connection is outstanding (R512). -/
def Pkg.connFlow (p : Pkg) (e : Env) (q : Nat) : Pkg :=
  match p.runOf q with
  | none => p
  | some u =>
    if u.kind ≠ 5 ∨ u.finished then p
    else
      let n := leAt u.params 0 1
      let x := ckEngine u.desc
      let idle (s : Pkg) : Pkg := s.setNat (Reg.CKP_STATUS x) 0
      let done (s : Pkg) : Pkg := s.updRun q (fun v => { v with finished := true, endBeat := e.tag })
      if ckKind u.desc = 2 ∧ (p.cmdsOf q).isEmpty then
        let p1 : Pkg := { p with ckp := { p.ckp with conns := p.ckp.conns.filter (fun c => c.num ≠ n) ++ [⟨n, leAt u.params 5 1⟩] } }
        done (idle (p1.setConn n 2 (leAt u.params 1 1) (leAt u.params 4 1) u.ctx 0))
      else if ckKind u.desc = 3 ∧ !p.ckp.cmds.any (fun c => c.conn == n) then
        let p1 : Pkg := { p with ckp := { p.ckp with conns := p.ckp.conns.filter (fun c => c.num ≠ n) } }
        done (idle (p1.setReg (Reg.CKP_CONN_STATUS n) 0))
      else p

/-- DISCONNECT starts: it waits for the connection's outstanding commands (R512). Its block names the connection as a CONNECT's does. -/
def startDisconnect (q : Nat) (e : Env) (p : Pkg) : Pkg :=
  p.start e q (ckMine 3) (fun d => p.paramReads (p.queueCtx q) d 64) (fun p d => p.ckReserved e q d (
    let c := p.queueCtx q
    let b := p.paramBytes c d 64
    p.orRun e q d (firstFail [abortIf (!dHasParam d) 0x01, abortIf (!p.noHole (p.paramAddr c d) 64) 0x05, abortIf (ckOpBad d) 0x70,
        abortIf (leAt b 0 1 > 63) 0x01, abortIf (p.connBad d 2 (leAt b 0 1)) 0x73,
        abortIf ((List.range 5).any (fun l => dCount d l != 1)) 0x06, if p.dieLost (28 + ckEngine d) then some (0x37, 0) else none])
      ((((p.enterRun (p.newRun e q d b)).setFld (Reg.CKP_STATUS (ckEngine d)) Fld.CKP_STATE 7).setFld (Reg.CKP_STATUS (ckEngine d)) Fld.CKP_CTX
        c).connFlow e q)))

/-- A connection is closed by the target or the network: lost, reported and logged (R512). -/
def connectionLost (n : Nat) (_ : Env) (p : Pkg) : Pkg :=
  if p.connState n = 2 ∨ p.connState n = 1 then
    let x := p.connPort n
    (((p.setFld (Reg.CKP_CONN_STATUS n) Fld.CKP_CS_STATE 3).ckErr x 4 n 0)).record (28 + x) 0xf000 9 0 (leBytes 4 n ++ leBytes 4 manifestShard)
  else p

/-! ### Completions of storage commands (R511, R525, R526) -/

/-- Drop a completed command. -/
def Pkg.dropCmd (p : Pkg) (c : StoreCmd) : Pkg := { p with ckp := { p.ckp with cmds := p.ckp.cmds.filter (fun x => x.id ≠ c.id) } }

/-- Replace a command. -/
def Pkg.putCmd (p : Pkg) (c : StoreCmd) : Pkg := { p with ckp := { p.ckp with cmds := p.ckp.cmds.map (fun x => if x.id = c.id then c else x) } }

/-- Every checkpoint descriptor goes on. -/
def Pkg.ckAll (p : Pkg) (e : Env) : Pkg :=
  (p.dsp.runs.filter (fun u => u.kind == 5 && ckKind u.desc ≤ 3)).foldl (fun (s : Pkg) u => (s.ckFlow e u.queue ckFuel).connFlow e u.queue) p

/-- A command failed: it is issued again with the same LBAs and data, up to 4 times, and then ends its descriptor (R525, R531). -/
def Pkg.cmdFailed (p : Pkg) (e : Env) (c : StoreCmd) (kind status : Nat) : Pkg :=
  let x := p.connPort c.conn
  let p1 := ((p.ckErr x kind c.conn status).setFld (Reg.CKP_CONN_STATUS c.conn) Fld.CKP_CS_LAST status).record (28 + x) 0xf000 9 status
    (leBytes 4 c.conn ++ leBytes 4 c.shard)
  if c.tries < 4 then (p1.putCmd { c with tries := c.tries + 1, issued := some e.hall }).ckpCount x (Reg.CKP_CNT_CMD_RETRY x) 1
  else
    let payload : Bool := match p1.ckRun? c.queue with | some r => r.kind == 1 && r.phase == 3 | none => false
    if c.kind = 3 then
      let p2 : Pkg := { p1 with ckp := { p1.ckp with cmds := p1.ckp.cmds.filter (fun y => y.queue ≠ c.queue) } }
      let engine := match p2.runOf c.queue with | some u => ckEngine u.desc | none => 0
      ((p2.setConn c.conn 0 x 0 0 status).setNat (Reg.CKP_STATUS engine) 0).updRun c.queue (fun u =>
        { u.storageLost e.tag status c.shard false with finished := true, endBeat := e.tag })
    else p1.ckEnd e c.queue (fun u => u.storageLost e.tag status c.shard payload)

/-- A read's data is taken: kept for its checks, and a payload's written to its source address, deciphered when the manifest says it is
encrypted (R528, R531, R614). -/
def Pkg.readTaken (p : Pkg) (e : Env) (c : StoreCmd) (data : List Byte) : Pkg :=
  match p.ckRun? c.queue, p.runOf c.queue with
  | some r, some u =>
    let bs := padTo (c.blocks * lbaBytes) data
    let p1 := p.setCk { r with moved := r.moved ++ [(c.shard, c.off, bs)] }
    if r.kind = 1 ∧ r.phase = 3 then
      let s := r.shards.getD c.shard ⟨0, 0, 0, []⟩
      let enc : Bool := (leAt r.manifest 6 2).testBit 1
      (List.range c.blocks).foldl (fun (q : Pkg) i =>
        let unit := c.off / lbaBytes + i - 1
        let raw := (bs.drop (i * lbaBytes)).take lbaBytes
        let plain := if enc then q.cryptUnit false u.ctx (leAt r.manifest 8 8) c.shard unit s raw else raw
        (q.storeOrHold e (.descriptor c.queue) (s.src + unit * lbaBytes) plain).1) p1
    else p1
  | _, _ => p

/-- A storage command completes at a port: with an error status, with a parity error met in the engine, or well (R518, R525, R526). -/
def storageComplete (x id status : Nat) (data : List Byte) (parity : Bool) (e : Env) (p : Pkg) : Pkg :=
  match p.ckp.cmds.find? (fun c => c.id == id && c.issued.isSome && p.connPort c.conn == x) with
  | none => p
  | some c =>
    let engine := match p.runOf c.queue with | some u => ckEngine u.desc | none => 0
    if parity && c.kind ≤ 1 then
      let p1 := (p.ckErr engine 1 c.conn 0).updRun c.queue (fun u => u.raise e.tag 4)
      let p2 := p1.event 8 (28 + engine) 0xf000 1 1 (leBytes 8 (p1.regNat (Reg.CKP_ERR_INFO engine)))
      let p3 := if c.kind = 0 then p2.ckpCount engine (Reg.CKP_CNT_REWRITE engine) 1 else p2
      (p3.putCmd { c with issued := none, data := [] }).pumpStore e
    else if status ≠ 0 then (p.cmdFailed e c 2 (status % 2048)).ckAll e
    else
      let p1 := p.dropCmd c
      let p2 := match c.kind with
        | 0 =>
          let p3 := p1.ckpCount engine (Reg.CKP_CNT_BYTES_OUT engine) (c.blocks * lbaBytes)
          (match p3.ckRun? c.queue with
           | some r =>
             let p4 := if c.shard = manifestShard then p3 else p3.setCk { r with moved := r.moved ++ [(c.shard, c.off, c.data)] }
             p4.unmaskDone e c.queue
           | none => p3)
        | 1 => (p1.ckpCount engine (Reg.CKP_CNT_BYTES_IN engine) (c.blocks * lbaBytes)).readTaken e c data
        | _ => p1
      p2.ckAll e

/-- A command has not completed after 1 s (R525). -/
def storageTimeout (x id : Nat) (e : Env) (p : Pkg) : Pkg :=
  match p.ckp.cmds.find? (fun c => c.id == id && p.connPort c.conn == x) with
  | some c =>
    (match c.issued with
     | some t => if t + 1000000000 ≤ e.hall then (p.cmdFailed e c 3 0).ckAll e else p
     | none => p)
  | none => p

/-! ### The commands -/

/-- SAVE (R523). -/
def execSave (q : Fin 64) (s : State) : Host.Outcome State Fault Refusal := s.work .none (startSave q.val)

/-- RESTORE (R528). -/
def execRestore (q : Fin 64) (s : State) : Host.Outcome State Fault Refusal := s.work .none (startRestore q.val)

/-- CONNECT (R512). -/
def execConnect (q : Fin 64) (s : State) : Host.Outcome State Fault Refusal := s.work .none (startConnect q.val)

/-- DISCONNECT (R512). -/
def execDisconnect (q : Fin 64) (s : State) : Host.Outcome State Fault Refusal := s.work .none (startDisconnect q.val)

/-- MASK_APPLY (R517). -/
def execMaskApply (q : Fin 64) (s : State) : Host.Outcome State Fault Refusal := s.work .none (maskApply q.val)

/-- DEMAND_COPY_END (R519). -/
def execDemandCopyEnd (page : Nat) (s : State) : Host.Outcome State Fault Refusal := s.work .none (demandCopyEnd page)

/-- STORAGE_COMMAND_COMPLETE (R525, R526). -/
def execStorageCommandComplete (x : Fin 2) (cmd status : Nat) (data : List Byte) (parity : Bool) (s : State) : Host.Outcome State Fault Refusal :=
  s.work .none (storageComplete x.val cmd status data parity)

/-- STORAGE_COMMAND_TIMEOUT (R525). -/
def execStorageCommandTimeout (x : Fin 2) (cmd : Nat) (s : State) : Host.Outcome State Fault Refusal :=
  s.work .none (storageTimeout x.val cmd)

/-- CONNECTION_LOST (R512). -/
def execConnectionLost (conn : Fin 64) (s : State) : Host.Outcome State Fault Refusal := s.work .none (connectionLost conn.val)

end Sys2Proof.Machine
end

