-- ==== Sys2Proof/Machine/Bcast.lean ====
section
/-! DEFINITION. Job start by tree broadcast (spec 15_checkpoint_restore_and_start.md, R532 to R536): the originator and the members, the
messages between them, re-attachment, dropped children, the ends. A message's form on the fabric is not in the spec: messages leave through
`ckp.sent` and arrive with BCAST_BLOCK. -/

namespace Sys2Proof.Machine

/-- A block of an image (R533), the 2 ms of R534. -/
abbrev imageBlock : Nat := 2 ^ 22
abbrev bcastQuiet : Nat := 2000000

/-- Blocks of an image. -/
def Bcast.blocks (b : Bcast) : Nat := ceilDiv b.bytes imageBlock

/-- Bytes of block i. -/
def Bcast.blockLen (b : Bcast) (i : Nat) : Nat := min imageBlock (b.bytes - imageBlock * i)

/-- The member-table CRC that a member sends on attaching (R532). -/
def Bcast.tableCrc (b : Bcast) : Nat := crc32c ((b.members.map (leBytes 4)).flatten)

/-- A member's parent (R532). -/
def memberParent (i : Nat) : Nat := (i - 1) / 8

/-- A member's children (R532). -/
def memberChildren (i n : Nat) : List Nat := rangeFilter 8 (fun k => 8 * i + 1 + k < n) |>.map (fun k => 8 * i + 1 + k)

/-- The open broadcast of a queue. -/
def Pkg.bcast? (p : Pkg) (q : Nat) : Option Bcast := p.ckp.bcasts.find? (fun b => b.queue == q && !b.closed)

/-- Put back the open broadcast of a queue. -/
def Pkg.setBcast (p : Pkg) (b : Bcast) : Pkg :=
  { p with ckp := { p.ckp with bcasts := p.ckp.bcasts.map (fun (x : Bcast) => if x.queue = b.queue ∧ !x.closed then b else x) } }

/-- Send a message to a member. -/
def Pkg.tell (p : Pkg) (q member : Nat) (m : BcastMsg) : Pkg := { p with ckp := { p.ckp with sent := p.ckp.sent ++ [⟨q, member, m⟩] } }

/-- A broadcast's descriptor ends; its entry stays while its OR is not answered (R535). -/
def Pkg.bcastEnd (p : Pkg) (e : Env) (b : Bcast) (f : Run → Run) : Pkg :=
  let x := match p.runOf b.queue with | some u => ckEngine u.desc | none => 0
  let p1 := (p.setBcast { b with closed := true }).updRun b.queue (fun u =>
    { f { u with kindInfo := min 0xffff b.reattached, detail := 0 } with finished := true, endBeat := e.tag })
  p1.setNat (Reg.CKP_STATUS x) 0

/-- A member asks a parent to serve it, from its last verified block plus 1 (R532, R534). -/
def Pkg.bcastAttach (p : Pkg) (b : Bcast) : Pkg := p.tell b.queue b.parent (.attach b.me b.tableCrc b.done)

/-- A member sets its bit in the originator's bitmap by a fabric OR (R535). -/
def Pkg.bcastOr (p : Pkg) (e : Env) (b : Bcast) : Pkg :=
  let dest := b.members.headD 0 % 2 ^ 18
  let p1 : Pkg := { p with ckp := { p.ckp with bcasts := p.ckp.bcasts.map (fun (x : Bcast) =>
    if x.queue = b.queue ∧ x.uid = b.uid then { x with orState := 1 } else x) } }
  (p1.addReq e (p.engineFor (p.queueCtx b.queue) dest) dest 0 tyAtomic (fabAddr dest (b.bitmap + 8 * (b.me / 64))) 8 0x16
    (leBytes 8 (2 ^ (b.me % 64))) (.bcast b.queue b.uid)).sendAll e

/-- A member that has verified every block, and whose children have all acknowledged every block or been dropped, completes (R535). -/
def Pkg.bcastDone (p : Pkg) (e : Env) (q : Nat) : Pkg :=
  match p.bcast? q with
  | some b =>
    if !b.origin && b.done = b.blocks && b.children.all (fun c => c.acked ≥ b.blocks) then
      p.bcastEnd e b (fun u => if b.reattached = 0 then u else u.raise e.tag 0x0e)
    else p
  | none => p

/-- The bytes of a block as they lie in the image area. -/
def Pkg.bcastRead (p : Pkg) (e : Env) (b : Bcast) (i : Nat) : Pkg × List Byte :=
  let a := b.image + imageBlock * i
  let t := p.touchRange e (.descriptor b.queue) a (b.blockLen i)
  let p1 := match t.2 with
    | .failed => t.1.bcastEnd e b (fun u => u.abort e.tag 0x0a)
    | o => t.1.updRun b.queue (fun u => u.told e.tag o)
  (p1, p1.viewBytes a (b.blockLen i))

/-- Send a block to a member. -/
def Pkg.bcastServe (p : Pkg) (e : Env) (q member i : Nat) : Pkg :=
  match p.bcast? q with
  | some b => let r := p.bcastRead e b i; if (r.1.bcast? q).isSome then r.1.tell q member (.block i r.2) else r.1
  | none => p

/-- A member attaches: one whose table differs is told so; another is served the table and the blocks it asks for (R532 to R534). -/
def Pkg.bcastAdopt (p : Pkg) (e : Env) (b : Bcast) (member crc next : Nat) : Pkg :=
  if crc ≠ b.tableCrc then p.tell b.queue member .mismatch
  else
    let p1 := p.setBcast { b with children := b.children.filter (fun c => c.member ≠ member) ++ [⟨member, true, next, e.hall⟩] }
    if b.table.isEmpty then p1
    else
      (List.range (b.done - next)).foldl (fun (s : Pkg) i => s.bcastServe e b.queue member (next + i))
        (p1.tell b.queue member (.table b.bitmap b.table))

/-- A member re-attaches to the next ancestor above its parent, up to the originator (R534). -/
def Pkg.bcastUp (p : Pkg) (e : Env) (b : Bcast) : Pkg :=
  if b.parent = 0 then p
  else
    let b1 := { b with parent := memberParent b.parent, reattached := b.reattached + 1, fails := 0, quiet := e.hall }
    let x := match p.runOf b.queue with | some u => ckEngine u.desc | none => 0
    ((p.setBcast b1).ckpCount x (Reg.CKP_CNT_REATTACH x) 1).bcastAttach b1

/-- A block or the table fails its check: it is asked for again, and a third failure counts as the parent's own (R533). -/
def Pkg.bcastFail (p : Pkg) (e : Env) (b : Bcast) : Pkg :=
  let b1 := { b with fails := b.fails + 1 }
  let x := match p.runOf b.queue with | some u => ckEngine u.desc | none => 0
  let p1 := (p.ckErr x 5 0 0).setBcast b1
  if b1.fails ≥ 3 ∧ b1.parent ≠ 0 then p1.bcastUp e b1 else p1.bcastAttach b1

/-- A member's block-digest table arrives: checked against the image digest, kept and forwarded (R533). -/
def Pkg.bcastTable (p : Pkg) (e : Env) (b : Bcast) (bitmap : Nat) (bytes : List Byte) : Pkg :=
  if !b.table.isEmpty then p
  else if bytes.length ≠ 32 * b.blocks ∨ !(b.digest.all (fun x => x == 0) || sha256 bytes == b.digest) then p.bcastFail e b
  else
    let w := (p.setBcast { b with table := bytes, bitmap := bitmap }).storeOrHold e (.descriptor b.queue) b.tableAt bytes
    (b.children.filter (fun c => c.attached)).foldl (fun (s : Pkg) c => s.tell b.queue c.member (.table bitmap bytes)) w.1

/-- The next block arrives: checked against the table, written, acknowledged and forwarded to the children; the last sets the member's bit
(R533, R535). -/
def Pkg.bcastTake (p : Pkg) (e : Env) (b : Bcast) (i : Nat) (data : List Byte) : Pkg :=
  if b.table.isEmpty ∨ i ≠ b.done ∨ b.done ≥ b.blocks then p
  else if data.length ≠ b.blockLen i ∨ sha256 data ≠ (b.table.drop (32 * i)).take 32 then p.bcastFail e b
  else
    let b1 := { b with done := i + 1, quiet := e.hall, served := e.hall }
    let w := (p.setBcast b1).storeOrHold e (.descriptor b.queue) (b.image + imageBlock * i) data
    let p1 := w.1.tell b.queue b.parent (.ack b.me (i + 1))
    let p2 := (b.children.filter (fun c => c.attached)).foldl (fun (s : Pkg) c => s.tell b.queue c.member (.block i data)) p1
    if b1.done = b1.blocks then (p2.bcastOr e b1).bcastDone e b.queue else p2

/-- A message reaches a member's or the originator's broadcast (R532 to R535). -/
def bcastBlock (q : Nat) (m : BcastMsg) (e : Env) (p : Pkg) : Pkg :=
  match p.bcast? q with
  | none => p
  | some b =>
    match m with
    | .table bitmap bytes => if b.origin then p else p.bcastTable e b bitmap bytes
    | .block i data => if b.origin then p else p.bcastTake e b i data
    | .attach member crc next => (p.bcastAdopt e b member crc next).bcastDone e q
    | .ack member next =>
      (p.setBcast { b with children := b.children.map (fun (c : BcastChild) =>
        if c.member = member then { c with acked := max c.acked next, heard := e.hall } else c) }).bcastDone e q
    | .mismatch => if b.origin then p else p.bcastEnd e b (fun u => u.abort e.tag 0x77)

/-! ### Starts -/

/-- A broadcast's parameter block breaks Table 15-8. -/
def bcastParamBad (origin : Bool) (b : List Byte) : Bool :=
  leAt b 0 8 == 0 || leAt b 0x10 4 < 2 || leAt b 0x10 4 > 262144 || leAt b 0x14 4 != 0 || leAt b 0x18 8 % imageBlock != 0 ||
  leAt b 0x20 8 == 0 || leAt b 0x20 8 > 2 ^ 40 || (if origin then leAt b 0x50 8 % 8 != 0 else leAt b 0x50 8 != 0) || leAt b 0x58 4 > 600000 ||
  (b.drop 0x5c).any (fun x => x != 0)

/-- Entries of a member table. -/
def Pkg.memberTable (p : Pkg) (b : List Byte) : List Nat :=
  (List.range (min 262144 (leAt b 0x10 4))).map (fun i => leNat (p.viewBytes (leAt b 8 8 + 4 * i) 4))

/-- This package's number in a member table. -/
def Pkg.memberNumber (p : Pkg) (ms : List Nat) : Option Nat := (List.range ms.length).find? (fun i => ms.getD i 0 % 2 ^ 18 == p.ownLoc)

/-- The checks of a broadcast (R513, R514, R532, Tables 15-8 and 15-9). -/
def Pkg.bcastVerdict (p : Pkg) (origin : Bool) (c : Nat) (d b : List Byte) : Verdict :=
  let own (a n : Nat) : Verdict := p.rangeVerdict c (none, a, n)
  let ms := p.memberTable b
  let me := p.memberNumber ms
  firstFail [abortIf (!dHasParam d) 0x01, abortIf (!p.noHole (p.paramAddr c d) 128) 0x05, abortIf (ckOpBad d) 0x70,
    abortIf (bcastParamBad origin b) 0x01, abortIf ((List.range 5).any (fun l => dCount d l != 1)) 0x06,
    own (leAt b 8 8) (4 * leAt b 0x10 4), own (leAt b 0x18 8) (leAt b 0x20 8), own (leAt b 0x48 8) (32 * ceilDiv (leAt b 0x20 8) imageBlock),
    (if origin then own (leAt b 0x50 8) (8 * ceilDiv (leAt b 0x10 4) 64) else none),
    abortIf (!p.locValid || ms.any (fun m => !p.topo.holds (m % 2 ^ 18)) || (match me with | none => true | some i => (i == 0) != origin)) 0x77,
    (if (p.ctxEngines c).isEmpty then some (0x12, 0) else none),
    if p.dieLost (28 + ckEngine d) then some (0x37, 0) else none]

/-- A broadcast as it starts. -/
def Pkg.newBcast (p : Pkg) (e : Env) (q : Nat) (origin : Bool) (b : List Byte) : Bcast :=
  let ms := p.memberTable b
  let me := (p.memberNumber ms).getD 0
  let wait := leAt b 0x58 4
  { queue := q, origin := origin, uid := leAt b 0 8, members := ms, me := me, image := leAt b 0x18 8, bytes := leAt b 0x20 8,
    digest := (b.drop 0x28).take 32, tableAt := leAt b 0x48 8, bitmap := leAt b 0x50 8, waitNs := 1000000 * (if wait = 0 then 10000 else wait),
    table := [], done := 0, fails := 0, parent := memberParent me, reattached := 0, start := e.hall, quiet := e.hall, served := e.hall,
    children := (memberChildren me ms.length).map (fun m => ⟨m, false, 0, e.hall⟩), bits := [], bitHall := e.hall, orState := 0, closed := false }

/-- The bitmap's bytes. -/
def Pkg.bitmapBytes (p : Pkg) (b : Bcast) : List Byte := p.viewBytes b.bitmap (8 * ceilDiv b.members.length 64)

/-- Clear bits of a bitmap. -/
def clearBits (b : Bcast) (bits : List Byte) : Nat := ((List.range b.members.length).filter (fun i => !((leAt bits (i / 8) 1).testBit (i % 8)))).length

/-- The originator cuts its image into blocks and digests them, writes the table, and sets its own bit (R533, R535). -/
def Pkg.bcastOpen (p : Pkg) (e : Env) (q : Nat) : Pkg :=
  match p.bcast? q with
  | none => p
  | some b =>
    let r := (List.range b.blocks).foldl (fun (s : Pkg × List Byte) i =>
      if (s.1.bcast? q).isNone then s else let x := s.1.bcastRead e b i; (x.1, s.2 ++ sha256 x.2)) (p, [])
    if (r.1.bcast? q).isNone then r.1
    else
      let w := r.1.storeOrHold e (.descriptor q) b.tableAt r.2
      let v := w.1.storeOrHold e (.descriptor q) b.bitmap (leBytes 1 (leNat (w.1.viewBytes b.bitmap 1) ||| 1))
      v.1.setBcast { b with table := r.2, done := b.blocks, bits := v.1.bitmapBytes b }

/-- A broadcast enters the engine of its I/O die. -/
def Pkg.enterBcast (p : Pkg) (e : Env) (q : Nat) (origin : Bool) (d b : List Byte) : Pkg :=
  let p1 := p.enterRun (p.newRun e q d b)
  let p2 : Pkg := { p1 with ckp := { p1.ckp with bcasts := p1.ckp.bcasts ++ [p1.newBcast e q origin b] } }
  let x := Reg.CKP_STATUS (ckEngine d)
  (p2.setFld x Fld.CKP_STATE (if origin then 5 else 6)).setFld x Fld.CKP_CTX (p.queueCtx q)

/-- What is read for a broadcast: its parameter block and its member table. -/
def Pkg.bcastReads (p : Pkg) (c : Nat) (d : List Byte) : List (Nat × Nat) :=
  let b := p.paramBytes c d 128
  if ckKind d > 5 then [] else
  p.paramReads c d 128 ++ (if b.isEmpty then [] else [(leAt b 8 8, 4 * min 262144 (leAt b 0x10 4))])

/-- BCAST_SEND starts at the originator (R532, R533). -/
def startBcastSend (q : Nat) (e : Env) (p : Pkg) : Pkg :=
  p.start e q (ckMine 4) (fun d => p.bcastReads (p.queueCtx q) d) (fun p d => p.ckReserved e q d (
    let c := p.queueCtx q
    let b := p.paramBytes c d 128
    p.orRun e q d (p.bcastVerdict true c d b) ((p.enterBcast e q true d b).bcastOpen e q)))

/-- BCAST_RECV starts at a member, which attaches to its parent (R532). -/
def startBcastRecv (q : Nat) (e : Env) (p : Pkg) : Pkg :=
  p.start e q (ckMine 5) (fun d => p.bcastReads (p.queueCtx q) d) (fun p d => p.ckReserved e q d (
    let c := p.queueCtx q
    let b := p.paramBytes c d 128
    p.orRun e q d (p.bcastVerdict false c d b)
      (let p1 := p.enterBcast e q false d b
       match p1.bcast? q with | some x => p1.bcastAttach x | none => p1)))

/-! ### Time -/

/-- No block has verified for 2 ms while blocks remain: a member re-attaches (R534). -/
def bcastReattach (q : Nat) (e : Env) (p : Pkg) : Pkg :=
  match p.bcast? q with
  | some b => if !b.origin && b.done < b.blocks && b.quiet + bcastQuiet ≤ e.hall then p.bcastUp e b else p
  | none => p

/-- A child has acknowledged nothing for 2 ms: it is served no longer (R534). -/
def bcastChildDrop (q child : Nat) (e : Env) (p : Pkg) : Pkg :=
  match p.bcast? q with
  | some b =>
    if b.children.any (fun c => c.member == child && c.acked < b.blocks && c.heard + bcastQuiet ≤ e.hall) then
      (p.setBcast { b with children := b.children.filter (fun c => c.member ≠ child) }).bcastDone e q
    else p
  | none => p

/-- The member-wait time passes: a member that no ancestor served a block ends with 0x3B, the originator with 0x2C and the count of clear
bits (R535, R536). -/
def bcastWaitExpiry (q : Nat) (e : Env) (p : Pkg) : Pkg :=
  match p.bcast? q with
  | none => p
  | some b =>
    if b.origin then
      if b.bitHall + b.waitNs ≤ e.hall then
        p.bcastEnd e b (fun u => { u.raise e.tag 0x2c with detail := clearBits b (p.bitmapBytes b) })
      else p
    else if b.done < b.blocks && b.served + b.waitNs ≤ e.hall then
      (p.freeBytes b.image b.bytes).bcastEnd e b (fun u => { u.raise e.tag 0x3b with undef := true })
    else p

/-- At a beat the originator sees which bits are set, and completes when all are; a member issues its OR again when its outcome was unknown
(R535, R536). -/
def Pkg.bcastBeat (p : Pkg) (e : Env) : Pkg :=
  let p1 := p.ckp.bcasts.foldl (fun (s : Pkg) b =>
    if b.origin && !b.closed then
      let bits := s.bitmapBytes b
      let b1 := if bits = b.bits then b else { b with bits := bits, bitHall := e.tagHall }
      if clearBits b bits = 0 then s.bcastEnd e b1 id else s.setBcast b1
    else if !b.origin && b.done = b.blocks && b.orState = 0 then s.bcastOr e b
    else s) p
  { p1 with ckp := { p1.ckp with bcasts := p1.ckp.bcasts.filter (fun b => !b.closed || (!b.origin && b.done == b.blocks && b.orState != 2)) } }

/-! ### The commands -/

/-- BCAST_SEND (R533). -/
def execBcastSend (q : Fin 64) (s : State) : Host.Outcome State Fault Refusal := s.work .none (startBcastSend q.val)

/-- BCAST_RECV (R533). -/
def execBcastRecv (q : Fin 64) (s : State) : Host.Outcome State Fault Refusal := s.work .none (startBcastRecv q.val)

/-- BCAST_BLOCK (R533), and the other messages of a broadcast. -/
def execBcastBlock (q : Fin 64) (msg : BcastMsg) (s : State) : Host.Outcome State Fault Refusal := s.work .none (bcastBlock q.val msg)

/-- BCAST_REATTACH (R534). -/
def execBcastReattach (q : Fin 64) (s : State) : Host.Outcome State Fault Refusal := s.work .none (bcastReattach q.val)

/-- BCAST_CHILD_DROP (R534). -/
def execBcastChildDrop (q : Fin 64) (child : Nat) (s : State) : Host.Outcome State Fault Refusal := s.work .none (bcastChildDrop q.val child)

/-- BCAST_MEMBER_WAIT_EXPIRY (R535, R536). -/
def execBcastMemberWaitExpiry (q : Fin 64) (s : State) : Host.Outcome State Fault Refusal := s.work .none (bcastWaitExpiry q.val)

end Sys2Proof.Machine
end

