-- ==== Sys2Proof/Machine/MemExec.lean ====
section
/-! DEFINITION. The memory commands as steps (spec 08_memory_system.md, R287 to R326), and what follows from a controller's service for those that no
answer of its own reaches: fabric packets, host cores, descriptors that owe a replay. -/

namespace Sys2Proof.Machine

/-- Host cores take the faults of their requests, and descriptors owe the replays, that the controllers have found (R40, R312, R322, Table 14-1). -/
def Pkg.settleUsers (p : Pkg) (e : Env) : Pkg :=
  p.memDone.foldl (fun (q : Pkg) d =>
    match d with
    | .coreFault g what a store => q.hostFault e g what (if store then .store else .load) ⟨none, a, a⟩
    | .replay n die unit => q.oweReplay e n die unit
    | .packet _ _ => q) { p with memDone := p.memDone.filter (fun d => match d with | .packet _ _ => true | _ => false) }

/-- Tell every requester what its controllers have done. -/
def Pkg.settleMemory (p : Pkg) (e : Env) : Pkg := (p.settleUsers e).answerPackets e

/-- The work of a memory controller, and what follows for its requesters. -/
def State.memory (s : State) (f : Env → Pkg → Pkg) : Host.Outcome State Fault Refusal := s.work .none (fun e p => (f e p).settleMemory e)

/-- R291. -/
def execMemoryRequest (req : MemReq) (s : State) : Host.Outcome State Fault Refusal := s.memory (memoryRequest req)

/-- R295. -/
def execStripeUpdate (stack : Fin 32) (badBytes : List Nat) (s : State) : Host.Outcome State Fault Refusal :=
  s.memory (stripeUpdate stack.val badBytes)

/-- R300. -/
def execRegionFillEnd (n : Fin 64) (s : State) : Host.Outcome State Fault Refusal := s.work .none (regionFillEnd n.val)

/-- R307. -/
def execBandwidthWindow (stack : Fin 24) (s : State) : Host.Outcome State Fault Refusal := s.memory (bandwidthWindow stack.val)

/-- R310. -/
def execQuotaBudgetExpiry (stack : Fin 24) (s : State) : Host.Outcome State Fault Refusal := s.memory (quotaBudgetExpiry stack.val)

/-- R313. -/
def execRetrainingDue (stack : Fin 24) (pc : Fin 64) (s : State) : Host.Outcome State Fault Refusal :=
  s.work .none (retrainingDue stack.val pc.val)

/-- R288. -/
def execStackTemperatureRead (stack : Fin 24) (temp : Fin 256) (s : State) : Host.Outcome State Fault Refusal :=
  s.work .none (stackTemperatureRead stack.val temp.val)

/-- R315. -/
def execIssuedOperationsDrained (stack : Fin 24) (s : State) : Host.Outcome State Fault Refusal :=
  s.work .none (issuedOperationsDrained stack.val)

/-- R315. -/
def execRetrainingEnd (stack : Fin 24) (s : State) : Host.Outcome State Fault Refusal := s.memory (retrainingEnd stack.val)

/-- R317. -/
def execWriteBehindDrain (stack : Fin 24) (s : State) : Host.Outcome State Fault Refusal := s.memory (writeBehindDrain stack.val)

/-- R325. -/
def execScrub (dev : Fin 32) (line : Nat) (badBytes : List Nat) (s : State) : Host.Outcome State Fault Refusal :=
  s.work .none (scrub dev.val line badBytes)

/-- R288. -/
def execEcsStatusRead (stack : Fin 24) (status : Nat) (s : State) : Host.Outcome State Fault Refusal :=
  s.work .none (ecsStatusRead stack.val status)

/-- R288: a refresh keeps every bit and no register shows it. -/
def execPerBankRefresh (_stack : Fin 24) (_pc : Fin 64) (s : State) : Host.Outcome State Fault Refusal := s.work .none (fun _ p => p)

/-- R326. -/
def execMemCntClr (src : Source) (stack : Fin 24) (s : State) : Host.Outcome State Fault Refusal :=
  s.through src (s.work .none (fun _ p => p.zeroRegs (memCounters stack.val)))

end Sys2Proof.Machine
end

