-- ==== Sys2Proof/Machine/Ecdsa.lean ====
section
/-! DEFINITION. Checking an ECDSA P-384 signature (R604, R605), as FIPS 186-5 gives it over the curve of SP 800-186. Keys and signatures hold
their numbers little-endian (R16). -/

namespace Sys2Proof.Machine

/-- The field of P-384. -/
def p384P : Nat := 2 ^ 384 - 2 ^ 128 - 2 ^ 96 + 2 ^ 32 - 1

/-- The order of its base point. -/
def p384N : Nat := 0xffffffffffffffffffffffffffffffffffffffffffffffffc7634d81f4372ddf581a0db248b0a77aecec196accc52973

/-- The coefficient b. -/
def p384B : Nat := 0xb3312fa7e23ee7e4988e056be3f82d19181d9c6efe8141120314088f5013875ac656398d8a2ed19d2a85c8edd3ec2aef

/-- The base point. -/
def p384G : Nat × Nat :=
  (0xaa87ca22be8b05378eb1c71ef320ad746e1d3b628ba79b9859f741e082542a385502f25dbf55296c3a545e3872760ab7,
   0x3617de4a96262c6f5d9e98bf9292dc29f8f41dbd289a147ce9da3113b5f0b8c00a60b1ce1d7e819d7a431d7c90ea0e5f)

/-- A power modulo a number, by the bits of the exponent. -/
def powMod (m : Nat) : Nat → Nat → Nat → Nat
  | 0, _, _ => 1 % m
  | k + 1, b, x => let r := powMod m k (b * b % m) (x / 2); if x % 2 = 1 then r * b % m else r

/-- The inverse modulo a prime of at most 384 bits. -/
def invMod (m a : Nat) : Nat := powMod m 384 (a % m) (m - 2)

/-- A difference modulo the field. -/
def subP (a b : Nat) : Nat := (a + p384P - b % p384P) % p384P

/-- Addition of points; none is the point at infinity. -/
def ecAdd (a b : Option (Nat × Nat)) : Option (Nat × Nat) :=
  match a, b with
  | none, _ => b
  | _, none => a
  | some u, some v =>
    if u.1 = v.1 ∧ (u.2 + v.2) % p384P = 0 then none
    else
      let l := if u = v then subP (3 * u.1 * u.1) 3 * invMod p384P (2 * u.2) % p384P
        else subP v.2 u.2 * invMod p384P (subP v.1 u.1) % p384P
      let x := subP (subP (l * l) u.1) v.1
      some (x, subP (l * subP u.1 x) u.2)

/-- A multiple of a point, by the bits of the factor. -/
def ecMul : Nat → Nat → Option (Nat × Nat) → Option (Nat × Nat)
  | 0, _, _ => none
  | k + 1, n, a => let r := ecMul k (n / 2) (ecAdd a a); if n % 2 = 1 then ecAdd r a else r

/-- A public key lies on the curve. -/
def onCurve (x y : Nat) : Bool := x < p384P && y < p384P && y * y % p384P == (subP (x * x * x) (3 * x) + p384B) % p384P

/-- The signature (r then s) over a SHA-384 digest verifies under a key (x then y). -/
def ecdsaVerify (key digest sig : List Byte) : Bool :=
  let x := leNat (key.take 48)
  let y := leNat ((key.drop 48).take 48)
  let r := leNat (sig.take 48)
  let s := leNat ((sig.drop 48).take 48)
  let e := beNat digest
  let w := invMod p384N s
  onCurve x y && 1 ≤ r && r < p384N && 1 ≤ s && s < p384N &&
  match ecAdd (ecMul 384 (e * w % p384N) (some p384G)) (ecMul 384 (r * w % p384N) (some (x, y))) with
  | some v => v.1 % p384N == r
  | none => false

end Sys2Proof.Machine
end

