-- ==== Sys2Proof/Machine/Net.lean ====
section
/-! DEFINITION. The package network (spec 01_package_architecture.md, R23 to R30; 14_faults_replay_and_sparing.md, R485, Tables 14-1, 14-2):
routers, dimension-order routes, credits, link retransmission, link lanes. -/

namespace Sys2Proof.Machine

/-- The die whose router a die uses: a stash die sits behind its array die (R23). -/
def routerOf (die : Nat) : Nat := if 8 ≤ die ∧ die < 16 then die - 8 else die

/-- The direction of the next hop from one mesh position to another: along the row first, then along the column (R27); none at the
destination. 0 is +column, 1 −column, 2 +row, 3 −row. -/
def nextDir (a b : Nat × Nat) : Option Nat :=
  if a.2 < b.2 then some 0 else if b.2 < a.2 then some 1 else if a.1 < b.1 then some 2 else if b.1 < a.1 then some 3 else none

/-- The router one hop away in a direction (R24). -/
def hopFrom (r dir : Nat) : Option Nat :=
  let a := meshPos r
  let t : Nat × Nat := match dir with | 0 => (a.1, a.2 + 1) | 1 => (a.1, a.2 - 1) | 2 => (a.1 + 1, a.2) | _ => (a.1 - 1, a.2)
  if t = a then none else (List.range 32).find? (fun d => routerOf d == d && meshPos d == t)

/-- Credits of a link, in packets: the buffer's depth is the part's. -/
def linkDepth (link : Nat) : Nat := (Config.linkCredits (BitVec.ofNat 8 link)).toNat + 1

/-- Credits of a link in use. -/
def Net.usedOf (n : Net) (link : Nat) : Nat := (assoc? n.used link).getD 0

/-- A packet takes a link's credit and goes onto it, or waits for credit (R29). A packet does not pass one that waits for the same link. -/
def Net.forward (n : Net) (link : Nat) (k : NetPacket) : Net :=
  if n.usedOf link < linkDepth link ∧ !(n.held.any (fun h => h.link == link)) then
    { n with used := assocPut n.used link (n.usedOf link + 1), flight := n.flight ++ [⟨link, k⟩] }
  else { n with held := n.held ++ [⟨link, k⟩] }

/-- The oldest packet on the links that lead to a router is this one on its link. -/
def Net.arrival (n : Net) (r : Nat) (k : NetPacket) : Option NetHop :=
  (n.flight.find? (fun h => h.pkt == k && hopFrom (h.link / 4) (h.link % 4) == some r)).bind (fun h =>
    if (n.flight.find? (fun x => x.link == h.link)) = some h then some h else none)

/-- A packet known to the network already. -/
def Net.knows (n : Net) (k : NetPacket) : Bool := n.held.any (fun h => h.pkt == k) || n.flight.any (fun h => h.pkt == k)

/-- A packet is at a router: delivered when it is the destination's, else on its way (R27, R28). -/
def Net.take (n : Net) (r : Nat) (k : NetPacket) : Net :=
  match nextDir (meshPos r) (meshPos k.dst.val) with
  | none => { n with delivered := n.delivered ++ [k] }
  | some d => n.forward (4 * r + d) k

/-- A package-network packet arrives at a router (R27 to R30): at its source's router it enters the network; at another it must be the oldest on
its link. A parity error is a class-8 event of the lane, and the link sends the packet again from its buffer, so it arrives all the same.
DESIGN CHOICE (log 99): the links have no error-information register, so the event's die is the receiving router's, its detail code 0, and its data the
packet's source and destination dies. -/
def packageNetworkPacket (r : Nat) (k : NetPacket) (hit : Option ParityHit) (_ : Env) (p : Pkg) : Pkg :=
  if routerOf r ≠ r then p
  else
    let p1 := match hit with
      | some h => p.event 8 r (0x7000 + 528 * h.dir.val + h.lane.val) 1 0 (leBytes 4 k.src.val ++ leBytes 4 k.dst.val)
      | none => p
    match p.net.arrival r k with
    | some h => { p1 with net := ({ p1.net with flight := p1.net.flight.erase h }).take r k }
    | none => if routerOf k.src.val = r ∧ !p.net.knows k then { p1 with net := p1.net.take r k } else p

/-- Credit returns on a link and releases the oldest packet that waits for it (R29). -/
def creditReturn (r dir : Nat) (_ : Env) (p : Pkg) : Pkg :=
  let link := 4 * r + dir
  let n := p.net
  if n.usedOf link = 0 then p
  else
    let n1 := { n with used := assocPut n.used link (n.usedOf link - 1) }
    match n1.held.find? (fun h => h.link == link) with
    | none => { p with net := n1 }
    | some h =>
      if n1.usedOf link < linkDepth link then
        { p with net := { n1 with held := n1.held.erase h, used := assocPut n1.used link (n1.usedOf link + 1), flight := n1.flight ++ [h] } }
      else { p with net := n1 }

/-- A faulty lane of a link is replaced by a spare at the link's next idle cycle; without a free spare the link runs on 256 lanes (R485,
Table 14-2). `lane` is the unit's index, 528 × direction + lane. -/
def linkLaneRetirement (die lane : Nat) (_ : Env) (p : Pkg) : Pkg :=
  let link := 4 * die + lane / 528
  if !p.ras.waiting.contains (die, 0x7000 + lane) || p.net.flight.any (fun h => h.link == link) then p
  else
    let p1 : Pkg := { p with ras := { p.ras with waiting := p.ras.waiting.erase (die, 0x7000 + lane) } }
    let n := p1.net
    let phys := lane % 528
    let spareOf (x : Nat × Nat × Nat) : Bool := x.1 == link && x.2.2 == phys
    let logical := match n.lanes.find? spareOf with | some x => x.2.1 | none => phys
    let left := n.lanes.filter (fun x => !spareOf x)
    let free := (List.range 16).find? (fun s => !left.any (fun x => x.1 == link && x.2.2 == 512 + s) &&
      !p1.ras.retired.contains (die, 0x7000 + 528 * (lane / 528) + 512 + s))
    -- a spare that carries nothing leaves the pool alone
    if phys ≥ 512 ∧ !n.lanes.any spareOf then p1
    else match free with
      | some s => { p1 with net := { n with lanes := left ++ [(link, logical, 512 + s)] } }
      | none => { p1 with net := { n with lanes := left, halved := if n.halved.contains link then n.halved else n.halved ++ [link] } }

/-- PACKAGE_NETWORK_PACKET (R28). -/
def execPackageNetworkPacket (router : Fin 32) (pkt : NetPacket) (parity : Option ParityHit) (s : State) : Host.Outcome State Fault Refusal :=
  s.work (match parity with | some h => ⟨8, router.val, 0x7000 + 528 * h.dir.val + h.lane.val⟩ | none => .none)
    (packageNetworkPacket router.val pkt parity)

/-- CREDIT_RETURN (R29). -/
def execCreditReturn (at_ : Fin 32) (dir : Fin 4) (s : State) : Host.Outcome State Fault Refusal := s.work .none (creditReturn at_.val dir.val)

/-- LINK_LANE_RETIREMENT (R485). -/
def execLinkLaneRetirement (die : Fin 32) (lane : Nat) (s : State) : Host.Outcome State Fault Refusal :=
  s.work .none (linkLaneRetirement die.val lane)

end Sys2Proof.Machine
end

