-- ==== Sys2Proof/Machine/RasCmds.lean ====
section
/-! DEFINITION. Targeted self-tests, march tests, spares and retirement, and descriptor replay (spec 14_faults_replay_and_sparing.md, R480 to
R488, R495 to R500). -/

namespace Sys2Proof.Machine

/-! ### Pools of spares (Table 14-2, R487, R488) -/

/-- The kind of a unit code (Table 14-1), and its index. -/
def unitKind (u : Nat) : Nat := u / 4096
def unitIdx (u : Nat) : Nat := u % 4096

/-- The pool a unit belongs to on its die: kind and number; a fabric port shares the pool of its lanes. -/
def unitPool (u : Nat) : Nat × Nat :=
  match unitKind u with
  | 5 => (5, unitIdx u / 64)
  | 7 => (7, unitIdx u / 528)
  | 8 => (8, unitIdx u / 4)
  | 9 => (8, unitIdx u)
  | 13 => (13, 0)
  | k => (k, 0)

/-- Spares, or for Anvil lanes retirements, that a pool admits; none for the kinds without a pool. -/
def poolSize (kind : Nat) : Nat :=
  match kind with
  | 1 | 3 | 7 => 16
  | 4 | 5 | 8 | 13 => 1
  | 10 => 8
  | 11 => 2
  | _ => 0

/-- Units of a pool retired to spares. -/
def Pkg.poolUsed (p : Pkg) (die : Nat) (pool : Nat × Nat) : Nat :=
  if pool.1 = 13 then (p.ras.exhausted.filter (fun x => x.1 == die)).length
  else (p.ras.retired.filter (fun x => x.1 == die && unitPool x.2 == pool)).length

/-- Spares of a pool that stand in for units under a march test. -/
def Pkg.poolLent (p : Pkg) (die : Nat) (pool : Nat × Nat) : Nat :=
  (p.ras.marching.filter (fun t => t.die == die && t.spare && unitPool t.unit == pool)).length

/-- Free spares of a pool. -/
def Pkg.poolFree (p : Pkg) (die : Nat) (pool : Nat × Nat) : Nat := poolSize pool.1 - p.poolUsed die pool - p.poolLent die pool

/-- Unit code and pool as the data of a service record (Table 16-11). -/
def poolData (unit : Nat) (pool : Nat × Nat) : List Byte := leBytes 2 unit ++ leBytes 1 pool.1 ++ leBytes 1 pool.2

/-- A pool has become low: 4 or fewer of 16 free, or none of one (R488). -/
def Pkg.noteLow (p : Pkg) (die unit : Nat) : Pkg :=
  let pool := unitPool unit
  let n := poolSize pool.1 - p.poolUsed die pool
  if (poolSize pool.1 = 16 ∧ n ≤ 4) ∨ (poolSize pool.1 = 1 ∧ n = 0) then
    (p.setFld Reg.RAS_STATUS Fld.RAS_SPARE_LOW 1).record die unit 8 1 (poolData unit pool)
  else p

/-- The package is marked degraded (R487). -/
def Pkg.degrade (p : Pkg) (die unit : Nat) : Pkg :=
  (p.setFld Reg.RAS_STATUS Fld.RAS_DEGRADED 1).record die unit 8 2 (poolData unit (unitPool unit))

/-- An array die or an Anvil's host die goes out of service: what runs on it ends with 0x37 UNIT_LOST and UNDEF (R486). -/
def Pkg.outOfService (p : Pkg) (e : Env) (die unit : Nat) : Pkg :=
  let hit (r : Run) : Bool := if die < 8 then r.engine == 0 && (p.partDies r.ctx).contains die else r.engine == 1 + (die - 16)
  let p1 := (p.setFld Reg.RAS_LOST Fld.RAS_LOST (p.fld Reg.RAS_LOST Fld.RAS_LOST ||| 2 ^ die)).record die unit 8 3 (poolData unit (unitPool unit))
  let rs := p1.dsp.runs.map (fun (r : Run) =>
    if hit r then { (r.raise e.tag 0x37) with undef := true, stopped := true, finished := true, replayOn := none, endBeat := e.tag } else r)
  { p1 with dsp := { p1.dsp with runs := rs } }

/-- What follows when a unit fails for good and no spare takes its place (Table 14-2, last column). -/
def Pkg.withoutSpare (p : Pkg) (e : Env) (die unit : Nat) : Pkg :=
  match unitKind unit with
  | 1 | 2 | 3 | 13 | 10 | 11 | 12 => p.outOfService e die unit
  | 7 => { p with ras := { p.ras with waiting := p.ras.waiting ++ [(die, unit)] } }
  | 8 => p.portFalls (unitIdx unit / 4)
  | 9 => p.portFalls (unitIdx unit)
  | _ => p

/-- A spare takes a unit's place: at once for a memory channel and a port lane, at the unit's boundary for the others (Table 14-2). -/
def Pkg.toSpare (p : Pkg) (die unit : Nat) : Pkg :=
  let i := unitIdx unit
  match unitKind unit with
  | 4 => (p.setFld (Reg.STH_STATUS (die - 8)) Fld.STH_RET_VALID 1).setFld (Reg.STH_STATUS (die - 8)) Fld.STH_RET_BANK i
  | 5 =>
    let k := Reg.MEM_STK_STATUS (3 * die + i / 64)
    (p.setFld k Fld.MEM_RET_VALID 1).setFld k Fld.MEM_RET_PC (i % 64)
  | 8 =>
    let k := Reg.FAB_PORT_STATUS (i / 4)
    let left := p.fld k Fld.FAB_PS_LANES &&& (15 - 2 ^ (i % 4))
    if p.portUp (i / 4) then (p.setFld k Fld.FAB_PS_LANES left).setFld k Fld.FAB_PS_STATE 3 else p
  | 13 => { p with ras := { p.ras with waiting := p.ras.waiting ++ [(die, unit)], exhausted := p.ras.exhausted ++ [(die, unit)] } }
  | _ => { p with ras := { p.ras with waiting := p.ras.waiting ++ [(die, unit)] } }

/-- A lasting fault of a unit: counted, and the unit retired to a free spare, or without one (R482, R485, R487). The outcome is 1 or 2. A
port that fails loses one of its lanes, which no rule names. -/
def Pkg.lastingFault (p : Pkg) (e : Env) (die unit0 : Nat) : Pkg × Nat :=
  let port := unitIdx unit0
  let lanes := (List.range 4).filter (fun i => !p.ras.retired.contains (die, 0x8000 + 4 * port + i))
  let f := p.drawFree 1
  let unit := if unitKind unit0 = 9 then 0x8000 + 4 * port + lanes.getD ((Config.freeWord f.1).toNat % max 1 lanes.length) 0 else unit0
  let q := if unitKind unit0 = 9 then f.2 else p
  let pool := unitPool unit
  let room : Bool := q.poolUsed die pool < poolSize pool.1
  let p1 := q.rasCount Reg.RAS_CNT_LASTING 1
  let p2 : Pkg := if unitKind unit = 13 then p1 else { p1 with ras := { p1.ras with retired := p1.ras.retired ++ [(die, unit)] } }
  if room then (((p2.toSpare die unit)).noteLow die unit, 1)
  else
    let p3 := p2.withoutSpare e die unit
    (if poolSize pool.1 > 0 then p3.degrade die unit else p3, 2)

/-! ### Targeted self-tests (R480 to R482, R553) -/

/-- The port and the lane that a test of a port lane takes out of use; of a port, whose lanes are tested in turn, the first (Table 14-2; log 102). -/
def testLane (unit : Nat) : Option (Nat × Nat) :=
  match unitKind unit with
  | 8 => some (unitIdx unit / 4, unitIdx unit % 4)
  | 9 => some (unitIdx unit, 0)
  | _ => none

/-- A targeted or march test of a port lane runs its port on three lanes (Table 14-2). -/
def Pkg.laneOut (p : Pkg) (unit : Nat) : Pkg :=
  match testLane unit with
  | some x =>
    if p.portState x.1 = 2 then
      (p.setFld (Reg.FAB_PORT_STATUS x.1) Fld.FAB_PS_LANES (15 - 2 ^ x.2)).setFld (Reg.FAB_PORT_STATUS x.1) Fld.FAB_PS_STATE 3
    else p
  | none => p

/-- The lane under test carries traffic again. -/
def Pkg.laneBack (p : Pkg) (unit : Nat) : Pkg :=
  match testLane unit with
  | some x =>
    if p.portUp x.1 && !p.ras.retired.contains (portDie x.1, portLaneUnit x.1 x.2) then
      let lanes := p.fld (Reg.FAB_PORT_STATUS x.1) Fld.FAB_PS_LANES ||| 2 ^ x.2
      (p.setFld (Reg.FAB_PORT_STATUS x.1) Fld.FAB_PS_LANES lanes).setFld (Reg.FAB_PORT_STATUS x.1) Fld.FAB_PS_STATE (upState lanes)
    else p
  | none => p

/-- Start a targeted self-test of a unit. -/
def Pkg.beginTest (p : Pkg) (e : Env) (die unit : Nat) (byError : Bool) : Pkg :=
  Pkg.laneOut { p with ras := { p.ras with tests := p.ras.tests ++ [⟨die, unit, e.hall, false, byError⟩] } } unit

/-- The self-test that a class-8 event started begins at the beat after the event (R480). -/
def selfTestStart (die unit : Nat) (e : Env) (p : Pkg) : Pkg :=
  if p.ras.ready.contains (die, unit) then
    ({ p with ras := { p.ras with ready := p.ras.ready.filter (fun x => x ≠ (die, unit)) } }).beginTest e die unit true
  else p

/-- 24 hours and one hour in ns (R483). -/
abbrev dayNs : Nat := 86400000000000
abbrev hourNs : Nat := 3600000000000

/-- A march test of a unit is scheduled after three transients in 24 hours, unless one passed within the hour (R483). -/
def Pkg.scheduleMarch (p : Pkg) (e : Env) (die unit : Nat) : Pkg :=
  let recent := p.ras.transients.filter (fun x => x.1 == die && x.2.1 == unit && e.hall ≤ x.2.2 + dayNs)
  let passed := p.ras.marchPassed.any (fun x => x.1 == die && x.2.1 == unit && e.hall ≤ x.2.2 + hourNs)
  let known := (p.ras.marchDue ++ p.ras.marching).any (fun t => t.die == die && t.unit == unit)
  if recent.length ≥ 3 && !passed && !known then
    { p with ras := { p.ras with marchDue := p.ras.marchDue ++ [⟨die, unit, e.hall, false, true⟩] } }
  else p

/-- Keep how a unit's last test of a kind ended. -/
def Pkg.noteResult (p : Pkg) (x : TestResult) : Pkg :=
  { p with ras := { p.ras with results := p.ras.results.filter (fun y => !(y.die == x.die && y.unit == x.unit && y.march == x.march)) ++ [x] } }

/-- A targeted self-test ends: a pass makes the error transient, a failure lasting; both are logged (R482). A test that no error started
classifies none (R553). -/
def selfTestEnd (die unit : Nat) (pass : Bool) (e : Env) (p : Pkg) : Pkg :=
  match p.ras.tests.find? (fun t => t.die == die && t.unit == unit) with
  | none => p
  | some t =>
    let dur := e.hall - t.since
    let p1 : Pkg := { p with ras := { p.ras with tests := p.ras.tests.erase t } }
    if pass then
      let p2 := ((p1.laneBack unit).record die unit 2 0 (leBytes 8 dur)).noteResult ⟨die, unit, false, 0, dur⟩
      if t.byError then
        let p3 := p2.rasCount Reg.RAS_CNT_TRANSIENT 1
        ({ p3 with ras := { p3.ras with transients := p3.ras.transients ++ [(die, unit, e.hall)] } }).scheduleMarch e die unit
      else p2
    else
      let x := (p1.laneBack unit).lastingFault e die unit
      (x.1.record die unit 2 x.2 (leBytes 8 dur)).noteResult ⟨die, unit, false, x.2, dur⟩

/-! ### March tests (R483) -/

/-- The engine a unit serves is in use. -/
def Pkg.unitInUse (p : Pkg) (die unit : Nat) : Bool :=
  match unitKind unit with
  | 1 | 2 | 3 => p.dsp.runs.any (fun r => r.engine == 0 && (p.partDies r.ctx).contains die)
  | 6 => !(p.stack (3 * die + unitIdx unit)).waiting.isEmpty
  | 10 | 11 | 12 => (assoc? p.anvils (die - 16)).isSome
  | 13 => p.dsp.runs.any (fun r => p.leadDie r.ctx == die)
  | _ => false

/-- The longest that a march test waits for its unit's engine, in ns. -/
abbrev marchWaitNs : Nat := 10000000000

/-- A scheduled march test starts: with a spare standing in, or once nothing uses the unit's engine, or after 10 s. -/
def marchStart (die unit : Nat) (e : Env) (p : Pkg) : Pkg :=
  match p.ras.marchDue.find? (fun t => t.die == die && t.unit == unit) with
  | none => p
  | some t =>
    let left := p.ras.marchDue.erase t
    if p.ras.retired.contains (die, unit) then { p with ras := { p.ras with marchDue := left } }
    else
      let k := unitKind unit
      let lend : Bool := k != 10 && k != 11 && p.poolFree die (unitPool unit) > 0
      if lend || !p.unitInUse die unit || t.since + marchWaitNs ≤ e.hall then
        Pkg.laneOut { p with ras := { p.ras with marchDue := left, marching := p.ras.marching ++ [{ t with since := e.hall, spare := lend }] } } unit
      else p

/-- A march test ends: a pass is logged and counted and its spare goes back; a failure is a lasting fault, and the spare stays (R483, R553). -/
def marchEnd (die unit : Nat) (pass : Bool) (e : Env) (p : Pkg) : Pkg :=
  match p.ras.marching.find? (fun t => t.die == die && t.unit == unit) with
  | none => p
  | some t =>
    let dur := e.hall - t.since
    let p1 : Pkg := { p with ras := { p.ras with marching := p.ras.marching.erase t } }
    if pass then
      let p2 := ((p1.laneBack unit).record die unit 2 3 (leBytes 8 dur)).noteResult ⟨die, unit, true, 0, dur⟩
      let p3 : Pkg := { p2 with ras := { p2.ras with
        marchPassed := p2.ras.marchPassed.filter (fun x => !(x.1 == die && x.2.1 == unit)) ++ [(die, unit, e.hall)] } }
      if t.byError then p3.rasCount Reg.RAS_CNT_MARCH 1 else p3
    else
      let x := ((p1.laneBack unit).record die unit 2 4 (leBytes 8 dur)).lastingFault e die unit
      x.1.noteResult ⟨die, unit, true, x.2, dur⟩

/-- A die's second dispatcher takes over from a failed one at a beat at which no descriptor of the die's contexts starts (Table 14-2). -/
def spareDispatcher (die : Nat) (_ : Env) (p : Pkg) : Pkg :=
  match p.ras.waiting.find? (fun x => x.1 == die && unitKind x.2 == 13) with
  | none => p
  | some u => { p with ras := { p.ras with waiting := p.ras.waiting.erase u } }

/-! ### Descriptor replay (R495 to R500) -/

/-- The test of a unit that an error started is over. -/
def Pkg.testOver (p : Pkg) (u : Nat × Nat) : Bool :=
  !p.ras.owed.contains u && !p.ras.ready.contains u && !p.ras.tests.any (fun t => t.die == u.1 && t.unit == u.2)

/-- A class-2 descriptor whose error would need a replay: its own status when all its outputs are committed and its requests answered, else
0x32 with UNDEF (R497). -/
def Pkg.settleUnknown (p : Pkg) (e : Env) (r : Run) : Pkg :=
  if p.fab.reqs.any (fun x => x.user.ofQueue r.queue || (match x.user with | .coll q => q == r.queue | _ => false)) then p
  else
    let whole : Bool := r.finished || (r.kind == 3 && r.step ≥ (p.fabPieces r).length && !r.appended)
    if whole then p.setRun { r with replayOn := none, finished := true }
    else
      let p1 := (p.setRun { (r.raise e.tag 0x32) with undef := true, finished := true, replayOn := none, endBeat := e.tag }).rasCount
        Reg.RAS_CNT_UNKNOWN 1
      Pkg.ckDrop { p1 with
        col := { p1.col with runs := p1.col.runs.filter (fun c => c.queue != some r.queue) }
        ckp := { p1.ckp with bcasts := p1.ckp.bcasts.filter (fun b => b.queue != r.queue) } } e r.queue

/-- A descriptor as its replay begins: journal copies, original deadline, its increments, append and pre-images kept, everything uncommitted
or counted by its first run discarded (R495, R500). -/
def Run.again (r : Run) (e : Env) : Run :=
  { (({ r with statuses := r.statuses.filter (fun s => s.2 < 0x10) } : Run).raise e.tag 4) with
      attempts := r.attempts + 1, replays := r.replays + 1, replayOn := none, stopped := false, finished := false, tiles := [], flags := 0,
      reheated := 0, kept := 0, qcause := 0, undef := false, stage := [], rewritten := [], written := [] }

/-- A descriptor is replayed as a whole (R495). An array or coat descriptor's tiles run again with its full reheat budget, a solve begins
again, a copy inside the package issues again, a compute routine does its work again; a control routine's append and a loaded image stand
(R500). -/
def descriptorReplay (q : Nat) (e : Env) (p : Pkg) : Pkg :=
  match p.runOf q with
  | none => p
  | some r =>
    match r.replayOn with
    | none => p
    | some u =>
      if r.jclass = 2 then p.settleUnknown e r
      else if !p.testOver u then p
      else
        let r1 := r.again e
        let masked := if r.kind = 6 ∧ !isControl r.desc then p.callMasked r else none
        match masked with
        | some p1 => p1.delayRun q e.tag 5
        | none =>
        let qs := quenchedTensors ((arrayHandles (dOp r.desc)).map (fun h => (h, parseTensor (dHandle r.desc h) (r.tds.getD h []))))
        let r2 : Run :=
          match r.kind with
          | 0 => { r1 with shares := budgetShares (p.partDies r.ctx).length qs }
          | 3 => { r1 with step := 0, incs := 0 }
          | _ => r1
        let p1 := ((p.setRun r2).rasCount Reg.RAS_CNT_DESC_REPLAY 1).disturb 1 u.1 u.2
        let p2 : Pkg := { p1 with coatNow := p1.coatNow.filter (fun x => x.2.queue ≠ q) }
        if r.kind = 3 then p2.settle e
        else if r.kind = 6 then (match p2.runOf q with | some x => p2.hearthWork e x | none => p2)
        else p2.restartSolve e r2

/-! ### The commands -/

/-- What a descriptor that completes still holds ends with it, as when a dispatcher's records were lost (R479): a collective and its slots, a SETUP, a
SAVE's masks, storage commands, a broadcast (R428, R522, R535). -/
def Pkg.sweep (p : Pkg) (e : Env) (q : Nat) : Pkg :=
  if (p.runOf q).isSome then p
  else
    let p1 := p.ckDrop e q
    { p1 with
      col := { p1.col with comms := p1.col.comms.filter (fun m => m.queue != some q), runs := p1.col.runs.filter (fun r => r.queue != some q) }
      ckp := { p1.ckp with
        cmds := p1.ckp.cmds.filter (fun c => c.queue != q)
        bcasts := p1.ckp.bcasts.map (fun (b : Bcast) => if b.queue = q then { b with closed := true } else b) } }

/-- DESCRIPTOR_COMPLETE (R213), an event of class 12. -/
def execDescriptorComplete (q : Fin 64) (copyError : Option CopyError) (s : State) : Host.Outcome State Fault Refusal :=
  s.work (s.pkg.queueEv 12 q.val) (fun e p => if (p.runOf q.val).isSome then (descriptorComplete q.val copyError e p).sweep e q.val else p)

/-- TARGETED_SELF_TEST_START (R480). -/
def execTargetedSelfTestStart (die : Fin 32) (unit : Nat) (s : State) : Host.Outcome State Fault Refusal :=
  s.work .none (selfTestStart die.val unit)

/-- SELF_TEST_END (R482). -/
def execSelfTestEnd (die : Fin 32) (unit : Nat) (pass : Bool) (s : State) : Host.Outcome State Fault Refusal :=
  s.work .none (selfTestEnd die.val unit pass)

/-- MARCH_TEST_START (R483). -/
def execMarchTestStart (die : Fin 32) (unit : Nat) (s : State) : Host.Outcome State Fault Refusal := s.work .none (marchStart die.val unit)

/-- MARCH_TEST_END (R483). -/
def execMarchTestEnd (die : Fin 32) (unit : Nat) (pass : Bool) (s : State) : Host.Outcome State Fault Refusal :=
  s.work .none (marchEnd die.val unit pass)

/-- SPARE_DISPATCHER_SWITCH (R485). -/
def execSpareDispatcherSwitch (die : Fin 8) (s : State) : Host.Outcome State Fault Refusal := s.work .none (spareDispatcher die.val)

/-- DESCRIPTOR_REPLAY (R495). -/
def execDescriptorReplay (q : Fin 64) (s : State) : Host.Outcome State Fault Refusal := s.work .none (descriptorReplay q.val)

end Sys2Proof.Machine
end

