-- ==== Sys2Proof/Machine/Time.lean ====
section
/-! DEFINITION. Hall time, its sources and holdover, timed releases, and lock-step pairs (spec 13_time_and_determinism.md, R453 to R466, R475,
R476). The model's count stands at the most recent beat; rate corrections of R454 stay below it. -/

namespace Sys2Proof.Machine

/-- Time sources (Table 13-1). -/
abbrev srcFree : Nat := 0
abbrev srcBeacon : Nat := 1
abbrev srcPps : Nat := 2

/-- The source of hall time that is configured. -/
def Pkg.timSrc (p : Pkg) : Nat := p.fld Reg.TIM_CTRL Fld.TIM_SRC

/-- This package is the master (R457). -/
def Pkg.isMaster (p : Pkg) : Bool := p.locValid && p.ownLoc == p.time.master

/-- The parent port: the lowest-numbered up port among the admissible first-hop ports toward the master (R458). -/
def Pkg.parentPort (p : Pkg) : Option Nat :=
  let ps := (nextHop p.topo p.ownLoc p.time.master).2
  (List.range 36).find? (fun x => p.portUp x && ps.contains x)

/-- Put a beacon on ports. -/
def Pkg.sendBeacons (p : Pkg) (hall : Nat) (ports : List Nat) : Pkg :=
  { p with time := { p.time with sent := p.time.sent ++ ports.map (fun x => (x, hall)) } }

/-- At a beat whose hall time is a multiple of 1 ms the master sends a beacon on every up port; a package under BEACON that has accepted one
forwards it on its other up ports (R458). -/
def beaconSend (e : Env) (p : Pkg) : Pkg :=
  if e.hall % 1000000 ≠ 0 then p
  else if p.isMaster && (p.timSrc == srcFree || p.timSrc == srcPps) then
    if p.time.sent.isEmpty then p.sendBeacons e.hall (rangeFilter 36 p.portUp) else p
  else if p.timSrc == srcBeacon && p.time.forward then
    let q := p.sendBeacons e.hall (rangeFilter 36 (fun x => p.portUp x && p.parentPort != some x))
    { q with time := { q.time with forward := false } }
  else p

/-- A 32-bit signed value that saturates (Table 13-7). -/
def sat32 (z : Int) : Nat := ofSigned 32 (max (-(2 ^ 31 : Int)) (min (2 ^ 31 - 1) z))

/-- A reference arrives: the package is locked; a return from holdover is an event of class 12, raises source 132 and is logged (R460). -/
def Pkg.lockTime (p : Pkg) (e : Env) (off : Int) : Pkg :=
  let p1 := { p with time := { p.time with heard := e.hall } }
  let p2 := if p.fld Reg.TIM_STATUS Fld.TIM_LOCK = 2 then
      (p1.event 12 30 0 6 2 (leBytes 8 (ofSigned 64 off))).raiseIrq 12 30 132
    else p1
  p2.setFld Reg.TIM_STATUS Fld.TIM_LOCK 1

/-- A beacon would be accepted: the package runs under BEACON and the port is its parent port (R458). -/
def Pkg.takesBeacon (p : Pkg) (port : Nat) : Bool := p.timSrc == srcBeacon && p.parentPort == some port

/-- The package has an enabled queue (R455). -/
def Pkg.anyEnabled (p : Pkg) : Bool := (List.range 64).any p.queueEnabled

/-- An accepted beacon is compared with the package's own hall time, which it corrects toward the beacon's (R454, R458, R459). -/
def Pkg.takeBeacon (p : Pkg) (e : Env) (port value : Nat) : Pkg :=
  let est := value + (assoc? p.fab.delays port).getD 0
  let off : Int := (e.hall : Int) - est
  let p1 := (((p.setNat Reg.TIM_OFFSET (sat32 off)).setFld Reg.TIM_STATUS Fld.TIM_PARENT_PORT port).setFld Reg.TIM_STATUS Fld.TIM_PARENT_LOC
    (p.fld (Reg.FAB_PORT_STATUS port) Fld.FAB_PS_PEER_LOC)).lockTime e off
  { p1 with time := { p1.time with begun := true, forward := true } }

/-- The hall time that a first beacon steps a package without an enabled queue to (R455). -/
def Pkg.steppedTo (p : Pkg) (port value : Nat) : Option Nat :=
  if p.takesBeacon port && !p.time.begun && !p.anyEnabled then some ((value + (assoc? p.fab.delays port).getD 0) % 2 ^ 64) else none

/-- A beacon arrives at a port (R455, R458, R459). -/
def beaconReceive (port value : Nat) (e : Env) (p : Pkg) : Pkg :=
  if !p.takesBeacon port then p
  else
    let q := p.takeBeacon e port value
    match p.steppedTo port value with
    | some h =>
      let q1 := q.record 30 0 6 3 (leBytes 8 (ofSigned 64 ((e.hall : Int) - h)))
      { q1 with time := { q1.time with heard := h } }
    | none => q

/-- An edge of TIME_IN_1PPS, with the offset of the package's hall time from the nearest second, disciplines a package under PPS (R457). -/
def ppsEdge (offset : Int) (e : Env) (p : Pkg) : Pkg :=
  if p.timSrc = srcPps then p.lockTime e offset else p

/-- No beacon for 5 ms, or no edge for 2 s: holdover (R460). -/
def holdoverEntry (e : Env) (p : Pkg) : Pkg :=
  let lost : Bool := (p.timSrc == srcBeacon && p.time.heard + 5000000 ≤ e.hall) || (p.timSrc == srcPps && p.time.heard + 2000000000 ≤ e.hall)
  if lost && p.fld Reg.TIM_STATUS Fld.TIM_LOCK != 2 then
    let p1 := ((p.setFld Reg.TIM_STATUS Fld.TIM_LOCK 2).addReg Reg.TIM_CNT_HOLDOVER 1).event 12 30 0 6 1
      (leBytes 8 (ofSigned 64 (toSigned 32 (p.regNat Reg.TIM_OFFSET))))
    { p1.raiseIrq 12 30 132 with time := { p1.time with holdSince := e.hall } }
  else p

/-- The beat at which an armed release fires (R464): that of H rounded up, or the next one when it was armed late. -/
def Pkg.releaseDue (p : Pkg) (e : Env) (c : Nat) : Bool :=
  p.on (Reg.TIM_CTX_CFG c) Fld.TIM_REL_ARM && ceilDiv (p.regNat (Reg.TIM_REL_AT c)) 16 ≤ e.tag

/-- A timed release: island T adds 1 to the flag and clears the arm (R464). -/
def timedRelease (c : Nat) (e : Env) (p : Pkg) : Pkg :=
  if p.releaseDue e c then
    (p.addFlag 30 c (p.fld (Reg.TIM_CTX_CFG c) Fld.TIM_REL_FLAG) 1).setFld (Reg.TIM_CTX_CFG c) Fld.TIM_REL_ARM 0
  else p

/-- A digest of the partner's arrives (R475): compared with the one held, or kept until the local descriptor completes. -/
def pairDigest (q seq digest : Nat) (tiles : List Nat) (e : Env) (p : Pkg) : Pkg :=
  if !p.paired (p.queueCtx q) then p
  else
    let x : PairIn := ⟨q, seq, digest, tiles⟩
    match p.pairHeld.find? (fun (h : PairHeld) => h.queue == q && h.seq == seq) with
    | some h => p.pairCompare e h x
    | none => { p with pairIn := p.pairIn ++ [x] }

/-- The partner's digest has not arrived within `TIM_PAIR_WAIT_US`: the paired context stops with a report of kind 2 (R476). -/
def pairTimeout (q : Nat) (e : Env) (p : Pkg) : Pkg :=
  let c := p.queueCtx q
  let wait := 1000 * p.fld Reg.TIM_PAIR_WAIT Fld.TIM_PAIR_WAIT_US
  match p.pairHeld.find? (fun (h : PairHeld) => h.queue == q) with
  | some h =>
    if h.since + wait ≤ e.hall && !(p.ctxSt c).pairStopped then
      ((p.event 9 (p.leadDie c) (dspUnit c) 1 0 (leBytes 8 h.seq)).pairReport 2 q h.seq 0xffffffff h.digest 0 e.tagHall).pairStop c
    else p
  | none => p

/-! ### The commands -/

/-- BEACON_SEND (R458). -/
def execBeaconSend (s : State) : Host.Outcome State Fault Refusal := s.work .none beaconSend

/-- BEACON_RECEIVE (R459); the first beacon accepted after package start may step hall time (R455). -/
def execBeaconReceive (port : Fin 36) (value : Nat) (s : State) : Host.Outcome State Fault Refusal :=
  let step := if s.pkg.working then s.pkg.steppedTo port.val value else none
  let t := s.lift (fun e p => if p.working then beaconReceive port.val value e p else p)
  .next (match step with | some h => { t with clock := ⟨h⟩ } | none => t)

/-- PPS_EDGE (R457). -/
def execPpsEdge (offset : Int) (s : State) : Host.Outcome State Fault Refusal := s.work .none (ppsEdge offset)

/-- HOLDOVER_ENTRY (R460), an event of class 12. -/
def execHoldoverEntry (s : State) : Host.Outcome State Fault Refusal := s.work ⟨12, 30, 0⟩ holdoverEntry

/-- TIMED_RELEASE (R464), an event of class 10. -/
def execTimedRelease (ctx : Fin 8) (s : State) : Host.Outcome State Fault Refusal := s.work ⟨10, 30, ctx.val⟩ (timedRelease ctx.val)

/-- PAIR_DIGEST (R475). -/
def execPairDigest (q : Fin 64) (seq digest : Nat) (tileDigests : List Nat) (s : State) : Host.Outcome State Fault Refusal :=
  s.work .none (pairDigest q.val seq digest tileDigests)

/-- PAIR_TIMEOUT (R476), an event of class 9. -/
def execPairTimeout (q : Fin 64) (s : State) : Host.Outcome State Fault Refusal := s.work (s.pkg.queueEv 9 q.val) (pairTimeout q.val)

end Sys2Proof.Machine
end

