-- ==== Sys2Proof/Machine/Mailbox.lean ====
section
/-! DEFINITION. Mailbox commands (spec 16_jiward_management.md, R544 to R557, R572): which command is served next, the checks every command
passes, responses, and the commands that report, set power and time, test a unit, or pair a context. -/

namespace Sys2Proof.Machine

/-! ### Format and order (R546, R548, R550, R551) -/

/-- Results (Table 16-4, Table 18-3). -/
abbrev resDone : Nat := 0x00
abbrev resBadOpcode : Nat := 0x01
abbrev resBadVersion : Nat := 0x02
abbrev resBadLength : Nat := 0x03
abbrev resReserved : Nat := 0x04
abbrev resNotPermitted : Nat := 0x05
abbrev resBusy : Nat := 0x06
abbrev resConflict : Nat := 0x07
abbrev resNoCheck : Nat := 0x08
abbrev resEmpty : Nat := 0x09
abbrev resBeatRange : Nat := 0x0a
abbrev resCancelled : Nat := 0x0b
abbrev resTooLate : Nat := 0x0c
abbrev resFull : Nat := 0x0d
abbrev resBadParam : Nat := 0x0e
abbrev resUnitState : Nat := 0x0f
abbrev resTimeout : Nat := 0x10
abbrev resRestarted : Nat := 0x11
abbrev resSignature : Nat := 0x12
abbrev resNoProposal : Nat := 0x13
abbrev resExpired : Nat := 0x14
abbrev resSameRole : Nat := 0x15
abbrev resNonce : Nat := 0x16
abbrev resNoKey : Nat := 0x17
abbrev resPendingFull : Nat := 0x18

/-- The opcodes of command set 1.0 (Table 16-5). -/
def mbOpcodes : List Nat :=
  [0x01, 0x02, 0x10, 0x11, 0x12, 0x13, 0x20, 0x21, 0x22, 0x30, 0x31, 0x40, 0x41, 0x50, 0x51, 0x52, 0x60, 0x61, 0x70, 0x71, 0x80, 0x81, 0xa0, 0xb0]

/-- The commands marked long (Table 16-5). -/
def mbLong (op : Nat) : Bool := [0x11, 0x50, 0x51, 0x60, 0xa0, 0xb0].contains op

/-- The opcode of a command. -/
def MbCmd.op (c : MbCmd) : Nat := leAt c.area 0 1

/-- The bytes of a field of a command. -/
def MbCmd.at_ (c : MbCmd) (off n : Nat) : Nat := leAt c.area off n

/-- The parameter bytes that a command requires (R551, Table 16-5, Table 18-1). -/
def mbLength (a : List Byte) : Nat :=
  match leAt a 0 1 with
  | 0x10 => 8 + 16 * leAt a 0x10 1
  | 0x12 => 16
  | 0x20 => 216
  | 0x21 => 168
  | 0x22 => 120
  | 0x30 => 2
  | 0x40 => 9
  | 0x41 => 28
  | 0x50 => if leAt a 0x10 1 = 1 then 16 + leAt a 0x18 4 else 24
  | 0x51 => 4
  | 0x52 => 1
  | 0x60 => 4
  | 0x61 => 1
  | 0x70 => 3
  | 0x71 => 1
  | 0x81 => 16
  | 0xa0 => 7
  | 0xb0 => 32
  | _ => 0

/-- Reserved bytes from an offset. -/
def wholeBytes (off n : Nat) : List (Nat × Nat) := (List.range n).map (fun i => (off + i, 0xff))

/-- The reserved bytes of a command, as (offset, mask of reserved bits), ascending (R550, R551, Tables 16-5, 16-6, 18-1). -/
def mbReserved (a : List Byte) : List (Nat × Nat) :=
  wholeBytes 4 12 ++
  match leAt a 0 1 with
  | 0x10 => wholeBytes 0x11 7 ++ ((List.range (min 14 (leAt a 0x10 1))).map (fun i =>
      let o := 0x18 + 16 * i
      wholeBytes (o + 5) 3 ++ (if leAt a (o + 4) 1 = 4 then wholeBytes (o + 12) 4 else []))).flatten
  | 0x12 => wholeBytes 0x14 4
  | 0x20 => wholeBytes 0x22 6
  | 0x21 => wholeBytes 0x24 4
  | 0x22 => wholeBytes 0x24 4
  | 0x50 => wholeBytes 0x11 3 ++ wholeBytes 0x1c 4
  | 0x81 => (0x14, 0xfe) :: wholeBytes 0x15 3
  | 0xa0 => [(0x16, 0xfe)]
  | _ => []

/-- A bound mailbox's role; none when it is not bound. -/
def Pkg.roleOf (p : Pkg) (m : Nat) : Option Nat := if p.on (Reg.MGT_MB_BIND m) Fld.MGT_MB_BVALID then some (p.mbRole m) else none

/-- Table 16-5 admits a mailbox's role to an opcode (R552, R603). The holder's commands reach anyone's own answer while there is no
holder. -/
def Pkg.admits (p : Pkg) (m op : Nat) : Bool :=
  match p.roleOf m with
  | none => false
  | some r =>
    let held : Bool := p.ucState != ucEmpty
    match op with
    | 0x11 | 0x12 => !held || p.ucHolder == m
    | 0x13 => !held || p.ucHolder == m || r == roleOperator
    | 0x20 | 0x21 | 0x22 => r != roleHost
    | 0x30 | 0x50 | 0x51 | 0x52 | 0x70 | 0x81 => r == roleOperator
    | 0x40 => r == roleOperator || r == roleHost || r == roleAuditor
    | 0x60 => r == roleOperator || r == roleOwner
    | 0xa0 => r == roleOwner
    | _ => r ≤ 3

/-- The checks of R551 and R552 in order, as a result and its DETAIL. -/
def Pkg.mbCheck (p : Pkg) (m : Nat) (c : MbCmd) : Option (Nat × Nat) :=
  if c.at_ 1 1 ≠ 1 then some (resBadVersion, 0)
  else if c.at_ 2 2 ≠ mbLength c.area then some (resBadLength, 0)
  else match (mbReserved c.area).find? (fun x => c.at_ x.1 1 &&& x.2 != 0) with
    | some x => some (resReserved, x.1)
    | none => if p.admits m c.op then none else some (resNotPermitted, 0)

/-- A command not permitted is logged with its mailbox and opcode (R552, Table 16-11). -/
def Pkg.noteDenied (p : Pkg) (m op : Nat) : Pkg := p.record 30 0 3 7 (leBytes 1 m ++ leBytes 1 op)

/-- The data of a protection record (Table 18-3). -/
def protData (id kind index : Nat) : List Byte := leBytes 4 id ++ leBytes 1 kind ++ leBytes 1 index

/-- The proposal that a protection command concerns, as logged: none yet for a PROPOSE. -/
def Pkg.protOf (p : Pkg) (c : MbCmd) : List Byte :=
  if c.op = 0x20 then protData 0 (c.at_ 0x20 1) (c.at_ 0x21 1)
  else match p.mgt.proposals.find? (fun x => x.id == c.at_ 0x20 4) with
    | some x => protData x.id x.kind x.index
    | none => protData (c.at_ 0x20 4) 0 0

/-- A mailbox's response area (R546). -/
def Pkg.setResponse (p : Pkg) (m : Nat) (bs : List Byte) : Pkg :=
  (List.range 32).foldl (fun (q : Pkg) i => q.setNat (Reg.MGT_MB_RSP m i) (leAt bs (8 * i) 8)) p

/-- A mailbox's response area as bytes. -/
def Pkg.response (p : Pkg) (m : Nat) : List Byte := ((List.range 32).map (fun i => leBytes 8 (p.regNat (Reg.MGT_MB_RSP m i)))).flatten

/-- A command completes: the response area, then status and tag with DONE and without BUSY in one write, then the interrupt (R546, R549,
R550). A protection command that is refused is logged. -/
def Pkg.mbAnswer (p : Pkg) (e : Env) (m : Nat) (c : MbCmd) (res detail : Nat) (data : List Byte) : Pkg :=
  let area := padTo 256 (leBytes 1 res ++ leBytes 1 c.op ++ leBytes 2 data.length ++ leBytes 4 detail ++ leBytes 8 e.hall ++ data)
  let k := Reg.MGT_MB_STATUS m
  let p0 := if (c.op = 0x20 ∨ c.op = 0x21 ∨ c.op = 0x22) ∧ res ≠ resDone then p.record 30 0 7 5 (p.protOf c) else p
  let p1 := p0.setResponse m area
  let p2 := (((p1.setFld k Fld.MGT_MB_RESULT res).setFld k Fld.MGT_MB_DONE_TAG c.tag).setFld k Fld.MGT_MB_DONE 1).setFld k Fld.MGT_MB_BUSY 0
  let p3 := (p2.raiseIrq 13 30 (114 + m)).mgtCount Reg.MGT_CNT_CMD 1
  { p3 with
    mbox := p3.mbox.filter (fun x => x.1 ≠ m)
    mgt := { p3.mgt with oob := p3.mgt.oob ++ (if c.oob then [⟨m, c.tag, area⟩] else []) } }

/-- The command that is served next: the earliest beat, then the lowest mailbox, while no command but a long one is in progress (R548). -/
def Pkg.mbNext (p : Pkg) : Option (Nat × MbCmd) :=
  if p.mbox.any (fun x => x.2.running && !mbLong x.2.op) then none
  else
    (p.mbox.filter (fun x => !x.2.running)).foldl (fun (best : Option (Nat × MbCmd)) x =>
      match best with
      | none => some x
      | some y => if x.2.beat < y.2.beat || (x.2.beat == y.2.beat && x.1 < y.1) then some x else some y) none

/-- A command stays in progress. -/
def Pkg.mbRun (p : Pkg) (m : Nat) : Pkg := { p with mbox := p.mbox.map (fun x => if x.1 = m then (m, { x.2 with running := true }) else x) }

/-- Serve mailbox m's command, of the opcode given, when it is its turn. A reserved opcode is answered by any row; a second long command of an
opcode finds the first BUSY (R548). -/
def Pkg.serveMb (p : Pkg) (e : Env) (m op : Nat) (body : MbCmd → Pkg) : Pkg :=
  match p.mbNext with
  | none => p
  | some x =>
    let c := x.2
    if x.1 ≠ m then p
    else if !mbOpcodes.contains c.op then p.mbAnswer e m c resBadOpcode 0 []
    else if c.op ≠ op then p
    else match p.mbCheck m c with
      | some r => (if r.1 = resNotPermitted then p.noteDenied m c.op else p).mbAnswer e m c r.1 r.2 []
      | none =>
        if mbLong op && p.mbox.any (fun y => y.2.running && y.2.op == op) then p.mbAnswer e m c resBusy 0 [] else body c

/-- An OWNER names a die of its own partition; other roles name any (R552). -/
def Pkg.ownsDie (p : Pkg) (m die : Nat) : Bool :=
  if p.mbRole m ≠ roleOwner then true
  else
    let c := p.mbPart m
    if die < 16 then p.partHas c Fld.SEC_PART_DIES (die % 8)
    else if die < 20 then p.partHas c Fld.SEC_PART_ANVILS (die - 16) || (List.range 4).any (fun i => p.partHas c Fld.SEC_PART_GROUPS (4 * (die - 16) + i))
    else if die < 28 then p.partHas c Fld.SEC_PART_ENGINES (die - 20)
    else false

/-- An answer of NOT_PERMITTED, logged (R552). -/
def Pkg.mbDeny (p : Pkg) (e : Env) (m : Nat) (c : MbCmd) : Pkg := (p.noteDenied m c.op).mbAnswer e m c resNotPermitted 0 []

/-! ### Commands that report (Table 16-5) -/

/-- The location value as IDENTIFY reports it. -/
def Pkg.locReport (p : Pkg) : Nat := if p.locValid then p.ownLoc else 0xffffffff

/-- The running slot. -/
def Pkg.slotRun (p : Pkg) : Nat := p.fld Reg.MGT_STATUS Fld.MGT_SLOT_RUN

/-- IDENTIFY. -/
def identify (m : Nat) (e : Env) (p : Pkg) : Pkg :=
  p.serveMb e m 0x01 (fun c => p.mbAnswer e m c resDone 0
    (leBytes 8 Config.serial.toNat ++ leBytes 4 p.locReport ++ leBytes 1 0x10 ++ leBytes 1 p.grade ++ leBytes 2 p.numLevel ++
      leBytes 4 p.mgt.version ++ leBytes 1 2 ++ leBytes 1 4 ++ leBytes 1 1 ++ leBytes 1 0 ++ leBytes 1 p.slotRun ++ leBytes 1 (p.mbRole m) ++
      leBytes 1 (p.mbPart m)))

/-- FEATURES. -/
def features (m : Nat) (e : Env) (p : Pkg) : Pkg :=
  p.serveMb e m 0x02 (fun c => p.mbAnswer e m c resDone 0
    (leBytes 32 ((mbOpcodes.map (fun x => 2 ^ x)).sum) ++ leBytes 4 4096 ++ leBytes 4 261120 ++ leBytes 4 14))

/-- POWER_CAP: the cap takes effect at the second beat after the command's (R554, R592). -/
def powerCap (m : Nat) (e : Env) (p : Pkg) : Pkg :=
  p.serveMb e m 0x30 (fun c =>
    let w := c.at_ 0x10 2
    if w < 2500 ∨ 8000 < w ∨ w % 50 ≠ 0 then p.mbAnswer e m c resBadParam 0 []
    else ({ p with pwr := { p.pwr with capNext := some (c.beat + 2, w) } }).mbAnswer e m c resDone 0
      (leBytes 2 w ++ leBytes 6 0 ++ leBytes 8 (16 * (c.beat + 2))))

/-- POWER_STATUS: the lowest input voltage starts again from the present one, and the hottest sensor's least and greatest from the reading
reported (R541). -/
def powerStatus (m : Nat) (e : Env) (p : Pkg) : Pkg :=
  p.serveMb e m 0x31 (fun c =>
    let vin := p.fld Reg.PWR_MEAS Fld.PWR_VIN_MV
    let low := if p.mgt.vinLow = 0 then vin else min vin p.mgt.vinLow
    let hot := p.fld Reg.PWR_TJ Fld.PWR_TJ_SENSOR
    let sensors := if (assoc? p.mgt.sensors hot).isSome then assocPut p.mgt.sensors hot (p.pwr.hottest, p.pwr.hottest) else p.mgt.sensors
    ({ p with mgt := { p.mgt with vinLow := vin, sensors := sensors } }).mbAnswer e m c resDone 0
      (leBytes 4 vin ++ leBytes 4 (p.fld Reg.PWR_MEAS Fld.PWR_PIN_W) ++ leBytes 2 (p.fld Reg.PWR_CAP Fld.PWR_CAP_W) ++
        leBytes 2 (p.fld Reg.PWR_TJ Fld.PWR_TJ_MAX) ++ leBytes 4 (p.regNat Reg.PWR_STATUS) ++ leBytes 4 low))

/-- A log entry's 64 bytes (Table 16-10). -/
def LogEntry.bytes (x : LogEntry) : List Byte :=
  let r := x.entry
  let b := leBytes 8 x.seq ++ leBytes 8 x.hall ++ leBytes 8 (x.beat % 2 ^ 60 + (if r.superseded then 2 ^ 60 else 0)) ++ leBytes 1 r.die ++
    leBytes 1 (islandOf r.die) ++ leBytes 2 r.unit ++ leBytes 1 r.cls ++ leBytes 1 r.kind ++ leBytes 2 r.detail ++ padTo 28 r.data
  b ++ leBytes 4 (crc32c b)

/-- The entries the log holds, oldest first. -/
def LogSt.entries (l : LogSt) : List LogEntry := l.mram ++ l.buf

/-- LOG_READ: up to three entries from a sequence number, or from the oldest held when that one is overwritten (R572). -/
def logRead (m : Nat) (e : Env) (p : Pkg) : Pkg :=
  p.serveMb e m 0x40 (fun c =>
    let n := c.at_ 0x18 1
    if n = 0 ∨ 3 < n then p.mbAnswer e m c resBadParam 0 []
    else
      let xs := e.log.entries
      let oldest := match xs.head? with | some x => x.seq | none => e.log.next
      let first := c.at_ 0x10 8
      let got := (xs.filter (fun x => x.seq ≥ first)).take n
      p.mbAnswer e m c resDone 0 (leBytes 8 oldest ++ leBytes 8 e.log.next ++ leBytes 1 got.length ++ leBytes 1 (if first < oldest then 1 else 0) ++
        leBytes 30 0 ++ (got.map LogEntry.bytes).flatten))

/-- LOG_MARK: the mark is written with the records of this beat, and its number answered then. -/
def logMark (m : Nat) (e : Env) (p : Pkg) : Pkg :=
  p.serveMb e m 0x41 (fun c => (p.record 30 0 0xb m ((c.area.drop 0x10).take 28)).mbRun m)

/-- The pools of spares on a die: unit kind and pool index (Table 14-2). -/
def sparePools (die : Nat) : List (Nat × Nat) :=
  (if die < 8 then [(1, 0), (3, 0), (5, 0), (5, 1), (5, 2)] else []) ++ (if 8 ≤ die ∧ die < 16 then [(4, 0)] else []) ++
  (if routerOf die = die then (rangeFilter 4 (fun d => (hopFrom die d).isSome)).map (fun d => (7, d)) else []) ++
  ((rangeFilter 36 (fun x => portDie x == die)).map (fun x => (8, x))) ++
  (if 16 ≤ die ∧ die < 20 then [(10, 0), (11, 0)] else []) ++ (if die < 8 then [(13, 0)] else [])

/-- SPARE_STATUS. -/
def spareStatus (m : Nat) (e : Env) (p : Pkg) : Pkg :=
  p.serveMb e m 0x61 (fun c =>
    let die := c.at_ 0x10 1
    if 31 < die then p.mbAnswer e m c resBadParam 0 []
    else if !p.ownsDie m die then p.mbDeny e m c
    else
      let ps := sparePools die
      p.mbAnswer e m c resDone 0 (leBytes 4 ps.length ++ (ps.map (fun x =>
        leBytes 1 x.1 ++ leBytes 1 x.2 ++ leBytes 1 (p.poolFree die x) ++ leBytes 1 (p.poolUsed die x))).flatten))

/-- CAL_STATUS. -/
def calStatus (m : Nat) (e : Env) (p : Pkg) : Pkg :=
  p.serveMb e m 0x71 (fun c =>
    let s := c.at_ 0x10 1
    if 23 < s then p.mbAnswer e m c resBadParam 0 []
    else if !p.ownsDie m (s / 3) then p.mbDeny e m c
    else
      let st := p.stack s
      let last (pc : Nat) : Nat := (assoc? st.trained pc).getD 0
      let oldest := (List.range 64).foldl (fun (a : Nat) pc => min a (last pc)) (last 0)
      p.mbAnswer e m c resDone 0 (leBytes 4 (p.mmioRead e (Reg.MEM_STK_STATUS s) 4) ++ leBytes 4 st.retrains ++ leBytes 4 st.suspends ++
        leBytes 4 st.calMax ++ leBytes 8 oldest))

/-- TIME_STATUS. -/
def timeStatus (m : Nat) (e : Env) (p : Pkg) : Pkg :=
  p.serveMb e m 0x80 (fun c =>
    let hold := if p.fld Reg.TIM_STATUS Fld.TIM_LOCK = 2 then (e.hall - p.time.holdSince) / 1000000 else 0
    p.mbAnswer e m c resDone 0 (leBytes 8 e.hall ++ leBytes 4 (p.mmioRead e Reg.TIM_STATUS 4) ++ leBytes 4 (p.regNat Reg.TIM_OFFSET) ++
      leBytes 4 p.time.master ++ leBytes 4 hold))

/-! ### TIME_SET_MASTER (R455, R556) -/

/-- The hall time that a TIME_SET_MASTER which is served now steps to. -/
def Pkg.masterStep (p : Pkg) (m : Nat) : Option Nat :=
  match p.mbNext with
  | some x =>
    let c := x.2
    if x.1 = m ∧ c.op = 0x81 ∧ (p.mbCheck m c).isNone ∧ p.topo.holds (c.at_ 0x10 4) ∧ c.at_ 0x14 1 = 1 ∧ !p.anyEnabled then some (c.at_ 0x18 8)
    else none
  | none => none

/-- TIME_SET_MASTER: the master's location, and hall time stepped when the package has no enabled queue. -/
def timeSetMaster (m : Nat) (e : Env) (p : Pkg) : Pkg :=
  p.serveMb e m 0x81 (fun c =>
    let loc := c.at_ 0x10 4
    if !p.topo.holds loc then p.mbAnswer e m c resBadParam 0 []
    else if c.at_ 0x14 1 = 1 ∧ p.anyEnabled then p.mbAnswer e m c resUnitState 0 []
    else
      let p1 : Pkg := { p with time := { p.time with master := loc } }
      if c.at_ 0x14 1 = 1 then
        let h := c.at_ 0x18 8
        let p2 := p1.record 30 0 6 3 (leBytes 8 (ofSigned 64 ((e.hall : Int) - h)))
        ({ p2 with time := { p2.time with heard := h } }).mbAnswer { e with clock := ⟨h⟩ } m c resDone 0 (leBytes 8 h)
      else p1.mbAnswer e m c resDone 0 (leBytes 8 e.hall))

/-! ### SELFTEST (R553) -/

/-- A unit code names a unit of a die that can be tested (Table 14-1). -/
def unitOnDie (die unit : Nat) : Bool :=
  let i := unitIdx unit
  match unitKind unit with
  | 1 => die < 8 && i < 528
  | 2 => die < 8 && i < 2
  | 3 => die < 8 && i < 528
  | 4 => 8 ≤ die && die < 16 && i < 256
  | 5 => die < 8 && i < 192
  | 6 => die < 8 && i < 3
  | 7 => routerOf die == die && i < 2112 && (hopFrom die (i / 528)).isSome
  | 8 => i < 144 && portDie (i / 4) == die
  | 9 => i < 36 && portDie i == die
  | 10 => 16 ≤ die && die < 20 && i < 128
  | 11 => 16 ≤ die && die < 20 && i < 16
  | 12 => 16 ≤ die && die < 20 && i == 0
  | 13 => die < 8 && i < 8
  | _ => false

/-- A test of a unit has yet to end. -/
def Pkg.testOpen (p : Pkg) (die unit : Nat) (march : Bool) : Bool :=
  if march then (p.ras.marchDue ++ p.ras.marching).any (fun t => t.die == die && t.unit == unit)
  else p.ras.owed.contains (die, unit) || p.ras.ready.contains (die, unit) || p.ras.tests.any (fun t => t.die == die && t.unit == unit)

/-- SELFTEST starts a test, or waits for the one that runs. -/
def selftest (m : Nat) (e : Env) (p : Pkg) : Pkg :=
  p.serveMb e m 0x60 (fun c =>
    let die := c.at_ 0x10 1
    let unit := c.at_ 0x12 2
    let march : Bool := c.at_ 0x11 1 == 1
    if 1 < c.at_ 0x11 1 ∨ !unitOnDie die unit then p.mbAnswer e m c resBadParam 0 []
    else if !p.ownsDie m die then p.mbDeny e m c
    else if p.ras.retired.contains (die, unit) || (unitKind unit == 13 && p.ras.exhausted.contains (die, unit)) then
      p.mbAnswer e m c resUnitState 0 []
    else
      let p1 : Pkg := { p with ras := { p.ras with results := p.ras.results.filter (fun (y : TestResult) => !(y.die == die && y.unit == unit && y.march == march)) } }
      let p2 :=
        if p1.testOpen die unit march then p1
        else if march then { p1 with ras := { p1.ras with marchDue := p1.ras.marchDue ++ [(⟨die, unit, e.hall, false, false⟩ : UnitTest)] } }
        else p1.beginTest e die unit false
      p2.mbRun m)

/-- A SELFTEST's test has ended: its outcome and duration are reported. -/
def Pkg.selftestEnd (p : Pkg) (e : Env) (m : Nat) (c : MbCmd) : Pkg :=
  let die := c.at_ 0x10 1
  let unit := c.at_ 0x12 2
  let march : Bool := c.at_ 0x11 1 == 1
  if p.testOpen die unit march then p
  else match p.ras.results.find? (fun (y : TestResult) => y.die == die && y.unit == unit && y.march == march) with
    | some r => p.mbAnswer e m c resDone 0 (leBytes 1 r.outcome ++ leBytes 7 0 ++ leBytes 8 r.duration)
    | none => p.mbAnswer e m c resTimeout 0 []

/-! ### PAIR_SET (R475, R557) and ATTEST -/

/-- PAIR_SET starts to wait for the partner's. -/
def pairSet (m : Nat) (e : Env) (p : Pkg) : Pkg :=
  p.serveMb e m 0xa0 (fun c =>
    let ctx := c.at_ 0x14 1
    if 7 < ctx ∨ 7 < c.at_ 0x15 1 ∨ !p.topo.holds (c.at_ 0x10 4) then p.mbAnswer e m c resBadParam 0 []
    else if p.mbPart m ≠ ctx then p.mbDeny e m c
    else if p.ctxHasEnabled ctx then p.mbAnswer e m c resUnitState 0 []
    else p.mbRun m)

/-- A PAIR_SET ends: paired or unpaired when the partner's matches, TIMEOUT when none came within 10 s. -/
def Pkg.pairSetEnd (p : Pkg) (e : Env) (m : Nat) (c : MbCmd) (partnered : Bool) : Pkg :=
  if partnered then
    let k := Reg.TIM_PAIR_CFG
    let p1 :=
      if c.at_ 0x16 1 = 1 then
        (((p.setNat k 0).setFld k Fld.TIM_PAIR_EN 1).setFld k Fld.TIM_PAIR_CTX (c.at_ 0x14 1)).setFld k Fld.TIM_PAIR_LOC (c.at_ 0x10 4)
      else p.setNat k 0
    let p2 := p1.setCtxSt (c.at_ 0x14 1) { p1.ctxSt (c.at_ 0x14 1) with pairStopped := false }
    p2.mbAnswer e m c resDone 0 (leBytes 4 (p2.regNat k))
  else if 16 * c.beat + 10000000000 ≤ e.hall then p.mbAnswer e m c resTimeout 0 []
  else p

/-- ATTEST starts. -/
def attest (m : Nat) (e : Env) (p : Pkg) : Pkg := p.serveMb e m 0xb0 (fun _ => p.mbRun m)

/-- Measurement register k (R611). -/
def Pkg.measure (p : Pkg) (k : Nat) : List Byte := ((List.range 6).map (fun i => leBytes 8 (p.regNat (Reg.SEC_MEAS k i)))).flatten

/-- Set a measurement register. -/
def Pkg.setMeasure (p : Pkg) (k : Nat) (bs : List Byte) : Pkg :=
  (List.range 6).foldl (fun (q : Pkg) i => q.setNat (Reg.SEC_MEAS k i) (leAt bs (8 * i) 8)) p

/-- Extend a measurement register with a digest (R611). -/
def Pkg.extend (p : Pkg) (k : Nat) (digest : List Byte) : Pkg := p.setMeasure k (sha384 (p.measure k ++ digest))

/-- A quote answers ATTEST (R612, Table 18-4). -/
def Pkg.attestEnd (p : Pkg) (e : Env) (m : Nat) (c : MbCmd) : Pkg :=
  let body := (c.area.drop 0x10).take 32 ++ sha384 (p.measure 0 ++ p.measure 1 ++ p.measure 2) ++ p.measure 3 ++ leBytes 8 Config.serial.toNat ++
    leBytes 4 p.locReport ++ leBytes 2 p.numLevel ++ leBytes 2 0
  p.mbAnswer e m c resDone 0 (body ++ leBytes 96 (Config.attestSign (sha384 body)).toNat)

/-! ### Datagrams and sensors -/

/-- A command datagram (R549): a repeat of the last completed tag has the stored response sent again, one of the tag in progress is ignored,
and another writes the command area and the doorbell together from the out-of-band source. -/
def oobDatagram (m tag : Nat) (area : List Byte) (e : Env) (p : Pkg) : Pkg :=
  let t := tag % 65536
  let k := Reg.MGT_MB_STATUS m
  let data := leBytes 4 0x300 ++ leBytes 8 (0x1000 * m + 0x200) ++ leBytes 8 t
  if !(p.on (Reg.MGT_MB_BIND m) Fld.MGT_MB_BVALID && p.on (Reg.MGT_MB_BIND m) Fld.MGT_MB_OOB) then
    ((p.setFld k Fld.MGT_MB_REJECT 1).record 30 0 3 4 data).mgtCount Reg.MGT_CNT_REJECT 1
  else if p.mbox.any (fun x => x.1 == m && x.2.tag == t) then p
  else if p.on k Fld.MGT_MB_DONE && p.fld k Fld.MGT_MB_DONE_TAG == t then
    { p with mgt := { p.mgt with oob := p.mgt.oob ++ [⟨m, t, p.response m⟩] } }
  else (p.setMailArea m (padTo 256 area)).mailDoorbell e m t true (fun s => (s.record 30 0 3 6 data).mgtCount Reg.MGT_CNT_REJECT 1)

/-- A reading of sensor i: its least and greatest since last reported (R541). -/
def Mgt.sensed (g : Mgt) (i : Nat) (v : Int) : Mgt :=
  let old := (assoc? g.sensors i).getD (v, v)
  { g with sensors := assocPut g.sensors i (min old.1 v, max old.2 v) }

/-- The complex reads its sensors: temperatures in 0.1 °C, voltages in mV, phase currents in mA, and PWR_48V in mV. Sensors are numbered thermal,
then voltage from 256, then current from 384 (R541, Table 17-5). -/
def sensorSample (temps : List (Nat × Int)) (volts currents : List (Nat × Nat)) (vin : Nat) (_ : Env) (p : Pkg) : Pkg :=
  let ts := temps.filter (fun x => x.1 < 256)
  let g0 := ts.foldl (fun (g : Mgt) x => g.sensed x.1 x.2) p.mgt
  let g1 := (volts.filter (fun x => x.1 < 128)).foldl (fun (g : Mgt) x => g.sensed (256 + x.1) x.2) g0
  let g2 := (currents.filter (fun x => x.1 < 384)).foldl (fun (g : Mgt) x => g.sensed (384 + x.1) x.2) g1
  let p1 : Pkg := { p with mgt := { g2 with vinLow := if g2.vinLow = 0 then vin else min g2.vinLow vin } }
  let p2 := p1.setFld Reg.PWR_MEAS Fld.PWR_VIN_MV (min vin 0xffff)
  match ts with
  | [] => p2
  | t :: rest =>
    let hot := rest.foldl (fun (a : Nat × Int) x => if x.2 > a.2 then x else a) t
    let p3 := (p2.setFld Reg.PWR_TJ Fld.PWR_TJ_SENSOR hot.1).setFld Reg.PWR_TJ Fld.PWR_TJ_MAX (ofSigned 16 hot.2)
    -- THERMTRIP_N is released once PORST_N is asserted with every junction below 97 °C (R594)
    { p3 with pwr := { p3.pwr with hottest := hot.2, trip := p3.pwr.trip && !(p3.pwr.porst && hot.2 < 970) } }

/-! ### The commands -/

/-- IDENTIFY (R552). -/
def execIdentify (m : Fin 16) (s : State) : Host.Outcome State Fault Refusal := s.mgmt (identify m.val)

/-- FEATURES (R552). -/
def execFeatures (m : Fin 16) (s : State) : Host.Outcome State Fault Refusal := s.mgmt (features m.val)

/-- POWER_CAP (R592). -/
def execPowerCap (m : Fin 16) (s : State) : Host.Outcome State Fault Refusal := s.mgmt (powerCap m.val)

/-- POWER_STATUS (R552). -/
def execPowerStatus (m : Fin 16) (s : State) : Host.Outcome State Fault Refusal := s.mgmt (powerStatus m.val)

/-- LOG_READ (R572). -/
def execLogRead (m : Fin 16) (s : State) : Host.Outcome State Fault Refusal := s.mgmt (logRead m.val)

/-- LOG_MARK (R552). -/
def execLogMark (m : Fin 16) (s : State) : Host.Outcome State Fault Refusal := s.mgmt (logMark m.val)

/-- SPARE_STATUS (R552). -/
def execSpareStatus (m : Fin 16) (s : State) : Host.Outcome State Fault Refusal := s.mgmt (spareStatus m.val)

/-- CAL_STATUS (R552). -/
def execCalStatus (m : Fin 16) (s : State) : Host.Outcome State Fault Refusal := s.mgmt (calStatus m.val)

/-- TIME_STATUS (R552). -/
def execTimeStatus (m : Fin 16) (s : State) : Host.Outcome State Fault Refusal := s.mgmt (timeStatus m.val)

/-- TIME_SET_MASTER (R556); it may step hall time (R455). -/
def execTimeSetMaster (m : Fin 16) (s : State) : Host.Outcome State Fault Refusal :=
  let step := if s.pkg.complexUp then s.pkg.masterStep m.val else none
  let t := s.lift (fun e p => if p.complexUp then timeSetMaster m.val e p else p)
  .next (match step with | some h => { t with clock := ⟨h⟩ } | none => t)

/-- SELFTEST (R553). -/
def execSelftest (m : Fin 16) (s : State) : Host.Outcome State Fault Refusal := s.mgmt (selftest m.val)

/-- PAIR_SET (R557). -/
def execPairSet (m : Fin 16) (s : State) : Host.Outcome State Fault Refusal := s.mgmt (pairSet m.val)

/-- ATTEST (R612). -/
def execAttest (m : Fin 16) (s : State) : Host.Outcome State Fault Refusal := s.mgmt (attest m.val)

/-- OOB_DUPLICATE_DATAGRAM (R549), and every other command datagram. -/
def execOobDuplicateDatagram (m : Fin 16) (tag : Nat) (area : List Byte) (s : State) : Host.Outcome State Fault Refusal :=
  s.any (oobDatagram m.val tag area)

/-- SENSOR_SAMPLE (R541). -/
def execSensorSample (temps : List (Nat × Int)) (volts currents : List (Nat × Nat)) (vinMv : Nat) (s : State) :
    Host.Outcome State Fault Refusal := s.mgmt (sensorSample temps volts currents vinMv)

end Sys2Proof.Machine
end

