-- ==== Sys2Proof/Machine/StageCheck.lean ====
section
/-! DEFINITION. STAGE_CHECK (spec 16_jiward_management.md, R561, Tables 16-7 and 16-8; 08_memory_system.md, R299, Table 08-5; R368, R470, R489,
R596, R616, Table 18-7): the staged set laid over the values in effect, and the conflicts found in it. -/

namespace Sys2Proof.Machine

/-! ### The staged set -/

/-- The bits of a register that an undercoat entry sets: its ST fields, and from an accepted pair a region's owner (R560, R600). -/
def stagedMask (h : RegHit) (pair : Bool) : W64 := h.spec.stMask ||| (if pair ∧ h.spec.name = "MEM_RG_ATTR" then h.spec.lkMask else 0)

/-- Apply an undercoat entry to its register. -/
def Pkg.applyStaged (p : Pkg) (s : Staged) : Pkg :=
  match findReg s.off with
  | none => p
  | some h =>
    let m := stagedMask h s.pair
    p.setReg h.key ((p.reg h.key &&& ~~~m) ||| (s.value &&& m))

/-- An entry names the start of a register with ST fields (MGT_ conflict 1). -/
def Staged.onRegister (s : Staged) : Bool :=
  match findReg s.off with
  | none => false
  | some h => h.spec.stMask != 0 && regLane h s.off == 0

/-- An entry has its register's width (MGT_ conflict 2). -/
def Staged.fits (s : Staged) : Bool := match findReg s.off with | none => false | some h => h.spec.bytes == s.width

/-- The name and index of an entry's register. -/
def Staged.named (s : Staged) : String × Nat := match findReg s.off with | none => ("", 0) | some h => (h.spec.name, h.index)

/-- The package as the staged set would make it. -/
def Pkg.stagedView (p : Pkg) : Pkg := (p.staged.filter (fun s => s.onRegister && s.fits)).foldl Pkg.applyStaged p

/-- A conflict: prefix code, number, index, register address (Table 16-8). -/
abbrev Clash := Nat × Nat × Nat × Nat

/-- Order of reports: prefix, conflict, index, address (R561). -/
def Clash.le (a b : Clash) : Bool :=
  if a.1 ≠ b.1 then a.1 < b.1 else if a.2.1 ≠ b.2.1 then a.2.1 < b.2.1 else if a.2.2.1 ≠ b.2.2.1 then a.2.2.1 < b.2.2.1 else a.2.2.2 ≤ b.2.2.2

/-- The address of the first staged entry among some registers, or of the first of them when none is staged. -/
def Pkg.clashAt (p : Pkg) (keys : List Nat) : Nat :=
  match (p.staged.filter (fun s => keys.contains s.key)).map (fun s => s.off) with
  | [] => keys.headD 0
  | x :: xs => xs.foldl min x

/-- A clash when a condition holds. -/
def clashIf (c : Bool) (pre num idx addr : Nat) : List Clash := if c then [(pre, num, idx, addr)] else []

/-! ### The lists (Table 16-7) -/

/-- A staged value holds a reserved code or lies outside its range, where no other list names the case. -/
def rangeBad (name : String) (w : W64) : Bool :=
  match name with
  | "MEM_REG" => getField w Fld.MEM_REG_DEPTH > 64 || getField w Fld.MEM_REG_RATE > 100
  | "TIM_CTRL" => getField w Fld.TIM_SRC == 3
  | "MGT_CAL_POLICY" =>
    getField w Fld.MGT_CAL_TRIG < 2 || getField w Fld.MGT_CAL_TRIG > 10 || getField w Fld.MGT_CAL_INTERVAL == 0 || getField w Fld.MGT_CAL_INTERVAL > 20
  | "MGT_MB_BIND" => getField w Fld.MGT_MB_ROLE > 3
  | "PWR_CFG" =>
    getField w Fld.PWR_THR_START < 85 || getField w Fld.PWR_THR_START > 97 || getField w Fld.PWR_THR_RELEASE < 80 || getField w Fld.PWR_THR_RELEASE > 95
  | _ => false

/-- The holder's principal is granted a register: an OPERATOR and a HOST every one, an OWNER those of its own context and regions, an AUDITOR
none. -/
def Pkg.stageGranted (p v : Pkg) (m : Nat) (s : Staged) : Bool :=
  let c := p.mbPart m
  match p.roleOf m with
  | some 0 => true
  | some 1 => true
  | some 2 =>
    (match s.named with
     | ("DSP_QCFG", _) => (findReg s.off).any (fun h => p.fld h.key Fld.DSP_Q_CTX == c && v.fld h.key Fld.DSP_Q_CTX == c)
     | ("DSP_FLAG_ATTR", _) => s.off / blockBytes == c
     | ("MEM_REG", i) => i == c
     | ("RAS_CTX_CFG", i) => i == c
     | ("TIM_CTX_CFG", i) => i == c
     | ("MEM_RG_BASE", i) => (p.region i).owner == c
     | ("MEM_RG_SIZE", i) => (p.region i).owner == c
     | ("MEM_RG_PLACE", i) => (p.region i).owner == c
     | ("MEM_RG_ATTR", i) => (p.region i).owner == c
     | _ => false)
  | _ => false

/-- `MGT_` conflicts. -/
def Pkg.mgtClashes (p v : Pkg) : List Clash :=
  (p.staged.map (fun s =>
    if !s.onRegister then [(0, 1, 0, s.off)]
    else if !s.fits then [(0, 2, 0, s.off)]
    else
      clashIf (!s.pair && s.named.1 != "MGT_MB_BIND" && s.named.1 != "SEC_PART" && s.named.1 != "SEC_ACL" && s.named.1 != "SEC_FW_FLOOR" &&
        !p.stageGranted v p.ucHolder s) 0 3 0 s.off ++
      clashIf (rangeBad s.named.1 (v.reg s.key)) 0 4 0 s.off ++
      clashIf (!s.pair && s.named.1 == "MGT_MB_BIND") 0 5 s.named.2 s.off)).flatten

/-- A mask of array dies is a run that R597 admits. -/
def diesRun (ds : List Nat) : Bool :=
  let d := ds.length
  let lo := ds.headD 0
  (d == 1 || d == 2 || d == 4 || d == 8) && lo % d == 0 && ds == (List.range d).map (fun i => lo + i)

/-- What a partition shares with those of lower number (SEC_ conflict 3). -/
def Pkg.partShares (v : Pkg) (c : Nat) : Bool :=
  v.partValid c && (List.range c).any (fun o => v.partValid o &&
    [Fld.SEC_PART_DIES, Fld.SEC_PART_GROUPS, Fld.SEC_PART_ENGINES, Fld.SEC_PART_ANVILS].any (fun f =>
      v.fld (Reg.SEC_PART c) f &&& v.fld (Reg.SEC_PART o) f != 0))

/-- The array die whose partition a device belongs to: a stack's or a stash die's. -/
def ownerDieOf (s : Nat) : Nat := if s < 24 then s / 3 else s - 24

/-- The registers of a region. -/
def regionKeys (n : Nat) : List Nat := [Reg.MEM_RG_BASE n, Reg.MEM_RG_SIZE n, Reg.MEM_RG_PLACE n, Reg.MEM_RG_ATTR n]

/-- A valid access-list entry is wrong (SEC_ conflict 5). -/
def Pkg.aclWrong (v : Pkg) (i : Nat) : Bool :=
  let k := Reg.SEC_ACL i
  let t := v.fld k Fld.SEC_ACL_TARGET
  v.on k Fld.SEC_ACL_VALID &&
    (v.fld k Fld.SEC_ACL_FIRST > v.fld k Fld.SEC_ACL_LAST || v.fld k Fld.SEC_ACL_RIGHTS == 0 ||
     !(if v.on k Fld.SEC_ACL_CTX then t < 8 && v.partValid t else (v.region t).valid))

/-- `SEC_` conflicts (Table 18-7). -/
def Pkg.secClashes (p v : Pkg) : List Clash :=
  (p.staged.map (fun s =>
    let n := s.named
    let owner (w : W64) : Nat := getField w Fld.MEM_RG_OWNER
    clashIf (!s.pair && (n.1 == "SEC_PART" || n.1 == "SEC_ACL" || n.1 == "SEC_FW_FLOOR" ||
      (n.1 == "MEM_RG_ATTR" && owner s.value != owner (p.reg s.key)))) 1 1 n.2 s.off)).flatten ++
  ((List.range 8).map (fun c =>
    let a := p.clashAt [Reg.SEC_PART c]
    clashIf (v.partValid c && !diesRun (v.partDies c)) 1 2 c a ++ clashIf (v.partShares c) 1 3 c a ++
    clashIf ((p.stagedAt (Reg.SEC_PART c)).isSome && v.reg (Reg.SEC_PART c) != p.reg (Reg.SEC_PART c) && p.ctxHasEnabled c) 1 6 c a)).flatten ++
  ((List.range 64).map (fun n =>
    let r := v.region n
    clashIf (r.valid && (!v.partValid r.owner || r.devices.any (fun d => !(v.partDies r.owner).contains (ownerDieOf d)))) 1 4 n
      (p.clashAt (regionKeys n)))).flatten ++
  ((List.range 256).map (fun i => clashIf (v.aclWrong i) 1 5 i (p.clashAt [Reg.SEC_ACL i]))).flatten

/-- A region's mode breaks Table 08-4 (MEM_ conflict 5). -/
def Region.modeBad (r : Region) : Bool :=
  if r.stash then r.mode != 2 || r.devs > 7
  else
    let d := r.devices
    match r.mode with
    | 0 => !(d.headD 1 % 3 == 0 && d == [d.headD 1, d.headD 1 + 1, d.headD 1 + 2])
    | 1 => d.length < 2
    | _ => d.isEmpty

/-- `MEM_` conflicts (Table 08-5). -/
def Pkg.memClashes (p v : Pkg) : List Clash :=
  let rs := ((List.range 64).map v.region).filter (fun r => r.valid)
  (rs.map (fun r =>
    let a := p.clashAt (regionKeys r.num)
    let lo := if r.stash then 0x20000000000 + (r.devs % 8) * 0x40000000 else 0
    let hi := if r.stash then lo + 0x40000000 else 0x18000000000
    let others := rs.filter (fun o => o.num != r.num)
    clashIf (r.base < lo || hi < r.base + r.size) 2 1 r.num a ++
    clashIf (r.size == 0 || r.size % (max 1 r.devices.length * 2 ^ 21) != 0) 2 2 r.num a ++
    clashIf (r.capacity < r.linesPerDev) 2 3 r.num a ++
    clashIf (r.slots == 0 || (if r.stash then 16 else 4096) < r.slotBase + r.slots) 2 4 r.num a ++
    clashIf r.modeBad 2 5 r.num a ++
    clashIf (others.any (fun o => r.base < o.base + o.size && o.base < r.base + r.size)) 2 6 r.num a ++
    clashIf (others.any (fun o => r.devices.any o.devices.contains && r.slotBase < o.slotBase + o.slots && o.slotBase < r.slotBase + r.slots)) 2 7
      r.num a ++
    clashIf (!r.calDelay && !r.patch) 2 8 r.num a ++
    clashIf (r.enc && !(p.regNat Reg.SEC_RKEY).testBit r.num) 2 9 r.num a)).flatten ++
  (let cap := v.fld Reg.MEM_PRIO_CAP Fld.MEM_PRIO_CAP
   let rate (c : Nat) : Nat := v.fld (Reg.MEM_REG c) Fld.MEM_REG_RATE
   let upto (c : Nat) : Nat := ((List.range (c + 1)).map rate).sum
   clashIf (cap > 10) 2 10 0 (p.clashAt [Reg.MEM_PRIO_CAP]) ++
   ((List.range 8).map (fun c =>
     let k := Reg.MEM_REG c
     clashIf ((upto c > 100 - cap && upto c - rate c ≤ 100 - cap) || v.fld k Fld.MEM_REG_DEPTH == 0 || v.fld k Fld.MEM_REG_BUDGET == 0) 2 10 c
       (p.clashAt [k]))).flatten)

/-- `DSP_` conflicts. -/
def Pkg.dspClashes (p v : Pkg) : List Clash :=
  ((List.range 64).map (fun q =>
    let k := Reg.DSP_QCFG q
    clashIf ((p.stagedAt k).isSome && !v.partValid (v.fld k Fld.DSP_Q_CTX)) 3 1 q (p.clashAt [k]))).flatten

/-- `FAB_` conflicts (R368). -/
def Pkg.fabClashes (p v : Pkg) : List Clash :=
  let ks := [Reg.FAB_LOC, Reg.FAB_TOPO]
  clashIf (ks.any (fun k => (p.stagedAt k).isSome) && v.locValid && !v.topo.holds v.ownLoc) 4 1 0 (p.clashAt ks)

/-- `TIM_` conflicts (R470). -/
def Pkg.timClashes (p v : Pkg) : List Clash :=
  clashIf (v.on Reg.TIM_CTRL Fld.TIM_TRMODE && 1 < ((List.range 8).filter v.partValid).length) 5 1 0 (p.clashAt [Reg.TIM_CTRL])

/-- A partition's journal region meets R489. -/
def Pkg.journalGood (v : Pkg) (c : Nat) : Bool :=
  let r := v.region (v.fld (Reg.RAS_CTX_CFG c) Fld.RAS_JR_REGION)
  v.on (Reg.RAS_CTX_CFG c) Fld.RAS_JR_VALID && r.valid && r.stash && r.patch && r.owner == c && r.devices == [24 + v.leadDie c] && 2 ^ 24 ≤ r.size

/-- `RAS_` conflicts (R489). -/
def Pkg.rasClashes (p v : Pkg) : List Clash :=
  ((List.range 8).map (fun c => clashIf (v.partValid c && !v.journalGood c) 6 1 c
    (p.clashAt (Reg.RAS_CTX_CFG c :: Reg.SEC_PART c :: regionKeys (v.fld (Reg.RAS_CTX_CFG c) Fld.RAS_JR_REGION))))).flatten

/-- `PWR_` conflicts (R596). -/
def Pkg.pwrClashes (p v : Pkg) : List Clash :=
  clashIf (v.fld Reg.PWR_CFG Fld.PWR_THR_RELEASE + 2 > v.fld Reg.PWR_CFG Fld.PWR_THR_START) 8 1 0 (p.clashAt [Reg.PWR_CFG])

/-- The first conflict of the staged set (R561). -/
def Pkg.firstClash (p : Pkg) : Option Clash :=
  let v := p.stagedView
  match p.mgtClashes v ++ p.secClashes v ++ p.memClashes v ++ p.dspClashes v ++ p.fabClashes v ++ p.timClashes v ++ p.rasClashes v ++
      p.pwrClashes v with
  | [] => none
  | x :: xs => some (xs.foldl (fun (a : Clash) y => if Clash.le a y then a else y) x)

end Sys2Proof.Machine
end

