-- ==== Sys2Proof/Machine/Undercoat.lean ====
section
/-! DEFINITION. The undercoat and its commit at one beat (spec 16_jiward_management.md, R555, R558 to R568; R300, R301, R599, R602, R611,
R613). -/

namespace Sys2Proof.Machine

/-- A configuration record: generation, B, entry count (Table 16-11). -/
def Pkg.ucRecord (p : Pkg) (detail b : Nat) : Pkg :=
  p.record 30 0 4 detail (leBytes 4 (p.regNat Reg.MGT_UC_GEN) ++ leBytes 8 b ++ leBytes 4 p.staged.length)

/-- The undercoat is emptied and its hold ends; the generation adds 1 (R558, R560). -/
def Pkg.ucClear (p : Pkg) : Pkg :=
  (({ p with staged := [], mgt := { p.mgt with changes := [], commit := none } }.setNat Reg.MGT_UC_STATUS 0).setNat Reg.MGT_UC_ARM 0).nextGen

/-- An open, checked or armed undercoat is discarded and logged (R558, R566, R567, R576). -/
def Pkg.ucDiscard (p : Pkg) (detail : Nat) : Pkg :=
  if p.ucState = ucEmpty then p else (p.ucRecord detail (p.regNat Reg.MGT_UC_ARM)).ucClear

/-! ### Staging (R555, R558, R560) -/

/-- A mailbox command stages registers: BUSY when another holds the undercoat or it is armed, FULL beyond its capacity. -/
def Pkg.mbStage (p : Pkg) (e : Env) (m : Nat) (c : MbCmd) (xs : List Staged) : Pkg :=
  if !p.mayStage m then p.mbAnswer e m c resBusy 0 []
  else match p.stage e m xs with
    | none => p.mbAnswer e m c resFull 0 []
    | some q => q.mbAnswer e m c resDone 0 (leBytes 4 q.staged.length ++ leBytes 4 (q.regNat Reg.MGT_UC_GEN))

/-- STAGE_SET (Table 16-6). -/
def stageSet (m : Nat) (e : Env) (p : Pkg) : Pkg :=
  p.serveMb e m 0x10 (fun c =>
    let n := c.at_ 0x10 1
    let width (i : Nat) : Nat := c.at_ (0x1c + 16 * i) 1
    if n = 0 ∨ 14 < n ∨ (List.range n).any (fun i => width i != 4 && width i != 8) then p.mbAnswer e m c resBadParam 0 []
    else p.mbStage e m c ((List.range n).map (fun i =>
      ⟨c.at_ (0x18 + 16 * i) 4, width i, BitVec.ofNat 64 (c.at_ (0x20 + 16 * i) (width i)), false⟩)))

/-- CAL_POLICY (R555). -/
def calPolicy (m : Nat) (e : Env) (p : Pkg) : Pkg :=
  p.serveMb e m 0x70 (fun c =>
    let ms := c.at_ 0x10 2
    let t := c.at_ 0x12 1
    if ms < 50 ∨ 1000 < ms ∨ ms % 50 ≠ 0 ∨ t < 2 ∨ 10 < t then p.mbAnswer e m c resBadParam 0 []
    else p.mbStage e m c [⟨Reg.MGT_CAL_POLICY, 4, BitVec.ofNat 64 (256 * t + ms / 50), false⟩])

/-- STAGE_CHECK starts (R561). -/
def stageCheck (m : Nat) (e : Env) (p : Pkg) : Pkg := p.serveMb e m 0x11 (fun _ => p.mbRun m)

/-- STAGE_CHECK ends: EMPTY, the first conflict, or a pass that sets the state to checked (R561, Table 16-8). -/
def Pkg.stageCheckEnd (p : Pkg) (e : Env) (m : Nat) (c : MbCmd) : Pkg :=
  let gen := leBytes 4 (p.regNat Reg.MGT_UC_GEN)
  if p.ucState = ucEmpty then p.mbAnswer e m c resEmpty 0 []
  else if p.ucState = ucArmed then p.mbAnswer e m c resBusy 0 []
  else match p.firstClash with
    | some x => p.mbAnswer e m c resConflict 0 (leBytes 1 x.1 ++ leBytes 1 x.2.1 ++ leBytes 2 x.2.2.1 ++ leBytes 4 x.2.2.2 ++ gen)
    | none => (p.setFld Reg.MGT_UC_STATUS Fld.MGT_UC_STATE ucChecked).mbAnswer e m c resDone 0 gen

/-! ### Commit (R562 to R567) -/

/-- The islands of the package (Table 01-8). -/
abbrev islandCount : Nat := 18

/-- COMMIT: accepted for a checked undercoat at its generation and for a beat in range; every island is sent its share (R562 to R564). -/
def commit (m : Nat) (e : Env) (p : Pkg) : Pkg :=
  p.serveMb e m 0x12 (fun c =>
    let gen := p.regNat Reg.MGT_UC_GEN
    let b := c.at_ 0x18 8
    if !p.working then p.mbAnswer e m c resUnitState 0 []
    else if p.ucState = ucArmed then p.mbAnswer e m c resBusy 0 []
    else if p.ucState ≠ ucChecked ∨ c.at_ 0x10 4 ≠ gen then p.mbAnswer e m c resNoCheck gen []
    else if b ≠ 0 ∧ (b < c.beat + 1250 ∨ c.beat + 3750000000 < b) then p.mbAnswer e m c resBeatRange 0 []
    else ({ p with mgt := { p.mgt with commit := some ⟨m, c.beat, b, gen, [], none, p.staged⟩ } }).mbRun m)

/-- The COMMIT whose islands have yet to acknowledge, with its command. -/
def Pkg.commitOpen (p : Pkg) : Option (CommitSt × MbCmd) :=
  match p.mgt.commit with
  | some k => if k.armed.isSome then none else (assoc? p.mbox k.box).map (fun c => (k, c))
  | none => none

/-- A COMMIT that is not armed is answered with CANCELLED, and its shadows are discarded (R564). -/
def Pkg.commitFails (p : Pkg) (e : Env) (k : CommitSt) (c : MbCmd) : Pkg :=
  (({ p with mgt := { p.mgt with commit := none } }).mgtCount Reg.MGT_CNT_CANCEL 1).mbAnswer e k.box c resCancelled 0 []

/-- An armed commit, or one whose islands have yet to acknowledge, is cancelled with its undercoat (R566, R567); a COMMIT not yet answered is
answered with CANCELLED (Table 16-4). -/
def Pkg.ucCancel (p : Pkg) (e : Env) : Pkg :=
  let p1 := match p.commitOpen with | some kc => p.mbAnswer e kc.1.box kc.2 resCancelled 0 [] | none => p
  if p.mgt.commit.isSome then (p1.ucDiscard 2).mgtCount Reg.MGT_CNT_CANCEL 1 else p

/-- An island acknowledges its share within 1,000 beats; after the last, B and the generation are armed and the COMMIT is answered (R564). -/
def islandAcknowledge (i : Nat) (e : Env) (p : Pkg) : Pkg :=
  match p.commitOpen with
  | none => p
  | some (k, c) =>
    if k.since + 1000 < e.tag ∨ k.acks.contains i then p
    else
      let acks := i :: k.acks
      if acks.length < islandCount then { p with mgt := { p.mgt with commit := some { k with acks := acks } } }
      else if p.ucState ≠ ucChecked ∨ p.regNat Reg.MGT_UC_GEN ≠ k.gen then p.commitFails e k c
      else
        let b := if k.named = 0 then e.tag + 2 else k.named
        let p1 : Pkg := { p with mgt := { p.mgt with commit := some { k with acks := acks, armed := some b } } }
        ((p1.setNat Reg.MGT_UC_ARM b).setFld Reg.MGT_UC_STATUS Fld.MGT_UC_STATE ucArmed).mbAnswer e k.box c resDone 0
          (leBytes 8 b ++ leBytes 4 k.gen)

/-- Acknowledgements are missing after 1,000 beats (R564). -/
def commitAckTimeout (e : Env) (p : Pkg) : Pkg :=
  match p.commitOpen with
  | some (k, c) => if k.since + 1000 < e.tag then p.commitFails e k c else p
  | none => p

/-- STAGE_DISCARD: cancels an armed commit up to B − 64 (R567). One sampled later is answered TOO_LATE, also where it is served after the
commit was applied. -/
def stageDiscard (m : Nat) (e : Env) (p : Pkg) : Pkg :=
  p.serveMb e m 0x13 (fun c =>
    let done (q : Pkg) : Pkg := q.mbAnswer e m c resDone 0 (leBytes 4 (q.regNat Reg.MGT_UC_GEN))
    let b := p.regNat Reg.MGT_UC_LAST_BEAT
    if p.ucState = ucEmpty then p.mbAnswer e m c (if c.beat ≤ b ∧ b < c.beat + 64 then resTooLate else resEmpty) 0 []
    else if p.ucState = ucArmed then
      (if c.beat + 64 ≤ p.regNat Reg.MGT_UC_ARM then done (p.ucCancel e) else p.mbAnswer e m c resTooLate 0 [])
    else done (p.ucDiscard 3))

/-- A STAGE_DISCARD sampled in time for an armed commit waits to be served. -/
def Pkg.discardWaits (p : Pkg) (b : Nat) : Bool :=
  p.mbox.any (fun x => !x.2.running && x.2.op == 0x13 && x.2.beat + 64 ≤ b && (p.mbCheck x.1 x.2).isNone)

/-- The protection tables as bytes (R600). -/
def Pkg.protTables (p : Pkg) : List Byte :=
  ((List.range 8).map (fun i => leBytes 8 (p.regNat (Reg.SEC_PART i)))).flatten ++
  ((List.range 64).map (fun n => leBytes 1 (p.region n).owner)).flatten ++
  ((List.range 256).map (fun i => leBytes 8 (p.regNat (Reg.SEC_ACL i)))).flatten ++
  ((List.range 16).map (fun m => leBytes 4 (p.regNat (Reg.MGT_MB_BIND m)))).flatten ++
  ((List.range 16).map (fun r => padTo 96 ((assoc? p.mgt.keys r).getD []))).flatten ++ leBytes 4 (p.regNat Reg.SEC_FW_FLOOR)

/-- A key change takes effect (R604, R609, R613). -/
def Pkg.applyChange (p : Pkg) (x : KeyChange) : Pkg :=
  match x.kind with
  | 5 =>
    let k := x.body.take 96
    { p with mgt := { p.mgt with
        keys := if k.all (fun b => b == 0) then assocDrop p.mgt.keys x.index else assocPut p.mgt.keys x.index k
        counters := assocDrop p.mgt.counters x.index } }
  | 6 =>
    let rk := p.regNat Reg.SEC_RKEY
    let off := rk - (if rk.testBit x.index then 2 ^ x.index else 0)
    if leAt x.body 0 1 = 1 then
      (p.setNat Reg.SEC_RKEY (off + 2 ^ x.index)).drawKeys x.index
    else { (p.setNat Reg.SEC_RKEY off) with mgt := { p.mgt with regionKeys := assocDrop p.mgt.regionKeys x.index } }
  | 7 =>
    let k := x.body.take 32
    { p with mgt := { p.mgt with
        ckptKeys := if k.all (fun b => b == 0) then assocDrop p.mgt.ckptKeys x.index else assocPut p.mgt.ckptKeys x.index k } }
  | _ => p

/-- A commit from one configuration of a region to another resets its contents (R300). -/
def Region.resets (old new : Region) : Bool :=
  new.valid && (!old.valid || old.base != new.base || old.size != new.size || old.devs != new.devs || old.slotBase != new.slotBase ||
    old.slots != new.slots || old.stash != new.stash || old.mode != new.mode || old.patch != new.patch || old.enc != new.enc)

/-- What a commit means for a region: not ready while it is filled with zeros, its keys destroyed (R300, R613). -/
def Pkg.commitRegion (p q : Pkg) (n : Nat) : Pkg :=
  let old := p.region n
  let new := q.region n
  if old.resets new then
    let q1 : Pkg := { q with mgt := { q.mgt with regionKeys := assocDrop q.mgt.regionKeys n } }
    -- an enrolled region has new keys at once (log entry 100)
    (if new.enc && (q.regNat Reg.SEC_RKEY).testBit n then q1.drawKeys n else q1).setFld (Reg.MEM_RG_ATTR n) Fld.MEM_RG_READY 0
  else if new.valid then q
  else q.setFld (Reg.MEM_RG_ATTR n) Fld.MEM_RG_READY 0

/-- The contexts whose wait-cycle count a commit restarts: a flag attribute or a queue binding of theirs changed (R234). -/
def Pkg.countsRestart (p q : Pkg) : List Nat :=
  (List.range 8).filter (fun c =>
    (List.range 128).any (fun i => p.reg (Reg.DSP_FLAG_ATTR c i) != q.reg (Reg.DSP_FLAG_ATTR c i)) ||
    (List.range 64).any (fun k => p.queueCtx k != q.queueCtx k && (p.queueCtx k == c || q.queueCtx k == c)))

/-- A commit is applied: the shadows, the key changes, and what follows from them (R234, R300, R565, R609, R611). -/
def Pkg.commitEffects (p : Pkg) (e : Env) (k : CommitSt) : Pkg :=
  let p1 := k.shadows.foldl Pkg.applyStaged p
  let p2 := p.mgt.changes.foldl Pkg.applyChange ((List.range 64).foldl (fun (q : Pkg) n => p.commitRegion q n) p1)
  let p3 := (p.countsRestart p2).foldl (fun (q : Pkg) c => q.restartCount c) p2
  let p4 : Pkg := if p.timSrc = p3.timSrc then p3 else { p3 with time := { p3.time with heard := e.hall, begun := false } }
  if p.protTables = p4.protTables then p4 else p4.extend 3 (leBytes 48 (Config.tableDigest p4.protTables).toNat)

/-- Beat B: every island applies its shadow, the undercoat is emptied, and the commit is logged once (R565). -/
def commitApply (e : Env) (p : Pkg) : Pkg :=
  match p.mgt.commit with
  | none => p
  | some k =>
    match k.armed with
    | none => p
    | some b =>
      if e.tag < b ∨ p.discardWaits b then p
      else
        -- what the controllers accepted before the beat completes under the old configuration (R301)
        let p1 := (countFold 32 (fun dev q => q.settleDevice e dev) p).commitEffects e k
        let data := leBytes 4 k.gen ++ leBytes 8 b ++ leBytes 4 k.shadows.length
        let p2 := (((p1.event 6 30 0 4 1 data).mgtCount Reg.MGT_CNT_COMMIT 1).setNat Reg.MGT_UC_LAST_BEAT b).setNat Reg.MGT_UC_LAST_GEN k.gen
        ({ p2 with mgt := { p2.mgt with applied := k.shadows } }).ucClear

/-- An island found both shadow copies of a register failing at B: the complex rewrites it from the undercoat's copy (R568). -/
def shadowRewrite (off : Nat) (_ : Env) (p : Pkg) : Pkg :=
  match p.mgt.applied.find? (fun s => s.off == off) with
  | some s =>
    let data := leBytes 4 (p.regNat Reg.MGT_UC_LAST_GEN) ++ leBytes 8 (p.regNat Reg.MGT_UC_LAST_BEAT) ++ leBytes 4 p.mgt.applied.length
    (p.applyStaged s).record 30 0 4 5 data
  | none => p

/-- The holder has sent no command for 300 s: the undercoat is discarded and the lapse logged (R558). -/
def holdLapse (e : Env) (p : Pkg) : Pkg :=
  if (p.ucState = ucOpen ∨ p.ucState = ucChecked) ∧ p.mgt.commit.isNone ∧ p.ucSince + 300000000000 ≤ e.hall then p.ucDiscard 4 else p

/-! ### The commands -/

/-- STAGE_SET (R560). -/
def execStageSet (m : Fin 16) (s : State) : Host.Outcome State Fault Refusal := s.mgmt (stageSet m.val)

/-- STAGE_CHECK (R561). -/
def execStageCheck (m : Fin 16) (s : State) : Host.Outcome State Fault Refusal := s.mgmt (stageCheck m.val)

/-- COMMIT (R564). -/
def execCommit (m : Fin 16) (s : State) : Host.Outcome State Fault Refusal := s.mgmt (commit m.val)

/-- STAGE_DISCARD (R567). -/
def execStageDiscard (m : Fin 16) (s : State) : Host.Outcome State Fault Refusal := s.mgmt (stageDiscard m.val)

/-- CAL_POLICY (R555). -/
def execCalPolicy (m : Fin 16) (s : State) : Host.Outcome State Fault Refusal := s.mgmt (calPolicy m.val)

/-- ISLAND_ACKNOWLEDGE (R564). -/
def execIslandAcknowledge (island : Fin 18) (s : State) : Host.Outcome State Fault Refusal := s.mgmt (islandAcknowledge island.val)

/-- COMMIT_ACK_TIMEOUT (R564). -/
def execCommitAckTimeout (s : State) : Host.Outcome State Fault Refusal := s.mgmt commitAckTimeout

/-- COMMIT_APPLY (R565), an event of class 6. -/
def execCommitApply (s : State) : Host.Outcome State Fault Refusal := s.work ⟨6, 30, 0⟩ commitApply

/-- SHADOW_REWRITE (R568). -/
def execShadowRewrite (off : Nat) (s : State) : Host.Outcome State Fault Refusal := s.mgmt (shadowRewrite off)

/-- HOLD_LAPSE (R558). -/
def execHoldLapse (s : State) : Host.Outcome State Fault Refusal := s.mgmt holdLapse

end Sys2Proof.Machine
end

