-- ==== Sys2Proof/Machine/Protect.lean ====
section
/-! DEFINITION. Two-party changes of the protection tables (spec 18_protection_and_tenancy.md, R603 to R609, Tables 18-1 to 18-3): roles and
keys, signed messages, proposals, endorsements and withdrawals. -/

namespace Sys2Proof.Machine

/-- The role of a mailbox as the protection messages count roles: 0 OPERATOR, 1 AUDITOR, 8 + p OWNER p (R603, Table 18-2). -/
def Pkg.signer (p : Pkg) (m : Nat) : Nat := match p.mbRole m with | 1 => 0 | 3 => 1 | _ => 8 + p.mbPart m

/-- An ROLE_KEY body that revokes. -/
def noKey (body : List Byte) : Bool := (body.take 96).all (fun b => b == 0)

/-- Body bytes that a kind uses (Table 18-2). -/
def bodyBytes (kind : Nat) : Nat := match kind with | 1 => 8 | 2 => 1 | 3 => 8 | 4 => 4 | 5 => 96 | 6 => 1 | 7 => 32 | _ => 4

/-- A change's kind, index or body lies outside Table 18-2, or would leave no OPERATOR key or no AUDITOR key (R605). -/
def Pkg.changeBad (p : Pkg) (kind index : Nat) (body : List Byte) : Bool :=
  (body.drop (bodyBytes kind)).any (fun b => b != 0) ||
  match kind with
  | 1 => index > 7
  | 2 => index > 63 || leAt body 0 1 > 7
  | 3 => false
  | 4 => index > 15
  | 5 => !(index ≤ 1 || (8 ≤ index && index ≤ 15)) || (index ≤ 1 && noKey body)
  | 6 => index > 63 || leAt body 0 1 > 1
  | 7 => index > 7
  | 8 => index != 0 || leAt body 0 4 < p.regNat Reg.SEC_FW_FLOOR
  | _ => true

/-- The owner whose region or context an access-list entry names, as a role. -/
def Pkg.aclOwner (p : Pkg) (w : W64) : List Nat :=
  if getField w Fld.SEC_ACL_VALID = 0 then []
  else
    let t := getField w Fld.SEC_ACL_TARGET
    if getField w Fld.SEC_ACL_CTX = 1 then [8 + t % 8] else [8 + (p.region t).owner]

/-- The owner that a mailbox binding names, as a role. -/
def bindOwner (w : W64) : List Nat :=
  if getField w Fld.MGT_MB_BVALID = 1 ∧ getField w Fld.MGT_MB_ROLE = 2 then [8 + getField w Fld.MGT_MB_PART] else []

/-- The roles that may take part in a change (Table 18-2). -/
def Pkg.changeRoles (p : Pkg) (kind index : Nat) (body : List Byte) : List Nat :=
  let new : W64 := BitVec.ofNat 64 (leAt body 0 8)
  [0, 1] ++
  match kind with
  | 2 => [8 + (p.region index).owner, 8 + leAt body 0 1]
  | 3 => p.aclOwner (p.reg (Reg.SEC_ACL index)) ++ p.aclOwner new
  | 4 => bindOwner (p.reg (Reg.MGT_MB_BIND index)) ++ bindOwner new
  | 5 => if index ≥ 8 then [index] else []
  | 6 => [8 + (p.region index).owner]
  | 7 => [8 + index]
  | _ => []

/-- A message's nonce: the package's serial number, and a counter above the last accepted for the role's key (R604). -/
def Pkg.nonceGood (p : Pkg) (role : Nat) (c : MbCmd) : Bool :=
  c.at_ 0x10 8 == Config.serial.toNat && (assoc? p.mgt.counters role).getD 0 < c.at_ 0x18 8

/-- A message's signature, at an offset of its command area, over all before it (R604). -/
def signedBy (key : List Byte) (c : MbCmd) (off : Nat) : Bool := ecdsaVerify key (sha384 (c.area.take off)) ((c.area.drop off).take 96)

/-- A signed message passes under a key, or why it does not (R604). -/
def Pkg.messageFails (p : Pkg) (role : Nat) (key : Option (List Byte)) (c : MbCmd) (off : Nat) : Option Nat :=
  match key with
  | none => some resNoKey
  | some k => if !p.nonceGood role c then some resNonce else if !signedBy k c off then some resSignature else none

/-- A message is accepted: its counter is the last one for the role's key (R604). -/
def Pkg.countNonce (p : Pkg) (role : Nat) (c : MbCmd) : Pkg :=
  { p with mgt := { p.mgt with counters := assocPut p.mgt.counters role (c.at_ 0x18 8) } }

/-- A protection record (Table 18-3). -/
def Pkg.protRecord (p : Pkg) (detail : Nat) (x : Proposal) : Pkg := p.record 30 0 7 detail (protData x.id x.kind x.index)

/-- PROPOSE (R603 to R606). -/
def protectPropose (m : Nat) (e : Env) (p : Pkg) : Pkg :=
  p.serveMb e m 0x20 (fun c =>
    let role := p.signer m
    let kind := c.at_ 0x20 1
    let index := c.at_ 0x21 1
    let body := (c.area.drop 0x28).take 96
    let own : Bool := kind == 5 && index == 0 && role == 0 && p.mgt.keys.isEmpty && m == 0 && !noKey body
    let key := if own then some (body.take 96) else assoc? p.mgt.keys role
    if p.changeBad kind index body then p.mbAnswer e m c resBadParam 0 []
    else if !(p.changeRoles kind index body).contains role ∨ (kind = 7 ∧ !c.oob) then p.mbDeny e m c
    else match p.messageFails role key c 0x88 with
      | some r => p.mbAnswer e m c r 0 []
      | none =>
        let p1 := p.countNonce role c
        if p1.mgt.proposals.length ≥ 16 then p1.mbAnswer e m c resPendingFull 0 []
        else
          let digest := sha384 ((c.area.drop 0x10).take 0x78)
          let x : Proposal := ⟨p1.mgt.nextId, kind, index, body, role, digest, c.beat + 1875000000⟩
          let p2 : Pkg := { p1 with mgt := { p1.mgt with proposals := p1.mgt.proposals ++ [x], nextId := (p1.mgt.nextId + 1) % 2 ^ 32 } }
          (p2.protRecord 1 x).mbAnswer e m c resDone 0 (leBytes 4 x.id ++ leBytes 4 0 ++ leBytes 8 (16 * x.expiry) ++ digest))

/-- The undercoat entry of an accepted change (R607): none for the keys. -/
def Pkg.changeEntry (p : Pkg) (x : Proposal) : List Staged :=
  match x.kind with
  | 1 => [⟨Reg.SEC_PART x.index, 8, BitVec.ofNat 64 (leAt x.body 0 8), true⟩]
  | 2 =>
    let k := Reg.MEM_RG_ATTR x.index
    let w := match p.stagedAt k with | some s => s.value | none => p.reg k
    [⟨k, 4, setField w Fld.MEM_RG_OWNER (leAt x.body 0 1), true⟩]
  | 3 => [⟨Reg.SEC_ACL x.index, 8, BitVec.ofNat 64 (leAt x.body 0 8), true⟩]
  | 4 => [⟨Reg.MGT_MB_BIND x.index, 4, BitVec.ofNat 64 (leAt x.body 0 4), true⟩]
  | 8 => [⟨Reg.SEC_FW_FLOOR, 4, BitVec.ofNat 64 (leAt x.body 0 4), true⟩]
  | _ => []

/-- A role may endorse a proposal: another than its proposer's, admitted for the kind; a checkpoint key needs its owner on one side (R607,
Table 18-2). -/
def Pkg.mayEndorse (p : Pkg) (role : Nat) (x : Proposal) : Bool :=
  role != x.role && (p.changeRoles x.kind x.index x.body).contains role && (x.kind != 7 || role == 8 + x.index || x.role == 8 + x.index)

/-- ENDORSE (R604, R605, R607). -/
def protectEndorse (m : Nat) (e : Env) (p : Pkg) : Pkg :=
  p.serveMb e m 0x21 (fun c =>
    let role := p.signer m
    let id := c.at_ 0x20 4
    let say (q : Pkg) (r : Nat) : Pkg := q.mbAnswer e m c r 0 []
    match p.mgt.proposals.find? (fun x => x.id == id) with
    | none => if p.mgt.expired.contains id then say p resExpired else say p resNoProposal
    | some x =>
      -- R605: the first OPERATOR key is endorsed on mailbox 15 under that key, and a role without a key may endorse its own
      let first : Bool := x.kind == 5 && x.index == 0 && x.role == 0 && p.mgt.keys.isEmpty
      let ownKey : Bool := x.kind == 5 && x.index == role && !noKey x.body && (assoc? p.mgt.keys role).isNone
      let key := if first then (if m = 15 then some (x.body.take 96) else none) else if ownKey then some (x.body.take 96) else assoc? p.mgt.keys role
      match p.messageFails role key c 0x58 with
      | some r => say p r
      | none =>
        let p1 := p.countNonce role c
        if x.expiry < c.beat then say p1 resExpired
        else if (c.area.drop 0x28).take 48 ≠ x.digest then say p1 resSignature
        else if !p1.mayEndorse role x then say p1 resSameRole
        else if x.kind = 7 ∧ !c.oob then p1.mbDeny e m c
        else if !p1.mayStage m then say p1 resBusy
        else match p1.stage e m (p1.changeEntry x) with
          | none => say p1 resFull
          | some q =>
            let q1 : Pkg := { q with mgt := { q.mgt with
              proposals := q.mgt.proposals.filter (fun y => y.id ≠ id)
              changes := q.mgt.changes ++ (if 5 ≤ x.kind ∧ x.kind ≤ 7 then [⟨x.kind, x.index, x.body⟩] else []) } }
            (q1.event 7 30 0 7 2 (protData x.id x.kind x.index)).mbAnswer e m c resDone 0 (leBytes 4 (q1.regNat Reg.MGT_UC_GEN)))

/-- WITHDRAW, signed by the proposer's key (R606, R608). -/
def protectWithdraw (m : Nat) (e : Env) (p : Pkg) : Pkg :=
  p.serveMb e m 0x22 (fun c =>
    let role := p.signer m
    let id := c.at_ 0x20 4
    match p.mgt.proposals.find? (fun x => x.id == id) with
    | none => p.mbAnswer e m c resNoProposal 0 []
    | some x =>
      match p.messageFails role (assoc? p.mgt.keys role) c 0x28 with
      | some r => p.mbAnswer e m c r 0 []
      | none =>
        let p1 := p.countNonce role c
        if x.role ≠ role then p1.mbAnswer e m c resSignature 0 []
        else
          let p2 : Pkg := { p1 with mgt := { p1.mgt with proposals := p1.mgt.proposals.filter (fun y => y.id ≠ id) } }
          (p2.protRecord 3 x).mbAnswer e m c resDone 0 [])

/-- A pending proposal, by its place among those pending, expires 30 s after its doorbell's beat (R606, R607). -/
def proposalExpiry (i : Nat) (e : Env) (p : Pkg) : Pkg :=
  match p.mgt.proposals[i]? with
  | some x =>
    if x.expiry < e.tag then
      ({ p with mgt := { p.mgt with proposals := p.mgt.proposals.filter (fun y => y.id ≠ x.id), expired := x.id :: p.mgt.expired } }).protRecord 4 x
    else p
  | none => p

/-! ### The commands -/

/-- PROTECT_PROPOSE (R606). -/
def execProtectPropose (m : Fin 16) (s : State) : Host.Outcome State Fault Refusal := s.mgmt (protectPropose m.val)

/-- PROTECT_ENDORSE (R607). -/
def execProtectEndorse (m : Fin 16) (s : State) : Host.Outcome State Fault Refusal := s.mgmt (protectEndorse m.val)

/-- PROTECT_WITHDRAW (R608). -/
def execProtectWithdraw (m : Fin 16) (s : State) : Host.Outcome State Fault Refusal := s.mgmt (protectWithdraw m.val)

/-- PROPOSAL_EXPIRY (R606). -/
def execProposalExpiry (m : Fin 16) (s : State) : Host.Outcome State Fault Refusal := s.mgmt (proposalExpiry m.val)

end Sys2Proof.Machine
end

