-- ==== Sys2Proof/Machine/Firmware.lean ====
section
/-! DEFINITION. Firmware slots, update, boot and restart of the Jiward complex (spec 16_jiward_management.md, R543, R573 to R577; R610, R611),
and the end of long commands (R548). -/

namespace Sys2Proof.Machine

/-! ### Slots -/

/-- Bytes of an image at most (R573). -/
abbrev imageMax : Nat := 33554432

/-- A slot: 0 A, 1 B. -/
def Pkg.slot (p : Pkg) (i : Nat) : FwSlot := (assoc? p.mgt.slots i).getD ⟨0, [], 0, false⟩

/-- Put back a slot. -/
def Pkg.setSlot (p : Pkg) (i : Nat) (x : FwSlot) : Pkg := { p with mgt := { p.mgt with slots := assocPut p.mgt.slots i x } }

/-- The valid bit of a slot. -/
def slotField (i : Nat) : Field := if i = 0 then Fld.MGT_SLOT_A_VALID else Fld.MGT_SLOT_B_VALID

/-- A slot is verified. -/
def Pkg.slotValid (p : Pkg) (i : Nat) : Bool := p.on Reg.MGT_STATUS (slotField i)

/-- The slot that is not running (R573). -/
def Pkg.slotIdle (p : Pkg) : Nat := 1 - p.slotRun

/-- The first n bytes of a slot as staged; bytes that no stage has written read as 0xFF (R573). -/
def FwSlot.bytes (x : FwSlot) (n : Nat) : List Byte := (List.range n).map (fun i => (assoc? x.image i).getD 0xff)

/-- A firmware record: slot and image version (Table 16-11). -/
def Pkg.fwRecord (p : Pkg) (detail i : Nat) : Pkg := p.record 30 0 5 detail (leBytes 1 i ++ leBytes 4 (p.slot i).version)

/-! ### FW_STAGE, FW_VERIFY, FW_ACTIVATE (R573 to R575) -/

/-- FW_STAGE starts. -/
def fwStage (m : Nat) (e : Env) (p : Pkg) : Pkg :=
  p.serveMb e m 0x50 (fun c =>
    let len := c.at_ 0x18 4
    let off := c.at_ 0x14 4
    let src := c.at_ 0x10 1
    if 1 < src ∨ len = 0 ∨ (if src = 1 then 224 else imageMax) < len ∨ imageMax < off + len ∨
        (src = 0 ∧ !p.noHole (c.at_ 0x20 8) len) then p.mbAnswer e m c resBadParam 0 []
    else p.mbRun m)

/-- FW_STAGE ends: the bytes are in the slot that is not running, which the first stage after a verification or an activation marks invalid and
empties (R573). -/
def Pkg.fwStageEnd (p : Pkg) (e : Env) (m : Nat) (c : MbCmd) : Pkg :=
  let i := p.slotIdle
  let len := c.at_ 0x18 4
  let off := c.at_ 0x14 4
  let bs := if c.at_ 0x10 1 = 1 then (c.area.drop 0x20).take len else p.viewBytes (c.at_ 0x20 8) len
  let x := p.slot i
  let x0 : FwSlot := if x.staging then x else ⟨0, [], 0, true⟩
  let image := x0.image.filter (fun b => b.1 < off || off + len ≤ b.1) ++ (List.range len).map (fun k => (off + k, byteAt bs k))
  let x1 : FwSlot := { x0 with image := image, top := max x0.top (off + len) }
  ((p.setSlot i x1).setFld Reg.MGT_STATUS (slotField i) 0).mbAnswer e m c resDone 0 (leBytes 1 i ++ leBytes 3 0 ++ leBytes 4 x1.top)

/-- FW_VERIFY starts. -/
def fwVerify (m : Nat) (e : Env) (p : Pkg) : Pkg :=
  p.serveMb e m 0x51 (fun c =>
    if c.at_ 0x10 4 = 0 ∨ imageMax < c.at_ 0x10 4 then p.mbAnswer e m c resBadParam 0 [] else p.mbRun m)

/-- FW_VERIFY ends: the staged slot is checked as secure boot does (R574, R610). A slot verified and not staged into since passes again. -/
def Pkg.fwVerifyEnd (p : Pkg) (e : Env) (m : Nat) (c : MbCmd) : Pkg :=
  let i := p.slotIdle
  let x := p.slot i
  let img := x.bytes (c.at_ 0x10 4)
  let fresh : Bool := x.staging || !p.slotValid i
  let version := if fresh then (Config.fwVersionOf img).toNat else x.version
  let pass : Bool := (!fresh || Config.fwSigned img) && p.regNat Reg.SEC_FW_FLOOR ≤ version
  if pass then
    let p1 := (p.setSlot i { x with version := version, staging := false }).setFld Reg.MGT_STATUS (slotField i) 1
    (p1.fwRecord 1 i).mbAnswer e m c resDone 0 (leBytes 1 i ++ leBytes 3 0 ++ leBytes 4 version)
  else ((p.setSlot i { x with staging := false }).setFld Reg.MGT_STATUS (slotField i) 0).mbAnswer e m c resSignature 0 []

/-- The complex restarts on a slot: an open or checked undercoat is discarded, a commit not yet armed is not applied (R566, R576). -/
def Pkg.restart (p : Pkg) (e : Env) (i : Nat) : Pkg :=
  let p1 := ((p.setFld Reg.MGT_STATUS Fld.MGT_STATE 2).mgtCount Reg.MGT_CNT_RESTART 1).fwRecord 3 i
  let p2 : Pkg := { p1 with mgt := { p1.mgt with boot := i, tries := 0, since := e.hall } }
  if p2.ucState = ucArmed then p2
  else
    let p3 := if p2.mgt.commit.isSome then p2.mgtCount Reg.MGT_CNT_CANCEL 1 else p2
    p3.ucDiscard 3

/-- The slots as FW_ACTIVATE reports them. -/
def Pkg.slotsReport (p : Pkg) : List Byte := leBytes 1 p.slotRun ++ leBytes 1 (p.fld Reg.MGT_STATUS Fld.MGT_SLOT_NEXT)

/-- FW_ACTIVATE: the idle slot boots next, in mode 1 at once (R575). -/
def fwActivate (m : Nat) (e : Env) (p : Pkg) : Pkg :=
  p.serveMb e m 0x52 (fun c =>
    let i := p.slotIdle
    let mode := c.at_ 0x10 1
    if 1 < mode then p.mbAnswer e m c resBadParam 0 []
    else if !p.slotValid i then p.mbAnswer e m c resUnitState 0 []
    else if mode = 1 ∧ p.ucState = ucArmed then p.mbAnswer e m c resBusy 0 []
    else
      let p1 := ((p.setFld Reg.MGT_STATUS Fld.MGT_SLOT_NEXT i).setSlot i { p.slot i with staging := false }).fwRecord 2 i
      if mode = 0 then p1.mbAnswer e m c resDone 0 p1.slotsReport else (p1.mbRun m).restart e i)

/-! ### Boot and restart (R543, R576, R577, R610, R611) -/

/-- A slot passes secure boot: verified, and no older than the floor (R610). -/
def Pkg.bootable (p : Pkg) (i : Nat) : Bool := p.slotValid i && p.regNat Reg.SEC_FW_FLOOR ≤ (p.slot i).version

/-- Measurements at a boot: each register zero, then extended (R611). -/
def Pkg.measureBoot (p : Pkg) : Pkg :=
  let zero (q : Pkg) (k : Nat) : Pkg := q.setMeasure k (List.replicate 48 0)
  let d (what version : Nat) : List Byte := leBytes 48 (Config.bootDigest what version).toNat
  let p1 := (List.range 4).foldl zero p
  ((p1.extend 0 (d 0 0)).extend 1 (d 1 p.mgt.version)).extend 2 (d 2 p.fwVersion)

/-- The complex runs on a slot, in a state of Table 16-14. -/
def Pkg.runOn (p : Pkg) (i state : Nat) : Pkg :=
  let p1 := (p.setFld Reg.MGT_STATUS Fld.MGT_SLOT_RUN i).setFld Reg.MGT_STATUS Fld.MGT_STATE state
  ({ p1 with mgt := { p1.mgt with version := (p1.slot i).version, tries := 0 } })

/-- Boot a slot; one that fails three attempts gives way to the other, with the fallback logged; when neither boots the complex stays as it is (R577).
`misreads` attempts in a row, from the slot's first, find a difference between the two reads of the image, or between an image loaded into a die and
the verified copy (R629). -/
def Pkg.bootSlot (p : Pkg) (i misreads : Nat) : Pkg :=
  if p.bootable i && misreads < 3 then p.runOn i 1
  else if p.bootable (1 - i) && misreads < 6 then (p.runOn (1 - i) 3).fwRecord 4 (1 - i)
  else p

/-- Commands in progress at a restart are answered: RESTARTED, and the FW_ACTIVATE that asked for it by the new firmware (R575, R576). -/
def Pkg.answerRestarted (p : Pkg) (e : Env) : Pkg :=
  (p.mbox.filter (fun x => x.2.running)).foldl (fun (q : Pkg) x =>
    if x.2.op = 0x52 then q.mbAnswer e x.1 x.2 resDone 0 q.slotsReport else q.mbAnswer e x.1 x.2 resRestarted 0 []) p

/-- A restart ends (R576). An attempt that misreads its image (R629) ends no restart: BOOT_ATTEMPT_TIMEOUT stands for it, as for any that fails. -/
def complexRestartEnd (e : Env) (p : Pkg) : Pkg :=
  if p.fld Reg.MGT_STATUS Fld.MGT_STATE = 2 then
    let p1 := p.bootSlot p.mgt.boot 0
    if p1.complexUp then p1.measureBoot.answerRestarted e else p1
  else p

/-- A slot does not reach the running state within 2 s: tried again, and after three attempts the other slot boots (R577). -/
def bootAttemptTimeout (e : Env) (p : Pkg) : Pkg :=
  let st := p.fld Reg.MGT_STATUS Fld.MGT_STATE
  if p.mgt.power && (st == 0 || st == 2) && p.mgt.since + 2000000000 ≤ e.hall then
    let p1 : Pkg := { p with mgt := { p.mgt with tries := p.mgt.tries + 1, since := e.hall } }
    let other := 1 - p1.mgt.boot
    if p1.mgt.tries < 3 then p1
    else if p1.bootable other then (((p1.runOn other 3).fwRecord 4 other).measureBoot).answerRestarted e
    else { p1 with mgt := { p1.mgt with tries := 0 } }
  else p

/-- The management cores' results differ: the complex restarts on its running slot (R543). -/
def lockstepMismatch (e : Env) (p : Pkg) : Pkg := (p.fwRecord 5 p.slotRun).restart e p.slotRun

/-! ### Long commands end (R548) -/

/-- A long command that runs in the background completes. -/
def longCommandEnd (m : Nat) (partnered : Bool) (e : Env) (p : Pkg) : Pkg :=
  match assoc? p.mbox m with
  | some c =>
    if !c.running then p
    else match c.op with
      | 0x11 => p.stageCheckEnd e m c
      | 0x50 => p.fwStageEnd e m c
      | 0x51 => p.fwVerifyEnd e m c
      | 0x60 => p.selftestEnd e m c
      | 0xa0 => p.pairSetEnd e m c partnered
      | 0xb0 => p.attestEnd e m c
      | _ => p
  | none => p

/-! ### The commands -/

/-- FW_STAGE (R573). -/
def execFwStage (m : Fin 16) (s : State) : Host.Outcome State Fault Refusal := s.mgmt (fwStage m.val)

/-- FW_VERIFY (R574). -/
def execFwVerify (m : Fin 16) (s : State) : Host.Outcome State Fault Refusal := s.mgmt (fwVerify m.val)

/-- FW_ACTIVATE (R575). -/
def execFwActivate (m : Fin 16) (s : State) : Host.Outcome State Fault Refusal := s.mgmt (fwActivate m.val)

/-- LONG_COMMAND_END (R548); for a PAIR_SET, whether the partner's matching one has come (R557). -/
def execLongCommandEnd (m : Fin 16) (partnered : Bool) (s : State) : Host.Outcome State Fault Refusal := s.mgmt (longCommandEnd m.val partnered)

/-- LOCKSTEP_MISMATCH (R543). -/
def execLockstepMismatch (s : State) : Host.Outcome State Fault Refusal := s.mgmt lockstepMismatch

/-- COMPLEX_RESTART_END (R576). -/
def execComplexRestartEnd (s : State) : Host.Outcome State Fault Refusal := s.any complexRestartEnd

/-- BOOT_ATTEMPT_TIMEOUT (R577). -/
def execBootAttemptTimeout (s : State) : Host.Outcome State Fault Refusal := s.any bootAttemptTimeout

end Sys2Proof.Machine
end

