-- ==== Sys2Proof/Machine/Log.lean ====
section
/-! DEFINITION. The event log: the records of a beat enter the SRAM buffer in order, with drops and overflow records, and entries move on to
MRAM (spec 16_jiward_management.md, R569 to R571; R576, R586, R587). -/

namespace Sys2Proof.Machine

/-- Entries of the SRAM buffer, those that only events of classes 1 to 4 may pass, and positions of the MRAM ring (R569, R571). -/
abbrev logBuffer : Nat := 4096
abbrev logCommon : Nat := 3840
abbrev logRing : Nat := 261120

/-- Log order (R570): ascending beat; within a beat the events by class, die and unit, then the other records as they were made. -/
def logLe (a b : Nat × LogRec) : Bool :=
  if a.1 ≠ b.1 then a.1 < b.1
  else if a.2.cls = 0 ∨ b.2.cls = 0 then b.2.cls = 0
  else if a.2.cls ≠ b.2.cls then a.2.cls < b.2.cls
  else if a.2.die ≠ b.2.die then a.2.die < b.2.die
  else a.2.unit ≤ b.2.unit

/-- Write an entry at the end of the buffer. -/
def LogSt.append (l : LogSt) (beat : Nat) (r : LogRec) : LogSt :=
  { l with next := l.next + 1, buf := l.buf ++ [⟨l.next, 16 * beat, beat, r⟩] }

/-- The overflow record: once the buffer holds fewer than 3,840 entries after drops, their count is written before any new entry (R571). -/
def LogSt.overflow (l : LogSt) (beat : Nat) : LogSt :=
  if l.dropped ≠ 0 ∧ l.buf.length < logCommon then
    { l.append beat ⟨false, 30, 0, 0, 0xc, 0, padTo 28 (leBytes 8 l.dropped)⟩ with dropped := 0 }
  else l

/-- An arriving entry is dropped (R571). -/
def LogSt.full (l : LogSt) (r : LogRec) : Bool :=
  l.buf.length ≥ (if 1 ≤ r.cls ∧ r.cls ≤ 4 then logBuffer else logCommon)

/-- A record arrives. -/
def LogSt.arrive (l : LogSt) (x : Nat × LogRec) : LogSt :=
  let l1 := l.overflow x.1
  if l1.full x.2 then { l1 with dropped := l1.dropped + 1 } else l1.append x.1 x.2

/-- The records captured so far arrive in log order. -/
def LogSt.flush (l : LogSt) : LogSt := (sortBy logLe l.beatBuf).foldl LogSt.arrive { l with beatBuf := [] }

/-- Records that a flush would drop. -/
def LogSt.drops (l : LogSt) : Nat :=
  ((sortBy logLe l.beatBuf).foldl (fun (st : LogSt × Nat) x =>
    (st.1.arrive x, st.2 + (if (st.1.overflow x.1).full x.2 then 1 else 0))) ({ l with beatBuf := [] }, 0)).2

/-- While the complex does not run, records are captured up to the buffer's size (R576). -/
def LogSt.capture (l : LogSt) : LogSt := { l with beatBuf := l.beatBuf.take logBuffer }

/-- Entries written to MRAM: entry n takes ring position n mod 261,120, and what stood there is gone (R569). -/
def LogSt.toRing (l : LogSt) (xs : List LogEntry) : LogSt :=
  { l with mram := l.mram.filter (fun x => !xs.any (fun y => y.seq % logRing == x.seq % logRing)) ++ xs }

/-- Entries move to MRAM in log order; an overflow record follows once there is room (R571). -/
def LogSt.drain (l : LogSt) (n beat : Nat) : LogSt := ({ l.toRing (l.buf.take n) with buf := l.buf.drop n }).overflow beat

/-- Standby power fails: hold-up energy carries the entries of classes 1 to 4 to MRAM; the others of the buffer may be lost, and are
counted as dropped (R587). -/
def LogSt.holdUp (l : LogSt) : LogSt :=
  let keep := l.buf.filter (fun x => 1 ≤ x.entry.cls && x.entry.cls ≤ 4)
  { l.toRing keep with buf := [], beatBuf := [], dropped := l.dropped + (l.buf.length - keep.length) }

/-- The number of the mark that mailbox m wrote among the entries from a number on. -/
def LogSt.markSeq (l : LogSt) (m first : Nat) : Option Nat :=
  (l.buf.find? (fun x => first ≤ x.seq && x.entry.kind == 0xb && x.entry.detail == m)).map (·.seq)

/-- Each LOG_MARK in progress is answered with its entry's number; no rule gives the number of a mark that was dropped, so a free value
stands for it. -/
def Pkg.answerMarks (p : Pkg) (e : Env) (l : LogSt) : Pkg :=
  (p.mbox.filter (fun x => x.2.running && x.2.op == 0x41)).foldl (fun (q : Pkg) x =>
    match l.markSeq x.1 e.log.next with
    | some n => q.mbAnswer e x.1 x.2 resDone 0 (leBytes 8 n)
    | none =>
      let f := q.drawFree 1
      f.2.mbAnswer e x.1 x.2 resDone 0 (leBytes 8 (Config.freeWord f.1).toNat)) p

/-- The records of the beat enter the log, the drops are counted, and marks are answered. -/
def State.writeLog (s : State) : State :=
  if s.pkg.complexUp then
    let l := s.log.flush
    let t := s.lift (fun e p => (p.mgtCount Reg.MGT_CNT_LOG_DROP s.log.drops).answerMarks e l)
    { t with log := l }
  else { s with log := s.log.capture }

/-- LOG_DRAIN: n entries move from the buffer to MRAM (R571). -/
def execLogDrain (n : Nat) (s : State) : Host.Outcome State Fault Refusal :=
  .next (if s.pkg.complexUp then { s with log := s.log.drain n (s.clock.beat + 1) } else s)

end Sys2Proof.Machine
end

