-- ==== Sys2Proof/Machine/Power.lean ====
section
/-! DEFINITION. Die P and the package pins (spec 17_power_and_supply.md, R579 to R596; 19_package_signals_and_electrical.md, R625 to R632; R540,
R542): supply episodes, throttling and the cap, cold stops, cold start, warm reset and standby power. Voltages are in mV, temperatures in
0.1 °C, powers in W. -/

namespace Sys2Proof.Machine

/-! ### Supply episodes (R582 to R585) -/

/-- Levels of Table 17-3. -/
abbrev warnMv : Nat := 42000
abbrev recoverMv : Nat := 43000

/-- Change the fields of die P. -/
def Pkg.updPwr (p : Pkg) (f : Pwr → Pwr) : Pkg := { p with pwr := f p.pwr }

/-- Set the episode. -/
def Pkg.setEpisode (p : Pkg) (x : Option Episode) : Pkg := p.updPwr (fun w => { w with episode := x })

/-- Set a bit of `PWR_STATUS`. -/
def Pkg.setPwr (p : Pkg) (f : Field) (b : Bool) : Pkg := p.setFld Reg.PWR_STATUS f (if b then 1 else 0)

/-- A running descriptor has a request that the hold keeps back (R583, R585). -/
def Pkg.holdsBack (p : Pkg) (r : Run) : Bool :=
  p.fab.reqs.any (fun x => !x.sent && (x.user.ofQueue r.queue || (match x.user with | .coll q => q == r.queue | _ => false)))

/-- Mark the running descriptors that meet a test delayed, for a reason; one already marked keeps its first reason (R237). -/
def Pkg.delayWhere (p : Pkg) (e : Env) (reason : Nat) (hit : Run → Bool) : Pkg :=
  { p with dsp := { p.dsp with runs := p.dsp.runs.map (fun r =>
      if hit r && !r.statuses.any (fun x => x.2 == 1) then r.delayBy e.tag reason else r) } }

/-- Descriptors that an episode delays in the beat in progress (R585). -/
def Pkg.delaySupply (p : Pkg) (e : Env) : Pkg :=
  p.delayWhere e 3 (fun r =>
    (p.on Reg.PWR_STATUS Fld.PWR_STRETCHED && r.stretches) || (p.on Reg.PWR_STATUS Fld.PWR_FAB_HELD && p.holdsBack r))

/-- PWR_48V falls below 42.0 V: an episode begins, or the one in progress goes back to its hold (R583, R584). -/
def supplyWarning (mv : Nat) (e : Env) (p : Pkg) : Pkg :=
  if warnMv ≤ mv then p
  else match p.pwr.episode with
    | some x => (p.setEpisode (some ⟨x.since, min x.low mv, none, none, 0⟩)).setPwr Fld.PWR_FAB_HELD true
    | none =>
      let p1 := (p.event 3 31 0 1 0 (leBytes 4 mv)).setEpisode (some ⟨e.tagHall, mv, none, none, 0⟩)
      let p2 := ((p1.setPwr Fld.PWR_WARN_STICKY true).setPwr Fld.PWR_STRETCHED true).setPwr Fld.PWR_FAB_HELD true
      (((p2.pwrCount Reg.PWR_CNT_WARN 1).raiseIrq 3 31 130).disturb 2 31 0).delaySupply e

/-- PWR_48V crosses 43.0 V: above it the recovery timer runs, at or below it the timer starts again (R584). -/
def supplyRecovery (mv : Nat) (e : Env) (p : Pkg) : Pkg :=
  match p.pwr.episode with
  | none => p
  | some x =>
    let above := if recoverMv < mv then some (x.above.getD e.tagHall) else none
    p.setEpisode (some { x with low := min x.low mv, above := above })

/-- The supply has stayed above 43.0 V for 100 µs: injections are released (R584). -/
def recoveryTimer (e : Env) (p : Pkg) : Pkg :=
  match p.pwr.episode with
  | none => p
  | some x =>
    match x.above, x.released with
    | some t, none =>
      if t + 100000 ≤ e.tagHall then
        (((p.delaySupply e).setEpisode (some { x with released := some e.tagHall })).setPwr Fld.PWR_FAB_HELD false).settle e
      else p
    | _, _ => p

/-- The clocks step up by 1/16 every 2.5 µs after the release; at the eighth step the episode ends (R583, R584). -/
def clockStep (e : Env) (p : Pkg) : Pkg :=
  match p.pwr.episode with
  | none => p
  | some x =>
    match x.released with
    | none => p
    | some t =>
      if e.tagHall < t + 2500 * (x.steps + 1) then p
      else if x.steps + 1 < 8 then p.setEpisode (some { x with steps := x.steps + 1 })
      else
        let us := (e.tagHall - x.since) / 1000
        let p1 := ((p.delaySupply e).setEpisode none).setPwr Fld.PWR_STRETCHED false
        let p2 := (p1.setFld Reg.PWR_DIP Fld.PWR_DIP_MIN_MV (min x.low 0xffff)).setFld Reg.PWR_DIP Fld.PWR_DIP_US (min us 0xffff)
        p2.record 31 0 0x11 1 (leBytes 4 x.low ++ leBytes 4 us)

/-! ### Throttling and the cap (R581, R589 to R592) -/

/-- A unit's throttle level: array dies 0 to 7, host dies 16 to 19, Anvils 32 to 35. -/
def Pkg.level (p : Pkg) (u : Nat) : Nat := (assoc? p.pwr.levels u).getD 0

/-- The die whose junctions a unit's level follows. -/
def unitDie (u : Nat) : Nat := if u < 32 then u else u - 16

/-- Units that take part in throttling; host cores only when `PWR_HOST_THROTTLE` is 1 (R589). -/
def Pkg.throttleUnits (p : Pkg) : List Nat :=
  List.range 8 ++ (if p.on Reg.PWR_CFG Fld.PWR_HOST_THROTTLE then [16, 17, 18, 19] else []) ++ [32, 33, 34, 35]

/-- Levels as they come to stand: the units listed take theirs, the others 0; bits, interrupt 131 and delays follow (R591). `why` says what
raised each level, as `Pwr.why` holds it. -/
def Pkg.setLevels (p : Pkg) (e : Env) (ls why : List (Nat × Nat)) : Pkg :=
  let leaves : Bool := ls.any (fun x => x.2 != 0 && p.level x.1 == 0)
  let top := (ls.map (·.2)).foldl max 0
  let raised := ls.filter (fun x => x.2 != 0)
  let because := why.filter (fun x => raised.any (fun y => y.1 == x.1))
  let p1 := p.updPwr (fun w => { w with levels := raised, why := because })
  let p2 := (p1.setPwr Fld.PWR_THROTTLE_T (because.any (fun x => x.2.testBit 0))).setPwr Fld.PWR_THROTTLE_P (because.any (fun x => x.2.testBit 1))
  let p3 := p2.setFld Reg.PWR_STATUS Fld.PWR_LEVEL_MAX top
  let p4 := if leaves then ((p3.setPwr Fld.PWR_THROTTLE_STICKY true).raiseIrq 13 31 131).disturb 3 31 0 else p3
  p4.delayWhere e 4 (fun r => p.throttled r || p1.throttled r)

/-- Every 100 µs each level follows its die's hottest junction and the 1 ms average input power (R590, R592). -/
def throttleUpdate (temps : List (Nat × Int)) (power : Nat) (e : Env) (p : Pkg) : Pkg :=
  let cap := p.fld Reg.PWR_CAP Fld.PWR_CAP_W
  let start : Int := 10 * (p.fld Reg.PWR_CFG Fld.PWR_THR_START : Nat)
  let release : Int := 10 * (p.fld Reg.PWR_CFG Fld.PWR_THR_RELEASE : Nat)
  let temp (u : Nat) : Int := (assoc? temps (unitDie u)).getD 0
  let us := p.throttleUnits
  let cool := (us.filter (fun u => temp u < release && 100 * power ≤ 98 * cap)).map (fun u => (u, (assoc? p.pwr.cool u).getD e.tagHall))
  let next (u : Nat) : Nat :=
    if p.pwr.pinned.contains (unitDie u) ∨ 1050 ≤ temp u then 8
    else if start ≤ temp u ∨ cap < power then min 8 (p.level u + 1)
    else match assoc? cool u with
      | some t => if t + 1000000 ≤ e.tagHall then p.level u - 1 else p.level u
      | none => p.level u
  let ls := us.map (fun u => (u, next u))
  let why (u : Nat) : Nat :=
    (assoc? p.pwr.why u).getD 0 ||| (if p.level u < next u then (if start ≤ temp u then 1 else 0) + (if cap < power then 2 else 0) else 0)
  let p1 := ((p.updPwr (fun w => { w with cool := cool })).setFld Reg.PWR_MEAS Fld.PWR_PIN_W (min power 0xffff)).setLevels e ls
    (us.map (fun u => (u, why u)))
  if ls.all (fun x => x.2 == 8) && cap < power && !p.on Reg.PWR_STATUS Fld.PWR_CAP_UNMET then
    (p1.setPwr Fld.PWR_CAP_UNMET true).record 31 0 0x11 2 (leBytes 4 cap ++ leBytes 4 power)
  else p1

/-- A cap set by POWER_CAP takes effect at its beat (R592). -/
def capEffect (e : Env) (p : Pkg) : Pkg :=
  match p.pwr.capNext with
  | some (b, w) => if b ≤ e.tag then (p.updPwr (fun x => { x with capNext := none })).setFld Reg.PWR_CAP Fld.PWR_CAP_W w else p
  | none => p

/-- The rail of an IVR phase and the phase's place on it, phases numbered in the order of Table 17-2; rails are numbered by their dies, and
those of the stacks from 30 (R580). -/
def railOf (ph : Nat) : Nat × Nat :=
  if ph < 224 then (ph / 28, ph % 28)
  else if ph < 256 then (8 + (ph - 224) / 4, (ph - 224) % 4)
  else if ph < 320 then (16 + (ph - 256) / 16, (ph - 256) % 16)
  else if ph < 360 then (20 + (ph - 320) / 4, (ph - 320) % 4)
  else (30 + (ph - 360), 0)

/-- Die P sheds a phase; the second of a rail holds the level of the rail's die at 8 (R581). -/
def Pkg.shedPhase (p : Pkg) (e : Env) (ph : Nat) : Pkg :=
  if 384 ≤ ph ∨ p.pwr.shed.contains ph then p
  else
    let r := railOf ph
    let second : Bool := p.pwr.shed.any (fun x => (railOf x).1 == r.1)
    let p1 := ((p.updPwr (fun w => { w with shed := w.shed ++ [ph] })).pwrCount Reg.PWR_CNT_SHED 1).record 31 0 0x11 4
      (leBytes 1 r.1 ++ leBytes 2 r.2)
    if second && r.1 < 30 && !p.pwr.pinned.contains r.1 then
      let p2 := p1.updPwr (fun w => { w with pinned := w.pinned ++ [r.1] })
      p2.setLevels e (p2.throttleUnits.map (fun u => (u, if unitDie u = r.1 then 8 else p2.level u))) p2.pwr.why
    else p1

/-- Every 10 µs die P checks the phase currents (R581). -/
def phaseCheck (failing : List Nat) (e : Env) (p : Pkg) : Pkg := failing.foldl (fun (q : Pkg) ph => q.shedPhase e ph) p

/-! ### What a stop and a reset discard (R463, R586, R632) -/

/-- The work in flight ends: no record, flag or signal of it is written. Communicators, triggers and bindings are gone, the host cores are as
at reset, and the units' retirements and the stacks' training stand. -/
def Pkg.dropWork (p : Pkg) : Pkg :=
  { p with
    irqs := [], dsp := ⟨[], [], [], []⟩, coatSlots := [], coatNow := [], masks := [], held := [], memOut := [], trigs := [], binds := [],
    fires := [], pairHeld := [], pairIn := [], cores := [], hostLines := [], anvils := []
    memDone := []
    stackCtl := p.stackCtl.map (fun x => (x.1, { x.2 with waiting := [] }))
    fab := ⟨[], [], [], [], [], [], [], [], [], [], p.fab.delays, [], [], []⟩
    net := { p.net with used := [], held := [], flight := [], delivered := [] }
    col := ⟨[], [], []⟩
    ckp := ⟨[], [], p.ckp.nextId, [], [], []⟩
    time := { p.time with sent := [] }
    ras := { p.ras with owed := [], ready := [], tests := [], marching := [] } }

/-- The undercoat is lost with the package's work: a COMMIT still open is answered, an armed commit is not applied (R566). -/
def Pkg.loseUndercoat (p : Pkg) (e : Env) : Pkg :=
  let p1 := match p.commitOpen with
    | some kc => p.commitFails e kc.1 kc.2
    | none => if p.mgt.commit.isSome then p.mgtCount Reg.MGT_CNT_CANCEL 1 else p
  if p1.ucState = ucEmpty then p1 else p1.ucClear

/-- A cold stop, by an event of class 1 or 2 (R586, R594). -/
def Pkg.coldStop (p : Pkg) (e : Env) (cls : Nat) (data : List Byte) (trip : Bool) : Pkg :=
  let p1 := ((p.event cls 31 0 1 0 data).loseUndercoat e).dropWork
  let p2 := p1.setReg Reg.PWR_STATUS (p1.reg Reg.PWR_STATUS &&& ~~~(fieldMask 30 27 ||| fieldMask 19 16))
  let p3 := (p2.setPwr Fld.PWR_COLD_STOP_LAST true).setPwr Fld.PWR_TRIP_LAST (trip || p2.on Reg.PWR_STATUS Fld.PWR_TRIP_LAST)
  let p4 := p3.setFld Reg.PKG_BOOT Fld.PKG_BOOT_STAGE 6
  { (p4.updPwr (fun w => { w with levels := [], why := [], cool := [], episode := none, capNext := none, good := false, trip := w.trip || trip })) with
    stopBeat := some e.tag }

/-- A supply has reached its reset level: PWR_48V, STBY_3V3 or AUX_1V8 (Table 17-3). -/
def resetLevel (supply mv : Nat) : Bool :=
  match supply with
  | 0 => mv < 38000 || 60000 < mv
  | 1 => mv < 3000
  | _ => mv < 1600

/-- A reset level is sampled (R586). -/
def coldStopLevel (supply mv : Nat) (e : Env) (p : Pkg) : Pkg := if resetLevel supply mv then p.coldStop e 2 (leBytes 4 mv) false else p

/-- A junction comparator reads 115 °C or more (R594). -/
def thermalTrip (die temp : Nat) (e : Env) (p : Pkg) : Pkg :=
  if temp < 1150 then p
  else (p.updPwr (fun w => { w with hottest := max w.hottest temp })).coldStop e 1 (leBytes 4 die ++ leBytes 4 temp) true

/-- Registers go back to their reset values where a mask says so. -/
def Pkg.resetRegs (p : Pkg) (mask : RegHit → W64) : Pkg :=
  { p with regs := p.regs.filterMap (fun kw =>
      match findReg kw.1 with
      | none => some kw
      | some h =>
        let v := (kw.2 &&& ~~~mask h) ||| (regDefault kw.1 &&& mask h)
        if v = regDefault kw.1 then none else some (kw.1, v)) }

/-- The package epoch rises at every package reset (R402, Table 10-11). -/
def Pkg.nextEpoch (p : Pkg) : Pkg := p.setNat Reg.FAB_EPOCH ((p.regNat Reg.FAB_EPOCH + 1) % 2 ^ 32)

/-! ### Warm reset (R632) -/

/-- What a warm reset gives its reset value: RW, RW1C and WO fields and counters everywhere, and what the stopped engines of the working dies
show. The marks of the last stop have no reset value of their own. -/
def warmMask (h : RegHit) : W64 :=
  let working : Bool := h.key / blockBytes < 30
  let m := h.spec.mask (fun a => a == .rw || a == .rw1c || a == .wo || a == .woLk || a == .roCount || a == .lkCount || (working && a == .ro))
  if h.spec.name = "PWR_STATUS" then m &&& ~~~fieldMask 24 23 else m

/-- A warm reset, through to stage 5 again. -/
def Pkg.warmReset (p : Pkg) (e : Env) : Pkg := (((p.event 5 31 0 1 0 []).ucCancel e).dropWork.resetRegs warmMask).nextEpoch

/-- WARM_N is low: at stage 5, after 1 µs, a warm reset; at any other stage ignored and logged. -/
def warmN (heldUs : Nat) (e : Env) (p : Pkg) : Pkg :=
  if heldUs = 0 ∨ !p.mgt.power then p
  else if p.working then p.warmReset e
  else
    let stage := p.fld Reg.PKG_BOOT Fld.PKG_BOOT_STAGE
    let p1 := if p.stopBeat = some e.tag then { p with raised := p.raised ++ [⟨true, 31, 0, 5, 1, 0, padTo 28 []⟩] } else p
    p1.record 31 0 0x11 3 (leBytes 4 stage)

/-! ### Cold start (R588, R627 to R630) -/

/-- What a cold start keeps of a register: the records of retirements, the epoch and down time restored from MRAM, the complex's own state, the
marks of the last stop, straps and boot, readings, and enrolments. -/
def coldKept (h : RegHit) : W64 :=
  let n := h.spec.name
  if ["MGT_MB_CMD", "MGT_MB_RSP", "MGT_MB_STATUS", "SEC_FW_FLOOR"].contains n then h.spec.allMask
  else if ["ARR_STATUS", "ARR_COLMAP", "COAT_LANEMAP", "STH_STATUS", "ANV_STATUS", "FAB_EPOCH", "RAS_STATUS", "RAS_LOST", "RAS_CNT_DOWN_NS",
      "MGT_STATUS", "MGT_UC_GEN", "MGT_UC_LAST_BEAT", "MGT_UC_LAST_GEN", "PWR_MEAS", "PWR_TJ", "SEC_RKEY", "SEC_MEAS", "PKG_STRAPS",
      "PKG_BOOT"].contains n then h.spec.mask (fun a => a == .roKept)
  else if n = "COAT_STATUS" ∨ n = "MEM_STK_STATUS" then h.spec.mask (fun a => a == .roKept)
  else if n = "PWR_STATUS" then fieldMask 24 23
  else 0

/-- The regions' keys are destroyed, and every enrolled region gets new ones (R613). -/
def Pkg.redrawKeys (p : Pkg) : Pkg :=
  (rangeFilter 64 (fun n => (p.regNat Reg.SEC_RKEY).testBit n)).foldl (fun (q : Pkg) n => q.drawKeys n)
    { p with mgt := { p.mgt with regionKeys := [], fillKeys := [], lineKeys := [] } }

/-- The package starts cold: the next-boot slot runs, memory's contents are gone, and every unit starts. Stacks that fail training three
times take their array dies out of service (R586, R628 to R630); boot attempts that misread an image count as failed (R629). -/
def Pkg.coldStart (p : Pkg) (e : Env) (failed : List Nat) (misreads : Nat) : Pkg :=
  let next := p.fld Reg.MGT_STATUS Fld.MGT_SLOT_NEXT
  let p1 := if next = p.slotRun && misreads < 3 then p else (p.bootSlot next misreads).answerRestarted e
  let p2 := (p1.dropWork.resetRegs (fun h => ~~~coldKept h)).nextEpoch
  let p3 := p2.setFld Reg.FAB_LOC Fld.FAB_LOC_VALUE (p2.fld Reg.PKG_STRAPS Fld.PKG_STRAP_POS)
  let p4 : Pkg := { p3 with
    mem := [], bad := [], stackCtl := [], staged := [], stopBeat := none
    fwVersion := p3.mgt.version
    fab := { p3.fab with delays := [] }
    time := { p3.time with begun := false, forward := false, heard := e.tagHall, holdSince := 0 }
    mgt := { p3.mgt with changes := [], commit := none, applied := [] }
    pwr := { p3.pwr with levels := [], why := [], cool := [], episode := none, capNext := none, shed := [], pinned := [], good := true, porst := false } }
  let p5 := p4.settleMaps.redrawKeys.measureBoot
  let lost := failed.filter (fun s => s < 24)
  let p6 := ((lost.map (fun s => s / 3)).eraseDups).foldl (fun (q : Pkg) d => q.outOfService e d 0) p5
  let f := p6.drawFree 1
  let fail := if !lost.isEmpty then 1 else if p6.fld Reg.MGT_STATUS Fld.MGT_STATE = 3 then 2 else 0
  ((f.2.setFld Reg.PKG_BOOT Fld.PKG_BOOT_STAGE 5).setFld Reg.PKG_BOOT Fld.PKG_BOOT_FAIL fail).setFld Reg.PKG_BOOT Fld.PKG_BOOT_MS
    ((Config.freeWord f.1).toNat % 2 ^ 24)

/-- PORST_N is released: the straps are sampled; unless the test strap is set, or neither slot boots (R629), the package starts (R588, R627, R628). -/
def porstRelease (straps : Nat) (failed : List Nat) (misreads : Nat) (e : Env) (p : Pkg) : Pkg :=
  if !(p.pwr.porst && p.mgt.power && p.complexUp) then p
  else
    let p1 := p.setNat Reg.PKG_STRAPS straps
    if straps.testBit 7 then
      ((p1.updPwr (fun w => { w with porst := false })).setFld Reg.PKG_BOOT Fld.PKG_BOOT_STAGE 0).setFld Reg.PKG_BOOT Fld.PKG_BOOT_FAIL 3
    else if 6 ≤ misreads then p1
    else p1.coldStart e failed misreads

/-- PORST_N is asserted: from a working package a supply reset level; the package then waits for the release (R594, R631). -/
def porstAssert (e : Env) (p : Pkg) : Pkg :=
  let p1 := p.atWork ⟨2, 31, 0⟩ (fun e q => q.coldStop e 2 [] false) e
  let p2 := if p1.mgt.power then p1.setFld Reg.PKG_BOOT Fld.PKG_BOOT_STAGE 1 else p1
  p2.updPwr (fun w => { w with porst := true, trip := w.trip && 970 ≤ w.hottest })

/-! ### Standby power (R540, R542, R587) -/

/-- What the loss of standby power keeps of the complex's registers: what a cold start keeps, but for its working state. -/
def powerKept (h : RegHit) : W64 :=
  if ["MGT_MB_CMD", "MGT_MB_RSP", "MGT_MB_STATUS", "MGT_UC_GEN", "MGT_UC_LAST_BEAT", "MGT_UC_LAST_GEN", "PWR_MEAS", "PWR_TJ", "SEC_MEAS",
      "PKG_STRAPS", "PKG_BOOT"].contains h.spec.name then 0
  else coldKept h

/-- Standby power is gone: the complex stops and its SRAM is lost; MRAM, flash and enrolments stay. -/
def Pkg.powerDown (p : Pkg) : Pkg :=
  let p1 := (p.dropWork.resetRegs (fun h => ~~~powerKept h)).setFld Reg.MGT_STATUS Fld.MGT_STATE 0
  { p1 with
    staged := [], mbox := [], ucSince := 0
    mgt := { p1.mgt with proposals := [], expired := [], changes := [], commit := none, applied := [], sensors := [], vinLow := 0, oob := [],
                         tries := 0, power := false }
    time := ⟨0, 0, 0, false, false, []⟩
    pwr := { p1.pwr with levels := [], why := [], cool := [], episode := none, capNext := none, good := false, trip := false } }

/-- Registers that show retirements. -/
def retirementMask (h : RegHit) : W64 :=
  if ["ARR_STATUS", "ARR_COLMAP", "COAT_LANEMAP", "COAT_STATUS", "STH_STATUS", "ANV_STATUS", "MEM_STK_STATUS"].contains h.spec.name then
    h.spec.mask (fun a => a == .roKept)
  else 0

/-- Both copies of the retirement records failed: every unit that has a spare was march-tested, and the records are rebuilt from the units that
failed (R542). -/
def Pkg.rebuildRecords (p : Pkg) (failing : List (Nat × Nat)) : Pkg :=
  let p1 := p.resetRegs retirementMask
  let p2 : Pkg := { p1 with ras := { p1.ras with retired := [], waiting := [], exhausted := [] } }
  let p3 := (failing.filter (fun u => u.1 < 32 && poolSize (unitPool u.2).1 > 0)).foldl (fun (q : Pkg) u =>
    let q1 := if unitKind u.2 = 13 then q else { q with ras := { q.ras with retired := q.ras.retired ++ [u] } }
    (q1.toSpare u.1 u.2).noteResult ⟨u.1, u.2, true, 1, 0⟩) p2
  let p4 := p3.settleMaps
  p4.fwRecord 6 p4.slotRun

/-- Standby power is good: the complex boots its next-boot slot and restores its persistent records (R540, R542, R577, R611, R629). -/
def standbyPowerGood (rebuilt : Option (List (Nat × Nat))) (misreads : Nat) (p : Pkg) : Pkg :=
  let p1 : Pkg := { p with mgt := { p.mgt with power := true, since := 0, boot := p.fld Reg.MGT_STATUS Fld.MGT_SLOT_NEXT } }
  let p2 := p1.bootSlot p1.mgt.boot misreads
  if !p2.complexUp then p2
  else
    let p3 := p2.measureBoot.setFld Reg.PKG_BOOT Fld.PKG_BOOT_STAGE 1
    match rebuilt with
    | some us => p3.rebuildRecords us
    | none => p3

/-! ### The commands -/

/-- SUPPLY_WARNING (R583). -/
def execSupplyWarning (mv : Nat) (s : State) : Host.Outcome State Fault Refusal := s.work ⟨3, 31, 0⟩ (supplyWarning mv)

/-- SUPPLY_RECOVERY (R584). -/
def execSupplyRecovery (mv : Nat) (s : State) : Host.Outcome State Fault Refusal := s.work .none (supplyRecovery mv)

/-- RECOVERY_TIMER (R584). -/
def execRecoveryTimer (s : State) : Host.Outcome State Fault Refusal := s.work .none recoveryTimer

/-- CLOCK_STEP (R584). -/
def execClockStep (s : State) : Host.Outcome State Fault Refusal := s.work .none clockStep

/-- COLD_STOP (R586); when it is STBY_3V3 that fails, standby power is lost too (R587). -/
def execColdStop (supply : Fin 3) (mv : Nat) (s : State) : Host.Outcome State Fault Refusal :=
  let t := s.lift (Pkg.atWork ⟨2, 31, 0⟩ (coldStopLevel supply.val mv))
  .next (if supply.val = 1 ∧ resetLevel 1 mv ∧ t.pkg.mgt.power then
    let u := t.writeLog
    { u with log := u.log.holdUp, pkg := u.pkg.powerDown }
  else t)

/-- PHASE_CHECK (R581). -/
def execPhaseCheck (failing : List Nat) (s : State) : Host.Outcome State Fault Refusal := s.work .none (phaseCheck failing)

/-- THROTTLE_UPDATE (R590). -/
def execThrottleUpdate (temps : List (Nat × Int)) (avgPowerW : Nat) (s : State) : Host.Outcome State Fault Refusal :=
  s.work .none (throttleUpdate temps avgPowerW)

/-- CAP_EFFECT (R592). -/
def execCapEffect (s : State) : Host.Outcome State Fault Refusal := s.work .none capEffect

/-- THERMAL_TRIP (R594). -/
def execThermalTrip (die : Fin 32) (temp : Nat) (s : State) : Host.Outcome State Fault Refusal := s.work ⟨1, 31, 0⟩ (thermalTrip die.val temp)

/-- PORST_N_RELEASE (R628). -/
def execPorstNRelease (straps : Fin 256) (boot : BootFails) (s : State) : Host.Outcome State Fault Refusal :=
  s.any (porstRelease straps.val boot.failed boot.misreads)

/-- PORST_N_ASSERT (R631). -/
def execPorstNAssert (s : State) : Host.Outcome State Fault Refusal := s.any porstAssert

/-- WARM_N (R632). -/
def execWarmN (heldUs : Nat) (s : State) : Host.Outcome State Fault Refusal := s.any (warmN heldUs)

/-- REFCLK_LOSS (R625). -/
def execRefclkLoss (s : State) : Host.Outcome State Fault Refusal := s.work ⟨2, 31, 0⟩ (fun e p => p.coldStop e 2 [] false)

/-- STANDBY_POWER_GOOD (R540); hall time counts from here. -/
def execStandbyPowerGood (power : PowerUp) (s : State) : Host.Outcome State Fault Refusal :=
  .next (if s.pkg.mgt.power then s
    else ({ s with clock := ⟨0⟩ } : State).lift (fun _ p => standbyPowerGood power.rebuilt power.misreads p))

end Sys2Proof.Machine
end

