-- ==== Sys2Proof/Machine/Beat.lean ====
section
/-! DEFINITION. The beat (spec 13_time_and_determinism.md, R453, R456, R461, R462): what is evaluated once every event of a beat has taken
effect, the delivery of interrupt messages, the log of the beat, and the count (also R37, R208, R234, R235, R358, R420, R450, R480, R507). -/

namespace Sys2Proof.Machine

/-! ### Trigger fires (R420) -/

/-- An entry's fields after a fire. -/
def teAfter (b : List Byte) : List Byte :=
  b.take 4 ++ leBytes 4 (teRepeat b - 1) ++ leBytes 8 ((teThresh b + teStep b) % 2 ^ 48) ++ (b.drop 0x10).take 8 ++
    leBytes 8 (ofSigned 64 ((teSrc b : Int) + teSrcStep b)) ++ leBytes 8 (ofSigned 64 ((teDst b : Int) + teDstStep b)) ++ b.drop 0x28

/-- An armed entry whose counter is at least its threshold. -/
def Pkg.entryDue (p : Pkg) (t : TrigEntry) : Bool := teThresh t.bytes ≤ p.regNat (Reg.COL_TCNT t.engine (teCounter t.bytes))

/-- Engine order, then entry order. -/
def trigLe (a b : TrigEntry) : Bool := a.engine < b.engine || (a.engine == b.engine && a.idx ≤ b.idx)

/-- Every entry that is due fires once: its fields move on, at REPEAT 0 it disarms, and its requests issue. -/
def Pkg.fireEntries (p : Pkg) (e : Env) : Pkg :=
  let due := sortBy trigLe (p.trigs.filter p.entryDue)
  if due.isEmpty then p
  else
    let left := p.trigs.filterMap (fun t =>
      if due.contains t then (if teRepeat t.bytes ≤ 1 then none else some { t with bytes := teAfter t.bytes }) else some t)
    let fresh := due.map (fun t => (⟨t.engine, t.idx, e.tag, t.bytes, 0, false⟩ : Fire))
    ({ p with trigs := left, fires := p.fires ++ fresh }).settle e

/-! ### Waits (R207, R234, R235) -/

/-- A context's wait-cycle count and the time of its blocking. -/
def Pkg.ctxBeat (p : Pkg) (e : Env) (c : Nat) : Pkg :=
  let cs := p.ctxSt c
  let act := (p.ctxQueues c).filter p.activeQueue
  let stuck : Bool := !act.isEmpty && act.all p.blocked
  let count := if cs.restart ∨ !p.waitCycle c then 0 else min 6250 (cs.cycleCount + 1)
  let cs1 : CtxSt := { cs with
    cycleCount := count, restart := false, blockedSince := if stuck then some (cs.blockedSince.getD e.tagHall) else none }
  if cs1 = cs then p else p.setCtxSt c cs1

/-- The beat at which a queue's head became ready. -/
def Pkg.readyBeat (p : Pkg) (e : Env) (q : Nat) : Pkg :=
  let s := p.queueSt q
  let r := if p.ready q then some (s.readySince.getD e.tag) else none
  if r = s.readySince then p else p.setQueueSt q { s with readySince := r }

/-! ### Counters of time (Tables 03-11, 07-16, 14-7, 17-6) -/

/-- Sixteenths of nominal at which a unit's clock runs (R584, R589). -/
def Pkg.rate (p : Pkg) (u : Nat) : Nat :=
  let stretch := match p.pwr.episode with
    | none => 16
    | some x => if x.released.isSome then 8 + x.steps else 8
  min (16 - p.level u) stretch

/-- Clocks of beat b at n/5 clocks a beat. -/
def clocksOf (n b : Nat) : Nat := n * b / 5 - n * (b - 1) / 5

/-- Array clocks of a beat: 2.0 GHz, and 1.8 GHz in S grade (Table 00-1). -/
def Pkg.arrayClocks (p : Pkg) (d b : Nat) : Nat := clocksOf ((if p.grade = 1 then 9 else 10) * p.rate d) b

/-- Anvil clocks of a beat: 1.6 GHz (Table 00-1). -/
def Pkg.anvilClocks (p : Pkg) (h b : Nat) : Nat := clocksOf (8 * p.rate (32 + h)) b

/-- A configured context cannot start descriptors: an array die of its partition is out of service (R486, R506). -/
def Pkg.isDown (p : Pkg) : Bool := (List.range 8).any (fun c => p.partValid c && (p.partDies c).any p.dieLost)

/-- The counters that count time. -/
def Pkg.countTime (p : Pkg) (e : Env) : Pkg :=
  let idle (d : Nat) : Bool := !p.dsp.runs.any (fun r => r.engine == 0 && p.takesPart r d)
  let p1 := (rangeFilter 8 idle).foldl (fun (q : Pkg) d => q.arrCount d (Reg.ARR_CNT_IDLE d) (p.arrayClocks d e.tag)) p
  let p2 := (rangeFilter 4 (fun h => (assoc? p.anvils h).isSome)).foldl (fun (q : Pkg) h => q.anvCount h (Reg.ANV_CNT_BUSY h) (p.anvilClocks h e.tag)) p1
  let p3 := if p.isDown then p2.addReg Reg.RAS_CNT_DOWN_NS 16 else p2
  let p4 := if p.pwr.episode.isSome then p3.pwrCount Reg.PWR_CNT_STRETCH_NS 16 else p3
  if p.pwr.levels.isEmpty then p4 else p4.pwrCount Reg.PWR_CNT_THROTTLE_NS 16

/-! ### The beat of a working package -/

/-- Self-tests owed from the beat may start at the next (R480). -/
def Pkg.testsReady (p : Pkg) : Pkg := { p with ras := { p.ras with ready := p.ras.ready ++ p.ras.owed, owed := [] } }

/-- Ring-attention routines go on (R450). -/
def Pkg.ringSteps (p : Pkg) (e : Env) : Pkg :=
  ((p.dsp.runs.filter (fun r => r.kind == 6)).map (·.queue)).foldl (fun (q : Pkg) x => q.ringAttnStep e x) p

/-- What is evaluated for a beat after all its events. -/
def Pkg.beatWork (p : Pkg) (e : Env) : Pkg :=
  let p1 := (((((p.settleMemory e).fireEntries e).collBeat e).bcastBeat e).ringSteps e).testsReady
  let p2 := (List.range 8).foldl (fun (q : Pkg) c => q.ctxBeat e c) p1
  let p3 := (List.range 64).foldl (fun (q : Pkg) x => q.readyBeat e x) p2
  (((if p3.on Reg.PWR_STATUS Fld.PWR_FAB_HELD then p3.delaySupply e else p3).countTime e).drainLines e)

/-! ### Interrupt messages (R357, R358) -/

/-- Message order: precedence of the event, die, source. -/
def irqLe (a b : IrqMsg) : Bool :=
  if a.cls ≠ b.cls then a.cls < b.cls else if a.die ≠ b.die then a.die < b.die else a.src ≤ b.src

/-- Put an identity into a file's pending set; one that is pending merges. -/
def pend (ids : List Nat) (i : Nat) : List Nat := if ids.contains i then ids else sortBy (fun a b => decide (a ≤ b)) (ids ++ [i])

/-- A message by its route into a core's IMSIC; a disabled route delivers nothing. -/
def Pkg.deliverIrq (p : Pkg) (m : IrqMsg) : Pkg :=
  let k := Reg.PKG_IRQ_ROUTE m.src
  let g := p.fld k Fld.PKG_IRQ_CORE
  let i := p.fld k Fld.PKG_IRQ_ID
  if !p.on k Fld.PKG_IRQ_EN ∨ 144 ≤ g ∨ i = 0 then p
  else
    let c := p.core g
    p.setCore g (if p.on k Fld.PKG_IRQ_FILE then { c with imsicS := pend c.imsicS i } else { c with imsicM := pend c.imsicM i })

/-- Deliver the beat's messages, and forget what was shown for the beat. -/
def Pkg.beatEnd (p : Pkg) : Pkg :=
  let p1 := if p.working then (sortBy irqLe p.irqs).foldl Pkg.deliverIrq p else p
  { p1 with
    irqs := [], memOut := [], cycle := [], flagCycle := [], stageCycle := []
    fab := { p1.fab with sent := [] }
    net := { p1.net with delivered := [] }
    time := { p1.time with sent := [] }
    ckp := { p1.ckp with sent := [] }
    mgt := { p1.mgt with oob := [] } }

/-- The hall time of the next beat (R453, R456). -/
def Clock.next (c : Clock) : Clock := ⟨16 * (c.hall / 16 + 1) % 2 ^ 64⟩

/-- BEAT (R461): waits, readiness and thresholds are evaluated for the beat, its records enter the log, its messages are delivered, and the
count moves on. Island T has no power before standby power is good. -/
def execBeat (s : State) : Host.Outcome State Fault Refusal :=
  .next (if !s.pkg.mgt.power then s
    else
      let t := (s.lift (fun e p => if p.working then p.beatWork e else p)).writeLog
      { t with clock := t.clock.next, pkg := t.pkg.beatEnd })

end Sys2Proof.Machine
end

