-- ==== Sys2Proof/Machine/Dispatch.lean ====
section
/-! DEFINITION. One arm for each command, each a direct call of its meaning. -/

namespace Sys2Proof.Machine

def exec (i : Instr) (s : State) : Host.Outcome State Fault Refusal :=
  match i with
  | .registerWrite src off width value => Sys2Proof.Machine.execRegisterWrite src off width value s
  | .packageNetworkPacket router pkt parity => Sys2Proof.Machine.execPackageNetworkPacket router pkt parity s
  | .creditReturn at_ dir => Sys2Proof.Machine.execCreditReturn at_ dir s
  | .linkLaneRetirement die lane => Sys2Proof.Machine.execLinkLaneRetirement die lane s
  | .tailDoorbell src q value => Sys2Proof.Machine.execTailDoorbell src q value s
  | .headDoorbell src q value => Sys2Proof.Machine.execHeadDoorbell src q value s
  | .qheadWrite src q value => Sys2Proof.Machine.execQheadWrite src q value s
  | .queueEnable src q => Sys2Proof.Machine.execQueueEnable src q s
  | .queueDisable src q => Sys2Proof.Machine.execQueueDisable src q s
  | .queueFlush src q => Sys2Proof.Machine.execQueueFlush src q s
  | .queueResume src q => Sys2Proof.Machine.execQueueResume src q s
  | .descriptorFetch q => Sys2Proof.Machine.execDescriptorFetch q s
  | .arrayDescriptor q => Sys2Proof.Machine.execArrayDescriptor q s
  | .coatDescriptor q => Sys2Proof.Machine.execCoatDescriptor q s
  | .cg q => Sys2Proof.Machine.execCg q s
  | .bicgstab q => Sys2Proof.Machine.execBicgstab q s
  | .gmres q => Sys2Proof.Machine.execGmres q s
  | .minres q => Sys2Proof.Machine.execMinres q s
  | .lp q => Sys2Proof.Machine.execLp q s
  | .qp q => Sys2Proof.Machine.execQp q s
  | .copy q => Sys2Proof.Machine.execCopy q s
  | .atomic q => Sys2Proof.Machine.execAtomic q s
  | .allreduce q => Sys2Proof.Machine.execAllreduce q s
  | .reduceScatter q => Sys2Proof.Machine.execReduceScatter q s
  | .allgather q => Sys2Proof.Machine.execAllgather q s
  | .broadcast q => Sys2Proof.Machine.execBroadcast q s
  | .alltoall q => Sys2Proof.Machine.execAlltoall q s
  | .barrier q => Sys2Proof.Machine.execBarrier q s
  | .ringPass q => Sys2Proof.Machine.execRingPass q s
  | .setup q => Sys2Proof.Machine.execSetup q s
  | .release q => Sys2Proof.Machine.execRelease q s
  | .trigArm q => Sys2Proof.Machine.execTrigArm q s
  | .save q => Sys2Proof.Machine.execSave q s
  | .restore q => Sys2Proof.Machine.execRestore q s
  | .connect q => Sys2Proof.Machine.execConnect q s
  | .disconnect q => Sys2Proof.Machine.execDisconnect q s
  | .bcastSend q => Sys2Proof.Machine.execBcastSend q s
  | .bcastRecv q => Sys2Proof.Machine.execBcastRecv q s
  | .coatLoad q => Sys2Proof.Machine.execCoatLoad q s
  | .gemmGrouped q => Sys2Proof.Machine.execGemmGrouped q s
  | .gemmEpilogue q => Sys2Proof.Machine.execGemmEpilogue q s
  | .rmsNorm q => Sys2Proof.Machine.execRmsNorm q s
  | .layerNorm q => Sys2Proof.Machine.execLayerNorm q s
  | .softmaxQ q => Sys2Proof.Machine.execSoftmaxQ q s
  | .topK q => Sys2Proof.Machine.execTopK q s
  | .gather q => Sys2Proof.Machine.execGather q s
  | .scatterAdd q => Sys2Proof.Machine.execScatterAdd q s
  | .ringAttn q => Sys2Proof.Machine.execRingAttn q s
  | .haloPack q => Sys2Proof.Machine.execHaloPack q s
  | .haloUnpack q => Sys2Proof.Machine.execHaloUnpack q s
  | .enqList q => Sys2Proof.Machine.execEnqList q s
  | .enqSelect q => Sys2Proof.Machine.execEnqSelect q s
  | .enqRepeat q => Sys2Proof.Machine.execEnqRepeat q s
  | .descriptorComplete q copyError => Sys2Proof.Machine.execDescriptorComplete q copyError s
  | .flagWrite src ctx n width value copyError => Sys2Proof.Machine.execFlagWrite src ctx n width value copyError s
  | .flagAdd src ctx n width value => Sys2Proof.Machine.execFlagAdd src ctx n width value s
  | .flagClr src ctx => Sys2Proof.Machine.execFlagClr src ctx s
  | .deadlineExpiry q => Sys2Proof.Machine.execDeadlineExpiry q s
  | .waitCycleAbort ctx => Sys2Proof.Machine.execWaitCycleAbort ctx s
  | .stallNotice ctx => Sys2Proof.Machine.execStallNotice ctx s
  | .tileCommit die tile fail => Sys2Proof.Machine.execTileCommit die tile fail s
  | .ksplitRecord die tile part fail => Sys2Proof.Machine.execKsplitRecord die tile part fail s
  | .shadowPassEnd die tile fail => Sys2Proof.Machine.execShadowPassEnd die tile fail s
  | .columnRetirement die => Sys2Proof.Machine.execColumnRetirement die s
  | .arrCntClr src die => Sys2Proof.Machine.execArrCntClr src die s
  | .arrQcntClr src die => Sys2Proof.Machine.execArrQcntClr src die s
  | .arrQhistClr src die mask => Sys2Proof.Machine.execArrQhistClr src die mask s
  | .coatTileStart die tile => Sys2Proof.Machine.execCoatTileStart die tile s
  | .coatTileCommit die tile fail => Sys2Proof.Machine.execCoatTileCommit die tile fail s
  | .laneRetirement die => Sys2Proof.Machine.execLaneRetirement die s
  | .coatCntClr src die => Sys2Proof.Machine.execCoatCntClr src die s
  | .setupPhaseCommit h fail => Sys2Proof.Machine.execSetupPhaseCommit h fail s
  | .iterationCommit h fail => Sys2Proof.Machine.execIterationCommit h fail s
  | .anvilDeadlineExpiry h => Sys2Proof.Machine.execAnvilDeadlineExpiry h s
  | .solveReturnEnd ret => Sys2Proof.Machine.execSolveReturnEnd ret s
  | .anvilLaneRetirement h => Sys2Proof.Machine.execAnvilLaneRetirement h s
  | .anvCntClr src h => Sys2Proof.Machine.execAnvCntClr src h s
  | .memoryRequest req => Sys2Proof.Machine.execMemoryRequest req s
  | .stripeUpdate stack badBytes => Sys2Proof.Machine.execStripeUpdate stack badBytes s
  | .regionFillEnd n => Sys2Proof.Machine.execRegionFillEnd n s
  | .bandwidthWindow stack => Sys2Proof.Machine.execBandwidthWindow stack s
  | .quotaBudgetExpiry stack => Sys2Proof.Machine.execQuotaBudgetExpiry stack s
  | .retrainingDue stack pc => Sys2Proof.Machine.execRetrainingDue stack pc s
  | .stackTemperatureRead stack temp => Sys2Proof.Machine.execStackTemperatureRead stack temp s
  | .issuedOperationsDrained stack => Sys2Proof.Machine.execIssuedOperationsDrained stack s
  | .retrainingEnd stack => Sys2Proof.Machine.execRetrainingEnd stack s
  | .writeBehindDrain stack => Sys2Proof.Machine.execWriteBehindDrain stack s
  | .scrub dev line badBytes => Sys2Proof.Machine.execScrub dev line badBytes s
  | .ecsStatusRead stack status => Sys2Proof.Machine.execEcsStatusRead stack status s
  | .perBankRefresh stack pc => Sys2Proof.Machine.execPerBankRefresh stack pc s
  | .memCntClr src stack => Sys2Proof.Machine.execMemCntClr src stack s
  | .hostMemoryAccess core acc => Sys2Proof.Machine.execHostMemoryAccess core acc s
  | .qvxAdd core f => Sys2Proof.Machine.execQvxAdd core f s
  | .qvxSub core f => Sys2Proof.Machine.execQvxSub core f s
  | .qvxMul core f => Sys2Proof.Machine.execQvxMul core f s
  | .qvxAdds core f => Sys2Proof.Machine.execQvxAdds core f s
  | .qvxSubs core f => Sys2Proof.Machine.execQvxSubs core f s
  | .qvxMin core f => Sys2Proof.Machine.execQvxMin core f s
  | .qvxMax core f => Sys2Proof.Machine.execQvxMax core f s
  | .qvxCmpeq core f => Sys2Proof.Machine.execQvxCmpeq core f s
  | .qvxCmplt core f => Sys2Proof.Machine.execQvxCmplt core f s
  | .qvxAnd core f => Sys2Proof.Machine.execQvxAnd core f s
  | .qvxOr core f => Sys2Proof.Machine.execQvxOr core f s
  | .qvxXor core f => Sys2Proof.Machine.execQvxXor core f s
  | .qvxAndn core f => Sys2Proof.Machine.execQvxAndn core f s
  | .qvxSll core f => Sys2Proof.Machine.execQvxSll core f s
  | .qvxSrl core f => Sys2Proof.Machine.execQvxSrl core f s
  | .qvxSra core f => Sys2Proof.Machine.execQvxSra core f s
  | .qvxFadd core f => Sys2Proof.Machine.execQvxFadd core f s
  | .qvxFsub core f => Sys2Proof.Machine.execQvxFsub core f s
  | .qvxFmul core f => Sys2Proof.Machine.execQvxFmul core f s
  | .qvxFma core f => Sys2Proof.Machine.execQvxFma core f s
  | .qvxFnma core f => Sys2Proof.Machine.execQvxFnma core f s
  | .qvxFmax core f => Sys2Proof.Machine.execQvxFmax core f s
  | .qvxFmin core f => Sys2Proof.Machine.execQvxFmin core f s
  | .qvxFcmplt core f => Sys2Proof.Machine.execQvxFcmplt core f s
  | .qvxFcmple core f => Sys2Proof.Machine.execQvxFcmple core f s
  | .qvxFcmpeq core f => Sys2Proof.Machine.execQvxFcmpeq core f s
  | .qvxFcmpun core f => Sys2Proof.Machine.execQvxFcmpun core f s
  | .qvxFcvtIf core f => Sys2Proof.Machine.execQvxFcvtIf core f s
  | .qvxFcvtFi core f => Sys2Proof.Machine.execQvxFcvtFi core f s
  | .qvxFwiden core f => Sys2Proof.Machine.execQvxFwiden core f s
  | .qvxFnarrow core f => Sys2Proof.Machine.execQvxFnarrow core f s
  | .qvxLd core f => Sys2Proof.Machine.execQvxLd core f s
  | .qvxLdff core f => Sys2Proof.Machine.execQvxLdff core f s
  | .qvxSt core f => Sys2Proof.Machine.execQvxSt core f s
  | .qvxPld core f => Sys2Proof.Machine.execQvxPld core f s
  | .qvxPst core f => Sys2Proof.Machine.execQvxPst core f s
  | .qvxBcastX core f => Sys2Proof.Machine.execQvxBcastX core f s
  | .qvxBcastF core f => Sys2Proof.Machine.execQvxBcastF core f s
  | .qvxMvX core f => Sys2Proof.Machine.execQvxMvX core f s
  | .qvxPwhile core f => Sys2Proof.Machine.execQvxPwhile core f s
  | .qvxPlog core f => Sys2Proof.Machine.execQvxPlog core f s
  | .qvxPcnt core f => Sys2Proof.Machine.execQvxPcnt core f s
  | .qvxRdsat core f => Sys2Proof.Machine.execQvxRdsat core f s
  | .qvxWrsat core f => Sys2Proof.Machine.execQvxWrsat core f s
  | .qvxRedsumI core f => Sys2Proof.Machine.execQvxRedsumI core f s
  | .qvxRedsumF core f => Sys2Proof.Machine.execQvxRedsumF core f s
  | .qvxWmul core h u f => Sys2Proof.Machine.execQvxWmul core h u f s
  | .qvxWmacc core h u f => Sys2Proof.Machine.execQvxWmacc core h u f s
  | .qvxDot core ss f => Sys2Proof.Machine.execQvxDot core ss f s
  | .qvxDot2u core ss f => Sys2Proof.Machine.execQvxDot2u core ss f s
  | .readRequest port pkt => Sys2Proof.Machine.execReadRequest port pkt s
  | .writeRequest port pkt => Sys2Proof.Machine.execWriteRequest port pkt s
  | .atomicRequest port pkt => Sys2Proof.Machine.execAtomicRequest port pkt s
  | .combinedAtomic port pkt => Sys2Proof.Machine.execCombinedAtomic port pkt s
  | .reply port pkt => Sys2Proof.Machine.execReply port pkt s
  | .nack port pkt => Sys2Proof.Machine.execNack port pkt s
  | .sync port pkt => Sys2Proof.Machine.execSync port pkt s
  | .fabricRetransmit engine seq => Sys2Proof.Machine.execFabricRetransmit engine seq s
  | .requestGiveUp engine seq => Sys2Proof.Machine.execRequestGiveUp engine seq s
  | .fullReissue engine seq => Sys2Proof.Machine.execFullReissue engine seq s
  | .hotLineNotice port line home => Sys2Proof.Machine.execHotLineNotice port line home s
  | .hotLineEnd line home => Sys2Proof.Machine.execHotLineEnd line home s
  | .combineHoldExpiry die line => Sys2Proof.Machine.execCombineHoldExpiry die line s
  | .flowRecordExpiry die idx => Sys2Proof.Machine.execFlowRecordExpiry die idx s
  | .atomicEntryExpiry die idx => Sys2Proof.Machine.execAtomicEntryExpiry die idx s
  | .frameReceive port outcome => Sys2Proof.Machine.execFrameReceive port outcome s
  | .portDown port => Sys2Proof.Machine.execPortDown port s
  | .portTrainingEnd port lanes peerLoc peerPort delay => Sys2Proof.Machine.execPortTrainingEnd port lanes peerLoc peerPort delay s
  | .portDelayMeasure port delay => Sys2Proof.Machine.execPortDelayMeasure port delay s
  | .fabPcRestore src port => Sys2Proof.Machine.execFabPcRestore src port s
  | .fabCntClr src die => Sys2Proof.Machine.execFabCntClr src die s
  | .remoteIncrement port pkt => Sys2Proof.Machine.execRemoteIncrement port pkt s
  | .colTcntWrite src engine c width value => Sys2Proof.Machine.execColTcntWrite src engine c width value s
  | .fireComplete engine entry => Sys2Proof.Machine.execFireComplete engine entry s
  | .contrib port pkt => Sys2Proof.Machine.execContrib port pkt s
  | .result port pkt => Sys2Proof.Machine.execResult port pkt s
  | .abort port pkt => Sys2Proof.Machine.execAbort port pkt s
  | .credit port pkt => Sys2Proof.Machine.execCredit port pkt s
  | .fallback port pkt => Sys2Proof.Machine.execFallback port pkt s
  | .setupPacket port pkt => Sys2Proof.Machine.execSetupPacket port pkt s
  | .collectiveTimeout q => Sys2Proof.Machine.execCollectiveTimeout q s
  | .gateRelease q => Sys2Proof.Machine.execGateRelease q s
  | .busyWindow port busy => Sys2Proof.Machine.execBusyWindow port busy s
  | .colCntClr src die => Sys2Proof.Machine.execColCntClr src die s
  | .beaconReceive port value => Sys2Proof.Machine.execBeaconReceive port value s
  | .ppsEdge offset => Sys2Proof.Machine.execPpsEdge offset s
  | .timedRelease ctx => Sys2Proof.Machine.execTimedRelease ctx s
  | .timedReleaseArm src ctx => Sys2Proof.Machine.execTimedReleaseArm src ctx s
  | .pairDigest q seq digest tileDigests => Sys2Proof.Machine.execPairDigest q seq digest tileDigests s
  | .pairTimeout q => Sys2Proof.Machine.execPairTimeout q s
  | .targetedSelfTestStart die unit => Sys2Proof.Machine.execTargetedSelfTestStart die unit s
  | .selfTestEnd die unit pass => Sys2Proof.Machine.execSelfTestEnd die unit pass s
  | .marchTestStart die unit => Sys2Proof.Machine.execMarchTestStart die unit s
  | .marchTestEnd die unit pass => Sys2Proof.Machine.execMarchTestEnd die unit pass s
  | .spareDispatcherSwitch die => Sys2Proof.Machine.execSpareDispatcherSwitch die s
  | .descriptorReplay q => Sys2Proof.Machine.execDescriptorReplay q s
  | .rasCntClr src => Sys2Proof.Machine.execRasCntClr src s
  | .maskApply q => Sys2Proof.Machine.execMaskApply q s
  | .demandCopyEnd page => Sys2Proof.Machine.execDemandCopyEnd page s
  | .storageCommandComplete x cmd status data parity => Sys2Proof.Machine.execStorageCommandComplete x cmd status data parity s
  | .storageCommandTimeout x cmd => Sys2Proof.Machine.execStorageCommandTimeout x cmd s
  | .connectionLost conn => Sys2Proof.Machine.execConnectionLost conn s
  | .bcastBlock q msg => Sys2Proof.Machine.execBcastBlock q msg s
  | .bcastReattach q => Sys2Proof.Machine.execBcastReattach q s
  | .bcastChildDrop q child => Sys2Proof.Machine.execBcastChildDrop q child s
  | .bcastMemberWaitExpiry q => Sys2Proof.Machine.execBcastMemberWaitExpiry q s
  | .ckpCntClr src x => Sys2Proof.Machine.execCkpCntClr src x s
  | .identify m => Sys2Proof.Machine.execIdentify m s
  | .features m => Sys2Proof.Machine.execFeatures m s
  | .stageSet m => Sys2Proof.Machine.execStageSet m s
  | .stageCheck m => Sys2Proof.Machine.execStageCheck m s
  | .commit m => Sys2Proof.Machine.execCommit m s
  | .stageDiscard m => Sys2Proof.Machine.execStageDiscard m s
  | .protectPropose m => Sys2Proof.Machine.execProtectPropose m s
  | .protectEndorse m => Sys2Proof.Machine.execProtectEndorse m s
  | .protectWithdraw m => Sys2Proof.Machine.execProtectWithdraw m s
  | .powerCap m => Sys2Proof.Machine.execPowerCap m s
  | .powerStatus m => Sys2Proof.Machine.execPowerStatus m s
  | .logRead m => Sys2Proof.Machine.execLogRead m s
  | .logMark m => Sys2Proof.Machine.execLogMark m s
  | .fwStage m => Sys2Proof.Machine.execFwStage m s
  | .fwVerify m => Sys2Proof.Machine.execFwVerify m s
  | .fwActivate m => Sys2Proof.Machine.execFwActivate m s
  | .selftest m => Sys2Proof.Machine.execSelftest m s
  | .spareStatus m => Sys2Proof.Machine.execSpareStatus m s
  | .calPolicy m => Sys2Proof.Machine.execCalPolicy m s
  | .calStatus m => Sys2Proof.Machine.execCalStatus m s
  | .timeStatus m => Sys2Proof.Machine.execTimeStatus m s
  | .timeSetMaster m => Sys2Proof.Machine.execTimeSetMaster m s
  | .pairSet m => Sys2Proof.Machine.execPairSet m s
  | .attest m => Sys2Proof.Machine.execAttest m s
  | .longCommandEnd m partnered => Sys2Proof.Machine.execLongCommandEnd m partnered s
  | .oobDuplicateDatagram m tag area => Sys2Proof.Machine.execOobDuplicateDatagram m tag area s
  | .stagingWrite src off width value => Sys2Proof.Machine.execStagingWrite src off width value s
  | .islandAcknowledge island => Sys2Proof.Machine.execIslandAcknowledge island s
  | .shadowRewrite off => Sys2Proof.Machine.execShadowRewrite off s
  | .proposalExpiry m => Sys2Proof.Machine.execProposalExpiry m s
  | .logDrain n => Sys2Proof.Machine.execLogDrain n s
  | .sensorSample temps volts currents vinMv => Sys2Proof.Machine.execSensorSample temps volts currents vinMv s
  | .mgtCntClr src => Sys2Proof.Machine.execMgtCntClr src s
  | .supplyWarning mv => Sys2Proof.Machine.execSupplyWarning mv s
  | .supplyRecovery mv => Sys2Proof.Machine.execSupplyRecovery mv s
  | .coldStop supply mv => Sys2Proof.Machine.execColdStop supply mv s
  | .phaseCheck failing => Sys2Proof.Machine.execPhaseCheck failing s
  | .throttleUpdate temps avgPowerW => Sys2Proof.Machine.execThrottleUpdate temps avgPowerW s
  | .thermalTrip die temp => Sys2Proof.Machine.execThermalTrip die temp s
  | .pwrCntClr src => Sys2Proof.Machine.execPwrCntClr src s
  | .porstNRelease straps boot => Sys2Proof.Machine.execPorstNRelease straps boot s
  | .warmN heldUs => Sys2Proof.Machine.execWarmN heldUs s
  | .standbyPowerGood power => Sys2Proof.Machine.execStandbyPowerGood power s
  | .violationWindow port => Sys2Proof.Machine.execViolationWindow port s
  | .fence core predIO => Sys2Proof.Machine.execFence core predIO s
  | .beat => Sys2Proof.Machine.execBeat s
  | .beaconSend => Sys2Proof.Machine.execBeaconSend s
  | .holdoverEntry => Sys2Proof.Machine.execHoldoverEntry s
  | .commitAckTimeout => Sys2Proof.Machine.execCommitAckTimeout s
  | .commitApply => Sys2Proof.Machine.execCommitApply s
  | .holdLapse => Sys2Proof.Machine.execHoldLapse s
  | .lockstepMismatch => Sys2Proof.Machine.execLockstepMismatch s
  | .complexRestartEnd => Sys2Proof.Machine.execComplexRestartEnd s
  | .bootAttemptTimeout => Sys2Proof.Machine.execBootAttemptTimeout s
  | .recoveryTimer => Sys2Proof.Machine.execRecoveryTimer s
  | .clockStep => Sys2Proof.Machine.execClockStep s
  | .capEffect => Sys2Proof.Machine.execCapEffect s
  | .porstNAssert => Sys2Proof.Machine.execPorstNAssert s
  | .refclkLoss => Sys2Proof.Machine.execRefclkLoss s

end Sys2Proof.Machine
end

