-- ==== Sys2Proof/Safety.lean ====
section
/-! DEFINITION. The terms that statements about runs use: a command's answer, what a step leaves as it was, memory's canonical form, and the
invariant of the log and the clock that every step keeps (R300, R453, R569 to R571). -/

namespace Sys2Proof.Machine

/-- Memory's canonical form: addresses strictly rising, and no entry equal to what an unlisted address reads as (R300). -/
abbrev Memory.wf (m : List Host.Cell) : Prop := SparseWf (fun _ => 0) m

/-- The environment a command meets. -/
def State.env (s : State) : Env := ⟨s.clock, s.log⟩

/-- A command answers a next state of which `P` holds. -/
def Answers (c : Instr) (s : State) (P : State → Prop) : Prop := ∃ t, exec c s = .next t ∧ P t

/-- A command answers the next state whose package is `p`: the queue and the clock stay, and the log records that `p` raised join those of the
beat in progress (R570). -/
def Becomes (c : Instr) (s : State) (p : Pkg) : Prop := exec c s = .next (s.lift (fun _ _ => p))

/-- Every register but the listed ones reads as before. -/
def KeepsRegs (ks : List Nat) (s t : State) : Prop := ∀ k, k ∉ ks → t.pkg.reg k = s.pkg.reg k

/-- Every byte of memory reads as before. -/
def KeepsMem (s t : State) : Prop := ∀ a, t.pkg.byte a = s.pkg.byte a

/-- Every byte of memory outside the listed lines reads as before. -/
def KeepsMemBut (ls : List Nat) (s t : State) : Prop := ∀ a, a / 256 * 256 ∉ ls → t.pkg.byte a = s.pkg.byte a

/-- The lines of a context's journal region that take the next descriptor's entry (R490; log entry 101). -/
def Pkg.entryLines (p : Pkg) (c : Nat) : List Nat :=
  if p.on (Reg.RAS_CTX_CFG c) Fld.RAS_JR_VALID then
    linesOf ((p.region (p.fld (Reg.RAS_CTX_CFG c) Fld.RAS_JR_REGION)).base + 1024 * (p.journalUsed c % 16)) 1024
  else []

/-- The queue of commands, the clock and the written log are as before. -/
def KeepsBlock (s t : State) : Prop :=
  t.pending = s.pending ∧ t.clock = s.clock ∧ t.log.next = s.log.next ∧ t.log.buf = s.log.buf ∧ t.log.mram = s.log.mram

/-- The log records that a command raised join those of the beat in progress (R570). -/
def Logs (s t : State) (rs : List LogRec) : Prop := t.log.beatBuf = s.log.beatBuf ++ rs.map (fun r => (s.clock.beat + 1, r))

/-- Registers whose writes act beyond their access codes: doorbells, queue control, flags, counter clears, port control, the timed release and
the mailboxes (Tables 06-17, 06-19, 10-12, 13-8, 16-12). Commands of their own stand for most of them. -/
def actingRegs : List String :=
  ["DSP_QTAIL", "DSP_QCHEAD", "DSP_QHEAD", "DSP_QCTRL", "DSP_QBASE", "DSP_QCPL", "DSP_CTX_CTRL", "DSP_FLAG", "DSP_FLAG_ADD", "ARR_CTRL", "ARR_QCTRL",
   "COAT_CTRL", "ANV_CTRL", "MEM_CTRL", "FAB_CTRL", "COL_CTRL", "RAS_CTRL", "CKP_CTRL", "MGT_CTRL", "PWR_CTRL", "RAS_HMC_STATUS", "FAB_PORT_CTRL",
   "TIM_CTX_CFG", "MGT_MB_CMD", "MGT_MB_RSP", "MGT_MB_DOORBELL", "MEM_RG_ATTR"]

/-- The source that a command comes from, where it comes from one. -/
def sourceOf : Instr → Option Source
  | .registerWrite src _ _ _ | .tailDoorbell src _ _ | .headDoorbell src _ _ | .qheadWrite src _ _ | .queueEnable src _ | .queueDisable src _
  | .queueFlush src _ | .queueResume src _ | .flagWrite src _ _ _ _ _ | .flagAdd src _ _ _ _ | .flagClr src _ | .arrCntClr src _
  | .arrQcntClr src _ | .arrQhistClr src _ _ | .coatCntClr src _ | .anvCntClr src _ | .memCntClr src _ | .fabPcRestore src _ | .fabCntClr src _
  | .colTcntWrite src _ _ _ _ | .colCntClr src _ | .timedReleaseArm src _ | .rasCntClr src | .ckpCntClr src _ | .stagingWrite src _ _ _
  | .mgtCntClr src | .pwrCntClr src => some src
  | _ => none

/-- The queue a start command names and the descriptors it is for, by kind and operation (Tables 06-1, 06-9, 07-2, 10-4, 11-5, 15-2). -/
def startOf : Instr → Option (Fin 64 × (List Byte → Bool))
  | .arrayDescriptor q => some (q, fun d => dKind d == 0)
  | .coatDescriptor q => some (q, fun d => dKind d == 1)
  | .cg q => some (q, fun d => dKind d == 2 && anvMethod d == 0)
  | .bicgstab q => some (q, fun d => dKind d == 2 && anvMethod d == 1)
  | .gmres q => some (q, fun d => dKind d == 2 && anvMethod d == 2)
  | .minres q => some (q, fun d => dKind d == 2 && anvMethod d == 3)
  | .lp q => some (q, fun d => dKind d == 2 && anvMethod d == 4)
  | .qp q => some (q, fun d => dKind d == 2 && anvMethod d == 5)
  | .copy q => some (q, fun d => dKind d == 3 && dOp d % 16 == 0)
  | .atomic q => some (q, fun d => dKind d == 3 && dOp d % 16 == 1)
  | .allreduce q => some (q, fun d => dKind d == 4 && dOp d % 16 == 0)
  | .reduceScatter q => some (q, fun d => dKind d == 4 && dOp d % 16 == 1)
  | .allgather q => some (q, fun d => dKind d == 4 && dOp d % 16 == 2)
  | .broadcast q => some (q, fun d => dKind d == 4 && dOp d % 16 == 3)
  | .alltoall q => some (q, fun d => dKind d == 4 && dOp d % 16 == 4)
  | .barrier q => some (q, fun d => dKind d == 4 && dOp d % 16 == 5)
  | .ringPass q => some (q, fun d => dKind d == 4 && dOp d % 16 == 6)
  | .setup q => some (q, fun d => dKind d == 4 && dOp d % 16 == 7)
  | .release q => some (q, fun d => dKind d == 4 && dOp d % 16 == 8)
  | .trigArm q => some (q, fun d => dKind d == 4 && dOp d % 16 == 9)
  | .save q => some (q, ckMine 0)
  | .restore q => some (q, ckMine 1)
  | .connect q => some (q, ckMine 2)
  | .disconnect q => some (q, ckMine 3)
  | .bcastSend q => some (q, ckMine 4)
  | .bcastRecv q => some (q, ckMine 5)
  | .coatLoad q => some (q, isCall 0x01)
  | .gemmGrouped q => some (q, isCall 0x10)
  | .gemmEpilogue q => some (q, isCall 0x11)
  | .rmsNorm q => some (q, isCall 0x20)
  | .layerNorm q => some (q, isCall 0x21)
  | .softmaxQ q => some (q, isCall 0x22)
  | .topK q => some (q, isCall 0x30)
  | .gather q => some (q, isCall 0x31)
  | .scatterAdd q => some (q, isCall 0x32)
  | .ringAttn q => some (q, isCall 0x40)
  | .haloPack q => some (q, isCall 0x50)
  | .haloUnpack q => some (q, isCall 0x51)
  | .enqList q => some (q, isCall 0x100)
  | .enqSelect q => some (q, isCall 0x101)
  | .enqRepeat q => some (q, isCall 0x102)
  | _ => none

/-- The ranges of memory that the dispatcher reads for a start before the start's other checks (R217, R218, R321). -/
def startReads (p : Pkg) (c : Nat) (d : List Byte) : Instr → List (Nat × Nat)
  | .arrayDescriptor _ => p.entryReads c d (arrayHandles (dOp d))
  | .coatDescriptor _ => p.entryReads c d (p.coatHandles c d)
  | .cg _ | .bicgstab _ | .gmres _ | .minres _ | .lp _ | .qp _ => p.solveReads c d
  | .copy _ | .atomic _ => p.entryReads c d (fabHandles d)
  | .allreduce _ | .reduceScatter _ | .allgather _ | .broadcast _ | .alltoall _ | .ringPass _ => p.colReads c d 0
  | .barrier _ => p.colReads c d 5
  | .setup _ => p.setupReads c d
  | .trigArm _ => p.trigReads c d
  | .save _ | .restore _ => p.ckReads c d
  | .connect _ | .disconnect _ => p.paramReads c d 64
  | .bcastSend _ | .bcastRecv _ => p.bcastReads c d
  | .coatLoad _ => p.callReads c d [] 9
  | .gemmGrouped _ => p.groupReads c d
  | .gemmEpilogue _ => p.callReads c d [0, 1, 2, 3] 8
  | .rmsNorm _ => p.callReads c d [0, 1, 2] 4
  | .layerNorm _ => p.callReads c d [0, 1, 2, 3] 4
  | .softmaxQ _ => p.callReads c d [0, 2] 4
  | .topK _ => p.callReads c d [0, 2, 3] 4
  | .gather _ | .scatterAdd _ => p.callReads c d [0, 1, 2] 0
  | .ringAttn _ => p.callReads c d [0, 1, 2, 3] 16
  | .haloPack _ | .haloUnpack _ => p.callReads c d [0, 2] 20
  | .enqList _ => p.callReads c d [] 24
  | .enqSelect _ => p.callReads c d [] 40
  | .enqRepeat _ => p.callReads c d [] 32
  | _ => []

/-- Every QVX instruction of a core with the same fields (Tables 09-6 to 09-9). -/
def qvxAll (g : Fin 144) (f : QvxFields) (h u : Bool) (ss : Fin 4) : List Instr :=
  [.qvxAdd g f, .qvxSub g f, .qvxMul g f, .qvxAdds g f, .qvxSubs g f, .qvxMin g f, .qvxMax g f, .qvxCmpeq g f, .qvxCmplt g f, .qvxAnd g f,
   .qvxOr g f, .qvxXor g f, .qvxAndn g f, .qvxSll g f, .qvxSrl g f, .qvxSra g f] ++
  [.qvxFadd g f, .qvxFsub g f, .qvxFmul g f, .qvxFma g f, .qvxFnma g f, .qvxFmax g f, .qvxFmin g f, .qvxFcmplt g f, .qvxFcmple g f, .qvxFcmpeq
   g f, .qvxFcmpun g f, .qvxFcvtIf g f, .qvxFcvtFi g f, .qvxFwiden g f, .qvxFnarrow g f] ++
  [.qvxLd g f, .qvxLdff g f, .qvxSt g f, .qvxPld g f, .qvxPst g f, .qvxBcastX g f, .qvxBcastF g f, .qvxMvX g f, .qvxPwhile g f, .qvxPlog g f,
   .qvxPcnt g f, .qvxRdsat g f, .qvxWrsat g f, .qvxRedsumI g f, .qvxRedsumF g f] ++
  [.qvxWmul g h u f, .qvxWmacc g h u f, .qvxDot g ss f, .qvxDot2u g ss f]

/-- The `n` bytes from an address stand in one line of memory that a core holds in its own caches, which are not overfull; the core is in machine mode
and physical memory protection is off, so that nothing translates or denies the access (R328, Table 09-1, Table 09-2). -/
structure Pkg.HoldsLine (p : Pkg) (g : Fin 144) (a n : Nat) (l : HostLine) : Prop where
  machine : (p.core g).mode = 3 ∧ (p.core g).ms 17 = false
  unguarded : ∀ i < 16, bitsOf ((p.core g).pmpCfg i) 4 3 = 0
  held : p.cached a = some l
  whole : l.bytes.length = 256
  inLine : 0 < n ∧ (a + n - 1) / 256 = a / 256
  memory : ∀ b, a ≤ b → b < a + n → p.hostPlace b = .memory
  near : ∀ c ∈ cachesOf g false, l.within.contains c = true
  room : ∀ c ∈ cachesOf g false, (p.hostLines.filter (fun x => x.within.contains c)).length ≤ c.lines

/-- Byte `b` of memory as a line holds it. -/
def HostLine.byteAt (l : HostLine) (b : Nat) : Byte := l.bytes.getD (b % 256) 0

/-- The request and answer packets of the fabric, and the packets of collectives, that may arrive on a port (Tables 10-6, 11-6). -/
def fabricPackets (port : Fin 36) (pkt : RawPacket) : List Instr :=
  [.readRequest port pkt, .writeRequest port pkt, .atomicRequest port pkt, .combinedAtomic port pkt, .remoteIncrement port pkt, .reply port pkt,
   .nack port pkt, .sync port pkt] ++
  [.contrib port pkt, .result port pkt, .abort port pkt, .credit port pkt, .fallback port pkt, .setupPacket port pkt]

/-- The head of a queue is the descriptor that the dispatcher starts next on its engine, its deadline has not passed, and its own bits and codes are
in order: the start's other checks decide (R207, R209, R226, R638). -/
structure State.Starts (s : State) (q : Nat) (d : List Byte) : Prop where
  working : s.pkg.working = true
  next : s.pkg.startable q = some d
  inTime : deadlinePassed s.env.tagHall d = false
  ownBits : ownBad d = false

/-- The dispatcher's reads for a start command find every line whole, and leave the package `p` (R321). -/
def State.Reads (s : State) (i : Instr) (q : Nat) (d : List Byte) (p : Pkg) : Prop :=
  s.pkg.readAhead s.env (s.pkg.queueCtx q) (startReads s.pkg (s.pkg.queueCtx q) d i) = (p, .ok)

/-- The commands of the Jiward command set on a mailbox, with their opcodes (Table 16-5). -/
def mailboxRows (m : Fin 16) : List (Nat × Instr) :=
  [(0x01, .identify m), (0x02, .features m), (0x10, .stageSet m), (0x11, .stageCheck m), (0x12, .commit m), (0x13, .stageDiscard m),
   (0x20, .protectPropose m), (0x21, .protectEndorse m), (0x22, .protectWithdraw m), (0x30, .powerCap m), (0x31, .powerStatus m), (0x40, .logRead m)] ++
  [(0x41, .logMark m), (0x50, .fwStage m), (0x51, .fwVerify m), (0x52, .fwActivate m), (0x60, .selftest m), (0x61, .spareStatus m),
   (0x70, .calPolicy m), (0x71, .calStatus m), (0x80, .timeStatus m), (0x81, .timeSetMaster m), (0xa0, .pairSet m), (0xb0, .attest m)]

/-- A command of an opcode is mailbox m's and is served next, has passed the checks of R551 and R552, and no long command of its opcode is in
progress (R548). -/
structure State.Serves (s : State) (m : Fin 16) (op : Nat) (k : MbCmd) : Prop where
  runs : s.pkg.complexUp = true
  next : s.pkg.mbNext = some (m.val, k)
  opcode : k.op = op
  passes : s.pkg.mbCheck m k = none
  free : ∀ x ∈ s.pkg.mbox, x.2.running = true → x.2.op ≠ op

/-- The log is in order (R569 to R571): the entries of MRAM and then of the buffer stand in ascending sequence number, each below the next
number to give; the buffer's are the latest numbers given, without a gap; no two entries of MRAM share a ring position; the buffer holds at
most 4,096; every entry carries its beat's hall time. -/
structure LogSt.Ok (l : LogSt) : Prop where
  ascending : (l.mram ++ l.buf).Pairwise (fun a b => a.seq < b.seq)
  below : ∀ x ∈ l.mram ++ l.buf, x.seq < l.next
  latest : l.buf.length ≤ l.next ∧ l.buf.map (fun x => x.seq) = List.range' (l.next - l.buf.length) l.buf.length
  ring : l.mram.Pairwise (fun a b => a.seq % logRing ≠ b.seq % logRing)
  bounded : l.buf.length ≤ logBuffer
  timed : ∀ x ∈ l.mram ++ l.buf, x.hall = 16 * x.beat

/-- What holds between any two commands: the log is in order, and no record stands between the package and the log. -/
structure State.Inv (s : State) : Prop where
  log : s.log.Ok
  raised : s.pkg.raised = []

/-- A state that a run may be trusted in: the invariant holds and memory has its canonical form. -/
structure State.Safe (s : State) : Prop where
  inv : s.Inv
  mem : Memory.wf s.pkg.mem

end Sys2Proof.Machine
end

