-- ==== Sys2Proof/Certificates/Slice0/Obligations.lean ====
section
/-! DEFINITION. What is to be proved of the model: the queue, the invariant that every step keeps, what each command does and what it leaves as it was.
A statement about a command holds for every state and operands that meet its hypotheses; every command answers its own effect in some statement.
`Answers` and `Becomes` say that the command answers a next state and which one. -/

open Sys2Proof Sys2Proof.Machine

/-- A step takes the command at the front of the queue and runs it with the queue's rest (the block's rule for a waiting queue, log entry 1). -/
def Obligations.StepRunsFront : Prop :=
  ∀ (c : Instr) (rest : List Instr) (s : State), s.pending = c :: rest → step s = exec c { s with pending := rest }

/-- Every command answers a next state, never a fault or a refusal, and leaves the queue as it was. -/
def Obligations.EveryCommandAnswers : Prop := ∀ (c : Instr) (s : State), ∃ t, exec c s = .next t ∧ t.pending = s.pending

/-- The state after reset is safe: an empty log in order, no record raised, memory in its canonical form. -/
def Obligations.ResetIsSafe : Prop := State.reset.Safe

/-- Every step keeps the log in order, from every state in which it is: sequence numbers ascend across MRAM and the buffer, no two entries of
MRAM share a ring position, the buffer never holds more than 4,096 entries, every entry carries its beat's hall time; and no record stands
between the package and the log (R569 to R571). -/
def Obligations.StepKeepsLog : Prop := ∀ s t : State, s.Inv → step s = .next t → t.Inv

/-- Only BEAT, BEACON_RECEIVE, TIME_SET_MASTER, STANDBY_POWER_GOOD, COLD_STOP and LOG_DRAIN touch the clock or the written log: every other
command leaves hall time, the entries and the next number as they were (R453, R456, R569 to R571).
BEAT of a powered package moves hall time to the next multiple of 16 ns, modulo 2^64, and clears what the package showed for the beat that ended: interrupt
messages, memory answers, packets sent and delivered, beacons sent, out-of-band answers, and the changes whose order within a cycle matters (R31,
R158, R215, R358, R453, R456). -/
def Obligations.ClockAndLog : Prop :=
  (
    ∀ (c : Instr) (s t : State), exec c s = .next t → c ≠ .beat → (∀ p v, c ≠ .beaconReceive p v) → (∀ m, c ≠ .timeSetMaster m) →
      (∀ x, c ≠ .standbyPowerGood x) → (∀ v m, c ≠ .coldStop v m) → (∀ n, c ≠ .logDrain n) → KeepsBlock s t) ∧
  (
    ∀ s : State, s.pkg.mgt.power = true →
      Answers .beat s (fun t => t.clock.hall = 16 * (s.clock.hall / 16 + 1) % 2 ^ 64 ∧ t.pkg.irqs = [] ∧ t.pkg.memOut = [] ∧
        t.pkg.fab.sent = [] ∧ t.pkg.net.delivered = [] ∧ t.pkg.time.sent = [] ∧ t.pkg.ckp.sent = [] ∧ t.pkg.mgt.oob = [] ∧
        t.pkg.cycle = [] ∧ t.pkg.flagCycle = [] ∧ t.pkg.stageCycle = []))

/-- A counter clear sets every counter of its table to zero and changes no other register, no byte of memory and nothing else of the block
(Tables 03-11, 04-7, 05-16, 07-16, 08-11, 10-13, 11-14 and 11-15, 14-7, 15-12, 16-15, 17-6); ARR_QHIST_CLR clears the 32 histogram
registers of each context whose bit of the mask is 1. Quench counts that a completion put into the die earlier in the beat survive a clear of their
cycle (R158), so there the clears of the quench counters leave at most those. -/
def Obligations.CounterClears : Prop :=
  ∀ (s : State) (src : Source) (d : Fin 8) (h : Fin 4) (k : Fin 24) (x : Fin 2) (mask : Fin 256), s.pkg.working = true →
    s.pkg.reaches src = true →
    let clears (c : Instr) (ks : List Nat) : Prop :=
      Answers c s (fun t => (∀ r ∈ ks, t.pkg.reg r = 0) ∧ KeepsRegs ks s t ∧ KeepsMem s t ∧ KeepsBlock s t)
    clears (.arrCntClr src d) (arrCounters d.val) ∧
    (s.pkg.stageCycle.filter (fun x => x.2.die == d.val) = [] → clears (.arrQcntClr src d) (quenchCounters d.val) ∧
      clears (.arrQhistClr src d mask) (((List.range 8).filter (fun c => mask.val.testBit c)).flatMap (fun c =>
        (List.range 32).map (fun b => Reg.ARR_SHADOW_HIST d.val (32 * c + b))))) ∧
    Answers (.arrQcntClr src d) s (fun t => KeepsRegs (quenchCounters d.val) s t ∧ KeepsMem s t ∧ KeepsBlock s t) ∧
    clears (.coatCntClr src d) (coatCounters d.val) ∧ clears (.anvCntClr src h) (anvCounters h.val) ∧
    clears (.memCntClr src k) (memCounters k.val) ∧ clears (.fabCntClr src d) (fabCounters d.val) ∧
    clears (.colCntClr src d) (colCounters d.val) ∧ clears (.rasCntClr src) rasCounters ∧ clears (.ckpCntClr src x) (ckpCounters x.val) ∧
    clears (.mgtCntClr src) mgtCounters ∧ clears (.pwrCntClr src) pwrCounters

/-! ### Queues, doorbells and flags -/

/-- A doorbell in the ranges of R202 is taken: TAIL or CHEAD of an enabled queue, or TAIL, CHEAD or HEAD of a disabled one, becomes the 32-bit value
written, the wait-cycle count of the context restarts (TAIL, CHEAD), and no other register and no byte changes; a HEAD write of an enabled
queue changes nothing (R202, R204, R239). No write of the register from a higher-numbered die came earlier in the beat: one in the same cycle would
stand (R31). -/
def Obligations.DoorbellsTaken : Prop :=
  ∀ (s : State) (src : Source) (q : Fin 64) (value : Nat), s.pkg.working = true → s.pkg.reaches src = true →
    let p := s.pkg
    let v := value % 2 ^ 32
    let first (k : Nat) : Prop := p.calm (sourceDie src k) k = true
    let takes (c : Instr) (k : Nat) : Prop :=
      Answers c s (fun t => t.pkg.regNat k = v ∧ KeepsRegs [k] s t ∧ KeepsMem s t ∧ KeepsBlock s t ∧ Logs s t s.pkg.raised)
    let tailOk := seqDiff v (p.chead q) ≤ p.ringSlots q ∧ seqDiff v (p.head q) < 2 ^ 31
    let claims (chead head : Nat) := 1 ≤ seqDiff chead head ∧ seqDiff chead head < 2 ^ 31
    (first (Reg.DSP_QTAIL q) → tailOk → (p.queueEnabled q = false → ¬claims (p.chead q) (p.head q)) →
      takes (.tailDoorbell src q value) (Reg.DSP_QTAIL q) ∧
      Answers (.tailDoorbell src q value) s (fun t => (t.pkg.ctxSt (p.queueCtx q)).cycleCount = 0)) ∧
    (first (Reg.DSP_QCHEAD q) → ¬claims v (p.head q) → (p.queueEnabled q = false → seqDiff (p.tail q) (p.head q) < 2 ^ 31) →
      takes (.headDoorbell src q value) (Reg.DSP_QCHEAD q) ∧
      Answers (.headDoorbell src q value) s (fun t => (t.pkg.ctxSt (p.queueCtx q)).cycleCount = 0)) ∧
    (first (Reg.DSP_QHEAD q) → p.queueEnabled q = false → seqDiff (p.tail q) v < 2 ^ 31 → ¬claims (p.chead q) v →
      takes (.qheadWrite src q value) (Reg.DSP_QHEAD q)) ∧
    (p.queueEnabled q = true → Becomes (.qheadWrite src q value) s p)

/-- R202: the dispatcher refuses a doorbell in each of the cases the rule lists; a refused write changes nothing but `DSP_Q_DBERR`, which reads
1, and the log gains one record of the source, the register and the value. The value is the one written unless a write of the register from a
higher-numbered die came earlier in the beat (R31). -/
def Obligations.DoorbellsRefused : Prop :=
  ∀ (s : State) (src : Source) (q : Fin 64) (value : Nat), s.pkg.working = true → s.pkg.reaches src = true →
    let p := s.pkg
    let v := value % 2 ^ 32
    let first (k : Nat) : Prop := p.calm (sourceDie src k) k = true
    let refused (c : Instr) (k : Nat) : Prop :=
      Answers c s (fun t => t.pkg.on (Reg.DSP_QSTATUS q) Fld.DSP_Q_DBERR = true ∧ KeepsRegs [Reg.DSP_QSTATUS q] s t ∧ KeepsMem s t ∧
        KeepsBlock s t ∧ t.pkg.dsp = s.pkg.dsp ∧
        Logs s t (s.pkg.raised ++ [⟨false, p.leadDie (p.queueCtx q), 0, 0, 3, 3, padTo 28 (s.pkg.accessor src ++ leBytes 8 k ++ leBytes 8 v)⟩]))
    let claims (chead head : Nat) := 1 ≤ seqDiff chead head ∧ seqDiff chead head < 2 ^ 31
    (first (Reg.DSP_QTAIL q) → seqDiff v (p.chead q) > p.ringSlots q ∨ seqDiff v (p.head q) ≥ 2 ^ 31 ∨
        (p.queueEnabled q = false ∧ claims (p.chead q) (p.head q)) →
      refused (.tailDoorbell src q value) (Reg.DSP_QTAIL q)) ∧
    (first (Reg.DSP_QCHEAD q) → claims v (p.head q) ∨ (p.queueEnabled q = false ∧ seqDiff (p.tail q) (p.head q) ≥ 2 ^ 31) →
      refused (.headDoorbell src q value) (Reg.DSP_QCHEAD q)) ∧
    (first (Reg.DSP_QHEAD q) → p.queueEnabled q = false → seqDiff (p.tail q) v ≥ 2 ^ 31 ∨ claims (p.chead q) v →
      refused (.qheadWrite src q value) (Reg.DSP_QHEAD q))

/-- Writing 1 to `DSP_Q_ENABLE` of a disabled queue enables it when the rings pass the check of R203 and its partition is configured; when a byte of a ring
fails the check the queue stays disabled, `DSP_Q_RINGERR` reads 1 and source 64 + c is raised. Writing 0 disables it. Resuming a halted queue ends
the halt; flushing one completes its unstarted descriptors with 0x3F, cause 0x0B, at once or behind the one that runs (R206, Table 06-17); neither does
anything to a queue that is not halted, nor enabling to one that is enabled. -/
def Obligations.QueueControl : Prop :=
  ∀ (s : State) (src : Source) (q : Fin 64), s.pkg.working = true → s.pkg.reaches src = true →
    let p := s.pkg
    let c := p.queueCtx q
    (p.queueEnabled q = false → p.ringFault q = none → p.partValid c = true → Answers (.queueEnable src q) s (fun t =>
      t.pkg.queueEnabled q = true ∧ KeepsRegs [Reg.DSP_QCTRL q] s t ∧ KeepsMem s t ∧ KeepsBlock s t)) ∧
    (∀ a, p.queueEnabled q = false → p.ringFault q = some a → Answers (.queueEnable src q) s (fun t =>
      t.pkg.queueEnabled q = false ∧ t.pkg.on (Reg.DSP_QSTATUS q) Fld.DSP_Q_RINGERR = true ∧ (∃ m ∈ t.pkg.irqs, m.src = 64 + c) ∧
      KeepsRegs [Reg.DSP_QSTATUS q] s t ∧ KeepsMem s t ∧ KeepsBlock s t)) ∧
    Answers (.queueDisable src q) s (fun t =>
      t.pkg.queueEnabled q = false ∧ KeepsRegs [Reg.DSP_QCTRL q] s t ∧ KeepsMem s t ∧ KeepsBlock s t ∧ t.pkg.dsp = p.dsp) ∧
    (p.halted q = true → Answers (.queueResume src q) s (fun t =>
      t.pkg.halted q = false ∧ KeepsRegs [] s t ∧ KeepsMem s t ∧ KeepsBlock s t ∧ t.pkg.dsp.runs = p.dsp.runs)) ∧
    (p.halted q = true → p.runOf q = none →
      Becomes (.queueFlush src q) s ((p.flushAll s.env q (p.waitingCount q)).restartCount c)) ∧
    (p.halted q = true → p.runOf q ≠ none → Answers (.queueFlush src q) s (fun t =>
      (t.pkg.queueSt q).flush = some (p.tail q) ∧ KeepsRegs [] s t ∧ KeepsMem s t ∧ KeepsBlock s t ∧ t.pkg.dsp.runs = p.dsp.runs)) ∧
    (p.halted q = false → Becomes (.queueFlush src q) s p ∧ Becomes (.queueResume src q) s p) ∧
    (p.queueEnabled q = true → Becomes (.queueEnable src q) s p)

/-- A write to a host-writable flag sets it, a write to its ADD window adds to it modulo 2^64, whatever the source, when the access is 64 bits wide
(R213, R214); the other flags, every other register and every byte stay. Of changes of the flag that higher-numbered dies made earlier in the beat,
those of the same cycle count after this one: a set overwrites it, an addition adds to it (R215). A write
that meets a failing copy of the flag sets it too (R479).
A flag write that R214 discards leaves every flag and every byte: a write to a device-set flag, or a narrow one over PCI Express or the
fabric, sets `DSP_CTX_FWERR`, raises source 64 + c and is logged; a host core's narrow access takes the access fault of R334, kind 5, and
`DSP_CTX_FWERR` stays. -/
def Obligations.FlagWrites : Prop :=
  (
    ∀ (s : State) (src : Source) (c : Fin 8) (n : Fin 4096) (value : Nat), s.pkg.working = true → s.pkg.reaches src = true →
      s.pkg.flagWritable c n = true →
      let earlier := s.pkg.flagCycle.filter (fun x => x.ctx == c.val && x.n == n.val)
      let above (off : Nat) := earlier.filter (fun x => sourceDie src off < x.die)
      (above (Reg.DSP_FLAG c n) = [] → Answers (.flagWrite src c n 8 value none) s (fun t => t.pkg.flag c n = value % 2 ^ 64 ∧
        KeepsRegs [Reg.DSP_FLAG c n] s t ∧ KeepsMem s t ∧ KeepsBlock s t)) ∧
      (above (Reg.DSP_FLAG c n) = [] →
        ∀ x, Answers (.flagWrite src c n 8 value (some x)) s (fun t => t.pkg.flag c n = value % 2 ^ 64)) ∧
      ((above (Reg.DSP_FLAG_ADD c n)).all (fun x => !x.set) = true →
        Answers (.flagAdd src c n 8 value) s (fun t => t.pkg.flag c n = (s.pkg.flag c n + value) % 2 ^ 64 ∧
          KeepsRegs [Reg.DSP_FLAG c n] s t ∧ KeepsMem s t ∧ KeepsBlock s t)) ∧
      Answers (.flagAdd src c n 8 value) s (fun t =>
        (t.pkg.flag c n = (s.pkg.flag c n + value) % 2 ^ 64 ∨ t.pkg.flag c n = s.pkg.flag c n) ∧
        KeepsRegs [Reg.DSP_FLAG c n] s t ∧ KeepsMem s t ∧ KeepsBlock s t) ∧
      Answers (.flagWrite src c n 8 value none) s (fun t =>
        (t.pkg.flag c n = s.pkg.flag c n ∨ ∃ xs : List FlagChange, xs.Sublist (above (Reg.DSP_FLAG c n)) ∧
          t.pkg.flag c n = (value + (xs.map (fun (x : FlagChange) => x.amount)).sum) % 2 ^ 64) ∧
        KeepsRegs [Reg.DSP_FLAG c n] s t ∧ KeepsMem s t ∧ KeepsBlock s t)) ∧
  (
    ∀ (s : State) (src : Source) (c : Fin 8) (n : Fin 4096) (width value : Nat), s.pkg.working = true → s.pkg.reaches src = true →
      let discards (i : Instr) (off : Nat) : Prop :=
        Answers i s (fun t => t.pkg.on (Reg.DSP_CTX_STATUS c) Fld.DSP_CTX_FWERR = true ∧ KeepsRegs [Reg.DSP_CTX_STATUS c] s t ∧ KeepsMem s t ∧
          KeepsBlock s t ∧ (∃ m ∈ t.pkg.irqs, m.src = 64 + c.val) ∧
          Logs s t (s.pkg.raised ++ [⟨false, c, 0, 0, 3, 2, padTo 28 (s.pkg.accessor src ++ leBytes 8 off ++ leBytes 8 value)⟩]))
      ((width = 8 ∧ s.pkg.flagWritable c n = false) ∨ (width ≠ 8 ∧ ∀ g, src ≠ .core g) →
        discards (.flagWrite src c n width value none) (Reg.DSP_FLAG c n) ∧ discards (.flagAdd src c n width value) (Reg.DSP_FLAG_ADD c n)) ∧
      (∀ g, src = .core g → width ≠ 8 →
        Becomes (.flagWrite src c n width value none) s (s.pkg.registerFault s.env g (Reg.DSP_FLAG c n)) ∧
        Becomes (.flagAdd src c n width value) s (s.pkg.registerFault s.env g (Reg.DSP_FLAG_ADD c n))))

/-- R216: writing 1 to `DSP_CTX_FLAG_CLR` sets every flag of the context to zero when the context has no enabled queue; otherwise the write is
discarded and sets `DSP_CTX_FWERR`. Nothing else of registers or memory changes. -/
def Obligations.FlagClear : Prop :=
  ∀ (s : State) (src : Source) (c : Fin 8), s.pkg.working = true → s.pkg.reaches src = true →
    ((∀ q : Fin 64, s.pkg.queueCtx q = c → s.pkg.queueEnabled q = false) → Answers (.flagClr src c) s (fun t =>
      (∀ n : Fin 4096, t.pkg.flag c n = 0) ∧ (∀ k, (∀ n : Fin 4096, k ≠ Reg.DSP_FLAG c n) → t.pkg.reg k = s.pkg.reg k) ∧
      KeepsMem s t ∧ KeepsBlock s t)) ∧
    (∀ q : Fin 64, s.pkg.queueCtx q = c → s.pkg.queueEnabled q = true → Answers (.flagClr src c) s (fun t =>
      t.pkg.on (Reg.DSP_CTX_STATUS c) Fld.DSP_CTX_FWERR = true ∧ KeepsRegs [Reg.DSP_CTX_STATUS c] s t ∧ KeepsMem s t ∧ KeepsBlock s t))

/-! ### Registers, staging and the package network -/

/-- A write of a whole register acts by the access codes of its fields (Table 00-5): RW fields take the written bits, RW1C fields keep the bits not
written 1, LK fields take them when the protection tables grant the right and otherwise keep theirs while the attempt is logged with the source, the
offset and the value; every other field, register and byte stays. After earlier writes of the beat a bit may also stand as it was (R31, R81). At an
offset with no register a write changes nothing (R41). A write of a queue's pointer is its doorbell. A PCI Express port that the straps did not
make an endpoint delivers no command (R623, R627). -/
def Obligations.RegisterWriteCodes : Prop :=
  ∀ (s : State) (src : Source) (off value : Nat), s.pkg.working = true → s.pkg.reaches src = true →
    (∀ h, findReg off = some h → regLane h off = 0 → (h.spec.bytes = 4 ∨ h.spec.bytes = 8) → h.spec.name ∉ actingRegs → h.spec.stMask = 0 →
      (∀ g, src = .core g → hostMmioOk off h.spec.bytes = true) →
      let old := s.pkg.reg h.key
      let first : Prop := s.pkg.calm (sourceDie src off) h.key = true
      let v := BitVec.ofNat 64 (value % 2 ^ (8 * h.spec.bytes))
      let full := (old &&& ~~~BitVec.ofNat 64 (2 ^ (8 * h.spec.bytes) - 1)) ||| v
      let plain := (old &&& ~~~h.spec.rwMask ||| full &&& h.spec.rwMask) &&& ~~~(v &&& h.spec.w1cMask)
      let lk := h.spec.lkMask ||| h.spec.mask (fun a => a == .woLk)
      (lk = 0 → first → Answers (.registerWrite src off h.spec.bytes value) s (fun t =>
        t.pkg.reg h.key = plain ∧ KeepsRegs [h.key] s t ∧ KeepsMem s t ∧ KeepsBlock s t ∧ Logs s t s.pkg.raised)) ∧
      (lk = 0 → Answers (.registerWrite src off h.spec.bytes value) s (fun t =>
        (∀ i, (t.pkg.reg h.key).getLsbD i = plain.getLsbD i ∨ (t.pkg.reg h.key).getLsbD i = old.getLsbD i) ∧ KeepsRegs [h.key] s t ∧
        KeepsMem s t ∧ KeepsBlock s t)) ∧
      (lk ≠ 0 → first → s.pkg.granted src h full.toNat = true → Answers (.registerWrite src off h.spec.bytes value) s (fun t =>
        t.pkg.reg h.key = (plain &&& ~~~h.spec.lkMask) ||| (full &&& h.spec.lkMask) ∧ KeepsRegs [h.key] s t ∧ KeepsMem s t ∧ KeepsBlock s t ∧
        Logs s t s.pkg.raised)) ∧
      (lk ≠ 0 → first → s.pkg.granted src h full.toNat = false → Answers (.registerWrite src off h.spec.bytes value) s (fun t =>
        t.pkg.reg h.key = plain ∧ KeepsRegs [h.key] s t ∧ KeepsMem s t ∧ KeepsBlock s t ∧
        Logs s t (s.pkg.raised ++
          [⟨false, off / blockBytes, 0, 0, 3, 1, padTo 28 (s.pkg.accessor src ++ leBytes 8 off ++ leBytes 8 full.toNat)⟩])))) ∧
    (∀ w, w ≠ 8 → findReg off = none → (∀ g, src = .core g → hostMmioOk off w = true) → Becomes (.registerWrite src off w value) s s.pkg) ∧
    (∀ q : Fin 64,
      (s.pkg.calm (sourceDie src (Reg.DSP_QTAIL q)) (Reg.DSP_QTAIL q) = true →
        exec (.registerWrite src (Reg.DSP_QTAIL q) 4 value) s = exec (.tailDoorbell src q value) s) ∧
      (s.pkg.calm (sourceDie src (Reg.DSP_QCHEAD q)) (Reg.DSP_QCHEAD q) = true →
        exec (.registerWrite src (Reg.DSP_QCHEAD q) 4 value) s = exec (.headDoorbell src q value) s) ∧
      (s.pkg.calm (sourceDie src (Reg.DSP_QHEAD q)) (Reg.DSP_QHEAD q) = true →
        exec (.registerWrite src (Reg.DSP_QHEAD q) 4 value) s = exec (.qheadWrite src q value) s)) ∧
    (∀ (c : Instr) (x : Source), sourceOf c = some x → s.pkg.reaches x = false → exec c s = .next s)

/-- A staging write of a register that holds only ST fields puts the written word into the undercoat, opens it with the source's principal as holder and
passes one generation, when the bits differ from those the undercoat or the register holds and the principal may stage; the register in effect and
every other register and byte stay. Equal bits stage nothing (R558 to R560). -/
def Obligations.StagingWrites : Prop :=
  ∀ (s : State) (src : Source) (off value m : Nat) (h : RegHit), s.pkg.working = true → s.pkg.reaches src = true →
    s.pkg.calm (sourceDie src off) h.key = true →
    findReg off = some h → regLane h off = 0 → (h.spec.bytes = 4 ∨ h.spec.bytes = 8) → h.spec.name ∉ actingRegs → h.spec.stMask ≠ 0 →
    h.spec.rwMask = 0 → h.spec.w1cMask = 0 → h.spec.lkMask = 0 → h.spec.mask (fun a => a == .woLk) = 0 →
    (∀ g, src = .core g → hostMmioOk off h.spec.bytes = true) →
    let p := s.pkg
    let old := p.reg h.key
    let full := (old &&& ~~~BitVec.ofNat 64 (2 ^ (8 * h.spec.bytes) - 1)) ||| BitVec.ofNat 64 (value % 2 ^ (8 * h.spec.bytes))
    let base := match p.stagedAt h.key with | some x => x.value | none => old
    (full &&& h.spec.stMask ≠ base &&& h.spec.stMask → (∀ d, src ≠ .engine d) → (∀ l, src ≠ .fabric l) → p.principalOf src = some m →
      p.complexUp = true → p.mayStage m = true → p.staged.length < 4096 →
      Answers (.stagingWrite src off h.spec.bytes value) s (fun t =>
        t.pkg.stagedAt h.key = some ⟨off, h.spec.bytes, full, false⟩ ∧ t.pkg.ucState = ucOpen ∧ t.pkg.ucHolder = m % 16 ∧
        t.pkg.regNat Reg.MGT_UC_GEN = (p.regNat Reg.MGT_UC_GEN + 1) % 2 ^ 32 ∧
        KeepsRegs [Reg.MGT_UC_STATUS, Reg.MGT_UC_GEN] s t ∧ KeepsMem s t ∧ KeepsBlock s t)) ∧
    (full &&& h.spec.stMask = base &&& h.spec.stMask → Answers (.stagingWrite src off h.spec.bytes value) s (fun t =>
      t.pkg.staged = p.staged ∧ KeepsRegs [] s t ∧ KeepsMem s t ∧ KeepsBlock s t))

/-- A write of a trigger counter by the owner of its engine's partition sets the counter, or its low bytes when it is narrow; any other leaves it, and the
attempt is logged (R10, R416, Table 11-13). A host core's narrow write takes the access fault of R334. -/
def Obligations.CounterWrites : Prop :=
  ∀ (s : State) (src : Source) (en : Fin 32) (c : Fin 16384) (value : Nat), s.pkg.working = true → s.pkg.reaches src = true →
    let k := Reg.COL_TCNT en c
    (∀ w ∈ [1, 2, 4, 8], (w = 8 ∨ ∀ g, src ≠ .core g) → s.pkg.isOwner src (s.pkg.partOfEngines (en / 4)) = true →
      s.pkg.calm (sourceDie src k) k = true → Answers (.colTcntWrite src en c w value) s (fun t =>
      t.pkg.regNat k = s.pkg.regNat k / 2 ^ (8 * w) * 2 ^ (8 * w) + value % 2 ^ (8 * w) ∧ KeepsRegs [k] s t ∧ KeepsMem s t ∧ KeepsBlock s t)) ∧
    (s.pkg.isOwner src (s.pkg.partOfEngines (en / 4)) = false → Answers (.colTcntWrite src en c 8 value) s (fun t =>
      KeepsRegs [] s t ∧ KeepsMem s t ∧ KeepsBlock s t ∧ t.log.beatBuf ≠ s.log.beatBuf)) ∧
    (∀ g w, src = .core g → w ≠ 8 → Becomes (.colTcntWrite src en c w value) s (s.pkg.registerFault s.env g k))

/-- The operator's `FAB_PC_RESTORE` ends a port's quarantine: the port carries traffic on the lanes it has; nothing else changes, and the return is logged
(R411). From any other source it changes nothing and is logged; a port that is not quarantined stays as it is. -/
def Obligations.PortRestore : Prop :=
  ∀ (s : State) (src : Source) (port : Fin 36), s.pkg.working = true → s.pkg.reaches src = true →
    let k := Reg.FAB_PORT_STATUS port
    (s.pkg.isOperator src = true → s.pkg.portState port = 4 → Answers (.fabPcRestore src port) s (fun t =>
      t.pkg.portUp port = true ∧ t.pkg.fld k Fld.FAB_PS_LANES = s.pkg.fld k Fld.FAB_PS_LANES ∧ KeepsRegs [k] s t ∧ KeepsMem s t ∧ KeepsBlock s t ∧
      Logs s t (s.pkg.raised ++ [⟨false, portDie port, portUnit port, 0, 0xa, 3, padTo 28 (leBytes 4 port)⟩]))) ∧
    (s.pkg.isOperator src = true → s.pkg.portState port ≠ 4 → Becomes (.fabPcRestore src port) s s.pkg) ∧
    (s.pkg.isOperator src = false → Answers (.fabPcRestore src port) s (fun t =>
      KeepsRegs [] s t ∧ KeepsMem s t ∧ KeepsBlock s t ∧ t.log.beatBuf ≠ s.log.beatBuf))

/-- R464: arming a timed release sets `TIM_REL_ARM`, and `TIM_REL_LATE` when its beat, H rounded up to a multiple of 16 over 16, has already passed;
at that beat, or at the next when it has passed, the release adds 1 to the flag it names, host-writable or device-set, and clears `TIM_REL_ARM`.
Before it, nothing changes. No die above the complex's set the flag earlier in the beat (R215). -/
def Obligations.TimedReleases : Prop :=
  ∀ (s : State) (src : Source) (c : Fin 8), s.pkg.working = true → s.pkg.reaches src = true →
    let p := s.pkg
    let k := Reg.TIM_CTX_CFG c
    let beat := (p.regNat (Reg.TIM_REL_AT c) + 15) / 16
    let flag := p.fld k Fld.TIM_REL_FLAG
    (p.isOwner src (some c) = true → Answers (.timedReleaseArm src c) s (fun t => t.pkg.on k Fld.TIM_REL_ARM = true ∧
      t.pkg.on k Fld.TIM_REL_LATE = (p.on k Fld.TIM_REL_LATE || decide (beat ≤ s.clock.beat)) ∧ KeepsRegs [k] s t ∧ KeepsMem s t ∧ KeepsBlock s t)) ∧
    (p.isOwner src (some c) = false → Answers (.timedReleaseArm src c) s (fun t => KeepsRegs [] s t ∧ KeepsMem s t ∧ KeepsBlock s t)) ∧
    (p.on k Fld.TIM_REL_ARM = true → beat ≤ s.clock.beat + 1 → (p.flagAbove 30 c flag).all (fun x => !x.set) = true → Answers (.timedRelease c) s (fun t =>
      t.pkg.flag c flag = (p.flag c flag + 1) % 2 ^ 64 ∧ t.pkg.on k Fld.TIM_REL_ARM = false ∧
      KeepsRegs [Reg.DSP_FLAG c flag, k] s t ∧ KeepsMem s t ∧ KeepsBlock s t)) ∧
    (p.on k Fld.TIM_REL_ARM = false ∨ s.clock.beat + 1 < beat → Becomes (.timedRelease c) s p)

/-- R27: a packet that enters the network at its source's router, or arrives oldest on a link at any router, is delivered at its destination's router and
otherwise goes onto, or waits for, the link of the next hop: along its row until it stands in the destination's column, then along that column;
each hop moves one position. -/
def Obligations.DimensionOrder : Prop :=
  ∀ (s : State) (r : Fin 32) (k : NetPacket), s.pkg.working = true → routerOf r = r →
    ((s.pkg.net.arrival r k).isSome = true ∨ (routerOf k.src = r ∧ s.pkg.net.knows k = false)) →
    let a := meshPos r
    let b := meshPos k.dst
    let goes (dir : Nat) (next : Nat × Nat) : Prop :=
      Answers (.packageNetworkPacket r k none) s (fun t => (⟨4 * r.val + dir, k⟩ ∈ t.pkg.net.flight ∨ ⟨4 * r.val + dir, k⟩ ∈ t.pkg.net.held) ∧
        t.pkg.net.delivered = s.pkg.net.delivered ∧ KeepsRegs [] s t ∧ KeepsMem s t ∧ KeepsBlock s t) ∧
      ∃ x, hopFrom r dir = some x ∧ meshPos x = next
    (a.2 < b.2 → goes 0 (a.1, a.2 + 1)) ∧ (b.2 < a.2 → goes 1 (a.1, a.2 - 1)) ∧
    (a.2 = b.2 → a.1 < b.1 → goes 2 (a.1 + 1, a.2)) ∧ (a.2 = b.2 → b.1 < a.1 → goes 3 (a.1 - 1, a.2)) ∧
    (a = b → Answers (.packageNetworkPacket r k none) s (fun t => t.pkg.net.delivered = s.pkg.net.delivered ++ [k] ∧
      KeepsRegs [] s t ∧ KeepsMem s t ∧ KeepsBlock s t))

/-- A returned credit frees one place of a link; the oldest packet that waits for the link takes it at once, and other links keep theirs. A faulty
lane that awaits its link's idle cycle hands its traffic to the lowest spare that is neither used nor retired; with none left the link runs on
256 lanes. Registers and memory stay (R29, R485). A packet whose crossing meets a parity error goes the way it goes without, and the error is a class-8
event of the lane it crossed on (R30); what the event's entry says beside the lane is the model's choice (log entry 99). -/
def Obligations.LinkUpkeep : Prop :=
  ∀ (s : State) (r : Fin 32) (dir : Fin 4) (lane : Nat), s.pkg.working = true →
    let n := s.pkg.net
    let link := 4 * r.val + dir.val
    let keeps (t : State) : Prop := KeepsRegs [] s t ∧ KeepsMem s t ∧ KeepsBlock s t
    (∀ (k : NetPacket) (h : ParityHit), routerOf r = r → Answers (.packageNetworkPacket r k (some h)) s (fun t =>
      Answers (.packageNetworkPacket r k none) s (fun u => t.pkg.net = u.pkg.net) ∧
      KeepsRegs [Reg.RAS_CNT_DETECTED] s t ∧ KeepsMem s t ∧ KeepsBlock s t ∧
      Logs s t (s.pkg.raised ++ [⟨false, r, 0x7000 + 528 * h.dir.val + h.lane.val, 8, 1, 0,
        padTo 28 (leBytes 4 k.src.val ++ leBytes 4 k.dst.val)⟩]))) ∧
    (0 < n.usedOf link → n.held.find? (fun h => h.link == link) = none → Answers (.creditReturn r dir) s (fun t =>
      t.pkg.net.usedOf link = n.usedOf link - 1 ∧ t.pkg.net.flight = n.flight ∧ keeps t)) ∧
    (∀ h, 0 < n.usedOf link → n.usedOf link ≤ linkDepth link → n.held.find? (fun h => h.link == link) = some h → Answers (.creditReturn r dir) s
      (fun t => t.pkg.net.usedOf link = n.usedOf link ∧ t.pkg.net.flight = n.flight ++ [h] ∧ t.pkg.net.held = n.held.erase h ∧ keeps t)) ∧
    (let l := 4 * r.val + lane / 528
     let unit := (r.val, 0x7000 + lane)
     let phys := lane % 528
     let carries := n.lanes.find? (fun y => y.1 == l && y.2.2 == phys)
     let logical := match carries with | some y => y.2.1 | none => phys
     let spareUsed (x : Nat) : Bool := n.lanes.any (fun y => y.1 == l && y.2.2 == 512 + x) && 512 + x != phys
     let spareGone (x : Nat) : Bool := s.pkg.ras.retired.contains (r.val, 0x7000 + 528 * (lane / 528) + 512 + x)
     s.pkg.ras.waiting.contains unit = true → n.flight.any (fun h => h.link == l) = false → phys < 512 ∨ carries.isSome →
       (∀ x : Fin 16, spareUsed x = false → spareGone x = false → (∀ y : Fin 16, y < x → spareUsed y = true ∨ spareGone y = true) →
         Answers (.linkLaneRetirement r lane) s (fun t => (l, logical, 512 + x.val) ∈ t.pkg.net.lanes ∧
           t.pkg.ras.waiting = s.pkg.ras.waiting.erase unit ∧ keeps t)) ∧
       ((∀ y : Fin 16, spareUsed y = true ∨ spareGone y = true) → Answers (.linkLaneRetirement r lane) s (fun t =>
         l ∈ t.pkg.net.halved ∧ t.pkg.ras.waiting = s.pkg.ras.waiting.erase unit ∧ keeps t)))

/-! ### Descriptors start -/

/-- A start command does nothing when its queue's head is not the descriptor to start next (R206, R207); it ends a head whose deadline has passed with
0x21 (R226), and one with reserved bits or codes with 0x3F, cause 0x01 (R209); it leaves a head that is another command's. A line that the dispatcher
reads for it and that cannot be rebuilt ends it with cause 0x0A; a line that was rebuilt or delayed is told to the descriptor (R319, R321, R322);
which lines are read before the other checks is the model's choice (log entry 104). -/
def Obligations.StartChecks : Prop :=
  ∀ (s : State) (c : Instr) (q : Fin 64) (mine : List Byte → Bool), startOf c = some (q, mine) → s.pkg.working = true →
    (s.pkg.startable q = none → Becomes c s s.pkg) ∧
    (∀ d, s.pkg.startable q = some d → deadlinePassed s.env.tagHall d = true → Becomes c s (s.pkg.completeHead s.env q d 0x21 0)) ∧
    (∀ d, s.pkg.startable q = some d → deadlinePassed s.env.tagHall d = false → ownBad d = true →
      Becomes c s (s.pkg.completeHead s.env q d 0x3f 0x01)) ∧
    (∀ d, s.Starts q d → mine d = false → Becomes c s s.pkg) ∧
    (∀ d p o, s.Starts q d → mine d = true → s.pkg.readAhead s.env (s.pkg.queueCtx q) (startReads s.pkg (s.pkg.queueCtx q) d c) = (p, o) →
      (o = .failed → Becomes c s (p.completeHead s.env q d 0x3f 0x0a)) ∧
      (o ≠ .failed → Answers c s (fun t => ∀ r, t.pkg.runOf q = some r → ∃ r0 : Run, r = r0.told s.env.tag o)))

/-- An array descriptor that passes its checks is entered in the journal under its queue, with its bytes, sequence number and start beat, and its
partition's image and budget shares (R107, R142, R191, R490); a coat descriptor likewise. Of memory only the entry's place in the journal region
changes, of registers only the array's counters of the dies that take part (R108, R113). A failed check ends it with the check's status and reason
(R638). -/
def Obligations.ArrayAndCoatStarts : Prop :=
  ∀ (s : State) (q : Fin 64) (d : List Byte) (p : Pkg), s.Starts q d →
    let u : State := { s with pkg := p }
    let c := p.queueCtx q
    let runs (t : State) (shares : List Nat) : Prop :=
      ∃ r, t.pkg.runOf q = some r ∧ r.queue = q ∧ r.desc = d ∧ r.seq = p.head q ∧ r.ctx = c ∧ r.startBeat = s.env.tag ∧ r.finished = false ∧
        r.image = p.imageOf c d ∧ r.shares = shares ∧ r.jclass = p.journalClass c d ∧ r.reserved = p.clothLines c d
    (dKind d = 0 → s.Reads (.arrayDescriptor q) q d p →
      (p.arrayVerdict c d = none → Answers (.arrayDescriptor q) s (fun t =>
        runs t (budgetShares (p.partDies c).length (quenchedTensors (p.tensors c d (arrayHandles (dOp d))))) ∧
        KeepsRegs ((p.partDies c).flatMap (fun x => [Reg.ARR_CNT_KSPLIT x, Reg.ARR_CNT_BUSY x])) u t ∧
        KeepsMemBut (p.entryLines c) u t ∧ KeepsBlock s t)) ∧
      (∀ x, p.arrayVerdict c d = some x → Becomes (.arrayDescriptor q) s (p.completeHead s.env q d x.1 x.2))) ∧
    (dKind d = 1 → s.Reads (.coatDescriptor q) q d p →
      (p.coatVerdict c d = none → Answers (.coatDescriptor q) s (fun t =>
        runs t (List.replicate (p.partDies c).length 0) ∧ KeepsRegs [] u t ∧ KeepsMemBut (p.entryLines c) u t ∧ KeepsBlock s t)) ∧
      (∀ x, p.coatVerdict c d = some x → Becomes (.coatDescriptor q) s (p.completeHead s.env q d x.1 x.2)))

/-- An Anvil descriptor that passes its checks enters its Anvil's solve with the copied parameter block, and the Anvil's status shows the context and the
method in state 1, for each of the six methods, with the headers of its matrices copied (R257); one that fails ends with the check's status and
reason, and one whose workspace is too small reports the bytes it needs (R253, R260, R638). -/
def Obligations.SolveStarts : Prop :=
  ∀ (s : State) (q : Fin 64) (d : List Byte) (p : Pkg), s.Starts q d → dKind d = 2 →
    let c := p.queueCtx q
    let b := p.paramBytes c d 128
    let heads := (pMatA b :: (if pMatQ b = 0 then [] else [pMatQ b])).map (fun a => (a, (p.matHdr a).raw))
    let solve (i : Instr) (method : Nat) : Prop := anvMethod d = method → s.Reads i q d p →
      (p.anvVerdict c d b = none → Becomes i s
        (((((p.enterRun (p.newRun s.env q d b)).setSolve (anvUnit d) (newSolve q d heads)).setFld (Reg.ANV_STATUS (anvUnit d)) Fld.ANV_CTX c).setFld
          (Reg.ANV_STATUS (anvUnit d)) Fld.ANV_METHOD method).anvState (anvUnit d) 1)) ∧
      (∀ v, p.anvVerdict c d b = some v → v ≠ (0x3f, 0x43) → Becomes i s (p.completeHead s.env q d v.1 v.2)) ∧
      (p.anvVerdict c d b = some (0x3f, 0x43) → Becomes i s (p.complete s.env q (p.head q) d { Rec.plain 0x3f 0x43 s.env.tagHall with
        detail := p.workspaceNeeded d b (p.matHdr (pMatA b)) (if pMatQ b = 0 then none else some (p.matHdr (pMatQ b))) } none))
    solve (.cg q) 0 ∧ solve (.bicgstab q) 1 ∧ solve (.gmres q) 2 ∧ solve (.minres q) 3 ∧ solve (.lp q) 4 ∧ solve (.qp q) 5

/-- A fabric descriptor that passes its checks is entered in the journal and its requests go on as its engine's flows admit them; one that fails ends
with the check's status and reason (R385, R490, R638). -/
def Obligations.FabricStarts : Prop :=
  ∀ (s : State) (q : Fin 64) (d : List Byte) (p : Pkg), s.Starts q d → dKind d = 3 →
    let starts (i : Instr) (op : Nat) : Prop := dOp d % 16 = op → s.Reads i q d p →
      (p.fabVerdict (p.queueCtx q) d = none → Becomes i s ((p.enterRun (p.newRun s.env q d [])).settle s.env)) ∧
      (∀ v, p.fabVerdict (p.queueCtx q) d = some v → Becomes i s (p.completeHead s.env q d v.1 v.2))
    starts (.copy q) 0 ∧ starts (.atomic q) 1

/-- A collective of each of the seven kinds that passes its checks takes the communicator's next number and enters it (R434 to R438); one whose
handles or parameter block fail ends with that check's status and reason. -/
def Obligations.CollectiveStarts : Prop :=
  ∀ (s : State) (q : Fin 64) (d : List Byte) (p : Pkg), s.Starts q d → dKind d = 4 →
    let c := p.queueCtx q
    let b := p.paramBytes c d 16
    let starts (i : Instr) (kind : Nat) : Prop := dOp d % 16 = kind → s.Reads i q d p →
      let hs := if kind = 5 then [] else [0, 2]
      let ts := p.tensors c d hs
      let first := firstFail [p.handleVerdict c d false (fun _ _ => false) hs, p.paramVerdict c d b 16 (colParamBad kind b)]
      (∀ v, first = some v → Becomes i s (p.completeHead s.env q d v.1 v.2)) ∧
      (∀ m, first = none → p.colCause c d b = 0 →
        firstFail (p.nestVerdicts c d ts ++ [p.bandwidthVerdict c ts,
          if (p.ctxEngines c).any (fun en => p.dieLost (20 + en / 4)) then some (0x37, 0) else none]) = none →
        p.comm? c (opComm (p.colOp c d)) = some m → Becomes i s (p.enterCollective s.env q kind d b m))
    starts (.allreduce q) 0 ∧ starts (.reduceScatter q) 1 ∧ starts (.allgather q) 2 ∧ starts (.broadcast q) 3 ∧ starts (.alltoall q) 4 ∧
      starts (.barrier q) 5 ∧ starts (.ringPass q) 6

/-- RELEASE of an open communicator enters the journal and ends when none of its collectives is in flight here (R428); TRIG_ARM loads its entries
armed over the range they name, applies its binding words and ends at once, changing no register and no byte but those of its journal entry (R418,
R424, R490). -/
def Obligations.TriggerAndReleaseStarts : Prop :=
  ∀ (s : State) (q : Fin 64) (d : List Byte) (p : Pkg), s.Starts q d → dKind d = 4 → dJclass d = 2 →
    let c := p.queueCtx q
    (∀ m, dOp d % 16 = 8 → s.Reads (.release q) q d p → p.comm? c (opComm (dOp d)) = some m → m.queue = none →
      Becomes (.release q) s ((p.enterRun (p.newRun s.env q d [])).releaseFlow s.env q)) ∧
    (let b := p.paramBytes c d 64
     let en := tEngine b
     let imgs := (List.range (tCount b)).map (fun i => p.viewBytes (tImages b + 64 * i) 64)
     let ws := (List.range (tWordCount b)).map (fun i => leNat (p.viewBytes (tWords b + 4 * i) 4))
     let binds := ws.foldl (applyBind c en) p.binds
     dOp d % 16 = 9 → s.Reads (.trigArm q) q d p → p.paramVerdict c d b 64 (trigParamBad b) = none → tFirst b + tCount b ≤ 16384 → en ≤ 31 →
       (p.ctxEngines c).contains en = true → tWordCount b ≤ 256 →
       p.tableVerdict c [(tImages b, 64 * tCount b), (tWords b, 4 * tWordCount b)] = none → imgs.any entryBad = false → ws.any bindBad = false →
       (binds.filter (fun x => x.ctx == c)).length ≤ 256 →
       Answers (.trigArm q) s (fun t => t.pkg.binds = binds ∧
         t.pkg.trigs = p.trigs.filter (fun x => !(x.engine == en && tFirst b ≤ x.idx && x.idx < tFirst b + tCount b)) ++
           imgs.zipIdx.map (fun x => (⟨en, tFirst b + x.2, x.1⟩ : TrigEntry)) ∧
         (∃ r, t.pkg.runOf q = some r ∧ r.desc = d ∧ r.finished = true) ∧ KeepsRegs [] { s with pkg := p } t ∧
         KeepsMemBut (p.entryLines c) { s with pkg := p } t ∧ KeepsBlock s t))

/-- SETUP that passes its checks opens its communicator with the member table, window and scratch it names, tells every other member, and completes when
all of theirs have come (R426, R427). -/
def Obligations.SetupStarts : Prop :=
  ∀ (s : State) (q : Fin 64) (d : List Byte) (p : Pkg), s.Starts q d → dKind d = 4 → dOp d % 16 = 7 → s.Reads (.setup q) q d p →
    let e := s.env
    let c := p.queueCtx q
    let b := p.paramBytes c d 64
    p.paramVerdict c d b 64 (setupBad b) = none → p.tableVerdict c [(sTable b, 4 * sCount b)] = none → p.setupCause c d b = 0 →
      let crc := crc32c (p.viewBytes (sTable b) (4 * sCount b))
      let m : Comm :=
        { ctx := c, id := sId b, uid := sUid b, crc := crc, members := (p.memberWords b).map memberOf, slots := 0, window := sWindow b,
          scratch := sScratch b, scratchLen := sScratchLen b, report := sReport b, waitNs := 1000 * (if sWait b = 0 then 100000 else sWait b),
          next := 0, queue := some q, want := sSlots b, heard := [], since := e.hall }
      let p1 := (p.enterRun (p.newRun e q d b)).setComm m
      let x : ColPkt := ⟨0, 0, 0, 0, 0, 0, false, 7, 0, m.uid, leBytes 8 m.uid ++ leBytes 4 m.members.length ++ leBytes 4 crc⟩
      let told := (m.others p1.ownLoc).foldl (fun (u : Pkg) l => u.colSend e m (some q.val) l tySetup 0 (opDetour (dOp d)) x) p1
      Becomes (.setup q) s ((told.setupCheck e m).settle e)

/-- A checkpoint descriptor of each of the six kinds that passes its checks enters the journal and its engine: SAVE waits for its mask beat, RESTORE
reads its manifest first, CONNECT issues one set-up command for each queue, DISCONNECT waits for the connection's commands, BCAST_SEND digests
its blocks, and BCAST_RECV attaches to its parent (R512, R517, R528, R532, R533). -/
def Obligations.CheckpointStarts : Prop :=
  ∀ (s : State) (q : Fin 64) (d : List Byte) (p : Pkg), s.Starts q d → dKind d = 5 → ckKind d ≤ 5 →
    let e := s.env
    let c := p.queueCtx q
    let b := p.paramBytes c d 128
    let b64 := p.paramBytes c d 64
    let entered := p.enterRun (p.newRun e q d b)
    let with_ (r : CkRun) : Pkg := { entered with ckp := { entered.ckp with runs := entered.ckp.runs ++ [r] } }
    (ckKind d = 0 → s.Reads (.save q) q d p → p.ckVerdict c d b = none →
      let r : CkRun := ⟨q, ckEngine d, 0, 0, p.shardTable (leAt b 8 8) (leAt b 0x10 4), e.tagHall + 16, 0, [], [], leAt b 0x18 8, leAt b 0x14 4, [],
        0, false, [], 0⟩
      Becomes (.save q) s ((with_ r).showCk r c)) ∧
    (ckKind d = 1 → s.Reads (.restore q) q d p → p.ckVerdict c d b = none →
      let n := leAt b 0x10 4
      let r : CkRun := ⟨q, ckEngine d, 1, 1, p.shardTable (leAt b 8 8) n, 0, 0, [], [], 0, 0, [], 0, false, [], 0⟩
      Becomes (.restore q) s (((with_ r).ckPhase r c 1 (streamCmds q 1 manifestShard 0 (manifestLbas n) [manifestExt b])).ckFlow e q ckFuel)) ∧
    (ckKind d = 2 → s.Reads (.connect q) q d p → p.connectVerdict c d b64 = none →
      let n := leAt b64 0 1
      let p1 := ((p.enterRun (p.newRun e q d b64)).setConn n 1 (leAt b64 1 1) 0 c 0).addCmds
        ((List.range (1 + leAt b64 4 1)).map (fun i => ⟨0, q, 3, n, i, 0, 0, manifestShard, 0, [], 0, none⟩))
      Becomes (.connect q) s
        (((p1.setFld (Reg.CKP_STATUS (ckEngine d)) Fld.CKP_STATE 7).setFld (Reg.CKP_STATUS (ckEngine d)) Fld.CKP_CTX c).pumpStore e)) ∧
    (ckKind d = 3 → s.Reads (.disconnect q) q d p → dHasParam d = true → p.noHole (p.paramAddr c d) 64 = true → ckOpBad d = false →
      leAt b64 0 1 ≤ 63 →
      p.connBad d 2 (leAt b64 0 1) = false → (List.range 5).any (fun l => dCount d l != 1) = false → p.dieLost (28 + ckEngine d) = false →
      Becomes (.disconnect q) s ((((p.enterRun (p.newRun e q d b64)).setFld (Reg.CKP_STATUS (ckEngine d)) Fld.CKP_STATE 7).setFld
        (Reg.CKP_STATUS (ckEngine d)) Fld.CKP_CTX c).connFlow e q)) ∧
    (ckKind d = 4 → s.Reads (.bcastSend q) q d p → p.bcastVerdict true c d b = none → Becomes (.bcastSend q) s ((p.enterBcast e q true d b).bcastOpen e q)) ∧
    (∀ x, ckKind d = 5 → s.Reads (.bcastRecv q) q d p → p.bcastVerdict false c d b = none → (p.enterBcast e q false d b).bcast? q = some x →
      Becomes (.bcastRecv q) s ((p.enterBcast e q false d b).bcastAttach x))

/-- A hearth call that passes its checks runs (R228 to R230): COAT_LOAD of a whole valid image puts it into its slot on every die of the partition; the
three control routines append their lists to the target queue; RING_ATTN enters and takes its steps at beats; every other routine does its work in
each iteration of its nest and ends: GATHER writes the table's runs, SCATTER_ADD its target's sums, TOP_K the k largest, HALO_PACK and HALO_UNPACK copy,
those whose roundings no rule states write free values (what a rule leaves open of them: log entries 40 and 95); GEMM_GROUPED runs its groups in turn and
GEMM_EPILOGUE its operation, unless an output lies on masked pages: those are copied first (R518, R519). -/
def Obligations.HearthStarts : Prop :=
  ∀ (s : State) (q : Fin 64) (d : List Byte) (p : Pkg), s.Starts q d → dKind d = 6 → hearthIds.contains (hId d) = true →
    let e := s.env
    let c := p.queueCtx q
    let b (n : Nat) : List Byte := p.paramBytes c d n
    let ok (hs : List Nat) (n : Nat) (extra : List Verdict) : Prop := p.callVerdict c d hs n extra = none
    let works (i : Instr) (id : Nat) (hs : List Nat) (n : Nat) (extra : List Verdict) (ins : List Nat) (body : Pkg → Run → Nat → CallOut) : Prop :=
      hId d = id → s.Reads i q d p → (p.partDies c).any p.tilesHeld = false → ok hs n extra →
        let p1 := p.enterRun (p.newRun e q d (b n))
        ∀ r, p1.runOf q = some r → Becomes i s (p1.callWork e r ins body)
    (∀ im, hId d = 0x01 → s.Reads (.coatLoad q) q d p → (p.partDies c).any p.tilesHeld = false → ok [] 9 [] →
      let a := leAt (b 9) 0 8
      let slot := leAt (b 9) 8 1
      let h := leNat (p.viewBytes a 4)
      let n := if h % 256 = 0 ∨ h % 256 > 128 then 0x40 else imageBytes h
      let rd := (linesOf a n).foldl (fun (st : Pkg × List Nat) l =>
        let x := st.1.touchLine e (.descriptor q) l
        (x.1, if x.2 = .failed then st.2 ++ [l] else st.2)) (p, [])
      slot ≤ 0x3f → a % 64 = 0 → p.listVerdict c a 0x40 = none → p.listVerdict c a n = none → rd.2 = [] →
        parseImage (rd.1.viewBytes a n) = .inl im →
        Becomes (.coatLoad q) s ((rd.1.loadImage c slot im).enterRun ((p.newRun e q d (b 9)).done e))) ∧
    works (.rmsNorm q) 0x20 [0, 1, 2] 4 [] [0, 1] (freeCall [0, 1]) ∧ works (.layerNorm q) 0x21 [0, 1, 2, 3] 4 [] [0, 1, 3] (freeCall [0, 1, 3]) ∧
    works (.softmaxQ q) 0x22 [0, 2] 4 [] [0] (freeCall [0]) ∧
    works (.topK q) 0x30 [0, 2, 3] 4 [abortIf (leAt (b 4) 0 4 > 1024) 0x0c] [0] topCall ∧
    works (.haloPack q) 0x50 [0, 2] 20 [] [0] (haloCall false) ∧ works (.haloUnpack q) 0x51 [0, 2] 20 [] [0] (haloCall true) ∧
    (∀ t ix o : Tensor, p.tensors c d [0, 1, 2] = [(0, t), (1, ix), (2, o)] →
      works (.gather q) 0x31 [0, 1, 2] 0 [abortIf (ix.stored != .int32 || o.size 0 != t.size 0 || o.size 1 != ix.size 0) 0x04] [0, 1] gatherCall ∧
      works (.scatterAdd q) 0x32 [0, 1, 2] 0 [abortIf (ix.stored != .int32 || t.size 0 != o.size 0 || t.size 1 != ix.size 0) 0x04] [0, 1, 2]
        scatterCall) ∧
    (hId d = 0x40 → s.Reads (.ringAttn q) q d p → (p.partDies c).any p.tilesHeld = false → ok [0, 1, 2, 3] 16 [] →
      let p1 := p.enterRun (p.newRun e q d (b 16))
      ∀ r, p1.runOf q = some r → Becomes (.ringAttn q) s (p1.setRun r)) ∧
    (hId d = 0x100 → s.Reads (.enqList q) q d p → ok [] 24 [abortIf (leAt (b 24) 0 3 != 0 || leAt (b 24) 4 4 != 0 || leAt (b 24) 0x14 4 != 0) 0x0c] →
      Becomes (.enqList q) s (p.append e (p.newRun e q d (b 24)) (leAt (b 24) 3 1) [(leAt (b 24) 8 8, leAt (b 24) 0x10 4)] [])) ∧
    (hId d = 0x101 → s.Reads (.enqSelect q) q d p →
      ok [] 40 [abortIf (leAt (b 40) 0 2 ≥ 4096 || leAt (b 40) 2 1 > 2 || leAt (b 40) 4 4 != 0) 0x0c] →
      let holds := enqCompare (leAt (b 40) 2 1) (p.flag c (leAt (b 40) 0 2)) (leAt (b 40) 8 8)
      Becomes (.enqSelect q) s (p.append e (p.newRun e q d (b 40)) (leAt (b 40) 3 1)
        [if holds then (leAt (b 40) 0x10 8, leAt (b 40) 0x18 4) else (leAt (b 40) 0x20 8, leAt (b 40) 0x1c 4)] [])) ∧
    (hId d = 0x102 → s.Reads (.enqRepeat q) q d p →
      ok [] 32 [abortIf (leAt (b 32) 0 2 ≥ 4096 || leAt (b 32) 2 1 != 0 || leAt (b 32) 4 4 != 0 || leAt (b 32) 0x1c 4 != 0) 0x0c] →
      Becomes (.enqRepeat q) s (if p.flag c (leAt (b 32) 0 2) < leAt (b 32) 8 8
        then p.append e (p.newRun e q d (b 32)) (leAt (b 32) 3 1) [(leAt (b 32) 0x10 8, leAt (b 32) 0x18 4)] [d]
        else p.append e (p.newRun e q d (b 32)) (leAt (b 32) 3 1) [] [])) ∧
    (let gemm := leAt (b 8) 0 4
     let r := p.newRun e q d (b 8)
     hId d = 0x11 → s.Reads (.gemmEpilogue q) q d p → (p.partDies c).any p.tilesHeld = false →
      ok [0, 1, 2, 3] 8 [abortIf (gemm >>> 16 != 0 || bitsOf gemm 7 5 != 0 || gemm % 8 > 4 || leAt (b 8) 4 4 > 3) 0x0c,
        abortIf (arrayShapeBad (gemm % 8) (p.tensors c d [0, 1, 2]) || biasBad (p.tensorOf c d 2) (p.tensorOf c d 3)) 0x04] →
      (∀ u, p.callMasked r = some u → Becomes (.gemmEpilogue q) s u) ∧
      (p.callMasked r = none → ∀ x, (p.enterRun r).runOf q = some x → Becomes (.gemmEpilogue q) s ((p.enterRun r).epilogueWork e x))) ∧
    (let g := leAt (b 4) 0 4
     let tds := ((p.groupDescs c d).map (fun gd => (List.range 4).map (fun h => p.tableEntry c (dHandle gd h)))).flatten
     let r : Run := { p.newRun e q d (b (4 + 20 * g)) with extraTds := tds }
     hId d = 0x10 → s.Reads (.gemmGrouped q) q d p → (p.partDies c).any p.tilesHeld = false → p.groupedVerdict c d = none →
      (∀ u, p.callMasked r = some u → Becomes (.gemmGrouped q) s u) ∧
      (p.callMasked r = none → ∀ x, (p.enterRun r).runOf q = some x → Becomes (.gemmGrouped q) s ((p.enterRun r).groupedWork e x)))

/-! ### Descriptors are fetched, complete and expire -/

/-- The dispatcher fetches the head of an enabled queue that a doorbell covers, or the one behind a running head: its 128 bytes wait as the queue's
prefetched descriptor. A head whose slot is a hole, not ready or not owned, or fails, ends with 0x3F and the cause, and the fault is reported
(R201, R203). With nothing covered nothing happens. -/
def Obligations.DescriptorFetches : Prop :=
  ∀ (s : State) (q : Fin 64), s.pkg.working = true →
    let p := s.pkg
    let skip := if (p.runOf q).isSome then 1 else 0
    let sq := (p.head q + skip) % 2 ^ 32
    (p.queueEnabled q = false ∨ p.waitingCount q ≤ skip → Becomes (.descriptorFetch q) s p) ∧
    (p.queueEnabled q = true → skip < p.waitingCount q → (∀ x, (p.queueSt q).prefetch = some x → x.1 ≠ sq) →
      (∀ p1 bs, p.fetchSlot s.env q sq = (p1, none, bs) → Becomes (.descriptorFetch q) s (p1.setQueueSt q { p1.queueSt q with prefetch := some (sq, bs) })) ∧
      (∀ p1 cause bs, p.fetchSlot s.env q sq = (p1, some cause, bs) → p.runOf q = none → Becomes (.descriptorFetch q) s
        ((p1.ringReport q 2 (p.ringAddr q sq)).complete s.env q sq (List.replicate 128 0) (Rec.plain 0x3f cause s.env.tagHall) none)))

/-- A started descriptor whose work has ended and that owes no replay completes: its record is written, its signals and interrupt follow, HEAD advances,
and a refused or failed status halts the queue (R213, R236, R237); what a solve, a collective, a SAVE or a broadcast still held ends with it (R281, R428,
R522). One that still works, or none, leaves the block as it was. When the record's place
is not owned the record is withheld with its signals and interrupt: the queue is disabled with `DSP_Q_RINGERR`, HEAD names the descriptor, no
byte changes, and source 64 + c is raised (R203). -/
def Obligations.DescriptorCompletes : Prop :=
  ∀ (s : State) (q : Fin 64), s.pkg.working = true →
    let p := s.pkg
    (∀ x, p.runOf q = none → Becomes (.descriptorComplete q x) s p) ∧
    (∀ r x, p.runOf q = some r → (r.finished = false ∨ r.replayOn.isSome = true) → Becomes (.descriptorComplete q x) s p) ∧
    (∀ r, p.runOf q = some r → r.finished = true → r.replayOn = none →
      (let y := p.closeSolve s.env r
       let p1 := y.1.complete s.env q r.seq r.desc y.2.finalRecord (some y.2)
       (p1.queueSt q).flush = none → Becomes (.descriptorComplete q none) s (p1.sweep s.env q)) ∧
      (r.kind ≠ 2 → (p.queueSt q).flush = none → (p.dropRun q).rangeOwned (p.queueCtx q) (p.cplAddr q r.seq) 32 = true →
        Answers (.descriptorComplete q none) s (fun t => t.pkg.runOf q = none ∧ t.pkg.head q = (p.head q + 1) % 2 ^ 32 ∧
          (statusGroup r.finalRecord.status = 1 ∨ statusGroup r.finalRecord.status = 3 → t.pkg.halted q = true))) ∧
      (∀ x, Becomes (.descriptorComplete q (some x)) s
        (((p.copyFault s.env r.ctx (some q.val) (fun u => u.setNat (Reg.DSP_QHEAD q) 0) x).completeRun s.env q).sweep s.env q)) ∧
      (r.kind ≠ 2 → p.ckRun? q = none → (p.queueSt q).flush = none → (p.dropRun q).rangeOwned (p.queueCtx q) (p.cplAddr q r.seq) 32 = false → Answers (.descriptorComplete q none) s (fun t =>
        t.pkg.runOf q = none ∧ t.pkg.queueEnabled q = false ∧ t.pkg.on (Reg.DSP_QSTATUS q) Fld.DSP_Q_RINGERR = true ∧
        (∃ m ∈ t.pkg.irqs, m.src = 64 + p.queueCtx q) ∧ KeepsRegs [Reg.DSP_QCTRL q, Reg.DSP_QSTATUS q] s t ∧ KeepsMem s t ∧ KeepsBlock s t)))

/-- R226, R227: when the deadline of an unstarted head of an active queue has passed, the head completes with 0x21 DEADLINE and neither reads nor writes an
element; when that of a running descriptor other than an Anvil solve has passed, the descriptor runs on with LATE set and nothing else changes.
A deadline that has not passed, or of an Anvil solve, does nothing here. -/
def Obligations.Deadlines : Prop :=
  ∀ (s : State) (q : Fin 64), s.pkg.working = true →
    let p := s.pkg
    (∀ d, p.runOf q = none → p.headDesc q = some d → p.activeQueue q = true → p.ctxRuns (p.queueCtx q) = true → deadlinePassed s.env.tagHall d = true →
      Becomes (.deadlineExpiry q) s (p.complete s.env q (p.head q) d (Rec.plain 0x21 0 s.env.tagHall) none)) ∧
    (∀ r, p.runOf q = some r → r.kind ≠ 2 → deadlinePassed s.env.tagHall r.desc = true → Answers (.deadlineExpiry q) s (fun t =>
      t.pkg.runOf q = some { r with late := true } ∧ KeepsRegs [] s t ∧ KeepsMem s t ∧ KeepsBlock s t)) ∧
    (∀ r, p.runOf q = some r → r.kind = 2 ∨ deadlinePassed s.env.tagHall r.desc = false → Becomes (.deadlineExpiry q) s p) ∧
    (∀ d, p.runOf q = none → p.headDesc q = some d → deadlinePassed s.env.tagHall d = false → Becomes (.deadlineExpiry q) s p)

/-- R235: when every active queue of a context has been blocked for the stall time and no wait cycle is proved, the notice sets `DSP_CTX_STALLED`,
raises source 64 + c, logs the context and the hall time at which the blocking began, aborts nothing, and comes once a stall.
R234: at the 6,250th consecutive beat of a proved wait cycle every blocking head of the context completes with 0x33 WAIT_CYCLE, every active queue
halts, the report and `DSP_CTX_CYCLE` are written, the context's interrupt is raised and the abort is logged; before that beat, or without the
proof, nothing happens. -/
def Obligations.BlockedContexts : Prop :=
  (
    ∀ (s : State) (c : Fin 8) (since : Nat), s.pkg.working = true →
      let p := s.pkg
      let us := p.fld (Reg.DSP_CTX_STALL c) Fld.DSP_CTX_STALL_US
      let q := ((p.ctxQueues c).filter p.activeQueue).headD 0
      (p.ctxSt c).blockedSince = some since →
      (us ≠ 0 → (p.ctxSt c).stallNoticed = false → since + 1000 * us ≤ s.env.tagHall → p.waitCycle c = false → Answers (.stallNotice c) s (fun t =>
        t.pkg.on (Reg.DSP_CTX_STATUS c) Fld.DSP_CTX_STALLED = true ∧ (t.pkg.ctxSt c).stallNoticed = true ∧
        t.pkg.dsp.runs = p.dsp.runs ∧ t.pkg.dsp.queues = p.dsp.queues ∧ (∃ m ∈ t.pkg.irqs, m.src = 64 + c.val) ∧
        KeepsRegs [Reg.DSP_CTX_STATUS c] s t ∧ KeepsMem s t ∧ KeepsBlock s t ∧
        Logs s t (p.raised ++ [⟨false, p.leadDie c, dspUnit c, 9, 0xe, 3, padTo 28 (leBytes 4 c ++ leBytes 4 q ++ leBytes 8 (p.head q) ++ leBytes 8 since)⟩]))) ∧
      (us = 0 ∨ (p.ctxSt c).stallNoticed = true ∨ s.env.tagHall < since + 1000 * us ∨ p.waitCycle c = true → Becomes (.stallNotice c) s p)) ∧
  (
    ∀ (s : State) (c : Fin 8), s.pkg.working = true →
      let p := s.pkg
      let e := s.env
      ((p.ctxSt c).cycleCount < 6249 ∨ p.waitCycle c = false → Becomes (.waitCycleAbort c) s p) ∧
      (6249 ≤ (p.ctxSt c).cycleCount → p.waitCycle c = true →
        let qs := (p.ctxQueues c).filter p.activeQueue
        let p1 := ((p.writeReport c qs).setFld (Reg.DSP_CTX_STATUS c) Fld.DSP_CTX_NREPORT qs.length).setFld (Reg.DSP_CTX_STATUS c) Fld.DSP_CTX_CYCLE 1
        let p2 := (qs.map (fun q => (q, p.head q, p.headBytes q, p.cycleDetail c q))).foldl (fun (u : Pkg) h =>
          u.complete e h.1 h.2.1 h.2.2.1 { Rec.plain 0x33 0 e.tagHall with detail := h.2.2.2 } none) p1
        let p3 := qs.foldl (fun (u : Pkg) q => u.haltQueue q 0x33) p2
        Becomes (.waitCycleAbort c) s
          (((p3.event 9 (p.leadDie c) (dspUnit c) 0xe 4 (leBytes 4 c ++ leBytes 4 (qs.headD 0) ++ leBytes 8 (p.head (qs.headD 0)))).raiseIrq 9 (p.leadDie c)
            (64 + c)).restartCount c)))

/-! ### Tiles, solves and their retirements -/

/-- A tile's pass ends on its home die. A failed check commits nothing: memory stays, the attempt is counted as failed, the die replays (R117, R119). With the
operands read, a tile that is neither over threshold nor reheatable drains, and so does the reheat pass of one: a trap of its coat image ends the descriptor
with nothing committed (R170), a masked page makes the commit wait (R518), otherwise its stores are committed together with their flags and counts
(R117, R145). A pass for a tile of another die, one past the last, one committed already, one before its turn (R107, R222), or one that a test or a missing
K-split part holds back, changes nothing. -/
def Obligations.ArrayTileCommits : Prop :=
  ∀ (s : State) (die : Fin 8) (t : Nat) (r : Run), s.pkg.working = true → s.pkg.arrayRun die 0 = some r →
    let p := s.pkg
    let e := s.env
    let j := p.arrayJob r
    let x := r.tile t
    let k0 := if j.s > 1 && !x.reheat then (ksplitPart j.k j.s 0).2 else j.k
    let ready : Prop := j.dieOf t 0 = die ∧ t < dIters r.desc * j.tiles ∧ x.committed = false ∧ p.tilesHeld die = false ∧ j.inTurn r die t = true ∧
      (1 < j.s → x.reheat = false → j.partsIn x = true)
    (¬ ready → ∀ f, Becomes (.tileCommit die t f) s p) ∧
    (∀ fl, ready → Becomes (.tileCommit die t (some fl)) s
      ((p.arrCount die (Reg.ARR_CNT_BUSY die) (j.cycles (if x.reheat then .reheat else .narrow) k0 false)).failTile e r die t fl x.attempts
        (fun u => u.setTile { x with attempts := x.attempts + 1 }))) ∧
    (ready →
      let pl := j.place t
      let rd := p.touchPass e (.descriptor r.queue) j (r.origin 0 pl.iter) (r.origin 1 pl.iter) (r.origin 3 pl.iter) pl 0 k0 true
      let r1 := r.readOutcome e rd.2
      let p1 := rd.1.setRun r1
      let narrow := p1.narrowOf r1 j t
      let o := if x.reheat then p1.passOf r1 j .reheat t 0 j.k true else narrow
      let f := j.factor (if x.reheat then .reheat else .narrow) (p1.tensorScale j.a) (p1.tensorScale j.b)
      let ds := p1.drainStores r1 j die t o.accum f
      let hot := storeOver j.c ds.2
      (rd.2 = .failed → Becomes (.tileCommit die t none) s p1) ∧
      (rd.2 ≠ .failed → x.reheat = true → Becomes (.tileCommit die t none) s
        (p1.endDrain e r1 j die t { x with arrFlags := x.arrFlags ||| o.flags } o.accum f ds (j.cycles .reheat j.k false) false false)) ∧
      (rd.2 ≠ .failed → x.reheat = false → j.reheatable = false → Becomes (.tileCommit die t none) s
        (p1.endDrain e r1 j die t { x with arrFlags := x.arrFlags ||| o.flags, sats := o.sats, flushes := o.flushes, overT := hot } o.accum f ds
          (j.cycles .narrow k0 o.spread) o.spread hot)) ∧
      (rd.2 ≠ .failed → x.reheat = true ∨ j.reheatable = false →
        (ds.1.traps ≠ [] → Answers (.tileCommit die t none) s (fun u => KeepsMem { s with pkg := p1 } u ∧ KeepsBlock s u ∧
          ∃ y, u.pkg.runOf r.queue = some y ∧ y.stopped = true ∧ y.finished = true ∧ y.tiles = r1.tiles)) ∧
        (ds.1.traps = [] → p1.segsMasked (segmentsOf ds.2.bytes) = true → Answers (.tileCommit die t none) s (fun u =>
          ∃ y, u.pkg.runOf r.queue = some y ∧ y.tiles = r1.tiles)) ∧
        (ds.1.traps = [] → p1.segsMasked (segmentsOf ds.2.bytes) = false → Answers (.tileCommit die t none) s (fun u =>
          ∃ y, u.pkg.runOf r.queue = some y ∧ (y.tile t).committed = true))))

/-- A reheatable tile whose narrow pass or store quench is over threshold waits until every earlier tile of its die is settled; then it is reheated while its
die's share lasts, storing nothing, and afterwards its narrow result is kept and stored (R138 to R145). -/
def Obligations.ReheatOrder : Prop :=
  ∀ (s : State) (die : Fin 8) (t : Nat) (r : Run), s.pkg.working = true → s.pkg.arrayRun die 0 = some r →
    let p := s.pkg
    let e := s.env
    let j := p.arrayJob r
    let x := r.tile t
    let pl := j.place t
    let k0 := if j.s > 1 then (ksplitPart j.k j.s 0).2 else j.k
    let rd := p.touchPass e (.descriptor r.queue) j (r.origin 0 pl.iter) (r.origin 1 pl.iter) (r.origin 3 pl.iter) pl 0 k0 true
    let r1 := r.readOutcome e rd.2
    let p1 := rd.1.setRun r1
    let o := p1.narrowOf r1 j t
    let f := j.factor .narrow (p1.tensorScale j.a) (p1.tensorScale j.b)
    let ds := p1.drainStores r1 j die t o.accum f
    let y : TileSt := { x with arrFlags := x.arrFlags ||| o.flags, sats := o.sats, flushes := o.flushes, overT := o.overT }
    let reheats (z : TileSt) : Prop := Answers (.tileCommit die t none) s (fun u =>
      u.pkg.runOf r.queue = some ((r1.chargeShare (j.rankOf t)).setTile { z with reheat := true, overT := true, attempts := 0, parts := [] }) ∧
      KeepsMem { s with pkg := p1 } u ∧ KeepsBlock s u)
    let room : Prop := r1.shares.getD (j.rankOf t) 0 ≠ 0
    let keeps (z : TileSt) : Prop := Becomes (.tileCommit die t none) s
      (p1.endDrain e r1 j die t z o.accum f ds (j.cycles .narrow k0 o.spread) o.spread true)
    j.dieOf t 0 = die → t < dIters r.desc * j.tiles → x.committed = false → p.tilesHeld die = false → j.inTurn r die t = true →
    (1 < j.s → j.partsIn x = true) → x.reheat = false → rd.2 ≠ .failed → j.reheatable = true →
    (o.overT = true →
      (j.settled r1 t = false → Becomes (.tileCommit die t none) s p) ∧ (j.settled r1 t = true → room → reheats y) ∧
      (j.settled r1 t = true → ¬ room → keeps y)) ∧
    (o.overT = false → storeOver j.c ds.2 = true → ds.1.traps = [] →
      (j.settled r1 t = false → Becomes (.tileCommit die t none) s p) ∧
      (j.settled r1 t = true → room → reheats { y with
        arrFlags := y.arrFlags ||| ds.2.qflags, coatFlags := ds.1.flags ||| ds.2.flags, sats := y.sats + ds.2.sats, flushes := y.flushes + ds.2.flushes }) ∧
      (j.settled r1 t = true → ¬ room → keeps { y with overT := true }))

/-- A K-split part's records reach the home die, which then waits for the rest (R109, R110, R135); a failed check replays that part alone (R117). A shadow
pass stores nothing: its bin joins the die's stage record and the tile owes no further shadow pass (R149 to R152). Registers stay but for the busy counts. -/
def Obligations.PartsAndShadows : Prop :=
  ∀ (s : State) (die : Fin 8) (t part : Nat) (r : Run), s.pkg.working = true → s.pkg.arrayRun die 0 = some r → s.pkg.tilesHeld die = false →
    let p := s.pkg
    let e := s.env
    let j := p.arrayJob r
    let x := r.tile t
    let pl := j.place t
    let home := j.dieOf t 0
    (1 < j.s → 0 < part → part < j.s → j.dieOf t part = die → t < dIters r.desc * j.tiles → x.committed = false → x.reheat = false →
      j.inTurn r die t = true → x.parts.any (fun (q : TilePart) => q.part = part) = false →
      let ks := ksplitPart j.k j.s part
      (∀ fl, Becomes (.ksplitRecord die t part (some fl)) s
        ((p.arrCount die (Reg.ARR_CNT_BUSY die) (j.cycles .narrow ks.2 false)).failTile e r die t fl x.attempts
          (fun u => u.setTile { x with attempts := x.attempts + 1 }))) ∧
      (let rd := p.touchPass e (.descriptor r.queue) j (r.origin 0 pl.iter) (r.origin 1 pl.iter) (r.origin 3 pl.iter) pl ks.1 ks.2 false
       let r1 := r.readOutcome e rd.2
       let p1 := rd.1.setRun r1
       let o := p1.passOf r1 j .narrow t ks.1 ks.2 false
       rd.2 ≠ .failed → Answers (.ksplitRecord die t part none) s (fun u => u.pkg.runOf r.queue =
         some (r1.setTile { x with parts := x.parts ++ [⟨part, o.accum.record (o.flags ||| o.accum.nvFlag) o.overT, o.sats, o.flushes⟩] }) ∧
         KeepsRegs [Reg.ARR_CNT_BUSY die, Reg.ARR_CNT_BUSY home] { s with pkg := p1 } u ∧ KeepsMem { s with pkg := p1 } u ∧ KeepsBlock s u))) ∧
    (home = die → x.committed = true → x.shadowDone = false → j.shadowed t = true →
      (∀ fl, Becomes (.shadowPassEnd die t (some fl)) s
        ((p.arrCount die (Reg.ARR_CNT_BUSY die) (j.cycles .shadow j.k false)).failTile e r die t fl x.shadowAttempts
          (fun u => u.setTile { x with shadowAttempts := x.shadowAttempts + 1 }))) ∧
      (let rd := p.touchPass e (.descriptor r.queue) j (r.origin 0 pl.iter) (r.origin 1 pl.iter) (r.origin 3 pl.iter) pl 0 j.k true
       let r1 := r.readOutcome e rd.2
       let p1 := rd.1.setRun r1
       let o := p1.passOf r1 j .shadow t 0 j.k true
       let f := j.factor .shadow (p1.tensorScale j.a) (p1.tensorScale j.b)
       let ys := (x.result.map (fun a => (a.cells.flatten).map (fun c => (c.tag, ((a.value c).mul x.factor).1)))).getD []
       let zs := (o.accum.cells.flatten).map (fun c => (c.tag, ((o.accum.value c).mul f).1))
       let both := (ys.zip zs).filter (fun w => w.1.1 = 0 ∧ w.2.1 = 0)
       let bin := shadowBin (both.map (fun w => w.1.2)) (both.map (fun w => w.2.2))
       let stg := r1.stageOf die
       rd.2 ≠ .failed → Answers (.shadowPassEnd die t none) s (fun u => u.pkg.runOf r.queue =
         some (((r1.setTile { x with shadowDone := true }).setStage { stg with shadows := stg.shadows + 1, bins := (match bin with | some b => stg.bins ++ [b] | none => stg.bins) }).closeIf
           e (dIters r.desc * j.tiles) j.shadowed) ∧
         KeepsRegs [Reg.ARR_CNT_BUSY die] { s with pkg := p1 } u ∧ KeepsMem { s with pkg := p1 } u ∧ KeepsBlock s u)))

/-- A coat tile starts on an idle die in its turn: the die takes the tile with its latency-check mode, and its status shows the program, the context and
state 2 (R161, R171, Table 05-12); every register and byte stays. While a tile is on the die another start changes nothing. A failed check of the tile leaves
the die idle and replays the tile from its inputs (R195); a trap ends the descriptor (R170); otherwise the tile's outputs are committed together. -/
def Obligations.CoatTiles : Prop :=
  ∀ (s : State) (die : Fin 8) (t : Nat) (ri : Run × CoatImage), s.pkg.working = true → s.pkg.coatRun die = some ri → s.pkg.tilesHeld die = false →
    let p := s.pkg
    let r := ri.1
    (assoc? p.coatNow die = none → p.coatDie r t = die → t < dIters r.desc * coatTilesOf r.coatOut → (r.tile t).committed = false →
      r.coatTurn t = true →
      Answers (.coatTileStart die t) s (fun u => assoc? u.pkg.coatNow die = some ⟨r.queue, t, p.on (Reg.COAT_CTRL die) Fld.COAT_LATCHK⟩ ∧
        (∀ w, p.runOf r.queue = some r →
          let v := u.pkg.coatStatus s.env die w
          getField v Fld.COAT_CUR_PROG = bitsOf (dOp r.desc) 15 8 % 256 ∧ getField v Fld.COAT_STATE = 2 ∧ getField v Fld.COAT_CTX = r.ctx % 8) ∧
        KeepsRegs [] s u ∧ KeepsMem s u ∧ KeepsBlock s u)) ∧
    (∀ n, assoc? p.coatNow die = some n → Becomes (.coatTileStart die t) s p) ∧
    (r.coatTurn t = false → Becomes (.coatTileStart die t) s p) ∧
    (∀ n, assoc? p.coatNow die = some n → n.t = t → n.queue = r.queue →
      (∀ fl, Becomes (.coatTileCommit die t (some fl)) s
        ((p.coatIdle die).failTile s.env r die t fl (r.tile t).attempts (fun u => u.setTile { u.tile t with attempts := (u.tile t).attempts + 1 }))) ∧
      (let pl := coatPlace r.coatOut t
       let rd := ([0, 1].filter ri.2.readsInput).foldl (fun (st : Pkg × LineOutcome) h =>
         let y := st.1.touchCoat s.env (.descriptor r.queue) (r.tensor h) (r.origin h pl.iter) pl
         (y.1, st.2.join y.2)) (p, LineOutcome.ok)
       let r1 := r.readOutcome s.env rd.2
       let p1 := rd.1.setRun r1
       let inputs := [0, 1].map (fun h => if ri.2.readsInput h then
         coatInput (r.tensor h) (p1.tensorScale (r.tensor h)) (p1.inputByte r1 false) (r.origin h pl.iter) pl else [])
       let view : TileView := { rows := pl.rows, cols := pl.lanes, banks := [], unit0 := 0, unit1 := 0, factor := .fin false 1 1, level := p1.numLevel, inputs := inputs }
       let dr := drainTile (some ri.2) view false n.latchk
       let p2 := p1.countDrain die (some ri.2)
       let s2 := p2.coatStores r1 ri.2 pl 2 p2.free dr.stores
       let s3 := p2.coatStores r1 ri.2 pl 3 (p2.free + s2.free) dr.stores
       (rd.2 = .failed → Becomes (.coatTileCommit die t none) s ((rd.1.coatIdle die).setRun r1)) ∧
       (rd.2 ≠ .failed → dr.traps ≠ [] → Becomes (.coatTileCommit die t none) s
         (p2.trapTile s.env r1 die t (bitsOf (dOp r.desc) 15 8) dr.traps)) ∧
       (rd.2 ≠ .failed → dr.traps = [] → Becomes (.coatTileCommit die t none) s
         (((p2.drawFree (s2.free + s3.free)).2).commitCoat s.env r1 die t dr.flags s2 s3)) ∧
       (rd.2 ≠ .failed → dr.traps = [] → p2.segsMasked (segmentsOf s2.bytes ++ segmentsOf s3.bytes) = false →
         Answers (.coatTileCommit die t none) s (fun u => assoc? u.pkg.coatNow die = none ∧
           ∃ y, u.pkg.runOf r.queue = some y ∧ (y.tile t).committed = true))))

/-- A faulty column, coat lane or Anvil lane leaves service at its boundary. A column's or lane's place goes to the first spare that is neither in use nor
retired: its map entry turns valid with the logical index and the die's free spares fall by 1 (R120, R196); with no spare left only the wait ends. An
Anvil loses one lane of the 128 or 16, never below 120 and 14 (R285). With nothing waiting nothing changes. -/
def Obligations.RetirementsAtBoundary : Prop :=
  ∀ (s : State) (die : Fin 8) (h : Fin 4), s.pkg.working = true →
    let p := s.pkg
    let retires (c : Instr) (kind : Nat) (map : Nat → Nat) (valid col : Field) (k : Nat) (free : Field) : Prop :=
      (p.waitingUnit die kind = none → Becomes c s p) ∧
      (∀ u sp, p.waitingUnit die kind = some u → u.2 % 4096 < 512 → p.freeSpare die kind map valid = some sp →
        Answers c s (fun t => t.pkg.on (map sp) valid = true ∧ t.pkg.fld (map sp) col = u.2 % 4096 ∧
          t.pkg.fld k free = (p.fld k free - 1) % 2 ^ (free.hi + 1 - free.lo) ∧ t.pkg.ras.waiting = p.ras.waiting.erase u ∧
          KeepsRegs [map sp, k] s t ∧ KeepsMem s t ∧ KeepsBlock s t)) ∧
      (∀ u, p.waitingUnit die kind = some u → u.2 % 4096 < 512 → p.freeSpare die kind map valid = none →
        Answers c s (fun t => t.pkg.ras.waiting = p.ras.waiting.erase u ∧ KeepsRegs [] s t ∧ KeepsMem s t ∧ KeepsBlock s t))
    retires (.columnRetirement die) 1 (Reg.ARR_COLMAP die) Fld.ARR_MAP_VALID Fld.ARR_MAP_COL (Reg.ARR_STATUS die) Fld.ARR_SPARES_FREE ∧
    (assoc? p.coatNow die = none →
      retires (.laneRetirement die) 3 (Reg.COAT_LANEMAP die) Fld.COAT_MAP_VALID Fld.COAT_MAP_LANE (Reg.COAT_STATUS die) Fld.COAT_SPARES_FREE) ∧
    (let k := Reg.ANV_STATUS h
     let lane := p.ras.waiting.find? (fun u => u.1 == 16 + h.val && (u.2 / 4096 == 0xa || u.2 / 4096 == 0xb))
     (lane = none → Becomes (.anvilLaneRetirement h) s p) ∧
     (∀ u, lane = some u → Answers (.anvilLaneRetirement h) s (fun t =>
       t.pkg.fld k Fld.ANV_LANES = (if u.2 / 4096 = 0xa then max 120 (p.fld k Fld.ANV_LANES - 1) else p.fld k Fld.ANV_LANES) ∧
       t.pkg.fld k Fld.ANV_DLANES = (if u.2 / 4096 = 0xa then p.fld k Fld.ANV_DLANES else max 14 (p.fld k Fld.ANV_DLANES - 1)) ∧
       t.pkg.ras.waiting = p.ras.waiting.erase u ∧ KeepsRegs [k] s t ∧ KeepsMem s t ∧ KeepsBlock s t)))

/-- A failed check stops a solve wherever it is, to be replayed from its descriptor (R284). The first setup phase ends the solve with the scan's cause or
takes its inputs, the second forms a preconditioner, the last the first residual; each goes on, is retried once with a raised γ, or ends with
0x25 (R249, R250, R252, R257, R267). An Anvil with no solve that may work answers each of these with no change. -/
def Obligations.SolveSetup : Prop :=
  ∀ (s : State) (h : Fin 4), s.pkg.working = true →
    let p := s.pkg
    let e := s.env
    (p.solveRun h = none → ∀ f, Becomes (.setupPhaseCommit h f) s p ∧ Becomes (.iterationCommit h f) s p ∧ Becomes (.solveReturnEnd ⟨h, f⟩) s p) ∧
    (∀ (v : AnvSolve) (r : Run), p.solveRun h = some (v, r) →
      (∀ fl, v.ended = none → v.phase < v.phases → Becomes (.setupPhaseCommit h (some fl)) s (p.failSolve e h v fl)) ∧
      (∀ fl, v.ended = none → v.phases ≤ v.phase → Becomes (.iterationCommit h (some fl)) s (p.failSolve e h v fl)) ∧
      (∀ fl st, v.ended = some st → Becomes (.solveReturnEnd ⟨h, some fl⟩) s (p.failSolve e h v fl)) ∧
      (v.ended = none → v.phase < v.phases →
        (v.phase = 0 →
          let ms := v.heads.map (fun x => MatHdr.mk x.1 x.2)
          let a := ms.headD ⟨0, []⟩
          let rd := ms.foldl (fun (st : Pkg × LineOutcome) m => let y := st.1.touchMat e (.descriptor r.queue) m; (y.1, st.2.join y.2))
            (p.touchInputs e r (solveInputs r.desc))
          let p1 := rd.1
          let r1 := r.readOutcome e rd.2
          let ki := solveInfo v r 0x3f
          let y := p1.reportSolve e h v { r1 with undef := false }
          (rd.2 = .failed → Becomes (.setupPhaseCommit h none) s (y.1.setRun y.2)) ∧
          (∀ cause, rd.2 ≠ .failed → p1.scanCause r a ms[1]? = some cause → Becomes (.setupPhaseCommit h none) s
            (((p1.setRun { r1.abort e.tag cause with finished := true, endBeat := e.tag, kindInfo := ki.1, detail := ki.2 }).dropSolve h).scratch e r)) ∧
          (rd.2 ≠ .failed → p1.scanCause r a ms[1]? = none →
            (∀ g, v.attempt (p1.scanSolve r a ms[1]?) = .retry g → Becomes (.setupPhaseCommit h none) s (p1.retrySolve h v g)) ∧
            (∀ d, v.attempt (p1.scanSolve r a ms[1]?) = .range d → Becomes (.setupPhaseCommit h none) s
              (((p1.setRun r1).setSolve h { v with outs := d.2 }).endSolve e h 0x25)) ∧
            (∀ d w, v.attempt (p1.scanSolve r a ms[1]?) = .done d w → Becomes (.setupPhaseCommit h none) s
              ((p1.commitSolve e h r1 { v with key := p1.solveKey r ms, phase := 1, data := d.1, outs := d.2 } w).anvState h 1)))) ∧
        (v.phase ≠ 0 → v.phase = v.phases - 1 →
          (∀ g, v.attempt (v.first r) = .retry g → ¬ (v.phase = 1 ∧ v.phases = 3) → Becomes (.setupPhaseCommit h none) s (p.retrySolve h v g)) ∧
          (∀ t, v.attempt (v.first r) = .range t → ¬ (v.phase = 1 ∧ v.phases = 3) → Becomes (.setupPhaseCommit h none) s (p.endSolve e h 0x25)) ∧
          (∀ t w, v.attempt (v.first r) = .done t w → ¬ (v.phase = 1 ∧ v.phases = 3) → Becomes (.setupPhaseCommit h none) s
            ((p.commitSolve e h r { (v.afterStep t) with phase := v.phases, resid0 := t.report.f64 } w).anvState h 2))) ∧
        (v.phase = 1 → v.phases = 3 →
          let form : AnvM AnvFactor := do
            formFactor (anvPc r.desc) (pFloor r.params) (pBlock r.params) (pCheb r.params) (pSca r.params 0x40 ⟨0, 0⟩) (pSca r.params 0x48 ⟨0, 0⟩)
              (← v.data.a.rows.mapM (fun x => mergeCols x.es))
          (∀ g, v.attempt form = .retry g → Becomes (.setupPhaseCommit h none) s (p.retrySolve h v g)) ∧
          (∀ y, v.attempt form = .range y → Becomes (.setupPhaseCommit h none) s (p.endSolve e h 0x25)) ∧
          (∀ y w, v.attempt form = .done y w → Becomes (.setupPhaseCommit h none) s
            ((p.commitSolve e h r { v with phase := 2, factor := y } w).anvState h 1)))))

/-- An iteration of an unfinished solve is retried once with a raised γ when it overflows (R249); it ends the solve, committing nothing of the iteration, when
it needs more range than a retry gives, with 0x25, or breaks down, with 0x27 (R250, R265), or with 0x21 where a soft expiry was sampled before (R276); or it
commits its vectors and flags together and counts itself, and then the tests end the solve with their status, at the iteration limit with 0x26, after a
soft expiry with 0x21, or let it go on (R252, R262, R263, R273 to R279). -/
def Obligations.SolveIterates : Prop :=
  ∀ (s : State) (h : Fin 4) (v : AnvSolve) (r : Run), s.pkg.working = true → s.pkg.solveRun h = some (v, r) → v.phases ≤ v.phase → v.ended = none →
    let p := s.pkg
    let e := s.env
    (∀ g, v.attempt (v.iterate r) = .retry g → Becomes (.iterationCommit h none) s (p.retrySolve h v g)) ∧
    (∀ y, v.attempt (v.iterate r) = .range y → Becomes (.iterationCommit h none) s (p.endSolve e h (if v.soft then 0x21 else 0x25))) ∧
    (∀ w, v.attempt (v.iterate r) = .done none w → Becomes (.iterationCommit h none) s (p.endSolve e h (if v.soft then 0x21 else 0x27))) ∧
    (∀ t w, v.attempt (v.iterate r) = .done (some t) w →
      Becomes (.iterationCommit h none) s (p.commitIteration e h r v t w) ∧
      Answers (.iterationCommit h none) s (fun u => ∃ v1 : AnvSolve, u.pkg.solve h = some v1 ∧ v1.iters = v.iters + 1 ∧ v1.vars = t.vars ∧ v1.outs = t.outs ∧
        v1.lastIter = e.tag ∧ v1.gam = w.gam ∧ v1.again = false ∧
        v1.ended = if v.soft then some 0x21 else match t.ends with
          | some st => some st
          | none => if v.iters + 1 = pMaxit r.params then some 0x26 else none))

/-- Expiry of a running solve's deadline marks the run late. In setup the solve ends with 0x24 and in an iteration, when it is hard or a commit fell in the same
beat, with 0x21; a soft one lets the running iteration commit first, in state 4; one sampled in the beat of the last iteration's commit ends it with 0x21 (R275
to R279). The return writes the vectors and the result record, then the run is done and the Anvil is free (R280 to R282). -/
def Obligations.SolveEnds : Prop :=
  ∀ (s : State) (h : Fin 4) (v : AnvSolve) (r : Run), s.pkg.working = true → s.pkg.solve h = some v → s.pkg.runOf v.queue = some r →
    let p := s.pkg
    let e := s.env
    let late : Run := { r with late := true }
    let p1 := p.setRun late
    (deadlinePassed e.tagHall r.desc = false → Becomes (.anvilDeadlineExpiry h) s p) ∧
    (deadlinePassed e.tagHall r.desc = true → v.ended = none → r.replayOn = none →
      (v.phase < v.phases → Becomes (.anvilDeadlineExpiry h) s (p1.endSolve e h 0x24)) ∧
      (v.phases ≤ v.phase → v.soft = false → e.tag ≤ v.lastCommit ∨ dHard r.desc = true → Becomes (.anvilDeadlineExpiry h) s (p1.endSolve e h 0x21)) ∧
      (v.phases ≤ v.phase → v.soft = false → v.lastCommit < e.tag → dHard r.desc = false →
        Becomes (.anvilDeadlineExpiry h) s ((p1.setSolve h { v with soft := true }).anvState h 4)) ∧
      (v.phases ≤ v.phase → v.soft = true → Becomes (.anvilDeadlineExpiry h) s p1)) ∧
    (deadlinePassed e.tagHall r.desc = true → v.ended = none → r.replayOn.isSome = true → Becomes (.anvilDeadlineExpiry h) s p1) ∧
    (∀ st, deadlinePassed e.tagHall r.desc = true → v.ended = some st → Becomes (.anvilDeadlineExpiry h) s
      (if st = 0x26 ∧ v.endTag = e.tag ∧ r.late = false then p1.setRun (late.raise e.tag 0x21) else p1)) ∧
    (p.solveRun h = some (v, r) → v.ended = none → ∀ f, Becomes (.solveReturnEnd ⟨h, f⟩) s p) ∧
    (∀ code, p.solveRun h = some (v, r) → v.ended = some code →
      let w := (returnHandles v r.desc).foldl (fun (st : Pkg × Run × Nat) x =>
        let y := st.1.returnVector st.2.1 v x
        let z := st.1.routineStore e st.2.1 x [(x, y.1)]
        (z.1, z.2, st.2.2 ||| y.2)) (p, r, 0)
      let r1 := w.2.1
      let p2 := if code = 0x21 ∨ code = 0x24 ∨ chooseStatus r1.statuses = 0x21 then w.1.anvCount h (Reg.ANV_CNT_STOP h) 1 else w.1
      let y := p2.reportSolve e h v r1
      Becomes (.solveReturnEnd ⟨h, none⟩) s ((y.1.setRun { y.2.done e with flags := r1.flags ||| w.2.2 }).commitAnvFlags h r.ctx w.2.2) ∧
      Answers (.solveReturnEnd ⟨h, none⟩) s (fun u => u.pkg.solve h = none ∧
        ∃ z, u.pkg.runOf v.queue = some z ∧ z.finished = true ∧ z.kindInfo = (solveInfo v r1 (chooseStatus r1.statuses)).1))

/-! ### Memory -/

/-- A memory request at an address of no valid, ready region is answered a hole (R40, R296). One of a partition without HBM bandwidth is refused 0x11: of the
fabric or of a descriptor with the refusal counted, of a core with its access fault (R312). A fabric request that finds 256 waiting is refused 0x10 (R311).
Any other enters its stack's controller behind those that wait, marked and served there by its class (R307 to R309, R319), and in stash it is served at
once. A parity error in the controller's buffer makes every descriptor with a request in it owe a replay (R292). A request across a line's end is none. -/
def Obligations.MemoryRequests : Prop :=
  ∀ (s : State) (req : MemReq), s.pkg.working = true →
    let p := s.pkg.markBad req.badBytes
    let e := s.env
    let u := memUser req.agent
    let op : MemOp := match req.write with | some bs => .write bs | none => .read
    let len := match req.write with | some bs => bs.length | none => req.len
    let ends (q : Pkg) : Prop := Becomes (.memoryRequest req) s (q.settleMemory e)
    (p.regionAt req.addr = none →
      ends (p.memReply ⟨u, 0, req.addr, op, len, false, e.hall, false, false, 0, none⟩ (Served.nack 0x50)) ∧
      (p.memDone = [] → (∀ g, u ≠ .core g) → Answers (.memoryRequest req) s (fun t => t.pkg.memOut = s.pkg.memOut ++ [⟨u, req.addr, 0x3f, []⟩] ∧
        KeepsRegs [] s t ∧ KeepsMem s t ∧ KeepsBlock s t))) ∧
    (∀ r, p.regionAt req.addr = some r →
      let part := p.memPart u r
      let k := (r.place (req.addr - r.base)).1
      let w : WaitingReq := ⟨u, part, req.addr, op, len, req.write.isNone && (r.prio || (match u with | .dispatcher _ => true | _ => false)), e.hall,
        false, false, 0, none⟩
      let full : Bool := w.inbound p.ownLoc && p.inboundFull k
      (len = 0 ∨ req.addr / 256 ≠ (req.addr + len - 1) / 256 → ends p) ∧
      (0 < len → req.addr / 256 = (req.addr + len - 1) / 256 →
        (r.stash = true → ends (p.serveNow e none w).1) ∧
        (r.stash = false → p.noBandwidth part = true →
          (∀ g, u = .core g → ends { p.memAnswer u req.addr 0x11 [] with memDone := p.memDone ++ [.coreFault g .access req.addr req.write.isSome] }) ∧
          (∀ q, u = .descriptor q → ends ((p.refuseReq k w 0x56).updRun q (fun x => x.raise e.tag 0x11))) ∧
          ((∀ g, u ≠ .core g) → (∀ q, u ≠ .descriptor q) → ends (p.refuseReq k w 0x56))) ∧
        (r.stash = false → p.noBandwidth part = false → full = true → ends (p.refuseReq k w 0x55)) ∧
        (r.stash = false → p.noBandwidth part = false → full = false →
          let p1 := if req.buffer then p.bufferError k (r.code k (r.place (req.addr - r.base)).2) u req.addr else p
          let p2 := p1.enterStack e k w
          let waits := (p2.stack k).waiting.any (fun x => x.user == u && x.addr == req.addr && x.entered == e.hall && x.op == op)
          (∀ q, req.buffer = true → u = .descriptor q → ends p1) ∧
          (req.buffer = false ∨ (∀ q, u ≠ .descriptor q) → ends (if waits then p2.memAnswer u req.addr 1 [] else p2)))))

/-- The update of a stripe performs every queued write to that stripe, in the order of the queue, and leaves the writes to other stripes queued: each byte of
memory reads as those writes give it. When a line that the update reads cannot be rebuilt, no byte changes; with the write-behind list full the writes wait
(R295, R318, R322, R323). The zero fill of a region's end makes each of its bytes read zero, leaves the rest of memory, and makes the region ready (R300). -/
def Obligations.StripesAndFills : Prop :=
  ∀ (s : State), s.pkg.working = true →
    let e := s.env
    (∀ (dev : Fin 32) (bad : List Nat), (s.pkg.stack dev).stripes = [] → Becomes (.stripeUpdate dev bad) s ((s.pkg.markBad bad).settleMemory e)) ∧
    (∀ (dev : Fin 32) (bad : List Nat) (w0 : StripeWrite) (rest : List StripeWrite) (r : Region), (s.pkg.stack dev).stripes = w0 :: rest →
      s.pkg.regionAt w0.addr = some r →
      let p := s.pkg.markBad bad
      let j := r.lineNo w0.addr
      let mine := (w0 :: rest).filter (fun w => w.inStripe r dev j)
      let others := (w0 :: rest).filter (fun w => !w.inStripe r dev j)
      let ws := mine.map (fun w => (w.addr, w.bytes))
      let x := (p.setStack dev { p.stack dev with stripes := others }).writeStripe r dev ws
      Becomes (.stripeUpdate dev bad) s ((p.settleStripe e none r dev j).1.settleMemory e) ∧
      (p.memDone = [] → w0.inStripe r dev j = true → p.listFull r dev (r.linesTouched ws) = false →
        (∀ w ∈ mine, p.staleKey r (w.addr / 256 * 256) = false) →
        (x.2 ≠ .failed → Answers (.stripeUpdate dev bad) s (fun t => KeepsBlock s t ∧ (t.pkg.stack dev).stripes = others ∧
          ∀ a, t.pkg.byte a = (mine.foldl (fun (q : Pkg) w => q.setBytes w.addr w.bytes) s.pkg).byte a)) ∧
        (x.2 = .failed → Answers (.stripeUpdate dev bad) s (fun t => KeepsMem s t ∧ KeepsBlock s t)))) ∧
    (∀ n : Fin 64,
      let r := s.pkg.region n
      (r.valid = true → r.ready = false → Answers (.regionFillEnd n) s (fun t =>
        (∀ a, t.pkg.byte a = if r.base ≤ a ∧ a < r.base + r.size then 0 else s.pkg.byte a) ∧
        t.pkg.on (Reg.MEM_RG_ATTR n) Fld.MEM_RG_READY = true ∧ KeepsRegs [Reg.MEM_RG_ATTR n] s t ∧ KeepsBlock s t)) ∧
      (r.valid = false ∨ r.ready = true → Becomes (.regionFillEnd n) s s.pkg))

/-- Live calibration goes through its steps: a due pseudo-channel's stack stops issuing to it, shows it and marks what it delays, or it waits its turn while
another retrains; its operations drain, it trains, its end clears the mark, counts, keeps the temperature and the hall time, and lets what waited issue; the
write-behind list then drains line by line (R313 to R319, R472). -/
def Obligations.Calibration : Prop :=
  ∀ (s : State) (k : Fin 24) (pc : Fin 64), s.pkg.working = true →
    let p := s.pkg
    let e := s.env
    let st := p.stack k
    let mk := Reg.MEM_STK_STATUS k
    let same (t : State) : Prop := KeepsMem s t ∧ KeepsBlock s t
    (p.chanRetired k pc = true ∨ p.inCalWindow e pc = false → Becomes (.retrainingDue k pc) s p) ∧
    (p.chanRetired k pc = false → p.inCalWindow e pc = true → st.retrain = none → Answers (.retrainingDue k pc) s (fun t =>
      (t.pkg.stack k).retrain = some ⟨pc, 0, false, e.hall⟩ ∧ (t.pkg.stack k).due = st.due.filter (fun c => c ≠ pc.val) ∧
      t.pkg.on mk Fld.MEM_CAL_ACTIVE = true ∧ t.pkg.fld mk Fld.MEM_CAL_PC = pc ∧ KeepsRegs [mk, Reg.MEM_CNT_CAL_DELAY k] s t ∧ same t)) ∧
    (∀ x, p.chanRetired k pc = false → p.inCalWindow e pc = true → st.retrain = some x → Answers (.retrainingDue k pc) s (fun t =>
      (t.pkg.stack k).retrain = some x ∧ pc.val ∈ (t.pkg.stack k).due ∧ KeepsRegs [] s t ∧ same t)) ∧
    (∀ x, st.retrain = some x → x.step = 0 → x.suspended = false → Answers (.issuedOperationsDrained k) s (fun t =>
      (t.pkg.stack k).retrain = some { x with step := 1 } ∧ KeepsRegs [] s t ∧ same t)) ∧
    (st.retrain = none → Becomes (.issuedOperationsDrained k) s p ∧ Becomes (.retrainingEnd k) s (p.settleMemory e)) ∧
    (∀ x, st.retrain = some x → x.step = 1 → x.suspended = false → Becomes (.retrainingEnd k) s
      (((((p.setStack k { st with
          retrain := if st.behind.isEmpty then none else some { x with step := 2 }
          trainTemp := assocPut st.trainTemp x.pc (p.fld mk Fld.MEM_TEMP), trained := assocPut st.trained x.pc e.hall, retrains := st.retrains + 1
          calMax := ((st.waiting.filter (fun w => w.cal)).map (fun w => e.hall - w.entered)).foldl max st.calMax }).setFld mk Fld.MEM_CAL_ACTIVE
        0).memCount k (Reg.MEM_CNT_RETRAIN k) 1).serveWaiting e k).settleMemory e)) ∧
    (∀ x b rest, st.retrain = some x → x.step = 2 → x.suspended = false → st.behind = b :: rest → Becomes (.writeBehindDrain k) s
      ((((p.setStack k { st with behind := rest, retrain := if rest.isEmpty then none else some x }).setFld mk Fld.MEM_WB_COUNT
        rest.length).serveWaiting e k).settleMemory e)) ∧
    (∀ x b rest, st.retrain = some x → x.suspended = true → st.behind = b :: rest → Becomes (.writeBehindDrain k) s
      ((((p.setStack k { st with behind := rest, retrain := some (if rest.isEmpty then { x with suspended := false, step := 0 } else x) }).setFld mk
        Fld.MEM_WB_COUNT rest.length).serveWaiting e k).settleMemory e)) ∧
    (∀ x, st.retrain = some x → x.suspended = true → st.behind = [] → Becomes (.writeBehindDrain k) s
      ((p.setStack k { st with retrain := some { x with suspended := false, step := 0 } }).settleMemory e)) ∧
    (st.behind = [] → st.retrain = none → Becomes (.writeBehindDrain k) s (p.settleMemory e))

/-- A 1 µs window fills each partition's bucket by its rate up to its depth, starts the windows' uses again, and serves what waits: priority reads up to the
cap, tokens, then best effort in turn, no request before an older one to its line (R291, R307 to R309). The oldest request past its budget is marked with
reason QUOTA and counted once, its descriptor delayed for cause 1, or is refused 0x11 in a region of hard quotas (R310, R312); with none past it nothing
changes. The temperature of a stack is shown (R288); its error-check-and-scrub status is shown as kind 4 when it is not zero, and logged; a scrub checks its
line of the patch-protected region that holds it; a refresh changes nothing. -/
def Obligations.RegulatorsAndUpkeep : Prop :=
  (
    ∀ (s : State) (k : Fin 24), s.pkg.working = true →
      let p := s.pkg
      let e := s.env
      let st := p.stack k
      let fill := (List.range 8).foldl (fun t c =>
        assocPut t c (min ((assoc? t c).getD 0 + p.regRate c * 100) (p.regDepth c * p.regRate c * 100))) st.tokens
      Becomes (.bandwidthWindow k) s (((p.setStack k { st with tokens := fill, prioUsed := 0, windowUsed := 0 }).serveWaiting e k).settleMemory e) ∧
      (let hard (w : WaitingReq) : Bool :=
         (match w.user with | .fabric _ => true | _ => false) && (match p.regionAt w.addr with | some r => r.hardq | none => false)
       let due (w : WaitingReq) : Bool :=
         let lim := w.entered + 1000 * p.regBudget w.part
         !w.quota && (if hard w then e.hall ≥ lim else e.hall > lim)
       let marked (w : WaitingReq) : Pkg :=
         let w1 : WaitingReq := { w with quota := true, delay := if w.delay = 0 then 1 else w.delay }
         (p.setStack k { st with waiting := st.waiting.map (fun x => if x = w then w1 else x) }).memCount k (Reg.MEM_CNT_QUOTA_DELAY k) 1
       let ends (q : Pkg) : Prop := Becomes (.quotaBudgetExpiry k) s (q.settleMemory e)
       (st.waiting.find? due = none → ends p) ∧
       (∀ w, st.waiting.find? due = some w → hard w = true →
         ends ((p.setStack k { st with waiting := st.waiting.erase w }).refuseReq k w 0x56)) ∧
       (∀ w q, st.waiting.find? due = some w → hard w = false → w.user = .descriptor q → ends ((marked w).delayRun q e.tag 1)) ∧
       (∀ w, st.waiting.find? due = some w → hard w = false → (∀ q, w.user ≠ .descriptor q) → ends (marked w)))) ∧
  (
    ∀ (s : State) (k : Fin 24) (pc : Fin 64), s.pkg.working = true →
      let p := s.pkg
      (∀ temp : Fin 256, Answers (.stackTemperatureRead k temp) s (fun t => t.pkg.fld (Reg.MEM_STK_STATUS k) Fld.MEM_TEMP = temp ∧
        KeepsRegs [Reg.MEM_STK_STATUS k] s t ∧ KeepsMem s t ∧ KeepsBlock s t)) ∧
      (∀ status, status ≠ 0 → Answers (.ecsStatusRead k status) s (fun t => t.pkg.fld (Reg.MEM_ERR_INFO k) Fld.MEM_ERR_KIND = 4 ∧
        KeepsRegs [Reg.MEM_ERR_INFO k] s t ∧ KeepsMem s t ∧ KeepsBlock s t)) ∧
      Answers (.ecsStatusRead k 0) s (fun t => KeepsRegs [] s t ∧ KeepsMem s t ∧ KeepsBlock s t ∧
        Logs s t (p.raised ++ [⟨false, k / 3, channelUnit k 0, 0, 1, 4, padTo 28 (leBytes 8 (p.regNat (Reg.MEM_ERR_INFO k)) ++ leBytes 8 0)⟩])) ∧
      Becomes (.perBankRefresh k pc) s p ∧
      (∀ (dev : Fin 32) (line : Nat) (bad : List Nat),
        let q := p.markBad bad
        let here := ((List.range 64).map q.region).find? (fun r => r.valid && r.ready && r.patch && r.owns line && codeDev line == dev.val)
        (here = none → Becomes (.scrub dev line bad) s q) ∧
        (∀ r, here = some r →
          let j := (codeSlot line - 1024 * r.slotBase) * r.channels + codeChan line
          Becomes (.scrub dev line bad) s (q.checkLine r dev j (r.addrOf dev j)).1)))

/-! ### Host cores -/

/-- A host core's access without an error whose one page translates to a physical address (R332, Table 09-2; in machine mode without protection the
address itself): a load's register takes the bytes that the access reads, sign-extended but for `loadu`; a store's bytes are written; a failed access
takes the exception of its failure (R332 to R334, R359). A store-conditional without its reservation writes 1 and no byte; a misaligned atomic takes
cause 6; an address that leads nowhere is an access fault; a register access reads the register; a core whose fence waits makes no access (R393). A
fence waits exactly when its predecessors include device accesses and an aperture store or atomic of the core is unanswered (R393). An instruction word
of the base runs: ADD writes its sum and goes on, a word of QVX runs as the instruction it spells (R343), ECALL and a word that spells nothing take
their exceptions; a pending interrupt that is enabled is taken. -/
def Obligations.HostAccesses : Prop :=
  ∀ (s : State) (g : Fin 144) (acc : HostAccess), s.pkg.working = true →
    let p := s.pkg
    let e := s.env
    let c := p.core g
    let whole : Bool := acc.size == 4 || acc.size == 8
    (∀ io : Bool, Becomes (.fence g io) s (p.setCore g { c with fencing := io && !(p.unanswered g).isEmpty })) ∧
    (c.fencing = true → whole = true → acc.op = .load ∨ acc.op = .store → Becomes (.hostMemoryAccess g acc) s p) ∧
    (∀ k : AccKind, c.mode = 3 → c.ms 17 = false → acc.va % 4096 + acc.size ≤ 4096 → (∀ i < 16, bitsOf (c.pmpCfg i) 4 3 = 0) →
      p.spans e g acc.va acc.size k = (p, .ok [⟨acc.va, acc.va, acc.size, 0⟩])) ∧
    (c.fencing = false → acc.error = none → whole = true → acc.va < 2 ^ 64 → c.trigFires (accKind acc.op) acc.va = false →
      (∀ q y, p.spans e g acc.va acc.size (accKind acc.op) = (q, .error y) → acc.op = .load ∨ acc.op = .store →
        Becomes (.hostMemoryAccess g acc) s (q.hostFault e g y.how (accKind acc.op) ⟨some acc.pc, y.va, y.pa⟩)) ∧
      (∀ q a t, p.spans e g acc.va acc.size (accKind acc.op) = (q, .ok [⟨acc.va, a, acc.size, t⟩]) →
        (q.hostPlace a = .bad → acc.op = .load ∨ acc.op = .store →
          Becomes (.hostMemoryAccess g acc) s (q.accessFault e g 5 0 (accKind acc.op) ⟨some acc.pc, acc.va, a⟩)) ∧
        (∀ off, q.hostPlace a = .mmio off → acc.op = .load → hostMmioOk off acc.size = true →
          Becomes (.hostMemoryAccess g acc) s (q.coreResult g acc.rd acc.size true (q.mmioRead e off acc.size))) ∧
        (q.hostPlace a = .memory → acc.va % acc.size ≠ 0 → acc.op = .amoAdd ∨ acc.op = .amoSwap ∨ acc.op = .sc →
          Becomes (.hostMemoryAccess g acc) s (q.trapCore g 6 acc.va (some acc.pc))) ∧
        (q.hostPlace a = .memory → acc.va % acc.size = 0 →
          (∀ r d, q.hostRead e g a acc.size t = (r, .ok d) →
            (acc.op = .load → Becomes (.hostMemoryAccess g acc) s (r.coreResult g acc.rd acc.size true (leNat d))) ∧
            (acc.op = .loadu → Becomes (.hostMemoryAccess g acc) s (r.coreResult g acc.rd acc.size false (leNat d))) ∧
            (acc.op = .lr → Becomes (.hostMemoryAccess g acc) s
              ((r.coreResult g acc.rd acc.size true (leNat d)).reserveOf g (some (a / 256 * 256)))) ∧
            (acc.op = .amoAdd → ∀ u v, r.hostWrite e g a (leBytes acc.size ((leNat d + acc.data % 2 ^ (8 * acc.size)) % 2 ^ (8 * acc.size))) t =
              (u, .ok v) → Becomes (.hostMemoryAccess g acc) s (u.coreResult g acc.rd acc.size true (leNat d)))) ∧
          (∀ r k, q.hostRead e g a acc.size t = (r, .error k) → acc.op = .load →
            Becomes (.hostMemoryAccess g acc) s (r.hostFault e g k .load ⟨some acc.pc, acc.va, a⟩)) ∧
          (∀ r u, q.hostWrite e g a (leBytes acc.size acc.data) t = (r, .ok u) → acc.op = .store → Becomes (.hostMemoryAccess g acc) s r) ∧
          (acc.op = .sc → q = p → c.reserve ≠ some (a / 256 * 256) → acc.rd.val ≠ 0 → Answers (.hostMemoryAccess g acc) s (fun t =>
            (t.pkg.core g).xReg acc.rd = 1 ∧ (t.pkg.core g).reserve = none ∧ t.pkg.hostLines = p.hostLines ∧
            KeepsRegs [] s t ∧ KeepsMem s t ∧ KeepsBlock s t))))) ∧
    (c.fencing = false → acc.error = none → c.trigFires .fetch acc.pc = false → ∀ w : BitVec 32, acc.op = .insn w →
      (bitsOf w.toNat 6 0 = 0x33 → bitsOf w.toNat 14 12 = 0 → bitsOf w.toNat 31 25 = 0 → Answers (.hostMemoryAccess g acc) s (fun t =>
        let d := t.pkg.core g
        let rd := bitsOf w.toNat 11 7
        (rd ≠ 0 → d.xReg rd = c.xReg (bitsOf w.toNat 19 15) + c.xReg (bitsOf w.toNat 24 20)) ∧ d.pc = (acc.pc + 4) % 2 ^ 64 ∧
        (∀ r, r ≠ rd → d.xReg r = c.xReg r) ∧ d.f = c.f ∧ d.v = c.v ∧ d.p = c.p ∧ d.csr = c.csr ∧ d.mode = c.mode ∧ d.trap = c.trap ∧
        (∀ h, h ≠ g.val → t.pkg.core h = p.core h) ∧ KeepsRegs [] s t ∧ KeepsMem s t ∧ KeepsBlock s t)) ∧
      (∀ i, decodeQvx g acc.pc none w = some i →
        exec (.hostMemoryAccess g acc) s = exec i { s with pkg := p.updCore g (fun d => d.goOn (acc.pc + 4)) }) ∧
      (w = 0x00000073 → Becomes (.hostMemoryAccess g acc) s (p.trapCore g (8 + c.mode) 0 (some acc.pc))) ∧
      (w = 0 → Becomes (.hostMemoryAccess g acc) s (p.trapCore g 2 0 (some acc.pc)))) ∧
    (acc.op = .interrupt →
      (c.dueInterrupt = none → Becomes (.hostMemoryAccess g acc) s p) ∧
      (∀ cause, c.dueInterrupt = some (false, cause) → Answers (.hostMemoryAccess g acc) s (fun t =>
        let d := t.pkg.core g
        d.mode = 3 ∧ d.csrNat 0x341 = acc.pc / 2 * 2 % 2 ^ 64 ∧ d.csrNat 0x342 = (2 ^ 63 + cause) % 2 ^ 64 ∧ d.csrNat 0x343 = 0 ∧ d.ms 3 = false ∧
        d.ms 7 = c.ms 3 ∧ d.pc = trapVector (c.csrNat 0x305) true cause ∧ d.x = c.x ∧ d.f = c.f ∧ d.v = c.v ∧ d.p = c.p ∧
        KeepsRegs [] s t ∧ KeepsMem s t ∧ KeepsBlock s t)))

/-- An integer QVX operation writes each active element's result into vd and leaves or clears each inactive one (R341, Table 09-6): wrapping sum, difference and
product, saturating sum and difference, signed minimum and maximum, the bitwise operations, shifts by the low bits of the amount. XS turns Dirty,
SAT rises when an active element clamps; the core's other registers, memory and the package's registers stay. -/
def Obligations.QvxIntegers : Prop :=
  ∀ (s : State) (g : Fin 144) (f : QvxFields), s.pkg.working = true → (s.pkg.core g).xs ≠ 0 → f.res = false → f.error = none →
    let c := s.pkg.core g
    let w := 8 * 2 ^ f.e.val
    let pairs := (elems w (c.vReg f.vs1)).zip (elems w (c.vReg f.vs2))
    let top : Int := 2 ^ (w - 1)
    let clamp (z : Int) : Int := if z < -top then -top else if top - 1 < z then top - 1 else z
    let writes (i : Instr) (res : Nat → Nat → Nat) (sat : Nat → Nat → Bool) : Prop := Answers i s (fun t =>
      let d := t.pkg.core g
      d.vReg f.vd = packElems w (((elems w (c.vReg f.vd)).zip pairs).zipIdx.map (fun x =>
        if active (c.pReg f.pg) w x.2 then res x.1.2.1 x.1.2.2 else if f.z then 0 else x.1.1)) ∧
      d.xs = 3 ∧ d.sat = (c.sat || pairs.zipIdx.any (fun x => active (c.pReg f.pg) w x.2 && sat x.1.1 x.1.2)) ∧ d.fflags = c.fflags ∧
      (∀ r, r ≠ f.vd.val → d.vReg r = c.vReg r) ∧ d.x = c.x ∧ d.f = c.f ∧ d.p = c.p ∧ d.trap = c.trap ∧
      (∀ h, h ≠ g.val → t.pkg.core h = s.pkg.core h) ∧ KeepsRegs [] s t ∧ KeepsMem s t ∧ KeepsBlock s t)
    let never : Nat → Nat → Bool := fun _ _ => false
    writes (.qvxAdd g f) (fun a b => (a + b) % 2 ^ w) never ∧
    writes (.qvxSub g f) (fun a b => (a + (2 ^ w - b)) % 2 ^ w) never ∧
    writes (.qvxMul g f) (fun a b => a * b % 2 ^ w) never ∧
    writes (.qvxAdds g f) (fun a b => ofSigned w (clamp (toSigned w a + toSigned w b))) (fun a b =>
      let z := toSigned w a + toSigned w b
      decide (clamp z ≠ z)) ∧
    writes (.qvxSubs g f) (fun a b => ofSigned w (clamp (toSigned w a - toSigned w b))) (fun a b =>
      let z := toSigned w a - toSigned w b
      decide (clamp z ≠ z)) ∧
    writes (.qvxMin g f) (fun a b => if toSigned w a ≤ toSigned w b then a else b) never ∧
    writes (.qvxMax g f) (fun a b => if toSigned w b ≤ toSigned w a then a else b) never ∧
    writes (.qvxAnd g f) (fun a b => a &&& b) never ∧ writes (.qvxOr g f) (fun a b => a ||| b) never ∧
    writes (.qvxXor g f) (fun a b => a ^^^ b) never ∧ writes (.qvxAndn g f) (fun a b => a &&& (2 ^ w - 1 - b)) never ∧
    writes (.qvxSll g f) (fun a b => a * 2 ^ (b % w) % 2 ^ w) never ∧ writes (.qvxSrl g f) (fun a b => a / 2 ^ (b % w)) never ∧
    writes (.qvxSra g f) (fun a b => ofSigned w (toSigned w a / (2 ^ (b % w) : Nat))) never

/-- With XS Off every QVX instruction takes an illegal-instruction exception, cause 2, and has no other effect (R339).
With XS on, each of the other QVX instructions whose fields are in order runs on its core and leaves the rest of the package; one whose fields are not
(R344), or that rounds under a reserved rounding mode, takes an illegal-instruction exception (R345 to R351, Tables 09-6 to 09-9). RDSAT reads SAT and
WRSAT writes it (R342); a comparison writes a predicate; PCNT counts elements; p0 and x0 discard what is written (R345, Table 09-4). -/
def Obligations.QvxOperations : Prop :=
  (
    ∀ (s : State) (g : Fin 144) (f : QvxFields) (h u : Bool) (ss : Fin 4), s.pkg.working = true → (s.pkg.core g).xs = 0 →
      ∀ i ∈ qvxAll g f h u ss, Answers i s (fun t =>
        let c := s.pkg.core g
        let d := t.pkg.core g
        d = c.takeTrap 2 0 f.pc ∧ d.trap = some (2, 0) ∧ d.x = c.x ∧ d.f = c.f ∧ d.v = c.v ∧ d.p = c.p ∧ d.sat = c.sat ∧ d.xs = c.xs ∧
        (c.mode = 3 → d.mode = 3 ∧ d.csrNat 0x341 = f.pc / 2 * 2 % 2 ^ 64 ∧ d.csrNat 0x342 = 2 ∧ d.csrNat 0x343 = 0 ∧
          d.pc = c.csrNat 0x305 / 4 * 4) ∧
        (∀ k, k ≠ g.val → t.pkg.core k = s.pkg.core k) ∧ KeepsRegs [] s t ∧ KeepsMem s t ∧ KeepsBlock s t)) ∧
  (
    ∀ (s : State) (g : Fin 144) (f : QvxFields), s.pkg.working = true → (s.pkg.core g).xs ≠ 0 → f.error = none →
      let c := s.pkg.core g
      let w := 8 * 2 ^ f.e.val
      let m := (frmMode c.frm).isSome
      let runs (i : Instr) (legal : Bool) (d : Core) : Prop :=
        (legal = true → f.res = false → Becomes i s (s.pkg.setCore g d)) ∧
        (legal = false ∨ f.res = true → Becomes i s (s.pkg.trapCore g 2 0 (some f.pc)))
      let low := decide (f.vd.val < 8)
      let plain := f.e.val == 0 && f.pg.val == 0
      runs (.qvxCmpeq g f) low (c.intCmp f qEq) ∧ runs (.qvxCmplt g f) low (c.intCmp f qLt) ∧
      runs (.qvxFadd g f) m (c.floatOp f qFadd) ∧ runs (.qvxFsub g f) m (c.floatOp f qFsub) ∧ runs (.qvxFmul g f) m (c.floatOp f qFmul) ∧
      runs (.qvxFma g f) m (c.floatOp f qFma) ∧ runs (.qvxFnma g f) m (c.floatOp f qFnma) ∧
      runs (.qvxFmax g f) true (c.floatOp f qFmax) ∧ runs (.qvxFmin g f) true (c.floatOp f qFmin) ∧
      runs (.qvxFcmplt g f) low (c.floatCmp f qFlt) ∧ runs (.qvxFcmple g f) low (c.floatCmp f qFle) ∧
      runs (.qvxFcmpeq g f) low (c.floatCmp f qFeq) ∧ runs (.qvxFcmpun g f) low (c.floatCmp f qFun) ∧
      runs (.qvxFcvtIf g f) (m && f.e.val != 0 && f.vs2.val == 0) (c.convOp f (qFcvtIf f.e)) ∧
      runs (.qvxFcvtFi g f) (m && f.e.val != 0 && f.vs2.val == 0) (c.convOp f (qFcvtFi f.e)) ∧
      runs (.qvxFwiden g f) (f.e.val != 3 && f.vs2.val < 2) (c.widen f) ∧
      runs (.qvxFnarrow g f) (m && f.e.val ≥ 2 && f.vs2.val < (if f.e.val = 3 then 2 else 4)) (c.narrow f) ∧
      runs (.qvxBcastX g f) (f.vs2.val == 0) (c.putElems f w (List.replicate (1024 / w) ⟨(c.xReg f.vs1).toNat % 2 ^ w, 0, false⟩)) ∧
      runs (.qvxBcastF g f) (m && f.vs2.val == 0) (c.putElems f (qFmt f.e).bits (List.replicate (1024 / (qFmt f.e).bits)
        (toFloat c.roundMode (qFmt f.e) (decodeNum .f64 (c.fReg f.vs1).toNat) 0))) ∧
      runs (.qvxMvX g f) (!f.z && f.pg.val == 0) (c.setX f.vd (if (c.xReg f.vs2).toNat < 1024 / w then
        BitVec.ofInt 64 (toSigned w ((elems w (c.vReg f.vs1)).getD (c.xReg f.vs2).toNat 0)) else 0)) ∧
      runs (.qvxPwhile g f) (low && f.pg.val == 0) (c.setP f.vd (predOf w ((List.range (1024 / w)).map (fun i =>
        decide ((c.xReg f.vs1).toNat + i < (c.xReg f.vs2).toNat))))) ∧
      runs (.qvxPlog g f) (low && f.vs1.val < 8 && plain) (c.setP f.vd (
        let a := c.pReg f.vs1
        let b := c.pReg (f.vs2 % 8)
        match f.vs2.val / 8 with | 0 => a &&& b | 1 => a ||| b | 2 => a ^^^ b | _ => a &&& ~~~b)) ∧
      runs (.qvxPcnt g f) (f.vs1.val < 8 && f.vs2.val == 0 && f.pg.val == 0)
        (c.setX f.vd (BitVec.ofNat 64 ((List.range (1024 / w)).filter (fun i => active (c.pReg f.vs1) w i)).length)) ∧
      runs (.qvxRdsat g f) (plain && !f.z && f.vs2.val == 0 && f.vs1.val == 0) (c.setX f.vd (if c.sat then 1 else 0)) ∧
      runs (.qvxWrsat g f) (plain && !f.z && f.vs2.val == 0 && f.vd.val == 0) { c with sat := (c.xReg f.vs1).getLsbD 0, xs := 3 } ∧
      runs (.qvxRedsumI g f) (!f.z && f.vs2.val == 0) (c.redsumI f) ∧ runs (.qvxRedsumF g f) (m && !f.z && f.vs2.val == 0) (c.redsumF f) ∧
      (∀ h u, runs (.qvxWmul g h u f) (f.e.val != 3) (c.wmul f h u false) ∧ runs (.qvxWmacc g h u f) (f.e.val != 3) (c.wmul f h u true)) ∧
      (∀ ss : Fin 4, runs (.qvxDot g ss f) (f.e.val < 2 && ss.val != 3) (c.dot f ss 0) ∧
        runs (.qvxDot2u g ss f) (f.e.val == 1 && ss.val != 3) (c.dot f ss 1)))

/-- A QVX load or store touches the active elements alone, in ascending order: LD and LDFF write vd from the bytes read, ST writes the active elements of vd,
PLD and PST move the sixteen bytes of a predicate; a fault takes the exception of its element, but a page or access fault of a later element ends LDFF
without one and shows in its predicate (R353, R354). In machine mode, on a line that the core holds, each completes: the elements loaded are the line's
bytes, the bytes stored stand in the line, which is dirty, and memory stays. -/
def Obligations.QvxMemory : Prop :=
  ∀ (s : State) (g : Fin 144) (f : QvxFields), s.pkg.working = true → (s.pkg.core g).xs ≠ 0 → (s.pkg.core g).fencing = false → f.res = false →
    f.error = none →
    let p := s.pkg
    let e := s.env
    let c := p.core g
    let w := 8 * 2 ^ f.e.val
    let n := w / 8
    let pg := c.pReg f.pg
    let a := (c.xReg f.vs1 + c.xReg f.vs2).toNat
    let b := (c.xReg f.vs1).toNat
    let stopAt (k : AccKind) (x : SpanStop) (q : Pkg) : Pkg := q.hostFault e g x.how k ⟨some f.pc, x.va, x.pa⟩
    let keeps (t : State) : Prop := KeepsRegs [] s t ∧ KeepsMem s t ∧ KeepsBlock s t
    let loaded (l : HostLine) (x : Nat) : VecWord := packElems w ((elems w (c.vReg f.vd)).zipIdx.map (fun o =>
      if active pg w o.2 then leNat ((List.range n).map (fun k => l.byteAt (x + o.2 * n + k))) else if f.z then 0 else o.1))
    (let x := p.loadElems e g f pg w a
     (x.2.2 = none → Becomes (.qvxLd g f) s (x.1.updCore g (fun d => d.putLoaded f w x.2.1))) ∧
     (∀ i k, x.2.2 = some (.fault i k) → Becomes (.qvxLd g f) s (stopAt .load k x.1))) ∧
    (∀ l, p.HoldsLine g a 128 l → Answers (.qvxLd g f) s (fun t =>
      t.pkg.core g = c.setV f.vd (loaded l a) ∧ t.pkg.hostLines = p.hostLines ∧ keeps t)) ∧
    (f.vs2.val < 8 →
      let x := p.loadElems e g f pg w b
      (x.2.2 = none → Becomes (.qvxLdff g f) s (x.1.updCore g (fun d => (d.putLoaded f w x.2.1).setP f.vs2 pg))) ∧
      (∀ i k, x.2.2 = some (.fault i k) → k.how ≠ .check → x.2.1 ≠ [] → Becomes (.qvxLdff g f) s (x.1.updCore g (fun d =>
        (d.putLoaded f w x.2.1).setP f.vs2 (pg &&& BitVec.ofNat 128 (2 ^ (i * n) - 1))))) ∧
      (∀ i k, x.2.2 = some (.fault i k) → k.how = .check ∨ x.2.1 = [] → Becomes (.qvxLdff g f) s (stopAt .load k x.1)) ∧
      (∀ l, p.HoldsLine g b 128 l → Answers (.qvxLdff g f) s (fun t =>
        t.pkg.core g = (c.setV f.vd (loaded l b)).setP f.vs2 pg ∧ t.pkg.hostLines = p.hostLines ∧ keeps t))) ∧
    (f.z = false →
      let x := p.storeElems e g f pg w a (elems w (c.vReg f.vd))
      (x.2 = none → Becomes (.qvxSt g f) s x.1) ∧
      (∀ i k, x.2 = some (.fault i k) → Becomes (.qvxSt g f) s (stopAt .store k x.1)) ∧
      ((∀ i < 1024 / w, active pg w i = false) → Becomes (.qvxSt g f) s p) ∧
      (∀ l, p.HoldsLine g a 128 l → Answers (.qvxSt g f) s (fun t => t.pkg.core g = c ∧ keeps t ∧ ∃ l2, t.pkg.cached a = some l2 ∧
        ((∃ i < 1024 / w, active pg w i = true) → l2.dirty = true) ∧
        ∀ j, j / 256 = a / 256 → l2.byteAt j = if a ≤ j ∧ j < a + 128 ∧ active pg w ((j - a) / n) then
          BitVec.ofNat 8 ((c.vReg f.vd).toNat / 2 ^ (8 * (j - a))) else l.byteAt j))) ∧
    (f.vd.val < 8 → f.e.val = 0 → f.pg.val = 0 → f.z = false →
      (∀ q y, p.vecRead e g f 0 a 16 = (q, .error (.fault 0 y)) → Becomes (.qvxPld g f) s (stopAt .load y q)) ∧
      (∀ l, p.HoldsLine g a 16 l → Answers (.qvxPld g f) s (fun t =>
        t.pkg.core g = c.setP f.vd (BitVec.ofNat 128 (leNat ((List.range 16).map (fun k => l.byteAt (a + k))))) ∧
        t.pkg.hostLines = p.hostLines ∧ keeps t)) ∧
      (∀ q y, p.vecWrite e g f 0 a (leBytes 16 (c.pReg f.vd).toNat) = (q, .error (.fault 0 y)) → Becomes (.qvxPst g f) s (stopAt .store y q)) ∧
      (∀ l, p.HoldsLine g a 16 l → Answers (.qvxPst g f) s (fun t => t.pkg.core g = c ∧ keeps t ∧ ∃ l2, t.pkg.cached a = some l2 ∧ l2.dirty = true ∧
        ∀ j, j / 256 = a / 256 → l2.byteAt j = if a ≤ j ∧ j < a + 16 then
          BitVec.ofNat 8 ((c.pReg f.vd).toNat / 2 ^ (8 * (j - a))) else l.byteAt j)))

/-! ### The fabric -/

/-- A packet on a port that is down, or at a package without a location, is taken by nobody. One for this package whose check value agrees with its flow's or
request's number goes to its kind's service, counted as received: a request in its flow's turn (R390, R397), a SYNC, an answer to the request it names (R386,
R404); one whose check fails is dropped and counted, a class-8 event of its port (R398). -/
def Obligations.FabricPackets : Prop :=
  ∀ (s : State) (port : Fin 36) (pkt : RawPacket), s.pkg.working = true →
    let p := s.pkg
    let e := s.env
    let h := parseHdr pkt.header
    (p.portUp port = false ∨ p.locValid = false → ∀ i ∈ fabricPackets port pkt, Becomes i s p) ∧
    (p.portUp port = true → p.locValid = true → pkt.header.length = 32 → pkt.payload.length ≤ 256 → h.dest = p.ownLoc →
      let p1 := p.fabCount (portFab port) (Reg.FAB_CNT_RX (portFab port)) 1
      let seq := fullSeq (p1.inFlow h.src h.eng h.cls).next h.seqLo
      let named := ((p1.fab.reqs.find? (fun r => r.engine == h.eng && r.addr == h.addr && r.seq % 65536 == h.seqLo)).map (fun r => r.seq)).getD h.seqLo
      let k (n : Nat) : FabPkt := ⟨port, n, pkt.header, pkt.payload⟩
      let sums (n : Nat) : Prop := checkOf h.dest h.addr n pkt.header pkt.payload = pkt.check
      let serves (i : Instr) : Prop := sums seq → Becomes i s (p1.arriveRequest e (k seq) (fun u x => u.serveRequest e x))
      (h.ty = tyRead → serves (.readRequest port pkt)) ∧ (h.ty = tyWrite → serves (.writeRequest port pkt)) ∧
      (h.ty = tyAtomic → h.comb = false → isIncrement h = false → serves (.atomicRequest port pkt)) ∧
      (h.ty = tyAtomic → h.comb = false → isIncrement h = true → serves (.remoteIncrement port pkt)) ∧
      (h.ty = tyAtomic → h.comb = true → serves (.combinedAtomic port pkt)) ∧
      (h.ty = tySync → sums (leAt pkt.payload 0 4) → Becomes (.sync port pkt) s (takeSync e p1 (k (leAt pkt.payload 0 4)))) ∧
      (h.ty = tyReply → sums named → Becomes (.reply port pkt) s (takeReply e p1 (k named))) ∧
      (h.ty = tyNack → sums named → Becomes (.nack port pkt) s (takeNack e p1 (k named))) ∧
      (h.ty = tyRead → ¬ sums seq → Becomes (.readRequest port pkt) s (p1.dropCheck port)) ∧
      (h.ty = tyWrite → ¬ sums seq → Becomes (.writeRequest port pkt) s (p1.dropCheck port)) ∧
      (h.ty = tyWrite → h.cls = 1 → seqBefore seq (p1.inFlow h.src h.eng 1).next = false → sums seq → formatReason p.topo h pkt.payload = 0 →
        h.epoch = p.regNat Reg.FAB_EPOCH → seq ∈ (p1.inFlow h.src h.eng 1).applied → p.memDone = [] →
        Answers (.writeRequest port pkt) s (fun t => KeepsMem s t ∧ KeepsBlock s t)))

/-- A request without an answer is retransmitted under its number at the times of R399, given up at 10 ms, a load as incomplete and a store or atomic as
unknown (R399, R402), and after a FULL refusal issued again when its wait has passed, until the limit since its first refusal ends it (R405). When no
request is due nothing changes.
A hot-line notice makes this package's switches combine requests for the line and goes on where such requests came from, and its end stops that (R406, R407); a flow's or an atomic's record is dropped
20 ms after it was last used, and not before (R400, R401). A frame that passes changes nothing and one that cannot be corrected is a class-8 event of
its lane (R374); a port that goes down falls, and one that ends its training carries traffic on its lanes, unless it is disabled, without a peer, or past
training (R373); its delay is what it measures (R459); a 1 ms window that ends begins a fresh count of violations among the last 1,000 (R411). -/
def Obligations.FabricTimersAndUpkeep : Prop :=
  (
    ∀ (s : State) (en : Fin 32) (seq : Nat), s.pkg.working = true →
      let p := s.pkg
      let e := s.env
      let find (t : FabReq → Bool) := p.fab.reqs.find? (fun r => r.engine == en.val && r.seq == seq && r.sent && t r)
      let late := find (fun r => r.retryAt.isNone && r.tries < 6 && r.issued + [100000, 300000, 700000, 1500000, 3100000, 6300000].getD r.tries 0 ≤ e.hall)
      let dead := find (fun r => r.retryAt.isNone && r.issued + 10000000 ≤ e.hall)
      let again := find (fun r => match r.retryAt with | some t => t ≤ e.hall | none => false)
      (late = none → Becomes (.fabricRetransmit en seq) s p) ∧ (dead = none → Becomes (.requestGiveUp en seq) s p) ∧
      (again = none → Becomes (.fullReissue en seq) s p) ∧
      (∀ r g rd w sx st at_, late = some r → r.user = .core g rd w sx st at_ → Becomes (.fabricRetransmit en seq) s
        (let q := (p.setReqs (p.fab.reqs.map (fun x => if x = r then { r with tries := r.tries + 1 } else x))).fabCount (en / 4) (Reg.FAB_CNT_RETX (en / 4)) 1
         ((q.sendOn (q.reqHdr r) r.seq r.data).1).disturb 4 (20 + en / 4) 0)) ∧
      (∀ r, dead = some r → r.kind = tyRead → Becomes (.requestGiveUp en seq) s (((p.dropReq r).noteFail e r ⟨0x34, 0⟩).settle e)) ∧
      (∀ r, dead = some r → r.kind = tyWrite ∨ r.kind = tyAtomic →
        Becomes (.requestGiveUp en seq) s (((p.dropReq r).noteFail e r ⟨0x32, 0⟩).settle e)) ∧
      (∀ r, again = some r →
        let lim := 1000 * p.fld (Reg.FAB_CTRL (en / 4)) Fld.FAB_REFUSE_LIMIT_US
        (r.refused.getD e.hall + lim ≤ e.hall → Becomes (.fullReissue en seq) s (((p.dropReq r).noteFail e r (FabFail.ofNack 0x55)).settle e)) ∧
        (e.hall < r.refused.getD e.hall + lim → Becomes (.fullReissue en seq) s
          (let q := p.setReqs (p.fab.reqs.map (fun x => if x = r then { r with retryAt := none, issued := e.hall } else x))
           (q.sendOn (q.reqHdr r) r.seq r.data).1)))) ∧
  (
    ∀ (s : State) (port : Fin 36) (die : Fin 8) (line home idx : Nat), s.pkg.working = true →
      let p := s.pkg
      let e := s.env
      let same (t : State) : Prop := KeepsRegs [] s t ∧ KeepsMem s t ∧ KeepsBlock s t
      (home ≠ p.ownLoc → Answers (.hotLineNotice port line home) s (fun t => t.pkg.combines home line = true ∧ same t ∧
        (p.combines home line = false → t.pkg.fab.notices = p.fab.notices ++
          (((p.seenPorts home line).filter (fun x => x ≠ port.val)).filter p.portUp).map (fun x => ⟨x, line, home, false⟩)))) ∧
      (home = p.ownLoc → Becomes (.hotLineNotice port line home) s p) ∧
      (home ≠ p.ownLoc → (∀ x ∈ p.fab.holds, x.line ≠ line) →
        Answers (.hotLineEnd line home) s (fun t => t.pkg.combines home line = false ∧ same t ∧
          (p.combines home line = true → t.pkg.fab.notices = p.fab.notices ++
            ((p.seenPorts home line).filter p.portUp).map (fun x => ⟨x, line, home, true⟩)))) ∧
      (home = p.ownLoc → Answers (.hotLineEnd line home) s (fun t => same t ∧ ∀ l ∈ p.fab.lines, l.line ≠ line ∨ l.count ≥ 16 → l ∈ t.pkg.fab.lines)) ∧
      ((∀ x ∈ p.fab.holds, ¬ (x.die = die.val ∧ x.line = line)) → Answers (.combineHoldExpiry die line) s (fun t =>
        t.pkg.fab.holds = p.fab.holds ∧ same t)) ∧
      (∀ x, p.fab.holds = [x] → x.die = die.val → x.line = line → Becomes (.combineHoldExpiry die line) s
        ((mergeGroups x.pkts).foldl (fun (u : Pkg) g => u.forwardGroup die g) { p with fab := { p.fab with holds := [] } })) ∧
      (∀ f, p.fab.inflows[idx]? = some f → f.waiting = [] → f.last + 20000000 ≤ e.hall →
        Becomes (.flowRecordExpiry die idx) s (p.setInFlow { f with applied := [] })) ∧
      (∀ f, p.fab.inflows[idx]? = some f → e.hall < f.last + 20000000 → Becomes (.flowRecordExpiry die idx) s p) ∧
      (∀ a, (p.fab.atoms.filter (fun x => x.home == die.val))[idx]? = some a →
        (a.since + 20000000 ≤ e.hall → Answers (.atomicEntryExpiry die idx) s (fun t => t.pkg.fab.atoms = p.fab.atoms.erase a ∧ same t)) ∧
        (e.hall < a.since + 20000000 → Becomes (.atomicEntryExpiry die idx) s p)) ∧
      Becomes (.frameReceive port .clean) s p ∧ Becomes (.frameReceive port .corrected) s p ∧
      (∀ lane, p.portUp port = true → Becomes (.frameReceive port (.uncorrectable lane)) s
        (let q := p.fabErr 2 port 0
         q.event 8 (portDie port) (portLaneUnit port lane) 1 2 (portErrData q port))) ∧
      (∀ lane, p.portUp port = false → Becomes (.frameReceive port (.uncorrectable lane)) s p) ∧
      Becomes (.portDown port) s (p.portFalls port) ∧
      (∀ loc pp delay : Nat, p.on (Reg.FAB_PORT_CTRL port) Fld.FAB_PC_DISABLE = true ∨ p.topo.hasPeer port = false ∨ p.portState port > 1 →
        Becomes (.portTrainingEnd port 4 loc pp delay) s p) ∧
      (∀ loc pp delay : Nat, p.on (Reg.FAB_PORT_CTRL port) Fld.FAB_PC_DISABLE = false → p.topo.hasPeer port = true → p.portState port ≤ 1 →
        (∀ i < 4, (portDie port, portLaneUnit port i) ∉ p.ras.retired) → Answers (.portTrainingEnd port 4 loc pp delay) s (fun t =>
          let k := Reg.FAB_PORT_STATUS port
          t.pkg.fld k Fld.FAB_PS_STATE = 2 ∧ t.pkg.fld k Fld.FAB_PS_LANES = 15 ∧
          assoc? t.pkg.fab.delays port = some delay ∧ KeepsRegs [k] s t ∧ KeepsMem s t ∧ KeepsBlock s t)) ∧
      (∀ delay : Nat, p.portUp port = true → Answers (.portDelayMeasure port delay) s (fun t => assoc? t.pkg.fab.delays port = some delay ∧ same t)) ∧
      Becomes (.violationWindow port) s (p.setViols port ((0 :: p.violWins port).take 1000)))

/-! ### Triggers and collectives -/

/-- The packets of collectives go, each kind to its own service, in their flow's turn: a repeat is answered and not applied again, one for a communicator that
this package has not set up is answered alone, one outside its member's rights is refused 0x54 (R400, R427, R441, R601). A fire whose requests are answered
completes (R421). A member-wait time that runs out ends a SETUP with 0x28, drops its communicator, is counted and logged, and ends a collective that
waits (R446); before that nothing changes. A gate admits further chunks (R433), and a port's busy share is kept, at most 100 (R447). -/
def Obligations.Collectives : Prop :=
  (∀ (s : State) (port : Fin 36) (pkt : RawPacket), s.pkg.working = true → s.pkg.portUp port = true → s.pkg.locValid = true →
    pkt.header.length = 32 → pkt.payload.length ≤ 256 →
    let h := parseHdr pkt.header
    h.dest = s.pkg.ownLoc →
    let e := s.env
    let p1 := s.pkg.fabCount (portFab port) (Reg.FAB_CNT_RX (portFab port)) 1
    let seq := fullSeq (p1.inFlow h.src h.eng h.cls).next h.seqLo
    let k : FabPkt := ⟨port, seq, pkt.header, pkt.payload⟩
    checkOf h.dest h.addr seq pkt.header pkt.payload = pkt.check →
    let serves (i : Instr) : Prop := Becomes i s (p1.arriveRequest e k (fun u x => u.serveCol e x))
    (h.ty = 0x10 → serves (.contrib port pkt)) ∧ (h.ty = 0x11 → serves (.result port pkt)) ∧ (h.ty = 0x12 → serves (.abort port pkt)) ∧
    (h.ty = 0x13 → serves (.credit port pkt)) ∧ (h.ty = 0x14 → serves (.fallback port pkt)) ∧
    (h.ty = 0x15 → Becomes (.setupPacket port pkt) s (p1.arriveRequest e k (serveSetup e)))) ∧
  (∀ (e : Env) (p : Pkg) (k : FabPkt),
    let h := parseHdr k.header
    let x := parseCol k.payload
    formatReason p.topo h k.payload = 0 → h.epoch = p.regNat Reg.FAB_EPOCH →
    (k.seq ∈ (p.inFlow h.src h.eng h.cls).applied → p.serveCol e k =
      (p.fabCount (homeDie h.addr) (Reg.FAB_CNT_DUP (homeDie h.addr)) 1).answerPkt h k.seq tyReply 0 0 []) ∧
    (k.seq ∉ (p.inFlow h.src h.eng h.cls).applied → p.commOf h.src x.uid = none →
      p.serveCol e k = (p.noteApplied h.src h.eng h.cls k.seq).answerPkt h k.seq tyReply 0 0 []) ∧
    (∀ m, k.seq ∉ (p.inFlow h.src h.eng h.cls).applied → p.commOf h.src x.uid = some m → p.colGranted m h.src h.ty (addrOff h.addr) x = false →
      p.serveCol e k = p.nackPkt (portFab k.port) h k.seq 0x54)) ∧
  (∀ (s : State) (en : Fin 32) (entry : Fin 16384), s.pkg.working = true →
    let mine := s.pkg.fires.find? (fun f => f.engine == en.val && f.idx == entry.val)
    (mine = none → Becomes (.fireComplete en entry) s s.pkg) ∧
    (∀ f, mine = some f → Becomes (.fireComplete en entry) s ((s.pkg.concludeFire s.env f).settle s.env))) ∧
  (∀ (s : State) (q : Fin 64) (port : Fin 36) (busy : Nat), s.pkg.working = true →
    let p := s.pkg
    let e := s.env
    let setup := p.col.comms.find? (fun m => m.queue == some q.val)
    let run := p.col.runs.find? (fun r => r.queue == some q.val)
    (∀ m, setup = some m → e.hall < m.since + m.waitNs → Becomes (.collectiveTimeout q) s p) ∧
    (∀ m, setup = some m → m.since + m.waitNs ≤ e.hall →
      let gone := (m.others p.ownLoc).filter (fun l => !p.col.setups.any (fun x => x.uid == m.uid && x.src == l))
      let f := ((p.ctxEngines m.ctx).headD 0) / 4
      Becomes (.collectiveTimeout q) s
        ((((p.colCount f (Reg.COL_CNT_TIMEOUT f) 1).event 9 (20 + f) 0 1 0 (leBytes 4 m.id)).dropComm m).updRun q (fun u =>
          { u.raise e.tag 0x28 with undef := true, finished := true, endBeat := e.tag, detail := m.rankBase (gone.headD 0) }))) ∧
    (setup = none → run = none → Becomes (.collectiveTimeout q) s p ∧ Becomes (.gateRelease q) s p) ∧
    (∀ r m, setup = none → run = some r → p.comm? r.ctx r.comm = some m →
      (p.colWaited e m r = none → Becomes (.collectiveTimeout q) s p) ∧
      (∀ x, p.colWaited e m r = some x → Becomes (.collectiveTimeout q) s ((p.colTimeout e m r x.1 x.2).settle e)) ∧
      Becomes (.gateRelease q) s ((p.colAdmit e m r).settle e)) ∧
    Answers (.busyWindow port busy) s (fun t => assoc? t.pkg.fab.busy port = some (min 100 busy) ∧
      KeepsRegs [] s t ∧ KeepsMem s t ∧ KeepsBlock s t))

/-! ### Hall time and lock-step pairs -/

/-- At a multiple of 1 ms the master puts a beacon on every up port, and a package under BEACON forwards the one it has accepted (R458); at another time nothing is
sent. A beacon on the parent port of a package under BEACON is compared with its own time, locks it (R459, R460), and the first one of a package
with no enabled queue steps hall time to the beacon's, which otherwise stays (R455); any other beacon changes nothing. A PPS edge locks a
package under PPS (R457). Holdover begins when a beacon has been absent 5 ms or an edge 2 s (R460). A partner's digest is kept, or compared with the one held, whose signals
then follow or whose context stops (R475, R476). -/
def Obligations.TimeAndPairs : Prop :=
  (∀ (s : State), s.pkg.working = true →
    let p := s.pkg
    let e := s.env
    (e.hall % 1000000 ≠ 0 → Becomes .beaconSend s p) ∧
    (e.hall % 1000000 = 0 → p.isMaster = true → p.timSrc = 0 → p.time.sent = [] → Answers .beaconSend s (fun t =>
      t.pkg.time.sent = (rangeFilter 36 p.portUp).map (fun x => (x, e.hall)) ∧ KeepsRegs [] s t ∧ KeepsMem s t ∧ KeepsBlock s t)) ∧
    (e.hall % 1000000 = 0 → p.isMaster = false → p.timSrc = 1 → p.time.forward = true → Answers .beaconSend s (fun t =>
      t.pkg.time.sent = p.time.sent ++ (rangeFilter 36 (fun x => p.portUp x && p.parentPort != some x)).map (fun x => (x, e.hall)) ∧
      t.pkg.time.forward = false ∧ KeepsRegs [] s t ∧ KeepsMem s t ∧ KeepsBlock s t)) ∧
    (∀ off : Int, p.timSrc = 2 → p.fld Reg.TIM_STATUS Fld.TIM_LOCK ≠ 2 → Answers (.ppsEdge off) s (fun t =>
      t.pkg.fld Reg.TIM_STATUS Fld.TIM_LOCK = 1 ∧ t.pkg.time.heard = e.hall ∧ KeepsRegs [Reg.TIM_STATUS] s t ∧ KeepsMem s t ∧ KeepsBlock s t)) ∧
    (∀ off : Int, p.timSrc ≠ 2 → Becomes (.ppsEdge off) s p) ∧
    ((p.timSrc = 1 ∧ p.time.heard + 5000000 ≤ e.hall) ∨ (p.timSrc = 2 ∧ p.time.heard + 2000000000 ≤ e.hall) →
      p.fld Reg.TIM_STATUS Fld.TIM_LOCK ≠ 2 → Answers .holdoverEntry s (fun t => t.pkg.fld Reg.TIM_STATUS Fld.TIM_LOCK = 2 ∧
        t.pkg.time.holdSince = e.hall ∧ t.pkg.regNat Reg.TIM_CNT_HOLDOVER = (p.regNat Reg.TIM_CNT_HOLDOVER + 1) % 2 ^ 64 ∧
        (∃ m ∈ t.pkg.irqs, m.src = 132) ∧ KeepsRegs [Reg.TIM_STATUS, Reg.TIM_CNT_HOLDOVER] s t ∧ KeepsMem s t ∧ KeepsBlock s t)) ∧
    (p.timSrc = 0 ∨ e.hall < p.time.heard + 5000000 → Becomes .holdoverEntry s p)) ∧
  (∀ (s : State) (port : Fin 36) (value : Nat), s.pkg.working = true →
    let p := s.pkg
    (p.takesBeacon port = false → Becomes (.beaconReceive port value) s p) ∧
    (p.takesBeacon port = true → p.time.begun = true ∨ p.anyEnabled = true →
      Becomes (.beaconReceive port value) s (p.takeBeacon s.env port value)) ∧
    (p.takesBeacon port = true → p.time.begun = false → p.anyEnabled = false → Answers (.beaconReceive port value) s (fun t =>
      t.clock.hall = (value + (assoc? p.fab.delays port).getD 0) % 2 ^ 64 ∧ t.pkg.time.heard = t.clock.hall ∧ t.pkg.time.begun = true ∧
      t.pkg.fld Reg.TIM_STATUS Fld.TIM_LOCK = 1 ∧ t.pending = s.pending ∧ KeepsMem s t))) ∧
  (∀ (s : State) (q : Fin 64) (seq digest : Nat) (tiles : List Nat), s.pkg.working = true →
    let p := s.pkg
    let x : PairIn := ⟨q, seq, digest, tiles⟩
    let held := p.pairHeld.find? (fun h => h.queue == q.val && h.seq == seq)
    (p.paired (p.queueCtx q) = false → Becomes (.pairDigest q seq digest tiles) s p) ∧
    (p.paired (p.queueCtx q) = true → held = none → Answers (.pairDigest q seq digest tiles) s (fun t =>
      t.pkg.pairIn = p.pairIn ++ [x] ∧ KeepsRegs [] s t ∧ KeepsMem s t ∧ KeepsBlock s t)) ∧
    (∀ h, p.paired (p.queueCtx q) = true → held = some h → h.digest = digest → Becomes (.pairDigest q seq digest tiles) s
      (({ p with pairHeld := p.pairHeld.erase h, pairIn := p.pairIn.erase x } : Pkg).signalsAndIrq h.queue h.desc h.status)) ∧
    (∀ h, p.paired (p.queueCtx q) = true → held = some h → h.digest ≠ digest → Answers (.pairDigest q seq digest tiles) s (fun t =>
      (t.pkg.ctxSt (p.queueCtx q)).pairStopped = true ∧ t.pkg.pairHeld = p.pairHeld.erase h ++ [h])) ∧
    (p.pairHeld.find? (fun h => h.queue == q.val) = none → Becomes (.pairTimeout q) s p) ∧
    (∀ h, p.pairHeld.find? (fun h => h.queue == q.val) = some h →
      let wait := 1000 * p.fld Reg.TIM_PAIR_WAIT Fld.TIM_PAIR_WAIT_US
      (s.env.hall < h.since + wait ∨ (p.ctxSt (p.queueCtx q)).pairStopped = true → Becomes (.pairTimeout q) s p) ∧
      (h.since + wait ≤ s.env.hall → (p.ctxSt (p.queueCtx q)).pairStopped = false → Answers (.pairTimeout q) s (fun t =>
        (t.pkg.ctxSt (p.queueCtx q)).pairStopped = true))))

/-! ### Self-tests, march tests and replay -/

/-- A targeted self-test starts for a unit that a class-8 event owes one, and no other (R480), with its port on three lanes where the unit is one of a port's (Table 14-2); it ends by a record of its duration, a pass making the error
transient and counted, a failure a lasting fault (R482). A scheduled march test waits until a spare stands in, its engine is unused, or 10 s have
passed; its pass is recorded and its spare goes back (R483). The second dispatcher takes over from a failed one (R485). A descriptor that
owes a replay is run again once its unit's test is over, with its journal's copies, its attempts counted and everything its first run counted
discarded (R495, R500); one of class 2 is not replayed (R497). Without such a unit, test or replay nothing changes. -/
def Obligations.FaultsAndReplay : Prop :=
  ∀ (s : State) (die : Fin 32) (u : Nat), s.pkg.working = true →
    let p := s.pkg
    let e := s.env
    let same (t : State) : Prop := KeepsRegs [] s t ∧ KeepsMem s t ∧ KeepsBlock s t
    let mine (x : UnitTest) : Bool := x.die == die.val && x.unit == u
    ((die.val, u) ∉ p.ras.ready → Becomes (.targetedSelfTestStart die u) s p) ∧
    ((die.val, u) ∈ p.ras.ready → (∀ l, testLane u = some l → p.portState l.1 ≠ 2) → Answers (.targetedSelfTestStart die u) s (fun t =>
      t.pkg.ras.tests = p.ras.tests ++ [⟨die, u, e.hall, false, true⟩] ∧ (die.val, u) ∉ t.pkg.ras.ready ∧ same t)) ∧
    (∀ l, (die.val, u) ∈ p.ras.ready → testLane u = some l → p.portState l.1 = 2 → Answers (.targetedSelfTestStart die u) s (fun t =>
      t.pkg.ras.tests = p.ras.tests ++ [⟨die, u, e.hall, false, true⟩] ∧ t.pkg.fld (Reg.FAB_PORT_STATUS l.1) Fld.FAB_PS_STATE = 3 ∧
      t.pkg.fld (Reg.FAB_PORT_STATUS l.1) Fld.FAB_PS_LANES = (15 - 2 ^ l.2) % 16 ∧ KeepsRegs [Reg.FAB_PORT_STATUS l.1] s t ∧ KeepsMem s t ∧
      KeepsBlock s t)) ∧
    (p.ras.tests.find? mine = none → ∀ pass, Becomes (.selfTestEnd die u pass) s p) ∧
    (∀ x, p.ras.tests.find? mine = some x → x.byError = true → (∀ l, testLane u = some l → p.portUp l.1 = false) → Answers (.selfTestEnd die u true) s (fun t =>
      t.pkg.ras.tests = p.ras.tests.erase x ∧ (die.val, u, e.hall) ∈ t.pkg.ras.transients ∧
      KeepsRegs [Reg.RAS_CNT_TRANSIENT] s t ∧ KeepsMem s t ∧ KeepsBlock s t ∧
      Logs s t (p.raised ++ [⟨false, die, u, 0, 2, 0, padTo 28 (leBytes 8 (e.hall - x.since))⟩]))) ∧
    (∀ x, p.ras.tests.find? mine = some x → Becomes (.selfTestEnd die u false) s
      (let y := (Pkg.laneBack { p with ras := { p.ras with tests := p.ras.tests.erase x } } u).lastingFault e die u
       (y.1.record die u 2 y.2 (leBytes 8 (e.hall - x.since))).noteResult ⟨die, u, false, y.2, e.hall - x.since⟩)) ∧
    (p.ras.marchDue.find? mine = none → Becomes (.marchTestStart die u) s p) ∧
    (∀ x, p.ras.marchDue.find? mine = some x → (die.val, u) ∉ p.ras.retired →
      let lend : Bool := u / 4096 != 10 && u / 4096 != 11 && p.poolFree die (unitPool u) > 0
      ((∀ l, testLane u = some l → p.portState l.1 ≠ 2) → lend = true ∨ p.unitInUse die u = false ∨ x.since + 10000000000 ≤ e.hall → Answers (.marchTestStart die u) s (fun t =>
        t.pkg.ras.marchDue = p.ras.marchDue.erase x ∧ t.pkg.ras.marching = p.ras.marching ++ [{ x with since := e.hall, spare := lend }] ∧ same t)) ∧
      (lend = false → p.unitInUse die u = true → e.hall < x.since + 10000000000 → Becomes (.marchTestStart die u) s p)) ∧
    (p.ras.marching.find? mine = none → ∀ pass, Becomes (.marchTestEnd die u pass) s p) ∧
    (∀ x, p.ras.marching.find? mine = some x → (∀ l, testLane u = some l → p.portUp l.1 = false) → Answers (.marchTestEnd die u true) s (fun t =>
      t.pkg.ras.marching = p.ras.marching.erase x ∧ (die.val, u, e.hall) ∈ t.pkg.ras.marchPassed ∧
      KeepsRegs [Reg.RAS_CNT_MARCH] s t ∧ KeepsMem s t ∧ KeepsBlock s t)) ∧
    (∀ d : Fin 8,
      let w := p.ras.waiting.find? (fun x => x.1 == d.val && x.2 / 4096 == 13)
      (w = none → Becomes (.spareDispatcherSwitch d) s p) ∧
      (∀ x, w = some x → Answers (.spareDispatcherSwitch d) s (fun t => t.pkg.ras.waiting = p.ras.waiting.erase x ∧ same t))) ∧
    (∀ q : Fin 64,
      (p.runOf q = none → Becomes (.descriptorReplay q) s p) ∧
      (∀ r, p.runOf q = some r → r.replayOn = none → Becomes (.descriptorReplay q) s p) ∧
      (∀ r x, p.runOf q = some r → r.replayOn = some x → r.jclass = 2 → Becomes (.descriptorReplay q) s (p.settleUnknown e r)) ∧
      (∀ r x, p.runOf q = some r → r.replayOn = some x → r.jclass ≠ 2 → p.testOver x = false → Becomes (.descriptorReplay q) s p) ∧
      (∀ r x, p.runOf q = some r → r.replayOn = some x → r.jclass ≠ 2 → p.testOver x = true → r.kind = 1 → Answers (.descriptorReplay q) s (fun t =>
        t.pkg.runOf q = some (r.again e) ∧ (∀ y ∈ t.pkg.coatNow, y.2.queue ≠ q.val) ∧ KeepsMem s t ∧ KeepsBlock s t)))

/-! ### Checkpoints and broadcasts -/

/-- The mask of a SAVE applies at its mask beat and not before: every page of its source ranges is masked, and its shards' writes begin (R517). A demand copy
that ends puts the page, as it stood when it was masked, into its staging page and unmasks it; held writes follow (R518, R519). A storage command that completes well takes its
write into the SAVE's moved data, and one that fails, or has not completed after 1 s and not before, is issued again or ends its descriptor (R525, R526).
A lost connection is marked, reported and logged once (R512). What names no such SAVE, page, command or connection changes nothing. -/
def Obligations.Checkpoints : Prop :=
  ∀ (s : State), s.pkg.working = true →
    let p := s.pkg
    let e := s.env
    (∀ q : Fin 64,
      (p.ckRun? q = none ∨ p.runOf q = none → Becomes (.maskApply q) s p) ∧
      (∀ r u, p.ckRun? q = some r → p.runOf q = some u →
        (r.kind ≠ 0 ∨ r.phase ≠ 0 ∨ e.tagHall < r.maskHall → Becomes (.maskApply q) s p) ∧
        (r.kind = 0 → r.phase = 0 → r.maskHall ≤ e.tagHall → Becomes (.maskApply q) s
          ((Pkg.ckPhase { p with masks := p.masks ++ ((r.shards.map (fun x => pagesOf x.src x.bytes)).flatten).map (fun x => ⟨x, q, none⟩) }
            { r with maskHall := e.tagHall } u.ctx 1 (r.shardCmds 0)).ckFlow e q ckFuel)) ∧
        -- where no connection is ready to take a command, the masks stand and the writes wait
        (r.kind = 0 → r.phase = 0 → r.maskHall ≤ e.tagHall → r.engine < 2 → r.shardCmds 0 ≠ [] → (∀ y ∈ u.statuses, y.2 ≠ 0x3f) →
          (∀ y ∈ p.ckp.cmds ++ r.shardCmds 0, y.issued = none → y.kind ≤ 2 ∧ p.connState y.conn ≠ 2) → Answers (.maskApply q) s (fun t =>
            t.pkg.masks = p.masks ++ ((r.shards.map (fun x => pagesOf x.src x.bytes)).flatten).map (fun x => ⟨x, q, none⟩) ∧
            t.pkg.ckRun? q = some { r with maskHall := e.tagHall, phase := 1 } ∧ (t.pkg.cmdsOf q).length = (p.cmdsOf q).length + (r.shardCmds 0).length ∧
            KeepsRegs [Reg.CKP_STATUS r.engine] s t ∧ KeepsMem s t ∧ KeepsBlock s t)))) ∧
    (∀ page : Nat,
      let m := p.masks.find? (fun m => m.page == page && m.copying.isSome)
      (m = none → Becomes (.demandCopyEnd page) s p) ∧
      (∀ k i r, m = some k → k.copying = some i → p.ckRun? k.queue = some r →
        let w := p.store e (.descriptor r.queue) (r.stageBase + i * 2 ^ 21) ((List.range (2 ^ 21)).map (fun n => p.maskedByte (page * 2 ^ 21 + n)))
        Becomes (.demandCopyEnd page) s (((((Pkg.setCk { w.1 with masks := w.1.masks.filter (fun x => x ≠ k) } { r with copies := r.copies + 1 }).ckpCount
          r.engine (Reg.CKP_CNT_DEMAND_COPY r.engine) 1).applyHeld e r.engine).nextCopies).unmaskDone e k.queue)) ∧
      (∀ k i r, m = some k → k.copying = some i → p.ckRun? k.queue = some r → p.held = [] → Answers (.demandCopyEnd page) s (fun t =>
        (∀ y ∈ t.pkg.masks, y ∈ p.masks ∧ y ≠ k) ∧ (∃ v, t.pkg.ckRun? k.queue = some v ∧ v.copies = r.copies + 1) ∧ t.pkg.held = [] ∧
        KeepsBlock s t))) ∧
    (∀ (x : Fin 2) (id : Nat),
      let c := p.ckp.cmds.find? (fun c => c.id == id && c.issued.isSome && p.connPort c.conn == x.val)
      -- every command has been issued, and each descriptor waits for one that `f` names
      let waits (f : StoreCmd → Bool) : Prop := (∀ y ∈ p.ckp.cmds, y.issued.isSome = true) ∧ ∀ u ∈ p.dsp.runs, u.kind = 5 → ckKind u.desc ≤ 3 →
        ckKind u.desc ≤ 1 ∧ (∀ v ∈ p.dsp.runs, v.queue = u.queue → ∀ y ∈ v.statuses, y.2 ≠ 0x3f) ∧ ∃ y ∈ p.ckp.cmds, y.queue = u.queue ∧ f y = true
      (c = none → (∀ st data par, Becomes (.storageCommandComplete x id st data par) s p)) ∧
      (∀ k data st, c = some k → st ≠ 0 →
        Becomes (.storageCommandComplete x id st data false) s ((p.cmdFailed e k 2 (st % 2048)).ckAll e)) ∧
      (∀ k data par, c = some k → k.kind = 2 → Becomes (.storageCommandComplete x id 0 data par) s ((p.dropCmd k).ckAll e)) ∧
      (∀ k data r, c = some k → k.kind = 1 → p.ckRun? k.queue = some r → r.kind = 0 → (p.runOf k.queue).isSome = true → waits (fun y => y.id != id) →
        Answers (.storageCommandComplete x id 0 data false) s (fun t => t.pkg.ckp.cmds = p.ckp.cmds.filter (fun y => y.id ≠ id) ∧
          (∃ v, t.pkg.ckRun? k.queue = some v ∧ v.moved = r.moved ++ [(k.shard, k.off, padTo (k.blocks * 4096) data)]) ∧ KeepsMem s t ∧
          KeepsBlock s t)) ∧
      (∀ k data par, c = some k → k.kind = 2 → waits (fun y => y.id != id) → Answers (.storageCommandComplete x id 0 data par) s (fun t =>
        t.pkg.ckp.cmds = p.ckp.cmds.filter (fun y => y.id ≠ id) ∧ t.pkg.ckp.runs = p.ckp.runs ∧ KeepsMem s t ∧ KeepsBlock s t)) ∧
      (∀ k data st, c = some k → k.kind ≤ 1 → Answers (.storageCommandComplete x id st data true) s (fun t =>
        t.pkg.ckp.cmds.map (fun y => y.id) = p.ckp.cmds.map (fun y => y.id))) ∧
      (∀ k data, c = some k → k.kind = 1 →
        let g := match p.runOf k.queue with | some u => ckEngine u.desc | none => 0
        Becomes (.storageCommandComplete x id 0 data false) s
          ((((p.dropCmd k).ckpCount g (Reg.CKP_CNT_BYTES_IN g) (k.blocks * 4096)).readTaken e k data).ckAll e)) ∧
      (let d := p.ckp.cmds.find? (fun c => c.id == id && p.connPort c.conn == x.val)
       (d = none → Becomes (.storageCommandTimeout x id) s p) ∧
       (∀ k t, d = some k → k.issued = some t → e.hall < t + 1000000000 → Becomes (.storageCommandTimeout x id) s p) ∧
       (∀ k t, d = some k → k.issued = some t → t + 1000000000 ≤ e.hall →
         Becomes (.storageCommandTimeout x id) s ((p.cmdFailed e k 3 0).ckAll e)) ∧
       (∀ k t, d = some k → k.issued = some t → t + 1000000000 ≤ e.hall → k.tries < 4 → waits (fun _ => true) →
         Answers (.storageCommandTimeout x id) s (fun t =>
           t.pkg.ckp.cmds = p.ckp.cmds.map (fun y => if y.id = id then { k with tries := k.tries + 1, issued := some e.hall } else y) ∧
           t.pkg.ckp.runs = p.ckp.runs ∧ KeepsMem s t ∧ KeepsBlock s t)))) ∧
    (∀ n : Fin 64,
      (p.connState n ≠ 1 → p.connState n ≠ 2 → Becomes (.connectionLost n) s p) ∧
      (p.connState n = 1 ∨ p.connState n = 2 → Answers (.connectionLost n) s (fun t => t.pkg.connState n = 3 ∧ t.pkg.ckp = p.ckp ∧
        (∀ m : Fin 64, m ≠ n → t.pkg.connState m = p.connState m) ∧ KeepsMem s t ∧ KeepsBlock s t ∧
        Logs s t (p.raised ++ [⟨false, 28 + p.connPort n, 0xf000, 0, 9, 0, padTo 28 (leBytes 4 n ++ leBytes 4 0xffffffff)⟩]))))

/-- A member takes the next block of the image when its digest is the table's, writes it at its place, acknowledges it to its parent and forwards it to its
children; one out of turn, or before the table, changes nothing, and one that fails is asked for again (R533). A member that no block has reached for
2 ms re-attaches to its parent's parent, and a child silent for 2 ms is served no longer, neither before that (R534). When the member-wait time has
passed, and not before, the originator ends with 0x2C and the count of clear bits, and an unserved member with 0x3B (R535, R536). -/
def Obligations.Broadcasts : Prop :=
  ∀ (s : State) (q : Fin 64), s.pkg.working = true →
    let p := s.pkg
    let e := s.env
    (p.bcast? q = none → (∀ m, Becomes (.bcastBlock q m) s p) ∧ Becomes (.bcastReattach q) s p ∧ (∀ c, Becomes (.bcastChildDrop q c) s p) ∧
      Becomes (.bcastMemberWaitExpiry q) s p) ∧
    (∀ b, p.bcast? q = some b →
      (∀ i data, b.origin = true ∨ b.table = [] ∨ i ≠ b.done ∨ b.blocks ≤ b.done → Becomes (.bcastBlock q (.block i data)) s p) ∧
      (∀ data, b.origin = false → b.table ≠ [] → b.done < b.blocks →
        (data.length ≠ b.blockLen b.done ∨ sha256 data ≠ (b.table.drop (32 * b.done)).take 32 →
          Becomes (.bcastBlock q (.block b.done data)) s (p.bcastFail e b)) ∧
        (data.length = b.blockLen b.done → sha256 data = (b.table.drop (32 * b.done)).take 32 → b.done + 1 < b.blocks →
          let b1 : Bcast := { b with done := b.done + 1, quiet := e.hall, served := e.hall }
          let w := (p.setBcast b1).storeOrHold e (.descriptor b.queue) (b.image + imageBlock * b.done) data
          Becomes (.bcastBlock q (.block b.done data)) s ((b.children.filter (fun c => c.attached)).foldl (fun (u : Pkg) c =>
            u.tell b.queue c.member (.block b.done data)) (w.1.tell b.queue b.parent (.ack b.me (b.done + 1)))) ∧
          Answers (.bcastBlock q (.block b.done data)) s (fun t => ∃ v, t.pkg.bcast? q = some v ∧ v.done = b.done + 1 ∧ v.quiet = e.hall ∧
            v.served = e.hall ∧ t.pkg.ckp.sent = p.ckp.sent ++ (⟨q, b.parent, .ack b.me (b.done + 1)⟩ ::
              (b.children.filter (fun c => c.attached)).map (fun c => ⟨q, c.member, .block b.done data⟩))))) ∧
      (∀ bitmap bytes, b.origin = false → b.table = [] → bytes ≠ [] → bytes.length = 32 * b.blocks → (∀ x ∈ b.digest, x = 0) ∨ sha256 bytes = b.digest →
        Answers (.bcastBlock q (.table bitmap bytes)) s (fun t => ∃ v, t.pkg.bcast? q = some v ∧ v.table = bytes ∧ v.bitmap = bitmap ∧
          t.pkg.ckp.sent = p.ckp.sent ++ (b.children.filter (fun c => c.attached)).map (fun c => ⟨q, c.member, .table bitmap bytes⟩))) ∧
      (∀ bitmap bytes, b.origin = true ∨ b.table ≠ [] → Becomes (.bcastBlock q (.table bitmap bytes)) s p) ∧
      (∀ m next, b.done < b.blocks → Answers (.bcastBlock q (.ack m next)) s (fun t => ∃ v, t.pkg.bcast? q = some v ∧ v.children =
        b.children.map (fun c => if c.member = m then { c with acked := max c.acked next, heard := e.hall } else c) ∧
        KeepsRegs [] s t ∧ KeepsMem s t ∧ KeepsBlock s t)) ∧
      (∀ m crc next, crc ≠ b.tableCrc → Becomes (.bcastBlock q (.attach m crc next)) s ((p.tell q m .mismatch).bcastDone e q)) ∧
      (∀ m next, b.table = [] → b.done < b.blocks → Answers (.bcastBlock q (.attach m b.tableCrc next)) s (fun t => ∃ v, t.pkg.bcast? q = some v ∧
        v.children = b.children.filter (fun c => c.member ≠ m) ++ [⟨m, true, next, e.hall⟩] ∧ t.pkg.ckp.sent = p.ckp.sent)) ∧
      (b.origin = false → Becomes (.bcastBlock q .mismatch) s (p.bcastEnd e b (fun u => u.abort e.tag 0x77))) ∧
      (b.origin = false → b.done < b.blocks → b.quiet + bcastQuiet ≤ e.hall → b.parent ≠ 0 → Answers (.bcastReattach q) s (fun t =>
        ∃ v, t.pkg.bcast? q = some v ∧ v.parent = (b.parent - 1) / 8 ∧ v.reattached = b.reattached + 1 ∧ v.quiet = e.hall ∧
          t.pkg.ckp.sent = p.ckp.sent ++ [⟨q, (b.parent - 1) / 8, .attach b.me b.tableCrc b.done⟩] ∧ KeepsMem s t ∧ KeepsBlock s t)) ∧
      (b.origin = false → b.parent = 0 → Becomes (.bcastReattach q) s p) ∧
      (b.origin = true ∨ b.blocks ≤ b.done ∨ e.hall < b.quiet + bcastQuiet → Becomes (.bcastReattach q) s p) ∧
      (∀ c ∈ b.children, c.acked < b.blocks → c.heard + bcastQuiet ≤ e.hall → Becomes (.bcastChildDrop q c.member) s
        ((p.setBcast { b with children := b.children.filter (fun x => x.member ≠ c.member) }).bcastDone e q)) ∧
      (∀ c ∈ b.children, c.acked < b.blocks → c.heard + bcastQuiet ≤ e.hall → b.origin = true ∨ b.done < b.blocks →
        Answers (.bcastChildDrop q c.member) s (fun t => ∃ v, t.pkg.bcast? q = some v ∧
          v.children = b.children.filter (fun x => x.member ≠ c.member) ∧ KeepsRegs [] s t ∧ KeepsMem s t ∧ KeepsBlock s t)) ∧
      (∀ m, (∀ c ∈ b.children, c.member = m → e.hall < c.heard + bcastQuiet) → Becomes (.bcastChildDrop q m) s p) ∧
      (b.origin = true → b.bitHall + b.waitNs ≤ e.hall → Becomes (.bcastMemberWaitExpiry q) s
        (p.bcastEnd e b (fun u => { u.raise e.tag 0x2c with detail := clearBits b (p.bitmapBytes b) }))) ∧
      (∀ u, p.runOf q = some u → b.origin = true → b.bitHall + b.waitNs ≤ e.hall → Answers (.bcastMemberWaitExpiry q) s (fun t =>
        t.pkg.bcast? q = none ∧ KeepsMem s t ∧ ∃ v, t.pkg.runOf q = some v ∧ v.finished = true ∧ (e.tag, 0x2c) ∈ v.statuses ∧
          v.detail = clearBits b (p.bitmapBytes b))) ∧
      (∀ u, p.runOf q = some u → b.origin = false → b.done < b.blocks → b.served + b.waitNs ≤ e.hall → Answers (.bcastMemberWaitExpiry q) s (fun t =>
        t.pkg.bcast? q = none ∧ ∃ v, t.pkg.runOf q = some v ∧ v.finished = true ∧ (e.tag, 0x3b) ∈ v.statuses ∧ v.undef = true)) ∧
      (b.origin = true → e.hall < b.bitHall + b.waitNs → Becomes (.bcastMemberWaitExpiry q) s p) ∧
      (b.origin = false → b.done < b.blocks → b.served + b.waitNs ≤ e.hall → Becomes (.bcastMemberWaitExpiry q) s
        ((p.freeBytes b.image b.bytes).bcastEnd e b (fun u => { u.raise e.tag 0x3b with undef := true }))) ∧
      (b.origin = false → b.blocks ≤ b.done ∨ e.hall < b.served + b.waitNs → Becomes (.bcastMemberWaitExpiry q) s p))

/-! ### The mailboxes and the undercoat -/

/-- A mailbox command's row acts only on the command that is served next, and only on its own (R548): where the complex does not run, none waits, or
another mailbox's or opcode's is served next, the row changes nothing. A reserved opcode is answered BAD_OPCODE, a command that fails a check of R551 or
R552 with that check's result and DETAIL, one that is not permitted being logged too, and a second long command of an opcode BUSY. An answer puts
DONE, the result and the tag into the mailbox's status without BUSY, takes the command away, raises interrupt 114 + m, and moves no byte of memory
(R546, R550). -/
def Obligations.MailboxOrder : Prop :=
  ∀ (s : State) (m : Fin 16) (op : Nat) (c : Instr), (op, c) ∈ mailboxRows m →
    let p := s.pkg
    let e := s.env
    let st := Reg.MGT_MB_STATUS m
    let answered (t : State) (k : MbCmd) (res : Nat) : Prop :=
      t.pkg.fld st Fld.MGT_MB_RESULT = res ∧ t.pkg.on st Fld.MGT_MB_DONE = true ∧ t.pkg.on st Fld.MGT_MB_BUSY = false ∧
      t.pkg.fld st Fld.MGT_MB_DONE_TAG = k.tag % 65536 ∧ (∀ x ∈ t.pkg.mbox, x.1 ≠ m.val) ∧ (∃ i ∈ t.pkg.irqs, i.src = 114 + m.val) ∧
      KeepsMem s t ∧ KeepsBlock s t
    (p.complexUp = false ∨ p.mbNext = none → Becomes c s p) ∧
    (∀ n k, p.complexUp = true → p.mbNext = some (n, k) →
      (n ≠ m.val ∨ (k.op ∈ mbOpcodes ∧ k.op ≠ op) → Becomes c s p) ∧
      (n = m.val → k.op ∉ mbOpcodes → Becomes c s (p.mbAnswer e m k resBadOpcode 0 []) ∧ Answers c s (fun t => answered t k resBadOpcode)) ∧
      (n = m.val → k.op = op →
        (∀ r, p.mbCheck m k = some r → Becomes c s ((if r.1 = resNotPermitted then p.noteDenied m op else p).mbAnswer e m k r.1 r.2 [])) ∧
        (k.at_ 1 1 ≠ 1 → Answers c s (fun t => answered t k resBadVersion)) ∧
        (k.at_ 1 1 = 1 → k.at_ 2 2 ≠ mbLength k.area → Answers c s (fun t => answered t k resBadLength)) ∧
        (p.mbCheck m k = none → mbLong op = true → (∃ x ∈ p.mbox, x.2.running = true ∧ x.2.op = op) →
          Becomes c s (p.mbAnswer e m k resBusy 0 []) ∧ Answers c s (fun t => answered t k resBusy))))

/-- The commands that report, set the cap, mark the log and set the master of hall time, once served: each answers DONE with the fields of its
response, a parameter out of range is answered BAD_PARAM, and a die outside an owner's partition is not permitted. POWER_CAP takes effect two beats after
its doorbell's (R554); POWER_STATUS starts the lowest voltage and the hottest sensor's least and greatest again; LOG_READ returns up to three entries from the number asked for; LOG_MARK waits for its
record; TIME_SET_MASTER moves hall time to the value asked for when no queue is enabled, and is refused UNIT_STATE when one is (R456, R556). -/
def Obligations.MailboxReports : Prop :=
  ∀ (s : State) (m : Fin 16) (k : MbCmd),
    let p := s.pkg
    let e := s.env
    let done (c : Instr) (data : List Byte) : Prop := Becomes c s (p.mbAnswer e m k resDone 0 data)
    let fails (c : Instr) (r : Nat) : Prop := Becomes c s (p.mbAnswer e m k r 0 [])
    (s.Serves m 0x01 k → done (.identify m)
      (leBytes 8 Config.serial.toNat ++ leBytes 4 p.locReport ++ leBytes 1 0x10 ++ leBytes 1 p.grade ++ leBytes 2 p.numLevel ++
        leBytes 4 p.mgt.version ++ leBytes 1 2 ++ leBytes 1 4 ++ leBytes 1 1 ++ leBytes 1 0 ++ leBytes 1 p.slotRun ++ leBytes 1 (p.mbRole m) ++
        leBytes 1 (p.mbPart m))) ∧
    (s.Serves m 0x02 k → done (.features m) (leBytes 32 ((mbOpcodes.map (fun x => 2 ^ x)).sum) ++ leBytes 4 4096 ++ leBytes 4 261120 ++ leBytes 4 14)) ∧
    (s.Serves m 0x30 k →
      let w := k.at_ 0x10 2
      (2500 ≤ w → w ≤ 8000 → w % 50 = 0 → Becomes (.powerCap m) s
        (({ p with pwr := { p.pwr with capNext := some (k.beat + 2, w) } } : Pkg).mbAnswer e m k resDone 0
          (leBytes 2 w ++ leBytes 6 0 ++ leBytes 8 (16 * (k.beat + 2))))) ∧
      (w < 2500 ∨ 8000 < w ∨ w % 50 ≠ 0 → fails (.powerCap m) resBadParam)) ∧
    (s.Serves m 0x31 k →
      let vin := p.fld Reg.PWR_MEAS Fld.PWR_VIN_MV
      let low := if p.mgt.vinLow = 0 then vin else min vin p.mgt.vinLow
      let hot := p.fld Reg.PWR_TJ Fld.PWR_TJ_SENSOR
      let sensors := if (assoc? p.mgt.sensors hot).isSome then assocPut p.mgt.sensors hot (p.pwr.hottest, p.pwr.hottest) else p.mgt.sensors
      Becomes (.powerStatus m) s (({ p with mgt := { p.mgt with vinLow := vin, sensors := sensors } } : Pkg).mbAnswer e m k resDone 0
        (leBytes 4 vin ++ leBytes 4 (p.fld Reg.PWR_MEAS Fld.PWR_PIN_W) ++ leBytes 2 (p.fld Reg.PWR_CAP Fld.PWR_CAP_W) ++
          leBytes 2 (p.fld Reg.PWR_TJ Fld.PWR_TJ_MAX) ++ leBytes 4 (p.regNat Reg.PWR_STATUS) ++ leBytes 4 low))) ∧
    (s.Serves m 0x40 k →
      let n := k.at_ 0x18 1
      let first := k.at_ 0x10 8
      let held := s.log.mram ++ s.log.buf
      let oldest := match held.head? with | some x => x.seq | none => s.log.next
      let got := (held.filter (fun x => x.seq ≥ first)).take n
      (1 ≤ n → n ≤ 3 → done (.logRead m) (leBytes 8 oldest ++ leBytes 8 s.log.next ++ leBytes 1 got.length ++
        leBytes 1 (if first < oldest then 1 else 0) ++ leBytes 30 0 ++ (got.map LogEntry.bytes).flatten)) ∧
      (n = 0 ∨ 3 < n → fails (.logRead m) resBadParam)) ∧
    (s.Serves m 0x41 k → Answers (.logMark m) s (fun t => (m.val, { k with running := true }) ∈ t.pkg.mbox ∧
      KeepsRegs [] s t ∧ KeepsMem s t ∧ KeepsBlock s t ∧
      Logs s t (p.raised ++ [⟨false, 30, 0, 0, 0xb, m, padTo 28 ((k.area.drop 0x10).take 28)⟩]))) ∧
    (s.Serves m 0x61 k →
      let die := k.at_ 0x10 1
      let ps := sparePools die
      (31 < die → fails (.spareStatus m) resBadParam) ∧ (die ≤ 31 → p.ownsDie m die = false → Becomes (.spareStatus m) s (p.mbDeny e m k)) ∧
      (die ≤ 31 → p.ownsDie m die = true → done (.spareStatus m) (leBytes 4 ps.length ++ (ps.map (fun x =>
        leBytes 1 x.1 ++ leBytes 1 x.2 ++ leBytes 1 (p.poolFree die x) ++ leBytes 1 (p.poolUsed die x))).flatten))) ∧
    (s.Serves m 0x71 k →
      let n := k.at_ 0x10 1
      let x := p.stack n
      let last (pc : Nat) : Nat := (assoc? x.trained pc).getD 0
      (23 < n → fails (.calStatus m) resBadParam) ∧ (n ≤ 23 → p.ownsDie m (n / 3) = false → Becomes (.calStatus m) s (p.mbDeny e m k)) ∧
      (n ≤ 23 → p.ownsDie m (n / 3) = true → done (.calStatus m) (leBytes 4 (p.mmioRead e (Reg.MEM_STK_STATUS n) 4) ++ leBytes 4 x.retrains ++
        leBytes 4 x.suspends ++ leBytes 4 x.calMax ++ leBytes 8 ((List.range 64).foldl (fun (a : Nat) pc => min a (last pc)) (last 0))))) ∧
    (s.Serves m 0x80 k →
      let hold := if p.fld Reg.TIM_STATUS Fld.TIM_LOCK = 2 then (e.hall - p.time.holdSince) / 1000000 else 0
      done (.timeStatus m) (leBytes 8 e.hall ++ leBytes 4 (p.mmioRead e Reg.TIM_STATUS 4) ++ leBytes 4 (p.regNat Reg.TIM_OFFSET) ++
        leBytes 4 p.time.master ++ leBytes 4 hold)) ∧
    (s.Serves m 0x81 k →
      let loc := k.at_ 0x10 4
      let at1 : Pkg := { p with time := { p.time with master := loc } }
      (p.topo.holds loc = false → fails (.timeSetMaster m) resBadParam) ∧
      (p.topo.holds loc = true → k.at_ 0x14 1 = 1 → p.anyEnabled = true → fails (.timeSetMaster m) resUnitState) ∧
      (p.topo.holds loc = true → k.at_ 0x14 1 ≠ 1 → Becomes (.timeSetMaster m) s (at1.mbAnswer e m k resDone 0 (leBytes 8 e.hall))) ∧
      (p.topo.holds loc = true → k.at_ 0x14 1 = 1 → p.anyEnabled = false → Answers (.timeSetMaster m) s (fun t =>
        t.clock.hall = k.at_ 0x18 8 ∧ t.pkg.time.master = loc ∧ t.pkg.time.heard = k.at_ 0x18 8 ∧
        t.pkg.fld (Reg.MGT_MB_STATUS m) Fld.MGT_MB_RESULT = resDone ∧ KeepsMem s t ∧ t.pending = s.pending)))

/-- The commands that change the undercoat, firmware, keys and pairs, once served. STAGE_SET and CAL_POLICY put their registers into the undercoat, BUSY
while another holds it and FULL beyond its 4,096 registers (R555, R558, R560); STAGE_CHECK, ATTEST, FW_VERIFY, FW_STAGE, SELFTEST and PAIR_SET stay in progress when
their parameters are in range (R548, R553, R557, R573); COMMIT sends the islands the staged registers of the generation checked, for a beat in range (R562 to R564);
STAGE_DISCARD empties an undercoat that is not armed; FW_ACTIVATE in mode 0 marks the idle, verified slot to boot next (R575); a signed PROPOSE becomes the pending
proposal of the next number, an ENDORSE that passes every check puts the change into the undercoat, and a WITHDRAW by the proposer takes it
away, each with the message's counter and its record (R604 to R608). -/
def Obligations.MailboxWork : Prop :=
  ∀ (s : State) (m : Fin 16) (k : MbCmd),
    let p := s.pkg
    let e := s.env
    let fails (c : Instr) (r : Nat) : Prop := Becomes c s (p.mbAnswer e m k r 0 [])
    let runs (c : Instr) (q : Pkg) : Prop := Becomes c s (q.mbRun m)
    let staged (t : State) : Prop := t.pkg.ucState = ucOpen ∧ t.pkg.ucHolder = m ∧ t.pkg.regNat Reg.MGT_UC_GEN = (p.regNat Reg.MGT_UC_GEN + 1) % 2 ^ 32 ∧
      t.pkg.fld (Reg.MGT_MB_STATUS m) Fld.MGT_MB_RESULT = resDone ∧ KeepsMem s t ∧ KeepsBlock s t
    let stages (c : Instr) (xs : List Staged) : Prop :=
      (p.mayStage m = false → fails c resBusy) ∧ (p.mayStage m = true → p.stage e m xs = none → fails c resFull) ∧
      (∀ q, p.mayStage m = true → p.stage e m xs = some q →
        Becomes c s (q.mbAnswer e m k resDone 0 (leBytes 4 q.staged.length ++ leBytes 4 (q.regNat Reg.MGT_UC_GEN))))
    (s.Serves m 0x10 k →
      let n := k.at_ 0x10 1
      let width (i : Nat) : Nat := k.at_ (0x1c + 16 * i) 1
      (n = 0 ∨ 14 < n ∨ (∃ i < n, width i ≠ 4 ∧ width i ≠ 8) → fails (.stageSet m) resBadParam) ∧
      (1 ≤ n → n ≤ 14 → (∀ i < n, width i = 4 ∨ width i = 8) → stages (.stageSet m) ((List.range n).map (fun i =>
        ⟨k.at_ (0x18 + 16 * i) 4, width i, BitVec.ofNat 64 (k.at_ (0x20 + 16 * i) (width i)), false⟩))) ∧
      (1 ≤ n → n ≤ 14 → (∀ i < n, width i = 4 ∨ width i = 8) → p.mayStage m = true → p.staged.length ≤ 4082 → Answers (.stageSet m) s (fun t =>
        let x : Staged := ⟨k.at_ (8 + 16 * n) 4, width (n - 1), BitVec.ofNat 64 (k.at_ (0x10 + 16 * n) (width (n - 1))), false⟩
        t.pkg.stagedAt x.key = some x ∧ staged t))) ∧
    (s.Serves m 0x70 k →
      let ms := k.at_ 0x10 2
      let t := k.at_ 0x12 1
      (50 ≤ ms → ms ≤ 1000 → ms % 50 = 0 → 2 ≤ t → t ≤ 10 →
        let x : Staged := ⟨Reg.MGT_CAL_POLICY, 4, BitVec.ofNat 64 (256 * t + ms / 50), false⟩
        stages (.calPolicy m) [x] ∧ (p.mayStage m = true → p.staged.length < 4096 → Answers (.calPolicy m) s (fun t =>
          t.pkg.stagedAt x.key = some x ∧ staged t))) ∧
      (ms < 50 ∨ 1000 < ms ∨ ms % 50 ≠ 0 ∨ t < 2 ∨ 10 < t → fails (.calPolicy m) resBadParam)) ∧
    (s.Serves m 0x11 k → runs (.stageCheck m) p) ∧ (s.Serves m 0xb0 k → runs (.attest m) p) ∧
    (s.Serves m 0x12 k →
      let gen := p.regNat Reg.MGT_UC_GEN
      let b := k.at_ 0x18 8
      let inRange : Prop := b = 0 ∨ (k.beat + 1250 ≤ b ∧ b ≤ k.beat + 3750000000)
      (p.working = false → fails (.commit m) resUnitState) ∧ (p.working = true → p.ucState = ucArmed → fails (.commit m) resBusy) ∧
      (p.working = true → p.ucState ≠ ucArmed → p.ucState ≠ ucChecked ∨ k.at_ 0x10 4 ≠ gen → Becomes (.commit m) s
        (p.mbAnswer e m k resNoCheck gen [])) ∧
      (p.working = true → p.ucState = ucChecked → k.at_ 0x10 4 = gen → ¬ inRange → fails (.commit m) resBeatRange) ∧
      (p.working = true → p.ucState = ucChecked → k.at_ 0x10 4 = gen → inRange →
        runs (.commit m) { p with mgt := { p.mgt with commit := some ⟨m, k.beat, b, gen, [], none, p.staged⟩ } })) ∧
    (s.Serves m 0x13 k →
      let done (q : Pkg) : Prop := Becomes (.stageDiscard m) s (q.mbAnswer e m k resDone 0 (leBytes 4 (q.regNat Reg.MGT_UC_GEN)))
      let b := p.regNat Reg.MGT_UC_LAST_BEAT
      let arm := p.regNat Reg.MGT_UC_ARM
      (p.ucState = ucEmpty → k.beat ≤ b → b < k.beat + 64 → fails (.stageDiscard m) resTooLate) ∧
      (p.ucState = ucEmpty → ¬ (k.beat ≤ b ∧ b < k.beat + 64) → fails (.stageDiscard m) resEmpty) ∧
      (p.ucState ≠ ucEmpty → p.ucState ≠ ucArmed → done ((p.ucRecord 3 arm).ucClear)) ∧
      (p.ucState = ucArmed → k.beat + 64 ≤ arm → done (p.ucCancel e)) ∧
      (p.ucState = ucArmed → arm < k.beat + 64 → fails (.stageDiscard m) resTooLate)) ∧
    (s.Serves m 0x50 k →
      let len := k.at_ 0x18 4
      let off := k.at_ 0x14 4
      (k.at_ 0x10 1 = 1 → 1 ≤ len → len ≤ 224 → off + len ≤ 33554432 → runs (.fwStage m) p) ∧
      (k.at_ 0x10 1 = 0 → 1 ≤ len → off + len ≤ 33554432 → p.noHole (k.at_ 0x20 8) len = true → runs (.fwStage m) p) ∧
      (1 < k.at_ 0x10 1 ∨ len = 0 ∨ 33554432 < off + len → fails (.fwStage m) resBadParam)) ∧
    (s.Serves m 0x51 k → (1 ≤ k.at_ 0x10 4 → k.at_ 0x10 4 ≤ 33554432 → runs (.fwVerify m) p) ∧
      (k.at_ 0x10 4 = 0 ∨ 33554432 < k.at_ 0x10 4 → fails (.fwVerify m) resBadParam)) ∧
    (s.Serves m 0x52 k →
      let i := p.slotIdle
      let mode := k.at_ 0x10 1
      let q := ((p.setFld Reg.MGT_STATUS Fld.MGT_SLOT_NEXT i).setSlot i { p.slot i with staging := false }).fwRecord 2 i
      (1 < mode → fails (.fwActivate m) resBadParam) ∧ (mode ≤ 1 → p.slotValid i = false → fails (.fwActivate m) resUnitState) ∧
      (mode = 0 → p.slotValid i = true → Becomes (.fwActivate m) s (q.mbAnswer e m k resDone 0 q.slotsReport)) ∧
      (mode = 1 → p.slotValid i = true → p.ucState = ucArmed → fails (.fwActivate m) resBusy) ∧
      (mode = 1 → p.slotValid i = true → p.ucState ≠ ucArmed → Becomes (.fwActivate m) s ((q.mbRun m).restart e i))) ∧
    (s.Serves m 0x60 k →
      let die := k.at_ 0x10 1
      let u := k.at_ 0x12 2
      (1 < k.at_ 0x11 1 ∨ unitOnDie die u = false → fails (.selftest m) resBadParam) ∧
      (k.at_ 0x11 1 ≤ 1 → unitOnDie die u = true → p.ownsDie m die = false → Becomes (.selftest m) s (p.mbDeny e m k)) ∧
      (k.at_ 0x11 1 ≤ 1 → unitOnDie die u = true → p.ownsDie m die = true → (die, u) ∈ p.ras.retired → fails (.selftest m) resUnitState) ∧
      (k.at_ 0x11 1 = 0 → unitOnDie die u = true → p.ownsDie m die = true → (die, u) ∉ p.ras.retired → unitKind u ≠ 13 →
        p.testOpen die u false = false →
        let p1 : Pkg := { p with ras := { p.ras with results := p.ras.results.filter (fun (y : TestResult) => !(y.die == die && y.unit == u && y.march == false)) } }
        runs (.selftest m) (p1.beginTest e die u false)) ∧
      (k.at_ 0x11 1 = 1 → unitOnDie die u = true → p.ownsDie m die = true → (die, u) ∉ p.ras.retired → unitKind u ≠ 13 →
        p.testOpen die u true = false → Answers (.selftest m) s (fun t => (m.val, { k with running := true }) ∈ t.pkg.mbox ∧
          t.pkg.ras.marchDue = p.ras.marchDue ++ [⟨die, u, e.hall, false, false⟩] ∧ KeepsRegs [] s t ∧ KeepsMem s t ∧ KeepsBlock s t))) ∧
    (s.Serves m 0xa0 k →
      let ctx := k.at_ 0x14 1
      let ok : Prop := ctx ≤ 7 ∧ k.at_ 0x15 1 ≤ 7 ∧ p.topo.holds (k.at_ 0x10 4) = true
      (¬ ok → fails (.pairSet m) resBadParam) ∧ (ok → p.mbPart m ≠ ctx → Becomes (.pairSet m) s (p.mbDeny e m k)) ∧
      (ok → p.mbPart m = ctx → p.ctxHasEnabled ctx = true → fails (.pairSet m) resUnitState) ∧
      (ok → p.mbPart m = ctx → p.ctxHasEnabled ctx = false → runs (.pairSet m) p)) ∧
    (s.Serves m 0x20 k →
      let role := p.signer m
      let kind := k.at_ 0x20 1
      let index := k.at_ 0x21 1
      let body := (k.area.drop 0x28).take 96
      let digest := sha384 ((k.area.drop 0x10).take 0x78)
      let x : Proposal := ⟨p.mgt.nextId, kind, index, body, role, digest, k.beat + 1875000000⟩
      let q := p.countNonce role k
      let q1 : Pkg := { q with mgt := { q.mgt with proposals := p.mgt.proposals ++ [x], nextId := (p.mgt.nextId + 1) % 2 ^ 32 } }
      let own : Bool := kind == 5 && index == 0 && role == 0 && p.mgt.keys.isEmpty && m.val == 0 && !noKey body
      let key := if own then some (body.take 96) else assoc? p.mgt.keys role
      let admitted : Prop := p.changeBad kind index body = false ∧ role ∈ p.changeRoles kind index body ∧ (kind = 7 → k.oob = true)
      (p.changeBad kind index body = true → fails (.protectPropose m) resBadParam) ∧
      (p.changeBad kind index body = false → role ∉ p.changeRoles kind index body ∨ (kind = 7 ∧ k.oob = false) →
        Becomes (.protectPropose m) s (p.mbDeny e m k)) ∧
      (∀ r, admitted → p.messageFails role key k 0x88 = some r → fails (.protectPropose m) r) ∧
      (admitted → p.messageFails role key k 0x88 = none → 16 ≤ p.mgt.proposals.length →
        Becomes (.protectPropose m) s (q.mbAnswer e m k resPendingFull 0 [])) ∧
      (admitted → p.messageFails role key k 0x88 = none → p.mgt.proposals.length < 16 →
        Becomes (.protectPropose m) s ((q1.protRecord 1 x).mbAnswer e m k resDone 0 (leBytes 4 x.id ++ leBytes 4 0 ++ leBytes 8 (16 * x.expiry) ++ digest)))) ∧
    (s.Serves m 0x21 k →
      let role := p.signer m
      let id := k.at_ 0x20 4
      let q := p.countNonce role k
      (p.mgt.proposals.find? (fun x => x.id == id) = none → id ∉ p.mgt.expired → fails (.protectEndorse m) resNoProposal) ∧
      (p.mgt.proposals.find? (fun x => x.id == id) = none → id ∈ p.mgt.expired → fails (.protectEndorse m) resExpired) ∧
      (∀ x, p.mgt.proposals.find? (fun x => x.id == id) = some x → x.kind ≠ 5 → p.messageFails role (assoc? p.mgt.keys role) k 0x58 = none →
        (x.expiry < k.beat → Becomes (.protectEndorse m) s (q.mbAnswer e m k resExpired 0 [])) ∧
        (k.beat ≤ x.expiry → (k.area.drop 0x28).take 48 ≠ x.digest → Becomes (.protectEndorse m) s (q.mbAnswer e m k resSignature 0 [])) ∧
        (k.beat ≤ x.expiry → (k.area.drop 0x28).take 48 = x.digest → x.role = role →
          Becomes (.protectEndorse m) s (q.mbAnswer e m k resSameRole 0 [])) ∧
        (∀ u, k.beat ≤ x.expiry → (k.area.drop 0x28).take 48 = x.digest → q.mayEndorse role x = true → (x.kind = 7 → k.oob = true) →
          q.mayStage m = true → q.stage e m (q.changeEntry x) = some u →
          let key := if x.kind = 6 ∨ x.kind = 7 then [⟨x.kind, x.index, x.body⟩] else []
          let v : Pkg := { u with mgt := { u.mgt with proposals := u.mgt.proposals.filter (fun y => y.id ≠ id), changes := u.mgt.changes ++ key } }
          Becomes (.protectEndorse m) s ((v.event 7 30 0 7 2 (protData x.id x.kind x.index)).mbAnswer e m k resDone 0
            (leBytes 4 (v.regNat Reg.MGT_UC_GEN)))) ∧
        (k.beat ≤ x.expiry → (k.area.drop 0x28).take 48 = x.digest → q.mayEndorse role x = true → x.kind = 1 → q.mayStage m = true →
          p.staged.length < 4096 → Answers (.protectEndorse m) s (fun t =>
            let y : Staged := ⟨Reg.SEC_PART x.index, 8, BitVec.ofNat 64 (leAt x.body 0 8), true⟩
            t.pkg.stagedAt y.key = some y ∧ t.pkg.mgt.proposals = p.mgt.proposals.filter (fun z => z.id ≠ id) ∧ staged t)))) ∧
    (s.Serves m 0x22 k →
      let role := p.signer m
      let id := k.at_ 0x20 4
      let q := p.countNonce role k
      (p.mgt.proposals.find? (fun x => x.id == id) = none → fails (.protectWithdraw m) resNoProposal) ∧
      (∀ x, p.mgt.proposals.find? (fun x => x.id == id) = some x →
        (∀ r, p.messageFails role (assoc? p.mgt.keys role) k 0x28 = some r → fails (.protectWithdraw m) r) ∧
        (p.messageFails role (assoc? p.mgt.keys role) k 0x28 = none → x.role ≠ role →
          Becomes (.protectWithdraw m) s (q.mbAnswer e m k resSignature 0 [])) ∧
        (p.messageFails role (assoc? p.mgt.keys role) k 0x28 = none → x.role = role →
          let v : Pkg := { q with mgt := { q.mgt with proposals := p.mgt.proposals.filter (fun y => y.id ≠ id) } }
          Becomes (.protectWithdraw m) s ((v.protRecord 3 x).mbAnswer e m k resDone 0 []))))

/-- Events of the complex. A long command in progress ends with its answer, and nothing else does (R548): a check that meets no conflict sets the undercoat checked (R561). A
command datagram reaches only a bound mailbox that takes it; one of the tag in progress is ignored, one of the last tag answered again (R549). An island's
acknowledgement within 1,000 beats counts once, the last one arms the commit, and acknowledgements missing after that cancel it (R564). An armed
commit is applied at its beat and not before (R565). A register both of whose shadows failed is rewritten (R568); a hold lapses after 300 s, a proposal after its expiry,
neither before (R558, R606). LOG_DRAIN moves the oldest entries of the buffer to MRAM (R571). Sensors show their readings (R541). Differing cores restart the complex (R543);
a restart's end boots its slot and answers what was in progress (R576), the other slot where its own does not verify, and a third
attempt that fails boots the other slot (R577). -/
def Obligations.ManagementEvents : Prop :=
  ∀ (s : State), s.pkg.complexUp = true →
    let p := s.pkg
    let e := s.env
    (∀ m : Fin 16, ∀ x,
      (assoc? p.mbox m = none → Becomes (.longCommandEnd m x) s p) ∧
      (∀ k, assoc? p.mbox m = some k → k.running = false → Becomes (.longCommandEnd m x) s p) ∧
      (∀ k, assoc? p.mbox m = some k → k.running = true →
        (k.op = 0x11 → p.ucState ≠ ucEmpty → p.ucState ≠ ucArmed → p.firstClash = none → Becomes (.longCommandEnd m x) s
          ((p.setFld Reg.MGT_UC_STATUS Fld.MGT_UC_STATE ucChecked).mbAnswer e m k resDone 0 (leBytes 4 (p.regNat Reg.MGT_UC_GEN))) ∧
          Answers (.longCommandEnd m x) s (fun t => t.pkg.ucState = ucChecked ∧ t.pkg.fld (Reg.MGT_MB_STATUS m) Fld.MGT_MB_RESULT = resDone ∧
            (∀ y ∈ t.pkg.mbox, y.1 ≠ m.val) ∧ KeepsMem s t ∧ KeepsBlock s t)) ∧
        (k.op = 0x11 → p.ucState = ucEmpty → Becomes (.longCommandEnd m x) s (p.mbAnswer e m k resEmpty 0 [])) ∧
        (k.op = 0xa0 → x = false → 16 * k.beat + 10000000000 ≤ e.hall → Becomes (.longCommandEnd m x) s (p.mbAnswer e m k resTimeout 0 [])) ∧
        (k.op = 0xa0 → x = false → e.hall < 16 * k.beat + 10000000000 → Becomes (.longCommandEnd m x) s p) ∧
        (k.op = 0xa0 → x = true → Becomes (.longCommandEnd m x) s (p.pairSetEnd e m k true)) ∧
        (k.op = 0x50 → Becomes (.longCommandEnd m x) s (p.fwStageEnd e m k)) ∧ (k.op = 0x51 → Becomes (.longCommandEnd m x) s (p.fwVerifyEnd e m k)) ∧
        (k.op = 0x60 → Becomes (.longCommandEnd m x) s (p.selftestEnd e m k)) ∧ (k.op = 0xb0 → Becomes (.longCommandEnd m x) s (p.attestEnd e m k)))) ∧
    (∀ (m : Fin 16) (tag : Nat) (area : List Byte),
      let bound : Bool := p.on (Reg.MGT_MB_BIND m) Fld.MGT_MB_BVALID && p.on (Reg.MGT_MB_BIND m) Fld.MGT_MB_OOB
      let mine : Bool := p.mbox.any (fun x => x.1 == m.val && x.2.tag == tag % 65536)
      let last : Bool := p.on (Reg.MGT_MB_STATUS m) Fld.MGT_MB_DONE && p.fld (Reg.MGT_MB_STATUS m) Fld.MGT_MB_DONE_TAG == tag % 65536
      (bound = true → mine = true → Becomes (.oobDuplicateDatagram m tag area) s p) ∧
      (bound = true → mine = false → last = true → Answers (.oobDuplicateDatagram m tag area) s (fun t =>
        t.pkg.mgt.oob = p.mgt.oob ++ [⟨m, tag % 65536, p.response m⟩] ∧ KeepsRegs [] s t ∧ KeepsMem s t ∧ KeepsBlock s t)) ∧
      (bound = true → mine = false → last = false → p.on (Reg.MGT_MB_STATUS m) Fld.MGT_MB_BUSY = false →
        Answers (.oobDuplicateDatagram m tag area) s (fun t => KeepsMem s t ∧ KeepsBlock s t ∧
          ∃ k : MbCmd, t.pkg.mbox = p.mbox ++ [(m.val, k)] ∧ k.tag = tag % 65536 ∧ k.beat = e.tag ∧ k.oob = true ∧ k.running = false)) ∧
      (bound = false → Answers (.oobDuplicateDatagram m tag area) s (fun t => t.pkg.on (Reg.MGT_MB_STATUS m) Fld.MGT_MB_REJECT = true ∧
        t.pkg.mbox = p.mbox ∧ KeepsRegs [Reg.MGT_MB_STATUS m, Reg.MGT_CNT_REJECT] s t ∧ KeepsMem s t ∧ KeepsBlock s t))) ∧
    (p.commitOpen = none → (∀ i, Becomes (.islandAcknowledge i) s p) ∧ Becomes .commitAckTimeout s p) ∧
    (∀ k c, p.commitOpen = some (k, c) → k.box < 16 →
      (k.since + 1000 < e.tag → (∀ i, Becomes (.islandAcknowledge i) s p) ∧ Becomes .commitAckTimeout s (p.commitFails e k c)) ∧
      (e.tag ≤ k.since + 1000 → Becomes .commitAckTimeout s p ∧ (∀ i : Fin 18, i.val ∈ k.acks → Becomes (.islandAcknowledge i) s p) ∧
        (∀ i : Fin 18, i.val ∉ k.acks → k.acks.length < 17 → Answers (.islandAcknowledge i) s (fun t =>
          t.pkg.mgt.commit = some { k with acks := i.val :: k.acks } ∧ KeepsRegs [] s t ∧ KeepsMem s t ∧ KeepsBlock s t)) ∧
        (∀ i : Fin 18, i.val ∉ k.acks → k.acks.length = 17 → p.ucState = ucChecked → p.regNat Reg.MGT_UC_GEN = k.gen → Answers (.islandAcknowledge i) s (fun t =>
          let b := if k.named = 0 then e.tag + 2 else k.named
          (t.pkg.mgt.commit.map (fun (x : CommitSt) => x.armed)) = some (some b) ∧ t.pkg.reg Reg.MGT_UC_ARM = BitVec.ofNat 64 b ∧ t.pkg.ucState = ucArmed ∧
          t.pkg.fld (Reg.MGT_MB_STATUS k.box) Fld.MGT_MB_RESULT = resDone ∧ KeepsMem s t ∧ KeepsBlock s t)))) ∧
    (p.working = true →
      (p.mgt.commit = none → Becomes .commitApply s p) ∧
      (∀ k, p.mgt.commit = some k → k.armed = none → Becomes .commitApply s p) ∧
      (∀ k b, p.mgt.commit = some k → k.armed = some b →
        (e.tag < b ∨ p.discardWaits b = true → Becomes .commitApply s p) ∧
        (b ≤ e.tag → p.discardWaits b = false →
          let q := (((((countFold 32 (fun dev q => q.settleDevice e dev) p).commitEffects e k).event 6 30 0 4 1 (leBytes 4 k.gen ++ leBytes 8 b ++ leBytes 4 k.shadows.length)).mgtCount
            Reg.MGT_CNT_COMMIT 1).setNat Reg.MGT_UC_LAST_BEAT b).setNat Reg.MGT_UC_LAST_GEN k.gen
          Becomes .commitApply s ({ q with mgt := { q.mgt with applied := k.shadows } } : Pkg).ucClear ∧
          Answers .commitApply s (fun t => t.pkg.ucState = ucEmpty ∧ t.pkg.staged = [] ∧ t.pkg.mgt.commit = none ∧ t.pkg.mgt.applied = k.shadows ∧
            t.pkg.reg Reg.MGT_UC_LAST_BEAT = BitVec.ofNat 64 b ∧ t.pkg.reg Reg.MGT_UC_LAST_GEN = BitVec.ofNat 64 k.gen)) ∧
        (∀ x h, b ≤ e.tag → p.discardWaits b = false → p.stackCtl = [] → p.mgt.changes = [] → k.shadows = [x] → x.off = Reg.MGT_CAL_POLICY →
          findReg x.off = some h → Answers .commitApply s (fun t => KeepsMem s t ∧
            let m := stagedMask h x.pair
            t.pkg.reg Reg.MGT_CAL_POLICY = (p.reg Reg.MGT_CAL_POLICY &&& ~~~m) ||| (x.value &&& m))))) ∧
    (∀ off : Nat,
      let x := p.mgt.applied.find? (fun y => y.off == off)
      (x = none → Becomes (.shadowRewrite off) s p) ∧
      (∀ y, x = some y → Answers (.shadowRewrite off) s (fun t => (∀ j, t.pkg.reg j = (p.applyStaged y).reg j) ∧ KeepsMem s t ∧ KeepsBlock s t)) ∧
      (∀ y h, x = some y → findReg off = some h → Answers (.shadowRewrite off) s (fun t =>
        let m := stagedMask h y.pair
        t.pkg.reg h.key = (p.reg h.key &&& ~~~m) ||| (y.value &&& m) ∧ KeepsRegs [h.key] s t ∧ KeepsMem s t ∧ KeepsBlock s t))) ∧
    ((p.ucState = ucOpen ∨ p.ucState = ucChecked) → p.mgt.commit = none →
      (p.ucSince + 300000000000 ≤ e.hall → Becomes .holdLapse s ((p.ucRecord 4 (p.regNat Reg.MGT_UC_ARM)).ucClear)) ∧
      (e.hall < p.ucSince + 300000000000 → Becomes .holdLapse s p)) ∧
    (∀ (n : Fin 16) (x : Proposal), p.mgt.proposals[n.val]? = some x →
      (e.tag ≤ x.expiry → Becomes (.proposalExpiry n) s p) ∧
      (x.expiry < e.tag → Answers (.proposalExpiry n) s (fun t => t.pkg.mgt.proposals = p.mgt.proposals.filter (fun y => y.id ≠ x.id) ∧
        x.id ∈ t.pkg.mgt.expired ∧ KeepsRegs [] s t ∧ KeepsMem s t ∧ KeepsBlock s t ∧
        Logs s t (p.raised ++ [⟨false, 30, 0, 0, 7, 4, padTo 28 (protData x.id x.kind x.index)⟩])))) ∧
    (∀ n : Nat, s.log.dropped = 0 → Answers (.logDrain n) s (fun t => t.log.buf = s.log.buf.drop n ∧ t.log.next = s.log.next ∧
      (∀ x ∈ s.log.buf.take n, x ∈ t.log.mram) ∧ t.pkg = p ∧ t.clock = s.clock ∧ t.pending = s.pending)) ∧
    (∀ vin : Nat, Answers (.sensorSample [] [] [] vin) s (fun t => t.pkg.fld Reg.PWR_MEAS Fld.PWR_VIN_MV = min vin 65535 ∧
      t.pkg.mgt.sensors = p.mgt.sensors ∧ KeepsRegs [Reg.PWR_MEAS] s t ∧ KeepsMem s t ∧ KeepsBlock s t)) ∧
    (∀ (i : Fin 256) (v : Int) (vin : Nat), Answers (.sensorSample [(i.val, v)] [] [] vin) s (fun t =>
      t.pkg.fld Reg.PWR_TJ Fld.PWR_TJ_SENSOR = i.val ∧ t.pkg.fld Reg.PWR_TJ Fld.PWR_TJ_MAX = ofSigned 16 v ∧ t.pkg.pwr.hottest = v ∧
      KeepsRegs [Reg.PWR_MEAS, Reg.PWR_TJ] s t ∧ KeepsMem s t ∧ KeepsBlock s t)) ∧
    Answers .lockstepMismatch s (fun t => t.pkg.fld Reg.MGT_STATUS Fld.MGT_STATE = 2 ∧ t.pkg.mgt.boot = p.slotRun ∧ KeepsMem s t ∧ KeepsBlock s t) ∧
    Becomes .complexRestartEnd s p ∧ Becomes .bootAttemptTimeout s p ∧
    (∀ u : State, u.pkg.fld Reg.MGT_STATUS Fld.MGT_STATE = 2 → u.pkg.bootable u.pkg.mgt.boot = false → u.pkg.bootable (1 - u.pkg.mgt.boot) = true →
      Becomes .complexRestartEnd u (((u.pkg.runOn (1 - u.pkg.mgt.boot) 3).fwRecord 4 (1 - u.pkg.mgt.boot)).measureBoot.answerRestarted u.env)) ∧
    (∀ u : State, u.pkg.fld Reg.MGT_STATUS Fld.MGT_STATE = 2 → u.pkg.bootable u.pkg.mgt.boot = true →
      Becomes .complexRestartEnd u ((u.pkg.runOn u.pkg.mgt.boot 1).measureBoot.answerRestarted u.env)) ∧
    (∀ u : State, u.pkg.fld Reg.MGT_STATUS Fld.MGT_STATE = 2 → u.pkg.mgt.power = true → u.pkg.mgt.since + 2000000000 ≤ u.env.hall →
      let other := 1 - u.pkg.mgt.boot
      (u.pkg.mgt.tries < 2 → Answers .bootAttemptTimeout u (fun t => t.pkg.mgt.tries = u.pkg.mgt.tries + 1 ∧ t.pkg.mgt.since = u.env.hall ∧
        KeepsRegs [] u t ∧ KeepsMem u t ∧ KeepsBlock u t)) ∧
      (2 ≤ u.pkg.mgt.tries → u.pkg.bootable other = true →
        let q : Pkg := { u.pkg with mgt := { u.pkg.mgt with tries := u.pkg.mgt.tries + 1, since := u.env.hall } }
        Becomes .bootAttemptTimeout u ((((q.runOn other 3).fwRecord 4 other).measureBoot).answerRestarted u.env)))

/-! ### Power, supply and the pins -/

/-- A fall below 42.0 V begins an episode: clocks stretched, fabric injections held, both shown, with interrupt 130 raised, and a
fall during one goes back to its hold; at 42.0 V or above nothing changes (R583, R584). A crossing of 43.0 V runs or restarts the recovery timer; 100 µs above it
release the injections, and not before; each 2.5 µs is one step, and the eighth ends the episode, shown in `PWR_DIP` (R584). A cap takes effect at its
beat and not before (R592). A phase that fails is shed once and logged (R581). An update raises by one the level of a die at its threshold, to 8 of a
die at 105 °C, and lowers one only after 1 ms of the release condition (R590, R591). -/
def Obligations.SupplyAndThrottle : Prop :=
  ∀ (s : State), s.pkg.working = true →
    let p := s.pkg
    let e := s.env
    let ep := p.pwr.episode
    (∀ mv : Nat,
      (42000 ≤ mv → Becomes (.supplyWarning mv) s p) ∧
      (∀ x, mv < 42000 → ep = some x → Answers (.supplyWarning mv) s (fun t =>
        t.pkg.pwr.episode = some ⟨x.since, min x.low mv, none, none, 0⟩ ∧ t.pkg.on Reg.PWR_STATUS Fld.PWR_FAB_HELD = true ∧
        KeepsRegs [Reg.PWR_STATUS] s t ∧ KeepsMem s t ∧ KeepsBlock s t)) ∧
      (mv < 42000 → ep = none → Answers (.supplyWarning mv) s (fun t => t.pkg.pwr.episode = some ⟨e.tagHall, mv, none, none, 0⟩ ∧
        t.pkg.on Reg.PWR_STATUS Fld.PWR_WARN_STICKY = true ∧ t.pkg.on Reg.PWR_STATUS Fld.PWR_STRETCHED = true ∧
        t.pkg.on Reg.PWR_STATUS Fld.PWR_FAB_HELD = true ∧ (∃ i ∈ t.pkg.irqs, i.src = 130) ∧
        KeepsRegs [Reg.PWR_STATUS, Reg.PWR_CNT_WARN, Reg.TIM_CNT_DIST_SUPPLY, Reg.TIM_STATUS] s t ∧ KeepsMem s t ∧ KeepsBlock s t)) ∧
      (ep = none → Becomes (.supplyRecovery mv) s p) ∧
      (∀ x, ep = some x → Answers (.supplyRecovery mv) s (fun t =>
        t.pkg.pwr.episode = some { x with low := min x.low mv, above := if 43000 < mv then some (x.above.getD e.tagHall) else none } ∧
        KeepsRegs [] s t ∧ KeepsMem s t ∧ KeepsBlock s t))) ∧
    (ep = none → Becomes .recoveryTimer s p ∧ Becomes .clockStep s p) ∧
    (∀ x, ep = some x →
      (x.above = none ∨ x.released.isSome = true → Becomes .recoveryTimer s p) ∧
      (∀ u, x.above = some u → x.released = none →
        (e.tagHall < u + 100000 → Becomes .recoveryTimer s p) ∧
        (u + 100000 ≤ e.tagHall →
          let w : Pkg := { p.delaySupply e with pwr := { p.pwr with episode := some { x with released := some e.tagHall } } }
          Becomes .recoveryTimer s ((w.setPwr Fld.PWR_FAB_HELD false).settle e))) ∧
      (x.released = none → Becomes .clockStep s p) ∧
      (∀ u, x.released = some u →
        (e.tagHall < u + 2500 * (x.steps + 1) → Becomes .clockStep s p) ∧
        (u + 2500 * (x.steps + 1) ≤ e.tagHall → x.steps < 7 → Answers .clockStep s (fun t =>
          t.pkg.pwr.episode = some { x with steps := x.steps + 1 } ∧ KeepsRegs [] s t ∧ KeepsMem s t ∧ KeepsBlock s t)) ∧
        (u + 2500 * (x.steps + 1) ≤ e.tagHall → 7 ≤ x.steps → Answers .clockStep s (fun t => t.pkg.pwr.episode = none ∧
          t.pkg.on Reg.PWR_STATUS Fld.PWR_STRETCHED = false ∧ t.pkg.fld Reg.PWR_DIP Fld.PWR_DIP_MIN_MV = min x.low 65535 ∧
          t.pkg.fld Reg.PWR_DIP Fld.PWR_DIP_US = min ((e.tagHall - x.since) / 1000) 65535 ∧
          KeepsRegs [Reg.PWR_STATUS, Reg.PWR_DIP] s t ∧ KeepsMem s t ∧ KeepsBlock s t)))) ∧
    (p.pwr.capNext = none → Becomes .capEffect s p) ∧
    (∀ b w, p.pwr.capNext = some (b, w) →
      (e.tag < b → Becomes .capEffect s p) ∧
      (b ≤ e.tag → Answers .capEffect s (fun t => t.pkg.fld Reg.PWR_CAP Fld.PWR_CAP_W = w % 65536 ∧ t.pkg.pwr.capNext = none ∧
        KeepsRegs [Reg.PWR_CAP] s t ∧ KeepsMem s t ∧ KeepsBlock s t))) ∧
    Becomes (.phaseCheck []) s p ∧
    (∀ ph ∈ p.pwr.shed, Becomes (.phaseCheck [ph]) s p) ∧
    (∀ ph : Nat, ph < 384 → ph ∉ p.pwr.shed → (∀ y ∈ p.pwr.shed, (railOf y).1 ≠ (railOf ph).1) → Answers (.phaseCheck [ph]) s (fun t =>
      t.pkg.pwr.shed = p.pwr.shed ++ [ph] ∧ t.pkg.pwr.levels = p.pwr.levels ∧ KeepsRegs [Reg.PWR_CNT_SHED] s t ∧ KeepsMem s t ∧ KeepsBlock s t ∧
      Logs s t (p.raised ++ [⟨false, 31, 0, 0, 0x11, 4, padTo 28 (leBytes 1 (railOf ph).1 ++ leBytes 2 (railOf ph).2)⟩]))) ∧
    (∀ (temps : List (Nat × Int)) (power : Nat) (u : Nat), u ∈ p.throttleUnits →
      let temp : Int := (assoc? temps (unitDie u)).getD 0
      let cap := p.fld Reg.PWR_CAP Fld.PWR_CAP_W
      let start : Int := 10 * (p.fld Reg.PWR_CFG Fld.PWR_THR_START : Nat)
      let release : Int := 10 * (p.fld Reg.PWR_CFG Fld.PWR_THR_RELEASE : Nat)
      Answers (.throttleUpdate temps power) s (fun t => KeepsMem s t ∧ KeepsBlock s t ∧
        (unitDie u ∈ p.pwr.pinned ∨ 1050 ≤ temp → t.pkg.level u = 8) ∧
        (unitDie u ∉ p.pwr.pinned → temp < 1050 → start ≤ temp ∨ cap < power → t.pkg.level u = min 8 (p.level u + 1)) ∧
        (unitDie u ∉ p.pwr.pinned → temp < 1050 → temp < start → power ≤ cap → release ≤ temp ∨ 98 * cap < 100 * power → t.pkg.level u = p.level u) ∧
        (∀ c, unitDie u ∉ p.pwr.pinned → temp < 1050 → temp < start → power ≤ cap → temp < release → 100 * power ≤ 98 * cap →
          assoc? p.pwr.cool u = some c → t.pkg.level u = if c + 1000000 ≤ e.tagHall then p.level u - 1 else p.level u)))

/-- A supply at its reset level, the loss of REFCLK, a junction at 115 °C and PORST_N end a working package's work: its boot stage leaves 5, every descriptor,
request, packet, solve and mask in flight is gone, memory's bytes stand, and a stop is shown; THERMTRIP_N is asserted by the junction alone (R586, R594,
R625, R631). Below those levels nothing changes. STBY_3V3 takes the complex down too (R587). WARM_N at stage 5 stops the work and raises the
package epoch; at another stage it is ignored (R632). A release of PORST_N with the test strap clear starts the package cold at stage 5 with memory zero, and with it set stays at
stage 0; without standby power nothing happens (R627, R628, R630). Standby power starts hall time at zero with the complex running its next-boot slot (R540, R542),
or the other one after three attempts that misread the image (R629). -/
def Obligations.StopsAndStarts : Prop :=
  ∀ (s : State),
    let p := s.pkg
    let e := s.env
    let idle (t : State) : Prop := t.pkg.dsp.runs = [] ∧ t.pkg.fab.reqs = [] ∧ t.pkg.net.flight = [] ∧ t.pkg.anvils = [] ∧ t.pkg.masks = [] ∧
      t.pkg.binds = [] ∧ t.pkg.ras.tests = [] ∧ KeepsMem s t
    let stopped (t : State) (trip : Bool) : Prop := idle t ∧ t.pkg.fld Reg.PKG_BOOT Fld.PKG_BOOT_STAGE = 6 ∧
      t.pkg.on Reg.PWR_STATUS Fld.PWR_COLD_STOP_LAST = true ∧ t.pkg.pwr.good = false ∧ t.pkg.stopBeat = some e.tag ∧
      (trip = true → t.pkg.pwr.trip = true ∧ t.pkg.on Reg.PWR_STATUS Fld.PWR_TRIP_LAST = true) ∧ (trip = false → t.pkg.pwr.trip = p.pwr.trip)
    (p.working = true →
      (∀ (v : Fin 3) (mv : Nat), resetLevel v mv = false → Becomes (.coldStop v mv) s p) ∧
      (∀ (v : Fin 3) (mv : Nat), resetLevel v mv = true → v ≠ 1 → Answers (.coldStop v mv) s (fun t => stopped t false ∧ KeepsBlock s t)) ∧
      (∀ mv : Nat, mv < 3000 → p.mgt.power = true → Answers (.coldStop 1 mv) s (fun t => idle t ∧ t.pkg.mgt.power = false ∧ t.pkg.complexUp = false ∧
        t.pkg.mgt.proposals = [] ∧ t.pkg.staged = [] ∧ t.log.buf = [] ∧ t.pending = s.pending ∧ t.clock = s.clock)) ∧
      Answers .refclkLoss s (fun t => stopped t false ∧ KeepsBlock s t) ∧
      (∀ (die : Fin 32) (temp : Nat), temp < 1150 → Becomes (.thermalTrip die temp) s p) ∧
      (∀ (die : Fin 32) (temp : Nat), 1150 ≤ temp → Answers (.thermalTrip die temp) s (fun t => stopped t true ∧ KeepsBlock s t)) ∧
      Answers .porstNAssert s (fun t => idle t ∧ t.pkg.pwr.porst = true ∧ t.pkg.working = false ∧ KeepsBlock s t) ∧
      (∀ n : Nat, 0 < n → p.mgt.power = true → Answers (.warmN n) s (fun t => idle t ∧ KeepsBlock s t ∧
        t.pkg.regNat Reg.FAB_EPOCH = ((((p.event 5 31 0 1 0 []).ucCancel e).dropWork.resetRegs warmMask).regNat Reg.FAB_EPOCH + 1) % 2 ^ 32))) ∧
    (∀ n : Nat, n = 0 ∨ p.mgt.power = false → Becomes (.warmN n) s p) ∧
    (∀ n : Nat, 0 < n → p.mgt.power = true → p.working = false → p.stopBeat ≠ some e.tag → Answers (.warmN n) s (fun t =>
      KeepsRegs [] s t ∧ KeepsMem s t ∧ KeepsBlock s t ∧
      Logs s t (p.raised ++ [⟨false, 31, 0, 0, 0x11, 3, padTo 28 (leBytes 4 (p.fld Reg.PKG_BOOT Fld.PKG_BOOT_STAGE))⟩]))) ∧
    (∀ (straps : Fin 256) (failed : List Nat) (n : Nat),
      (p.pwr.porst = false ∨ p.mgt.power = false ∨ p.complexUp = false → Becomes (.porstNRelease straps ⟨failed, n⟩) s p) ∧
      (p.pwr.porst = true → p.mgt.power = true → p.complexUp = true → straps.val.testBit 7 = true → Answers (.porstNRelease straps ⟨failed, n⟩) s (fun t =>
        t.pkg.regNat Reg.PKG_STRAPS = straps ∧ t.pkg.fld Reg.PKG_BOOT Fld.PKG_BOOT_STAGE = 0 ∧ t.pkg.fld Reg.PKG_BOOT Fld.PKG_BOOT_FAIL = 3 ∧
        t.pkg.pwr.porst = false ∧ KeepsRegs [Reg.PKG_STRAPS, Reg.PKG_BOOT] s t ∧ KeepsMem s t ∧ KeepsBlock s t)) ∧
      (p.pwr.porst = true → p.mgt.power = true → p.complexUp = true → straps.val.testBit 7 = false → n < 6 → Answers (.porstNRelease straps ⟨failed, n⟩) s (fun t =>
        t.pkg.working = true ∧ (∀ a, t.pkg.byte a = 0) ∧ t.pkg.pwr.good = true ∧ t.pkg.pwr.porst = false ∧ t.pkg.dsp.runs = [] ∧
        t.pkg.staged = [] ∧ t.pkg.mgt.commit = none ∧ KeepsBlock s t)) ∧
      (p.pwr.porst = true → p.mgt.power = true → p.complexUp = true → straps.val.testBit 7 = false → 6 ≤ n →
        Becomes (.porstNRelease straps ⟨failed, n⟩) s (p.setNat Reg.PKG_STRAPS straps))) ∧
    (∀ r n, p.mgt.power = true → Answers (.standbyPowerGood ⟨r, n⟩) s (fun t => t = s)) ∧
    (∀ n, p.mgt.power = false → 3 ≤ n → n < 6 → p.bootable (1 - p.fld Reg.MGT_STATUS Fld.MGT_SLOT_NEXT) = true →
      Answers (.standbyPowerGood ⟨none, n⟩) s (fun t => t.clock.hall = 0 ∧ t.pkg.mgt.power = true ∧ t.pkg.complexUp = true ∧
        t.pkg.slotRun = 1 - p.fld Reg.MGT_STATUS Fld.MGT_SLOT_NEXT ∧ KeepsMem s t ∧ t.pending = s.pending)) ∧
    (∀ n, p.mgt.power = false → n < 3 → p.bootable (p.fld Reg.MGT_STATUS Fld.MGT_SLOT_NEXT) = true → Answers (.standbyPowerGood ⟨none, n⟩) s (fun t =>
      t.clock.hall = 0 ∧ t.pkg.mgt.power = true ∧ t.pkg.complexUp = true ∧ t.pkg.slotRun = p.fld Reg.MGT_STATUS Fld.MGT_SLOT_NEXT ∧
      t.pkg.fld Reg.PKG_BOOT Fld.PKG_BOOT_STAGE = 1 ∧ KeepsMem s t ∧ t.pending = s.pending))
end

