-- ==== Sys2Proof/Laws/Sparse.lean ====
section
/-! SUPPORT. Sparse tables and bit fields: what a read gives after a write, and that a write keeps the canonical form. -/

namespace Sys2Proof.Machine

theorem sparseGet_filter_ne {α : Type} (d : Nat → α) (m : List (Nat × α)) {k j : Nat} (h : j ≠ k) :
    sparseGet d (m.filter (fun x => x.1 ≠ k)) j = sparseGet d m j := by
  induction m with
  | nil => rfl
  | cons e t ih =>
    by_cases hk : e.1 = k
    · have : e.1 ≠ j := by omega
      simp_all [sparseGet]
    · rw [List.filter_cons_of_pos (by simpa using hk)]
      simp only [sparseGet, ih]

theorem sparseGet_filter_eq {α : Type} (d : Nat → α) (m : List (Nat × α)) (k : Nat) :
    sparseGet d (m.filter (fun x => x.1 ≠ k)) k = d k := by
  induction m with
  | nil => rfl
  | cons e t ih =>
    by_cases hk : e.1 = k <;> simp_all [sparseGet]

/-- A read after a write: the written key gives the written value, every other key what it gave before. -/
theorem sparseGet_sparseSet {α : Type} [DecidableEq α] (d : Nat → α) (m : List (Nat × α)) (k j : Nat) (v : α) :
    sparseGet d (sparseSet d m k v) j = if j = k then v else sparseGet d m j := by
  induction m with
  | nil => by_cases hv : v = d k <;> by_cases hj : j = k <;> simp_all [sparseSet, sparseGet, eq_comm]
  | cons e t ih =>
    by_cases he : e.1 < k
    · simp only [sparseSet, he, if_true, sparseGet, ih]
      by_cases hj : j = k
      · subst hj
        have : e.1 ≠ j := by omega
        simp [this]
      · simp [hj]
    · simp only [sparseSet, he, if_false]
      by_cases hj : j = k
      · subst hj
        by_cases hv : v = d j
        · simp only [hv, if_true]; exact sparseGet_filter_eq d (e :: t) j
        · simp [hv, sparseGet]
      · have hkj : k ≠ j := fun h => hj h.symm
        by_cases hv : v = d k
        · simp only [hv, if_true, hj, if_false]; exact sparseGet_filter_ne d (e :: t) hj
        · simp only [hv, if_false, hj, sparseGet, hkj]; exact sparseGet_filter_ne d (e :: t) hj

theorem sparseSet_keys {α : Type} [DecidableEq α] (d : Nat → α) (m : List (Nat × α)) (k : Nat) (v : α) (x : Nat × α)
    (h : x ∈ sparseSet d m k v) : x ∈ m ∨ x = (k, v) ∧ v ≠ d k := by
  induction m with
  | nil =>
    by_cases hv : v = d k <;> simp_all [sparseSet]
  | cons e t ih =>
    by_cases he : e.1 < k
    · simp only [sparseSet, he, if_true, List.mem_cons] at h
      rcases h with rfl | h
      · exact .inl (List.mem_cons_self)
      · rcases ih h with h | h
        · exact .inl (List.mem_cons_of_mem _ h)
        · exact .inr h
    · simp only [sparseSet, he, if_false] at h
      by_cases hv : v = d k
      · simp only [hv, if_true] at h
        exact .inl ((List.mem_filter.1 h).1)
      · simp only [hv, if_false, List.mem_cons] at h
        rcases h with rfl | h
        · exact .inr ⟨rfl, hv⟩
        · exact .inl ((List.mem_filter.1 h).1)

/-- A write keeps the canonical form. -/
theorem sparseSet_wf {α : Type} [DecidableEq α] (d : Nat → α) (m : List (Nat × α)) (k : Nat) (v : α) (h : SparseWf d m) :
    SparseWf d (sparseSet d m k v) := by
  refine ⟨?_, ?_⟩
  · obtain ⟨hs, -⟩ := h
    induction m with
    | nil => by_cases hv : v = d k <;> simp [sparseSet, hv]
    | cons e t ih =>
      have hs' := List.pairwise_cons.1 hs
      by_cases he : e.1 < k
      · simp only [sparseSet, he, if_true]
        refine List.pairwise_cons.2 ⟨fun x hx => ?_, ih hs'.2⟩
        rcases sparseSet_keys d t k v x hx with h | ⟨rfl, -⟩
        · exact hs'.1 x h
        · exact he
      · simp only [sparseSet, he, if_false]
        have hf : ((e :: t).filter (fun x => x.1 ≠ k)).Pairwise (fun a b => a.1 < b.1) := hs.filter _
        by_cases hv : v = d k
        · simpa only [hv, if_true] using hf
        · simp only [hv, if_false]
          refine List.pairwise_cons.2 ⟨fun x hx => ?_, hf⟩
          obtain ⟨hm, hk⟩ := List.mem_filter.1 hx
          have hk' : x.1 ≠ k := by simpa using hk
          rcases List.mem_cons.1 hm with rfl | hm
          · show k < _; omega
          · have := hs'.1 x hm; show k < _; omega
  · intro x hx
    rcases sparseSet_keys d m k v x hx with h' | ⟨rfl, hv⟩
    · exact h.2 x h'
    · exact hv

/-- Dropping entries keeps the canonical form. -/
theorem sparse_filter_wf {α : Type} (d : Nat → α) (m : List (Nat × α)) (p : Nat × α → Bool) (h : SparseWf d m) :
    SparseWf d (m.filter p) :=
  ⟨h.1.filter _, fun x hx => h.2 x (List.mem_filter.1 hx).1⟩

theorem bitsOf_eq (n hi lo : Nat) : bitsOf n hi lo = n / 2 ^ lo % 2 ^ (hi + 1 - lo) := by
  simp [bitsOf, Nat.shiftRight_eq_div_pow]

theorem testBit_getField (w : W64) (f : Field) (i : Nat) :
    (getField w f).testBit i = (decide (i < f.hi + 1 - f.lo) && w.getLsbD (f.lo + i)) := by
  simp [getField, bitsOf_eq, Nat.testBit_mod_two_pow, Nat.testBit_div_two_pow, Nat.add_comm, BitVec.getLsbD]

theorem getLsbD_fieldMask (hi lo i : Nat) :
    (fieldMask hi lo).getLsbD i = (decide (i < 64) && (decide (lo ≤ i) && decide (i - lo < hi + 1 - lo))) := by
  simp only [fieldMask, BitVec.getLsbD_ofNat, Nat.testBit_shiftLeft, Nat.testBit_two_pow_sub_one, ge_iff_le]

/-- A bit of a word after a field is written: inside the field the value's bit, outside the word's own. -/
theorem getLsbD_setField (w : W64) (f : Field) (v i : Nat) :
    (setField w f v).getLsbD i =
      (decide (i < 64) && if f.lo ≤ i ∧ i - f.lo < f.hi + 1 - f.lo then v.testBit (i - f.lo) else w.getLsbD i) := by
  simp only [setField, BitVec.getLsbD_or, BitVec.getLsbD_and, BitVec.getLsbD_not, getLsbD_fieldMask, BitVec.getLsbD_ofNat,
    Nat.testBit_shiftLeft, Nat.testBit_mod_two_pow, ge_iff_le]
  by_cases h : i < 64 <;> by_cases h1 : f.lo ≤ i <;> by_cases h2 : i - f.lo < f.hi + 1 - f.lo <;> simp [h, h1, h2]


/-- The written field reads as the value's low bits. -/
theorem getField_setField_same (w : W64) (f : Field) (v : Nat) (h' : f.hi < 64) :
    getField (setField w f v) f = v % 2 ^ (f.hi + 1 - f.lo) := by
  apply Nat.eq_of_testBit_eq
  intro i
  rw [testBit_getField, getLsbD_setField, Nat.testBit_mod_two_pow]
  by_cases hi : i < f.hi + 1 - f.lo
  · have h1 : f.lo + i < 64 := by omega
    simp [hi, h1]
  · simp [hi]

/-- A field apart from the written one reads as before. -/
theorem getField_setField_ne (w : W64) (f g : Field) (v : Nat) (h : f.hi < g.lo ∨ g.hi < f.lo) (hg : g.hi < 64) :
    getField (setField w f v) g = getField w g := by
  apply Nat.eq_of_testBit_eq
  intro i
  rw [testBit_getField, testBit_getField, getLsbD_setField]
  by_cases hi : i < g.hi + 1 - g.lo
  · have h1 : g.lo + i < 64 := by omega
    have h2 : ¬(f.lo ≤ g.lo + i ∧ g.lo + i - f.lo < f.hi + 1 - f.lo) := by omega
    simp [hi, h1, h2]
  · simp [hi]

end Sys2Proof.Machine
end

