-- ==== Sys2Proof/Laws/State.lean ====
section
/-! SUPPORT. What each update of the package leaves as it was, field by field, and what a register, a field of a register or a byte of
memory reads as after each. -/

namespace Sys2Proof.Machine

/-! ### Registers -/

/-- A register reads as it was last written. -/
@[simp] theorem reg_setReg (p : Pkg) (k j : Nat) (w : W64) : (p.setReg k w).reg j = if j = k then w else p.reg j :=
  sparseGet_sparseSet regDefault p.regs k j w

theorem regNat_eq (p : Pkg) (k : Nat) : p.regNat k = (p.reg k).toNat := rfl
theorem fld_eq (p : Pkg) (k : Nat) (f : Field) : p.fld k f = getField (p.reg k) f := rfl
theorem on_eq (p : Pkg) (k : Nat) (f : Field) : p.on k f = (getField (p.reg k) f == 1) := rfl
theorem setNat_eq (p : Pkg) (k n : Nat) : p.setNat k n = p.setReg k (BitVec.ofNat 64 n) := rfl
theorem setFld_eq (p : Pkg) (k : Nat) (f : Field) (v : Nat) : p.setFld k f v = p.setReg k (setField (p.reg k) f v) := rfl
theorem addReg_eq (p : Pkg) (k n : Nat) : p.addReg k n = p.setReg k (p.reg k + BitVec.ofNat 64 n) := rfl
theorem orReg_eq (p : Pkg) (k n : Nat) : p.orReg k n = p.setReg k (p.reg k ||| BitVec.ofNat 64 n) := rfl

/-- Cleared registers read zero, the others as before. -/
theorem reg_zeroRegs (p : Pkg) (ks : List Nat) (j : Nat) : (p.zeroRegs ks).reg j = if j ∈ ks then 0 else p.reg j := by
  unfold Pkg.zeroRegs
  induction ks generalizing p with
  | nil => rfl
  | cons k ks ih =>
    simp only [List.foldl_cons, ih, reg_setReg, List.mem_cons]
    by_cases h : j ∈ ks <;> by_cases h' : j = k <;> simp [h, h']

/-! ### Memory -/

/-- A byte reads as it was last written (R291). -/
@[simp] theorem byte_setByte (p : Pkg) (a x : Nat) (b : Byte) : (p.setByte a b).byte x = if x = a then b else p.byte x :=
  sparseGet_sparseSet (fun _ => 0) p.mem a x b

/-- A byte after bytes are stored: the stored one within their range, what it was outside. -/
theorem byte_setBytes (p : Pkg) (a x : Nat) (bs : List Byte) :
    (p.setBytes a bs).byte x = if a ≤ x ∧ x < a + bs.length then bs.getD (x - a) 0 else p.byte x := by
  induction bs generalizing p a with
  | nil =>
    have h0 : ¬(a ≤ x ∧ x < a + ([] : List Byte).length) := by simp
    rw [if_neg h0]; rfl
  | cons b bs ih =>
    simp only [Pkg.setBytes, ih, byte_setByte, List.length_cons]
    by_cases h1 : a + 1 ≤ x ∧ x < a + 1 + bs.length
    · have h2 : a ≤ x ∧ x < a + (bs.length + 1) := by omega
      have h3 : x - a = (x - (a + 1)) + 1 := by omega
      simp [h1, h2, h3]
    · by_cases h4 : x = a
      · subst h4; rw [if_neg h1, if_pos rfl, if_pos (by omega)]; simp
      · have h2 : ¬(a ≤ x ∧ x < a + (bs.length + 1)) := by omega
        rw [if_neg h1, if_neg h4, if_neg h2]

/-- Memory's canonical form (R300): addresses rising, no byte listed that reads as an unlisted one does. -/
theorem setByte_wf (p : Pkg) (a : Nat) (b : Byte) (h : Memory.wf p.mem) : Memory.wf (p.setByte a b).mem :=
  sparseSet_wf (fun _ => 0) p.mem a b h

theorem setBytes_wf (p : Pkg) (a : Nat) (bs : List Byte) (h : Memory.wf p.mem) : Memory.wf (p.setBytes a bs).mem := by
  induction bs generalizing p a with
  | nil => exact h
  | cons b bs ih => exact ih _ _ (setByte_wf p a b h)

theorem filter_mem_wf (m : List Host.Cell) (f : Host.Cell → Bool) (h : Memory.wf m) : Memory.wf (m.filter f) := sparse_filter_wf _ m f h

theorem reset_mem_wf : Memory.wf State.reset.pkg.mem := by decide

/-! ### What each update leaves -/
section
variable (p : Pkg) (k : Nat) (w : W64)
@[simp] theorem setReg_mem : (p.setReg k w).mem = p.mem := rfl
@[simp] theorem setReg_bad : (p.setReg k w).bad = p.bad := rfl
@[simp] theorem setReg_free : (p.setReg k w).free = p.free := rfl
@[simp] theorem setReg_raised : (p.setReg k w).raised = p.raised := rfl
@[simp] theorem setReg_irqs : (p.setReg k w).irqs = p.irqs := rfl
@[simp] theorem setReg_cycle : (p.setReg k w).cycle = p.cycle := rfl
@[simp] theorem setReg_flagCycle : (p.setReg k w).flagCycle = p.flagCycle := rfl
@[simp] theorem setReg_stageCycle : (p.setReg k w).stageCycle = p.stageCycle := rfl
@[simp] theorem setReg_dsp : (p.setReg k w).dsp = p.dsp := rfl
@[simp] theorem setReg_coatSlots : (p.setReg k w).coatSlots = p.coatSlots := rfl
@[simp] theorem setReg_stackCtl : (p.setReg k w).stackCtl = p.stackCtl := rfl
@[simp] theorem setReg_ras : (p.setReg k w).ras = p.ras := rfl
@[simp] theorem setReg_stopBeat : (p.setReg k w).stopBeat = p.stopBeat := rfl
@[simp] theorem setReg_masks : (p.setReg k w).masks = p.masks := rfl
@[simp] theorem setReg_held : (p.setReg k w).held = p.held := rfl
@[simp] theorem setReg_memOut : (p.setReg k w).memOut = p.memOut := rfl
@[simp] theorem setReg_memDone : (p.setReg k w).memDone = p.memDone := rfl
@[simp] theorem setReg_grade : (p.setReg k w).grade = p.grade := rfl
@[simp] theorem setReg_trigs : (p.setReg k w).trigs = p.trigs := rfl
@[simp] theorem setReg_binds : (p.setReg k w).binds = p.binds := rfl
@[simp] theorem setReg_fires : (p.setReg k w).fires = p.fires := rfl
@[simp] theorem setReg_pairHeld : (p.setReg k w).pairHeld = p.pairHeld := rfl
@[simp] theorem setReg_pairIn : (p.setReg k w).pairIn = p.pairIn := rfl
@[simp] theorem setReg_coatNow : (p.setReg k w).coatNow = p.coatNow := rfl
@[simp] theorem setReg_cores : (p.setReg k w).cores = p.cores := rfl
@[simp] theorem setReg_hostLines : (p.setReg k w).hostLines = p.hostLines := rfl
@[simp] theorem setReg_anvils : (p.setReg k w).anvils = p.anvils := rfl
@[simp] theorem setReg_staged : (p.setReg k w).staged = p.staged := rfl
@[simp] theorem setReg_ucSince : (p.setReg k w).ucSince = p.ucSince := rfl
@[simp] theorem setReg_mbox : (p.setReg k w).mbox = p.mbox := rfl
@[simp] theorem setReg_fwVersion : (p.setReg k w).fwVersion = p.fwVersion := rfl
@[simp] theorem setReg_fab : (p.setReg k w).fab = p.fab := rfl
@[simp] theorem setReg_net : (p.setReg k w).net = p.net := rfl
@[simp] theorem setReg_col : (p.setReg k w).col = p.col := rfl
@[simp] theorem setReg_time : (p.setReg k w).time = p.time := rfl
@[simp] theorem setReg_ckp : (p.setReg k w).ckp = p.ckp := rfl
@[simp] theorem setReg_mgt : (p.setReg k w).mgt = p.mgt := rfl
@[simp] theorem setReg_pwr : (p.setReg k w).pwr = p.pwr := rfl
@[simp] theorem setReg_byte (ad : Nat) : (p.setReg k w).byte ad = p.byte ad := rfl
end

section
variable (p : Pkg) (a : Nat) (b : Byte)
@[simp] theorem setByte_regs : (p.setByte a b).regs = p.regs := rfl
@[simp] theorem setByte_bad : (p.setByte a b).bad = p.bad := rfl
@[simp] theorem setByte_free : (p.setByte a b).free = p.free := rfl
@[simp] theorem setByte_raised : (p.setByte a b).raised = p.raised := rfl
@[simp] theorem setByte_irqs : (p.setByte a b).irqs = p.irqs := rfl
@[simp] theorem setByte_cycle : (p.setByte a b).cycle = p.cycle := rfl
@[simp] theorem setByte_flagCycle : (p.setByte a b).flagCycle = p.flagCycle := rfl
@[simp] theorem setByte_stageCycle : (p.setByte a b).stageCycle = p.stageCycle := rfl
@[simp] theorem setByte_dsp : (p.setByte a b).dsp = p.dsp := rfl
@[simp] theorem setByte_coatSlots : (p.setByte a b).coatSlots = p.coatSlots := rfl
@[simp] theorem setByte_stackCtl : (p.setByte a b).stackCtl = p.stackCtl := rfl
@[simp] theorem setByte_ras : (p.setByte a b).ras = p.ras := rfl
@[simp] theorem setByte_stopBeat : (p.setByte a b).stopBeat = p.stopBeat := rfl
@[simp] theorem setByte_masks : (p.setByte a b).masks = p.masks := rfl
@[simp] theorem setByte_held : (p.setByte a b).held = p.held := rfl
@[simp] theorem setByte_memOut : (p.setByte a b).memOut = p.memOut := rfl
@[simp] theorem setByte_memDone : (p.setByte a b).memDone = p.memDone := rfl
@[simp] theorem setByte_grade : (p.setByte a b).grade = p.grade := rfl
@[simp] theorem setByte_trigs : (p.setByte a b).trigs = p.trigs := rfl
@[simp] theorem setByte_binds : (p.setByte a b).binds = p.binds := rfl
@[simp] theorem setByte_fires : (p.setByte a b).fires = p.fires := rfl
@[simp] theorem setByte_pairHeld : (p.setByte a b).pairHeld = p.pairHeld := rfl
@[simp] theorem setByte_pairIn : (p.setByte a b).pairIn = p.pairIn := rfl
@[simp] theorem setByte_coatNow : (p.setByte a b).coatNow = p.coatNow := rfl
@[simp] theorem setByte_cores : (p.setByte a b).cores = p.cores := rfl
@[simp] theorem setByte_hostLines : (p.setByte a b).hostLines = p.hostLines := rfl
@[simp] theorem setByte_anvils : (p.setByte a b).anvils = p.anvils := rfl
@[simp] theorem setByte_staged : (p.setByte a b).staged = p.staged := rfl
@[simp] theorem setByte_ucSince : (p.setByte a b).ucSince = p.ucSince := rfl
@[simp] theorem setByte_mbox : (p.setByte a b).mbox = p.mbox := rfl
@[simp] theorem setByte_fwVersion : (p.setByte a b).fwVersion = p.fwVersion := rfl
@[simp] theorem setByte_fab : (p.setByte a b).fab = p.fab := rfl
@[simp] theorem setByte_net : (p.setByte a b).net = p.net := rfl
@[simp] theorem setByte_col : (p.setByte a b).col = p.col := rfl
@[simp] theorem setByte_time : (p.setByte a b).time = p.time := rfl
@[simp] theorem setByte_ckp : (p.setByte a b).ckp = p.ckp := rfl
@[simp] theorem setByte_mgt : (p.setByte a b).mgt = p.mgt := rfl
@[simp] theorem setByte_pwr : (p.setByte a b).pwr = p.pwr := rfl
@[simp] theorem setByte_reg (j : Nat) : (p.setByte a b).reg j = p.reg j := rfl
end

section
variable (p : Pkg) (die unit kind detail : Nat) (data : List Byte)
@[simp] theorem record_regs : (p.record die unit kind detail data).regs = p.regs := rfl
@[simp] theorem record_mem : (p.record die unit kind detail data).mem = p.mem := rfl
@[simp] theorem record_bad : (p.record die unit kind detail data).bad = p.bad := rfl
@[simp] theorem record_free : (p.record die unit kind detail data).free = p.free := rfl
@[simp] theorem record_irqs : (p.record die unit kind detail data).irqs = p.irqs := rfl
@[simp] theorem record_cycle : (p.record die unit kind detail data).cycle = p.cycle := rfl
@[simp] theorem record_flagCycle : (p.record die unit kind detail data).flagCycle = p.flagCycle := rfl
@[simp] theorem record_stageCycle : (p.record die unit kind detail data).stageCycle = p.stageCycle := rfl
@[simp] theorem record_dsp : (p.record die unit kind detail data).dsp = p.dsp := rfl
@[simp] theorem record_coatSlots : (p.record die unit kind detail data).coatSlots = p.coatSlots := rfl
@[simp] theorem record_stackCtl : (p.record die unit kind detail data).stackCtl = p.stackCtl := rfl
@[simp] theorem record_ras : (p.record die unit kind detail data).ras = p.ras := rfl
@[simp] theorem record_stopBeat : (p.record die unit kind detail data).stopBeat = p.stopBeat := rfl
@[simp] theorem record_masks : (p.record die unit kind detail data).masks = p.masks := rfl
@[simp] theorem record_held : (p.record die unit kind detail data).held = p.held := rfl
@[simp] theorem record_memOut : (p.record die unit kind detail data).memOut = p.memOut := rfl
@[simp] theorem record_memDone : (p.record die unit kind detail data).memDone = p.memDone := rfl
@[simp] theorem record_grade : (p.record die unit kind detail data).grade = p.grade := rfl
@[simp] theorem record_trigs : (p.record die unit kind detail data).trigs = p.trigs := rfl
@[simp] theorem record_binds : (p.record die unit kind detail data).binds = p.binds := rfl
@[simp] theorem record_fires : (p.record die unit kind detail data).fires = p.fires := rfl
@[simp] theorem record_pairHeld : (p.record die unit kind detail data).pairHeld = p.pairHeld := rfl
@[simp] theorem record_pairIn : (p.record die unit kind detail data).pairIn = p.pairIn := rfl
@[simp] theorem record_coatNow : (p.record die unit kind detail data).coatNow = p.coatNow := rfl
@[simp] theorem record_cores : (p.record die unit kind detail data).cores = p.cores := rfl
@[simp] theorem record_hostLines : (p.record die unit kind detail data).hostLines = p.hostLines := rfl
@[simp] theorem record_anvils : (p.record die unit kind detail data).anvils = p.anvils := rfl
@[simp] theorem record_staged : (p.record die unit kind detail data).staged = p.staged := rfl
@[simp] theorem record_ucSince : (p.record die unit kind detail data).ucSince = p.ucSince := rfl
@[simp] theorem record_mbox : (p.record die unit kind detail data).mbox = p.mbox := rfl
@[simp] theorem record_fwVersion : (p.record die unit kind detail data).fwVersion = p.fwVersion := rfl
@[simp] theorem record_fab : (p.record die unit kind detail data).fab = p.fab := rfl
@[simp] theorem record_net : (p.record die unit kind detail data).net = p.net := rfl
@[simp] theorem record_col : (p.record die unit kind detail data).col = p.col := rfl
@[simp] theorem record_time : (p.record die unit kind detail data).time = p.time := rfl
@[simp] theorem record_ckp : (p.record die unit kind detail data).ckp = p.ckp := rfl
@[simp] theorem record_mgt : (p.record die unit kind detail data).mgt = p.mgt := rfl
@[simp] theorem record_pwr : (p.record die unit kind detail data).pwr = p.pwr := rfl
@[simp] theorem record_reg (j : Nat) : (p.record die unit kind detail data).reg j = p.reg j := rfl
@[simp] theorem record_byte (ad : Nat) : (p.record die unit kind detail data).byte ad = p.byte ad := rfl
end

section
variable (p : Pkg) (q : Nat) (x : QueueSt)
@[simp] theorem setQueueSt_regs : (p.setQueueSt q x).regs = p.regs := rfl
@[simp] theorem setQueueSt_mem : (p.setQueueSt q x).mem = p.mem := rfl
@[simp] theorem setQueueSt_bad : (p.setQueueSt q x).bad = p.bad := rfl
@[simp] theorem setQueueSt_free : (p.setQueueSt q x).free = p.free := rfl
@[simp] theorem setQueueSt_raised : (p.setQueueSt q x).raised = p.raised := rfl
@[simp] theorem setQueueSt_irqs : (p.setQueueSt q x).irqs = p.irqs := rfl
@[simp] theorem setQueueSt_cycle : (p.setQueueSt q x).cycle = p.cycle := rfl
@[simp] theorem setQueueSt_flagCycle : (p.setQueueSt q x).flagCycle = p.flagCycle := rfl
@[simp] theorem setQueueSt_stageCycle : (p.setQueueSt q x).stageCycle = p.stageCycle := rfl
@[simp] theorem setQueueSt_coatSlots : (p.setQueueSt q x).coatSlots = p.coatSlots := rfl
@[simp] theorem setQueueSt_stackCtl : (p.setQueueSt q x).stackCtl = p.stackCtl := rfl
@[simp] theorem setQueueSt_ras : (p.setQueueSt q x).ras = p.ras := rfl
@[simp] theorem setQueueSt_stopBeat : (p.setQueueSt q x).stopBeat = p.stopBeat := rfl
@[simp] theorem setQueueSt_masks : (p.setQueueSt q x).masks = p.masks := rfl
@[simp] theorem setQueueSt_held : (p.setQueueSt q x).held = p.held := rfl
@[simp] theorem setQueueSt_memOut : (p.setQueueSt q x).memOut = p.memOut := rfl
@[simp] theorem setQueueSt_memDone : (p.setQueueSt q x).memDone = p.memDone := rfl
@[simp] theorem setQueueSt_grade : (p.setQueueSt q x).grade = p.grade := rfl
@[simp] theorem setQueueSt_trigs : (p.setQueueSt q x).trigs = p.trigs := rfl
@[simp] theorem setQueueSt_binds : (p.setQueueSt q x).binds = p.binds := rfl
@[simp] theorem setQueueSt_fires : (p.setQueueSt q x).fires = p.fires := rfl
@[simp] theorem setQueueSt_pairHeld : (p.setQueueSt q x).pairHeld = p.pairHeld := rfl
@[simp] theorem setQueueSt_pairIn : (p.setQueueSt q x).pairIn = p.pairIn := rfl
@[simp] theorem setQueueSt_coatNow : (p.setQueueSt q x).coatNow = p.coatNow := rfl
@[simp] theorem setQueueSt_cores : (p.setQueueSt q x).cores = p.cores := rfl
@[simp] theorem setQueueSt_hostLines : (p.setQueueSt q x).hostLines = p.hostLines := rfl
@[simp] theorem setQueueSt_anvils : (p.setQueueSt q x).anvils = p.anvils := rfl
@[simp] theorem setQueueSt_staged : (p.setQueueSt q x).staged = p.staged := rfl
@[simp] theorem setQueueSt_ucSince : (p.setQueueSt q x).ucSince = p.ucSince := rfl
@[simp] theorem setQueueSt_mbox : (p.setQueueSt q x).mbox = p.mbox := rfl
@[simp] theorem setQueueSt_fwVersion : (p.setQueueSt q x).fwVersion = p.fwVersion := rfl
@[simp] theorem setQueueSt_fab : (p.setQueueSt q x).fab = p.fab := rfl
@[simp] theorem setQueueSt_net : (p.setQueueSt q x).net = p.net := rfl
@[simp] theorem setQueueSt_col : (p.setQueueSt q x).col = p.col := rfl
@[simp] theorem setQueueSt_time : (p.setQueueSt q x).time = p.time := rfl
@[simp] theorem setQueueSt_ckp : (p.setQueueSt q x).ckp = p.ckp := rfl
@[simp] theorem setQueueSt_mgt : (p.setQueueSt q x).mgt = p.mgt := rfl
@[simp] theorem setQueueSt_pwr : (p.setQueueSt q x).pwr = p.pwr := rfl
@[simp] theorem setQueueSt_reg (j : Nat) : (p.setQueueSt q x).reg j = p.reg j := rfl
@[simp] theorem setQueueSt_byte (ad : Nat) : (p.setQueueSt q x).byte ad = p.byte ad := rfl
end

section
variable (p : Pkg) (c : Nat) (x : CtxSt)
@[simp] theorem setCtxSt_regs : (p.setCtxSt c x).regs = p.regs := rfl
@[simp] theorem setCtxSt_mem : (p.setCtxSt c x).mem = p.mem := rfl
@[simp] theorem setCtxSt_bad : (p.setCtxSt c x).bad = p.bad := rfl
@[simp] theorem setCtxSt_free : (p.setCtxSt c x).free = p.free := rfl
@[simp] theorem setCtxSt_raised : (p.setCtxSt c x).raised = p.raised := rfl
@[simp] theorem setCtxSt_irqs : (p.setCtxSt c x).irqs = p.irqs := rfl
@[simp] theorem setCtxSt_cycle : (p.setCtxSt c x).cycle = p.cycle := rfl
@[simp] theorem setCtxSt_flagCycle : (p.setCtxSt c x).flagCycle = p.flagCycle := rfl
@[simp] theorem setCtxSt_stageCycle : (p.setCtxSt c x).stageCycle = p.stageCycle := rfl
@[simp] theorem setCtxSt_coatSlots : (p.setCtxSt c x).coatSlots = p.coatSlots := rfl
@[simp] theorem setCtxSt_stackCtl : (p.setCtxSt c x).stackCtl = p.stackCtl := rfl
@[simp] theorem setCtxSt_ras : (p.setCtxSt c x).ras = p.ras := rfl
@[simp] theorem setCtxSt_stopBeat : (p.setCtxSt c x).stopBeat = p.stopBeat := rfl
@[simp] theorem setCtxSt_masks : (p.setCtxSt c x).masks = p.masks := rfl
@[simp] theorem setCtxSt_held : (p.setCtxSt c x).held = p.held := rfl
@[simp] theorem setCtxSt_memOut : (p.setCtxSt c x).memOut = p.memOut := rfl
@[simp] theorem setCtxSt_memDone : (p.setCtxSt c x).memDone = p.memDone := rfl
@[simp] theorem setCtxSt_grade : (p.setCtxSt c x).grade = p.grade := rfl
@[simp] theorem setCtxSt_trigs : (p.setCtxSt c x).trigs = p.trigs := rfl
@[simp] theorem setCtxSt_binds : (p.setCtxSt c x).binds = p.binds := rfl
@[simp] theorem setCtxSt_fires : (p.setCtxSt c x).fires = p.fires := rfl
@[simp] theorem setCtxSt_pairHeld : (p.setCtxSt c x).pairHeld = p.pairHeld := rfl
@[simp] theorem setCtxSt_pairIn : (p.setCtxSt c x).pairIn = p.pairIn := rfl
@[simp] theorem setCtxSt_coatNow : (p.setCtxSt c x).coatNow = p.coatNow := rfl
@[simp] theorem setCtxSt_cores : (p.setCtxSt c x).cores = p.cores := rfl
@[simp] theorem setCtxSt_hostLines : (p.setCtxSt c x).hostLines = p.hostLines := rfl
@[simp] theorem setCtxSt_anvils : (p.setCtxSt c x).anvils = p.anvils := rfl
@[simp] theorem setCtxSt_staged : (p.setCtxSt c x).staged = p.staged := rfl
@[simp] theorem setCtxSt_ucSince : (p.setCtxSt c x).ucSince = p.ucSince := rfl
@[simp] theorem setCtxSt_mbox : (p.setCtxSt c x).mbox = p.mbox := rfl
@[simp] theorem setCtxSt_fwVersion : (p.setCtxSt c x).fwVersion = p.fwVersion := rfl
@[simp] theorem setCtxSt_fab : (p.setCtxSt c x).fab = p.fab := rfl
@[simp] theorem setCtxSt_net : (p.setCtxSt c x).net = p.net := rfl
@[simp] theorem setCtxSt_col : (p.setCtxSt c x).col = p.col := rfl
@[simp] theorem setCtxSt_time : (p.setCtxSt c x).time = p.time := rfl
@[simp] theorem setCtxSt_ckp : (p.setCtxSt c x).ckp = p.ckp := rfl
@[simp] theorem setCtxSt_mgt : (p.setCtxSt c x).mgt = p.mgt := rfl
@[simp] theorem setCtxSt_pwr : (p.setCtxSt c x).pwr = p.pwr := rfl
@[simp] theorem setCtxSt_reg (j : Nat) : (p.setCtxSt c x).reg j = p.reg j := rfl
@[simp] theorem setCtxSt_byte (ad : Nat) : (p.setCtxSt c x).byte ad = p.byte ad := rfl
end

section
variable (p : Pkg) (r : Run)
@[simp] theorem setRun_regs : (p.setRun r).regs = p.regs := rfl
@[simp] theorem setRun_mem : (p.setRun r).mem = p.mem := rfl
@[simp] theorem setRun_bad : (p.setRun r).bad = p.bad := rfl
@[simp] theorem setRun_free : (p.setRun r).free = p.free := rfl
@[simp] theorem setRun_raised : (p.setRun r).raised = p.raised := rfl
@[simp] theorem setRun_irqs : (p.setRun r).irqs = p.irqs := rfl
@[simp] theorem setRun_cycle : (p.setRun r).cycle = p.cycle := rfl
@[simp] theorem setRun_flagCycle : (p.setRun r).flagCycle = p.flagCycle := rfl
@[simp] theorem setRun_stageCycle : (p.setRun r).stageCycle = p.stageCycle := rfl
@[simp] theorem setRun_coatSlots : (p.setRun r).coatSlots = p.coatSlots := rfl
@[simp] theorem setRun_stackCtl : (p.setRun r).stackCtl = p.stackCtl := rfl
@[simp] theorem setRun_ras : (p.setRun r).ras = p.ras := rfl
@[simp] theorem setRun_stopBeat : (p.setRun r).stopBeat = p.stopBeat := rfl
@[simp] theorem setRun_masks : (p.setRun r).masks = p.masks := rfl
@[simp] theorem setRun_held : (p.setRun r).held = p.held := rfl
@[simp] theorem setRun_memOut : (p.setRun r).memOut = p.memOut := rfl
@[simp] theorem setRun_memDone : (p.setRun r).memDone = p.memDone := rfl
@[simp] theorem setRun_grade : (p.setRun r).grade = p.grade := rfl
@[simp] theorem setRun_trigs : (p.setRun r).trigs = p.trigs := rfl
@[simp] theorem setRun_binds : (p.setRun r).binds = p.binds := rfl
@[simp] theorem setRun_fires : (p.setRun r).fires = p.fires := rfl
@[simp] theorem setRun_pairHeld : (p.setRun r).pairHeld = p.pairHeld := rfl
@[simp] theorem setRun_pairIn : (p.setRun r).pairIn = p.pairIn := rfl
@[simp] theorem setRun_coatNow : (p.setRun r).coatNow = p.coatNow := rfl
@[simp] theorem setRun_cores : (p.setRun r).cores = p.cores := rfl
@[simp] theorem setRun_hostLines : (p.setRun r).hostLines = p.hostLines := rfl
@[simp] theorem setRun_anvils : (p.setRun r).anvils = p.anvils := rfl
@[simp] theorem setRun_staged : (p.setRun r).staged = p.staged := rfl
@[simp] theorem setRun_ucSince : (p.setRun r).ucSince = p.ucSince := rfl
@[simp] theorem setRun_mbox : (p.setRun r).mbox = p.mbox := rfl
@[simp] theorem setRun_fwVersion : (p.setRun r).fwVersion = p.fwVersion := rfl
@[simp] theorem setRun_fab : (p.setRun r).fab = p.fab := rfl
@[simp] theorem setRun_net : (p.setRun r).net = p.net := rfl
@[simp] theorem setRun_col : (p.setRun r).col = p.col := rfl
@[simp] theorem setRun_time : (p.setRun r).time = p.time := rfl
@[simp] theorem setRun_ckp : (p.setRun r).ckp = p.ckp := rfl
@[simp] theorem setRun_mgt : (p.setRun r).mgt = p.mgt := rfl
@[simp] theorem setRun_pwr : (p.setRun r).pwr = p.pwr := rfl
@[simp] theorem setRun_reg (j : Nat) : (p.setRun r).reg j = p.reg j := rfl
@[simp] theorem setRun_byte (ad : Nat) : (p.setRun r).byte ad = p.byte ad := rfl
end

section
variable (p : Pkg) (r : Run)
@[simp] theorem addRun_regs : (p.addRun r).regs = p.regs := rfl
@[simp] theorem addRun_mem : (p.addRun r).mem = p.mem := rfl
@[simp] theorem addRun_bad : (p.addRun r).bad = p.bad := rfl
@[simp] theorem addRun_free : (p.addRun r).free = p.free := rfl
@[simp] theorem addRun_raised : (p.addRun r).raised = p.raised := rfl
@[simp] theorem addRun_irqs : (p.addRun r).irqs = p.irqs := rfl
@[simp] theorem addRun_cycle : (p.addRun r).cycle = p.cycle := rfl
@[simp] theorem addRun_flagCycle : (p.addRun r).flagCycle = p.flagCycle := rfl
@[simp] theorem addRun_stageCycle : (p.addRun r).stageCycle = p.stageCycle := rfl
@[simp] theorem addRun_coatSlots : (p.addRun r).coatSlots = p.coatSlots := rfl
@[simp] theorem addRun_stackCtl : (p.addRun r).stackCtl = p.stackCtl := rfl
@[simp] theorem addRun_ras : (p.addRun r).ras = p.ras := rfl
@[simp] theorem addRun_stopBeat : (p.addRun r).stopBeat = p.stopBeat := rfl
@[simp] theorem addRun_masks : (p.addRun r).masks = p.masks := rfl
@[simp] theorem addRun_held : (p.addRun r).held = p.held := rfl
@[simp] theorem addRun_memOut : (p.addRun r).memOut = p.memOut := rfl
@[simp] theorem addRun_memDone : (p.addRun r).memDone = p.memDone := rfl
@[simp] theorem addRun_grade : (p.addRun r).grade = p.grade := rfl
@[simp] theorem addRun_trigs : (p.addRun r).trigs = p.trigs := rfl
@[simp] theorem addRun_binds : (p.addRun r).binds = p.binds := rfl
@[simp] theorem addRun_fires : (p.addRun r).fires = p.fires := rfl
@[simp] theorem addRun_pairHeld : (p.addRun r).pairHeld = p.pairHeld := rfl
@[simp] theorem addRun_pairIn : (p.addRun r).pairIn = p.pairIn := rfl
@[simp] theorem addRun_coatNow : (p.addRun r).coatNow = p.coatNow := rfl
@[simp] theorem addRun_cores : (p.addRun r).cores = p.cores := rfl
@[simp] theorem addRun_hostLines : (p.addRun r).hostLines = p.hostLines := rfl
@[simp] theorem addRun_anvils : (p.addRun r).anvils = p.anvils := rfl
@[simp] theorem addRun_staged : (p.addRun r).staged = p.staged := rfl
@[simp] theorem addRun_ucSince : (p.addRun r).ucSince = p.ucSince := rfl
@[simp] theorem addRun_mbox : (p.addRun r).mbox = p.mbox := rfl
@[simp] theorem addRun_fwVersion : (p.addRun r).fwVersion = p.fwVersion := rfl
@[simp] theorem addRun_fab : (p.addRun r).fab = p.fab := rfl
@[simp] theorem addRun_net : (p.addRun r).net = p.net := rfl
@[simp] theorem addRun_col : (p.addRun r).col = p.col := rfl
@[simp] theorem addRun_time : (p.addRun r).time = p.time := rfl
@[simp] theorem addRun_ckp : (p.addRun r).ckp = p.ckp := rfl
@[simp] theorem addRun_mgt : (p.addRun r).mgt = p.mgt := rfl
@[simp] theorem addRun_pwr : (p.addRun r).pwr = p.pwr := rfl
@[simp] theorem addRun_reg (j : Nat) : (p.addRun r).reg j = p.reg j := rfl
@[simp] theorem addRun_byte (ad : Nat) : (p.addRun r).byte ad = p.byte ad := rfl
end

section
variable (p : Pkg) (q : Nat)
@[simp] theorem dropRun_regs : (p.dropRun q).regs = p.regs := rfl
@[simp] theorem dropRun_mem : (p.dropRun q).mem = p.mem := rfl
@[simp] theorem dropRun_bad : (p.dropRun q).bad = p.bad := rfl
@[simp] theorem dropRun_free : (p.dropRun q).free = p.free := rfl
@[simp] theorem dropRun_raised : (p.dropRun q).raised = p.raised := rfl
@[simp] theorem dropRun_irqs : (p.dropRun q).irqs = p.irqs := rfl
@[simp] theorem dropRun_cycle : (p.dropRun q).cycle = p.cycle := rfl
@[simp] theorem dropRun_flagCycle : (p.dropRun q).flagCycle = p.flagCycle := rfl
@[simp] theorem dropRun_stageCycle : (p.dropRun q).stageCycle = p.stageCycle := rfl
@[simp] theorem dropRun_coatSlots : (p.dropRun q).coatSlots = p.coatSlots := rfl
@[simp] theorem dropRun_stackCtl : (p.dropRun q).stackCtl = p.stackCtl := rfl
@[simp] theorem dropRun_ras : (p.dropRun q).ras = p.ras := rfl
@[simp] theorem dropRun_stopBeat : (p.dropRun q).stopBeat = p.stopBeat := rfl
@[simp] theorem dropRun_masks : (p.dropRun q).masks = p.masks := rfl
@[simp] theorem dropRun_held : (p.dropRun q).held = p.held := rfl
@[simp] theorem dropRun_memOut : (p.dropRun q).memOut = p.memOut := rfl
@[simp] theorem dropRun_memDone : (p.dropRun q).memDone = p.memDone := rfl
@[simp] theorem dropRun_grade : (p.dropRun q).grade = p.grade := rfl
@[simp] theorem dropRun_trigs : (p.dropRun q).trigs = p.trigs := rfl
@[simp] theorem dropRun_binds : (p.dropRun q).binds = p.binds := rfl
@[simp] theorem dropRun_fires : (p.dropRun q).fires = p.fires := rfl
@[simp] theorem dropRun_pairHeld : (p.dropRun q).pairHeld = p.pairHeld := rfl
@[simp] theorem dropRun_pairIn : (p.dropRun q).pairIn = p.pairIn := rfl
@[simp] theorem dropRun_cores : (p.dropRun q).cores = p.cores := rfl
@[simp] theorem dropRun_hostLines : (p.dropRun q).hostLines = p.hostLines := rfl
@[simp] theorem dropRun_anvils : (p.dropRun q).anvils = p.anvils := rfl
@[simp] theorem dropRun_staged : (p.dropRun q).staged = p.staged := rfl
@[simp] theorem dropRun_ucSince : (p.dropRun q).ucSince = p.ucSince := rfl
@[simp] theorem dropRun_mbox : (p.dropRun q).mbox = p.mbox := rfl
@[simp] theorem dropRun_fwVersion : (p.dropRun q).fwVersion = p.fwVersion := rfl
@[simp] theorem dropRun_fab : (p.dropRun q).fab = p.fab := rfl
@[simp] theorem dropRun_net : (p.dropRun q).net = p.net := rfl
@[simp] theorem dropRun_col : (p.dropRun q).col = p.col := rfl
@[simp] theorem dropRun_time : (p.dropRun q).time = p.time := rfl
@[simp] theorem dropRun_ckp : (p.dropRun q).ckp = p.ckp := rfl
@[simp] theorem dropRun_mgt : (p.dropRun q).mgt = p.mgt := rfl
@[simp] theorem dropRun_pwr : (p.dropRun q).pwr = p.pwr := rfl
@[simp] theorem dropRun_reg (j : Nat) : (p.dropRun q).reg j = p.reg j := rfl
@[simp] theorem dropRun_byte (ad : Nat) : (p.dropRun q).byte ad = p.byte ad := rfl
end

section
variable (p : Pkg) (q : Nat) (f : Run → Run)
@[simp] theorem updRun_regs : (p.updRun q f).regs = p.regs := rfl
@[simp] theorem updRun_mem : (p.updRun q f).mem = p.mem := rfl
@[simp] theorem updRun_bad : (p.updRun q f).bad = p.bad := rfl
@[simp] theorem updRun_free : (p.updRun q f).free = p.free := rfl
@[simp] theorem updRun_raised : (p.updRun q f).raised = p.raised := rfl
@[simp] theorem updRun_irqs : (p.updRun q f).irqs = p.irqs := rfl
@[simp] theorem updRun_cycle : (p.updRun q f).cycle = p.cycle := rfl
@[simp] theorem updRun_flagCycle : (p.updRun q f).flagCycle = p.flagCycle := rfl
@[simp] theorem updRun_stageCycle : (p.updRun q f).stageCycle = p.stageCycle := rfl
@[simp] theorem updRun_coatSlots : (p.updRun q f).coatSlots = p.coatSlots := rfl
@[simp] theorem updRun_stackCtl : (p.updRun q f).stackCtl = p.stackCtl := rfl
@[simp] theorem updRun_ras : (p.updRun q f).ras = p.ras := rfl
@[simp] theorem updRun_stopBeat : (p.updRun q f).stopBeat = p.stopBeat := rfl
@[simp] theorem updRun_masks : (p.updRun q f).masks = p.masks := rfl
@[simp] theorem updRun_held : (p.updRun q f).held = p.held := rfl
@[simp] theorem updRun_memOut : (p.updRun q f).memOut = p.memOut := rfl
@[simp] theorem updRun_memDone : (p.updRun q f).memDone = p.memDone := rfl
@[simp] theorem updRun_grade : (p.updRun q f).grade = p.grade := rfl
@[simp] theorem updRun_trigs : (p.updRun q f).trigs = p.trigs := rfl
@[simp] theorem updRun_binds : (p.updRun q f).binds = p.binds := rfl
@[simp] theorem updRun_fires : (p.updRun q f).fires = p.fires := rfl
@[simp] theorem updRun_pairHeld : (p.updRun q f).pairHeld = p.pairHeld := rfl
@[simp] theorem updRun_pairIn : (p.updRun q f).pairIn = p.pairIn := rfl
@[simp] theorem updRun_coatNow : (p.updRun q f).coatNow = p.coatNow := rfl
@[simp] theorem updRun_cores : (p.updRun q f).cores = p.cores := rfl
@[simp] theorem updRun_hostLines : (p.updRun q f).hostLines = p.hostLines := rfl
@[simp] theorem updRun_anvils : (p.updRun q f).anvils = p.anvils := rfl
@[simp] theorem updRun_staged : (p.updRun q f).staged = p.staged := rfl
@[simp] theorem updRun_ucSince : (p.updRun q f).ucSince = p.ucSince := rfl
@[simp] theorem updRun_mbox : (p.updRun q f).mbox = p.mbox := rfl
@[simp] theorem updRun_fwVersion : (p.updRun q f).fwVersion = p.fwVersion := rfl
@[simp] theorem updRun_fab : (p.updRun q f).fab = p.fab := rfl
@[simp] theorem updRun_net : (p.updRun q f).net = p.net := rfl
@[simp] theorem updRun_col : (p.updRun q f).col = p.col := rfl
@[simp] theorem updRun_time : (p.updRun q f).time = p.time := rfl
@[simp] theorem updRun_ckp : (p.updRun q f).ckp = p.ckp := rfl
@[simp] theorem updRun_mgt : (p.updRun q f).mgt = p.mgt := rfl
@[simp] theorem updRun_pwr : (p.updRun q f).pwr = p.pwr := rfl
@[simp] theorem updRun_reg (j : Nat) : (p.updRun q f).reg j = p.reg j := rfl
@[simp] theorem updRun_byte (ad : Nat) : (p.updRun q f).byte ad = p.byte ad := rfl
end

section
variable (p : Pkg) (i : Nat) (x : StackSt)
@[simp] theorem setStack_regs : (p.setStack i x).regs = p.regs := rfl
@[simp] theorem setStack_mem : (p.setStack i x).mem = p.mem := rfl
@[simp] theorem setStack_bad : (p.setStack i x).bad = p.bad := rfl
@[simp] theorem setStack_free : (p.setStack i x).free = p.free := rfl
@[simp] theorem setStack_raised : (p.setStack i x).raised = p.raised := rfl
@[simp] theorem setStack_irqs : (p.setStack i x).irqs = p.irqs := rfl
@[simp] theorem setStack_cycle : (p.setStack i x).cycle = p.cycle := rfl
@[simp] theorem setStack_flagCycle : (p.setStack i x).flagCycle = p.flagCycle := rfl
@[simp] theorem setStack_stageCycle : (p.setStack i x).stageCycle = p.stageCycle := rfl
@[simp] theorem setStack_dsp : (p.setStack i x).dsp = p.dsp := rfl
@[simp] theorem setStack_coatSlots : (p.setStack i x).coatSlots = p.coatSlots := rfl
@[simp] theorem setStack_ras : (p.setStack i x).ras = p.ras := rfl
@[simp] theorem setStack_stopBeat : (p.setStack i x).stopBeat = p.stopBeat := rfl
@[simp] theorem setStack_masks : (p.setStack i x).masks = p.masks := rfl
@[simp] theorem setStack_held : (p.setStack i x).held = p.held := rfl
@[simp] theorem setStack_memOut : (p.setStack i x).memOut = p.memOut := rfl
@[simp] theorem setStack_memDone : (p.setStack i x).memDone = p.memDone := rfl
@[simp] theorem setStack_grade : (p.setStack i x).grade = p.grade := rfl
@[simp] theorem setStack_trigs : (p.setStack i x).trigs = p.trigs := rfl
@[simp] theorem setStack_binds : (p.setStack i x).binds = p.binds := rfl
@[simp] theorem setStack_fires : (p.setStack i x).fires = p.fires := rfl
@[simp] theorem setStack_pairHeld : (p.setStack i x).pairHeld = p.pairHeld := rfl
@[simp] theorem setStack_pairIn : (p.setStack i x).pairIn = p.pairIn := rfl
@[simp] theorem setStack_coatNow : (p.setStack i x).coatNow = p.coatNow := rfl
@[simp] theorem setStack_cores : (p.setStack i x).cores = p.cores := rfl
@[simp] theorem setStack_hostLines : (p.setStack i x).hostLines = p.hostLines := rfl
@[simp] theorem setStack_anvils : (p.setStack i x).anvils = p.anvils := rfl
@[simp] theorem setStack_staged : (p.setStack i x).staged = p.staged := rfl
@[simp] theorem setStack_ucSince : (p.setStack i x).ucSince = p.ucSince := rfl
@[simp] theorem setStack_mbox : (p.setStack i x).mbox = p.mbox := rfl
@[simp] theorem setStack_fwVersion : (p.setStack i x).fwVersion = p.fwVersion := rfl
@[simp] theorem setStack_fab : (p.setStack i x).fab = p.fab := rfl
@[simp] theorem setStack_net : (p.setStack i x).net = p.net := rfl
@[simp] theorem setStack_col : (p.setStack i x).col = p.col := rfl
@[simp] theorem setStack_time : (p.setStack i x).time = p.time := rfl
@[simp] theorem setStack_ckp : (p.setStack i x).ckp = p.ckp := rfl
@[simp] theorem setStack_mgt : (p.setStack i x).mgt = p.mgt := rfl
@[simp] theorem setStack_pwr : (p.setStack i x).pwr = p.pwr := rfl
@[simp] theorem setStack_reg (j : Nat) : (p.setStack i x).reg j = p.reg j := rfl
@[simp] theorem setStack_byte (ad : Nat) : (p.setStack i x).byte ad = p.byte ad := rfl
end

section
variable (p : Pkg) (g : Nat) (f : Core → Core)
@[simp] theorem updCore_regs : (p.updCore g f).regs = p.regs := rfl
@[simp] theorem updCore_mem : (p.updCore g f).mem = p.mem := rfl
@[simp] theorem updCore_bad : (p.updCore g f).bad = p.bad := rfl
@[simp] theorem updCore_free : (p.updCore g f).free = p.free := rfl
@[simp] theorem updCore_raised : (p.updCore g f).raised = p.raised := rfl
@[simp] theorem updCore_irqs : (p.updCore g f).irqs = p.irqs := rfl
@[simp] theorem updCore_cycle : (p.updCore g f).cycle = p.cycle := rfl
@[simp] theorem updCore_flagCycle : (p.updCore g f).flagCycle = p.flagCycle := rfl
@[simp] theorem updCore_stageCycle : (p.updCore g f).stageCycle = p.stageCycle := rfl
@[simp] theorem updCore_dsp : (p.updCore g f).dsp = p.dsp := rfl
@[simp] theorem updCore_coatSlots : (p.updCore g f).coatSlots = p.coatSlots := rfl
@[simp] theorem updCore_stackCtl : (p.updCore g f).stackCtl = p.stackCtl := rfl
@[simp] theorem updCore_ras : (p.updCore g f).ras = p.ras := rfl
@[simp] theorem updCore_stopBeat : (p.updCore g f).stopBeat = p.stopBeat := rfl
@[simp] theorem updCore_masks : (p.updCore g f).masks = p.masks := rfl
@[simp] theorem updCore_held : (p.updCore g f).held = p.held := rfl
@[simp] theorem updCore_memOut : (p.updCore g f).memOut = p.memOut := rfl
@[simp] theorem updCore_memDone : (p.updCore g f).memDone = p.memDone := rfl
@[simp] theorem updCore_grade : (p.updCore g f).grade = p.grade := rfl
@[simp] theorem updCore_trigs : (p.updCore g f).trigs = p.trigs := rfl
@[simp] theorem updCore_binds : (p.updCore g f).binds = p.binds := rfl
@[simp] theorem updCore_fires : (p.updCore g f).fires = p.fires := rfl
@[simp] theorem updCore_pairHeld : (p.updCore g f).pairHeld = p.pairHeld := rfl
@[simp] theorem updCore_pairIn : (p.updCore g f).pairIn = p.pairIn := rfl
@[simp] theorem updCore_coatNow : (p.updCore g f).coatNow = p.coatNow := rfl
@[simp] theorem updCore_hostLines : (p.updCore g f).hostLines = p.hostLines := rfl
@[simp] theorem updCore_anvils : (p.updCore g f).anvils = p.anvils := rfl
@[simp] theorem updCore_staged : (p.updCore g f).staged = p.staged := rfl
@[simp] theorem updCore_ucSince : (p.updCore g f).ucSince = p.ucSince := rfl
@[simp] theorem updCore_mbox : (p.updCore g f).mbox = p.mbox := rfl
@[simp] theorem updCore_fwVersion : (p.updCore g f).fwVersion = p.fwVersion := rfl
@[simp] theorem updCore_fab : (p.updCore g f).fab = p.fab := rfl
@[simp] theorem updCore_net : (p.updCore g f).net = p.net := rfl
@[simp] theorem updCore_col : (p.updCore g f).col = p.col := rfl
@[simp] theorem updCore_time : (p.updCore g f).time = p.time := rfl
@[simp] theorem updCore_ckp : (p.updCore g f).ckp = p.ckp := rfl
@[simp] theorem updCore_mgt : (p.updCore g f).mgt = p.mgt := rfl
@[simp] theorem updCore_pwr : (p.updCore g f).pwr = p.pwr := rfl
@[simp] theorem updCore_reg (j : Nat) : (p.updCore g f).reg j = p.reg j := rfl
@[simp] theorem updCore_byte (ad : Nat) : (p.updCore g f).byte ad = p.byte ad := rfl
end

end Sys2Proof.Machine
end

