-- ==== Sys2Proof/Laws/Log.lean ====
section
/-! SUPPORT. The log stays in order under everything that is done to it (R569 to R571, R587). -/

namespace Sys2Proof.Machine

/-- The order of the log depends on its entries and its next number alone. -/
theorem LogSt.Ok_congr {l m : LogSt} (h : l.Ok) (h1 : m.next = l.next) (h2 : m.buf = l.buf) (h3 : m.mram = l.mram) : m.Ok := by
  obtain ⟨a, b, c, d, e, f⟩ := h
  constructor <;> simp only [h1, h2, h3] <;> assumption

/-- An entry written at the end of a buffer with room keeps the log in order. -/
theorem LogSt.Ok_append {l : LogSt} (h : l.Ok) (hb : l.buf.length < logBuffer) (beat : Nat) (r : LogRec) : (l.append beat r).Ok := by
  obtain ⟨a, b, lt, c, d, e⟩ := h
  refine ⟨?_, ?_, ?_, c, ?_, ?_⟩
  · show (l.mram ++ (l.buf ++ [_])).Pairwise _
    rw [← List.append_assoc, List.pairwise_append]
    refine ⟨a, by simp, ?_⟩
    intro x hx y hy
    simp at hy; subst hy; exact b x hx
  · intro x hx
    have hx' : x ∈ (l.mram ++ l.buf) ∨ x = ⟨l.next, 16 * beat, beat, r⟩ := by
      simpa [LogSt.append, or_assoc] using hx
    rcases hx' with hx | rfl
    · exact Nat.lt_succ_of_lt (b x hx)
    · exact Nat.lt_succ_self _
  · obtain ⟨l1, l2⟩ := lt
    constructor
    · show (l.buf ++ [_]).length ≤ l.next + 1
      simp; omega
    · show (l.buf ++ [_]).map _ = List.range' (l.next + 1 - (l.buf ++ [_]).length) (l.buf ++ [_]).length
      have h1 : l.next + 1 - (l.buf.length + 1) = l.next - l.buf.length := by omega
      simp only [List.map_append, l2, List.length_append, List.length_singleton, h1, List.range'_concat, List.map_cons, List.map_nil]
      congr 2; omega
  · show (l.buf ++ [_]).length ≤ _
    simp; omega
  · intro x hx
    have hx' : x ∈ (l.mram ++ l.buf) ∨ x = ⟨l.next, 16 * beat, beat, r⟩ := by
      simpa [LogSt.append, or_assoc] using hx
    rcases hx' with hx | rfl
    · exact e x hx
    · rfl

/-- The overflow record keeps the log in order (R571). -/
theorem LogSt.Ok_overflow {l : LogSt} (h : l.Ok) (beat : Nat) : (l.overflow beat).Ok := by
  unfold LogSt.overflow
  split
  · rename_i hc
    refine LogSt.Ok_congr (LogSt.Ok_append h ?_ beat _) rfl rfl rfl
    have := hc.2; simp [logCommon] at this; simp [logBuffer]; omega
  · exact h

/-- A record that arrives, taken or dropped, keeps the log in order. -/
theorem LogSt.Ok_arrive {l : LogSt} (h : l.Ok) (x : Nat × LogRec) : (l.arrive x).Ok := by
  have h1 := LogSt.Ok_overflow h x.1
  show (if (l.overflow x.1).full x.2 then { l.overflow x.1 with dropped := (l.overflow x.1).dropped + 1 } else (l.overflow x.1).append x.1 x.2 : LogSt).Ok
  by_cases hf : (l.overflow x.1).full x.2
  · rw [if_pos hf]; exact LogSt.Ok_congr h1 rfl rfl rfl
  · rw [if_neg hf]
    refine LogSt.Ok_append h1 ?_ _ _
    simp only [LogSt.full, ge_iff_le, decide_eq_true_eq, Nat.not_le] at hf
    split at hf <;> simp [logCommon, logBuffer] at * <;> omega

/-- So do the records of a beat. -/
theorem LogSt.Ok_fold {xs : List (Nat × LogRec)} {l : LogSt} (h : l.Ok) : (xs.foldl LogSt.arrive l).Ok := by
  induction xs generalizing l with
  | nil => exact h
  | cons x xs ih => exact ih (LogSt.Ok_arrive h x)

/-- The end of a beat keeps the log in order (R570). -/
theorem LogSt.Ok_flush {l : LogSt} (h : l.Ok) : l.flush.Ok := LogSt.Ok_fold (LogSt.Ok_congr h rfl rfl rfl)

/-- Entries that leave the front of the buffer for the ring keep the log in order (R569). -/
theorem LogSt.Ok_toRing {l : LogSt} (h : l.Ok) (xs ys : List LogEntry)
    (hxy : (xs ++ ys).Sublist l.buf) (hys : ys.length ≤ l.next ∧ ys.map (fun x => x.seq) = List.range' (l.next - ys.length) ys.length) :
    ({ l.toRing xs with buf := ys } : LogSt).Ok := by
  obtain ⟨a, b, lt, c, d, e⟩ := h
  have hsub : ((l.toRing xs).mram ++ ys).Sublist (l.mram ++ l.buf) := by
    show ((l.mram.filter _ ++ xs) ++ ys).Sublist _
    rw [List.append_assoc]
    exact List.Sublist.append List.filter_sublist hxy
  refine ⟨a.sublist hsub, fun x hx => b x (hsub.subset hx), hys, ?_, ?_, fun x hx => e x (hsub.subset hx)⟩
  · show (l.mram.filter _ ++ xs).Pairwise _
    have hxs : xs.Sublist l.buf := (List.sublist_append_left xs ys).trans hxy
    have hwin : ∀ x ∈ l.buf, l.next - l.buf.length ≤ x.seq ∧ x.seq < l.next := by
      intro x hx
      have : x.seq ∈ l.buf.map (fun x => x.seq) := List.mem_map_of_mem hx
      rw [lt.2, List.mem_range'_1] at this
      have := lt.1; omega
    rw [List.pairwise_append]
    refine ⟨c.filter _, ?_, ?_⟩
    · have ap : l.buf.Pairwise (fun a b => a.seq < b.seq) := (List.pairwise_append.1 a).2.1
      have ap2 : l.buf.Pairwise (fun a b => a.seq % logRing ≠ b.seq % logRing) := by
        refine (List.Pairwise.and_mem.1 ap).imp ?_
        rintro x y ⟨hx, hy, hlt⟩
        have := hwin x hx; have := hwin y hy; simp [logBuffer] at d; simp [logRing]; omega
      exact ap2.sublist hxs
    · intro x hx y hy
      have := (List.mem_filter.1 hx).2
      simp at this
      exact fun h => this y hy h.symm
  · exact Nat.le_trans ((List.sublist_append_right xs ys).trans hxy).length_le d

/-- LOG_DRAIN keeps the log in order. -/
theorem LogSt.Ok_drain {l : LogSt} (h : l.Ok) (n beat : Nat) : (l.drain n beat).Ok := by
  refine LogSt.Ok_overflow (LogSt.Ok_toRing h _ _ ?_ ?_) beat
  · simp
  · obtain ⟨l1, l2⟩ := h.latest
    refine ⟨by rw [List.length_drop]; omega, ?_⟩
    rw [List.map_drop, l2, List.drop_range']
    simp; by_cases hn : n ≤ l.buf.length
    · omega
    · have : l.buf.length - n = 0 := by omega
      simp [this]

/-- The loss of standby power keeps the log in order (R587). -/
theorem LogSt.Ok_holdUp {l : LogSt} (h : l.Ok) : l.holdUp.Ok := by
  unfold LogSt.holdUp
  refine LogSt.Ok_congr (LogSt.Ok_toRing h (l.buf.filter (fun x => 1 ≤ x.entry.cls && x.entry.cls ≤ 4)) [] ?_ ?_) rfl rfl rfl
  · simp
  · simp

/-- A command that acts on the package keeps the invariant: its records move to the beat's. -/
theorem Inv_lift {s : State} (h : s.log.Ok) (f) : (s.lift f).Inv := ⟨LogSt.Ok_congr h rfl rfl rfl, rfl⟩

/-- The writing of a beat's records keeps the invariant. -/
theorem Inv_writeLog {s : State} (h : s.Inv) : s.writeLog.Inv := by
  unfold State.writeLog
  split
  · exact ⟨LogSt.Ok_flush h.log, rfl⟩
  · exact ⟨LogSt.Ok_congr h.log rfl rfl rfl, h.raised⟩

end Sys2Proof.Machine
end

