-- ==== Sys2Proof/Laws/Ops.lean ====
section
/-! SUPPORT. What the shared operations do: taking a command's effect into the state, refusing an access, raising a record or an interrupt,
and what each leaves as it was. -/

namespace Sys2Proof.Machine

/-! ### A command's effect taken into the state -/

@[simp] theorem lift_reg (s : State) (f : Env → Pkg → Pkg) (k : Nat) : (s.lift f).pkg.reg k = (f s.env s.pkg).reg k := rfl
@[simp] theorem lift_byte (s : State) (f : Env → Pkg → Pkg) (a : Nat) : (s.lift f).pkg.byte a = (f s.env s.pkg).byte a := rfl
@[simp] theorem lift_fld (s : State) (f : Env → Pkg → Pkg) (k : Nat) (x : Field) : (s.lift f).pkg.fld k x = (f s.env s.pkg).fld k x := rfl
@[simp] theorem lift_on (s : State) (f : Env → Pkg → Pkg) (k : Nat) (x : Field) : (s.lift f).pkg.on k x = (f s.env s.pkg).on k x := rfl
@[simp] theorem lift_regNat (s : State) (f : Env → Pkg → Pkg) (k : Nat) : (s.lift f).pkg.regNat k = (f s.env s.pkg).regNat k := rfl

/-- Every command taken by `lift` leaves the queue, the clock and the written log. -/
theorem lift_keeps (s : State) (f : Env → Pkg → Pkg) : KeepsBlock s (s.lift f) := ⟨rfl, rfl, rfl, rfl, rfl⟩

/-- A working package takes the command. -/
theorem atWork_of_working {p : Pkg} (h : p.working = true) (ev : Ev) (f : Env → Pkg → Pkg) (e : Env) : Pkg.atWork ev f e p = f e p := by
  simp [Pkg.atWork, h]

theorem work_eq {s : State} (h : s.pkg.working = true) (ev : Ev) (f : Env → Pkg → Pkg) : s.work ev f = .next (s.lift (fun _ _ => f s.env s.pkg)) := by
  simp only [State.work, State.lift, atWork_of_working h]; rfl

theorem any_eq (s : State) (f : Env → Pkg → Pkg) : s.any f = .next (s.lift (fun _ _ => f s.env s.pkg)) := rfl

theorem mgmt_eq {s : State} (h : s.pkg.complexUp = true) (f : Env → Pkg → Pkg) : s.mgmt f = .next (s.lift (fun _ _ => f s.env s.pkg)) := by
  simp only [State.mgmt, State.lift, h]; rfl

/-- What a command of a working package becomes. -/
theorem becomes_work {c : Instr} {s : State} {ev : Ev} {f : Env → Pkg → Pkg} {p : Pkg} (h : exec c s = s.work ev f) (hw : s.pkg.working = true)
    (hp : f s.env s.pkg = p) : Becomes c s p := by
  subst hp; exact h.trans (work_eq hw ev f)

theorem becomes_any {c : Instr} {s : State} {f : Env → Pkg → Pkg} {p : Pkg} (h : exec c s = s.any f) (hp : f s.env s.pkg = p) : Becomes c s p := by
  subst hp; exact h

theorem becomes_mgmt {c : Instr} {s : State} {f : Env → Pkg → Pkg} {p : Pkg} (h : exec c s = s.mgmt f) (hw : s.pkg.complexUp = true)
    (hp : f s.env s.pkg = p) : Becomes c s p := by
  subst hp; exact h.trans (mgmt_eq hw f)

/-- A command that becomes `p` answers a state whose package is `p`, its log records taken out. -/
theorem Becomes.answers {c : Instr} {s : State} {p : Pkg} (h : Becomes c s p) {P : State → Prop} (hp : P (s.lift (fun _ _ => p))) : Answers c s P :=
  ⟨_, h, hp⟩

/-! ### Fields -/

theorem fld_setFld (p : Pkg) (k : Nat) (f : Field) (v : Nat) (h : f.hi < 64) : (p.setFld k f v).fld k f = v % 2 ^ (f.hi + 1 - f.lo) := by
  rw [fld_eq, setFld_eq, reg_setReg, if_pos rfl, getField_setField_same _ _ _ h]

theorem on_setFld_one (p : Pkg) (k : Nat) (f : Field) (h : f.hi < 64) (h' : f.lo ≤ f.hi) : (p.setFld k f 1).on k f = true := by
  have : 1 < 2 ^ (f.hi + 1 - f.lo) := Nat.one_lt_two_pow (by omega)
  simp [Pkg.on, fld_setFld p k f 1 h, Nat.mod_eq_of_lt this]

theorem on_setFld_zero (p : Pkg) (k : Nat) (f : Field) (h : f.hi < 64) : (p.setFld k f 0).on k f = false := by
  simp [Pkg.on, fld_setFld p k f 0 h]

/-- A field of another register reads as before. -/
theorem on_setFld_other (p : Pkg) (k j : Nat) (f g : Field) (v : Nat) (h : j ≠ k) : (p.setFld k f v).on j g = p.on j g := by
  simp [on_eq, setFld_eq, h]

/-- Another field of the same register reads as before. -/
theorem fld_setFld_ne (p : Pkg) (k : Nat) (f g : Field) (v : Nat) (h : f.hi < g.lo ∨ g.hi < f.lo) (hg : g.hi < 64) :
    (p.setFld k f v).fld k g = p.fld k g := by
  rw [fld_eq, setFld_eq, reg_setReg, if_pos rfl, getField_setField_ne _ _ _ _ h hg, fld_eq]

@[simp] theorem setFld_reg_ne (p : Pkg) (k : Nat) (f : Field) (v j : Nat) (h : j ≠ k) : (p.setFld k f v).reg j = p.reg j := by
  simp [setFld_eq, h]
@[simp] theorem setNat_reg_ne (p : Pkg) (k v j : Nat) (h : j ≠ k) : (p.setNat k v).reg j = p.reg j := by simp [setNat_eq, h]
@[simp] theorem setFld_byte (p : Pkg) (k : Nat) (f : Field) (v j : Nat) : (p.setFld k f v).byte j = p.byte j := rfl
@[simp] theorem setNat_byte (p : Pkg) (k v j : Nat) : (p.setNat k v).byte j = p.byte j := rfl
@[simp] theorem setFld_raised (p : Pkg) (k : Nat) (f : Field) (v : Nat) : (p.setFld k f v).raised = p.raised := rfl
@[simp] theorem setNat_raised (p : Pkg) (k v : Nat) : (p.setNat k v).raised = p.raised := rfl

/-! ### Lookup by key -/

theorem assoc_assocPut {α : Type} (m : List (Nat × α)) (k : Nat) (v : α) : assoc? (assocPut m k v) k = some v := by
  induction m with
  | nil => simp [assoc?, assocPut]
  | cons x xs ih =>
    obtain ⟨a, b⟩ := x
    unfold assocPut
    by_cases h : a = k
    · simp [h, assoc?]
    · simp only [h, if_false]; simpa [assoc?, h] using ih

@[simp] theorem queueSt_setQueueSt (p : Pkg) (q : Nat) (x : QueueSt) : (p.setQueueSt q x).queueSt q = x := by
  simp [Pkg.setQueueSt, Pkg.queueSt, assoc_assocPut]
@[simp] theorem ctxSt_setCtxSt (p : Pkg) (c : Nat) (x : CtxSt) : (p.setCtxSt c x).ctxSt c = x := by
  simp [Pkg.setCtxSt, Pkg.ctxSt, assoc_assocPut]

/-! ### Records, interrupts and refusals -/

@[simp] theorem raiseIrq_reg (p : Pkg) (cls die src k : Nat) : (p.raiseIrq cls die src).reg k = p.reg k := by
  unfold Pkg.raiseIrq; dsimp only; split <;> rfl
@[simp] theorem raiseIrq_byte (p : Pkg) (cls die src k : Nat) : (p.raiseIrq cls die src).byte k = p.byte k := by
  unfold Pkg.raiseIrq; dsimp only; split <;> rfl
@[simp] theorem raiseIrq_raised (p : Pkg) (cls die src : Nat) : (p.raiseIrq cls die src).raised = p.raised := by
  unfold Pkg.raiseIrq; dsimp only; split <;> rfl
@[simp] theorem raiseIrq_dsp (p : Pkg) (cls die src : Nat) : (p.raiseIrq cls die src).dsp = p.dsp := by
  unfold Pkg.raiseIrq; dsimp only; split <;> rfl

/-- A raised source has a message in the beat's list. -/
theorem raiseIrq_mem (p : Pkg) (cls die src : Nat) : ∃ m ∈ (p.raiseIrq cls die src).irqs, m.src = src := by
  unfold Pkg.raiseIrq; dsimp only
  split
  · rename_i h
    obtain ⟨m, hm, h⟩ := List.any_eq_true.1 h
    simp only [Bool.and_eq_true, decide_eq_true_eq] at h
    exact ⟨m, hm, h.1⟩
  · exact ⟨⟨cls, die, src⟩, by simp, rfl⟩

/-- A refusal that is not counted changes no register. -/
theorem refuse_reg (p : Pkg) (die detail : Nat) (src : Source) (off v k : Nat) (h : detail ≤ 3) : (p.refuse die detail src off v).reg k = p.reg k := by
  unfold Pkg.refuse; dsimp only; rw [if_neg (by omega)]; rfl
@[simp] theorem refuse_byte (p : Pkg) (die detail : Nat) (src : Source) (off v k : Nat) : (p.refuse die detail src off v).byte k = p.byte k := by
  unfold Pkg.refuse; dsimp only; split
  · unfold Pkg.mgtCount Pkg.bump; split <;> rfl
  · rfl
theorem refuse_raised (p : Pkg) (die detail : Nat) (src : Source) (off v : Nat) (h : detail ≤ 3) : (p.refuse die detail src off v).raised =
    p.raised ++ [⟨false, die, 0, 0, 3, detail, padTo 28 (p.accessor src ++ leBytes 8 off ++ leBytes 8 v)⟩] := by
  unfold Pkg.refuse; dsimp only; rw [if_neg (by omega)]; rfl

@[simp] theorem zeroRegs_byte (p : Pkg) (ks : List Nat) (a : Nat) : (p.zeroRegs ks).byte a = p.byte a := by
  unfold Pkg.zeroRegs
  induction ks generalizing p with
  | nil => rfl
  | cons k ks ih => simp only [List.foldl_cons, ih, setReg_byte]

/-! ### Events -/

/-- A register depends on the register file alone. -/
theorem reg_of_regs {p q : Pkg} (h : p.regs = q.regs) (k : Nat) : p.reg k = q.reg k := by simp [Pkg.reg, h]

theorem bump_reg (p : Pkg) (ctrl : Nat) (f : Field) (k n j : Nat) (h : j ≠ k) : (p.bump ctrl f k n).reg j = p.reg j := by
  unfold Pkg.bump; split
  · rfl
  · simp [addReg_eq, h]
@[simp] theorem bump_byte (p : Pkg) (ctrl : Nat) (f : Field) (k n j : Nat) : (p.bump ctrl f k n).byte j = p.byte j := by
  unfold Pkg.bump; split <;> rfl
@[simp] theorem bump_raised (p : Pkg) (ctrl : Nat) (f : Field) (k n : Nat) : (p.bump ctrl f k n).raised = p.raised := by
  unfold Pkg.bump; split <;> rfl
@[simp] theorem bump_dsp (p : Pkg) (ctrl : Nat) (f : Field) (k n : Nat) : (p.bump ctrl f k n).dsp = p.dsp := by
  unfold Pkg.bump; split <;> rfl

/-- An event changes no register but the counter of Table 14-7 of its class. -/
theorem event_reg (p : Pkg) (cls die unit kind detail : Nat) (data : List Byte) (k : Nat)
    (h : cls = 8 → k ≠ Reg.RAS_CNT_DETECTED) (h' : cls = 4 → k ≠ Reg.RAS_CNT_UNCORR) :
    (p.event cls die unit kind detail data).reg k = p.reg k := by
  have h1 : ∀ x, Pkg.reg { p with raised := x } k = p.reg k := fun _ => rfl
  unfold Pkg.event Pkg.rasCount; dsimp only
  split
  · rename_i hc
    split
    · rw [bump_reg _ _ _ _ _ _ (h hc), h1]
    · exact bump_reg { p with raised := _ } Reg.RAS_CTRL Fld.RAS_CNT_FREEZE Reg.RAS_CNT_DETECTED 1 k (h hc)
  · split
    · rename_i hc; rw [bump_reg _ _ _ _ _ _ (h' hc), h1]
    · exact h1 _

@[simp] theorem event_raised (p : Pkg) (cls die unit kind detail : Nat) (data : List Byte) :
    (p.event cls die unit kind detail data).raised = p.raised ++ [⟨false, die, unit, cls, kind, detail, padTo 28 data⟩] := by
  unfold Pkg.event Pkg.rasCount; dsimp only
  split
  · split <;> simp
  · split <;> simp

@[simp] theorem event_byte (p : Pkg) (cls die unit kind detail : Nat) (data : List Byte) (a : Nat) :
    (p.event cls die unit kind detail data).byte a = p.byte a := by
  unfold Pkg.event Pkg.rasCount; dsimp only
  split
  · split
    · rw [bump_byte]; rfl
    · show Pkg.byte (Pkg.bump _ _ _ _ _) a = _; rw [bump_byte]; rfl
  · split
    · rw [bump_byte]; rfl
    · rfl

/-- A register that no step of a fold writes reads as before. -/
theorem foldl_reg {α : Type} (l : List α) (f : Pkg → α → Pkg) (k : Nat) (h : ∀ p x, x ∈ l → (f p x).reg k = p.reg k) (p : Pkg) :
    (l.foldl f p).reg k = p.reg k := by
  induction l generalizing p with
  | nil => rfl
  | cons x xs ih => rw [List.foldl_cons, ih (fun p y hy => h p y (List.mem_cons_of_mem _ hy)), h p x (by simp)]

end Sys2Proof.Machine
end

