-- ==== Sys2Proof/Laws/Mailbox.lean ====
section
/-! SUPPORT. Which mailbox command is served (R548, R550 to R552). -/

namespace Sys2Proof.Machine

/-- A command that is served has its own effect. -/
theorem serveMb_served {s : State} {m : Fin 16} {op : Nat} {k : MbCmd} (h : s.Serves m op k) (hop : mbOpcodes.contains op = true) (e : Env)
    (body : MbCmd → Pkg) : s.pkg.serveMb e m op body = body k := by
  have h1 := h.opcode
  subst h1
  have h3 : (s.pkg.mbox.any fun y => y.2.running && y.2.op == k.op) = false := by
    rw [List.any_eq_false]
    intro x hx
    simpa using h.free x hx
  unfold Pkg.serveMb
  simp only [h.next, h.passes, hop, h3]
  simp

/-- With nothing to serve the package stays. -/
theorem serveMb_none {p : Pkg} (h : p.mbNext = none) (e : Env) (m op : Nat) (body : MbCmd → Pkg) : p.serveMb e m op body = p := by
  simp [Pkg.serveMb, h]

/-- While another mailbox or another opcode is served next the package stays. -/
theorem serveMb_other {p : Pkg} {n : Nat} {k : MbCmd} (h : p.mbNext = some (n, k)) (e : Env) (m op : Nat) (body : MbCmd → Pkg)
    (ho : n ≠ m ∨ (mbOpcodes.contains k.op = true ∧ k.op ≠ op)) : p.serveMb e m op body = p := by
  unfold Pkg.serveMb
  by_cases hn : n = m
  · obtain ⟨h1, h2⟩ := ho.resolve_left (fun x => x hn)
    simp only [h, hn, ne_eq, not_true_eq_false, if_false, h1, Bool.not_true, Bool.false_eq_true, h2, not_false_eq_true, if_true]
  · simp [h, hn]

end Sys2Proof.Machine
end

