-- ==== Sys2Proof/Laws/Memory.lean ====
section
/-! SUPPORT. What a rebuild of a line forms (spec 08_memory_system.md, R293, R294, R302). -/

namespace Sys2Proof

open Machine

/-- XOR of bytes from any start. -/
theorem xorBytes_foldl (bs : List Byte) (a : Byte) : bs.foldl (fun x b => x ^^^ b) a = a ^^^ xorBytes bs := by
  induction bs generalizing a with
  | nil => simp [xorBytes]
  | cons b bs ih =>
    have h : xorBytes (b :: bs) = b ^^^ xorBytes bs := by
      show List.foldl _ ((0 : Byte) ^^^ b) bs = _
      rw [ih]
      simp
    rw [List.foldl_cons, ih, h, BitVec.xor_assoc]

/-- XOR of one byte more. -/
theorem xorBytes_cons (b : Byte) (bs : List Byte) : xorBytes (b :: bs) = b ^^^ xorBytes bs := by
  show List.foldl _ ((0 : Byte) ^^^ b) bs = _
  rw [xorBytes_foldl]
  simp

/-- XOR of all but one, with that one, is the XOR of all. -/
theorem xorBytes_others (f : Nat → Byte) (m : Nat) (l : List Nat) (hm : m ∈ l) (hl : l.Nodup) :
    xorBytes ((l.filter (fun k => k ≠ m)).map f) ^^^ f m = xorBytes (l.map f) := by
  induction l with
  | nil => cases hm
  | cons x xs ih =>
    rw [List.nodup_cons] at hl
    rw [List.map_cons, xorBytes_cons]
    by_cases h : x = m
    · subst h
      have hf : xs.filter (fun k => k ≠ x) = xs := List.filter_eq_self.mpr (fun y hy => by
        simp only [ne_eq, decide_not, Bool.not_eq_eq_eq_not, Bool.not_true, decide_eq_false_iff_not]
        exact fun e => hl.1 (e ▸ hy))
      rw [List.filter_cons_of_neg (by simp), hf, BitVec.xor_comm]
    · have hm2 : m ∈ xs := by
        cases hm with
        | head => exact absurd rfl h
        | tail _ hx => exact hx
      rw [List.filter_cons_of_pos (by simpa using h), List.map_cons, xorBytes_cons, BitVec.xor_assoc, ih hm2 hl.2]

/-- A rebuild forms the byte that the device held (R293, R294, R302): the other sixteen lines of a stripe give it, be it a data line's or the patch
line's. -/
theorem rebuilt_eq_held (p : Pkg) (r : Region) (dev j i : Nat) : p.rebuiltByte r dev j i = p.heldByte r dev j i := by
  have hlt : j % 17 < 17 := Nat.mod_lt _ (by decide)
  have hq (k : Nat) (hk : k < 17) : (17 * (j / 17) + k) / 17 = j / 17 := by omega
  have hr (k : Nat) (hk : k < 17) : (17 * (j / 17) + k) % 17 = k := by omega
  let f (k : Nat) : Byte := p.heldByte r dev (17 * (j / 17) + k) i
  have hj : p.heldByte r dev j i = f (j % 17) := by
    show _ = p.heldByte r dev (17 * (j / 17) + j % 17) i
    rw [Nat.div_add_mod]
  have hdata (k : Nat) (hk : k < 16) : f k = byteAt (p.lineHeld r (r.addrOf dev (17 * (j / 17) + k))) i := by
    show p.heldByte r dev (17 * (j / 17) + k) i = _
    unfold Pkg.heldByte
    rw [hr k (by omega), hq k (by omega), if_neg (by omega)]
  have hpatch : f 16 = xorBytes ((List.range 16).map f) := by
    have hm : (List.range 16).map f = (List.range 16).map (fun k => byteAt (p.lineHeld r (r.addrOf dev (17 * (j / 17) + k))) i) :=
      List.map_congr_left (fun k hk => hdata k (List.mem_range.mp hk))
    rw [hm]
    show p.heldByte r dev (17 * (j / 17) + 16) i = _
    unfold Pkg.heldByte
    rw [hr 16 (by omega), hq 16 (by omega), if_pos rfl]
  have hall : xorBytes ((List.range 17).map f) = 0 := by
    have h := xorBytes_others f 16 (List.range 17) (by simp) List.nodup_range
    have hf : (List.range 17).filter (fun k => k ≠ 16) = List.range 16 := by decide
    rw [hf, ← hpatch, BitVec.xor_self] at h
    exact h.symm
  have h := xorBytes_others f (j % 17) (List.range 17) (List.mem_range.mpr hlt) List.nodup_range
  rw [hall] at h
  rw [hj]
  show xorBytes (((List.range 17).filter (fun k => k ≠ j % 17)).map f) = f (j % 17)
  have h2 := congrArg (fun x => x ^^^ f (j % 17)) h
  simpa [BitVec.xor_assoc] using h2

end Sys2Proof
end

