-- ==== Sys2Proof/Laws/Sha.lean ====
section
/-! SUPPORT. The length of a digest (spec 15_checkpoint_and_broadcast.md, R533: the table of a broadcast holds 32 bytes a block). -/

namespace Sys2Proof.Machine

/-- The eight working words stay eight. -/
theorem shaBlock_length (q : ShaKind) (h : List Nat) (block : List Byte) (hl : h.length = 8) : (shaBlock q h block).length = 8 := by
  unfold shaBlock
  simp only [List.length_zipWith, hl]
  suffices hs : ∀ (f : List Nat → Nat × Nat → List Nat) (l : List (Nat × Nat)) (v : List Nat), (∀ v x, (f v x).length = 8) → v.length = 8 →
      (l.foldl f v).length = 8 by
    rw [hs _ _ _ (fun v x => rfl) hl, Nat.min_self]
  intro f l
  induction l with
  | nil => exact fun v _ hv => hv
  | cons x xs ih => exact fun v hf _ => ih (f v x) hf (hf v x)

theorem shaBlocks_length (q : ShaKind) (n : Nat) (h : List Nat) (m : List Byte) (hl : h.length = 8) : (shaBlocks q n h m).length = 8 := by
  induction n generalizing h m with
  | zero => exact hl
  | succ n ih => exact ih _ _ (shaBlock_length q h _ hl)

/-- A SHA-256 digest is 32 bytes. -/
theorem sha256_length (m : List Byte) : (sha256 m).length = 32 := by
  have h4 (l : List Nat) : ((l.map (beBytes 4)).flatten).length = 4 * l.length := by
    induction l with
    | nil => rfl
    | cons x xs ih =>
      rw [List.map_cons, List.flatten_cons, List.length_append, ih, List.length_cons]
      have : (beBytes 4 x).length = 4 := by simp [beBytes, leBytes]
      omega
  unfold sha256
  rw [h4, shaBlocks_length _ _ _ _ (by rfl)]

end Sys2Proof.Machine
end

