-- ==== Sys2Proof/WellFormed.lean ====
section
/-! DEFINITION. Well-formed commands: the operands that no field of the spec's could carry are refused. The machine runs any command; these checks say which
ones its interfaces can deliver. -/

namespace Sys2Proof

/-- A width of an access, and a value that it carries (R334, R545). -/
def wfData (width value : Nat) : Bool := [1, 2, 4, 8].contains width && value < 256 ^ width

/-- An access to the MMIO space: an offset within the 32 blocks of 128 MiB, and a value that fits (R38, R41). -/
def wfAccess (off width value : Nat) : Bool := wfData width value && off < 2 ^ 32

/-- A unit code (R478, Table 14-1). -/
def wfUnit (u : Nat) : Bool := u < 2 ^ 16

/-- A failed check names a unit. -/
def wfFail (f : Option CheckFail) : Bool := match f with | some x => wfUnit x.unit | none => true

/-- A memory request touches at least one and at most the 256 bytes of a line, at a local address (R38, R289). -/
def wfReq (r : MemReq) : Bool :=
  let n := match r.write with | some bs => bs.length | none => r.len
  1 ≤ n && n ≤ 256 && r.addr < 2 ^ 46

/-- A host access: at most a cache line, 64-bit addresses and data (R330, R332). -/
def wfHost (a : HostAccess) : Bool :=
  1 ≤ a.size && a.size ≤ 64 && a.va < 2 ^ 64 && a.data < 2 ^ 64 && a.device < 2 ^ 64 && a.pc < 2 ^ 64

/-- A QVX instruction stands at a 64-bit address, and an error that it meets is at one of the 128 bytes of a register (R340, R353). -/
def wfQvx (f : QvxFields) : Bool := f.pc < 2 ^ 64 && (match f.error with | some x => x.elem < 128 | none => true)

/-- A fabric packet: a header of 32 bytes, at most 256 of payload, a 32-bit check value (R395, Table 10-6). -/
def wfPacket (p : RawPacket) : Bool := p.header.length == 32 && p.payload.length ≤ 256 && p.check < 2 ^ 32

/-- Sensors by their numbers (Table 17-5). -/
def wfSensors (temps : List (Nat × Int)) (volts currents : List (Nat × Nat)) : Bool :=
  temps.all (fun x => x.1 < 256) && volts.all (fun x => x.1 < 128) && currents.all (fun x => x.1 < 384)

/-- A command's operands are in range; those that their types already bound have no check. -/
def Instr.wf (i : Instr) : Bool :=
  match i with
  | .registerWrite _ off w v => wfAccess off w v
  | .linkLaneRetirement _ l => l < 2112
  | .tailDoorbell _ _ v => v < 2 ^ 32
  | .headDoorbell _ _ v => v < 2 ^ 32
  | .qheadWrite _ _ v => v < 2 ^ 32
  | .flagWrite _ _ _ w v _ => wfData w v
  | .flagAdd _ _ _ w v => wfData w v
  | .tileCommit _ _ f => wfFail f
  | .ksplitRecord _ _ _ f => wfFail f
  | .shadowPassEnd _ _ f => wfFail f
  | .coatTileCommit _ _ f => wfFail f
  | .setupPhaseCommit _ f => wfFail f
  | .iterationCommit _ f => wfFail f
  | .solveReturnEnd x => wfFail x.fail
  | .memoryRequest r => wfReq r
  | .ecsStatusRead _ v => v < 2 ^ 64
  | .hostMemoryAccess _ a => wfHost a
  | .readRequest _ p => wfPacket p
  | .writeRequest _ p => wfPacket p
  | .atomicRequest _ p => wfPacket p
  | .combinedAtomic _ p => wfPacket p
  | .reply _ p => wfPacket p
  | .nack _ p => wfPacket p
  | .sync _ p => wfPacket p
  | .fabricRetransmit _ n => n < 2 ^ 32
  | .requestGiveUp _ n => n < 2 ^ 32
  | .fullReissue _ n => n < 2 ^ 32
  | .hotLineNotice _ _ h => h < 2 ^ 18
  | .hotLineEnd _ h => h < 2 ^ 18
  | .portTrainingEnd _ _ l p _ => l < 2 ^ 18 && p < 36
  | .remoteIncrement _ p => wfPacket p
  | .colTcntWrite _ _ _ w v => wfData w v
  | .contrib _ p => wfPacket p
  | .result _ p => wfPacket p
  | .abort _ p => wfPacket p
  | .credit _ p => wfPacket p
  | .fallback _ p => wfPacket p
  | .setupPacket _ p => wfPacket p
  | .beaconReceive _ v => v < 2 ^ 64
  | .pairDigest _ n d _ => n < 2 ^ 32 && d < 2 ^ 64
  | .targetedSelfTestStart _ u => wfUnit u
  | .selfTestEnd _ u _ => wfUnit u
  | .marchTestStart _ u => wfUnit u
  | .marchTestEnd _ u _ => wfUnit u
  | .storageCommandComplete _ _ st _ _ => st < 2 ^ 16
  | .bcastBlock _ _ => true
  | .oobDuplicateDatagram _ t a => t < 2 ^ 16 && a.length ≤ 256
  | .stagingWrite _ off w v => wfAccess off w v
  | .shadowRewrite off => off < 2 ^ 32
  | .sensorSample ts vs cs v => wfSensors ts vs cs && v < 2 ^ 16
  | .phaseCheck ps => ps.all (fun x => x < 384)
  | .throttleUpdate ts _ => ts.all (fun x => x.1 < 32)
  | .porstNRelease _ x => x.failed.all (fun k => k < 24)
  | .standbyPowerGood x => match x.rebuilt with | some us => us.all (fun x => x.1 < 32 && wfUnit x.2) | none => true
  | .qvxAdd _ f | .qvxSub _ f | .qvxMul _ f | .qvxAdds _ f | .qvxSubs _ f | .qvxMin _ f | .qvxMax _ f | .qvxCmpeq _ f | .qvxCmplt _ f | .qvxAnd _ f
  | .qvxOr _ f | .qvxXor _ f | .qvxAndn _ f | .qvxSll _ f | .qvxSrl _ f | .qvxSra _ f | .qvxFadd _ f | .qvxFsub _ f | .qvxFmul _ f | .qvxFma _ f
  | .qvxFnma _ f | .qvxFmax _ f | .qvxFmin _ f | .qvxFcmplt _ f | .qvxFcmple _ f | .qvxFcmpeq _ f | .qvxFcmpun _ f | .qvxFcvtIf _ f | .qvxFcvtFi _ f
  | .qvxFwiden _ f | .qvxFnarrow _ f | .qvxLd _ f | .qvxLdff _ f | .qvxSt _ f | .qvxPld _ f | .qvxPst _ f | .qvxBcastX _ f | .qvxBcastF _ f
  | .qvxMvX _ f | .qvxPwhile _ f | .qvxPlog _ f | .qvxPcnt _ f | .qvxRdsat _ f | .qvxWrsat _ f | .qvxRedsumI _ f | .qvxRedsumF _ f
  | .qvxWmul _ _ _ f | .qvxWmacc _ _ _ f | .qvxDot _ _ f | .qvxDot2u _ _ f => wfQvx f
  | .packageNetworkPacket _ _ _ | .creditReturn _ _ | .queueEnable _ _ | .queueDisable _ _ | .queueFlush _ _ | .queueResume _ _
  | .descriptorFetch _ | .arrayDescriptor _ | .coatDescriptor _ | .cg _ | .bicgstab _ | .gmres _ | .minres _ | .lp _ | .qp _ | .copy _
  | .atomic _ | .allreduce _ | .reduceScatter _ | .allgather _ | .broadcast _ | .alltoall _ | .barrier _ | .ringPass _ | .setup _ | .release _
  | .trigArm _ | .save _ | .restore _ | .connect _ | .disconnect _ | .bcastSend _ | .bcastRecv _ | .coatLoad _ | .gemmGrouped _
  | .gemmEpilogue _ | .rmsNorm _ | .layerNorm _ | .softmaxQ _ | .topK _ | .gather _ | .scatterAdd _ | .ringAttn _ | .haloPack _ | .haloUnpack _
  | .enqList _ | .enqSelect _ | .enqRepeat _ | .descriptorComplete _ _ | .flagClr _ _ | .deadlineExpiry _ | .waitCycleAbort _ | .stallNotice _
  | .columnRetirement _ | .arrCntClr _ _ | .arrQcntClr _ _ | .arrQhistClr _ _ _ | .coatTileStart _ _ | .laneRetirement _ | .coatCntClr _ _
  | .anvilDeadlineExpiry _ | .anvilLaneRetirement _ | .anvCntClr _ _ | .stripeUpdate _ _ | .regionFillEnd _
  | .bandwidthWindow _ | .quotaBudgetExpiry _ | .retrainingDue _ _ | .stackTemperatureRead _ _ | .issuedOperationsDrained _ | .retrainingEnd _
  | .writeBehindDrain _ | .scrub _ _ _ | .perBankRefresh _ _ | .memCntClr _ _
  | .combineHoldExpiry _ _ | .flowRecordExpiry _ _ | .atomicEntryExpiry _ _
  | .frameReceive _ _ | .portDown _ | .portDelayMeasure _ _ | .fabPcRestore _ _ | .fabCntClr _ _ | .fireComplete _ _ | .collectiveTimeout _
  | .gateRelease _ | .busyWindow _ _ | .colCntClr _ _ | .ppsEdge _ | .timedRelease _ | .timedReleaseArm _ _ | .pairTimeout _
  | .spareDispatcherSwitch _ | .descriptorReplay _ | .rasCntClr _ | .maskApply _ | .demandCopyEnd _ | .storageCommandTimeout _ _
  | .connectionLost _ | .bcastReattach _ | .bcastChildDrop _ _ | .bcastMemberWaitExpiry _ | .ckpCntClr _ _ | .identify _ | .features _
  | .stageSet _ | .stageCheck _ | .commit _ | .stageDiscard _ | .protectPropose _ | .protectEndorse _ | .protectWithdraw _ | .powerCap _
  | .powerStatus _ | .logRead _ | .logMark _ | .fwStage _ | .fwVerify _ | .fwActivate _ | .selftest _ | .spareStatus _ | .calPolicy _
  | .calStatus _ | .timeStatus _ | .timeSetMaster _ | .pairSet _ | .attest _ | .longCommandEnd _ _ | .islandAcknowledge _ | .proposalExpiry _
  | .logDrain _ | .mgtCntClr _ | .supplyWarning _ | .supplyRecovery _ | .coldStop _ _ | .thermalTrip _ _ | .pwrCntClr _ | .warmN _
  | .violationWindow _ | .fence _ _ | .beat | .beaconSend | .holdoverEntry | .commitAckTimeout | .commitApply | .holdLapse | .lockstepMismatch
  | .complexRestartEnd | .bootAttemptTimeout | .recoveryTimer | .clockStep | .capEffect | .porstNAssert | .refclkLoss => true

end Sys2Proof
end

