-- ==== Sys2Proof/Tests/Slice0.lean ====
section
/-! SUPPORT. The author's tests: what each check of WellFormed refuses, small runs of one command, and for the hypotheses of each statement a
state and operands that meet them together. -/

set_option Elab.async false

namespace Sys2Proof.Tests

open Sys2Proof Sys2Proof.Machine

/-! ### Well-formed commands -/

theorem test_wf_accepts : (Instr.registerWrite (.core 3) 0x300018 4 0x80000001).wf = true ∧ (Instr.sensorSample [(255, -10)] [(127, 750)] [(383, 9)] 48000).wf =
    true ∧ Instr.beat.wf = true := by decide
theorem test_wf_width : (Instr.registerWrite (.core 0) 0 3 0).wf = false := by decide
theorem test_wf_value : (Instr.flagAdd (.pcie 0) 0 0 4 0x100000000).wf = false := by decide
theorem test_wf_offset : (Instr.stagingWrite (.pcie 1) 0x100000000 4 0).wf = false := by decide
theorem test_wf_doorbell : (Instr.tailDoorbell (.core 0) 0 0x100000000).wf = false := by decide
theorem test_wf_lane : (Instr.linkLaneRetirement 0 2112).wf = false := by decide
theorem test_wf_unit : (Instr.targetedSelfTestStart 0 0x10000).wf = false := by decide
theorem test_wf_fail : (Instr.tileCommit 0 0 (some ⟨0x10000, 0, 0⟩)).wf = false := by decide
theorem test_wf_line : (Instr.memoryRequest ⟨.core 0, 0, none, 257, [], false⟩).wf = false ∧ (Instr.memoryRequest ⟨.core 0, 0, some [], 4, [], false⟩).wf = false := by decide
theorem test_wf_host : (Instr.hostMemoryAccess 0 ⟨.load, 0, 0, 0, 0, 0, none, 0⟩).wf = false ∧
    (Instr.hostMemoryAccess 0 ⟨.load, 2 ^ 64, 8, 0, 0, 0, none, 0⟩).wf = false := by decide
theorem test_wf_packet : (Instr.reply 0 ⟨[], [], 0⟩).wf = false ∧ (Instr.reply 0 ⟨List.replicate 32 0, [], 2 ^ 32⟩).wf = false := by decide
theorem test_wf_location : (Instr.hotLineEnd 0 (2 ^ 18)).wf = false := by decide
theorem test_wf_sequence : (Instr.requestGiveUp 0 (2 ^ 32)).wf = false := by decide
theorem test_wf_qvx : (Instr.qvxAdd 0 ⟨0, false, 0, 0, 0, 0, false, 2 ^ 64, none⟩).wf = false ∧
    (Instr.qvxLd 0 ⟨0, false, 0, 0, 0, 0, false, 0, some ⟨1, 0, 128⟩⟩).wf = false := by decide
theorem test_wf_peer : (Instr.portTrainingEnd 0 4 0 36 0).wf = false := by decide
theorem test_wf_word : (Instr.beaconReceive 0 (2 ^ 64)).wf = false ∧ (Instr.ecsStatusRead 0 (2 ^ 64)).wf = false := by decide
theorem test_wf_digest : (Instr.pairDigest 0 (2 ^ 32) 0 []).wf = false := by decide
theorem test_wf_status : (Instr.storageCommandComplete 0 0 (2 ^ 16) [] false).wf = false := by decide
theorem test_wf_datagram : (Instr.oobDuplicateDatagram 0 65536 []).wf = false := by decide
theorem test_wf_shadow : (Instr.shadowRewrite (2 ^ 32)).wf = false := by decide
theorem test_wf_sensor : (Instr.sensorSample [(256, 0)] [] [] 0).wf = false ∧ (Instr.sensorSample [] [] [] 65536).wf = false := by decide
theorem test_wf_phase : (Instr.phaseCheck [384]).wf = false := by decide
theorem test_wf_die : (Instr.throttleUpdate [(32, 0)] 0).wf = false := by decide
theorem test_wf_stack : (Instr.porstNRelease 0 ⟨[24], 0⟩).wf = false := by decide
theorem test_wf_rebuilt : (Instr.standbyPowerGood ⟨some [(32, 0)], 0⟩).wf = false := by decide

/-! ### The queue -/

/-- On an empty queue the block idles (log entry 1). -/
theorem test_empty_queue_idles (s : State) (h : s.pending = []) : step s = .next s := by simp [step, h]
theorem test_base_word_spells_no_row : decodeTableWord 32 0x12345678 = none := rfl
/-- The words of Table 09-5: F4, E, Z, PG, vs2, vs1, vd and the opcode, field by field. -/
theorem test_decode_fma : decodeTableWord 32 0b0011_11_0_001_00010_00001_00011_0101011 = some (.qvxFma 0 ⟨3, false, 1, 2, 1, 3, false, 0, none⟩) := rfl
theorem test_decode_add : decodeTableWord 32 0b0000_01_1_111_11111_00100_00110_0001011 = some (.qvxAdd 0 ⟨1, true, 7, 31, 4, 6, false, 0, none⟩) := rfl
theorem test_decode_st : decodeTableWord 32 0b0010_10_0_011_00000_00111_01000_1011011 = some (.qvxSt 0 ⟨2, false, 3, 0, 7, 8, false, 0, none⟩) := rfl
theorem test_decode_wmacc : decodeTableWord 32 0b0110_00_0_000_00001_00010_00011_1111011 = some (.qvxWmacc 0 true false ⟨0, false, 0, 1, 2, 3, false, 0, none⟩) := rfl
theorem test_decode_dot2u : decodeTableWord 32 0b1101_01_0_000_00001_00010_00011_1111011 = some (.qvxDot2u 0 1 ⟨1, false, 0, 1, 2, 3, false, 0, none⟩) := rfl
/-- Code 0xF of opcode 0x2B is reserved (Table 09-7). -/
theorem test_decode_reserved : decodeTableWord 32 0b1111_00_0_000_00000_00000_00000_0101011 = some (.qvxFadd 0 ⟨0, false, 0, 0, 0, 0, true, 0, none⟩) := rfl
theorem test_word_in_front : (State.reset.withFetchWord 32 0b0000_00_0_000_00000_00000_00000_0001011).pending = [.qvxAdd 0 ⟨0, false, 0, 0, 0, 0, false, 0, none⟩] := rfl
theorem test_word_places_nothing : State.reset.withFetchWord 32 7 = State.reset := rfl

/-! ### Small states -/

/-- The state after a command. -/
def after (c : Instr) (s : State) : State := match exec c s with | .next t => t | _ => s

/-- A state with some registers set. -/
def withRegs (ws : List (Nat × Nat)) (s : State) : State := { s with pkg := ws.foldl (fun p w => p.setNat w.1 w.2) s.pkg }

/-- A working package at location 0: partition 0 holds every unit and a ready region of 16 MiB, queue 0 is enabled and its tail is 1. -/
def up : State :=
  { State.reset with pkg := { Pkg.reset with
      regs := [(Reg.DSP_QCTRL 0, 1), (Reg.DSP_QTAIL 0, 1), (Reg.MEM_RG_SIZE 0, 2 ^ 24), (Reg.MEM_RG_PLACE 0, 2 ^ 41 + 1), (Reg.MEM_RG_ATTR 0, 2 ^ 31 + 1),
        (Reg.FAB_LOC, 2 ^ 31), (Reg.MGT_STATUS, 2 ^ 28), (Reg.SEC_PART 0, 2 ^ 63 + 2 ^ 36 - 1), (Reg.PKG_BOOT, 5 * 2 ^ 28)]
      mgt := { Pkg.reset.mgt with power := true } } }

/-- The same at a hall time. -/
def upAt (h : Nat) : State := { up with clock := ⟨h⟩ }

/-- Partition 0 has an owner on X0, and X1 stands for the operator; both are endpoints. -/
def bound : State := withRegs [(Reg.PKG_STRAPS, 80), (Reg.MGT_MB_BIND 2, 2 ^ 31 + 2 * 2 ^ 28 + 2 ^ 23), (Reg.MGT_MB_BIND 3, 2 ^ 31 + 2 ^ 28 + 2 ^ 22)] up

/-- A descriptor of a kind and an operation, with no waits, signals or handles. -/
def desc (hdr op : Nat) : List Byte := padTo 128 (leBytes 4 hdr ++ leBytes 4 op)

/-- Queue 0's head fetched. -/
def queued (d : List Byte) : State := { up with pkg := up.pkg.setQueueSt 0 { up.pkg.queueSt 0 with prefetch := some (0, d) } }

/-- Queue 0's head running. -/
def runs (f : Run → Run) (d : List Byte) : State := { up with pkg := up.pkg.addRun (f (up.pkg.newRun up.env 0 d [])) }

theorem test_up_works : up.pkg.working = true ∧ up.pkg.complexUp = true ∧ up.pkg.partValid 0 = true ∧ up.pkg.regionAt 0x100000 ≠ none ∧
    up.pkg.portUp 0 = false := by decide +kernel

/-- A 64-byte tensor descriptor of one element, stored and read in one format, at a local address of region 0. -/
def tensorAt (base fmt : Nat) : List Byte := leBytes 8 base ++ leBytes 16 0 ++ leBytes 4 (2 ^ 14 + 33 * fmt) ++ leBytes 36 0

/-- Partition 0 has bandwidth, a table of four one-element FP16 tensors at 0x2000, and parameter blocks from 0x3000. -/
def tabled : State :=
  let s := withRegs [(Reg.DSP_CTX_TT_BASE 0, 0x2000), (Reg.DSP_CTX_PARAM_BASE 0, 0x3000), (Reg.MEM_REG 0, 0x80000101)] up
  { s with pkg := ((s.pkg.setBytes 0x2000 (tensorAt 0x1000 2)).setBytes 0x2040 (tensorAt 0x1100 2)).setBytes 0x2080 (tensorAt 0x1200 2) }

/-- Queue 0's head fetched, in that package. -/
def queuedT (d : List Byte) : State := { tabled with pkg := tabled.pkg.setQueueSt 0 { tabled.pkg.queueSt 0 with prefetch := some (0, d) } }

/-- A descriptor on the handles 0, 1, 2, 3, without a parameter block. -/
def handled (hdr op : Nat) : List Byte :=
  leBytes 4 hdr ++ leBytes 4 op ++ leBytes 2 0 ++ leBytes 2 1 ++ leBytes 2 2 ++ leBytes 2 3 ++ leBytes 56 0 ++ leBytes 4 0xffffffff ++ leBytes 52 0

/-! ### States that meet the hypotheses of the statements -/

theorem test_meets_StepRunsFront : ({ up with pending := [.beat, .capEffect] } : State).pending = .beat :: [.capEffect] := rfl
theorem test_meets_StepKeepsLog : up.Inv ∧ ∃ t, step { up with pending := [.capEffect] } = .next t :=
  ⟨⟨by constructor <;> simp [up, State.reset, LogSt.reset, logBuffer], rfl⟩, _, rfl⟩
theorem test_meets_ClockAndLog : (∃ t, exec .capEffect up = .next t) ∧ Instr.capEffect ≠ .beat ∧ up.pkg.mgt.power = true :=
  ⟨⟨_, rfl⟩, by decide, rfl⟩
theorem test_meets_CounterClears : up.pkg.working = true ∧ up.pkg.reaches (.core 0) = true ∧ bound.pkg.reaches (.pcie 1) = true ∧
    up.pkg.stageCycle.filter (fun x => x.2.die == 7) = [] := by decide +kernel
theorem test_meets_DoorbellsTaken : up.pkg.working = true ∧ up.pkg.reaches (.core 0) = true ∧
    up.pkg.calm (sourceDie (.core 0) (Reg.DSP_QTAIL 0)) (Reg.DSP_QTAIL 0) = true ∧
    -- an enabled queue takes a tail at the last slot, a completion head at the head, and no head
    (seqDiff 64 (up.pkg.chead 0) ≤ up.pkg.ringSlots 0 ∧ seqDiff 64 (up.pkg.head 0) < 2 ^ 31) ∧ ¬(1 ≤ seqDiff 0 (up.pkg.head 0)) ∧ up.pkg.queueEnabled 0 = true ∧
    -- a disabled one takes all three
    up.pkg.queueEnabled 1 = false ∧ ¬(1 ≤ seqDiff (up.pkg.chead 1) (up.pkg.head 1)) ∧ seqDiff (up.pkg.tail 1) (up.pkg.head 1) < 2 ^ 31 ∧
    seqDiff (up.pkg.tail 1) 0 < 2 ^ 31 := by decide +kernel
theorem test_meets_DoorbellsRefused : seqDiff 65 (up.pkg.chead 0) > up.pkg.ringSlots 0 ∧ seqDiff (2 ^ 31) (up.pkg.head 0) ≥ 2 ^ 31 ∧
    (1 ≤ seqDiff 1 (up.pkg.head 0) ∧ seqDiff 1 (up.pkg.head 0) < 2 ^ 31) ∧ up.pkg.queueEnabled 1 = false ∧ seqDiff (up.pkg.tail 1) 1 ≥ 2 ^ 31 ∧
    seqDiff (up.pkg.tail 1) (2 ^ 31) ≥ 2 ^ 31 := by decide +kernel
theorem test_meets_QueueControl :
    let s := withRegs [(Reg.DSP_QBASE 1, 0x2000), (Reg.DSP_QCPL 1, 0x6000), (Reg.DSP_QBASE 2, 0x1000000)] up
    let halted : Pkg := up.pkg.setQueueSt 0 { up.pkg.queueSt 0 with halted := true }
    s.pkg.queueEnabled 1 = false ∧ s.pkg.ringFault 1 = none ∧ s.pkg.partValid (s.pkg.queueCtx 1) = true ∧ s.pkg.queueEnabled 2 = false ∧
    s.pkg.ringFault 2 = some 0x1000000 ∧ halted.halted 0 = true ∧ halted.runOf 0 = none ∧
    (let r := halted.addRun (halted.newRun up.env 0 [] []); r.halted 0 = true ∧ r.runOf 0 ≠ none) := by decide +kernel
theorem test_meets_FlagWrites :
    let s := withRegs [(Reg.DSP_FLAG_ATTR 0 0, 1)] up
    (s.pkg.flagWritable 0 0 = true ∨ s.pkg.flagWritable 0 63 = true) ∧ up.pkg.flagWritable 0 0 = false ∧ (∀ g, Source.engine 0 ≠ .core g) ∧ up.pkg.reaches (.engine 0) = true ∧
    -- no earlier change of the beat; an addition from a higher die does not bar an addition
    s.pkg.flagCycle = [] ∧ ([⟨0, 0, 31, false, 1⟩] : List FlagChange).all (fun x => !x.set) = true := by decide +kernel
theorem test_meets_FlagClear : (∀ q : Fin 64, up.pkg.queueCtx q = 1 → up.pkg.queueEnabled q = false) ∧ up.pkg.queueCtx 0 = 0 ∧
    up.pkg.queueEnabled 0 = true := by decide +kernel
theorem test_meets_RegisterWriteCodes : (match findReg Reg.PWR_CFG with | some h => regLane h Reg.PWR_CFG == 0 && h.spec.bytes == 4 | none => false) = true ∧
    (match findReg Reg.PWR_CFG with | some h => !actingRegs.contains h.spec.name | none => false) = true ∧ findReg 0x07fe0000 = none ∧
    hostMmioOk 0x07fe0000 4 = true ∧ up.pkg.reaches (.pcie 0) = false ∧ sourceOf (.flagClr (.pcie 0) 0) = some (.pcie 0) :=
  ⟨by decide +kernel, by decide +kernel, by decide +kernel, by decide +kernel, by decide +kernel, rfl⟩
theorem test_meets_CounterWrites : bound.pkg.reaches (.pcie 0) = true ∧ bound.pkg.isOwner (.pcie 0) (bound.pkg.partOfEngines 0) = true ∧
    bound.pkg.isOwner (.fabric 9) (bound.pkg.partOfEngines 0) = false := by decide +kernel
theorem test_meets_PortRestore :
    let s := withRegs [(Reg.FAB_PORT_STATUS 0, 4 * 2 ^ 28 + 15 * 2 ^ 24)] bound
    s.pkg.portState 0 = 4 ∧ s.pkg.isOperator (.pcie 1) = true ∧ s.pkg.isOperator (.fabric 1) = false := by decide +kernel
theorem test_meets_TimedReleases :
    let s := withRegs [(Reg.TIM_CTX_CFG 0, 2 ^ (Fld.TIM_REL_ARM.lo)), (Reg.TIM_REL_AT 0, 17)] bound
    s.pkg.isOwner (.pcie 0) (some 0) = true ∧ s.pkg.isOwner (.fabric 3) (some 0) = false ∧ s.pkg.on (Reg.TIM_CTX_CFG 0) Fld.TIM_REL_ARM = true ∧
    s.pkg.flagAbove 30 0 (s.pkg.fld (Reg.TIM_CTX_CFG 0) Fld.TIM_REL_FLAG) = [] ∧
    -- H = 17 rounds up to beat 2: at beat 2 the release happens, at beat 1 it does not
    (s.pkg.regNat (Reg.TIM_REL_AT 0) + 15) / 16 = 2 ∧ (upAt 16).clock.beat + 1 = 2 ∧ (upAt 0).clock.beat + 1 < 2 := by decide +kernel
theorem test_meets_DimensionOrder : up.pkg.working = true ∧ routerOf 0 = 0 ∧ routerOf (⟨0, 5, 1, []⟩ : NetPacket).src = 0 ∧ up.pkg.net.knows ⟨0, 5, 1, []⟩ = false := by decide +kernel
theorem test_meets_LinkUpkeep :
    let k : NetHop := ⟨0, ⟨0, 5, 1, []⟩⟩
    let n : Net := { up.pkg.net with used := [(0, 1)], held := [k] }
    routerOf 0 = 0 ∧ (0 < n.usedOf 0 ∧ n.held.find? (fun h => h.link == 0) = some k) ∧ n.usedOf 0 ≤ linkDepth 0 :=
  ⟨rfl, by decide +kernel, Nat.le_add_left _ _⟩
/-- A faulty lane of an idle link with every spare free. -/
theorem test_meets_LinkUpkeep_lane :
    let s : State := { up with pkg := { up.pkg with ras := { up.pkg.ras with waiting := [(0, 0x7000)] } } }
    s.pkg.ras.waiting.contains (0, 0x7000) = true ∧ s.pkg.net.flight = [] ∧ s.pkg.net.lanes = [] ∧ s.pkg.ras.retired = [] ∧ 0 % 528 < 512 := by decide +kernel
theorem test_meets_StartChecks : startOf (.copy 0) ≠ none ∧ up.pkg.working = true ∧ up.pkg.startable 0 = none ∧ (queued (desc 3 0)).pkg.startable 0 = some (desc 3 0) ∧
    deadlinePassed (queued (desc 3 0)).env.tagHall (desc 3 0) = false ∧ ownBad (desc 3 0) = false ∧ ownBad (desc 9 0) = true := by decide +kernel

/-! Descriptors that start. -/

theorem starts_of {s : State} {q : Nat} {d : List Byte} (h : s.pkg.working = true ∧ s.pkg.startable q = some d ∧
    deadlinePassed s.env.tagHall d = false ∧ ownBad d = false) : s.Starts q d := ⟨h.1, h.2.1, h.2.2.1, h.2.2.2⟩

/-- What the dispatcher's reads for a start command leave, and what they find. -/
def readBy (i : Instr) (q : Nat) (d : List Byte) (s : State) : Pkg × LineOutcome :=
  s.pkg.readAhead s.env (s.pkg.queueCtx q) (startReads s.pkg (s.pkg.queueCtx q) d i)
theorem reads_of {s : State} {i : Instr} {q : Nat} {d : List Byte} (h : (readBy i q d s).2 = .ok) : s.Reads i q d (readBy i q d s).1 := Prod.ext rfl h

/-- Descriptors: an array product of one element, a coat program in slot 0, a conjugate-gradient solve, a copy, a barrier, a SAVE, COAT_LOAD. -/
def dArray : List Byte := handled 0 0xff00
def dCoat : List Byte := handled 1 0
def dCopy : List Byte := handled 3 0
/-- The same with a parameter block at 0x3000 and another kind, class or operation. -/
def withParams (hdr op : Nat) : List Byte := (handled hdr op).take 0x48 ++ leBytes 4 0 ++ leBytes 52 0

theorem test_meets_ArrayAndCoatStarts : (queuedT dArray).Starts 0 dArray ∧ dKind dArray = 0 ∧
    (∃ p, (queuedT dArray).Reads (.arrayDescriptor 0) 0 dArray p ∧ p.arrayVerdict 0 dArray = none) ∧
    (∃ p, (queuedT (handled 0 0)).Reads (.arrayDescriptor 0) 0 (handled 0 0) p ∧ p.arrayVerdict 0 (handled 0 0) = some (0x3f, 4)) ∧
    (queuedT dCoat).Starts 0 dCoat ∧ dKind dCoat = 1 ∧ (∃ p, (queuedT dCoat).Reads (.coatDescriptor 0) 0 dCoat p ∧ p.coatVerdict 0 dCoat = some (0x3f, 4)) :=
  ⟨starts_of (by decide +kernel), by decide, ⟨_, reads_of (by decide +kernel), by decide +kernel⟩, ⟨_, reads_of (by decide +kernel), by decide +kernel⟩,
   starts_of (by decide +kernel), by decide, ⟨_, reads_of (by decide +kernel), by decide +kernel⟩⟩
/-- A line of the handle table that fails parity and that no patch line rebuilds. -/
theorem test_meets_StartChecks_reads : let s : State := { queuedT dArray with pkg := (queuedT dArray).pkg.markBad [256 * lineCode 0 32 0] }
    s.Starts 0 dArray ∧ (readBy (.arrayDescriptor 0) 0 dArray s).2 = .failed := ⟨starts_of (by decide +kernel), by decide +kernel⟩
theorem test_meets_FabricStarts : (queuedT dCopy).Starts 0 dCopy ∧ dKind dCopy = 3 ∧ dOp dCopy % 16 = 0 ∧ 
    (∃ p, (queuedT dCopy).Reads (.copy 0) 0 dCopy p ∧ p.fabVerdict 0 dCopy = none) :=
  ⟨starts_of (by decide +kernel), by decide, by decide, _, reads_of (by decide +kernel), by decide +kernel⟩

/-- The package with bytes set, and queue 0's head fetched. -/
def primed (blk : List (Nat × List Byte)) (d : List Byte) : State :=
  let p := blk.foldl (fun (p : Pkg) x => p.setBytes x.1 x.2) tabled.pkg
  { tabled with pkg := p.setQueueSt 0 { p.queueSt 0 with prefetch := some (0, d) } }

/-- A one-by-one system in CSR, its conjugate-gradient solve of ten iterations, and the same without iterations. -/
def solveBytes (maxit : Nat) : List (Nat × List Byte) :=
  let vec (a : Nat) : List Byte := leBytes 8 a ++ leBytes 16 0 ++ leBytes 4 (2 ^ 14 + 32 * 13) ++ leBytes 36 0
  [(0x2000, vec 0x1000 ++ leBytes 64 0 ++ vec 0x1200), (0x4000, leBytes 8 0 ++ leBytes 4 1 ++ leBytes 4 1 ++ leBytes 8 1 ++ leBytes 8 0x4100 ++ leBytes 8 0x4200 ++ leBytes 8 0x4300),
   (0x4108, leBytes 8 1), (0x4300, leBytes 8 0x4000000000000000), (0x1000, leBytes 8 0x3ff0000000000000),
   (0x3000, leBytes 16 0x4000 ++ leBytes 8 0x10000 ++ leBytes 8 0x1000 ++ leBytes 8 0x5000 ++ leBytes 4 maxit)]
def dSolve : List Byte := withParams 2 0
def solving : State := primed (solveBytes 10) dSolve

theorem test_meets_SolveStarts : solving.Starts 0 dSolve ∧ dKind dSolve = 2 ∧ anvMethod dSolve = 0 ∧
    (∃ p, solving.Reads (.cg 0) 0 dSolve p ∧ p.anvVerdict 0 dSolve (p.paramBytes 0 dSolve 128) = none) ∧
    (∃ p, (primed (solveBytes 0) dSolve).Reads (.cg 0) 0 dSolve p ∧ p.anvVerdict 0 dSolve (p.paramBytes 0 dSolve 128) = some (0x3f, 0x44)) :=
  ⟨starts_of (by decide +kernel), by decide, by decide, ⟨_, reads_of (by decide +kernel), by decide +kernel⟩, _, reads_of (by decide +kernel), by decide +kernel⟩

/-- Communicator 1 of partition 0, this package its one member. -/
def comm1 : Comm := ⟨0, 1, 7, 0, [(0, 1)], 0, 1, 0x20000, 0x10000, 0, 1000000, 0, none, 0, [], 0⟩
/-- A barrier on communicator 1, and one on communicator 0, which is not set up. -/
def dBarrier (comm : Nat) : List Byte := withParams 0x204 (5 + 1024 * comm)
def withComm (m : Comm) (d : List Byte) : State := { primed [] d with pkg := (primed [] d).pkg.setComm m }

theorem test_meets_CollectiveStarts : let d := dBarrier 1; let s := withComm comm1 d; s.Starts 0 d ∧ dKind d = 4 ∧ dOp d % 16 = 5 ∧
    (∃ p, s.Reads (.barrier 0) 0 d p ∧ firstFail [p.handleVerdict 0 d false (fun _ _ => false) [],
       p.paramVerdict 0 d (p.paramBytes 0 d 16) 16 (colParamBad 5 (p.paramBytes 0 d 16))] = none ∧ p.colCause 0 d (p.paramBytes 0 d 16) = 0 ∧
     firstFail (p.nestVerdicts 0 d [] ++ [p.bandwidthVerdict 0 [],
       if (p.ctxEngines 0).any (fun en => p.dieLost (20 + en / 4)) then some (0x37, 0) else none]) = none ∧
     p.comm? 0 (opComm (p.colOp 0 d)) = some comm1) ∧
    -- without a parameter block the start ends with its verdict
    (∃ p, (queuedT (handled 0x204 0x405)).Reads (.barrier 0) 0 (handled 0x204 0x405) p ∧
      p.paramVerdict 0 (handled 0x204 0x405) (p.paramBytes 0 (handled 0x204 0x405) 16) 16 false = some (0x3f, 1)) :=
  ⟨starts_of (by decide +kernel), by decide, by decide, ⟨_, reads_of (by decide +kernel), by decide +kernel⟩, _, reads_of (by decide +kernel), by decide +kernel⟩

/-- RELEASE of communicator 1, TRIG_ARM of no entry, SETUP of communicator 2 for this package alone. -/
def dRelease : List Byte := handled 0x204 0x408
def dArm : List Byte := withParams 0x204 9
def dSetup : List Byte := withParams 0x204 7
def armBytes : List (Nat × List Byte) := [(0x3000, leBytes 8 0x4000 ++ leBytes 4 1 ++ leBytes 4 (2 ^ 14 - 1)), (0x4000, leBytes 4 0x40001 ++ leBytes 4 4 ++ leBytes 56 0)]
def setupBytes : List (Nat × List Byte) :=
  [(0x3000, leBytes 8 9 ++ leBytes 8 0x4000 ++ leBytes 4 1 ++ leBytes 2 0 ++ leBytes 2 1 ++ leBytes 8 0x20000 ++ leBytes 8 0x10000 ++ leBytes 12 0 ++ leBytes 1 2)]

theorem test_meets_TriggerAndReleaseStarts :
    ((withComm comm1 dRelease).Starts 0 dRelease ∧ dKind dRelease = 4 ∧ dJclass dRelease = 2 ∧ dOp dRelease % 16 = 8 ∧
      (∃ p, (withComm comm1 dRelease).Reads (.release 0) 0 dRelease p ∧ p.comm? 0 (opComm (dOp dRelease)) = some comm1 ∧ comm1.queue = none)) ∧
    (let s := primed armBytes dArm
     s.Starts 0 dArm ∧ dJclass dArm = 2 ∧ dOp dArm % 16 = 9 ∧ ∃ p, s.Reads (.trigArm 0) 0 dArm p ∧
     let b := p.paramBytes 0 dArm 64
     let imgs := (List.range (tCount b)).map (fun i => p.viewBytes (tImages b + 64 * i) 64)
     tCount b = 1 ∧ p.paramVerdict 0 dArm b 64 (trigParamBad b) = none ∧ tFirst b + tCount b = 16384 ∧ tWordCount b = 0 ∧
       tEngine b ≤ 31 ∧ (p.ctxEngines 0).contains (tEngine b) = true ∧ p.tableVerdict 0 [(tImages b, 64 * tCount b), (tWords b, 4 * tWordCount b)] = none ∧
       imgs.any entryBad = false ∧ p.binds = []) :=
  ⟨⟨starts_of (by decide +kernel), by decide, by decide, by decide, _, reads_of (by decide +kernel), by decide +kernel⟩,
   starts_of (by decide +kernel), by decide, by decide, _, reads_of (by decide +kernel), by decide +kernel⟩
theorem test_meets_SetupStarts : let s := primed setupBytes dSetup
    s.Starts 0 dSetup ∧ dKind dSetup = 4 ∧ dOp dSetup % 16 = 7 ∧ ∃ p, s.Reads (.setup 0) 0 dSetup p ∧ let b := p.paramBytes 0 dSetup 64
    p.paramVerdict 0 dSetup b 64 (setupBad b) = none ∧ p.tableVerdict 0 [(sTable b, 4 * sCount b)] = none ∧ p.setupCause 0 dSetup b = 0 :=
  ⟨starts_of (by decide +kernel), by decide, by decide, _, reads_of (by decide +kernel), by decide +kernel⟩

/-! Checkpoints and hearth calls. -/

/-- A larger region, two packages in the topology, and connection 0 ready on port 0. -/
def ckBase (blk : List (Nat × List Byte)) (d : List Byte) : State :=
  withRegs [(Reg.MEM_RG_SIZE 0, 2 ^ 26), (Reg.FAB_TOPO, 2 ^ 32 - 1), (Reg.RAS_CTX_CFG 0, 63 * 2 ^ Fld.RAS_JR_REGION.lo),
     (Reg.CKP_CONN_STATUS 0, 2 * 2 ^ Fld.CKP_CS_STATE.lo)] (primed blk d)
/-- A SAVE's or a RESTORE's block and tables: one shard of one page, one extent, the manifest on connection 0. -/
def ckTables : List (Nat × List Byte) :=
  [(0x4000, leBytes 8 0x400000 ++ leBytes 8 0x200000 ++ leBytes 8 0x5000 ++ leBytes 4 1 ++ leBytes 4 2), (0x5000, leBytes 12 0 ++ leBytes 4 513)]
def saveBytes : List (Nat × List Byte) :=
  (0x3000, leBytes 8 1 ++ leBytes 8 0x4000 ++ leBytes 4 1 ++ leBytes 4 8 ++ leBytes 8 0x1000000 ++ leBytes 12 0 ++ leBytes 4 1 ++ leBytes 24 0 ++
    leBytes 8 0x100000) :: ckTables
def restoreBytes : List (Nat × List Byte) :=
  (0x3000, leBytes 8 0 ++ leBytes 8 0x4000 ++ leBytes 4 1 ++ leBytes 24 0 ++ leBytes 4 1 ++ leBytes 16 0 ++ leBytes 8 0x6000 ++
    leBytes 8 0x100000) :: ckTables
def bcastBytes (origin : Bool) : List (Nat × List Byte) :=
  [(0x3000, leBytes 8 1 ++ leBytes 8 0x4000 ++ leBytes 8 2 ++ leBytes 8 0x800000 ++ leBytes 8 64 ++ leBytes 32 0 ++ leBytes 8 0x100000 ++
    leBytes 8 (if origin then 0x7000 else 0)), (0x4000, if origin then leBytes 8 0x100000000 else leBytes 4 1)]
def ckDesc (kind : Nat) : List Byte := withParams 5 (0x3000 + kind)
def saving : State := ckBase saveBytes (ckDesc 0)
def restoring : State := ckBase restoreBytes (ckDesc 1)
def connecting : State := ckBase [(0x3000, leBytes 4 1 ++ leBytes 2 0x1001 ++ leBytes 18 0 ++ leBytes 8 0x5000 ++ leBytes 8 0x5000)] (ckDesc 2)
def parting : State := ckBase [] (ckDesc 3)
def sending : State := ckBase (bcastBytes true) (ckDesc 4)
def receiving : State := ckBase (bcastBytes false) (ckDesc 5)

/-- A hearth call of library 2.4. -/
def dCall (id : Nat) : List Byte := withParams 6 (id + 0x4020000)
/-- A product with a bias and no activation, and one group of the handles 0, 1, 2, 3. -/
def epilogued : State := primed [(0x20c0, tensorAt 0x1300 2)] (dCall 0x11)
def grouping : State := primed [(0x20c0, tensorAt 0x1300 2), (0x3000, leBytes 4 1 ++ leBytes 4 0xff00 ++ leBytes 4 0 ++ leBytes 4 1 ++ leBytes 4 2 ++ leBytes 4 3)] (dCall 0x10)
def calling (id : Nat) : State := primed [(0x3000, leBytes 8 0x4000), (0x4000, leBytes 4 1), (0x20c0, tensorAt 0x1300 2)] (dCall id)

theorem test_meets_CheckpointStarts :
    (saving.Starts 0 (ckDesc 0) ∧ dKind (ckDesc 0) = 5 ∧ ckKind (ckDesc 0) = 0 ∧
      ∃ p, saving.Reads (.save 0) 0 (ckDesc 0) p ∧ p.ckVerdict 0 (ckDesc 0) (p.paramBytes 0 (ckDesc 0) 128) = none) ∧
    (restoring.Starts 0 (ckDesc 1) ∧ ckKind (ckDesc 1) = 1 ∧
      ∃ p, restoring.Reads (.restore 0) 0 (ckDesc 1) p ∧ p.ckVerdict 0 (ckDesc 1) (p.paramBytes 0 (ckDesc 1) 128) = none) ∧
    (connecting.Starts 0 (ckDesc 2) ∧ ckKind (ckDesc 2) = 2 ∧
      ∃ p, connecting.Reads (.connect 0) 0 (ckDesc 2) p ∧ p.connectVerdict 0 (ckDesc 2) (p.paramBytes 0 (ckDesc 2) 64) = none) ∧
    (parting.Starts 0 (ckDesc 3) ∧ ckKind (ckDesc 3) = 3 ∧ dHasParam (ckDesc 3) = true ∧ ckOpBad (ckDesc 3) = false ∧
      (List.range 5).any (fun l => dCount (ckDesc 3) l != 1) = false ∧
      ∃ p, parting.Reads (.disconnect 0) 0 (ckDesc 3) p ∧ p.noHole (p.paramAddr 0 (ckDesc 3)) 64 = true ∧ leAt (p.paramBytes 0 (ckDesc 3) 64) 0 1 = 0 ∧
        p.connBad (ckDesc 3) 2 (leAt (p.paramBytes 0 (ckDesc 3) 64) 0 1) = false ∧ p.dieLost (28 + ckEngine (ckDesc 3)) = false) ∧
    (sending.Starts 0 (ckDesc 4) ∧ ckKind (ckDesc 4) = 4 ∧
      ∃ p, sending.Reads (.bcastSend 0) 0 (ckDesc 4) p ∧ p.bcastVerdict true 0 (ckDesc 4) (p.paramBytes 0 (ckDesc 4) 128) = none) ∧
    (receiving.Starts 0 (ckDesc 5) ∧ ckKind (ckDesc 5) = 5 ∧
      ∃ p, receiving.Reads (.bcastRecv 0) 0 (ckDesc 5) p ∧ p.bcastVerdict false 0 (ckDesc 5) (p.paramBytes 0 (ckDesc 5) 128) = none ∧
      ((p.enterBcast receiving.env 0 false (ckDesc 5) (p.paramBytes 0 (ckDesc 5) 128)).bcast? 0).isSome = true) :=
  ⟨⟨starts_of (by decide +kernel), by decide, by decide, _, reads_of (by decide +kernel), by decide +kernel⟩,
   ⟨starts_of (by decide +kernel), by decide, _, reads_of (by decide +kernel), by decide +kernel⟩,
   ⟨starts_of (by decide +kernel), by decide, _, reads_of (by decide +kernel), by decide +kernel⟩,
   ⟨starts_of (by decide +kernel), by decide, by decide, by decide, by decide, _, reads_of (by decide +kernel), by decide +kernel⟩,
   ⟨starts_of (by decide +kernel), by decide, _, reads_of (by decide +kernel), by decide +kernel⟩,
   ⟨starts_of (by decide +kernel), by decide, _, reads_of (by decide +kernel), by decide +kernel⟩⟩

theorem test_meets_HearthStarts_load : (calling 0x01).Starts 0 (dCall 0x01) ∧ dKind (dCall 0x01) = 6 ∧ hearthIds.contains (hId (dCall 0x01)) = true ∧
    ∃ p, (calling 0x01).Reads (.coatLoad 0) 0 (dCall 0x01) p ∧ (p.partDies 0).any p.tilesHeld = false ∧ p.callVerdict 0 (dCall 0x01) [] 9 [] = none ∧
      leAt (p.paramBytes 0 (dCall 0x01) 9) 0 8 = 0x4000 ∧ leAt (p.paramBytes 0 (dCall 0x01) 9) 8 1 = 0 ∧ p.listVerdict 0 0x4000 0x40 = none ∧
      leNat (p.viewBytes 0x4000 4) = 1 ∧ p.listVerdict 0 0x4000 (imageBytes 1) = none ∧
      let rd := (linesOf 0x4000 (imageBytes 1)).foldl (fun (st : Pkg × List Nat) l =>
        let x := st.1.touchLine (calling 0x01).env (.descriptor 0) l
        (x.1, if x.2 = .failed then st.2 ++ [l] else st.2)) (p, [])
      rd.2 = [] ∧ (parseImage (rd.1.viewBytes 0x4000 (imageBytes 1))).isLeft = true :=
  ⟨starts_of (by decide +kernel), by decide, by decide, _, reads_of (by decide +kernel), by decide +kernel⟩

/-- GATHER and SCATTER_ADD: the index tensor is INT32. -/
def indexed (id : Nat) : State := primed [(0x2040, tensorAt 0x1100 11)] (dCall id)
theorem test_meets_HearthStarts :
    ((calling 0x22).Starts 0 (dCall 0x22) ∧ ∃ p, (calling 0x22).Reads (.softmaxQ 0) 0 (dCall 0x22) p ∧ (p.partDies 0).any p.tilesHeld = false ∧
      p.callVerdict 0 (dCall 0x22) [0, 2] 4 [] = none) ∧
    ((calling 0x40).Starts 0 (dCall 0x40) ∧ ∃ p, (calling 0x40).Reads (.ringAttn 0) 0 (dCall 0x40) p ∧ p.callVerdict 0 (dCall 0x40) [0, 1, 2, 3] 16 [] = none) ∧
    ((calling 0x100).Starts 0 (dCall 0x100) ∧ ∃ p, (calling 0x100).Reads (.enqList 0) 0 (dCall 0x100) p ∧ p.callVerdict 0 (dCall 0x100) [] 24 [] = none) ∧
    ((indexed 0x31).Starts 0 (dCall 0x31) ∧ ∃ p, (indexed 0x31).Reads (.gather 0) 0 (dCall 0x31) p ∧ p.callVerdict 0 (dCall 0x31) [0, 1, 2] 0 [] = none ∧
      (match p.tensors 0 (dCall 0x31) [0, 1, 2] with
       | [(0, t), (1, ix), (2, o)] => !(ix.stored != .int32 || o.size 0 != t.size 0 || o.size 1 != ix.size 0)
       | _ => false) = true) :=
  ⟨⟨starts_of (by decide +kernel), _, reads_of (by decide +kernel), by decide +kernel⟩, ⟨starts_of (by decide +kernel), _, reads_of (by decide +kernel), by decide +kernel⟩,
   ⟨starts_of (by decide +kernel), _, reads_of (by decide +kernel), by decide +kernel⟩, starts_of (by decide +kernel), _, reads_of (by decide +kernel), by decide +kernel⟩
theorem test_meets_HearthStarts_gemm :
    ((epilogued).Starts 0 (dCall 0x11) ∧ ∃ p, epilogued.Reads (.gemmEpilogue 0) 0 (dCall 0x11) p ∧
      (let gemm := leAt (p.paramBytes 0 (dCall 0x11) 8) 0 4
       p.callVerdict 0 (dCall 0x11) [0, 1, 2, 3] 8
         [abortIf (gemm >>> 16 != 0 || bitsOf gemm 7 5 != 0 || gemm % 8 > 4 || leAt (p.paramBytes 0 (dCall 0x11) 8) 4 4 > 3) 0x0c,
          abortIf (arrayShapeBad (gemm % 8) (p.tensors 0 (dCall 0x11) [0, 1, 2]) || biasBad (p.tensorOf 0 (dCall 0x11) 2) (p.tensorOf 0 (dCall 0x11) 3)) 0x04] = none) ∧
      (p.callMasked (p.newRun epilogued.env 0 (dCall 0x11) (p.paramBytes 0 (dCall 0x11) 8))).isNone = true) ∧
    (grouping.Starts 0 (dCall 0x10) ∧ ∃ p, grouping.Reads (.gemmGrouped 0) 0 (dCall 0x10) p ∧ p.groupedVerdict 0 (dCall 0x10) = none) :=
  ⟨⟨starts_of (by decide +kernel), _, reads_of (by decide +kernel), by decide +kernel⟩, starts_of (by decide +kernel), _, reads_of (by decide +kernel), by decide +kernel⟩

/-! Descriptors, tiles and solves under way. -/

/-- A state whose package is changed. -/
def withPkg (f : Pkg → Pkg) (s : State) : State := { s with pkg := f s.pkg }
/-- The same at another hall time. -/
def withHall (h : Nat) (s : State) : State := { s with clock := ⟨h⟩ }
/-- Queue 0's head running in the package of small tensors. -/
def runsT (f : Run → Run) (d : List Byte) : State := { tabled with pkg := tabled.pkg.addRun (f (tabled.pkg.newRun tabled.env 0 d [])) }
/-- A descriptor with a deadline, and one whose first wait is for flag 5 to reach 1. -/
def dated (h : Nat) (d : List Byte) : List Byte := d.take 0x40 ++ leBytes 8 h ++ d.drop 0x48
def waiting (d : List Byte) : List Byte := d.take 0x10 ++ leBytes 8 (2 ^ 16 + 2 ^ 12 + 5) ++ d.drop 0x18

theorem test_meets_DescriptorFetches :
    let hole := withRegs [(Reg.DSP_QBASE 0, 2 ^ 25)] up
    up.pkg.runOf 0 = none ∧ up.pkg.queueEnabled 1 = false ∧ (up.pkg.queueEnabled 0 = true ∧ up.pkg.waitingCount 0 = 1 ∧ (up.pkg.queueSt 0).prefetch = none) ∧
    (up.pkg.fetchSlot up.env 0 0).2.1 = none ∧ (hole.pkg.runOf 0 = none ∧ (hole.pkg.fetchSlot hole.env 0 0).2.1 = some 5) := by decide +kernel
theorem test_meets_DescriptorCompletes :
    let ended := runsT (fun r => { r with finished := true }) dCopy
    let lost := withRegs [(Reg.DSP_QCPL 0, 2 ^ 25)] ended
    up.pkg.runOf 0 = none ∧ (runsT id dCopy).pkg.runOf 0 ≠ none ∧
    (match ended.pkg.runOf 0 with
     | some r => r.finished && r.replayOn.isNone && r.kind != 2 && (ended.pkg.dropRun 0).rangeOwned 0 (ended.pkg.cplAddr 0 r.seq) 32 &&
         let y := ended.pkg.closeSolve ended.env r
         ((y.1.complete ended.env 0 r.seq r.desc y.2.finalRecord (some y.2)).queueSt 0).flush.isNone
     | none => false) = true ∧
    (ended.pkg.queueSt 0).flush = none ∧ (lost.pkg.queueSt 0).flush = none ∧ lost.pkg.ckRun? 0 = none ∧ lost.pkg.queueCtx 0 = 0 ∧
    ((lost.pkg.dropRun 0).rangeOwned 0 (lost.pkg.cplAddr 0 0) 32 = false) := by decide +kernel
theorem test_meets_Deadlines :
    -- at hall time 16 the tagging beat is 2, at 32 ns
    let late := withHall 16 (queuedT (dated 32 dCopy))
    let early := withHall 16 (queuedT (dated 33 dCopy))
    (late.pkg.headDesc 0 = some (dated 32 dCopy) ∧ late.pkg.activeQueue 0 = true ∧ late.pkg.ctxRuns 0 = true ∧
      deadlinePassed late.env.tagHall (dated 32 dCopy) = true) ∧
    (early.pkg.headDesc 0 = some (dated 33 dCopy) ∧ deadlinePassed early.env.tagHall (dated 33 dCopy) = false) ∧
    (match (withHall 16 (runsT id (dated 32 dCopy))).pkg.runOf 0 with | some r => r.kind != 2 && deadlinePassed 32 r.desc | none => false) = true := by
  decide +kernel
theorem test_meets_BlockedContexts :
    let st (n since : Nat) := withPkg (fun p => p.setCtxSt 0 { p.ctxSt 0 with blockedSince := some since, cycleCount := n }) (queuedT (waiting dCopy))
    let idle := withHall 1024 (withRegs [(Reg.DSP_CTX_STALL 0, 1)] (withPkg (fun p => p.setCtxSt 0 { p.ctxSt 0 with blockedSince := some 40 }) up))
    ((st 6249 0).pkg.working = true ∧ (st 6249 0).pkg.waitCycle 0 = true ∧ 6249 ≤ ((st 6249 0).pkg.ctxSt 0).cycleCount) ∧
    ((st 6248 0).pkg.ctxSt 0).cycleCount < 6249 ∧
    ((idle.pkg.ctxSt 0).blockedSince = some 40 ∧ idle.pkg.fld (Reg.DSP_CTX_STALL 0) Fld.DSP_CTX_STALL_US = 1 ∧
      40 + 1000 * 1 ≤ idle.env.tagHall ∧ idle.pkg.waitCycle 0 = false) := by decide +kernel

/-- The array product of one element under way. -/
def arraying : State := runsT id dArray
theorem test_meets_ArrayTileCommits :
    (match arraying.pkg.arrayRun 0 0 with
     | some r =>
       let j := arraying.pkg.arrayJob r
       let pl := j.place 0
       let rd := arraying.pkg.touchPass arraying.env (.descriptor r.queue) j (r.origin 0 pl.iter) (r.origin 1 pl.iter) (r.origin 3 pl.iter) pl 0 j.k true
       let r1 := r.readOutcome arraying.env rd.2
       let p1 := rd.1.setRun r1
       let ds := p1.drainStores r1 j 0 0 (p1.narrowOf r1 j 0).accum (j.factor .narrow (p1.tensorScale j.a) (p1.tensorScale j.b))
       j.inTurn r 0 0 && decide (rd.2 ≠ .failed) && ds.1.traps.isEmpty && !p1.segsMasked (segmentsOf ds.2.bytes) &&
       j.dieOf 0 0 == 0 && decide (0 < dIters r.desc * j.tiles) && !(r.tile 0).committed && j.s == 1 && !(r.tile 0).reheat && !j.reheatable &&
       -- a tile past the last is not ready
       decide (¬ dIters r.desc * j.tiles < dIters r.desc * j.tiles)
     | none => false) = true ∧ arraying.pkg.tilesHeld 0 = false := by decide +kernel

/-- A coat descriptor under way, and one with tile 0 on its die. -/
def coating : State := runsT (fun r => { r with image := some ⟨1, true, none, 0, 0, 0, [0, 0, 0, 0, 0, 0, 0, 0], [0, 0, 0, 0]⟩ }) dCoat
theorem test_meets_CoatTiles :
    (match coating.pkg.coatRun 0 with
     | some ri => coating.pkg.coatDie ri.1 0 == 0 && decide (0 < dIters ri.1.desc * coatTilesOf ri.1.coatOut) && !(ri.1.tile 0).committed && ri.1.coatTurn 0 &&
         (coating.pkg.runOf ri.1.queue).isSome
     | none => false) = true ∧ coating.pkg.tilesHeld 0 = false ∧ assoc? coating.pkg.coatNow 0 = none ∧
    (match (after (.coatTileStart 0 0) coating).pkg.coatRun 0, assoc? (after (.coatTileStart 0 0) coating).pkg.coatNow 0 with
     | some ri, some n =>
       let s := after (.coatTileStart 0 0) coating
       let p := s.pkg
       let r := ri.1
       let pl := coatPlace r.coatOut 0
       let rd := ([0, 1].filter ri.2.readsInput).foldl (fun (st : Pkg × LineOutcome) h =>
         let y := st.1.touchCoat s.env (.descriptor r.queue) (r.tensor h) (r.origin h pl.iter) pl
         (y.1, st.2.join y.2)) (p, LineOutcome.ok)
       let p1 := rd.1.setRun (r.readOutcome s.env rd.2)
       let inputs := [0, 1].map (fun h => if ri.2.readsInput h then
         coatInput (r.tensor h) (p1.tensorScale (r.tensor h)) (p1.inputByte r false) (r.origin h pl.iter) pl else [])
       let view : TileView := { rows := pl.rows, cols := pl.lanes, banks := [], unit0 := 0, unit1 := 0, factor := .fin false 1 1, level := p1.numLevel, inputs := inputs }
       n.t == 0 && n.queue == r.queue && decide (rd.2 ≠ .failed) && (drainTile (some ri.2) view false n.latchk).traps.isEmpty
     | _, _ => false) = true := by decide +kernel

/-- Units that wait for their boundary: column 511 of die 0, lane 0 of die 0, a lane and a double lane of Anvil 0. -/
def retiring : State := withPkg (fun p => { p with ras := { p.ras with waiting := [(0, 0x11ff), (0, 0x3000), (16, 0xa000)] } }) up
theorem test_meets_RetirementsAtBoundary :
    retiring.pkg.waitingUnit 0 1 = some (0, 0x11ff) ∧ 0x11ff % 4096 < 512 ∧
    retiring.pkg.freeSpare 0 1 (Reg.ARR_COLMAP 0) Fld.ARR_MAP_VALID = some 0 ∧ retiring.pkg.waitingUnit 0 3 = some (0, 0x3000) ∧
    assoc? retiring.pkg.coatNow 0 = none ∧ retiring.pkg.waitingUnit 1 1 = none ∧
    (withRegs ((List.range 32).map (fun x => (Reg.ARR_COLMAP 0 x, 2 ^ Fld.ARR_MAP_VALID.lo))) retiring).pkg.freeSpare 0 1 (Reg.ARR_COLMAP 0) Fld.ARR_MAP_VALID = none ∧
    retiring.pkg.ras.waiting.find? (fun u => u.1 == 16 && (u.2 / 4096 == 0xa || u.2 / 4096 == 0xb)) = some (16, 0xa000) := by decide +kernel

/-- The solve entered, and its iterations begun with a soft expiry. -/
def solved : State := after (.cg 0) solving
def iterating (f : AnvSolve → AnvSolve) : State := withPkg (fun p => match p.solve 0 with | some v => p.setSolve 0 (f v) | none => p) solved
theorem test_meets_SolveSetup : solving.pkg.solveRun 0 = none ∧
    (match solved.pkg.solveRun 0 with
     | some x =>
       let ms := x.1.heads.map (fun y => MatHdr.mk y.1 y.2)
       let a := ms.headD ⟨0, []⟩
       let rd := ms.foldl (fun (st : Pkg × LineOutcome) m => let y := st.1.touchMat solved.env (.descriptor x.2.queue) m; (y.1, st.2.join y.2))
         (solved.pkg.touchInputs solved.env x.2 (solveInputs x.2.desc))
       x.1.ended.isNone && x.1.phase == 0 && decide (0 < x.1.phases) && decide (rd.2 ≠ .failed) && (rd.1.scanCause x.2 a ms[1]?).isNone &&
         (match x.1.attempt (rd.1.scanSolve x.2 a ms[1]?) with | .done _ _ => true | _ => false)
     | none => false) = true := by decide +kernel
/-- The solve with its matrix scanned, and with its first residual formed. -/
def scanned : State := after (.setupPhaseCommit 0 none) solved
def residual : State := after (.setupPhaseCommit 0 none) scanned
theorem test_meets_SolveSetup_residual :
    (match scanned.pkg.solveRun 0 with
     | some x => x.1.ended.isNone && x.1.phase == 1 && x.1.phases == 2 && (match x.1.attempt (x.1.first x.2) with | .done _ _ => true | _ => false)
     | none => false) = true := by decide +kernel
theorem test_meets_SolveIterates : residual.pkg.working = true ∧
    (match residual.pkg.solveRun 0 with
     | some x => decide (x.1.phases ≤ x.1.phase) && x.1.ended.isNone && (match x.1.attempt (x.1.iterate x.2) with | .done (some _) _ => true | _ => false)
     | none => false) = true := by decide +kernel
theorem test_meets_SolveEnds :
    let late (ph : Nat) := withHall 64 (withPkg (fun p => match p.runOf 0 with | some r => p.setRun { r with desc := dated 80 dSolve } | none => p)
      (iterating (fun v => { v with phase := ph })))
    (match (late 0).pkg.solve 0, (late 0).pkg.runOf 0 with
     | some v, some r => v.queue == 0 && deadlinePassed (late 0).env.tagHall r.desc && !r.late && v.ended.isNone && decide (v.phase < v.phases)
     | _, _ => false) = true ∧
    (match (late 2).pkg.solve 0, (late 2).pkg.runOf 0 with
     | some v, some r => decide (v.phases ≤ v.phase) && decide (v.lastCommit < (late 2).env.tag) && !dHard r.desc
     | _, _ => false) = true ∧
    (match (iterating (fun v => { v with phase := 2, ended := some 0 })).pkg.solveRun 0 with | some x => x.1.ended == some 0 | none => false) = true := by decide +kernel

/-- Operands of k steps, stored FP16 and read Q4, with reheat asked and threshold 0: their first two elements are 65,504 and 2^−14, which flushes; C asks
for a shadow pass of every tile. -/
def quenchBytes (k : Nat) : List (Nat × List Byte) :=
  let q (a w fmt : Nat) : List Byte := leBytes 8 a ++ leBytes 8 0 ++ leBytes 8 w ++ leBytes 4 (2 ^ 14 + fmt) ++ leBytes 4 0 ++ leBytes 3 (k - 1) ++ leBytes 29 0
  [(0x2000, q 0x1000 (2 ^ 10) (2 + 32 * 6) ++ q 0x1100 (2 ^ 10) (2 + 32 * 6) ++
    leBytes 8 0x1200 ++ leBytes 8 0 ++ leBytes 8 (2 ^ 32) ++ leBytes 4 (2 ^ 14 + 66) ++ leBytes 36 0),
   (0x1000, leBytes 4 0x04007bff), (0x1100, leBytes 4 0x04007bff)]
def quenching (k : Nat) (d : List Byte) : State :=
  let s := primed (quenchBytes k) d
  withPkg (fun p => p.addRun { p.newRun s.env 0 d [] with shares := List.replicate 8 1 }) s
def quenchJob (s : State) (P : Pkg → Run → ArrayJob → Bool) : Bool := match s.pkg.arrayRun 0 0 with | some r => P s.pkg r (s.pkg.arrayJob r) | none => false

theorem test_meets_ReheatOrder : let s := quenching 2 dArray
    s.pkg.working = true ∧ s.pkg.tilesHeld 0 = false ∧ quenchJob s (fun p r j =>
      let pl := j.place 0
      let rd := p.touchPass s.env (.descriptor r.queue) j (r.origin 0 pl.iter) (r.origin 1 pl.iter) (r.origin 3 pl.iter) pl 0 j.k true
      let r1 := r.readOutcome s.env rd.2
      j.dieOf 0 0 == 0 && decide (0 < dIters r.desc * j.tiles) && !(r.tile 0).committed && j.inTurn r 0 0 && j.s == 1 && !(r.tile 0).reheat && decide (rd.2 ≠ .failed) &&
        ((rd.1.setRun r1).narrowOf r1 j 0).overT && j.reheatable && j.settled r1 0 && r1.shares.getD (j.rankOf 0) 0 != 0) = true := by decide +kernel
/-- A product whose 64 steps two dies share. -/
theorem test_meets_PartsAndShadows :
    (let s := quenching 64 dArray
     s.pkg.working = true ∧ s.pkg.tilesHeld 1 = false ∧ s.pkg.arrayRun 1 0 = s.pkg.arrayRun 0 0 ∧ quenchJob s (fun p r j =>
       let pl := j.place 0
       let ks := ksplitPart j.k j.s 1
       let rd := p.touchPass s.env (.descriptor r.queue) j (r.origin 0 pl.iter) (r.origin 1 pl.iter) (r.origin 3 pl.iter) pl ks.1 ks.2 false
       j.s == 2 && j.dieOf 0 0 == 0 && j.dieOf 0 1 == 1 && j.inTurn r 1 0 && decide (rd.2 ≠ .failed) && decide (0 < dIters r.desc * j.tiles) && !(r.tile 0).committed && !(r.tile 0).reheat && (r.tile 0).parts.isEmpty) = true) ∧
    (let s := withPkg (fun p => match p.runOf 0 with | some r => p.setRun (r.setTile { r.tile 0 with committed := true }) | none => p) (quenching 2 dArray)
     quenchJob s (fun p r j =>
       let pl := j.place 0
       let rd := p.touchPass s.env (.descriptor r.queue) j (r.origin 0 pl.iter) (r.origin 1 pl.iter) (r.origin 3 pl.iter) pl 0 j.k true
       j.dieOf 0 0 == 0 && (r.tile 0).committed && !(r.tile 0).shadowDone && j.shadowed 0 && decide (rd.2 ≠ .failed)) = true) := by decide +kernel

/-! Memory, cores and packets. -/

theorem test_meets_MemoryRequests :
    let none_ := withRegs [(Reg.MEM_REG 0, 0)] tabled
    tabled.pkg.regionAt (2 ^ 24) = none ∧
    (match tabled.pkg.regionAt (2 ^ 24 - 1) with
     | some r =>
       let k := (r.place (2 ^ 24 - 256)).1
       !r.stash && !tabled.pkg.noBandwidth (tabled.pkg.memPart (memUser (.core 0)) r) && !tabled.pkg.stackHeld k &&
         !tabled.pkg.calDelays (2 ^ 24 - 256) 256 true &&
         -- the last byte of a line fits, one more crosses
         (2 ^ 24 - 256) / 256 == (2 ^ 24 - 256 + 256 - 1) / 256 && (2 ^ 24 - 512) / 256 != (2 ^ 24 - 512 + 257 - 1) / 256
     | none => false) = true ∧
    (match none_.pkg.regionAt 0 with | some r => !r.stash && none_.pkg.noBandwidth (none_.pkg.memPart (memUser (.core 0)) r) | none => false) = true := by
  decide +kernel
/-- A fabric request that finds the inbound queue of its stack full, and a request of a descriptor without a buffer error. -/
theorem test_meets_MemoryRequests_full :
    let w : WaitingReq := ⟨.fabric 1, 0, 0, .read, 8, false, 0, false, false, 0, none⟩
    let s := withPkg (fun p => p.setStack 0 { p.stack 0 with waiting := List.replicate 256 w }) tabled
    w.inbound s.pkg.ownLoc = true ∧ s.pkg.inboundFull 0 = true ∧ (s.pkg.regionAt 0).isSome = true ∧ tabled.pkg.inboundFull 0 = false ∧ tabled.pkg.memDone = [] := by
  decide +kernel
theorem test_meets_StripesAndFills :
    let w : StripeWrite := ⟨memUser (.core 0), 0, [0x11], false⟩
    let s := withPkg (fun p => p.setStack 0 { p.stack 0 with stripes := [w] }) (withRegs [(Reg.MEM_RG_ATTR 0, 2 ^ 31 + 2 ^ Fld.MEM_RG_PATCH.lo + 1)] up)
    let fresh := withRegs [(Reg.MEM_RG_ATTR 0, 1)] up
    (up.pkg.stack 0).stripes = [] ∧ ((s.pkg.stack 0).stripes = [w] ∧ s.pkg.memDone = [] ∧
      (match s.pkg.regionAt 0 with
       | some r => w.inStripe r 0 (r.lineNo 0) && !s.pkg.listFull r 0 (r.linesTouched [(0, [0x11])]) && !s.pkg.staleKey r 0 &&
           decide (((s.pkg.setStack 0 { s.pkg.stack 0 with stripes := [] }).writeStripe r 0 [(0, [0x11])]).2 ≠ .failed)
       | none => false) = true) ∧
    ((fresh.pkg.region 0).valid = true ∧ (fresh.pkg.region 0).ready = false) ∧ (up.pkg.region 0).ready = true ∧ (up.pkg.region 63).valid = false := by
  decide +kernel
theorem test_meets_Calibration :
    let st (f : StackSt → StackSt) := withPkg (fun p => p.setStack 23 (f (p.stack 23))) up
    let step (n : Nat) := st (fun x => { x with retrain := some ⟨63, n, false, 0⟩ })
    (up.pkg.chanRetired 23 63 = false ∧ up.pkg.inCalWindow up.env 63 = true ∧ (up.pkg.stack 23).retrain = none) ∧
    ((step 0).pkg.stack 23).retrain = some ⟨63, 0, false, 0⟩ ∧ ((step 1).pkg.stack 23).retrain = some ⟨63, 1, false, 0⟩ ∧
    ((st (fun x => { x with retrain := some ⟨63, 0, true, 0⟩ })).pkg.stack 23).retrain = some ⟨63, 0, true, 0⟩ ∧
    ((st (fun x => { x with retrain := some ⟨63, 2, false, 0⟩, behind := [⟨63, 0⟩] })).pkg.stack 23).behind = [⟨63, 0⟩] := by decide +kernel
theorem test_meets_RegulatorsAndUpkeep :
    let w : WaitingReq := ⟨.descriptor 0, 0, 0, .read, 4, false, 0, false, false, 0, none⟩
    let s := withHall 256016 (withPkg (fun p => p.setStack 0 { p.stack 0 with waiting := [w] }) up)
    let patched := withRegs [(Reg.MEM_RG_ATTR 0, 2 ^ 31 + 2 ^ Fld.MEM_RG_PATCH.lo + 1)] up
    (s.pkg.working = true ∧ (s.pkg.stack 0).waiting = [w] ∧ w.quota = false ∧ s.env.hall > w.entered + 1000 * s.pkg.regBudget w.part) ∧
    (((List.range 64).map patched.pkg.region).find? (fun r => r.valid && r.ready && r.patch && r.owns (lineCode 0 0 0) && codeDev (lineCode 0 0 0) == 0)).isSome = true ∧
    ((List.range 64).map up.pkg.region).find? (fun r => r.valid && r.ready && r.patch && r.owns 0 && codeDev 0 == 0) = none := by decide +kernel

/-- A test of every number below a bound holds of each. -/
theorem all_range (f : Nat → Bool) (n : Nat) (h : (List.range n).all f = true) (i : Nat) (hi : i < n) : f i = true :=
  List.all_eq_true.1 h i (List.mem_range.2 hi)

/-- Core 143 with the vector state on. -/
def vectored : State := withPkg (fun p => p.setCore 143 { p.core 143 with xs := 1 }) up
/-- An access of core 143 in machine mode, without protection. -/
theorem test_meets_HostAccesses :
    let p := up.pkg
    let c := p.core 143
    p.working = true ∧ c.fencing = false ∧ c.mode = 3 ∧ c.ms 17 = false ∧ (∀ i < 16, bitsOf (c.pmpCfg i) 4 3 = 0) ∧
    c.trigFires .load 0x1000 = false ∧ c.trigFires .fetch 0 = false ∧
    p.hostPlace (2 ^ 56) = .bad ∧ p.hostPlace (0x30000000000 + Reg.PWR_CFG) = .mmio Reg.PWR_CFG ∧ hostMmioOk Reg.PWR_CFG 4 = true ∧
    p.hostPlace 0x1000 = .memory ∧ p.hostPlace (2 ^ 24) = .bad ∧
    (match (p.hostRead up.env 143 0x1000 8 0).2 with | .ok _ => true | .error _ => false) = true ∧
    (match (p.hostWrite up.env 143 0x1000 (leBytes 8 5) 0).2 with | .ok _ => true | .error _ => false) = true ∧
    c.reserve ≠ some 0x1000 := by decide +kernel
/-- An address that page tables do not map, for a core in supervisor mode under Sv39 with all memory open to it. -/
theorem test_meets_HostAccesses_stop :
    let s := withPkg (fun p => p.setCore 143 { p.core 143 with mode := 1, csr := [(0x180, BitVec.ofNat 64 (8 * 2 ^ 60 + 4)), (0x3a0, 0x1f), (0x3b0, BitVec.ofNat 64 (2 ^ 54 - 1))] }) up
    (match (s.pkg.spans s.env 143 0x1000 8 .load).2 with | .ok _ => false | .error x => decide (x.how = .page)) = true := by decide +kernel
/-- A software interrupt of machine mode, enabled and pending. -/
theorem test_meets_HostAccesses_words :
    let c : Core := { up.pkg.core 143 with csr := [(0x300, 8), (0x304, 8), (0x344, 8)] }
    (up.pkg.core 143).dueInterrupt = none ∧ c.dueInterrupt = some (false, 3) ∧
    decodeQvx 143 0 none 0x0000000b = some (.qvxAdd 143 ⟨0, false, 0, 0, 0, 0, false, 0, none⟩) := by decide +kernel
theorem test_meets_QvxIntegers : vectored.pkg.working = true ∧ (vectored.pkg.core 143).xs ≠ 0 := by decide +kernel
theorem test_meets_QvxOperations : (vectored.pkg.core 143).xs ≠ 0 ∧ (up.pkg.core 143).xs = 0 ∧ (frmMode (vectored.pkg.core 143).frm).isSome = true ∧
    (frmMode 7).isSome = false ∧ (up.pkg.core 143).mode = 3 := by decide +kernel

/-- A line at 0x1000 that core 143 holds in all its caches. -/
def heldLine : HostLine := ⟨0x1000, leBytes 256 0x0807060504030201, false, cachesOf 143 false⟩
def cachedAt : State := withPkg (fun p => { p with hostLines := [heldLine] }) vectored
theorem test_meets_QvxMemory_line : cachedAt.pkg.HoldsLine 143 0x1080 128 heldLine :=
  ⟨by decide +kernel, by decide +kernel, by decide +kernel, by decide +kernel, by decide,
   fun b h1 h2 => by
     have := all_range (fun k => decide (cachedAt.pkg.hostPlace (0x1080 + k) = .memory)) 128 (by decide +kernel) (b - 0x1080) (by omega)
     have hb : 0x1080 + (b - 0x1080) = b := by omega
     rw [hb] at this
     exact of_decide_eq_true this,
   by decide +kernel, by decide +kernel⟩
theorem test_meets_QvxMemory :
    let p := cachedAt.pkg
    let e := cachedAt.env
    let f : QvxFields := ⟨0, false, 0, 0, 0, 0, false, 0, none⟩
    let c := p.core 143
    p.working = true ∧ c.xs ≠ 0 ∧ c.fencing = false ∧ (p.loadElems e 143 f (c.pReg 0) 64 0x1000).2.2 = none ∧
    -- the last eight bytes before the region's end are loaded, the next are not
    (match (p.loadElems e 143 f (c.pReg 0) 64 (2 ^ 24 - 8)).2 with | (xs, some (.fault i k)) => decide (xs.length = 1) && i == 1 && decide (k.how ≠ .check) | _ => false) = true ∧
    (match (p.loadElems e 143 f (c.pReg 0) 64 (2 ^ 24)).2 with | (xs, some (.fault i _)) => decide (xs = []) && i == 0 | _ => false) = true ∧
    (p.storeElems e 143 f (c.pReg 0) 64 0x1000 (elems 64 (c.vReg 0))).2 = none ∧
    (match (p.storeElems e 143 f (c.pReg 0) 64 (2 ^ 24) (elems 64 (c.vReg 0))).2 with | some (.fault _ _) => true | _ => false) = true ∧
    (∀ i < 16, active (c.pReg 1) 64 i = false) ∧
    (match (p.vecRead e 143 f 0 (2 ^ 24) 16).2 with | .error (.fault 0 _) => true | _ => false) = true ∧
    (match (p.vecWrite e 143 f 0 (2 ^ 24) (leBytes 16 0)).2 with | .error (.fault 0 _) => true | _ => false) = true := by decide +kernel

/-- Port 35 is up. -/
def linked : State := withRegs [(Reg.FAB_PORT_STATUS 35, 2 * 2 ^ Fld.FAB_PS_STATE.lo + 15 * 2 ^ Fld.FAB_PS_LANES.lo), (Reg.FAB_TOPO, 2 ^ 32 - 1)] up
/-- A read request of class 0 from location 1, engine 2, for this package; its check value for number 0. -/
def readHdr : List Byte := leBytes 1 tyRead ++ leBytes 3 0 ++ leBytes 4 (1 + 2 * 2 ^ 18) ++ leBytes 24 0
def readPkt : RawPacket := ⟨readHdr, [], checkOf 0 0 0 readHdr []⟩
theorem test_meets_FabricPackets :
    let h := parseHdr readPkt.header
    up.pkg.portUp 35 = false ∧ (linked.pkg.working = true ∧ linked.pkg.portUp 35 = true ∧ linked.pkg.locValid = true) ∧
    (readPkt.header.length = 32 ∧ readPkt.payload.length ≤ 256 ∧ h.ty = tyRead ∧ h.dest = linked.pkg.ownLoc) ∧
    fullSeq ((linked.pkg.fabCount (portFab 35) (Reg.FAB_CNT_RX (portFab 35)) 1).inFlow h.src h.eng h.cls).next h.seqLo = 0 ∧
    checkOf h.dest h.addr 0 readPkt.header readPkt.payload = readPkt.check ∧ checkOf h.dest h.addr 0 readPkt.header readPkt.payload ≠ readPkt.check + 1 := by
  decide +kernel
theorem test_meets_FabricTimersAndUpkeep :
    let r : FabReq := ⟨31, 5, 1, 0, tyRead, 2 ^ 46, 8, 0, [], .core 0 1 8 true false ⟨some 0, 0x1000, 2 ^ 55⟩, 0, 0, true, 0, none, none⟩
    let s (h : Nat) (x : FabReq) := withHall h (withPkg (fun p => p.setReqs [x]) linked)
    let at_ (h : Nat) (t : FabReq → Nat → Bool) (x : FabReq) : Option FabReq := (s h x).pkg.fab.reqs.find? (fun y => y.engine == 31 && y.seq == 5 && y.sent && t y (s h x).env.hall)
    let late (y : FabReq) (h : Nat) : Bool := y.retryAt.isNone && y.tries < 6 && y.issued + [100000, 300000, 700000, 1500000, 3100000, 6300000].getD y.tries 0 ≤ h
    let dead (y : FabReq) (h : Nat) : Bool := y.retryAt.isNone && y.issued + 10000000 ≤ h
    let again (y : FabReq) (h : Nat) : Bool := match y.retryAt with | some t => t ≤ h | none => false
    at_ 100000 late r = some r ∧ at_ 99999 late r = none ∧ at_ 10000000 dead r = some r ∧ at_ 9999999 dead r = none ∧
    at_ 100 again { r with retryAt := some 100 } = some { r with retryAt := some 100 } ∧ at_ 99 again { r with retryAt := some 100 } = none ∧
    (linked.pkg.portUp 35 = true ∧ linked.pkg.portUp 0 = false ∧ linked.pkg.on (Reg.FAB_PORT_CTRL 0) Fld.FAB_PC_DISABLE = false ∧
      linked.pkg.topo.hasPeer 0 = true ∧ linked.pkg.portState 0 ≤ 1 ∧ ∀ i < 4, (portDie 0, portLaneUnit 0 i) ∉ linked.pkg.ras.retired) := by decide +kernel

/-! Collectives, time, faults, storage. -/

/-- Communicator 1 whose SETUP waits on queue 0, and a collective of it under way. -/
def comm2 : Comm := { comm1 with members := [(0, 1), (1, 1)], queue := some 0 }
/-- A CONTRIB from location 1, engine 0, for this package. -/
def colHdr (ty : Nat) : List Byte := leBytes 1 ty ++ leBytes 3 0 ++ leBytes 4 1 ++ leBytes 24 0
def colPkt (ty : Nat) : RawPacket := ⟨colHdr ty, leBytes 64 0, checkOf 0 0 0 (colHdr ty) (leBytes 64 0)⟩
theorem test_meets_Collectives :
    let s (h : Nat) (m : Comm) := withHall h (withPkg (fun p => p.setComm m) linked)
    let barrier := after (.barrier 0) (withComm { comm2 with queue := none } (dBarrier 1))
    (linked.pkg.working = true ∧ linked.pkg.portUp 35 = true ∧ (colPkt 0x10).header.length = 32 ∧ (colPkt 0x10).payload.length ≤ 256 ∧
      (parseHdr (colPkt 0x10).header).dest = linked.pkg.ownLoc ∧ (parseHdr (colPkt 0x10).header).ty = 0x10) ∧
    linked.pkg.fires.find? (fun f => f.engine == 31 && f.idx == 16383) = none ∧
    ((s 1000000 comm2).pkg.col.comms.find? (fun m => m.queue == some 0) = some comm2 ∧ comm2.since + comm2.waitNs ≤ 1000000 ∧
      999999 < comm2.since + comm2.waitNs) ∧
    (linked.pkg.col.comms.find? (fun m => m.queue == some 0) = none ∧ linked.pkg.col.runs.find? (fun r => r.queue == some 0) = none) ∧
    (match barrier.pkg.col.runs.find? (fun r => r.queue == some 0) with
     | some r => barrier.pkg.working && (barrier.pkg.comm? r.ctx r.comm).isSome && barrier.pkg.col.comms.all (fun m => m.queue != some 0)
     | none => false) = true := by decide +kernel

/-- A packet of a collective that is in order: of no communicator, of one that another location may not write, and a repeat. -/
theorem test_meets_Collectives_packets :
    let h := parseHdr (colHdr 0x10)
    let x := parseCol (leBytes 64 0)
    let p := (linked.pkg.setComm { comm1 with uid := 0, members := [(0, 1), (2, 1)] })
    formatReason linked.pkg.topo h (leBytes 64 0) = 0 ∧ h.epoch = linked.pkg.regNat Reg.FAB_EPOCH ∧
    0 ∉ (linked.pkg.inFlow h.src h.eng h.cls).applied ∧ linked.pkg.commOf h.src x.uid = none ∧
    0 ∈ ((linked.pkg.noteApplied h.src h.eng h.cls 0).inFlow h.src h.eng h.cls).applied ∧
    (match (p.setComm { comm1 with uid := 0, members := [(0, 1), (1, 1)] }).commOf h.src x.uid with
     | some m => !p.colGranted m h.src h.ty (addrOff h.addr) x
     | none => false) = true := by decide +kernel
/-- A barrier that waits for the other member, within its wait time and past it. -/
theorem test_meets_Collectives_wait :
    let b := after (.barrier 0) (withComm { comm2 with queue := none } (dBarrier 1))
    (match b.pkg.col.runs.find? (fun r => r.queue == some 0) with
     | some r => (b.pkg.colWaited b.env { comm2 with queue := none } r).isNone &&
         (b.pkg.colWaited (withHall 2000000 b).env { comm2 with queue := none } r).isSome
     | none => false) = true := by decide +kernel

/-- A package that follows beacons, its master at location 1; one that follows an edge; one whose partition 0 is paired. -/
def following : State :=
  withPkg (fun p => { p with time := { p.time with master := 1 } }) (withRegs [(Reg.TIM_CTRL, 2 ^ Fld.TIM_SRC.lo)] linked)
def edged : State := withRegs [(Reg.TIM_CTRL, 2 * 2 ^ Fld.TIM_SRC.lo)] up
def paired : State := withRegs [(Reg.TIM_PAIR_CFG, 2 ^ Fld.TIM_PAIR_EN.lo)] up
theorem test_meets_TimeAndPairs :
    let h : PairHeld := ⟨0, 5, 7, [], desc 3 0, 0, 0, 0⟩
    let held := withPkg (fun p => { p with pairHeld := [h] }) paired
    (up.env.hall % 1000000 = 0 ∧ up.pkg.isMaster = true ∧ up.pkg.timSrc = 0 ∧ up.pkg.time.sent = [] ∧ (upAt 16).env.hall % 1000000 ≠ 0) ∧
    (following.pkg.timSrc = 1 ∧ following.pkg.isMaster = false ∧ (withHall 5000000 following).pkg.time.heard + 5000000 ≤ 5000000) ∧
    (edged.pkg.timSrc = 2 ∧ edged.pkg.fld Reg.TIM_STATUS Fld.TIM_LOCK ≠ 2) ∧
    up.pkg.paired 0 = false ∧ (paired.pkg.paired (paired.pkg.queueCtx 0) = true ∧ paired.pkg.pairHeld.find? (fun x => x.queue == 0 && x.seq == 5) = none) ∧
    (held.pkg.pairHeld.find? (fun x => x.queue == 0 && x.seq == 5) = some h ∧ h.digest ≠ 8) ∧
    (held.pkg.ctxSt (held.pkg.queueCtx 0)).pairStopped = false ∧ h.since + 1000 * held.pkg.fld Reg.TIM_PAIR_WAIT Fld.TIM_PAIR_WAIT_US ≤ 2 ^ 40 := by
  decide +kernel
/-- The master lies at location 1, toward which some port of this package leads. -/
theorem test_meets_TimeAndPairs_beacon :
    let s := withRegs ((List.range 36).map (fun x => (Reg.FAB_PORT_STATUS x, 2 * 2 ^ Fld.FAB_PS_STATE.lo + 15 * 2 ^ Fld.FAB_PS_LANES.lo))) following
    let q := withPkg (fun p => p.setNat (Reg.DSP_QCTRL 0) 0) s
    (match s.pkg.parentPort with | some x => s.pkg.takesBeacon x | none => false) = true ∧ s.pkg.anyEnabled = true ∧ q.pkg.anyEnabled = false ∧
    q.pkg.time.begun = false := by decide +kernel

/-- A lane of a port that is up owes a test. -/
theorem test_meets_FaultsAndReplay_lane :
    let u := portLaneUnit 35 1
    let s := withPkg (fun p => { p with ras := { p.ras with ready := [(portDie 35, u)] } }) linked
    (portDie 35, u) ∈ s.pkg.ras.ready ∧ testLane u = some (35, 1) ∧ s.pkg.portState 35 = 2 ∧ testLane 0x11ff = none := by decide +kernel
theorem test_meets_FaultsAndReplay :
    let ras (f : Ras → Ras) (s : State) := withPkg (fun p => { p with ras := f p.ras }) s
    let t : UnitTest := ⟨0, 0x11ff, 0, false, true⟩
    let owes := ras (fun r => { r with ready := [(0, 0x11ff)] }) up
    let tests := ras (fun r => { r with tests := [t] }) up
    let march := ras (fun r => { r with marchDue := [t], marching := [t] }) up
    let replays (x : Nat × Nat) := runsT (fun r => { r with replayOn := some x, kind := 1, jclass := 0 }) dCoat
    (0, 0x11ff) ∉ up.pkg.ras.ready ∧ ((0, 0x11ff) ∈ owes.pkg.ras.ready ∧ 0x11ff / 4096 ≠ 8) ∧
    tests.pkg.ras.tests.find? (fun x => x.die == 0 && x.unit == 0x11ff) = some t ∧ up.pkg.ras.tests.find? (fun x => x.die == 0 && x.unit == 0x11ff) = none ∧
    (march.pkg.ras.marchDue.find? (fun x => x.die == 0 && x.unit == 0x11ff) = some t ∧ (0, 0x11ff) ∉ march.pkg.ras.retired ∧ march.pkg.unitInUse 0 0x11ff = false) ∧
    march.pkg.ras.marching.find? (fun x => x.die == 0 && x.unit == 0x11ff) = some t ∧
    up.pkg.ras.waiting.find? (fun x => x.1 == 7 && x.2 / 4096 == 13) = none ∧ up.pkg.runOf 63 = none ∧
    (match (replays (0, 0x11ff)).pkg.runOf 0 with
     | some r => r.replayOn == some (0, 0x11ff) && r.jclass != 2 && (replays (0, 0x11ff)).pkg.testOver (0, 0x11ff) && r.kind == 1
     | none => false) = true := by decide +kernel

theorem test_meets_Checkpoints :
    let s := withHall 16 (after (.save 0) saving)
    let k : StoreCmd := ⟨9, 0, 1, 0, 0, 0, 1, 0, 0, [], 0, some 0⟩
    let sent := withPkg (fun p => { p with ckp := { p.ckp with cmds := [k] } }) s
    (match s.pkg.ckRun? 0, s.pkg.runOf 0 with
     | some r, some _ => r.kind == 0 && r.phase == 0 && decide (r.maskHall ≤ s.env.tagHall) && decide ((after (.save 0) saving).env.tagHall < r.maskHall)
     | _, _ => false) = true ∧
    up.pkg.ckRun? 0 = none ∧ up.pkg.masks.find? (fun m => m.page == 0 && m.copying.isSome) = none ∧
    (sent.pkg.ckp.cmds.find? (fun c => c.id == 9 && c.issued.isSome && sent.pkg.connPort c.conn == 0) = some k ∧ k.kind = 1) ∧
    up.pkg.ckp.cmds.find? (fun c => c.id == 9 && up.pkg.connPort c.conn == 0) = none ∧ saving.pkg.connState 0 = 2 ∧ up.pkg.connState 63 = 0 := by decide +kernel
/-- A SAVE whose shards' writes find no connection that may take them. -/
theorem test_meets_Checkpoints_masks :
    let s := withRegs [(Reg.CKP_CONN_STATUS 0, 0)] (withHall 16 (after (.save 0) saving))
    (match s.pkg.ckRun? 0, s.pkg.runOf 0 with
     | some r, some u => r.kind == 0 && r.phase == 0 && decide (r.maskHall ≤ s.env.tagHall) && decide (r.engine < 2) && !(r.shardCmds 0).isEmpty &&
         u.statuses.all (fun y => y.2 != 0x3f) && (s.pkg.ckp.cmds ++ r.shardCmds 0).all (fun y => y.issued.isSome || (decide (y.kind ≤ 2) && s.pkg.connState y.conn != 2))
     | _, _ => false) = true := by decide +kernel
/-- The SAVE's page 0 in a demand copy, and two of its reads issued, of which it still waits for the second. -/
theorem test_meets_Checkpoints_copies :
    let s := withHall 16 (after (.save 0) saving)
    let k : PageMask := ⟨0, 0, some 0⟩
    let copying := withPkg (fun p => { p with masks := [k] }) s
    let c (i : Nat) : StoreCmd := ⟨i, 0, 1, 0, 0, 0, 1, 0, 0, [], 0, some 0⟩
    let reads := withPkg (fun p => { p with ckp := { p.ckp with cmds := [c 9, c 10] } }) s
    (copying.pkg.masks.find? (fun m => m.page == 0 && m.copying.isSome) = some k ∧ (copying.pkg.ckRun? 0).isSome = true ∧ copying.pkg.held = []) ∧
    reads.pkg.ckp.cmds.find? (fun x => x.id == 9 && x.issued.isSome && reads.pkg.connPort x.conn == 0) = some (c 9) ∧
    (∀ y ∈ reads.pkg.ckp.cmds, y.issued.isSome = true) ∧
    reads.pkg.dsp.runs.all (fun u => u.queue == 0 && u.kind == 5 && ckKind u.desc == 0 && u.statuses.isEmpty) = true ∧
    (∃ y ∈ reads.pkg.ckp.cmds, y.queue = 0 ∧ (y.id != 9) = true) ∧ (c 9).tries < 4 := by
  refine ⟨by decide +kernel, by decide +kernel, by decide +kernel, by decide +kernel, ⟨⟨10, 0, 1, 0, 0, 0, 1, 0, 0, [], 0, some 0⟩, ?_, rfl, rfl⟩, by decide⟩
  exact List.mem_cons_of_mem _ (List.mem_cons_self ..)
theorem test_meets_Broadcasts :
    let s := after (.bcastRecv 0) receiving
    let o := after (.bcastSend 0) sending
    let tabled (data : List Byte) := withPkg (fun p => match p.bcast? 0 with | some b => p.setBcast { b with table := sha256 data } | none => p) s
    up.pkg.bcast? 0 = none ∧ s.pkg.working = true ∧
    (match s.pkg.bcast? 0 with
     | some b => !b.origin && decide (b.table = []) && decide (b.done < b.blocks) && decide (b.quiet + bcastQuiet ≤ 2000000) && !decide (b.quiet + bcastQuiet ≤ 1999999)
     | none => false) = true ∧
    (match (tabled (leBytes 64 5)).pkg.bcast? 0 with
     | some b => !b.origin && decide (b.table ≠ []) && decide ((leBytes 64 5).length = b.blockLen b.done) &&
         decide (sha256 (leBytes 64 5) = (b.table.drop (32 * b.done)).take 32)
     | none => false) = true ∧
    (match o.pkg.bcast? 0 with | some b => b.origin && decide (b.children.map (fun c => c.member) = [1]) && b.children.all (fun c => decide (c.acked < b.blocks)) | none => false) = true := by
  decide +kernel

/-- A member takes the first of two blocks: what its table must hold. -/
theorem takes_block (b : Bcast) (data : List Byte) (h : data.length = imageBlock) (h1 : b.bytes = 2 * imageBlock) (h2 : b.done = 0)
    (h3 : b.table = sha256 data ++ sha256 data) : b.table ≠ [] ∧ b.done < b.blocks ∧ data.length = b.blockLen b.done ∧
      sha256 data = (b.table.drop (32 * b.done)).take 32 ∧ b.done + 1 < b.blocks := by
  have hl := sha256_length data
  have hb : b.blocks = 2 := by rw [Bcast.blocks, h1]; rfl
  refine ⟨fun hn => ?_, by rw [h2, hb]; omega, by rw [h, h2, Bcast.blockLen, h1]; rfl, ?_, by rw [h2, hb]; omega⟩
  · have := congrArg List.length h3
    rw [hn, List.length_append, hl] at this
    simp at this
  · rw [h2, h3, Nat.mul_zero, List.drop_zero, List.take_append_of_le_length (by omega), List.take_of_length_le (by omega)]
theorem test_meets_Broadcasts_block : ∃ (b : Bcast) (data : List Byte), b.origin = false ∧ b.table ≠ [] ∧ b.done < b.blocks ∧
    data.length = b.blockLen b.done ∧ sha256 data = (b.table.drop (32 * b.done)).take 32 ∧ b.done + 1 < b.blocks :=
  let data : List Byte := List.replicate imageBlock 0
  ⟨⟨0, false, 0, [], 1, 0, 2 * imageBlock, [], 0, 0, 0, sha256 data ++ sha256 data, 0, 0, 0, 0, 0, 0, 0, [], [], 0, 0, false⟩, data, rfl,
   takes_block _ data (List.length_replicate ..) rfl rfl rfl⟩
/-- The table reaches a member, and its wait passes; the originator's passes. -/
theorem test_meets_Broadcasts_waits :
    let s := after (.bcastRecv 0) receiving
    let o := after (.bcastSend 0) sending
    (match s.pkg.bcast? 0 with
     | some b => b.table.isEmpty && (b.digest.all (fun x => x == 0)) && decide ((leBytes 32 1).length = 32 * b.blocks) &&
         decide (b.served + b.waitNs ≤ 2 ^ 50) && decide (b.served < b.served + b.waitNs)
     | none => false) = true ∧ (s.pkg.runOf 0).isSome = true ∧
    (match o.pkg.bcast? 0 with | some b => b.origin && decide (b.bitHall + b.waitNs ≤ 2 ^ 50) && decide (b.bitHall < b.bitHall + b.waitNs) | none => false) = true ∧
    (o.pkg.runOf 0).isSome = true := by decide +kernel

/-! The complex, power and the pins. -/

/-- A mailbox command: opcode, parameter length, parameters. -/
def mbArea (op len : Nat) (params : List Byte) : List Byte := padTo 256 (leBytes 1 op ++ leBytes 1 1 ++ leBytes 2 len ++ leBytes 12 0 ++ params)
def mbCmd (op len : Nat) (params : List Byte) : MbCmd := ⟨mbArea op len params, 5, 1, false, false⟩
/-- Mailbox 3 of `bound` is the operator's, 2 an owner's; a command waits in mailbox m. -/
def asked (m : Nat) (k : MbCmd) : State := withPkg (fun p => { p with mbox := [(m, k)] }) bound

theorem serves_of {s : State} {m : Fin 16} {op : Nat} {k : MbCmd} (h : s.pkg.complexUp = true ∧ s.pkg.mbNext = some (m.val, k) ∧ k.op = op ∧
    s.pkg.mbCheck m k = none ∧ s.pkg.mbox.all (fun x => !(x.2.running && x.2.op == op)) = true) : s.Serves m op k :=
  ⟨h.1, h.2.1, h.2.2.1, h.2.2.2.1, fun x hx hr he => by
    have := List.all_eq_true.1 h.2.2.2.2 x hx
    simp [hr, he] at this⟩

theorem test_meets_MailboxOrder :
    let v := { mbCmd 0x01 0 [] with area := leBytes 256 1 }
    (0x01, Instr.identify 3) ∈ mailboxRows 3 ∧ (up.pkg.complexUp = true ∧ up.pkg.mbNext = none) ∧
    ((asked 3 (mbCmd 0x01 0 [])).pkg.mbNext = some (3, mbCmd 0x01 0 []) ∧ (mbCmd 0x01 0 []).op = 0x01) ∧ (mbCmd 0xff 0 []).op ∉ mbOpcodes ∧ v.at_ 1 1 ≠ 1 ∧
    ((mbCmd 0x01 1 []).at_ 1 1 = 1 ∧ (mbCmd 0x01 1 []).at_ 2 2 ≠ mbLength (mbCmd 0x01 1 []).area) ∧
    -- an owner may not set the cap
    ((asked 2 (mbCmd 0x30 2 (leBytes 2 2500))).pkg.mbCheck 2 (mbCmd 0x30 2 (leBytes 2 2500))).isSome = true := by decide +kernel
theorem test_meets_MailboxReports :
    (asked 3 (mbCmd 0x01 0 [])).Serves 3 0x01 (mbCmd 0x01 0 []) ∧ (asked 3 (mbCmd 0x02 0 [])).Serves 3 0x02 (mbCmd 0x02 0 []) ∧
    ((asked 3 (mbCmd 0x30 2 (leBytes 2 2500))).Serves 3 0x30 (mbCmd 0x30 2 (leBytes 2 2500)) ∧ (mbCmd 0x30 2 (leBytes 2 2500)).at_ 0x10 2 = 2500 ∧ 2500 % 50 = 0) ∧
    (asked 3 (mbCmd 0x31 0 [])).Serves 3 0x31 (mbCmd 0x31 0 []) ∧ (asked 3 (mbCmd 0x40 9 (leBytes 8 0 ++ leBytes 1 3))).Serves 3 0x40 (mbCmd 0x40 9 (leBytes 8 0 ++ leBytes 1 3)) ∧
    (asked 3 (mbCmd 0x41 28 [])).Serves 3 0x41 (mbCmd 0x41 28 []) ∧ (asked 3 (mbCmd 0x61 1 (leBytes 1 31))).Serves 3 0x61 (mbCmd 0x61 1 (leBytes 1 31)) ∧
    (asked 3 (mbCmd 0x71 1 (leBytes 1 23))).Serves 3 0x71 (mbCmd 0x71 1 (leBytes 1 23)) ∧ (asked 3 (mbCmd 0x80 0 [])).Serves 3 0x80 (mbCmd 0x80 0 []) ∧
    (asked 3 (mbCmd 0x81 16 (leBytes 4 0 ++ leBytes 4 1 ++ leBytes 8 77))).Serves 3 0x81 (mbCmd 0x81 16 (leBytes 4 0 ++ leBytes 4 1 ++ leBytes 8 77)) :=
  ⟨serves_of (by decide +kernel), serves_of (by decide +kernel), ⟨serves_of (by decide +kernel), by decide +kernel⟩, serves_of (by decide +kernel), serves_of (by decide +kernel),
   serves_of (by decide +kernel), serves_of (by decide +kernel), serves_of (by decide +kernel), serves_of (by decide +kernel), serves_of (by decide +kernel)⟩

/-- Commands in range, and the undercoat checked at generation 0. -/
def kSet : MbCmd := mbCmd 0x10 24 (leBytes 8 1 ++ leBytes 4 Reg.PWR_CFG ++ leBytes 4 4 ++ leBytes 8 1)
def kPolicy : MbCmd := mbCmd 0x70 3 (leBytes 2 50 ++ leBytes 1 2)
def kCommit : MbCmd := mbCmd 0x12 16 (leBytes 16 0)
def kTest : MbCmd := mbCmd 0x60 4 (leBytes 4 0x11ff0000)
def kPair : MbCmd := mbCmd 0xa0 7 (leBytes 7 0)
def kStage : MbCmd := mbCmd 0x50 17 (leBytes 4 1 ++ leBytes 4 33554431 ++ leBytes 4 1)
def kVerify : MbCmd := mbCmd 0x51 4 (leBytes 4 33554432)
def kPropose : MbCmd := mbCmd 0x20 216 (leBytes 16 0 ++ leBytes 2 1)
def checkedUc (m : Nat) (k : MbCmd) : State := withPkg (fun p => (p.setFld Reg.MGT_UC_STATUS Fld.MGT_UC_STATE ucChecked).setFld Reg.MGT_UC_STATUS Fld.MGT_UC_HOLDER m) (asked m k)
theorem test_meets_MailboxWork :
    ((asked 3 kSet).Serves 3 0x10 kSet ∧ kSet.at_ 0x10 1 = 1 ∧ kSet.at_ 0x1c 1 = 4 ∧ (asked 3 kSet).pkg.mayStage 3 = true) ∧
    ((asked 3 kPolicy).Serves 3 0x70 kPolicy ∧ kPolicy.at_ 0x10 2 = 50 ∧ kPolicy.at_ 0x12 1 = 2) ∧
    ((checkedUc 3 kCommit).Serves 3 0x12 kCommit ∧ (checkedUc 3 kCommit).pkg.working = true ∧ (checkedUc 3 kCommit).pkg.ucState = ucChecked ∧
      kCommit.at_ 0x10 4 = (checkedUc 3 kCommit).pkg.regNat Reg.MGT_UC_GEN) ∧
    ((asked 3 (mbCmd 0x13 0 [])).Serves 3 0x13 (mbCmd 0x13 0 []) ∧ (asked 3 (mbCmd 0x13 0 [])).pkg.ucState = ucEmpty) ∧
    ((asked 3 kStage).Serves 3 0x50 kStage ∧ kStage.at_ 0x14 4 + kStage.at_ 0x18 4 = 33554432) ∧ ((asked 3 kVerify).Serves 3 0x51 kVerify ∧ kVerify.at_ 0x10 4 = 33554432) ∧
    ((asked 3 kTest).Serves 3 0x60 kTest ∧ unitOnDie 0 0x11ff = true ∧ (asked 3 kTest).pkg.ownsDie 3 0 = true ∧ (0, 0x11ff) ∉ (asked 3 kTest).pkg.ras.retired ∧
      (asked 3 kTest).pkg.testOpen 0 0x11ff false = false) ∧
    ((asked 2 kPair).Serves 2 0xa0 kPair ∧ (asked 2 kPair).pkg.mbPart 2 = 0 ∧ (asked 2 kPair).pkg.topo.holds 0 = true ∧ (asked 2 kPair).pkg.ctxHasEnabled 0 = true) ∧
    ((asked 3 kPropose).Serves 3 0x20 kPropose ∧ (asked 3 kPropose).pkg.changeBad 1 0 (leBytes 96 0) = false ∧
      0 ∈ (asked 3 kPropose).pkg.changeRoles 1 0 (leBytes 96 0)) ∧
    ((asked 3 (mbCmd 0x21 168 [])).Serves 3 0x21 (mbCmd 0x21 168 []) ∧ (asked 3 (mbCmd 0x22 120 [])).Serves 3 0x22 (mbCmd 0x22 120 []) ∧
      (asked 3 (mbCmd 0x52 1 [])).Serves 3 0x52 (mbCmd 0x52 1 []) ∧ (asked 3 (mbCmd 0x11 0 [])).Serves 3 0x11 (mbCmd 0x11 0 []) ∧
      (asked 3 (mbCmd 0xb0 32 [])).Serves 3 0xb0 (mbCmd 0xb0 32 [])) :=
  ⟨⟨serves_of (by decide +kernel), by decide +kernel⟩, ⟨serves_of (by decide +kernel), by decide +kernel⟩, ⟨serves_of (by decide +kernel), by decide +kernel⟩,
   ⟨serves_of (by decide +kernel), by decide +kernel⟩, ⟨serves_of (by decide +kernel), by decide +kernel⟩, ⟨serves_of (by decide +kernel), by decide +kernel⟩,
   ⟨serves_of (by decide +kernel), by decide +kernel⟩, ⟨serves_of (by decide +kernel), by decide +kernel⟩, ⟨serves_of (by decide +kernel), by decide +kernel⟩,
   serves_of (by decide +kernel), serves_of (by decide +kernel), serves_of (by decide +kernel), serves_of (by decide +kernel), serves_of (by decide +kernel)⟩

theorem test_meets_ManagementEvents :
    let k (op : Nat) : MbCmd := { mbCmd op 0 [] with running := true }
    let st : CommitSt := ⟨3, 1, 0, 0, [0, 1, 2, 3, 4, 5, 6, 7, 8, 9, 10, 11, 12, 13, 14, 15, 16], none, []⟩
    let open_ := withPkg (fun p => { p with mgt := { p.mgt with commit := some st } }) (checkedUc 3 (k 0x12))
    let armed := withPkg (fun p => { p with mgt := { p.mgt with commit := some { st with armed := some 1 } } }) up
    let x : Proposal := ⟨4, 1, 0, [], 0, [], 0⟩
    let held := withPkg (fun p => { p with mgt := { p.mgt with proposals := [x] } }) up
    let down := withPkg (fun p => (p.setReg Reg.MGT_STATUS (regDefault Reg.MGT_STATUS)).setFld Reg.MGT_STATUS Fld.MGT_STATE 2) up
    let oob := withRegs [(Reg.MGT_MB_BIND 4, 2 ^ 31 + 2 ^ 24)] up
    up.pkg.complexUp = true ∧ up.pkg.commitOpen = none ∧ up.pkg.mgt.commit = none ∧ assoc? up.pkg.mbox 3 = none ∧ assoc? (asked 3 (k 0x11)).pkg.mbox 3 = some (k 0x11) ∧
    (open_.pkg.commitOpen = some (st, k 0x12) ∧ st.box < 16 ∧ st.acks.length = 17 ∧ 17 ∉ st.acks ∧ open_.env.tag ≤ st.since + 1000 ∧
      (withHall (16 * 1001) open_).env.tag > st.since + 1000 ∧ open_.pkg.ucState = ucChecked ∧ open_.pkg.regNat Reg.MGT_UC_GEN = st.gen) ∧
    (armed.pkg.working = true ∧ armed.env.tag = 1 ∧ armed.pkg.discardWaits 1 = false) ∧
    (held.pkg.mgt.proposals[0]? = some x ∧ x.expiry < held.env.tag) ∧
    (oob.pkg.on (Reg.MGT_MB_BIND 4) Fld.MGT_MB_BVALID && oob.pkg.on (Reg.MGT_MB_BIND 4) Fld.MGT_MB_OOB) = true ∧
    ((checkedUc 3 (k 0x12)).pkg.ucState = ucChecked ∧ (checkedUc 3 (k 0x12)).pkg.mgt.commit = none) ∧ up.log.dropped = 0 ∧
    (down.pkg.fld Reg.MGT_STATUS Fld.MGT_STATE = 2 ∧ down.pkg.bootable down.pkg.mgt.boot = true ∧ down.pkg.mgt.power = true ∧ down.pkg.mgt.tries < 2 ∧
      down.pkg.mgt.since + 2000000000 ≤ (withHall 2000000000 down).env.hall) := by decide +kernel

theorem test_meets_SupplyAndThrottle :
    let ep (x : Episode) := withPkg (fun p => { p with pwr := { p.pwr with episode := some x } }) up
    (up.pkg.pwr.episode = none ∧ up.pkg.pwr.capNext = none) ∧
    ((ep ⟨0, 41000, none, none, 0⟩).pkg.pwr.episode = some ⟨0, 41000, none, none, 0⟩) ∧
    (let s := withHall (16 * 6250) (ep ⟨0, 41000, some 16, none, 0⟩)
     s.pkg.pwr.episode = some ⟨0, 41000, some 16, none, 0⟩ ∧ 16 + 100000 ≤ s.env.tagHall ∧ (withHall (16 * 6249) s).env.tagHall < 16 + 100000) ∧
    (let s := withHall 20000 (ep ⟨0, 41000, some 0, some 0, 7⟩)
     s.pkg.pwr.episode = some ⟨0, 41000, some 0, some 0, 7⟩ ∧ 0 + 2500 * (7 + 1) ≤ s.env.tagHall ∧ 7 ≤ 7) ∧
    (let s := withPkg (fun p => { p with pwr := { p.pwr with capNext := some (1, 2500) } }) up
     s.pkg.pwr.capNext = some (1, 2500) ∧ s.env.tag = 1) ∧
    (383 < 384 ∧ 383 ∉ up.pkg.pwr.shed ∧ up.pkg.pwr.shed = []) ∧ (match up.pkg.throttleUnits with | u :: _ => !up.pkg.pwr.pinned.contains (unitDie u) | [] => false) = true := by
  decide +kernel
theorem test_meets_StopsAndStarts :
    (up.pkg.working = true ∧ up.pkg.mgt.power = true ∧ resetLevel 0 37999 = true ∧ resetLevel 0 38000 = false) ∧
    (let s := withPkg (fun p => { p with pwr := { p.pwr with porst := true } }) up
     s.pkg.pwr.porst = true ∧ s.pkg.mgt.power = true ∧ s.pkg.complexUp = true ∧ Nat.testBit 128 7 = true ∧ Nat.testBit 127 7 = false) ∧
    (State.reset.pkg.mgt.power = false ∧ State.reset.pkg.bootable (State.reset.pkg.fld Reg.MGT_STATUS Fld.MGT_SLOT_NEXT) = true) ∧
    (let s := withRegs [(Reg.PKG_BOOT, 0)] up
     s.pkg.mgt.power = true ∧ s.pkg.working = false ∧ s.pkg.stopBeat ≠ some s.env.tag) := by decide +kernel
theorem test_meets_StagingWrites :
    (match findReg Reg.PWR_CFG with
     | some h => regLane h Reg.PWR_CFG == 0 && h.spec.bytes == 4 && !actingRegs.contains h.spec.name
     | none => false) = true ∧
    (match findReg Reg.PWR_CFG with
     | some h => h.spec.stMask != 0 && h.spec.rwMask == 0 && h.spec.w1cMask == 0 && h.spec.lkMask == 0 && h.spec.mask (fun a => a == .woLk) == 0
     | none => false) = true ∧
    (bound.pkg.working = true ∧ bound.pkg.complexUp = true ∧ bound.pkg.principalOf (.pcie 1) = some 3 ∧ bound.pkg.mayStage 3 = true ∧ bound.pkg.staged = []) :=
  ⟨by decide +kernel, by decide +kernel, by decide +kernel⟩

/-! A message signed for a package of serial number 77, under a key made for it. -/

/-- A signature over an ENDORSE of proposal 5, and the key it is for. -/
def sigEndorse : List Byte := leBytes 48 0x8d999057ba3d2d969260045c55b97f089025959a6f434d651d207d19fb96e9e4fe0e86ebe0e64f85b96a9c75295df61 ++
  leBytes 48 0xc535596286dbf12aae085e1991d5a1e913729138709bb00e88d3f640f5fd2778edff1f2fdec999e5dd13c99e69c4cdc6
def keyEndorse : List Byte := leBytes 48 0x547b73263afc1f9532b6dc3625cd7871457bb5344d3e0e086cbf4bea3890c591b31d44c65facd70b76b16e9acee7a0f8 ++
  leBytes 48 0x3508dc3ed2f91c98b5efa1464f055758532177156681b817de3c9c5903fcf262cd390350a26ea22f5bb4eff549898b6c
def kEndorsed : MbCmd := mbCmd 0x21 168 (leBytes 8 77 ++ leBytes 8 1 ++ leBytes 56 5 ++ sigEndorse)

/-- A counter above the last and a signature that verifies pass, in the package that they name. -/
theorem passes_of {p : Pkg} {role off : Nat} {key : List Byte} {c : MbCmd} (h : Config.serial = 77) (h1 : c.at_ 0x10 8 = 77)
    (h2 : decide ((assoc? p.mgt.counters role).getD 0 < c.at_ 0x18 8) = true) (h3 : signedBy key c off = true) :
    p.messageFails role (some key) c off = none := by
  have hn : p.nonceGood role c = true := by simp [Pkg.nonceGood, h, h1, of_decide_eq_true h2]
  simp [Pkg.messageFails, hn, h3]

theorem signed_endorse : signedBy keyEndorse kEndorsed 0x58 = true := by decide +kernel
theorem test_meets_MailboxWork_endorse (h : Config.serial = 77) :
    let s := withRegs [(Reg.MGT_MB_BIND 3, 2 ^ 31 + 3 * 2 ^ 28 + 2 ^ 22)] (asked 3 kEndorsed)
    let x : Proposal := ⟨5, 1, 0, [], 0, leBytes 48 0, 1000⟩
    s.Serves 3 0x21 kEndorsed ∧ s.pkg.signer 3 = 1 ∧ s.pkg.messageFails 1 (some keyEndorse) kEndorsed 0x58 = none ∧ s.pkg.mayEndorse 1 x = true ∧
      (kEndorsed.area.drop 0x28).take 48 = x.digest ∧ s.pkg.mayStage 3 = true ∧ kEndorsed.beat ≤ x.expiry ∧ kEndorsed.at_ 0x20 4 = 5 ∧ s.pkg.staged = [] :=
  ⟨serves_of (by decide +kernel), by decide +kernel, passes_of h (by decide +kernel) (by decide +kernel) signed_endorse, by decide +kernel⟩

/-! Firmware slots, commits and restarts. -/

/-- Both firmware slots verified. -/
def slotted (s : State) : State := withPkg (fun p => (p.setFld Reg.MGT_STATUS (slotField 0) 1).setFld Reg.MGT_STATUS (slotField 1) 1) s
theorem test_meets_MailboxWork_slots :
    (let s := slotted (asked 3 (mbCmd 0x52 1 []))
     s.Serves 3 0x52 (mbCmd 0x52 1 []) ∧ (mbCmd 0x52 1 []).at_ 0x10 1 = 0 ∧ s.pkg.slotValid s.pkg.slotIdle = true ∧ s.pkg.ucState ≠ ucArmed) ∧
    (let s := asked 3 kPolicy
     s.Serves 3 0x70 kPolicy ∧ s.pkg.mayStage 3 = true ∧ s.pkg.staged.length < 4096 ∧
       (s.pkg.stage s.env 3 [⟨Reg.MGT_CAL_POLICY, 4, BitVec.ofNat 64 513, false⟩]).isSome = true) :=
  ⟨⟨serves_of (by decide +kernel), by decide +kernel⟩, serves_of (by decide +kernel), by decide +kernel⟩
theorem test_meets_ManagementEvents_commit :
    let x : Staged := ⟨Reg.MGT_CAL_POLICY, 4, 513, false⟩
    let s := withPkg (fun p => { p with mgt := { p.mgt with commit := some ⟨3, 1, 0, 0, [], some 1, [x]⟩, applied := [x] } }) up
    s.pkg.working = true ∧ s.env.tag = 1 ∧ s.pkg.discardWaits 1 = false ∧ s.pkg.stackCtl = [] ∧ s.pkg.mgt.changes = [] ∧
    (findReg Reg.MGT_CAL_POLICY).isSome = true ∧ s.pkg.mgt.applied.find? (fun y => y.off == Reg.MGT_CAL_POLICY) = some x := by decide +kernel
theorem test_meets_ManagementEvents_restart :
    let down := slotted (withPkg (fun p => p.setFld Reg.MGT_STATUS Fld.MGT_STATE 2) up)
    let third := withHall 2000000000 (withPkg (fun p => { p with mgt := { p.mgt with tries := 2 } }) down)
    let bare := withPkg (fun p => p.setFld Reg.MGT_STATUS (slotField p.mgt.boot) 0) down
    down.pkg.fld Reg.MGT_STATUS Fld.MGT_STATE = 2 ∧ down.pkg.bootable down.pkg.mgt.boot = true ∧
    bare.pkg.fld Reg.MGT_STATUS Fld.MGT_STATE = 2 ∧ bare.pkg.bootable bare.pkg.mgt.boot = false ∧ bare.pkg.bootable (1 - bare.pkg.mgt.boot) = true ∧
    2 ≤ third.pkg.mgt.tries ∧ third.pkg.mgt.since + 2000000000 ≤ third.env.hall ∧ third.pkg.bootable (1 - third.pkg.mgt.boot) = true := by decide +kernel
theorem test_meets_StopsAndStarts_slots : (slotted State.reset).pkg.mgt.power = false ∧
    (slotted State.reset).pkg.bootable (1 - (slotted State.reset).pkg.fld Reg.MGT_STATUS Fld.MGT_SLOT_NEXT) = true := by decide +kernel

/-! ### Small runs, the expected values from the rules -/

/-- A beat is 16 ns (R453). -/
theorem test_beat : (after .beat up).clock.hall = 16 := by decide +kernel
/-- From reset, standby power starts the complex (R540, R542). -/
theorem test_standby : (after (.standbyPowerGood ⟨none, 0⟩) State.reset).pkg.mgt.power = true := by decide +kernel
/-- The product of 1.5 and 2 in FP16 is 3 (R92 to R94, R117). -/
theorem test_array_product :
    let s := primed [(0x1000, leBytes 2 0x3e00), (0x1100, leBytes 2 0x4000)] dArray
    (after (.tileCommit 0 0 none) (after (.arrayDescriptor 0) s)).pkg.viewBytes 0x1200 2 = leBytes 2 0x4200 := by decide +kernel
/-- Elements add without a carry across them: 0xFF + 1 wraps to 0 in each byte (Table 09-6). -/
theorem test_qvx_add_wraps :
    let s := withPkg (fun p => p.setCore 0 { p.core 0 with xs := 1, v := [(1, BitVec.ofNat 1024 0xffff), (2, BitVec.ofNat 1024 0x0101)] }) up
    ((after (.qvxAdd 0 ⟨0, false, 0, 2, 1, 3, false, 0, none⟩) s).pkg.core 0).vReg 3 = 0 := by decide +kernel
/-- A descriptor past its deadline completes, and HEAD moves past it (R226). -/
theorem test_deadline : ((after (.deadlineExpiry 0) (withHall 16 (queuedT (dated 32 dCopy)))).pkg.head 0) = 1 := by decide +kernel
/-- A cap of 2,500 W takes effect (R592). -/
theorem test_cap : (after .capEffect (withPkg (fun p => { p with pwr := { p.pwr with capNext := some (1, 2500) } }) up)).pkg.fld Reg.PWR_CAP Fld.PWR_CAP_W = 2500 := by
  decide +kernel
/-- A fall to 41.9 V stretches the clocks; 42.0 V does not (R583). -/
theorem test_supply : (after (.supplyWarning 41999) up).pkg.on Reg.PWR_STATUS Fld.PWR_STRETCHED = true ∧
    (after (.supplyWarning 42000) up).pkg.on Reg.PWR_STATUS Fld.PWR_STRETCHED = false := by decide +kernel
/-- ADD x3, x1, x2 on core 0: 5 + 7 (R330). -/
theorem test_base_add :
    let s := withPkg (fun p => p.setCore 0 { p.core 0 with x := [(1, 5), (2, 7)] }) up
    ((after (.hostMemoryAccess 0 ⟨.insn 0x002081b3, 0, 4, 0, 0, 0, none, 0⟩) s).pkg.core 0).xReg 3 = 12 := by decide +kernel
/-- Of two writes of one register in a beat, that of the higher die stands where they share a cycle (R31): the lower one is calm before any write, not after. -/
theorem test_same_cycle :
    let t := after (.registerWrite (.engine 9) Reg.PWR_CFG 4 1) up
    up.pkg.calm 3 Reg.PWR_CFG = true ∧ t.pkg.cycle.all (fun c => c.die == 9) = true := by decide +kernel

end Sys2Proof.Tests
end

/-! SUPPORT. Writes in the order of their cycle when nothing came before them (R31), and the writes of trigger counters (R10, R334, R416). -/

namespace Sys2Proof.Machine

/-! ### Writes of a register that no later write bars -/

/-- With no earlier change there is no free choice to make. -/
@[simp] theorem sameCycle_nil {α : Type} (p : Pkg) : p.sameCycle ([] : List α) = ([], p) := rfl

/-- No write that could stand over this one is listed for a calm register. -/
theorem cycle_filter_of_calm {p : Pkg} {die key : Nat} (h : p.calm die key = true) :
    p.cycle.filter (fun (c : CycleWrite) => c.key == key && die < c.die && c.die < hardwareDie) = [] := by
  rw [List.filter_eq_nil_iff]
  intro c hc
  have hno : ¬(c.key = key ∧ die < c.die) := by simpa [imp_iff_not_or] using List.all_eq_true.1 h c hc
  simp only [Bool.and_eq_true, beq_iff_eq, decide_eq_true_eq]
  exact fun hlater => hno hlater.1

/-- A write of a calm register acts with the whole word it makes, and is listed among the beat's writes (R31). -/
theorem inOrder_of_calm {p : Pkg} {die key : Nat} (h : p.calm die key = true) (cover full : W64) (cur : Pkg → W64) (act : W64 → Pkg → Pkg) :
    p.inOrder die key cover full cur act =
      { act full p with cycle := (act full p).cycle ++ [⟨key, die, cover &&& ~~~(cur (act full p) ^^^ full)⟩] } := by
  simp only [Pkg.inOrder, cycle_filter_of_calm h, sameCycle_nil, List.foldl_nil, BitVec.ofNat_eq_ofNat, BitVec.zero_and, BitVec.not_zero,
    BitVec.and_allOnes, BitVec.and_zero, BitVec.or_zero]

/-! ### The low bytes of a number -/

/-- A 64-bit number with its low `n` bits replaced is one of 64 bits. -/
theorem replaceLow_lt {r n : Nat} (v : Nat) (hr : r < 2 ^ 64) (hn : n ≤ 64) : r / 2 ^ n * 2 ^ n + v % 2 ^ n < 2 ^ 64 := by
  have hsplit : (2 : Nat) ^ 64 = 2 ^ (64 - n) * 2 ^ n := by rw [← Nat.pow_add, Nat.sub_add_cancel hn]
  have hhigh : r / 2 ^ n < 2 ^ (64 - n) := Nat.div_lt_of_lt_mul (by rwa [Nat.mul_comm, ← hsplit])
  have hlow : v % 2 ^ n < 2 ^ n := Nat.mod_lt _ (Nat.two_pow_pos n)
  calc r / 2 ^ n * 2 ^ n + v % 2 ^ n
      < (r / 2 ^ n + 1) * 2 ^ n := by rw [Nat.succ_mul]; omega
    _ ≤ 2 ^ (64 - n) * 2 ^ n := Nat.mul_le_mul_right _ hhigh
    _ = 2 ^ 64 := hsplit.symm

/-! ### Records of a command -/

/-- A command that leaves a record raised adds to the records of the beat (R570). -/
theorem lift_logs_of_raised {s : State} {f : Env → Pkg → Pkg} (h : (f s.env s.pkg).raised ≠ []) : (s.lift f).log.beatBuf ≠ s.log.beatBuf := by
  intro heq
  exact h (List.map_eq_nil_iff.1 (List.append_right_eq_self.1 heq))

/-! ### COL_TCNT_WRITE -/

/-- The command's effect on a working package, for a source that reaches the registers. -/
theorem becomes_colTcntWrite {s : State} {src : Source} (hw : s.pkg.working = true) (hr : s.pkg.reaches src = true) (en : Fin 32) (c : Fin 16384)
    (width value : Nat) : Becomes (.colTcntWrite src en c width value) s (colTcntWrite src en c width value s.env s.pkg) :=
  becomes_work (if_pos hr) hw rfl

/-- A host core's write of a counter that is not of 64 bits takes the access fault of R334. -/
theorem colTcntWrite_core_narrow (g : Fin 144) {width : Nat} (h : width ≠ 8) (en c v : Nat) (e : Env) (p : Pkg) :
    colTcntWrite (.core g) en c width v e p = p.registerFault e g (Reg.COL_TCNT en c) := if_neg h

/-- A write that R334 admits, in the order of its cycle from the owner of the engine's partition and refused from any other source (Table 11-13). -/
theorem colTcntWrite_admitted {src : Source} {width : Nat} (h : width = 8 ∨ ∀ g, src ≠ .core g) (en c v : Nat) (e : Env) (p : Pkg) :
    colTcntWrite src en c width v e p =
      let k := Reg.COL_TCNT en c
      let m := 2 ^ (8 * min width 8)
      let full := p.regNat k / m * m + v % m
      if p.isOwner src (p.partOfEngines (en / 4)) then
        p.inOrder (sourceDie src k) k (BitVec.ofNat 64 (m - 1)) (BitVec.ofNat 64 full) (fun s => s.reg k) (fun w s => s.setReg k w)
      else p.refuse (20 + en / 4) 1 src k full := by
  cases src with
  | core g => exact if_pos (h.resolve_right (fun hno => hno g rfl))
  | pcie | engine | fabric => rfl

/-- The owner's write of a calm counter sets it, or its low bytes when it is narrow; every other register and every byte stays. -/
theorem colTcntWrite_owner {src : Source} {p : Pkg} {en c width : Nat} (hw : width ≤ 8) (ha : width = 8 ∨ ∀ g, src ≠ .core g)
    (ho : p.isOwner src (p.partOfEngines (en / 4)) = true) (hc : p.calm (sourceDie src (Reg.COL_TCNT en c)) (Reg.COL_TCNT en c) = true) (v : Nat)
    (e : Env) :
    ∃ cy, colTcntWrite src en c width v e p =
      { p.setNat (Reg.COL_TCNT en c) (p.regNat (Reg.COL_TCNT en c) / 2 ^ (8 * width) * 2 ^ (8 * width) + v % 2 ^ (8 * width)) with cycle := cy } := by
  rw [colTcntWrite_admitted ha]
  simp only [ho, if_true, Nat.min_eq_left hw, inOrder_of_calm hc]
  exact ⟨_, rfl⟩

/-- A write that R334 admits from a source which does not own the engine's partition is refused. -/
theorem colTcntWrite_refused {src : Source} {p : Pkg} {en c width : Nat} (ha : width = 8 ∨ ∀ g, src ≠ .core g)
    (ho : p.isOwner src (p.partOfEngines (en / 4)) = false) (v : Nat) (e : Env) :
    ∃ full, colTcntWrite src en c width v e p = p.refuse (20 + en / 4) 1 src (Reg.COL_TCNT en c) full := by
  rw [colTcntWrite_admitted ha]
  simp only [ho, Bool.false_eq_true, if_false]
  exact ⟨_, rfl⟩

end Sys2Proof.Machine

namespace Sys2Proof

open Machine

/-- Settles O14: the three cases of a write of a trigger counter, its owner's, another source's, and a host core's narrow one. -/
theorem counterWrites : Obligations.CounterWrites := by
  unfold Obligations.CounterWrites
  intro s src en c value hwork hreach
  refine ⟨fun w hwidth hadm howner hcalm => ?_, fun hother => ?_, fun g w hcore hnarrow => ?_⟩
  · have hw : w ≤ 8 := by
      simp only [List.mem_cons, List.not_mem_nil, or_false] at hwidth
      omega
    obtain ⟨cy, heq⟩ := colTcntWrite_owner hw hadm howner hcalm value s.env
    have hbec := becomes_colTcntWrite hwork hreach en c w value
    rw [heq] at hbec
    have hval := replaceLow_lt value (s.pkg.reg (Reg.COL_TCNT en c)).isLt (n := 8 * w) (by omega)
    refine hbec.answers ⟨?_, fun j hj => ?_, fun a => rfl, lift_keeps s _⟩
    · show ((s.pkg.setNat (Reg.COL_TCNT en c) _).reg (Reg.COL_TCNT en c)).toNat = _
      rw [setNat_eq, reg_setReg, if_pos rfl, BitVec.toNat_ofNat]
      exact Nat.mod_eq_of_lt hval
    · exact setNat_reg_ne s.pkg _ _ j (by simpa using hj)
  · obtain ⟨full, heq⟩ := colTcntWrite_refused (c := c.val) (width := 8) (.inl rfl) hother value s.env
    have hbec := becomes_colTcntWrite hwork hreach en c 8 value
    rw [heq] at hbec
    refine hbec.answers ⟨fun j _ => ?_, fun a => ?_, lift_keeps s _, lift_logs_of_raised ?_⟩
    · exact refuse_reg s.pkg (20 + en / 4) 1 src (Reg.COL_TCNT en c) full j (by decide)
    · exact refuse_byte s.pkg (20 + en / 4) 1 src (Reg.COL_TCNT en c) full a
    · rw [refuse_raised s.pkg (20 + en / 4) 1 src (Reg.COL_TCNT en c) full (by decide)]
      exact List.append_ne_nil_of_right_ne_nil _ (List.cons_ne_nil _ _)
  · subst hcore
    rw [← colTcntWrite_core_narrow g hnarrow en c value s.env s.pkg]
    exact becomes_colTcntWrite hwork hreach en c w value

end Sys2Proof

/-! SUPPORT. The package network: hops between routers, what a packet at a router does, credits and waiting packets (R23 to R30). -/

namespace Sys2Proof.Machine

/-! ### Routers and hops (R23, R24, R27) -/

/-- Every position of the mesh holds a die with a router of its own (R23, R24). -/
theorem exists_router_at (row : Fin 4) (col : Fin 6) : ∃ d : Fin 32, routerOf d = d ∧ meshPos d = (row.val, col.val) := by decide +revert

/-- Every die stands on the mesh of four rows and six columns. -/
theorem meshPos_lt (d : Fin 32) : (meshPos d).1 < 4 ∧ (meshPos d).2 < 6 := by decide +revert

/-- A hop whose next position lies on the mesh leads to the router that stands there. -/
theorem hopFrom_of_target {r dir row col : Nat}
    (hhop : hopFrom r dir = if (row, col) = meshPos r then none else (List.range 32).find? (fun d => routerOf d == d && meshPos d == (row, col)))
    (hne : (row, col) ≠ meshPos r) (hrow : row < 4) (hcol : col < 6) : ∃ x, hopFrom r dir = some x ∧ meshPos x = (row, col) := by
  obtain ⟨d, hrouter, hpos⟩ := exists_router_at ⟨row, hrow⟩ ⟨col, hcol⟩
  have hsome : ((List.range 32).find? (fun d => routerOf d == d && meshPos d == (row, col))).isSome = true :=
    List.find?_isSome.2 ⟨d, List.mem_range.2 d.isLt, by simp [hrouter, hpos]⟩
  obtain ⟨x, hx⟩ := Option.isSome_iff_exists.1 hsome
  have hfound := List.find?_some hx
  simp only [Bool.and_eq_true, beq_iff_eq] at hfound
  exact ⟨x, by rw [hhop, if_neg hne, hx], hfound.2⟩

/-- The next hop of a packet that is not at its destination leads one position along its row while the columns differ, then along the column (R27). -/
theorem hopFrom_nextDir (r dst : Fin 32) :
    let a := meshPos r
    let b := meshPos dst
    let leads (dir : Nat) (next : Nat × Nat) : Prop := nextDir a b = some dir ∧ ∃ x, hopFrom r dir = some x ∧ meshPos x = next
    (a.2 < b.2 → leads 0 (a.1, a.2 + 1)) ∧ (b.2 < a.2 → leads 1 (a.1, a.2 - 1)) ∧
    (a.2 = b.2 → a.1 < b.1 → leads 2 (a.1 + 1, a.2)) ∧ (a.2 = b.2 → b.1 < a.1 → leads 3 (a.1 - 1, a.2)) := by
  obtain ⟨harow, hacol⟩ := meshPos_lt r
  obtain ⟨hbrow, hbcol⟩ := meshPos_lt dst
  refine ⟨fun h => ⟨?_, hopFrom_of_target rfl ?_ harow (by omega)⟩, fun h => ⟨?_, hopFrom_of_target rfl ?_ harow (by omega)⟩,
    fun hcol h => ⟨?_, hopFrom_of_target rfl ?_ (by omega) hacol⟩, fun hcol h => ⟨?_, hopFrom_of_target rfl ?_ (by omega) hacol⟩⟩
  · simp [nextDir, h]
  · simp [Prod.ext_iff]
  · simp [nextDir, h, h.le]
  · simp only [ne_eq, Prod.ext_iff, true_and]; omega
  · simp [nextDir, hcol, h]
  · simp [Prod.ext_iff]
  · simp [nextDir, hcol, h, h.le]
  · simp only [ne_eq, Prod.ext_iff, and_true]; omega

/-- A packet at its destination's position has no next hop. -/
@[simp] theorem nextDir_self (a : Nat × Nat) : nextDir a a = none := by simp [nextDir]

/-! ### A packet at a router (R27 to R30) -/

/-- A packet that is sent on stands on the link or waits for it (R29). -/
theorem mem_forward (n : Net) (link : Nat) (k : NetPacket) :
    ⟨link, k⟩ ∈ (n.forward link k).flight ∨ ⟨link, k⟩ ∈ (n.forward link k).held := by
  unfold Net.forward
  split
  · exact .inl (by simp)
  · exact .inr (by simp)

/-- Sending a packet on delivers nothing. -/
@[simp] theorem forward_delivered (n : Net) (link : Nat) (k : NetPacket) : (n.forward link k).delivered = n.delivered := by
  unfold Net.forward
  split <;> rfl

/-- A packet that has a next hop is sent on. -/
theorem take_of_nextDir {n : Net} {r : Nat} {k : NetPacket} {d : Nat} (h : nextDir (meshPos r) (meshPos k.dst.val) = some d) :
    n.take r k = n.forward (4 * r + d) k := by
  simp only [Net.take, h]

/-- A packet at its destination's router is delivered (R28). -/
theorem take_of_arrived {n : Net} {r : Nat} {k : NetPacket} (h : meshPos r = meshPos k.dst.val) :
    n.take r k = { n with delivered := n.delivered ++ [k] } := by
  simp only [Net.take, h, nextDir_self]

/-- A packet that enters at its source's router, or arrives oldest on a link, is taken there; what was delivered before stays. -/
theorem packageNetworkPacket_taken {p : Pkg} {r : Nat} {k : NetPacket} (e : Env) (hr : routerOf r = r)
    (h : (p.net.arrival r k).isSome = true ∨ (routerOf k.src = r ∧ p.net.knows k = false)) :
    ∃ n : Net, n.delivered = p.net.delivered ∧ packageNetworkPacket r k none e p = { p with net := n.take r k } := by
  unfold packageNetworkPacket
  rw [if_neg (not_not.2 hr)]
  cases harr : p.net.arrival r k with
  | some x => exact ⟨{ p.net with flight := p.net.flight.erase x }, rfl, rfl⟩
  | none =>
    have hent : routerOf k.src = r ∧ p.net.knows k = false := by simpa [harr] using h
    exact ⟨p.net, rfl, by simp [hent]⟩

/-- A packet that neither arrives on a link nor enters at its source's router leaves the package as it was, whether or not a parity error comes with
it. -/
theorem packageNetworkPacket_elsewhere {p : Pkg} {r : Nat} {k : NetPacket} (hit : Option ParityHit) (e : Env)
    (harr : p.net.arrival r k = none) (hsrc : routerOf k.src ≠ r) : packageNetworkPacket r k hit e p = p := by
  simp only [packageNetworkPacket, harr, hsrc, false_and, if_false, ite_self]

end Sys2Proof.Machine

namespace Sys2Proof

open Machine

/-- Settles O17: the direction of the next hop decides what the router does with the packet, and every such hop ends one position on. -/
theorem dimensionOrder : Obligations.DimensionOrder := by
  unfold Obligations.DimensionOrder
  intro s r k hwork hr hat a b goes
  obtain ⟨n, hdel, htaken⟩ := packageNetworkPacket_taken s.env hr hat
  have hbec : Becomes (.packageNetworkPacket r k none) s { s.pkg with net := n.take r k } := becomes_work rfl hwork htaken
  have hgoes {d : Nat} {next : Nat × Nat} (h : nextDir a b = some d ∧ ∃ x, hopFrom r d = some x ∧ meshPos x = next) : goes d next := by
    obtain ⟨hdir, hhop⟩ := h
    rw [take_of_nextDir hdir] at hbec
    exact ⟨hbec.answers ⟨mem_forward n _ k, (forward_delivered n _ k).trans hdel, fun _ _ => rfl, fun _ => rfl, lift_keeps s _⟩, hhop⟩
  obtain ⟨hright, hleft, hdown, hup⟩ := hopFrom_nextDir r k.dst
  refine ⟨fun h => hgoes (hright h), fun h => hgoes (hleft h), fun hcol h => hgoes (hdown hcol h), fun hcol h => hgoes (hup hcol h), fun h => ?_⟩
  rw [take_of_arrived h] at hbec
  refine hbec.answers ⟨?_, fun _ _ => rfl, fun _ => rfl, lift_keeps s _⟩
  show n.delivered ++ [k] = s.pkg.net.delivered ++ [k]
  rw [hdel]

end Sys2Proof

namespace Sys2Proof.Machine

/-! ### A parity error that comes with no crossing -/

/-- A working package whose network carries nothing. -/
def quietNet : State := { State.reset with pkg := State.reset.pkg.setFld Reg.PKG_BOOT Fld.PKG_BOOT_STAGE 5 }

theorem quietNet_working : quietNet.pkg.working = true := by
  show (quietNet.pkg.fld Reg.PKG_BOOT Fld.PKG_BOOT_STAGE == 5) = true
  rw [quietNet, fld_setFld _ _ _ _ (by decide)]
  rfl

/-- A packet from die 1 to die 2, which is on no link of `quietNet`. -/
def strayPacket : NetPacket := ⟨1, 2, 0, []⟩

end Sys2Proof.Machine

namespace Sys2Proof

open Machine

/-- Refutes O18: its clause on parity errors claims the event for every packet, but a packet that neither arrives on a link to the router nor enters
there crosses nothing, and the command then raises no event. In `quietNet`, router 0 is named a packet of die 1 that is on no link. -/
theorem not_linkUpkeep : ¬ Obligations.LinkUpkeep := by
  unfold Obligations.LinkUpkeep
  intro hall
  obtain ⟨hparity, -⟩ := hall quietNet 0 0 0 quietNet_working
  obtain ⟨t, hexec, -, -, -, -, hlogs⟩ := hparity strayPacket ⟨0, 0⟩ rfl
  have hstay : Becomes (.packageNetworkPacket 0 strayPacket (some ⟨0, 0⟩)) quietNet quietNet.pkg :=
    becomes_work rfl quietNet_working (packageNetworkPacket_elsewhere _ _ rfl (by decide))
  obtain rfl : quietNet.lift (fun _ _ => quietNet.pkg) = t := Host.Outcome.next.inj (hstay.symm.trans hexec)
  have hlength := congrArg List.length (List.append_cancel_left hlogs)
  simp at hlength

end Sys2Proof

/-! SUPPORT. Requests at the memory controllers: what becomes of one in each case of R40, R291, R292 and R305 to R312. -/

namespace Sys2Proof

open Machine

/-! ### The request that waits -/

/-- The operation a request asks for. -/
def MemReq.op (req : MemReq) : MemOp := match req.write with | some bs => .write bs | none => .read

/-- The bytes a request covers. -/
def MemReq.bytes (req : MemReq) : Nat := match req.write with | some bs => bs.length | none => req.len

/-- A request covers no byte, or crosses a line's end (R289, R291). -/
def MemReq.NoLine (req : MemReq) : Prop := req.bytes = 0 ∨ req.addr / 256 ≠ (req.addr + req.bytes - 1) / 256

/-- A read that goes ahead of the regulated classes: one of a priority region, or the dispatcher's (R307). -/
def MemReq.ahead (req : MemReq) (r : Region) : Bool :=
  req.write.isNone && (r.prio || (match memUser req.agent with | .dispatcher _ => true | _ => false))

/-- The stack or stash device of a region that a request goes to, and the request's line there. -/
def MemReq.place (req : MemReq) (r : Region) : Nat × Nat := r.place (req.addr - r.base)

end Sys2Proof

namespace Sys2Proof.Machine

/-- A request as it waits at a controller, in a region (R291, R306). -/
def Pkg.waitingReq (p : Pkg) (e : Env) (req : MemReq) (r : Region) : WaitingReq :=
  ⟨memUser req.agent, p.memPart (memUser req.agent) r, req.addr, req.op, req.bytes, req.ahead r, e.hall, false, false, 0, none⟩

/-- A request waits in a stack. -/
def StackSt.holds (st : StackSt) (e : Env) (req : MemReq) : Bool :=
  st.waiting.any (fun x => x.user == memUser req.agent && x.addr == req.addr && x.entered == e.hall && x.op == req.op)

/-! ### What becomes of a request -/

/-- A request at an address of no ready region is a hole (R40, R296). -/
theorem memoryRequest_hole {req : MemReq} {e : Env} {p0 : Pkg} (hhole : (p0.markBad req.badBytes).regionAt req.addr = none) :
    memoryRequest req e p0 =
      (p0.markBad req.badBytes).memReply ⟨memUser req.agent, 0, req.addr, req.op, req.bytes, false, e.hall, false, false, 0, none⟩ (Served.nack 0x50) := by
  simp only [memoryRequest, hhole]
  rfl

section
variable {req : MemReq} {e : Env} {p0 p : Pkg} {r : Region}
variable (hp : p0.markBad req.badBytes = p) (hregion : p.regionAt req.addr = some r)
include hp hregion

/-- A request across a line's end is none. -/
theorem memoryRequest_noLine (h : req.NoLine) : memoryRequest req e p0 = p := by
  simp only [memoryRequest, hp, hregion]
  exact if_pos h

variable (hline : ¬req.NoLine)
include hline

/-- A request in stash is served at once. -/
theorem memoryRequest_stash (hstash : r.stash = true) : memoryRequest req e p0 = (p.serveNow e none (p.waitingReq e req r)).1 := by
  simp only [memoryRequest, hp, hregion]
  exact (if_neg hline).trans (if_pos hstash)

variable (hstash : ¬r.stash = true)
include hstash

/-- A core of a partition without HBM bandwidth takes the access fault of R40 (R312). -/
theorem memoryRequest_core_noBandwidth {g : Nat} (hnone : p.noBandwidth (p.memPart (memUser req.agent) r) = true) (hu : memUser req.agent = .core g) :
    memoryRequest req e p0 =
      { p.memAnswer (memUser req.agent) req.addr 0x11 [] with memDone := p.memDone ++ [.coreFault g .access req.addr req.write.isSome] } := by
  simp only [memoryRequest, hp, hregion]
  refine (if_neg hline).trans ((if_neg hstash).trans ((if_pos hnone).trans ?_))
  simp only [hu]

/-- A descriptor of such a partition is refused 0x11, counted (R312). -/
theorem memoryRequest_descriptor_noBandwidth {q : Nat} (hnone : p.noBandwidth (p.memPart (memUser req.agent) r) = true)
    (hu : memUser req.agent = .descriptor q) :
    memoryRequest req e p0 = (p.refuseReq (req.place r).1 (p.waitingReq e req r) 0x56).updRun q (fun x => x.raise e.tag 0x11) := by
  simp only [memoryRequest, hp, hregion]
  refine (if_neg hline).trans ((if_neg hstash).trans ((if_pos hnone).trans ?_))
  simp only [Pkg.waitingReq, MemReq.ahead, hu]
  rfl

/-- Any other requester's request of such a partition is refused 0x11 and counted (R312). -/
theorem memoryRequest_other_noBandwidth (hnone : p.noBandwidth (p.memPart (memUser req.agent) r) = true)
    (hcore : ∀ g, memUser req.agent ≠ .core g) (hdesc : ∀ q, memUser req.agent ≠ .descriptor q) :
    memoryRequest req e p0 = p.refuseReq (req.place r).1 (p.waitingReq e req r) 0x56 := by
  simp only [memoryRequest, hp, hregion]
  refine (if_neg hline).trans ((if_neg hstash).trans ((if_pos hnone).trans ?_))
  cases hu : memUser req.agent with
  | core g => exact absurd hu (hcore g)
  | descriptor q => exact absurd hu (hdesc q)
  | dispatcher | fabric | outside =>
    simp only [Pkg.waitingReq, MemReq.ahead, hu]
    rfl

variable (hsome : ¬p.noBandwidth (p.memPart (memUser req.agent) r) = true)
include hsome

/-- A fabric request that finds its stack's inbound queue full is refused 0x10 (R311). -/
theorem memoryRequest_full (hfull : ((p.waitingReq e req r).inbound p.ownLoc && p.inboundFull (req.place r).1) = true) :
    memoryRequest req e p0 = p.refuseReq (req.place r).1 (p.waitingReq e req r) 0x55 := by
  simp only [memoryRequest, hp, hregion]
  exact (if_neg hline).trans ((if_neg hstash).trans ((if_neg hsome).trans (if_pos hfull)))

variable (hroom : ¬((p.waitingReq e req r).inbound p.ownLoc && p.inboundFull (req.place r).1) = true)
include hroom

/-- A descriptor's request whose byte fails parity in the controller's buffer is lost with it (R292). -/
theorem memoryRequest_lost {q : Nat} (hbuf : req.buffer = true) (hu : memUser req.agent = .descriptor q) :
    memoryRequest req e p0 = p.bufferError (req.place r).1 (r.code (req.place r).1 (req.place r).2) (memUser req.agent) req.addr := by
  simp only [memoryRequest, hp, hregion]
  refine (if_neg hline).trans ((if_neg hstash).trans ((if_neg hsome).trans ((if_neg hroom).trans ?_)))
  simp only [hu, hbuf, if_true]
  rfl

/-- Any other request enters its stack's controller, and is told when it waits there (R291, R307 to R309). -/
theorem memoryRequest_enters (hkept : req.buffer = false ∨ ∀ q, memUser req.agent ≠ .descriptor q) :
    memoryRequest req e p0 =
      let p1 := if req.buffer then p.bufferError (req.place r).1 (r.code (req.place r).1 (req.place r).2) (memUser req.agent) req.addr else p
      let p2 := p1.enterStack e (req.place r).1 (p.waitingReq e req r)
      if (p2.stack (req.place r).1).holds e req then p2.memAnswer (memUser req.agent) req.addr 1 [] else p2 := by
  simp only [memoryRequest, hp, hregion]
  refine (if_neg hline).trans ((if_neg hstash).trans ((if_neg hsome).trans ((if_neg hroom).trans ((if_neg ?_).trans rfl))))
  split
  · rename_i q hu
    simpa using hkept.resolve_right (fun hno => hno q hu)
  · exact Bool.false_ne_true

end

/-! ### The command -/

/-- What a memory request of a working package becomes: what its controller does with it, and what follows for the requesters (R291). -/
theorem becomes_memoryRequest {s : State} {req : MemReq} {q : Pkg} (hw : s.pkg.working = true) (h : memoryRequest req s.env s.pkg = q) :
    Becomes (.memoryRequest req) s (q.settleMemory s.env) :=
  becomes_work rfl hw (congrArg (fun x => x.settleMemory s.env) h)

/-- With nothing left to tell, the requesters stay as they are. -/
theorem settleUsers_of_memDone_nil {p : Pkg} (e : Env) (h : p.memDone = []) : p.settleUsers e = p := by
  simp only [Pkg.settleUsers, h, List.foldl_nil, List.filter_nil]
  rw [← h]

/-- With nothing left to tell, no packet is answered. -/
theorem answerPackets_of_memDone_nil {p : Pkg} (e : Env) (h : p.memDone = []) : p.answerPackets e = p := by
  rw [Pkg.answerPackets]
  generalize p.memDone.length + _ + _ = n
  cases n with
  | zero => rfl
  | succ n => simp only [Pkg.answerOne, h, List.find?_nil]

/-- With nothing left to tell, the end of a controller's work changes nothing. -/
theorem settleMemory_of_memDone_nil {p : Pkg} (e : Env) (h : p.memDone = []) : p.settleMemory e = p := by
  rw [Pkg.settleMemory, settleUsers_of_memDone_nil e h, answerPackets_of_memDone_nil e h]

/-- A request that neither a packet nor a core brought is answered, and no more. -/
theorem memReply_of_not_core {p : Pkg} {w : WaitingReq} (hpkt : w.pkt = none) (hcore : ∀ g, w.user ≠ .core g) (x : Served) :
    p.memReply w x = p.memAnswer w.user w.addr (servedCode x.reason) x.data := by
  unfold Pkg.memReply
  rw [hpkt]
  cases hu : w.user with
  | core g => exact absurd hu (hcore g)
  | descriptor | dispatcher | fabric | outside => rfl

end Sys2Proof.Machine

namespace Sys2Proof

open Machine

/-- Settles O40: each case of the statement is the case of `memoryRequest` that its hypotheses select. -/
theorem memoryRequests : Obligations.MemoryRequests := by
  unfold Obligations.MemoryRequests
  intro s req hwork p e u op len ends
  have hends {q : Pkg} (h : memoryRequest req e s.pkg = q) : ends q := becomes_memoryRequest hwork h
  refine ⟨fun hhole => ⟨hends (memoryRequest_hole hhole), fun hdone hcore => ?_⟩, ?_⟩
  · have hbec : Becomes (.memoryRequest req) s ((p.memAnswer u req.addr 0x3f []).settleMemory e) :=
      hends ((memoryRequest_hole hhole).trans (memReply_of_not_core rfl hcore _))
    have hsettled := settleMemory_of_memDone_nil (p := p.memAnswer u req.addr 0x3f []) e hdone
    rw [hsettled] at hbec
    exact hbec.answers ⟨rfl, fun _ _ => rfl, fun _ => rfl, lift_keeps s _⟩
  · intro r hregion part k w full
    refine ⟨fun hno => hends (memoryRequest_noLine rfl hregion hno), fun hlen hsame => ?_⟩
    have hline : ¬req.NoLine := fun h => h.elim (Nat.ne_of_gt hlen) (fun hne => hne hsame)
    refine ⟨fun hstash => hends (memoryRequest_stash rfl hregion hline hstash), fun hhbm hnone => ⟨fun g hu => ?_, fun q hu => ?_, fun hcore hdesc => ?_⟩,
      fun hhbm hsome hfull => ?_, fun hhbm hsome hroom => ⟨fun q hbuf hu => ?_, fun hkept => ?_⟩⟩
    · exact hends (memoryRequest_core_noBandwidth rfl hregion hline (ne_true_of_eq_false hhbm) hnone hu)
    · exact hends (memoryRequest_descriptor_noBandwidth rfl hregion hline (ne_true_of_eq_false hhbm) hnone hu)
    · exact hends (memoryRequest_other_noBandwidth rfl hregion hline (ne_true_of_eq_false hhbm) hnone hcore hdesc)
    · exact hends (memoryRequest_full rfl hregion hline (ne_true_of_eq_false hhbm) (ne_true_of_eq_false hsome) hfull)
    · exact hends ((memoryRequest_lost rfl hregion hline (ne_true_of_eq_false hhbm) (ne_true_of_eq_false hsome) (ne_true_of_eq_false hroom) hbuf
        hu).trans (if_pos hbuf).symm)
    · exact hends (memoryRequest_enters rfl hregion hline (ne_true_of_eq_false hhbm) (ne_true_of_eq_false hsome) (ne_true_of_eq_false hroom) hkept)

end Sys2Proof

/-! SUPPORT. Writes of registers by the access codes of their fields (Table 00-5, R9 to R12, R31, R41, R81), of a queue's pointers (R202), and by a source
that does not reach the registers (R623, R627). -/

namespace Sys2Proof.Machine

/-! ### The rows of the register map -/

/-- A bit that a plain write sets is none that a 1 clears, and a register with a guarded field has neither unless its write is an action of its own. -/
def RegSpec.codesApart (s : RegSpec) : Bool :=
  s.rwMask &&& s.w1cMask == 0 &&
    (actingRegs.contains s.name || s.lkMask ||| s.mask (fun a => a == .woLk) == 0 || (s.rwMask == 0 && s.w1cMask == 0))

/-- The access codes are so in every row of the register map. -/
theorem codesApart_rows (die : Nat) : (regsOfDie die ++ headerRegs).all RegSpec.codesApart = true := by
  unfold regsOfDie
  split_ifs <;> decide +kernel

/-- A register found by its offset is a row of its die's block or of the header. -/
theorem mem_of_findReg {off : Nat} {h : RegHit} (hfind : findReg off = some h) : h.spec ∈ regsOfDie (off / blockBytes) ++ headerRegs := by
  simp only [findReg] at hfind
  split at hfind
  · exact absurd hfind (by simp)
  · rename_i row hrow
    obtain rfl := Option.some.inj hfind
    exact List.mem_of_find?_eq_some hrow

theorem codesApart_of_findReg {off : Nat} {h : RegHit} (hfind : findReg off = some h) : h.spec.codesApart = true :=
  List.all_eq_true.1 (codesApart_rows _) _ (mem_of_findReg hfind)

/-- No bit of a register is both set by a plain write and cleared by a 1. -/
theorem rwMask_and_w1cMask {off : Nat} {h : RegHit} (hfind : findReg off = some h) : h.spec.rwMask &&& h.spec.w1cMask = 0 := by
  have hcodes := codesApart_of_findReg hfind
  simp only [RegSpec.codesApart, Bool.and_eq_true, beq_iff_eq] at hcodes
  exact hcodes.1

/-- A register with a guarded field whose write is no action has no field that a plain write changes. -/
theorem masks_of_guarded {off : Nat} {h : RegHit} (hfind : findReg off = some h) (hname : h.spec.name ∉ actingRegs)
    (hlk : h.spec.lkMask ||| h.spec.mask (fun a => a == .woLk) ≠ 0) : h.spec.rwMask = 0 ∧ h.spec.w1cMask = 0 := by
  have hcodes := codesApart_of_findReg hfind
  simp only [RegSpec.codesApart, Bool.and_eq_true, Bool.or_eq_true, beq_iff_eq, List.contains_iff_mem] at hcodes
  exact hcodes.2.resolve_left (fun hor => hor.elim hname hlk)

/-! ### The fields of a register take a write -/

/-- The word that a plain write leaves: RW fields take the written bits, RW1C fields lose the bits written 1, the others stay. -/
def RegSpec.plainWord (s : RegSpec) (old full v : W64) : W64 := (old &&& ~~~s.rwMask ||| full &&& s.rwMask) &&& ~~~(v &&& s.w1cMask)

/-- Where no field takes a plain write, the word stays. -/
theorem plainWord_of_masks {s : RegSpec} (h : s.rwMask = 0 ∧ s.w1cMask = 0) (old full v : W64) : s.plainWord old full v = old := by
  simp only [RegSpec.plainWord, h.1, h.2, BitVec.and_zero, BitVec.or_zero, BitVec.ofNat_eq_ofNat, BitVec.not_zero, BitVec.and_allOnes]

/-- Where each bit of the word is the written one or the old, and some ones are not written, each bit is that of the plain write or the old. -/
theorem plainWord_getLsbD {s : RegSpec} {old full word v w x : W64} (hx : x = s.plainWord old word w) (hapart : s.rwMask &&& s.w1cMask = 0)
    (hword : ∀ i, word.getLsbD i = full.getLsbD i ∨ word.getLsbD i = old.getLsbD i)
    (hones : ∀ i, w.getLsbD i = v.getLsbD i ∨ w.getLsbD i = false) (i : Nat) :
    x.getLsbD i = (s.plainWord old full v).getLsbD i ∨ x.getLsbD i = old.getLsbD i := by
  subst hx
  have hbit : (s.rwMask.getLsbD i && s.w1cMask.getLsbD i) = false := by rw [← BitVec.getLsbD_and, hapart]; exact BitVec.getLsbD_zero
  rcases Nat.lt_or_ge i 64 with hi | hi
  · simp only [RegSpec.plainWord, BitVec.getLsbD_and, BitVec.getLsbD_or, BitVec.getLsbD_not, hi, decide_true, Bool.true_and]
    cases hrw : s.rwMask.getLsbD i with
    | true =>
      have hw1c : s.w1cMask.getLsbD i = false := by simpa only [hrw, Bool.true_and] using hbit
      simpa only [hw1c, Bool.not_true, Bool.and_false, Bool.and_true, Bool.false_or, Bool.not_false] using hword i
    | false =>
      rcases hones i with hv | hv
      · exact .inl (by simp only [hv, Bool.and_false])
      · exact .inr (by simp only [hv, Bool.not_false, Bool.and_true, Bool.and_false, Bool.or_false, Bool.false_and])
  · exact .inr ((BitVec.getLsbD_of_ge _ i hi).trans (BitVec.getLsbD_of_ge old i hi).symm)

section
variable {p : Pkg} {e : Env} {src : Source} {off : Nat} {h : RegHit} {full v : W64} (hst : h.spec.stMask = 0)
include hst

/-- A register without ST fields stages nothing (R559). -/
theorem stagePart_of_no_st (p : Pkg) (e : Env) (src : Source) (off : Nat) (full : W64) : p.stagePart e src off h full = p := by
  unfold Pkg.stagePart
  dsimp only
  rw [hst]
  exact if_pos (by simp)

/-- The word of such a register is the one in effect. -/
theorem heldWord_of_no_st (p : Pkg) : p.heldWord h = p.reg h.key := by
  unfold Pkg.heldWord
  split
  · simp only [hst, BitVec.ofNat_eq_ofNat, BitVec.and_zero, BitVec.or_zero, BitVec.not_zero, BitVec.and_allOnes]
  · rfl

/-- A register without guarded fields takes a plain write. -/
theorem writeFields_open (hlk : h.spec.lkMask ||| h.spec.mask (fun a => a == .woLk) = 0) :
    p.writeFields e src off h full v = p.setReg h.key (h.spec.plainWord (p.reg h.key) full v) := by
  unfold Pkg.writeFields
  dsimp only
  rw [stagePart_of_no_st hst]
  exact if_pos hlk

variable (hlk : h.spec.lkMask ||| h.spec.mask (fun a => a == .woLk) ≠ 0) (hname : h.spec.name ∉ actingRegs)
include hlk hname

/-- A source to which the protection tables grant a register sets its guarded fields (R10). -/
theorem writeFields_granted (hgrant : p.granted src h full.toNat = true) :
    p.writeFields e src off h full v = (p.setReg h.key (h.spec.plainWord (p.reg h.key) full v)).setReg h.key
      ((h.spec.plainWord (p.reg h.key) full v &&& ~~~h.spec.lkMask) ||| (full &&& h.spec.lkMask)) := by
  unfold Pkg.writeFields
  dsimp only
  rw [stagePart_of_no_st hst]
  have hattr : h.spec.name ≠ "MEM_RG_ATTR" := fun heq => hname (heq ▸ by decide)
  rw [if_neg hlk, if_neg hattr, if_pos hgrant, reg_setReg, if_pos rfl]
  rfl

/-- From any other source they stay, and the attempt is logged (R10). -/
theorem writeFields_refused (hgrant : p.granted src h full.toNat = false) :
    p.writeFields e src off h full v =
      (p.setReg h.key (h.spec.plainWord (p.reg h.key) full v)).refuse (off / blockBytes) 1 src off full.toNat := by
  unfold Pkg.writeFields
  dsimp only
  rw [stagePart_of_no_st hst]
  have hattr : h.spec.name ≠ "MEM_RG_ATTR" := fun heq => hname (heq ▸ by decide)
  rw [if_neg hlk, if_neg hattr, if_neg (by simp [hgrant])]
  rfl

end

/-- A register whose write is no action takes it by its fields. -/
theorem actReg_of_not_acting {h : RegHit} (hname : h.spec.name ∉ actingRegs) (p : Pkg) (e : Env) (src : Source) (off width value : Nat) (full v : W64) :
    p.actReg e src off width value h full v = p.writeFields e src off h full v := by
  unfold Pkg.actReg
  dsimp only
  split
  case h_27 => rfl
  all_goals
    rename_i heq
    exact absurd (heq ▸ by decide) hname

/-! ### The place of a write in its cycle (R31, R81) -/

/-- A bit of a masked word is the word's own or zero. -/
theorem getLsbD_and_cases (w m : W64) (i : Nat) : (w &&& m).getLsbD i = w.getLsbD i ∨ (w &&& m).getLsbD i = false := by
  rw [BitVec.getLsbD_and]
  cases m.getLsbD i with
  | true => exact .inl (Bool.and_true _)
  | false => exact .inr (Bool.and_false _)

/-- A write takes its place in its cycle with a word each bit of which is the written one or the one that stands. -/
theorem inOrder_eq (p : Pkg) (die key : Nat) (cover full : W64) (cur : Pkg → W64) (act : W64 → Pkg → Pkg) :
    ∃ word free cy, p.inOrder die key cover full cur act = { act word { p with free := free } with cycle := cy } ∧
      ∀ i, word.getLsbD i = full.getLsbD i ∨ word.getLsbD i = (cur p).getLsbD i := by
  refine ⟨_, _, _, rfl, fun i => ?_⟩
  rcases Nat.lt_or_ge i 64 with hi | hi
  · simp only [BitVec.getLsbD_or, BitVec.getLsbD_and, BitVec.getLsbD_not, hi, decide_true, Bool.true_and]
    generalize List.foldl _ _ _ = stands
    cases hkeep : stands.getLsbD i && cover.getLsbD i with
    | true => exact .inr (by simp)
    | false => exact .inl (by simp)
  · exact .inl ((BitVec.getLsbD_of_ge _ i hi).trans (BitVec.getLsbD_of_ge full i hi).symm)

/-- Every source writes from a die, never as a commit does (R31, R81). -/
theorem sourceDie_lt (src : Source) (off : Nat) : sourceDie src off < hardwareDie := by
  cases src <;> (simp only [sourceDie, hardwareDie]; omega)

/-- No commit of the beat set a calm register. -/
theorem hardware_filter_of_calm {p : Pkg} {src : Source} {off key : Nat} (h : p.calm (sourceDie src off) key = true) :
    p.cycle.filter (fun (c : CycleWrite) => c.key == key && c.die == hardwareDie) = [] := by
  rw [List.filter_eq_nil_iff]
  intro c hc heq
  have hno : ¬(c.key = key ∧ sourceDie src off < c.die) := by simpa [imp_iff_not_or] using List.all_eq_true.1 h c hc
  simp only [Bool.and_eq_true, beq_iff_eq] at heq
  exact hno ⟨heq.1, heq.2 ▸ sourceDie_lt src off⟩

/-! ### A whole register is written -/

/-- The written bytes of a whole register. -/
def RegHit.written (h : RegHit) (value : Nat) : W64 := BitVec.ofNat 64 (value % 2 ^ (8 * h.spec.bytes))

/-- The register's word with the written bytes in place. -/
def RegHit.fullWord (h : RegHit) (old : W64) (value : Nat) : W64 := (old &&& ~~~BitVec.ofNat 64 (2 ^ (8 * h.spec.bytes) - 1)) ||| h.written value

/-- The low half of a 32-bit register's word is the written value's. -/
theorem fullWord_mod {h : RegHit} (hbytes : h.spec.bytes = 4) (old : W64) (value : Nat) : (h.fullWord old value).toNat % 2 ^ 32 = value % 2 ^ 32 := by
  apply Nat.eq_of_testBit_eq
  intro i
  by_cases hi : i < 32
  · have hword : i < 64 := by omega
    simp only [Nat.testBit_mod_two_pow, BitVec.testBit_toNat, RegHit.fullWord, RegHit.written, hbytes, BitVec.getLsbD_or, BitVec.getLsbD_and,
      BitVec.getLsbD_not, BitVec.getLsbD_ofNat, Nat.testBit_two_pow_sub_one, hi, hword, decide_true, Bool.true_and, Bool.not_true, Bool.and_false,
      Bool.false_or, Nat.reduceMul]
  · simp only [Nat.testBit_mod_two_pow, hi, decide_false, Bool.false_and]

/-- The self-ordered registers are among those whose writes act beyond their codes. -/
theorem not_mem_selfOrdered {name : String} (hname : name ∉ actingRegs) : name ∉ selfOrdered :=
  fun hmem => hname ((by decide : ∀ x ∈ selfOrdered, x ∈ actingRegs) name hmem)

section
variable {p : Pkg} {e : Env} {src : Source} {off value : Nat} {h : RegHit} (hlane : regLane h off = 0)
include hlane

section
variable (hst : h.spec.stMask = 0) (hname : h.spec.name ∉ actingRegs)
include hst hname

/-- A write of a whole register reaches its fields with a word each bit of which is the written one or the old, and with some of the written ones. -/
theorem writeReg_whole :
    ∃ word v free cy, p.writeReg e src off h.spec.bytes value h = { ({ p with free := free } : Pkg).writeFields e src off h word v with cycle := cy } ∧
      (∀ i, word.getLsbD i = (h.fullWord (p.reg h.key) value).getLsbD i ∨ word.getLsbD i = (p.reg h.key).getLsbD i) ∧
      (∀ i, v.getLsbD i = (h.written value).getLsbD i ∨ v.getLsbD i = false) := by
  unfold Pkg.writeReg
  simp only [hlane, Nat.mul_zero, Nat.shiftLeft_zero, List.contains_iff_mem, not_mem_selfOrdered hname, if_false, heldWord_of_no_st hst, actReg_of_not_acting hname]
  obtain ⟨word, free, cy, heq, hword⟩ := inOrder_eq _ _ _ _ _ _ _
  exact ⟨word, _, free, cy, heq, hword, fun i => getLsbD_and_cases _ _ i⟩

/-- With no later write of the beat in its way, with the written word and all its ones. -/
theorem writeReg_calm (hcalm : p.calm (sourceDie src off) h.key = true) :
    ∃ cy, p.writeReg e src off h.spec.bytes value h =
      { p.writeFields e src off h (h.fullWord (p.reg h.key) value) (h.written value) with cycle := cy } := by
  unfold Pkg.writeReg
  simp only [hlane, Nat.mul_zero, Nat.shiftLeft_zero, List.contains_iff_mem, not_mem_selfOrdered hname, if_false, heldWord_of_no_st hst, actReg_of_not_acting hname,
    hardware_filter_of_calm hcalm, sameCycle_nil, List.foldl_nil, inOrder_of_calm hcalm, BitVec.ofNat_eq_ofNat, BitVec.zero_and,
    BitVec.not_zero, BitVec.and_allOnes]
  exact ⟨_, rfl⟩

end

/-- A write of the whole of a queue's pointer or a flag acts with a word whose written bytes are the value's, when no commit of the beat set it. -/
theorem writeReg_selfOrdered (hname : h.spec.name ∈ selfOrdered) (hst : h.spec.stMask = 0) (hbytes : h.spec.bytes = 4)
    (hcalm : p.calm (sourceDie src off) h.key = true) :
    ∃ full v, p.writeReg e src off 4 value h = p.actReg e src off 4 value h full v ∧ full.toNat % 2 ^ 32 = value % 2 ^ 32 := by
  refine ⟨h.fullWord (p.reg h.key) value, h.written value, ?_, fullWord_mod hbytes _ _⟩
  unfold Pkg.writeReg
  simp only [hlane, Nat.mul_zero, Nat.shiftLeft_zero, List.contains_iff_mem, hname, if_true, heldWord_of_no_st hst,
    hardware_filter_of_calm hcalm, sameCycle_nil, List.foldl_nil, BitVec.ofNat_eq_ofNat, BitVec.zero_and, BitVec.not_zero, BitVec.and_allOnes]
  rw [RegHit.fullWord, RegHit.written, hbytes]

end

/-! ### A write at an offset (R41, R43) -/

/-- The whole of a register is written by one write of it. -/
theorem mmioWrite_whole {off : Nat} {h : RegHit} (hfind : findReg off = some h) (hlane : regLane h off = 0)
    (p : Pkg) (e : Env) (src : Source) (value : Nat) :
    p.mmioWrite e src off h.spec.bytes value = p.writeReg e src off h.spec.bytes value h := by
  have hone : ¬(h.spec.bytes = 4 ∧ h.spec.bytes = 8) := by omega
  simp only [Pkg.mmioWrite, hfind, if_neg hone, hlane, Nat.sub_zero, Nat.min_self]

/-- A write at an offset with no register changes nothing, unless its upper half reaches one. -/
theorem mmioWrite_unassigned {off width : Nat} (hfind : findReg off = none) (hwidth : width ≠ 8) (p : Pkg) (e : Env) (src : Source) (value : Nat) :
    p.mmioWrite e src off width value = p := by
  simp only [Pkg.mmioWrite, hfind, if_neg hwidth]

/-- A write that R334 admits is one at its offset. -/
theorem registerWrite_admitted {src : Source} {off width : Nat} (h : ∀ g, src = .core g → hostMmioOk off width = true) (value : Nat) (e : Env) (p : Pkg) :
    registerWrite src off width value e p = p.mmioWrite e src off width value := by
  cases src with
  | core g => exact if_pos (h g rfl)
  | pcie | engine | fabric => rfl

/-- What REGISTER_WRITE becomes in a working package, from a source that reaches the registers (R9). -/
theorem becomes_registerWrite {s : State} {src : Source} (hw : s.pkg.working = true) (hr : s.pkg.reaches src = true) (off width value : Nat) :
    Becomes (.registerWrite src off width value) s (registerWrite src off width value s.env s.pkg) := by
  have hthrough : exec (.registerWrite src off width value) s =
      if off / blockBytes = 30 then s.any (registerWrite src off width value) else s.work .none (registerWrite src off width value) := if_pos hr
  by_cases hdie : off / blockBytes = 30
  · exact becomes_any (hthrough.trans (if_pos hdie)) rfl
  · exact becomes_work (hthrough.trans (if_neg hdie)) hw rfl

/-! ### The pointers of queues (R202) -/

/-- A pointer takes the value modulo 2^32. -/
theorem bell_congr {p : Pkg} {src : Source} {key m n : Nat} (h : m % 2 ^ 32 = n % 2 ^ 32) (act : Nat → Pkg → Pkg) :
    p.bell src key m act = p.bell src key n act := by
  unfold Pkg.bell
  rw [h]

/-- The row of a pointer register at an offset of its die's block. -/
def pointerRow (name : String) (off : Nat) : RegSpec := ⟨name, off, 8, 0x40, 4, false, false, [⟨31, 0, .rw, 0⟩]⟩

/-- The offset of queue q's register of such a row. -/
def pointerKey (off q : Nat) : Nat := q / 8 * blockBytes + off + q % 8 * 0x40

/-- Queue q's register of such a row. -/
def pointerHit (name : String) (off q : Nat) : RegHit := ⟨pointerRow name off, q % 8, pointerKey off q⟩

theorem findReg_qtail (q : Fin 64) : findReg (Reg.DSP_QTAIL q) = some (pointerHit "DSP_QTAIL" 0x140018 q) := by decide +kernel +revert
theorem findReg_qchead (q : Fin 64) : findReg (Reg.DSP_QCHEAD q) = some (pointerHit "DSP_QCHEAD" 0x14001c q) := by decide +kernel +revert
theorem findReg_qhead (q : Fin 64) : findReg (Reg.DSP_QHEAD q) = some (pointerHit "DSP_QHEAD" 0x140020 q) := by decide +kernel +revert

section
variable {off : Nat} (hoff : off + 0x200 < blockBytes)
include hoff

/-- A pointer's offset is the register's first byte. -/
theorem regLane_pointer (name : String) (q : Nat) : regLane (pointerHit name off q) (pointerKey off q) = 0 := by
  simp only [regLane, pointerHit, pointerRow, pointerKey, blockBytes] at hoff ⊢
  omega

/-- The die and the index of a pointer give its queue. -/
theorem queue_of_pointer (q : Nat) : 8 * (pointerKey off q / blockBytes) + q % 8 = q := by
  simp only [pointerKey, blockBytes] at hoff ⊢
  omega

/-- A host core may write a pointer's four bytes (R334). -/
theorem hostMmioOk_pointer {name : String} {q : Nat} (halign : off % 4 = 0) (hfind : findReg (pointerKey off q) = some (pointerHit name off q)) :
    hostMmioOk (pointerKey off q) 4 = true := by
  have hkey : pointerKey off q % 4 = 0 := by
    simp only [pointerKey, blockBytes]
    omega
  have hlane := regLane_pointer hoff name q
  have hbytes : (pointerHit name off q).spec.bytes = 4 := rfl
  simp [hostMmioOk, hfind, hkey, hlane, hbytes]

end

/-! ### A source that does not reach the registers (R623, R627) -/

/-- Nothing comes by such a source. -/
theorem through_of_not_reached {s : State} {src : Source} (h : s.pkg.reaches src = false) (o : Host.Outcome State Fault Refusal) :
    s.through src o = .next s := if_neg (by simp [h])

/-- A command that comes by it does nothing. -/
theorem exec_of_not_reached {c : Instr} {src : Source} {s : State} (hsrc : sourceOf c = some src) (h : s.pkg.reaches src = false) :
    exec c s = .next s := by
  unfold sourceOf at hsrc
  split at hsrc
  case h_28 => exact absurd hsrc (Option.some_ne_none src).symm
  all_goals
    obtain rfl := Option.some.inj hsrc
    exact through_of_not_reached h _

/-! ### Who made a refused access (R10, R559) -/

/-- The source and principal of an access depend on the registers alone. -/
theorem accessor_congr {p q : Pkg} (h : ∀ k, p.reg k = q.reg k) (src : Source) : p.accessor src = q.accessor src := by
  have hbind (m : Nat) : p.bindNames m src = q.bindNames m src := by simp only [Pkg.bindNames, on_eq, fld_eq, h]
  have hprincipal : p.principalOf src = q.principalOf src := by simp only [Pkg.principalOf, hbind]
  simp only [Pkg.accessor, hprincipal, Pkg.mbRole, Pkg.mbPart, fld_eq, h]

/-- A register set to the word it holds reads as before, as do all others. -/
theorem reg_setReg_self (p : Pkg) (k j : Nat) : (p.setReg k (p.reg k)).reg j = p.reg j := by
  rw [reg_setReg]
  split
  · rename_i hj
    rw [hj]
  · rfl

end Sys2Proof.Machine

namespace Sys2Proof

open Machine

/-! ### What a write of a whole register answers -/

section
variable {s : State} {src : Source} {off : Nat} {h : RegHit} (hwork : s.pkg.working = true) (hreach : s.pkg.reaches src = true)
variable (hfind : findReg off = some h) (hlane : regLane h off = 0) (hcore : ∀ g, src = .core g → hostMmioOk off h.spec.bytes = true) (value : Nat)
include hwork hreach hfind hlane hcore

/-- The register takes the write (R9). -/
theorem becomes_wholeWrite : Becomes (.registerWrite src off h.spec.bytes value) s (s.pkg.writeReg s.env src off h.spec.bytes value h) := by
  rw [← mmioWrite_whole hfind hlane, ← registerWrite_admitted hcore]
  exact becomes_registerWrite hwork hreach off h.spec.bytes value

variable (hst : h.spec.stMask = 0) (hname : h.spec.name ∉ actingRegs)
include hst hname

/-- With no later write of the beat in its way, the register's fields take the written word. -/
theorem becomes_calmWrite (hcalm : s.pkg.calm (sourceDie src off) h.key = true) : ∃ cy, Becomes (.registerWrite src off h.spec.bytes value) s
    { s.pkg.writeFields s.env src off h (h.fullWord (s.pkg.reg h.key) value) (h.written value) with cycle := cy } := by
  obtain ⟨cy, heq⟩ := writeReg_calm (e := s.env) (value := value) hlane hst hname hcalm
  exact ⟨cy, heq ▸ becomes_wholeWrite hwork hreach hfind hlane hcore value⟩

/-- Without guarded fields the register reads as the plain write leaves it. -/
theorem calmWrite_open (hlk : h.spec.lkMask ||| h.spec.mask (fun a => a == .woLk) = 0) (hcalm : s.pkg.calm (sourceDie src off) h.key = true) :
    Answers (.registerWrite src off h.spec.bytes value) s (fun t =>
      t.pkg.reg h.key = h.spec.plainWord (s.pkg.reg h.key) (h.fullWord (s.pkg.reg h.key) value) (h.written value) ∧
      KeepsRegs [h.key] s t ∧ KeepsMem s t ∧ KeepsBlock s t ∧ Logs s t s.pkg.raised) := by
  obtain ⟨cy, hbec⟩ := becomes_calmWrite hwork hreach hfind hlane hcore value hst hname hcalm
  rw [writeFields_open hst hlk] at hbec
  exact hbec.answers ⟨(reg_setReg _ _ _ _).trans (if_pos rfl), fun j hj => (reg_setReg _ _ _ _).trans (if_neg (by simpa using hj)),
    fun a => rfl, lift_keeps s _, rfl⟩

/-- After earlier writes of the beat each of its bits is that of the plain write or the old one (R31, R81). -/
theorem wholeWrite_open (hlk : h.spec.lkMask ||| h.spec.mask (fun a => a == .woLk) = 0) :
    Answers (.registerWrite src off h.spec.bytes value) s (fun t =>
      (∀ i, (t.pkg.reg h.key).getLsbD i =
          (h.spec.plainWord (s.pkg.reg h.key) (h.fullWord (s.pkg.reg h.key) value) (h.written value)).getLsbD i ∨
        (t.pkg.reg h.key).getLsbD i = (s.pkg.reg h.key).getLsbD i) ∧
      KeepsRegs [h.key] s t ∧ KeepsMem s t ∧ KeepsBlock s t) := by
  obtain ⟨word, v, free, cy, heq, hword, hones⟩ := writeReg_whole (p := s.pkg) (e := s.env) (src := src) (value := value) hlane hst hname
  have hbec := becomes_wholeWrite hwork hreach hfind hlane hcore value
  rw [heq, writeFields_open hst hlk] at hbec
  exact hbec.answers ⟨plainWord_getLsbD ((reg_setReg _ _ _ _).trans (if_pos rfl)) (rwMask_and_w1cMask hfind) hword hones,
    fun j hj => (reg_setReg _ _ _ _).trans (if_neg (by simpa using hj)), fun a => rfl, lift_keeps s _⟩

variable (hlk : h.spec.lkMask ||| h.spec.mask (fun a => a == .woLk) ≠ 0) (hcalm : s.pkg.calm (sourceDie src off) h.key = true)
include hlk hcalm

/-- A source with the right sets the guarded fields too (R10). -/
theorem calmWrite_granted (hgrant : s.pkg.granted src h (h.fullWord (s.pkg.reg h.key) value).toNat = true) :
    Answers (.registerWrite src off h.spec.bytes value) s (fun t =>
      t.pkg.reg h.key = (h.spec.plainWord (s.pkg.reg h.key) (h.fullWord (s.pkg.reg h.key) value) (h.written value) &&& ~~~h.spec.lkMask) |||
        (h.fullWord (s.pkg.reg h.key) value &&& h.spec.lkMask) ∧
      KeepsRegs [h.key] s t ∧ KeepsMem s t ∧ KeepsBlock s t ∧ Logs s t s.pkg.raised) := by
  obtain ⟨cy, hbec⟩ := becomes_calmWrite hwork hreach hfind hlane hcore value hst hname hcalm
  rw [writeFields_granted hst hlk hname hgrant] at hbec
  refine hbec.answers ⟨(reg_setReg _ _ _ _).trans (if_pos rfl), fun j hj => ?_, fun a => rfl, lift_keeps s _, rfl⟩
  have hne : j ≠ h.key := by simpa using hj
  exact (reg_setReg _ _ _ _).trans ((if_neg hne).trans ((reg_setReg _ _ _ _).trans (if_neg hne)))

/-- From any other source they stay, and the attempt is logged (R10). -/
theorem calmWrite_refused (hgrant : s.pkg.granted src h (h.fullWord (s.pkg.reg h.key) value).toNat = false) :
    Answers (.registerWrite src off h.spec.bytes value) s (fun t =>
      t.pkg.reg h.key = h.spec.plainWord (s.pkg.reg h.key) (h.fullWord (s.pkg.reg h.key) value) (h.written value) ∧
      KeepsRegs [h.key] s t ∧ KeepsMem s t ∧ KeepsBlock s t ∧
      Logs s t (s.pkg.raised ++ [⟨false, off / blockBytes, 0, 0, 3, 1,
        padTo 28 (s.pkg.accessor src ++ leBytes 8 off ++ leBytes 8 (h.fullWord (s.pkg.reg h.key) value).toNat)⟩])) := by
  obtain ⟨cy, hbec⟩ := becomes_calmWrite hwork hreach hfind hlane hcore value hst hname hcalm
  rw [writeFields_refused hst hlk hname hgrant, plainWord_of_masks (masks_of_guarded hfind hname hlk)] at hbec
  have hreg (j : Nat) : ((s.pkg.setReg h.key (s.pkg.reg h.key)).refuse (off / blockBytes) 1 src off
      (h.fullWord (s.pkg.reg h.key) value).toNat).reg j = s.pkg.reg j :=
    (refuse_reg _ _ 1 src off _ j (by decide)).trans (reg_setReg_self s.pkg h.key j)
  rw [plainWord_of_masks (masks_of_guarded hfind hname hlk)]
  refine hbec.answers ⟨hreg h.key, fun j _ => hreg j, fun a => refuse_byte _ _ _ _ _ _ a, lift_keeps s _, ?_⟩
  rw [← accessor_congr (reg_setReg_self s.pkg h.key)]
  exact congrArg (fun rs => s.log.beatBuf ++ rs.map (fun r => (s.clock.beat + 1, r))) (refuse_raised _ _ 1 src off _ (by decide))

end

/-! ### What a write of a queue's pointer answers -/

section
variable {s : State} {src : Source} (hwork : s.pkg.working = true) (hreach : s.pkg.reaches src = true)
include hwork hreach

/-- A write of a queue's pointer is the command that acts alike for every word with the value's low 32 bits. -/
theorem exec_pointerWrite {name : String} {off q value : Nat} {c : Instr} {p : Pkg}
    (hfind : findReg (pointerKey off q) = some (pointerHit name off q)) (hname : name ∈ selfOrdered) (hoff : off + 0x200 < blockBytes)
    (halign : off % 4 = 0) (hcalm : s.pkg.calm (sourceDie src (pointerKey off q)) (pointerKey off q) = true)
    (hact : ∀ full v, full.toNat % 2 ^ 32 = value % 2 ^ 32 →
      s.pkg.actReg s.env src (pointerKey off q) 4 value (pointerHit name off q) full v = p)
    (hbell : Becomes c s p) : exec (.registerWrite src (pointerKey off q) 4 value) s = exec c s := by
  have hst : (pointerHit name off q).spec.stMask = 0 := rfl
  have hlane := regLane_pointer hoff name q
  obtain ⟨full, v, heq, hfull⟩ := writeReg_selfOrdered (e := s.env) (value := value) hlane hname hst rfl hcalm
  have hbec := becomes_wholeWrite hwork hreach hfind hlane (fun _ _ => hostMmioOk_pointer hoff halign hfind) value
  have hwrite : s.pkg.writeReg s.env src (pointerKey off q) 4 value (pointerHit name off q) = p := heq.trans (hact full v hfull)
  exact (hwrite ▸ hbec).trans hbell.symm

variable (q : Fin 64) (value : Nat)

/-- A write of `DSP_QTAIL_q` is TAIL_DOORBELL. -/
theorem exec_tailWrite (hcalm : s.pkg.calm (sourceDie src (Reg.DSP_QTAIL q)) (Reg.DSP_QTAIL q) = true) :
    exec (.registerWrite src (Reg.DSP_QTAIL q) 4 value) s = exec (.tailDoorbell src q value) s := by
  refine exec_pointerWrite hwork hreach (findReg_qtail q) (by decide) (by decide) (by decide) hcalm (fun full v hfull => ?_)
    (becomes_work (if_pos hreach) hwork rfl)
  simp only [Pkg.actReg, pointerHit, pointerRow, queue_of_pointer (show 0x140018 + 0x200 < blockBytes by decide)]
  exact bell_congr hfull _

/-- A write of `DSP_QCHEAD_q` is HEAD_DOORBELL. -/
theorem exec_cheadWrite (hcalm : s.pkg.calm (sourceDie src (Reg.DSP_QCHEAD q)) (Reg.DSP_QCHEAD q) = true) :
    exec (.registerWrite src (Reg.DSP_QCHEAD q) 4 value) s = exec (.headDoorbell src q value) s := by
  refine exec_pointerWrite hwork hreach (findReg_qchead q) (by decide) (by decide) (by decide) hcalm (fun full v hfull => ?_)
    (becomes_work (if_pos hreach) hwork rfl)
  simp only [Pkg.actReg, pointerHit, pointerRow, queue_of_pointer (show 0x14001c + 0x200 < blockBytes by decide)]
  exact bell_congr hfull _

/-- A write of `DSP_QHEAD_q` is QHEAD_WRITE. -/
theorem exec_qheadWrite (hcalm : s.pkg.calm (sourceDie src (Reg.DSP_QHEAD q)) (Reg.DSP_QHEAD q) = true) :
    exec (.registerWrite src (Reg.DSP_QHEAD q) 4 value) s = exec (.qheadWrite src q value) s := by
  refine exec_pointerWrite hwork hreach (findReg_qhead q) (by decide) (by decide) (by decide) hcalm (fun full v hfull => ?_)
    (becomes_work (if_pos hreach) hwork rfl)
  simp only [Pkg.actReg, pointerHit, pointerRow, queue_of_pointer (show 0x140020 + 0x200 < blockBytes by decide)]
  exact if_congr Iff.rfl rfl (bell_congr hfull _)

end

/-- Settles O12: a whole write by what its fields take, then the offsets without a register, the pointers, and the source that reaches nothing. -/
theorem registerWriteCodes : Obligations.RegisterWriteCodes := by
  unfold Obligations.RegisterWriteCodes
  intro s src off value hwork hreach
  refine ⟨?_, fun w hwidth hfind hcore => ?_, fun q => ⟨exec_tailWrite hwork hreach q value, exec_cheadWrite hwork hreach q value,
    exec_qheadWrite hwork hreach q value⟩, fun c x hsrc hno => exec_of_not_reached hsrc hno⟩
  · intro h hfind hlane _ hname hst hcore old first v full plain lk
    exact ⟨calmWrite_open hwork hreach hfind hlane hcore value hst hname,
      wholeWrite_open hwork hreach hfind hlane hcore value hst hname,
      calmWrite_granted hwork hreach hfind hlane hcore value hst hname,
      calmWrite_refused hwork hreach hfind hlane hcore value hst hname⟩
  · rw [← mmioWrite_unassigned hfind hwidth s.pkg s.env src value, ← registerWrite_admitted hcore]
    exact becomes_registerWrite hwork hreach off w value

end Sys2Proof

/-! SUPPORT. Units that leave service at their boundary: what becomes of the map and the count of spares (R120, R196, R285). -/

namespace Sys2Proof.Machine

/-! ### A spare takes a unit's place (R120, R196) -/

/-- A unit's retirement waits no longer. -/
def Pkg.stopWaiting (p : Pkg) (u : Nat × Nat) : Pkg := { p with ras := { p.ras with waiting := p.ras.waiting.erase u } }

/-- A spare stands for a logical column or lane: its map entry turns valid with the logical index, and the die has one spare less. -/
def Pkg.useSpare (p : Pkg) (entry : Nat) (valid col : Field) (status : Nat) (freeF : Field) (logical : Nat) : Pkg :=
  let q := (p.setFld entry valid 1).setFld entry col logical
  q.setFld status freeF (q.fld status freeF - 1)

/-- With nothing waiting the maps stay. -/
theorem retireMapped_of_none {p : Pkg} {die kind : Nat} (h : p.waitingUnit die kind = none) (map : Nat → Nat) (valid col : Field) (status : Nat)
    (freeF : Field) : p.retireMapped die kind map valid col status freeF = p := by
  simp only [Pkg.retireMapped, h]

section
variable {p : Pkg} {die kind : Nat} {map : Nat → Nat} {valid : Field} {u : Nat × Nat}
variable (hu : p.waitingUnit die kind = some u) (hlogical : u.2 % 4096 < 512)
include hu hlogical

/-- A column or lane with no spare left only waits no longer. -/
theorem retireMapped_of_exhausted (h : p.freeSpare die kind map valid = none) (col : Field) (status : Nat) (freeF : Field) :
    p.retireMapped die kind map valid col status freeF = p.stopWaiting u := by
  simp only [Pkg.retireMapped, hu, hlogical, if_true, Nat.not_le.2 hlogical, decide_false, Bool.false_and, Bool.false_eq_true, if_false]
  split
  · rfl
  · rename_i sp hsp
    exact absurd (h.symm.trans hsp) (Option.some_ne_none sp).symm

/-- The first free spare takes its place. -/
theorem retireMapped_of_spare {sp : Nat} (h : p.freeSpare die kind map valid = some sp) (col : Field) (status : Nat) (freeF : Field) :
    p.retireMapped die kind map valid col status freeF = (p.stopWaiting u).useSpare (map sp) valid col status freeF (u.2 % 4096) := by
  simp only [Pkg.retireMapped, hu, hlogical, if_true, Nat.not_le.2 hlogical, decide_false, Bool.false_and, Bool.false_eq_true, if_false]
  split
  · rename_i hnone
    exact absurd (h.symm.trans hnone) (Option.some_ne_none sp)
  · rename_i x hx
    rw [Option.some.inj (h.symm.trans hx)]
    rfl

end

/-- No other register changes. -/
theorem useSpare_reg_ne (p : Pkg) {entry status j : Nat} (hj : j ∉ [entry, status]) (valid col freeF : Field) (logical : Nat) :
    (p.useSpare entry valid col status freeF logical).reg j = p.reg j := by
  simp only [List.mem_cons, List.not_mem_nil, or_false, not_or] at hj
  obtain ⟨hne, hns⟩ := hj
  rw [Pkg.useSpare, setFld_reg_ne _ _ _ _ _ hns, setFld_reg_ne _ _ _ _ _ hne, setFld_reg_ne _ _ _ _ _ hne]

section
variable {entry status : Nat} (hentry : entry ≠ status) {valid col freeF : Field} (p : Pkg) (logical : Nat)
include hentry

/-- The spare's entry is valid. -/
theorem useSpare_on (hvalid : valid.hi < 64 ∧ valid.lo ≤ valid.hi) (happart : col.hi < valid.lo) :
    (p.useSpare entry valid col status freeF logical).on entry valid = true := by
  rw [Pkg.useSpare, on_setFld_other _ _ _ _ _ _ hentry, Pkg.on, fld_setFld_ne _ _ _ _ _ (.inl happart) hvalid.1]
  exact on_setFld_one p entry valid hvalid.1 hvalid.2

/-- The spare's entry holds the logical index, cut to its field. -/
theorem useSpare_fld_col (hcol : col.hi < 64) :
    (p.useSpare entry valid col status freeF logical).fld entry col = logical % 2 ^ (col.hi + 1 - col.lo) := by
  rw [Pkg.useSpare, fld_eq, setFld_reg_ne _ _ _ _ _ hentry, ← fld_eq, fld_setFld _ _ _ _ hcol]

/-- The die has one spare less. -/
theorem useSpare_fld_free (hfree : freeF.hi < 64) :
    (p.useSpare entry valid col status freeF logical).fld status freeF = (p.fld status freeF - 1) % 2 ^ (freeF.hi + 1 - freeF.lo) := by
  have hkeep : ((p.setFld entry valid 1).setFld entry col logical).fld status freeF = p.fld status freeF := by
    rw [fld_eq, setFld_reg_ne _ _ _ _ _ hentry.symm, setFld_reg_ne _ _ _ _ _ hentry.symm, fld_eq]
  rw [Pkg.useSpare, fld_setFld _ _ _ _ hfree, hkeep]

end

/-- A coat lane's place is taken while no tile is on its die (R196). -/
theorem retireLane_of_idle {p : Pkg} {die : Nat} (h : assoc? p.coatNow die = none) (e : Env) : retireLane die e p = p.mapLane die := by
  rw [retireLane, h]
  rfl

/-! ### An Anvil's lane leaves service (R285) -/

/-- The first lane of an Anvil that waits for its boundary. -/
def Pkg.waitingLane (p : Pkg) (h : Nat) : Option (Nat × Nat) :=
  p.ras.waiting.find? (fun u => u.1 == 16 + h && (u.2 / 4096 == 0xa || u.2 / 4096 == 0xb))

/-- With no lane waiting the Anvil keeps its lanes. -/
theorem anvilLaneRetirement_of_none {p : Pkg} {h : Nat} (hnone : p.waitingLane h = none) (e : Env) : anvilLaneRetirement h e p = p := by
  unfold Pkg.waitingLane at hnone
  simp only [anvilLaneRetirement, hnone]

section
variable {p : Pkg} {h : Nat} {u : Nat × Nat} (hlane : p.waitingLane h = some u) (e : Env)
include hlane

/-- A multiply-accumulate lane leaves service. -/
theorem anvilLaneRetirement_of_lane (hkind : u.2 / 4096 = 0xa) : anvilLaneRetirement h e p =
    (p.stopWaiting u).setFld (Reg.ANV_STATUS h) Fld.ANV_LANES (max 120 (p.fld (Reg.ANV_STATUS h) Fld.ANV_LANES - 1)) := by
  unfold Pkg.waitingLane at hlane
  simp only [anvilLaneRetirement, hlane, hkind, if_true]
  rfl

/-- A divide lane leaves service. -/
theorem anvilLaneRetirement_of_divider (hkind : ¬u.2 / 4096 = 0xa) : anvilLaneRetirement h e p =
    (p.stopWaiting u).setFld (Reg.ANV_STATUS h) Fld.ANV_DLANES (max 14 (p.fld (Reg.ANV_STATUS h) Fld.ANV_DLANES - 1)) := by
  unfold Pkg.waitingLane at hlane
  simp only [anvilLaneRetirement, hlane, hkind, if_false]
  rfl

end

/-- A field's value fits its bits. -/
theorem fld_lt (p : Pkg) (k : Nat) (f : Field) : p.fld k f < 2 ^ (f.hi + 1 - f.lo) := by
  rw [fld_eq, getField, bitsOf_eq]
  exact Nat.mod_lt _ (Nat.two_pow_pos _)

/-- A count of lanes that loses one, but not below a floor that its field holds, still fits its field. -/
theorem fld_setFld_floor (p : Pkg) (k : Nat) (f : Field) {floor : Nat} (hfield : f.hi < 64) (hfloor : floor < 2 ^ (f.hi + 1 - f.lo)) (q : Pkg) :
    (q.setFld k f (max floor (p.fld k f - 1))).fld k f = max floor (p.fld k f - 1) := by
  rw [fld_setFld _ _ _ _ hfield]
  have hlt := fld_lt p k f
  exact Nat.mod_eq_of_lt (Nat.max_lt.2 ⟨hfloor, by omega⟩)

end Sys2Proof.Machine

namespace Sys2Proof

open Machine

/-- Settles O36: a column and a lane retire by the same rule of maps and spares; an Anvil's lane by its kind. -/
theorem retirementsAtBoundary : Obligations.RetirementsAtBoundary := by
  unfold Obligations.RetirementsAtBoundary
  intro s die h hwork p retires
  have hretires {c : Instr} {kind : Nat} {map : Nat → Nat} {valid col : Field} {k : Nat} {free : Field}
      (hbec : Becomes c s (p.retireMapped die kind map valid col k free)) (hmap : ∀ sp, map sp ≠ k)
      (hvalid : valid.hi < 64 ∧ valid.lo ≤ valid.hi) (happart : col.hi < valid.lo) (hcol : 2 ^ (col.hi + 1 - col.lo) = 512) (hfree : free.hi < 64) :
      retires c kind map valid col k free := by
    refine ⟨fun hnone => ?_, fun u sp hu hlogical hsp => ?_, fun u hu hlogical hsp => ?_⟩
    · rwa [retireMapped_of_none hnone] at hbec
    · rw [retireMapped_of_spare hu hlogical hsp] at hbec
      have hne := hmap sp
      refine hbec.answers ⟨useSpare_on hne _ _ hvalid happart, ?_, useSpare_fld_free hne _ _ hfree, rfl,
        fun j hj => useSpare_reg_ne _ hj _ _ _ _, fun _ => rfl, lift_keeps s _⟩
      rw [lift_fld, useSpare_fld_col hne _ _ (by omega), hcol, Nat.mod_eq_of_lt hlogical]
    · rw [retireMapped_of_exhausted hu hlogical hsp] at hbec
      exact hbec.answers ⟨rfl, fun _ _ => rfl, fun _ => rfl, lift_keeps s _⟩
  refine ⟨hretires (becomes_work rfl hwork rfl) (fun sp => ?_) (by decide) (by decide) (by decide) (by decide), fun hidle =>
    hretires (becomes_work rfl hwork (retireLane_of_idle hidle _)) (fun sp => ?_) (by decide) (by decide) (by decide) (by decide), ?_, ?_⟩
  · simp only [Reg.ARR_COLMAP, Reg.ARR_STATUS]
    omega
  · simp only [Reg.COAT_LANEMAP, Reg.COAT_STATUS]
    omega
  · exact fun hnone => becomes_work rfl hwork (anvilLaneRetirement_of_none hnone _)
  · intro u hu
    by_cases hkind : u.2 / 4096 = 0xa
    · have hbec : Becomes (.anvilLaneRetirement h) s _ := becomes_work rfl hwork (anvilLaneRetirement_of_lane hu _ hkind)
      simp only [hkind, if_true]
      exact hbec.answers ⟨fld_setFld_floor _ _ _ (by decide) (by decide) _, fld_setFld_ne _ _ _ _ _ (by decide) (by decide), rfl,
        fun j hj => setFld_reg_ne _ _ _ _ _ (by simpa using hj), fun _ => rfl, lift_keeps s _⟩
    · have hbec : Becomes (.anvilLaneRetirement h) s _ := becomes_work rfl hwork (anvilLaneRetirement_of_divider hu _ hkind)
      simp only [hkind, if_false]
      exact hbec.answers ⟨fld_setFld_ne _ _ _ _ _ (by decide) (by decide), fld_setFld_floor _ _ _ (by decide) (by decide) _, rfl,
        fun j hj => setFld_reg_ne _ _ _ _ _ (by simpa using hj), fun _ => rfl, lift_keeps s _⟩

end Sys2Proof

/-! SUPPORT. Work on memory leaves the journal's entries where they are: the devices and controllers touch no run, and a requester that is told how an
access went stays under its queue (R206, R291, R319, R321, R322). -/

namespace Sys2Proof.Machine

/-! ### What an operation keeps -/

/-- A state shows `b` to the view `g`. (A structure, so that the kernel compares two states as they are written and never runs the model on them.) -/
structure Keeps {σ β : Type} (g : σ → β) (b : β) (s : σ) : Prop where
  eq : g s = b

/-- The package that an access leaves, whatever it says besides, shows `b` to the view `g`. -/
abbrev Leaves {β ω : Type} (g : Pkg → β) (b : β) (x : Pkg × ω) : Prop := Keeps (fun y : Pkg × ω => g y.1) b x

theorem leaves_mk {β ω : Type} {g : Pkg → β} {b : β} {q : Pkg} (h : g q = b) (o : ω) : Leaves g b (q, o) := ⟨h⟩

/-- An access of the package that another left. -/
theorem leaves_trans {β ω ω' : Type} {g : Pkg → β} {b : β} {x : Pkg × ω} {y : Pkg × ω'} (hx : Leaves g b x) (hy : Leaves g (g x.1) y) : Leaves g b y :=
  ⟨hy.eq.trans hx.eq⟩

section
variable {σ β : Type} {g : σ → β} {b : β}

/-- One of two operations keeps what both keep. -/
theorem keeps_ite {c : Prop} [Decidable c] {x y : σ} (hx : Keeps g b x) (hy : Keeps g b y) : Keeps g b (if c then x else y) := by
  split
  · exact hx
  · exact hy

/-- What each step of a fold keeps, the fold keeps. -/
theorem keeps_foldl {α : Type} {f : σ → α → σ} (h : ∀ s x, Keeps g (g s) (f s x)) {l : List α} {s : σ} (hs : Keeps g b s) : Keeps g b (l.foldl f s) := by
  induction l generalizing s with
  | nil => exact hs
  | cons x xs ih => exact ih ⟨(h s x).eq.trans hs.eq⟩

end

/-! ### What leaves the dispatchers as they were -/

section
variable (p : Pkg)

@[simp] theorem setFld_dsp (k : Nat) (f : Field) (v : Nat) : (p.setFld k f v).dsp = p.dsp := rfl
@[simp] theorem addReg_dsp (k n : Nat) : (p.addReg k n).dsp = p.dsp := rfl
@[simp] theorem arrCount_dsp (d k n : Nat) : (p.arrCount d k n).dsp = p.dsp := bump_dsp ..
@[simp] theorem memCount_dsp (s k n : Nat) : (p.memCount s k n).dsp = p.dsp := bump_dsp ..
@[simp] theorem rasCount_dsp (k n : Nat) : (p.rasCount k n).dsp = p.dsp := bump_dsp ..
@[simp] theorem clearBad_dsp (line : Nat) : (p.clearBad line).dsp = p.dsp := rfl
@[simp] theorem clearBadBytes_dsp (line lo hi : Nat) : (p.clearBadBytes line lo hi).dsp = p.dsp := rfl
@[simp] theorem memAnswer_dsp (u : MemUser) (a code : Nat) (data : List Byte) : (p.memAnswer u a code data).dsp = p.dsp := rfl
@[simp] theorem unwait_dsp (s : Nat) (w : WaitingReq) : (p.unwait s w).dsp = p.dsp := rfl

@[simp] theorem event_dsp (cls die unit kind detail : Nat) (data : List Byte) : (p.event cls die unit kind detail data).dsp = p.dsp := by
  simp only [Pkg.event, apply_ite Pkg.dsp, rasCount_dsp, ite_self]

@[simp] theorem disturb_dsp (detail die unit : Nat) : (p.disturb detail die unit).dsp = p.dsp := by
  simp only [Pkg.disturb, apply_ite Pkg.dsp, record_dsp, setFld_dsp, addReg_dsp, ite_self]

@[simp] theorem setBytes_dsp (a : Nat) (bs : List Byte) : (p.setBytes a bs).dsp = p.dsp := by
  induction bs generalizing p a with
  | nil => rfl
  | cons b bs ih => exact (ih _ _).trans rfl

@[simp] theorem rekeyLine_dsp (r : Region) (l : Nat) : (p.rekeyLine r l).dsp = p.dsp := by
  unfold Pkg.rekeyLine
  split
  · simp only [apply_ite Pkg.dsp, setBytes_dsp, ite_self]
  · rfl

@[simp] theorem freeBytes_dsp (a n : Nat) : (p.freeBytes a n).dsp = p.dsp := by
  refine (keeps_foldl (g := Pkg.dsp) (fun s i => ⟨?_⟩) ⟨rfl⟩).eq
  split
  · exact rekeyLine_dsp _ _ _
  · rfl

@[simp] theorem memErr_dsp (kind line : Nat) : (p.memErr kind line).dsp = p.dsp := by
  simp only [Pkg.memErr, apply_ite Pkg.dsp, setFld_dsp, ite_self]

@[simp] theorem rebuildLine_dsp (line addr : Nat) : (p.rebuildLine line addr).dsp = p.dsp := by
  simp only [Pkg.rebuildLine, disturb_dsp, event_dsp, apply_ite Pkg.dsp, memCount_dsp, addReg_dsp, memErr_dsp, clearBad_dsp, ite_self]

@[simp] theorem failLine_dsp (kind line addr : Nat) : (p.failLine kind line addr).dsp = p.dsp := by
  simp only [Pkg.failLine, event_dsp, apply_ite Pkg.dsp, addReg_dsp, memErr_dsp, ite_self]

@[simp] theorem countRead_dsp (dev n : Nat) : (p.countRead dev n).dsp = p.dsp := by
  simp only [Pkg.countRead, apply_ite Pkg.dsp, memCount_dsp, ite_self]

@[simp] theorem countCal_dsp (dev : Nat) : (p.countCal dev).dsp = p.dsp := by
  simp only [Pkg.countCal, apply_ite Pkg.dsp, memCount_dsp, ite_self]

@[simp] theorem suspendRetrain_dsp (s : Nat) : (p.suspendRetrain s).dsp = p.dsp := by
  unfold Pkg.suspendRetrain
  dsimp only
  split
  · simp only [apply_ite Pkg.dsp, record_dsp, setStack_dsp, ite_self]
  · rfl

@[simp] theorem pushBehind_dsp (r : Region) (line : Nat) : (p.pushBehind r line).dsp = p.dsp := by
  simp only [Pkg.pushBehind, apply_ite Pkg.dsp, suspendRetrain_dsp, setFld_dsp, setStack_dsp, ite_self]

theorem checkDirect_dsp (r : Region) (dev j addr : Nat) : Leaves Pkg.dsp p.dsp (p.checkDirect r dev j addr) := by
  unfold Pkg.checkDirect
  exact keeps_ite (leaves_mk rfl _) (keeps_ite (leaves_mk (failLine_dsp _ _ _ _) _)
    (keeps_ite (leaves_mk (rebuildLine_dsp _ _ _) _) (leaves_mk (failLine_dsp _ _ _ _) _)))

theorem mendLine_dsp (stripe : List Nat) (line addr : Nat) : Leaves Pkg.dsp p.dsp (p.mendLine stripe line addr) := by
  unfold Pkg.mendLine
  exact keeps_ite (leaves_mk (rebuildLine_dsp _ _ _) _) (leaves_mk (failLine_dsp _ _ _ _) _)

theorem checkLine_dsp (r : Region) (dev j addr : Nat) : Leaves Pkg.dsp p.dsp (p.checkLine r dev j addr) := by
  have hcount : (if dev < 24 then p.memCount dev (Reg.MEM_CNT_CAL_READS dev) 1 else p).dsp = p.dsp := by
    simp only [apply_ite Pkg.dsp, memCount_dsp, ite_self]
  have hdirect (q : Pkg) (hq : q.dsp = p.dsp) : Leaves Pkg.dsp p.dsp (q.checkDirect r dev j addr) := ⟨(checkDirect_dsp q r dev j addr).eq.trans hq⟩
  have hmended (x : Pkg × LineOutcome) (hx : Leaves Pkg.dsp p.dsp x) : Leaves Pkg.dsp p.dsp (x.1.checkDirect r dev j addr) := hdirect x.1 hx.eq
  have hfail (q : Pkg) (hq : q.dsp = p.dsp) (kind line : Nat) : Leaves Pkg.dsp p.dsp (q.failLine kind line addr, LineOutcome.failed) :=
    leaves_mk ((failLine_dsp q kind line addr).trans hq) _
  unfold Pkg.checkLine
  refine keeps_ite (hfail _ rfl _ _) (keeps_ite ?_ (keeps_ite ?_ (hdirect _ rfl)))
  · exact keeps_ite (hfail _ rfl _ _) (keeps_ite (hfail _ hcount _ _) (keeps_ite (leaves_mk hcount _)
      (keeps_ite (hfail _ hcount _ _) (leaves_mk hcount _))))
  · refine keeps_ite (keeps_ite (leaves_mk (hdirect _ (countCal_dsp p dev)).eq _) (hdirect _ (countCal_dsp p dev))) ?_
    refine keeps_ite (leaves_mk hcount _) (keeps_ite (leaves_mk hcount _) (leaves_mk (hmended _ ?_).eq _))
    exact keeps_foldl (fun s b => leaves_mk (mendLine_dsp s.1 _ b addr).eq _) (leaves_mk ((suspendRetrain_dsp _ _).trans hcount) _)

theorem writePlain_dsp (r : Region) (a : Nat) (bs : List Byte) : Leaves Pkg.dsp p.dsp (p.writePlain r a bs) := by
  unfold Pkg.writePlain
  refine keeps_ite (leaves_mk (failLine_dsp _ _ _ _) _) (keeps_ite (leaves_mk (failLine_dsp _ _ _ _) _) (leaves_mk ?_ _))
  simp only [setBytes_dsp, rekeyLine_dsp, clearBadBytes_dsp, apply_ite Pkg.dsp, memCount_dsp, countCal_dsp, ite_self]

theorem writeStripe_dsp (r : Region) (dev : Nat) (ws : List (Nat × List Byte)) : Leaves Pkg.dsp p.dsp (p.writeStripe r dev ws) := by
  have hpush (js : List Nat) {q : Pkg} (hq : Keeps Pkg.dsp p.dsp q) : Keeps Pkg.dsp p.dsp (js.foldl (fun q j => q.pushBehind r (r.code dev j)) q) :=
    keeps_foldl (fun s j => ⟨pushBehind_dsp s r _⟩) hq
  have hclear (js : List Nat) {q : Pkg} (hq : Keeps Pkg.dsp p.dsp q) : Keeps Pkg.dsp p.dsp (js.foldl (fun q j => q.clearBad (r.code dev j)) q) :=
    keeps_foldl (fun s j => ⟨clearBad_dsp s _⟩) hq
  have hwrite {q : Pkg} (hq : Keeps Pkg.dsp p.dsp q) :
      Keeps Pkg.dsp p.dsp (ws.foldl (fun (q : Pkg) w => (q.rekeyLine r (w.1 / 256 * 256)).setBytes w.1 w.2) q) :=
    keeps_foldl (fun s w => ⟨(setBytes_dsp _ _ _).trans (rekeyLine_dsp s r _)⟩) hq
  have hcount (x : Pkg × LineOutcome) (hx : Leaves Pkg.dsp p.dsp x) (n m : Nat) :
      (if dev < 24 then (x.1.memCount dev (Reg.MEM_CNT_WR_LINES dev) n).memCount dev (Reg.MEM_CNT_RMW dev) m else x.1).dsp = p.dsp := by
    simp only [apply_ite Pkg.dsp, memCount_dsp, ite_self]
    exact hx.eq
  unfold Pkg.writeStripe
  refine keeps_ite (leaves_mk (failLine_dsp _ _ _ _) _) (keeps_ite ?_ (leaves_mk ?_ _))
  · exact keeps_foldl (fun s j => leaves_mk (checkLine_dsp s.1 r dev j _).eq _) (leaves_mk rfl _)
  · refine (hpush _ ⟨(clearBad_dsp _ _).trans (hclear _ (hwrite ⟨hcount _ ?_ _ _⟩)).eq⟩).eq
    exact keeps_foldl (fun s j => leaves_mk (checkLine_dsp s.1 r dev j _).eq _) (leaves_mk rfl _)

@[simp] theorem copyPage_dsp (m : PageMask) : (p.copyPage m).dsp = p.dsp := by
  unfold Pkg.copyPage
  repeat' split
  all_goals rfl

@[simp] theorem demandCopy_dsp (a n : Nat) : (p.demandCopy a n).dsp = p.dsp := (keeps_foldl (g := Pkg.dsp) (fun s m => ⟨copyPage_dsp s m⟩) ⟨rfl⟩).eq

@[simp] theorem holdWrite_dsp (now : Nat) (u : MemUser) (a : Nat) (bs : List Byte) : (p.holdWrite now u a bs).dsp = p.dsp := demandCopy_dsp _ _ _

@[simp] theorem memReply_dsp (w : WaitingReq) (s : Served) : (p.memReply w s).dsp = p.dsp := by
  unfold Pkg.memReply
  split
  · rfl
  · dsimp only
    split
    · simp only [apply_ite Pkg.dsp, memAnswer_dsp, ite_self]
    · rfl

end

/-! ### The queues with a started descriptor (R206) -/

/-- The queues whose descriptors are started, in the journal's order. -/
def Pkg.runQueues (p : Pkg) : List Nat := p.dsp.runs.map (fun r => r.queue)

/-- The journal belongs to the dispatchers. -/
theorem runQueues_of_dsp {p q : Pkg} (h : q.dsp = p.dsp) : q.runQueues = p.runQueues :=
  congrArg (fun d : Dsp => d.runs.map (fun r : Run => r.queue)) h

theorem leaves_runQueues_of_dsp {p : Pkg} {x : Pkg × LineOutcome} (h : Leaves Pkg.dsp p.dsp x) : Leaves Pkg.runQueues p.runQueues x :=
  ⟨runQueues_of_dsp h.eq⟩

/-- A run changed in place stays under its queue. -/
theorem runQueues_updRun (p : Pkg) (q : Nat) {f : Run → Run} (hf : ∀ r, (f r).queue = r.queue) : (p.updRun q f).runQueues = p.runQueues := by
  show (p.dsp.runs.map _).map _ = p.dsp.runs.map _
  rw [List.map_map]
  refine List.map_congr_left (fun x _ => ?_)
  show (if x.queue = q then f x else x).queue = x.queue
  split
  · exact hf x
  · rfl

/-- A run put back leaves every queue as it was. -/
@[simp] theorem runQueues_setRun (p : Pkg) (r : Run) : (p.setRun r).runQueues = p.runQueues := by
  show (p.dsp.runs.map _).map _ = p.dsp.runs.map _
  rw [List.map_map]
  refine List.map_congr_left (fun x _ => ?_)
  show (if x.queue = r.queue then r else x).queue = x.queue
  split
  · rename_i h
    exact h.symm
  · rfl

@[simp] theorem told_queue (r : Run) (beat : Nat) (o : LineOutcome) : (r.told beat o).queue = r.queue := by
  cases o <;> rfl

section
variable (p : Pkg) (e : Env)

theorem tellRun_runQueues (u : MemUser) (o : LineOutcome) : (p.tellRun e u o).runQueues = p.runQueues := by
  unfold Pkg.tellRun
  split
  · split
    · rfl
    · exact runQueues_updRun p _ (fun r => told_queue r _ _)
  · rfl

theorem tellOther_runQueues (me : Option MemUser) (u : MemUser) (o : LineOutcome) : Leaves Pkg.runQueues p.runQueues (p.tellOther e me u o) := by
  unfold Pkg.tellOther
  exact keeps_ite (leaves_mk rfl _) (leaves_mk (tellRun_runQueues p e u o) _)

/-! ### Stripe writes (R295, R318) -/

theorem updateStripe_runQueues (me : Option MemUser) (r : Region) (dev j : Nat) (own : List (Nat × List Byte)) :
    Leaves Pkg.runQueues p.runQueues (p.updateStripe e me r dev j own) := by
  have hwrite {q : Pkg} (hq : Keeps Pkg.runQueues p.runQueues q) (ws : List (Nat × List Byte)) :
      Leaves Pkg.runQueues p.runQueues (q.writeStripe r dev ws) :=
    ⟨(leaves_runQueues_of_dsp (writeStripe_dsp q r dev ws)).eq.trans hq.eq⟩
  unfold Pkg.updateStripe
  refine keeps_foldl (fun s w => leaves_mk ?_ _) (leaves_mk (hwrite ?_ _).eq _)
  · have htold := tellOther_runQueues s.1 e me w.user
    exact (keeps_ite (g := Pkg.runQueues) ⟨(runQueues_of_dsp (memAnswer_dsp _ _ _ _ _)).trans (htold _).eq⟩ ⟨(htold _).eq⟩).eq
  · exact keeps_ite ⟨rfl⟩ ⟨runQueues_of_dsp (setStack_dsp _ _ _)⟩

theorem markStripe_runQueues (me : Option MemUser) (r : Region) (dev j : Nat) : Leaves Pkg.runQueues p.runQueues (p.markStripe e me r dev j) := by
  unfold Pkg.markStripe
  refine keeps_foldl (fun s w => leaves_mk ?_ _) (leaves_mk (runQueues_of_dsp (setStack_dsp _ _ _)) _)
  exact (tellOther_runQueues _ e me _ _).eq.trans (runQueues_of_dsp (countCal_dsp s.1 dev))

theorem settleStripe_runQueues (me : Option MemUser) (r : Region) (dev j : Nat) : Leaves Pkg.runQueues p.runQueues (p.settleStripe e me r dev j) := by
  unfold Pkg.settleStripe
  exact keeps_ite (leaves_mk rfl _) (keeps_ite (markStripe_runQueues p e me r dev j) (updateStripe_runQueues p e me r dev j []))

theorem writeOrQueue_runQueues (u : MemUser) (r : Region) (dev j : Nat) (own : List (Nat × List Byte)) :
    Leaves Pkg.runQueues p.runQueues (p.writeOrQueue e u r dev j own) := by
  have hmark {q : Pkg} (hq : q.dsp = p.dsp) : Leaves Pkg.runQueues p.runQueues (q.markStripe e (some u) r dev j) :=
    ⟨(markStripe_runQueues q e (some u) r dev j).eq.trans (runQueues_of_dsp hq)⟩
  unfold Pkg.writeOrQueue
  exact keeps_ite (hmark (setStack_dsp _ _ _)) (updateStripe_runQueues p e (some u) r dev j own)

/-! ### Service of one request (R291, R316 to R323, R388, R518) -/

/-- A line counted and checked as it is read. -/
theorem readLine_runQueues (r : Region) (dev j a : Nat) : Leaves Pkg.runQueues p.runQueues ((p.countRead dev 1).checkLine r dev j a) :=
  ⟨(leaves_runQueues_of_dsp (checkLine_dsp _ r dev j a)).eq.trans (runQueues_of_dsp (countRead_dsp p dev 1))⟩

/-- The queued writes of a line's stripe come first. -/
theorem settlePatch_runQueues (me : Option MemUser) (r : Region) (dev j : Nat) :
    Leaves Pkg.runQueues p.runQueues (if r.patch then p.settleStripe e me r dev j else (p, .ok)) :=
  keeps_ite (settleStripe_runQueues p e me r dev j) (leaves_mk rfl _)

theorem serveWrite_runQueues (me : Option MemUser) (r : Region) (w : WaitingReq) (bs : List Byte) :
    Leaves Pkg.runQueues p.runQueues (p.serveWrite e me r w bs) := by
  unfold Pkg.serveWrite
  refine keeps_ite (leaves_mk ?_ _) (keeps_ite (leaves_mk (runQueues_of_dsp (setStack_dsp _ _ _)) _) (leaves_mk ?_ _))
  · have hheld := runQueues_of_dsp (holdWrite_dsp p e.hall w.user w.addr bs)
    split
    · exact (runQueues_updRun _ _ (f := fun r => r.delayBy e.tag 5) (fun _ => rfl)).trans hheld
    · exact hheld
  · exact (leaves_trans (leaves_runQueues_of_dsp (writePlain_dsp p r w.addr bs)) (tellOther_runQueues _ e me _ _)).eq

theorem serveRead_runQueues (me : Option MemUser) (r : Region) (w : WaitingReq) : Leaves Pkg.runQueues p.runQueues (p.serveRead e me r w) := by
  unfold Pkg.serveRead
  exact leaves_mk (leaves_trans (leaves_trans (settlePatch_runQueues p e me r _ _) (readLine_runQueues _ r _ _ _)) (tellOther_runQueues _ e me _ _)).eq _

theorem serveNow_runQueues (me : Option MemUser) (w : WaitingReq) : Leaves Pkg.runQueues p.runQueues (p.serveNow e me w) := by
  have hreply {q : Pkg} (hq : Keeps Pkg.runQueues p.runQueues q) (x : Served) : (q.memReply w x).runQueues = p.runQueues :=
    (runQueues_of_dsp (memReply_dsp q w x)).trans hq.eq
  unfold Pkg.serveNow
  split
  · exact leaves_mk (hreply ⟨rfl⟩ _) _
  · rename_i r _
    split
    · exact leaves_mk (hreply ⟨(serveRead_runQueues p e me r w).eq⟩ _) _
    · rename_i bs _
      have hserved := serveWrite_runQueues p e me r w bs
      exact leaves_mk (keeps_ite ⟨(runQueues_of_dsp (memAnswer_dsp _ _ _ _ _)).trans hserved.eq⟩ ⟨hreply ⟨hserved.eq⟩ _⟩).eq _
    · have hread := serveRead_runQueues p e me r w
      exact keeps_ite (leaves_mk (hreply ⟨hread.eq⟩ _) _) (leaves_mk (hreply ⟨(leaves_trans hread (serveWrite_runQueues _ e me r w _)).eq⟩ _) _)

/-! ### Accesses of the package's own requesters (R40, R289, R291) -/

theorem settleLine_runQueues (u : MemUser) (a : Nat) : Leaves Pkg.runQueues p.runQueues (p.settleLine e u a) := by
  unfold Pkg.settleLine
  split
  · exact leaves_mk rfl _
  · refine keeps_foldl (fun s w => leaves_mk ?_ _) (leaves_mk rfl _)
    exact (serveNow_runQueues _ e (some u) w).eq.trans (runQueues_of_dsp (unwait_dsp s.1 _ w))

theorem touchLine_runQueues (u : MemUser) (a : Nat) : Leaves Pkg.runQueues p.runQueues (p.touchLine e u a) := by
  unfold Pkg.touchLine
  split
  · exact leaves_mk rfl _
  · exact leaves_mk (leaves_trans (leaves_trans (settleLine_runQueues p e u a) (settlePatch_runQueues _ e (some u) _ _ _)) (readLine_runQueues _ _ _ _ _)).eq _

theorem touchRange_runQueues (u : MemUser) (a n : Nat) : Leaves Pkg.runQueues p.runQueues (p.touchRange e u a n) := by
  unfold Pkg.touchRange
  exact keeps_foldl (fun s l => leaves_mk (touchLine_runQueues s.1 e u l).eq _) (leaves_mk rfl _)

theorem touchHeld_runQueues (u : MemUser) (a n : Nat) : Leaves Pkg.runQueues p.runQueues (p.touchHeld e u a n) := by
  unfold Pkg.touchHeld
  exact keeps_foldl (fun s l => leaves_mk (touchLine_runQueues s.1 e u l).eq _) (leaves_mk rfl _)

theorem writeAll_runQueues (u : MemUser) (ps : List WritePiece) : Leaves Pkg.runQueues p.runQueues (p.writeAll e u ps) := by
  unfold Pkg.writeAll
  refine keeps_foldl (fun s g => ?_) (keeps_foldl (fun s w => leaves_mk (leaves_runQueues_of_dsp (writePlain_dsp s.1 _ _ _)).eq _) (leaves_mk rfl _))
  split
  · exact ⟨rfl⟩
  · exact leaves_mk (writeOrQueue_runQueues s.1 e u _ _ _ _).eq _

theorem storeAll_runQueues (u : MemUser) (segs : List (Nat × List Byte)) : Leaves Pkg.runQueues p.runQueues (p.storeAll e u segs) := by
  unfold Pkg.storeAll
  refine leaves_mk (leaves_trans ?_ (writeAll_runQueues _ e u _)).eq _
  exact keeps_foldl (fun s l => leaves_mk (settleLine_runQueues s.1 e u l).eq _) (leaves_mk rfl _)

/-- The dispatcher's reads before a start leave the journal's queues (R321). -/
theorem readAhead_runQueues (c : Nat) (xs : List (Nat × Nat)) : Leaves Pkg.runQueues p.runQueues (p.readAhead e c xs) := by
  unfold Pkg.readAhead
  exact keeps_foldl (fun s x => leaves_mk (touchHeld_runQueues s.1 e _ _ _).eq _) (leaves_mk rfl _)

theorem touchRows_runQueues (u : MemUser) (t : Tensor) (org : List Int) (k0 kn i0 n : Nat) :
    Leaves Pkg.runQueues p.runQueues (p.touchRows e u t org k0 kn i0 n) := by
  have hscales {b : List Nat} (x : Pkg × LineOutcome) (hx : Leaves Pkg.runQueues b x) (a m : Nat) :
      Leaves Pkg.runQueues b (if t.bscale then x.1.touchRange e u a m else (x.1, .ok)) :=
    keeps_ite (leaves_trans hx (touchRange_runQueues x.1 e u a m)) (leaves_mk hx.eq _)
  unfold Pkg.touchRows
  exact keeps_foldl (fun s i => leaves_mk (hscales _ (touchRange_runQueues s.1 e u _ _) _ _).eq _) (leaves_mk rfl _)

/-- What a pass of a tile reads leaves the journal's queues. -/
theorem touchPass_runQueues (u : MemUser) (j : ArrayJob) (oa ob oz : List Int) (pl : TilePlace) (k0 kn : Nat) (withC : Bool) :
    Leaves Pkg.runQueues p.runQueues (p.touchPass e u j oa ob oz pl k0 kn withC) := by
  unfold Pkg.touchPass
  extract_lets x y w v
  have hy : Leaves Pkg.runQueues p.runQueues y := leaves_trans (touchRows_runQueues p e u _ _ _ _ _ _) (touchRows_runQueues _ e u _ _ _ _ _ _)
  have hw : Leaves Pkg.runQueues p.runQueues w := by
    simp only [w]
    split
    · exact keeps_ite (leaves_trans hy (touchRows_runQueues _ e u _ _ _ _ _ _)) (leaves_mk hy.eq _)
    · exact leaves_mk hy.eq _
  have hv : Leaves Pkg.runQueues p.runQueues v := by
    simp only [v]
    split
    · exact leaves_trans hw (touchRows_runQueues _ e u _ _ _ _ _ _)
    · exact leaves_mk hw.eq _
  exact leaves_mk hv.eq _

end

/-! ### The started descriptor of a queue (R206) -/

theorem runOf_of_dsp {p q : Pkg} (h : q.dsp = p.dsp) (k : Nat) : q.runOf k = p.runOf k :=
  congrArg (fun d : Dsp => d.runs.find? (fun r : Run => r.queue = k)) h

/-- A queue without a journal entry has no started descriptor. -/
theorem runOf_eq_none {p : Pkg} {k : Nat} : p.runOf k = none ↔ k ∉ p.runQueues := by
  simp only [Pkg.runOf, Pkg.runQueues, List.find?_eq_none, List.mem_map, decide_eq_true_eq, not_exists, not_and]

/-- A run put back into its queue's entry is the one found there. -/
theorem runOf_setRun {p : Pkg} {r : Run} (h : r.queue ∈ p.runQueues) : (p.setRun r).runOf r.queue = some r := by
  obtain ⟨x, hx, hqueue⟩ := List.mem_map.1 h
  have hmem : r ∈ (p.setRun r).dsp.runs := List.mem_map.2 ⟨x, hx, if_pos hqueue⟩
  cases hfound : (p.setRun r).runOf r.queue with
  | none => exact absurd rfl (of_decide_eq_false (eq_false_of_ne_true (List.find?_eq_none.1 hfound r hmem)))
  | some y =>
    have hy : y.queue = r.queue := by simpa using List.find?_some (p := fun x : Run => decide (x.queue = r.queue)) hfound
    obtain ⟨z, -, hz⟩ := List.mem_map.1 (List.mem_of_find?_eq_some hfound)
    split at hz
    · rw [hz]
    · rename_i hne
      exact absurd (hz ▸ hy) hne

/-- A run that enters the journal under a free queue is the one found there. -/
theorem runOf_addRun {p : Pkg} {r : Run} (h : p.runOf r.queue = none) : (p.addRun r).runOf r.queue = some r := by
  show (p.dsp.runs ++ [r]).find? _ = some r
  rw [List.find?_append, show p.dsp.runs.find? (fun x => x.queue = r.queue) = none from h]
  simp

/-- The run that an array works on has its queue's entry. -/
theorem mem_runQueues_of_arrayRun {p : Pkg} {die kind : Nat} {r : Run} (h : p.arrayRun die kind = some r) : r.queue ∈ p.runQueues := by
  unfold Pkg.arrayRun at h
  split at h
  · exact List.mem_map_of_mem (List.mem_of_find?_eq_some h)
  · exact absurd h (Option.some_ne_none r).symm

/-! ### What a run keeps as it goes on -/

section
variable (r : Run)

@[simp] theorem closeIf_queue (e : Env) (n : Nat) (owes : Nat → Bool) : (r.closeIf e n owes).queue = r.queue := by
  unfold Run.closeIf
  split <;> rfl

@[simp] theorem closeIf_tiles (e : Env) (n : Nat) (owes : Nat → Bool) : (r.closeIf e n owes).tiles = r.tiles := by
  unfold Run.closeIf
  split <;> rfl

@[simp] theorem readOutcome_queue (e : Env) (o : LineOutcome) : (r.readOutcome e o).queue = r.queue := by
  cases o <;> rfl

/-- A tile's record bears the tile's number. -/
@[simp] theorem tile_t (t : Nat) : (r.tile t).t = t := by
  unfold Run.tile
  cases h : r.tiles.find? (fun x => x.t = t) with
  | none => rfl
  | some x => simpa using List.find?_some (p := fun x : TileSt => decide (x.t = t)) h

theorem tile_of_tiles {r r' : Run} (h : r'.tiles = r.tiles) (t : Nat) : r'.tile t = r.tile t := by simp only [Run.tile, h]

/-- A tile's record reads as it was put. -/
theorem tile_setTile (x : TileSt) : (r.setTile x).tile x.t = x := by
  unfold Run.tile Run.setTile
  dsimp only
  split
  · rename_i h
    obtain ⟨y, hy, hyt⟩ := List.any_eq_true.1 h
    rw [List.find?_map]
    have hfun : (fun z : TileSt => decide (z.t = x.t)) ∘ (fun y => if y.t = x.t then x else y) = fun y => decide (y.t = x.t) := by
      funext z
      by_cases hz : z.t = x.t <;> simp [hz]
    rw [hfun]
    obtain ⟨z, hz⟩ := Option.isSome_iff_exists.1 ((List.find?_isSome (p := fun z : TileSt => decide (z.t = x.t))).2 ⟨y, hy, hyt⟩)
    have hzt : z.t = x.t := by simpa using List.find?_some (p := fun y : TileSt => decide (y.t = x.t)) hz
    simp [hz, hzt]
  · rename_i h
    have hnone : r.tiles.find? (fun y => decide (y.t = x.t)) = none := by
      simpa [List.any_eq_true] using h
    simp [List.find?_append, hnone]

end

end Sys2Proof.Machine

/-! SUPPORT. A pass of a tile that stores nothing, a K-split part or a shadow pass: what it replays, and what it adds to its run (R109, R110, R117,
R149 to R152). -/

namespace Sys2Proof.Machine

/-! ### A pass that stores nothing: a K-split part, a shadow pass (R109, R110, R149 to R152) -/

/-- A part of a tile is the die's to work on: the tile is split, the part is one of its others, and it waits for it in its turn. -/
def Pkg.partDue (p : Pkg) (r : Run) (die t part : Nat) : Prop :=
  1 < (p.arrayJob r).s ∧ 0 < part ∧ part < (p.arrayJob r).s ∧ (p.arrayJob r).dieOf t part = die ∧ t < dIters r.desc * (p.arrayJob r).tiles ∧
    (r.tile t).committed = false ∧ (r.tile t).reheat = false ∧ p.tilesHeld die = false ∧ (p.arrayJob r).inTurn r die t = true ∧
    (r.tile t).parts.any (fun (q : TilePart) => q.part = part) = false

/-- A tile owes its home die a shadow pass. -/
def Pkg.shadowDue (p : Pkg) (r : Run) (die t : Nat) : Prop :=
  (p.arrayJob r).dieOf t 0 = die ∧ (r.tile t).committed = true ∧ (r.tile t).shadowDone = false ∧ (p.arrayJob r).shadowed t = true ∧ p.tilesHeld die = false

section
variable {p : Pkg} {die : Nat} {r : Run} (harr : p.arrayRun die 0 = some r) (e : Env) {t part : Nat}
include harr

section
variable (hdue : p.partDue r die t part)
include hdue

/-- A failed check replays the part alone (R117). -/
theorem ksplitRecord_failed (fl : CheckFail) : ksplitRecord die t part (some fl) e p =
    (p.arrCount die (Reg.ARR_CNT_BUSY die) ((p.arrayJob r).cycles .narrow (ksplitPart (p.arrayJob r).k (p.arrayJob r).s part).2 false)).failTile e r die t fl
      (r.tile t).attempts (fun u => u.setTile { r.tile t with attempts := (r.tile t).attempts + 1 }) := by
  obtain ⟨hsplit, hpart, hlast, hdie, htile, hopen, hnarrow, hfree, hturn, hnew⟩ := hdue
  unfold ksplitRecord
  rw [harr]
  refine if_neg ?_
  simp only [hdie, hopen, hnarrow, hfree, hturn, hnew]
  simp
  omega

/-- The part's record joins the tile's (R110, R135). -/
theorem ksplitRecord_read :
    let j := p.arrayJob r
    let x := r.tile t
    let pl := j.place t
    let home := j.dieOf t 0
    let ks := ksplitPart j.k j.s part
    let rd := p.touchPass e (.descriptor r.queue) j (r.origin 0 pl.iter) (r.origin 1 pl.iter) (r.origin 3 pl.iter) pl ks.1 ks.2 false
    let r1 := r.readOutcome e rd.2
    let p1 := rd.1.setRun r1
    let o := p1.passOf r1 j .narrow t ks.1 ks.2 false
    let data := o.accum.record (o.flags ||| o.accum.nvFlag) o.overT
    rd.2 ≠ .failed → ksplitRecord die t part none e p =
      ((p1.arrCount die (Reg.ARR_CNT_BUSY die) (j.cycles .narrow ks.2 o.spread)).arrCount home (Reg.ARR_CNT_BUSY home)
        (p1.transferCycles data.length)).setRun (r1.setTile { x with parts := x.parts ++ [⟨part, data, o.sats, o.flushes⟩] }) := by
  intro j x pl home ks rd r1 p1 o data hread
  obtain ⟨hsplit, hpart, hlast, hdie, htile, hopen, hnarrow, hfree, hturn, hnew⟩ := hdue
  unfold ksplitRecord
  rw [harr]
  refine (if_neg ?_).trans (if_neg hread)
  simp only [hdie, hopen, hnarrow, hfree, hturn, hnew]
  simp
  omega

end

section
variable (hdue : p.shadowDue r die t)
include hdue

/-- A failed check replays the shadow pass (R117). -/
theorem shadowPassEnd_failed (fl : CheckFail) : shadowPassEnd die t (some fl) e p =
    (p.arrCount die (Reg.ARR_CNT_BUSY die) ((p.arrayJob r).cycles .shadow (p.arrayJob r).k false)).failTile e r die t fl
      (r.tile t).shadowAttempts (fun u => u.setTile { r.tile t with shadowAttempts := (r.tile t).shadowAttempts + 1 }) := by
  obtain ⟨hdie, hdone, howed, hshadowed, hfree⟩ := hdue
  unfold shadowPassEnd
  rw [harr]
  refine if_neg ?_
  simp [hdie, hdone, howed, hshadowed, hfree]

/-- The comparison's bin joins the die's stage record (R149 to R152). -/
theorem shadowPassEnd_read :
    let j := p.arrayJob r
    let x := r.tile t
    let pl := j.place t
    let rd := p.touchPass e (.descriptor r.queue) j (r.origin 0 pl.iter) (r.origin 1 pl.iter) (r.origin 3 pl.iter) pl 0 j.k true
    let r1 := r.readOutcome e rd.2
    let p1 := rd.1.setRun r1
    let o := p1.passOf r1 j .shadow t 0 j.k true
    let f := j.factor .shadow (p1.tensorScale j.a) (p1.tensorScale j.b)
    let ys := (x.result.map (fun a => (a.cells.flatten).map (fun c => (c.tag, ((a.value c).mul x.factor).1)))).getD []
    let zs := (o.accum.cells.flatten).map (fun c => (c.tag, ((o.accum.value c).mul f).1))
    let both := (ys.zip zs).filter (fun w => w.1.1 = 0 ∧ w.2.1 = 0)
    let bin := shadowBin (both.map (fun w => w.1.2)) (both.map (fun w => w.2.2))
    let stg := r1.stageOf die
    rd.2 ≠ .failed → shadowPassEnd die t none e p =
      (p1.setRun (((r1.setTile { x with shadowDone := true }).setStage
        { stg with shadows := stg.shadows + 1, bins := (match bin with | some b => stg.bins ++ [b] | none => stg.bins) }).closeIf
          e (dIters r.desc * j.tiles) j.shadowed)).arrCount die (Reg.ARR_CNT_BUSY die) (j.cycles .shadow j.k false) := by
  intro j x pl rd r1 p1 o f ys zs both bin stg hread
  obtain ⟨hdie, hdone, howed, hshadowed, hfree⟩ := hdue
  unfold shadowPassEnd
  rw [harr]
  refine (if_neg ?_).trans ((if_neg hread).trans rfl)
  simp [hdie, hdone, howed, hshadowed, hfree]

end

end

/-- An array counter is one register. -/
theorem arrCount_reg_ne (p : Pkg) {d k j : Nat} (n : Nat) (h : j ≠ k) : (p.arrCount d k n).reg j = p.reg j := bump_reg p _ _ _ n j h

/-- What a command answers that puts a run back and counts busy cycles of two dies. -/
theorem answers_of_setRun_counts {c : Instr} {s : State} {q : Pkg} {r : Run} {k d n h m : Nat}
    (hbec : Becomes c s (((q.arrCount d (Reg.ARR_CNT_BUSY d) n).arrCount h (Reg.ARR_CNT_BUSY h) m).setRun r))
    (hk : r.queue = k) (hmem : k ∈ q.runQueues) :
    Answers c s (fun u => u.pkg.runOf k = some r ∧ KeepsRegs [Reg.ARR_CNT_BUSY d, Reg.ARR_CNT_BUSY h] { s with pkg := q } u ∧
      KeepsMem { s with pkg := q } u ∧ KeepsBlock s u) := by
  subst hk
  refine hbec.answers ⟨?_, fun i hi => ?_, fun a => ?_, lift_keeps s _⟩
  · refine (runOf_setRun ?_ : (Pkg.setRun _ r).runOf r.queue = some r)
    rw [runQueues_of_dsp ((arrCount_dsp _ h _ m).trans (arrCount_dsp q d _ n))]
    exact hmem
  · simp only [List.mem_cons, List.not_mem_nil, or_false, not_or] at hi
    exact (arrCount_reg_ne _ m hi.2).trans (arrCount_reg_ne q n hi.1)
  · exact (bump_byte _ _ _ _ m a).trans (bump_byte q _ _ _ n a)

/-- What a command answers that puts a run back and counts busy cycles of one die. -/
theorem answers_of_setRun_count {c : Instr} {s : State} {q : Pkg} {r : Run} {k d n : Nat}
    (hbec : Becomes c s ((q.setRun r).arrCount d (Reg.ARR_CNT_BUSY d) n)) (hk : r.queue = k) (hmem : k ∈ q.runQueues) :
    Answers c s (fun u => u.pkg.runOf k = some r ∧ KeepsRegs [Reg.ARR_CNT_BUSY d] { s with pkg := q } u ∧ KeepsMem { s with pkg := q } u ∧
      KeepsBlock s u) := by
  subst hk
  refine hbec.answers ⟨?_, fun i hi => ?_, fun a => ?_, lift_keeps s _⟩
  · exact (runOf_of_dsp (arrCount_dsp (q.setRun r) d _ n) r.queue).trans (runOf_setRun hmem)
  · exact arrCount_reg_ne (q.setRun r) n (fun h => hi (List.mem_singleton.2 h))
  · exact bump_byte (q.setRun r) _ _ _ n a

/-- The queue of the run that an array works on keeps its entry while its operands are read. -/
theorem mem_runQueues_setRun_of_leaves {p : Pkg} {die : Nat} {r r1 : Run} {x : Pkg × LineOutcome} (harr : p.arrayRun die 0 = some r)
    (hx : Leaves Pkg.runQueues p.runQueues x) : r.queue ∈ (x.1.setRun r1).runQueues := by
  rw [runQueues_setRun, hx.eq]
  exact mem_runQueues_of_arrayRun harr

end Sys2Proof.Machine

namespace Sys2Proof

open Machine

/-- Settles O34: each pass either fails its check, and replays, or reads its operands, puts the run back and counts its cycles. -/
theorem partsAndShadows : Obligations.PartsAndShadows := by
  unfold Obligations.PartsAndShadows
  intro s die t part r hwork harr hfree
  have hqueue (e : Env) (o : LineOutcome) : (r.readOutcome e o).queue = r.queue := readOutcome_queue r e o
  refine ⟨fun hsplit hpart hlast hdie htile hopen hnarrow hturn hnew => ?_, fun hdie hdone howed hshadowed => ?_⟩
  · have hdue : s.pkg.partDue r die t part := ⟨hsplit, hpart, hlast, hdie, htile, hopen, hnarrow, hfree, hturn, hnew⟩
    refine ⟨fun fl => becomes_work rfl hwork (ksplitRecord_failed harr s.env hdue fl), fun hread => ?_⟩
    exact answers_of_setRun_counts (becomes_work rfl hwork (ksplitRecord_read harr s.env hdue hread)) (hqueue _ _)
      (mem_runQueues_setRun_of_leaves harr (touchPass_runQueues _ _ _ _ _ _ _ _ _ _ _))
  · have hdue : s.pkg.shadowDue r die t := ⟨hdie, hdone, howed, hshadowed, hfree⟩
    refine ⟨fun fl => becomes_work rfl hwork (shadowPassEnd_failed harr s.env hdue fl), fun hread => ?_⟩
    exact answers_of_setRun_count (becomes_work rfl hwork (shadowPassEnd_read harr s.env hdue hread)) ((closeIf_queue _ _ _ _).trans (hqueue _ _))
      (mem_runQueues_setRun_of_leaves harr (touchPass_runQueues _ _ _ _ _ _ _ _ _ _ _))

end Sys2Proof

/-! SUPPORT. A tile's pass that stores: when its die works on it, how the pass ends, and how its drain ends (R107, R117, R145, R170, R518). -/

namespace Sys2Proof.Machine

/-! ### The end of a drain: a trap, a masked page or a commit (R117, R170, R518) -/

/-- The cycles and bundles of a pass that drains are counted. -/
def Pkg.countPass (p : Pkg) (im : Option CoatImage) (die busy : Nat) (spread : Bool) : Pkg :=
  ((if spread then p.arrCount die (Reg.ARR_CNT_SPREAD die) 1 else p).countDrain die im).arrCount die (Reg.ARR_CNT_BUSY die) busy

/-- The counts of a pass touch registers alone. -/
theorem countPass_keeps {β : Type} {g : Pkg → β} (hg : ∀ q ctrl f k n, g (Pkg.bump q ctrl f k n) = g q) (p : Pkg) (im : Option CoatImage) (die busy : Nat)
    (spread : Bool) : g (p.countPass im die busy spread) = g p := by
  have hdrain (q : Pkg) : g (q.countDrain die im) = g q := (hg _ _ _ _ _).trans (hg _ _ _ _ _)
  refine (hg _ _ _ _ _).trans ((hdrain _).trans ?_)
  split
  · exact hg _ _ _ _ _
  · rfl

theorem countPass_dsp (p : Pkg) (im : Option CoatImage) (die busy : Nat) (spread : Bool) : (p.countPass im die busy spread).dsp = p.dsp :=
  countPass_keeps (g := Pkg.dsp) bump_dsp p im die busy spread

theorem countPass_byte (p : Pkg) (im : Option CoatImage) (die busy : Nat) (spread : Bool) (a : Nat) :
    (p.countPass im die busy spread).byte a = p.byte a :=
  countPass_keeps (g := fun q => q.byte a) (fun q ctrl f k n => bump_byte q ctrl f k n a) p im die busy spread

/-- The traps of a drain counted, and the first of them shown unless another is (R170). -/
def Pkg.noteTraps (p : Pkg) (die slot : Nat) (traps : List Trap) : Pkg :=
  let k := Reg.COAT_TRAP_INFO die
  let p1 := p.coatCount die (Reg.COAT_CNT_TRAP die) traps.length
  match (sortBy Trap.le traps).head? with
  | some t =>
    if p1.on k Fld.COAT_TRAP_VALID then p1 else
    (((((((p1.setReg k 0).setFld k Fld.COAT_TRAP_VALID 1).setFld k Fld.COAT_TRAP_KIND t.kind).setFld k Fld.COAT_TRAP_PROG slot).setFld k
      Fld.COAT_TRAP_BUNDLE t.bundle).setFld k Fld.COAT_TRAP_SLOT t.slot).setFld k Fld.COAT_TRAP_FILE t.file).setFld k Fld.COAT_TRAP_REG t.reg
      |>.setFld k Fld.COAT_TRAP_ROW (t.row % 256)
  | none => p1

theorem noteTraps_keeps {β : Type} {g : Pkg → β} (hbump : ∀ q ctrl f k n, g (Pkg.bump q ctrl f k n) = g q) (hreg : ∀ q k w, g (Pkg.setReg q k w) = g q)
    (p : Pkg) (die slot : Nat) (traps : List Trap) : g (p.noteTraps die slot traps) = g p := by
  have hfld (q : Pkg) (k : Nat) (f : Field) (v : Nat) : g (q.setFld k f v) = g q := hreg _ _ _
  have hcount : g (p.coatCount die (Reg.COAT_CNT_TRAP die) traps.length) = g p := hbump _ _ _ _ _
  unfold Pkg.noteTraps
  dsimp only
  split
  · split
    · exact hcount
    · simp only [hfld, hreg]
      exact hcount
  · exact hcount

/-- A trap's run ends with its cause and nothing of the tile (R170). -/
def Run.trapped (r : Run) (e : Env) : Run := { r.abort e.tag 0x08 with undef := r.committed != 0, stopped := true, finished := true, endBeat := e.tag }

theorem trapTile_eq (p : Pkg) (e : Env) (r : Run) (die t slot : Nat) (traps : List Trap) : p.trapTile e r die t slot traps =
    Pkg.setRun { p.noteTraps die slot traps with
      coatNow := assocPut ((p.noteTraps die slot traps).coatNow.filter (fun x => x.2.queue ≠ r.queue)) die ⟨r.queue, t, true⟩ } (r.trapped e) := rfl

theorem trapTile_runOf (p : Pkg) (e : Env) (r : Run) (h : r.queue ∈ p.runQueues) (die t slot : Nat) (traps : List Trap) :
    (p.trapTile e r die t slot traps).runOf r.queue = some (r.trapped e) := by
  rw [trapTile_eq]
  refine (runOf_setRun ?_ : (Pkg.setRun _ (r.trapped e)).runOf (r.trapped e).queue = _)
  show r.queue ∈ (p.noteTraps die slot traps).runQueues
  rw [runQueues_of_dsp (p := p) (noteTraps_keeps (g := Pkg.dsp) bump_dsp (fun _ _ _ => rfl) p die slot traps)]
  exact h

theorem trapTile_byte (p : Pkg) (e : Env) (r : Run) (die t slot : Nat) (traps : List Trap) (a : Nat) :
    (p.trapTile e r die t slot traps).byte a = p.byte a := by
  rw [trapTile_eq]
  exact noteTraps_keeps (g := fun q => q.byte a) (fun q ctrl f k n => bump_byte q ctrl f k n a) (fun _ _ _ => rfl) p die slot traps

/-- A commit that waits for a page delays the descriptor and no more (R518). -/
theorem stallOnMask_runOf (p : Pkg) (e : Env) (r : Run) (h : r.queue ∈ p.runQueues) (segs : List Segment) :
    (p.stallOnMask e r segs).runOf r.queue = some (r.delayBy e.tag 5) := by
  refine (runOf_setRun ?_ : (Pkg.setRun _ (r.delayBy e.tag 5)).runOf (r.delayBy e.tag 5).queue = _)
  rw [runQueues_of_dsp (p := p)]
  · exact h
  · refine (keeps_foldl (g := Pkg.dsp) (fun q s => ⟨?_⟩) ⟨rfl⟩).eq
    split
    · exact demandCopy_dsp q _ _
    · rfl

/-! ### A commit's writes (R117, R492, R494) -/

theorem journalBytes_dsp (p : Pkg) (c off n : Nat) : (p.journalBytes c off n).dsp = p.dsp := by
  unfold Pkg.journalBytes
  split
  · exact freeBytes_dsp _ _ _
  · rfl

theorem clothe_dsp (p : Pkg) (r : Run) (segs : List Segment) : (p.clothe r segs).1.dsp = p.dsp :=
  (rasCount_dsp _ _ _).trans (journalBytes_dsp _ _ _ _)

theorem clothe_queue (p : Pkg) (r : Run) (segs : List Segment) : (p.clothe r segs).2.queue = r.queue := rfl

section
variable (p : Pkg) (e : Env) (r : Run) (t : Nat) (outs : List (Nat × List Segment))

theorem writeOutputs_runQueues : (p.writeOutputs e r t outs).1.runQueues = p.runQueues := by
  have hcloth : (if r.reserved != 0 then p.clothe r (outs.map (·.2)).flatten else (p, r)).1.runQueues = p.runQueues := by
    split
    · exact runQueues_of_dsp (clothe_dsp p r _)
    · rfl
  exact (storeAll_runQueues _ e _ _).eq.trans hcloth

theorem writeOutputs_queue : (p.writeOutputs e r t outs).2.queue = r.queue := by
  have hcloth : (if r.reserved != 0 then p.clothe r (outs.map (·.2)).flatten else (p, r)).2.queue = r.queue := by
    split
    · exact clothe_queue p r _
    · rfl
  exact (readOutcome_queue _ e _).trans hcloth

end

/-! ### What a commit makes of the run (R117, R237, R417) -/

/-- Increments of bindings are counts of an engine. -/
theorem applyIncs_keeps (n : Nat) (p : Pkg) (r : Run) :
    (p.applyIncs r n).1.dsp = p.dsp ∧ (p.applyIncs r n).2.queue = r.queue ∧ (p.applyIncs r n).2.tiles = r.tiles := by
  induction n generalizing p r with
  | zero => exact ⟨rfl, rfl, rfl⟩
  | succ n ih =>
    unfold Pkg.applyIncs
    split
    · obtain ⟨hdsp, hqueue, htiles⟩ := ih ((p.binds.filter (fun b => b.ctx == r.ctx && b.handle == dHandle r.desc 2)).foldl
        (fun q b => q.addReg (Reg.COL_TCNT b.engine b.counter) 1) p) { r with incs := r.incs + 1 }
      exact ⟨hdsp.trans (keeps_foldl (g := Pkg.dsp) (fun q b => ⟨addReg_dsp q _ _⟩) ⟨rfl⟩).eq, hqueue, htiles⟩
    · exact ⟨rfl, rfl, rfl⟩

/-- The run of a committed tile: its record, the die's stage record, the run's flags and counts, and the status of a reheat or of a kept result. -/
def Run.withTile (r : Run) (e : Env) (j : ArrayJob) (die : Nat) (x : TileSt) (acc : Accum) (factor : Num) (drained : DrainOut) (st : StoreOut)
    (kept : Bool) : Run :=
  let arrF := x.arrFlags ||| st.qflags
  let coatF := x.coatFlags ||| drained.flags ||| st.flags ||| (if acc.nv then flagNV else 0)
  let stg := r.stageOf die
  let r1 := ((r.setTile { x with committed := true, arrFlags := arrF, coatFlags := coatF, result := some acc, factor := factor }).setStage
    { stg with sats := stg.sats + x.sats + st.sats, flushes := stg.flushes + x.flushes + st.flushes,
               reheats := stg.reheats + (if x.reheat then 1 else 0), kept := stg.kept + (if kept then 1 else 0) })
  let r2 : Run := { r1 with
    flags := r1.flags ||| arrF ||| coatF, endBeat := e.tag
    reheated := r1.reheated + (if x.reheat then 1 else 0), kept := r1.kept + (if kept then 1 else 0)
    qcause := r1.qcause ||| (if kept then (if j.reheatable then 1 else 2) else 0) }
  if kept then r2.raise e.tag 0x20 else if x.reheat then r2.raise e.tag 3 else r2

section
variable (r : Run) (e : Env) (j : ArrayJob) (die : Nat) (x : TileSt) (acc : Accum) (factor : Num) (drained : DrainOut) (st : StoreOut) (kept : Bool)

theorem withTile_queue : (r.withTile e j die x acc factor drained st kept).queue = r.queue := by
  unfold Run.withTile
  dsimp only
  split
  · rfl
  · split <;> rfl

theorem withTile_tiles : (r.withTile e j die x acc factor drained st kept).tiles = (r.setTile { x with
    committed := true, arrFlags := x.arrFlags ||| st.qflags
    coatFlags := x.coatFlags ||| drained.flags ||| st.flags ||| (if acc.nv then flagNV else 0), result := some acc, factor := factor }).tiles := by
  unfold Run.withTile
  dsimp only
  split
  · rfl
  · split <;> rfl

theorem withTile_committed : ((r.withTile e j die x acc factor drained st kept).tile x.t).committed = true := by
  rw [tile_of_tiles (withTile_tiles r e j die x acc factor drained st kept)]
  exact congrArg TileSt.committed (tile_setTile r { x with
    committed := true, arrFlags := x.arrFlags ||| st.qflags
    coatFlags := x.coatFlags ||| drained.flags ||| st.flags ||| (if acc.nv then flagNV else 0), result := some acc, factor := factor })

end

theorem commitFlags_dsp (p : Pkg) (k f : Nat) : (p.commitFlags k f).dsp = p.dsp := by
  unfold Pkg.commitFlags
  dsimp only
  split <;> rfl

/-- A run put back with the flags it commits and the tiles and elements it counts. -/
def Pkg.closeTile (p : Pkg) (r : Run) (j : ArrayJob) (die t c arrF coatF specials : Nat) : Pkg :=
  ((List.range j.s).foldl (fun q u => q.arrCount (j.dieOf t u) (Reg.ARR_CNT_TILES (j.dieOf t u)) 1)
    (((p.setRun r).commitArrFlags die c arrF).commitCoatFlags die c coatF)).arrCount die (Reg.ARR_CNT_SPECIAL die) specials

theorem closeTile_dsp (p : Pkg) (r : Run) (j : ArrayJob) (die t c arrF coatF specials : Nat) :
    (p.closeTile r j die t c arrF coatF specials).dsp = (p.setRun r).dsp := by
  refine (arrCount_dsp _ _ _ _).trans ((keeps_foldl (g := Pkg.dsp) (fun q u => ⟨arrCount_dsp q _ _ _⟩) ⟨?_⟩).eq)
  exact (commitFlags_dsp _ _ _).trans (commitFlags_dsp _ _ _)

theorem commitTile_eq (p : Pkg) (e : Env) (r : Run) (j : ArrayJob) (die t : Nat) (x : TileSt) (acc : Accum) (factor : Num)
    (drained : DrainOut) (st : StoreOut) (kept : Bool) :
    let w := p.writeOutputs e r t [(2, segmentsOf st.bytes)]
    let r3 := w.2.withTile e j die x acc factor drained st kept
    let y := w.1.applyIncs r3 (r3.tiles.length + 1)
    p.commitTile e r j die t x acc factor drained st kept =
      y.1.closeTile (y.2.closeIf e (dIters r.desc * j.tiles) j.shadowed) j die t r.ctx (x.arrFlags ||| st.qflags)
        (x.coatFlags ||| drained.flags ||| st.flags ||| (if acc.nv then flagNV else 0)) acc.specials := rfl

/-- A run put back as a tile closes is the one found. -/
theorem closeTile_runOf {p : Pkg} {r : Run} {k : Nat} (hk : r.queue = k) (h : k ∈ p.runQueues) (j : ArrayJob) (die t c arrF coatF specials : Nat) :
    (p.closeTile r j die t c arrF coatF specials).runOf k = some r := by
  subst hk
  exact (runOf_of_dsp (closeTile_dsp p r j die t c arrF coatF specials) r.queue).trans (runOf_setRun h)

/-- A tile that commits is committed in its queue's run. -/
theorem commitTile_runOf (p : Pkg) (e : Env) (r : Run) (h : r.queue ∈ p.runQueues) (j : ArrayJob) (die t : Nat) (x : TileSt) (acc : Accum) (factor : Num)
    (drained : DrainOut) (st : StoreOut) (kept : Bool) :
    ∃ y, (p.commitTile e r j die t x acc factor drained st kept).runOf r.queue = some y ∧ (y.tile x.t).committed = true := by
  have hw := writeOutputs_runQueues p e r t [(2, segmentsOf st.bytes)]
  have hwq := writeOutputs_queue p e r t [(2, segmentsOf st.bytes)]
  rw [commitTile_eq]
  revert hw hwq
  generalize p.writeOutputs e r t [(2, segmentsOf st.bytes)] = w
  intro hw hwq
  have hcommitted := withTile_committed w.2 e j die x acc factor drained st kept
  have hqueue := withTile_queue w.2 e j die x acc factor drained st kept
  revert hcommitted hqueue
  generalize w.2.withTile e j die x acc factor drained st kept = r3
  intro hcommitted hqueue
  obtain ⟨hdsp, hincs, htiles⟩ := applyIncs_keeps (r3.tiles.length + 1) w.1 r3
  refine ⟨_, closeTile_runOf ?_ ?_ _ _ _ _ _ _ _, ?_⟩
  · rw [closeIf_queue, hincs, hqueue, hwq]
  · rw [runQueues_of_dsp hdsp, hw]
    exact h
  · rwa [tile_of_tiles ((closeIf_tiles _ _ _ _).trans htiles)]

/-! ### The three ends of a drain -/

section
variable (p : Pkg) (e : Env) (r : Run) (j : ArrayJob) (die t : Nat) (x : TileSt) (acc : Accum) (factor : Num) (ds : DrainOut × StoreOut) (busy : Nat)
variable (spread kept : Bool)

theorem endDrain_trapped (h : ds.1.traps ≠ []) : p.endDrain e r j die t x acc factor ds busy spread kept =
    (p.countPass r.image die busy spread).trapTile e r die t (bitsOf (dOp r.desc) 15 8) ds.1.traps := by
  unfold Pkg.endDrain
  exact if_pos (by simpa using h)

variable (h : ds.1.traps = [])
include h

theorem endDrain_masked (hmask : p.segsMasked (segmentsOf ds.2.bytes) = true) :
    p.endDrain e r j die t x acc factor ds busy spread kept = p.stallOnMask e r (segmentsOf ds.2.bytes) := by
  unfold Pkg.endDrain
  exact (if_neg (by simp [h])).trans (if_pos hmask)

theorem endDrain_commits (hmask : p.segsMasked (segmentsOf ds.2.bytes) = false) :
    p.endDrain e r j die t x acc factor ds busy spread kept =
      (((p.countPass r.image die busy spread).drawFree ds.2.free).2).commitTile e r j die t x acc factor ds.1 ds.2 kept := by
  unfold Pkg.endDrain
  exact (if_neg (by simp [h])).trans (if_neg (by simp [hmask]))

end

/-- What a command answers that drains a tile (R117, R170, R518). -/
theorem answers_of_endDrain {c : Instr} {s : State} {p : Pkg} {e : Env} {r : Run} {j : ArrayJob} {die t k : Nat} {x : TileSt} {acc : Accum} {factor : Num}
    {ds : DrainOut × StoreOut} {busy : Nat} {spread kept : Bool} (hbec : Becomes c s (p.endDrain e r j die t x acc factor ds busy spread kept))
    (hk : r.queue = k) (hmem : k ∈ p.runQueues) (hx : x.t = t) :
    (ds.1.traps ≠ [] → Answers c s (fun u => KeepsMem { s with pkg := p } u ∧ KeepsBlock s u ∧
      ∃ y, u.pkg.runOf k = some y ∧ y.stopped = true ∧ y.finished = true ∧ y.tiles = r.tiles)) ∧
    (ds.1.traps = [] → p.segsMasked (segmentsOf ds.2.bytes) = true → Answers c s (fun u => ∃ y, u.pkg.runOf k = some y ∧ y.tiles = r.tiles)) ∧
    (ds.1.traps = [] → p.segsMasked (segmentsOf ds.2.bytes) = false → Answers c s (fun u =>
      ∃ y, u.pkg.runOf k = some y ∧ (y.tile t).committed = true)) := by
  subst hk hx
  have hcount : r.queue ∈ (p.countPass r.image die busy spread).runQueues := by
    rwa [runQueues_of_dsp (countPass_dsp p r.image die busy spread)]
  refine ⟨fun htraps => ?_, fun htraps hmask => ?_, fun htraps hmask => ?_⟩
  · rw [endDrain_trapped p e r j die _ x acc factor ds busy spread kept htraps] at hbec
    refine hbec.answers ⟨fun a => ?_, lift_keeps s _, r.trapped e, ?_, rfl, rfl, rfl⟩
    · exact (trapTile_byte _ e r die x.t _ _ a).trans (countPass_byte p r.image die busy spread a)
    · exact trapTile_runOf _ e r hcount die _ _ _
  · rw [endDrain_masked p e r j die _ x acc factor ds busy spread kept htraps hmask] at hbec
    exact hbec.answers ⟨r.delayBy e.tag 5, stallOnMask_runOf p e r hmem _, rfl⟩
  · rw [endDrain_commits p e r j die _ x acc factor ds busy spread kept htraps hmask] at hbec
    exact hbec.answers (commitTile_runOf (((p.countPass r.image die busy spread).drawFree ds.2.free).2) e r hcount j die x.t x acc factor ds.1 ds.2 kept)

/-! ### The ends of a tile's pass (R107, R117, R145, R222) -/

/-- A tile is its home die's to work on: the next in its turn, with its K-split parts there, and no test holds the die's tiles. -/
def Pkg.tileDue (p : Pkg) (r : Run) (die t : Nat) : Prop :=
  (p.arrayJob r).dieOf t 0 = die ∧ t < dIters r.desc * (p.arrayJob r).tiles ∧ (r.tile t).committed = false ∧ p.tilesHeld die = false ∧
    (p.arrayJob r).inTurn r die t = true ∧ (1 < (p.arrayJob r).s → (r.tile t).reheat = false → (p.arrayJob r).partsIn (r.tile t) = true)

/-- `tileCommit` works on the tiles that are due. -/
theorem tileDue_iff (p : Pkg) (r : Run) (die t : Nat) : p.tileDue r die t ↔
    ¬ ((p.arrayJob r).dieOf t 0 ≠ die ∨ t ≥ dIters r.desc * (p.arrayJob r).tiles ∨ (r.tile t).committed ∨ p.tilesHeld die ∨
      !(p.arrayJob r).inTurn r die t ∨ ((p.arrayJob r).s > 1 ∧ !(r.tile t).reheat ∧ !(p.arrayJob r).partsIn (r.tile t))) := by
  simp only [Pkg.tileDue, not_or, not_and, not_not, ge_iff_le, not_le, gt_iff_lt, Bool.not_eq_true, Bool.not_eq_true', Bool.not_eq_false]

section
variable {p : Pkg} {die t : Nat} {r : Run} (harr : p.arrayRun die 0 = some r) (e : Env)
include harr

/-- A pass of another tile changes nothing. -/
theorem tileCommit_held (hdue : ¬p.tileDue r die t) (fail : Option CheckFail) : tileCommit die t fail e p = p := by
  rw [tileDue_iff, not_not] at hdue
  unfold tileCommit
  rw [harr]
  exact if_pos hdue

variable (hdue : p.tileDue r die t)
include hdue

/-- A failed check replays the pass (R117, R119). -/
theorem tileCommit_failed (fl : CheckFail) :
    let j := p.arrayJob r
    let x := r.tile t
    let k0 := if j.s > 1 && !x.reheat then (ksplitPart j.k j.s 0).2 else j.k
    tileCommit die t (some fl) e p =
      (p.arrCount die (Reg.ARR_CNT_BUSY die) (j.cycles (if x.reheat then .reheat else .narrow) k0 false)).failTile e r die t fl x.attempts
        (fun u => u.setTile { x with attempts := x.attempts + 1 }) := by
  intro j x k0
  unfold tileCommit
  rw [harr]
  exact if_neg ((tileDue_iff p r die t).1 hdue)

/-- Operands that cannot be read end the pass (R117). -/
theorem tileCommit_unread :
    let j := p.arrayJob r
    let x := r.tile t
    let k0 := if j.s > 1 && !x.reheat then (ksplitPart j.k j.s 0).2 else j.k
    let pl := j.place t
    let rd := p.touchPass e (.descriptor r.queue) j (r.origin 0 pl.iter) (r.origin 1 pl.iter) (r.origin 3 pl.iter) pl 0 k0 true
    rd.2 = .failed → tileCommit die t none e p = rd.1.setRun (r.readOutcome e rd.2) := by
  intro j x k0 pl rd hread
  unfold tileCommit
  rw [harr]
  exact (if_neg ((tileDue_iff p r die t).1 hdue)).trans (if_pos hread)

/-- A reheat pass drains (R145). -/
theorem tileCommit_reheated :
    let j := p.arrayJob r
    let x := r.tile t
    let k0 := if j.s > 1 && !x.reheat then (ksplitPart j.k j.s 0).2 else j.k
    let pl := j.place t
    let rd := p.touchPass e (.descriptor r.queue) j (r.origin 0 pl.iter) (r.origin 1 pl.iter) (r.origin 3 pl.iter) pl 0 k0 true
    let r1 := r.readOutcome e rd.2
    let p1 := rd.1.setRun r1
    let o := p1.passOf r1 j .reheat t 0 j.k true
    let f := j.factor .reheat (p1.tensorScale j.a) (p1.tensorScale j.b)
    rd.2 ≠ .failed → x.reheat = true → tileCommit die t none e p =
      p1.endDrain e r1 j die t { x with arrFlags := x.arrFlags ||| o.flags } o.accum f (p1.drainStores r1 j die t o.accum f)
        (j.cycles .reheat j.k false) false false := by
  intro j x k0 pl rd r1 p1 o f hread hreheat
  unfold tileCommit
  rw [harr]
  exact (if_neg ((tileDue_iff p r die t).1 hdue)).trans ((if_neg hread).trans (if_pos hreheat))

/-- A narrow pass whose tile cannot be reheated drains (R138, R145). -/
theorem tileCommit_narrow :
    let j := p.arrayJob r
    let x := r.tile t
    let k0 := if j.s > 1 && !x.reheat then (ksplitPart j.k j.s 0).2 else j.k
    let pl := j.place t
    let rd := p.touchPass e (.descriptor r.queue) j (r.origin 0 pl.iter) (r.origin 1 pl.iter) (r.origin 3 pl.iter) pl 0 k0 true
    let r1 := r.readOutcome e rd.2
    let p1 := rd.1.setRun r1
    let o := p1.narrowOf r1 j t
    let f := j.factor .narrow (p1.tensorScale j.a) (p1.tensorScale j.b)
    let ds := p1.drainStores r1 j die t o.accum f
    let hot := storeOver j.c ds.2
    rd.2 ≠ .failed → x.reheat = false → j.reheatable = false → tileCommit die t none e p =
      p1.endDrain e r1 j die t { x with arrFlags := x.arrFlags ||| o.flags, sats := o.sats, flushes := o.flushes, overT := hot } o.accum f ds
        (j.cycles .narrow k0 o.spread) o.spread hot := by
  intro j x k0 pl rd r1 p1 o f ds hot hread hnarrow hcold
  unfold tileCommit
  rw [harr]
  refine (if_neg ((tileDue_iff p r die t).1 hdue)).trans ((if_neg hread).trans ((if_neg (ne_true_of_eq_false hnarrow)).trans ((if_neg ?_).trans (if_neg ?_))))
  · show ¬((o.overT && j.reheatable) = true)
    simp [hcold]
  · show ¬((hot && j.reheatable && ds.1.traps.isEmpty && _) = true)
    simp [hcold]

end

end Sys2Proof.Machine

namespace Sys2Proof

open Machine

/-- Settles O32: a pass that is not due changes nothing; one that is fails its check, cannot read its operands, or drains, by what `tileCommit` does in
each case and by the three ends of a drain. -/
theorem arrayTileCommits : Obligations.ArrayTileCommits := by
  unfold Obligations.ArrayTileCommits
  intro s die t r hwork harr
  have hqueue (o : LineOutcome) : (r.readOutcome s.env o).queue = r.queue := readOutcome_queue r s.env o
  refine ⟨fun hheld f => becomes_work rfl hwork (tileCommit_held harr s.env hheld f),
    fun fl hdue => becomes_work rfl hwork (tileCommit_failed harr s.env hdue fl), fun hdue => ?_⟩
  have hunread := tileCommit_unread harr s.env hdue
  have hreheated := tileCommit_reheated harr s.env hdue
  have hnarrow := tileCommit_narrow harr s.env hdue
  refine ⟨fun hread => becomes_work rfl hwork (hunread hread), fun hread hreheat => ?_, fun hread hopen hcold => ?_, fun hread hkind => ?_⟩
  · rw [if_pos hreheat, if_pos hreheat]
    exact becomes_work rfl hwork (hreheated hread hreheat)
  · rw [if_neg (ne_true_of_eq_false hopen), if_neg (ne_true_of_eq_false hopen)]
    exact becomes_work rfl hwork (hnarrow hread hopen hcold)
  · rcases Bool.eq_false_or_eq_true (r.tile t).reheat with hreheat | hopen
    · rw [if_pos hreheat, if_pos hreheat]
      exact answers_of_endDrain (becomes_work rfl hwork (hreheated hread hreheat)) (hqueue _)
        (mem_runQueues_setRun_of_leaves harr (touchPass_runQueues _ _ _ _ _ _ _ _ _ _ _)) (tile_t r t)
    · rw [if_neg (ne_true_of_eq_false hopen), if_neg (ne_true_of_eq_false hopen)]
      have hcold := hkind.resolve_left (ne_true_of_eq_false hopen)
      exact answers_of_endDrain (becomes_work rfl hwork (hnarrow hread hopen hcold)) (hqueue _)
        (mem_runQueues_setRun_of_leaves harr (touchPass_runQueues _ _ _ _ _ _ _ _ _ _ _)) (tile_t r t)

end Sys2Proof

/-! SUPPORT. A descriptor's start: its entry in the journal and in the journal region, and the counts of an array operation (R108, R206, R490). -/

namespace Sys2Proof.Machine

/-! ### Lines that become free bytes (R300, R302, R490) -/

theorem xorNats_length_le (a b : List Nat) : (xorNats a b).length ≤ a.length := by
  rw [xorNats, List.length_zipWith]
  exact Nat.min_le_left _ _

theorem shiftRows_length (back : Bool) (s : List Nat) : (shiftRows back s).length = 16 := by
  rw [shiftRows, List.length_map, List.length_range]

theorem aesEncrypt_length_le (keys : List (List Nat)) (b : List Nat) : (aesEncrypt keys b).length ≤ 16 :=
  (xorNats_length_le _ _).trans (shiftRows_length _ _).le

theorem aesDecrypt_length_le (keys : List (List Nat)) (b : List Nat) : (aesDecrypt keys b).length ≤ 16 := by
  refine (xorNats_length_le _ _).trans ?_
  rw [List.length_map, shiftRows_length]

theorem xtsBlocks_length_le (enc : Bool) (keys : List (List Nat)) (n : Nat) (t d : List Nat) : (xtsBlocks enc keys n t d).length ≤ 16 * n := by
  induction n generalizing t d with
  | zero => exact Nat.le_refl _
  | succ n ih =>
    have hblock (x : List Nat) : (xorNats (if enc then aesEncrypt keys x else aesDecrypt keys x) t).length ≤ 16 := by
      refine (xorNats_length_le _ _).trans ?_
      split
      · exact aesEncrypt_length_le _ _
      · exact aesDecrypt_length_le _ _
    rw [xtsBlocks, List.length_append]
    have hx := hblock (xorNats (d.take 16) t)
    have hrest := ih (xtsNext t) (d.drop 16)
    omega

/-- Whole blocks come out no longer than they went in. -/
theorem xtsLine_length_le (enc : Bool) (key : Option Nat) (l : Nat) (bs : List Byte) : (xtsLine enc key l bs).length ≤ bs.length := by
  unfold xtsLine
  split
  · rw [xtsUnit, List.length_map]
    exact (xtsBlocks_length_le _ _ _ _ _).trans (Nat.mul_div_le _ _)
  · exact Nat.le_refl _

theorem bytes_length (p : Pkg) (a n : Nat) : (p.bytes a n).length = n := by rw [Pkg.bytes, List.length_map, List.length_range]

theorem lineHeld_length_le (p : Pkg) (r : Region) (l : Nat) : (p.lineHeld r l).length ≤ 256 := by
  unfold Pkg.lineHeld
  split
  · exact (xtsLine_length_le _ _ _ _).trans (bytes_length p l 256).le
  · exact (bytes_length p l 256).le

theorem lineClear_length_le (p : Pkg) (r : Region) (l : Nat) : (p.lineClear r l).length ≤ 256 := by
  unfold Pkg.lineClear
  split
  · exact (xtsLine_length_le _ _ _ _).trans (lineHeld_length_le p r l)
  · exact (bytes_length p l 256).le

/-- A line put under the keys of now changes no byte of another line. -/
theorem rekeyLine_byte (p : Pkg) (r : Region) {l a : Nat} (hl : 256 ∣ l) (ha : a / 256 * 256 ≠ l) : (p.rekeyLine r l).byte a = p.byte a := by
  have hclear : (p.setBytes l (p.lineClear r l)).byte a = p.byte a := by
    rw [byte_setBytes, if_neg]
    have hlen := lineClear_length_le p r l
    omega
  unfold Pkg.rekeyLine
  split
  · split
    · exact hclear
    · rfl
  · rfl

@[simp] theorem setBytes_reg (p : Pkg) (a : Nat) (bs : List Byte) (k : Nat) : (p.setBytes a bs).reg k = p.reg k := by
  induction bs generalizing p a with
  | nil => rfl
  | cons b bs ih => exact (ih _ _).trans rfl

theorem rekeyLine_reg (p : Pkg) (r : Region) (l k : Nat) : (p.rekeyLine r l).reg k = p.reg k := by
  unfold Pkg.rekeyLine
  split
  · split
    · exact setBytes_reg p l _ k
    · rfl
  · rfl

theorem freeBytes_reg (p : Pkg) (a n k : Nat) : (p.freeBytes a n).reg k = p.reg k := by
  refine (keeps_foldl (g := fun q : Pkg => q.reg k) (fun s i => ⟨?_⟩) ⟨rfl⟩).eq
  split
  · exact rekeyLine_reg s _ _ k
  · rfl

/-- The line of a byte of a range is one that the range touches. -/
theorem line_mem_linesOf {a n x : Nat} (ha : a ≤ x) (hn : x < a + n) : x / 256 * 256 ∈ linesOf a n := by
  rw [linesOf, if_neg (by omega)]
  have hlow : a / 256 ≤ x / 256 := Nat.div_le_div_right ha
  have hhigh : x / 256 ≤ (a + n - 1) / 256 := Nat.div_le_div_right (by omega)
  exact List.mem_map.2 ⟨x / 256 - a / 256, List.mem_range.2 (by omega), by rw [Nat.add_sub_cancel' hlow]⟩

/-- What each step of a fold over a list keeps, the fold keeps. -/
theorem keeps_foldl_mem {σ β α : Type} {g : σ → β} {b : β} {f : σ → α → σ} {l : List α} (h : ∀ s, ∀ x ∈ l, Keeps g (g s) (f s x)) {s : σ}
    (hs : Keeps g b s) : Keeps g b (l.foldl f s) := by
  induction l generalizing s with
  | nil => exact hs
  | cons x xs ih =>
    exact ih (fun s y hy => h s y (List.mem_cons_of_mem _ hy)) ⟨(h s x List.mem_cons_self).eq.trans hs.eq⟩

/-- Bytes that become free change no byte of a line that they do not touch. -/
theorem freeBytes_byte (p : Pkg) {a n x : Nat} (hx : x / 256 * 256 ∉ linesOf a n) : (p.freeBytes a n).byte x = p.byte x := by
  refine (keeps_foldl_mem (g := fun q : Pkg => q.byte x) (fun s i hi => ⟨?_⟩) ⟨rfl⟩).eq
  have hline : (a + i) / 256 * 256 ∈ linesOf a n := line_mem_linesOf (Nat.le_add_right a i) (Nat.add_lt_add_left (List.mem_range.1 hi) a)
  have hother : x / 256 * 256 ≠ (a + i) / 256 * 256 := (ne_of_mem_of_not_mem hline hx).symm
  split
  · rw [byte_setByte, if_neg (fun h => hother (by rw [h]))]
    exact rekeyLine_byte s _ (Nat.dvd_mul_left _ _) hother
  · rfl

/-! ### A descriptor enters the journal (R207, R490) -/

theorem journalBytes_reg (p : Pkg) (c off n k : Nat) : (p.journalBytes c off n).reg k = p.reg k := by
  unfold Pkg.journalBytes
  split
  · exact freeBytes_reg p _ n k
  · rfl

/-- A descriptor's entry takes its place in the journal region and no other line. -/
theorem journalBytes_byte (p : Pkg) {c x : Nat} (hx : x / 256 * 256 ∉ p.entryLines c) :
    (p.journalBytes c (1024 * (p.journalUsed c % 16)) 1024).byte x = p.byte x := by
  unfold Pkg.entryLines at hx
  unfold Pkg.journalBytes
  split
  · rename_i h
    rw [if_pos h] at hx
    exact freeBytes_byte p hx
  · rfl

/-- The dispatcher's note of a start is of its queues and contexts. -/
def Pkg.noteStart (p : Pkg) (r : Run) : Pkg :=
  ({ p with dsp := { p.dsp with lastOn := assocPut p.dsp.lastOn (16 * r.ctx + r.engine) r.queue } }).setCtxSt r.ctx
    { p.ctxSt r.ctx with blockedSince := none, stallNoticed := false }

theorem enterRun_eq (p : Pkg) (r : Run) : p.enterRun r =
    ((p.journalBytes r.ctx (1024 * (p.journalUsed r.ctx % 16)) 1024).addRun (p.slowed r.startBeat r)).noteStart r := rfl

theorem noteStart_runOf (p : Pkg) (r : Run) (k : Nat) : (p.noteStart r).runOf k = p.runOf k := rfl
theorem noteStart_reg (p : Pkg) (r : Run) (k : Nat) : (p.noteStart r).reg k = p.reg k := rfl
theorem noteStart_byte (p : Pkg) (r : Run) (a : Nat) : (p.noteStart r).byte a = p.byte a := rfl

theorem enterRun_reg (p : Pkg) (r : Run) (k : Nat) : (p.enterRun r).reg k = p.reg k := by
  rw [enterRun_eq, noteStart_reg]
  exact (addRun_reg _ _ k).trans (journalBytes_reg p _ _ _ k)

theorem enterRun_byte (p : Pkg) (r : Run) {a : Nat} (ha : a / 256 * 256 ∉ p.entryLines r.ctx) : (p.enterRun r).byte a = p.byte a := by
  rw [enterRun_eq, noteStart_byte]
  exact (addRun_byte _ _ a).trans (journalBytes_byte p ha)

/-- A stretched or throttled unit delays a run, and leaves what a delay leaves (R585, R591). -/
theorem slowed_keeps {β : Type} {g : Run → β} (hg : ∀ x b n, g (Run.delayBy x b n) = g x) (p : Pkg) (tag : Nat) (r : Run) : g (p.slowed tag r) = g r := by
  have hstretch : g (if p.on Reg.PWR_STATUS Fld.PWR_STRETCHED && r.stretches then r.delayBy tag 3 else r) = g r := by
    split
    · exact hg _ _ _
    · rfl
  unfold Pkg.slowed
  dsimp only
  split
  · exact (hg _ _ _).trans hstretch
  · exact hstretch

/-- A run whose queue has none enters under it. -/
theorem enterRun_runOf {p : Pkg} {r : Run} (h : p.runOf r.queue = none) : (p.enterRun r).runOf r.queue = some (p.slowed r.startBeat r) := by
  have hqueue : (p.slowed r.startBeat r).queue = r.queue := slowed_keeps (g := Run.queue) (fun _ _ _ => rfl) p _ r
  have hnone : (p.journalBytes r.ctx (1024 * (p.journalUsed r.ctx % 16)) 1024).runOf (p.slowed r.startBeat r).queue = none := by
    rw [runOf_of_dsp (journalBytes_dsp p _ _ _), hqueue]
    exact h
  rw [enterRun_eq, noteStart_runOf, ← hqueue]
  exact runOf_addRun hnone

/-- The journal entry with which an array or coat descriptor starts: its image and its dies' reheat budget (R142, R191). -/
def Pkg.tileRun (p : Pkg) (e : Env) (q : Nat) (d : List Byte) (shares : List Nat) : Run :=
  { p.newRun e q d [] with image := p.imageOf (p.queueCtx q) d, shares := shares }

/-- A descriptor of tiles stands in its queue's entry. -/
theorem enterRun_tileRun {p : Pkg} {q : Nat} (h : p.runOf q = none) (e : Env) (d : List Byte) (shares : List Nat) :
    ∃ r, (p.enterRun (p.tileRun e q d shares)).runOf q = some r ∧ r.queue = q ∧ r.desc = d ∧ r.seq = p.head q ∧ r.ctx = p.queueCtx q ∧
      r.startBeat = e.tag ∧ r.finished = false ∧ r.image = p.imageOf (p.queueCtx q) d ∧ r.shares = shares ∧
      r.jclass = p.journalClass (p.queueCtx q) d ∧ r.reserved = p.clothLines (p.queueCtx q) d := by
  refine ⟨_, enterRun_runOf (r := p.tileRun e q d shares) h, ?_, ?_, ?_, ?_, ?_, ?_, ?_, ?_, ?_, ?_⟩
  · exact slowed_keeps (g := Run.queue) (fun _ _ _ => rfl) p _ _
  · exact slowed_keeps (g := Run.desc) (fun _ _ _ => rfl) p _ _
  · exact slowed_keeps (g := Run.seq) (fun _ _ _ => rfl) p _ _
  · exact slowed_keeps (g := Run.ctx) (fun _ _ _ => rfl) p _ _
  · exact slowed_keeps (g := Run.startBeat) (fun _ _ _ => rfl) p _ _
  · exact slowed_keeps (g := Run.finished) (fun _ _ _ => rfl) p _ _
  · exact slowed_keeps (g := Run.image) (fun _ _ _ => rfl) p _ _
  · exact slowed_keeps (g := Run.shares) (fun _ _ _ => rfl) p _ _
  · exact slowed_keeps (g := Run.jclass) (fun _ _ _ => rfl) p _ _
  · exact slowed_keeps (g := Run.reserved) (fun _ _ _ => rfl) p _ _

/-! ### An array operation's counts at its start (R108, R113) -/

section
variable (p : Pkg) (dies : List Nat) (tiles s : Nat)

/-- The counts of a start touch counters alone. -/
theorem countStart_keeps {β : Type} {g : Pkg → β}
    (hg : ∀ (q : Pkg), ∀ x ∈ dies, ∀ n, g (q.arrCount x (Reg.ARR_CNT_KSPLIT x) n) = g q ∧ g (q.arrCount x (Reg.ARR_CNT_BUSY x) n) = g q) :
    g (p.countStart dies tiles s) = g p := by
  refine (keeps_foldl_mem (g := g) (fun q x hx => ⟨?_⟩) ⟨rfl⟩).eq
  have hmem := List.mem_of_mem_take hx
  refine (hg _ x hmem _).2.trans ?_
  split
  · exact (hg q x hmem 1).1
  · rfl

theorem countStart_dsp : (p.countStart dies tiles s).dsp = p.dsp :=
  countStart_keeps p dies tiles s (g := Pkg.dsp) (fun q x _ n => ⟨arrCount_dsp q x _ n, arrCount_dsp q x _ n⟩)

theorem countStart_byte (a : Nat) : (p.countStart dies tiles s).byte a = p.byte a :=
  countStart_keeps p dies tiles s (g := fun q => q.byte a) (fun q _ _ n => ⟨bump_byte q _ _ _ n a, bump_byte q _ _ _ n a⟩)

theorem countStart_reg {k : Nat} (hk : k ∉ dies.flatMap (fun x => [Reg.ARR_CNT_KSPLIT x, Reg.ARR_CNT_BUSY x])) :
    (p.countStart dies tiles s).reg k = p.reg k := by
  refine countStart_keeps p dies tiles s (g := fun q => q.reg k) (fun q x hx n => ⟨arrCount_reg_ne q n ?_, arrCount_reg_ne q n ?_⟩)
  · exact fun h => hk (List.mem_flatMap.2 ⟨x, hx, by simp [h]⟩)
  · exact fun h => hk (List.mem_flatMap.2 ⟨x, hx, by simp [h]⟩)

end

/-! ### The dispatcher's start (R206, R207, R638) -/

/-- A descriptor that starts has no run yet (R206). -/
theorem runOf_of_startable {p : Pkg} {q : Nat} {d : List Byte} (h : p.startable q = some d) : p.runOf q = none := by
  have hhead : p.headDesc q ≠ none := by
    intro hnone
    rw [Pkg.startable, hnone] at h
    exact absurd h (by simp)
  cases hrun : p.runOf q with
  | none => rfl
  | some r => exact absurd (by simp [Pkg.headDesc, hrun]) hhead

section
variable {s : State} {q : Nat} {d : List Byte} {p : Pkg} (hstarts : s.Starts q d)
include hstarts

/-- A descriptor in order, whose lines were read whole, runs. -/
theorem start_of_starts {reads : List Byte → List (Nat × Nat)} (hreads : s.pkg.readAhead s.env (s.pkg.queueCtx q) (reads d) = (p, .ok))
    {mine : List Byte → Bool} (hmine : mine d = true) (body : Pkg → List Byte → Pkg) : s.pkg.start s.env q mine reads body = body p d := by
  unfold Pkg.start
  simp only [hstarts.next, hstarts.inTime, hstarts.ownBits, hmine, hreads, if_true, Bool.false_eq_true, if_false]

/-- The reads before a start leave its queue without a run. -/
theorem runOf_of_reads {i : Instr} (hreads : s.Reads i q d p) : p.runOf q = none := by
  have hqueues := (readAhead_runQueues s.pkg s.env (s.pkg.queueCtx q) (startReads s.pkg (s.pkg.queueCtx q) d i)).eq
  rw [State.Reads] at hreads
  rw [hreads] at hqueues
  rw [runOf_eq_none, hqueues, ← runOf_eq_none]
  exact runOf_of_startable hstarts.next

end

theorem orRun_none (p : Pkg) (e : Env) (q : Nat) (d : List Byte) {v : Verdict} (h : v = none) (k : Pkg) : p.orRun e q d v k = k := by rw [h]; rfl

theorem orRun_some (p : Pkg) (e : Env) (q : Nat) (d : List Byte) {v : Verdict} {x : Nat × Nat} (h : v = some x) (k : Pkg) :
    p.orRun e q d v k = p.completeHead e q d x.1 x.2 := by rw [h]; rfl

/-- What a command answers that enters a descriptor and counts its start. -/
theorem answers_of_enterRun {i : Instr} {s : State} {p y : Pkg} {q : Nat} {d : List Byte} {shares ks : List Nat} (hnone : p.runOf q = none)
    (hbec : Becomes i s y) (hdsp : y.dsp = (p.enterRun (p.tileRun s.env q d shares)).dsp)
    (hreg : ∀ k, k ∉ ks → y.reg k = (p.enterRun (p.tileRun s.env q d shares)).reg k)
    (hbyte : ∀ a, y.byte a = (p.enterRun (p.tileRun s.env q d shares)).byte a) :
    Answers i s (fun t => (∃ r, t.pkg.runOf q = some r ∧ r.queue = q ∧ r.desc = d ∧ r.seq = p.head q ∧ r.ctx = p.queueCtx q ∧
        r.startBeat = s.env.tag ∧ r.finished = false ∧ r.image = p.imageOf (p.queueCtx q) d ∧ r.shares = shares ∧
        r.jclass = p.journalClass (p.queueCtx q) d ∧ r.reserved = p.clothLines (p.queueCtx q) d) ∧
      KeepsRegs ks { s with pkg := p } t ∧ KeepsMemBut (p.entryLines (p.queueCtx q)) { s with pkg := p } t ∧ KeepsBlock s t) := by
  obtain ⟨r, hr, hrest⟩ := enterRun_tileRun hnone s.env d shares
  refine hbec.answers ⟨⟨r, (runOf_of_dsp hdsp q).trans hr, hrest⟩, fun k hk => ?_, fun a ha => ?_, lift_keeps s _⟩
  · exact (hreg k hk).trans (enterRun_reg p _ k)
  · exact (hbyte a).trans (enterRun_byte p (p.tileRun s.env q d shares) ha)

section
variable {s : State} {q : Fin 64} {d : List Byte} {p : Pkg} (hstarts : s.Starts q d)
include hstarts

/-- An array descriptor whose operands were read starts by its verdict (R107, R638). -/
theorem startArray_of_reads (hkind : dKind d = 0) (hreads : s.Reads (.arrayDescriptor q) q d p) :
    ∃ tiles split, startArray q s.env s.pkg = p.orRun s.env q d (p.arrayVerdict (p.queueCtx q) d)
      ((p.enterRun (p.tileRun s.env q d (budgetShares (p.partDies (p.queueCtx q)).length
        (quenchedTensors (p.tensors (p.queueCtx q) d (arrayHandles (dOp d))))))).countStart (p.partDies (p.queueCtx q)) tiles split) := by
  unfold startArray
  exact ⟨_, _, start_of_starts hstarts (reads := fun d => s.pkg.entryReads (s.pkg.queueCtx q) d (arrayHandles (dOp d))) hreads (by simp [hkind]) _⟩

/-- A coat descriptor whose operands were read starts by its verdict (R191, R638). -/
theorem startCoat_of_reads (hkind : dKind d = 1) (hreads : s.Reads (.coatDescriptor q) q d p) :
    startCoat q s.env s.pkg = p.orRun s.env q d (p.coatVerdict (p.queueCtx q) d)
      (p.enterRun (p.tileRun s.env q d (List.replicate (p.partDies (p.queueCtx q)).length 0))) := by
  unfold startCoat
  exact start_of_starts hstarts (reads := fun d => s.pkg.entryReads (s.pkg.queueCtx q) d (s.pkg.coatHandles (s.pkg.queueCtx q) d)) hreads
    (by simp [hkind]) _

end

end Sys2Proof.Machine

namespace Sys2Proof

open Machine

/-- Settles O20: the verdict decides, and one that passes enters its run; an array's start counts besides. -/
theorem arrayAndCoatStarts : Obligations.ArrayAndCoatStarts := by
  unfold Obligations.ArrayAndCoatStarts
  intro s q d p hstarts
  have hwork := hstarts.working
  refine ⟨fun hkind hreads => ?_, fun hkind hreads => ?_⟩
  · obtain ⟨tiles, split, heq⟩ := startArray_of_reads hstarts hkind hreads
    refine ⟨fun hpass => ?_, fun x hfail => becomes_work rfl hwork (heq.trans (orRun_some p _ _ _ hfail _))⟩
    exact answers_of_enterRun (runOf_of_reads hstarts hreads) (becomes_work rfl hwork (heq.trans (orRun_none p _ _ _ hpass _)))
      (countStart_dsp _ _ _ _) (fun k hk => countStart_reg _ _ _ _ hk) (fun a => countStart_byte _ _ _ _ a)
  · have heq := startCoat_of_reads hstarts hkind hreads
    refine ⟨fun hpass => ?_, fun x hfail => becomes_work rfl hwork (heq.trans (orRun_some p _ _ _ hfail _))⟩
    exact answers_of_enterRun (runOf_of_reads hstarts hreads) (becomes_work rfl hwork (heq.trans (orRun_none p _ _ _ hpass _)))
      rfl (fun _ _ => rfl) (fun _ => rfl)

end Sys2Proof

/-! SUPPORT. The reheat decision of a narrow pass that is over threshold: it waits for the die's earlier tiles, then takes from the share or keeps the
narrow result (R138 to R145). -/

namespace Sys2Proof.Machine

/-! ### A tile taken for its reheat, and the order of the decisions (R138, R140, R142, R145) -/

/-- The die takes a tile for its reheat: the pass's cycles and the share are charged, and its narrow results and parts are dropped (R140, R142). -/
def Pkg.reheatTile (q : Pkg) (r : Run) (j : ArrayJob) (die t busy : Nat) (z : TileSt) : Pkg :=
  (q.arrCount die (Reg.ARR_CNT_BUSY die) busy).setRun
    ((r.chargeShare (j.rankOf t)).setTile { z with reheat := true, overT := true, attempts := 0, parts := [] })

theorem reheatTile_byte (q : Pkg) (r : Run) (j : ArrayJob) (die t busy : Nat) (z : TileSt) (a : Nat) :
    (q.reheatTile r j die t busy z).byte a = q.byte a :=
  bump_byte q _ _ _ _ a

/-- The decision about a tile over threshold: nothing happens before every earlier tile of its die is settled, then `q` reheats it out of the share, and
with the share used up the outcome is `kept` (R142, R144, R145). -/
def Pkg.reheatInOrder (p q : Pkg) (r : Run) (j : ArrayJob) (die t busy : Nat) (z : TileSt) (kept : Pkg) : Pkg :=
  if !j.settled r t then p
  else if r.shares.getD (j.rankOf t) 0 != 0 then q.reheatTile r j die t busy z
  else kept

section
variable {p q : Pkg} {r : Run} {j : ArrayJob} {die t busy : Nat} {z : TileSt} {kept : Pkg}

theorem reheatInOrder_unsettled (h : j.settled r t = false) : p.reheatInOrder q r j die t busy z kept = p :=
  if_pos (by simp [h])

theorem reheatInOrder_room (h : j.settled r t = true) (hroom : r.shares.getD (j.rankOf t) 0 ≠ 0) :
    p.reheatInOrder q r j die t busy z kept = q.reheatTile r j die t busy z :=
  (if_neg (by simp [h])).trans (if_pos (bne_iff_ne.2 hroom))

theorem reheatInOrder_full (h : j.settled r t = true) (hfull : ¬ r.shares.getD (j.rankOf t) 0 ≠ 0) :
    p.reheatInOrder q r j die t busy z kept = kept :=
  (if_neg (by simp [h])).trans (if_neg (mt bne_iff_ne.1 hfull))

/-- The decision of a store quench, which asks for room before it asks for order, is the same. -/
theorem reheatInOrder_of_storeOver {hot heat clean : Bool} (hhot : hot = true) (hheat : heat = true) (hclean : clean = true) (keep : Bool → Pkg) :
    (if hot && heat && clean && (!j.settled r t || r.shares.getD (j.rankOf t) 0 != 0) then
      if !j.settled r t then p else q.reheatTile r j die t busy z
    else keep hot) = p.reheatInOrder q r j die t busy z (keep true) := by
  subst hhot hheat hclean
  unfold Pkg.reheatInOrder
  cases j.settled r t <;> rfl

theorem reheatTile_runOf (h : r.queue ∈ q.runQueues) : (q.reheatTile r j die t busy z).runOf r.queue =
    some ((r.chargeShare (j.rankOf t)).setTile { z with reheat := true, overT := true, attempts := 0, parts := [] }) := by
  refine runOf_setRun (r := (r.chargeShare (j.rankOf t)).setTile _) ?_
  rw [runQueues_of_dsp (arrCount_dsp q die _ busy)]
  exact h

/-- What a command answers that decides about a tile over threshold. -/
theorem answers_of_reheatInOrder {c : Instr} {s : State} {p1 : Pkg} {k : Nat} (hbec : Becomes c s (p.reheatInOrder q r j die t busy z kept))
    (hk : r.queue = k) (hmem : k ∈ q.runQueues) (hbyte : ∀ a, q.byte a = p1.byte a) :
    (j.settled r t = false → Becomes c s p) ∧
    (j.settled r t = true → r.shares.getD (j.rankOf t) 0 ≠ 0 → Answers c s (fun u =>
      u.pkg.runOf k = some ((r.chargeShare (j.rankOf t)).setTile { z with reheat := true, overT := true, attempts := 0, parts := [] }) ∧
      KeepsMem { s with pkg := p1 } u ∧ KeepsBlock s u)) ∧
    (j.settled r t = true → ¬ r.shares.getD (j.rankOf t) 0 ≠ 0 → Becomes c s kept) := by
  subst hk
  refine ⟨fun hopen => ?_, fun hsettled hroom => ?_, fun hsettled hfull => ?_⟩
  · rwa [reheatInOrder_unsettled hopen] at hbec
  · rw [reheatInOrder_room hsettled hroom] at hbec
    exact hbec.answers ⟨reheatTile_runOf hmem, fun a => (reheatTile_byte q r j die t busy z a).trans (hbyte a), lift_keeps s _⟩
  · rwa [reheatInOrder_full hsettled hfull] at hbec

end

/-- The counts of a drain touch registers alone. -/
theorem countDrain_dsp (p : Pkg) (die : Nat) (im : Option CoatImage) : (p.countDrain die im).dsp = p.dsp :=
  (bump_dsp _ _ _ _ _).trans (bump_dsp _ _ _ _ _)

theorem countDrain_byte (p : Pkg) (die : Nat) (im : Option CoatImage) (a : Nat) : (p.countDrain die im).byte a = p.byte a :=
  (bump_byte _ _ _ _ _ a).trans (bump_byte _ _ _ _ _ a)

/-! ### A narrow pass over threshold, by its edge quench or by its store quench (R134, R138, R140) -/

section
variable {p : Pkg} {die t : Nat} {r : Run} (harr : p.arrayRun die 0 = some r) (e : Env) (hdue : p.tileDue r die t)
variable (hnarrow : (r.tile t).reheat = false) (hheat : (p.arrayJob r).reheatable = true)
include harr hdue hnarrow hheat

/-- Edge quench decides before the drain; store quench decides on a drain that did not trap, with the counts and flags of both. -/
theorem tileCommit_over :
    let j := p.arrayJob r
    let x := r.tile t
    let k0 := if j.s > 1 then (ksplitPart j.k j.s 0).2 else j.k
    let pl := j.place t
    let rd := p.touchPass e (.descriptor r.queue) j (r.origin 0 pl.iter) (r.origin 1 pl.iter) (r.origin 3 pl.iter) pl 0 k0 true
    let r1 := r.readOutcome e rd.2
    let p1 := rd.1.setRun r1
    let o := p1.narrowOf r1 j t
    let f := j.factor .narrow (p1.tensorScale j.a) (p1.tensorScale j.b)
    let ds := p1.drainStores r1 j die t o.accum f
    let y : TileSt := { x with arrFlags := x.arrFlags ||| o.flags, sats := o.sats, flushes := o.flushes, overT := o.overT }
    let busy := j.cycles .narrow k0 o.spread
    rd.2 ≠ .failed →
      (o.overT = true → tileCommit die t none e p =
        p.reheatInOrder p1 r1 j die t busy y (p1.endDrain e r1 j die t y o.accum f ds busy o.spread true)) ∧
      (o.overT = false → storeOver j.c ds.2 = true → ds.1.traps = [] → tileCommit die t none e p =
        p.reheatInOrder (p1.countDrain die r.image) r1 j die t busy
          { y with arrFlags := y.arrFlags ||| ds.2.qflags, coatFlags := ds.1.flags ||| ds.2.flags,
                   sats := y.sats + ds.2.sats, flushes := y.flushes + ds.2.flushes }
          (p1.endDrain e r1 j die t { y with overT := true } o.accum f ds busy o.spread true)) := by
  intro j x k0
  have hk0 : (if j.s > 1 && !x.reheat then (ksplitPart j.k j.s 0).2 else j.k) = k0 := by simp [k0, x, hnarrow]
  clear_value k0
  subst hk0
  intro pl rd r1 p1 o f ds y busy hread
  have hopen := ne_true_of_eq_false hnarrow
  have hworks := (tileDue_iff p r die t).1 hdue
  unfold tileCommit
  rw [harr]
  refine ⟨fun hedge => ?_, fun hcold hhot htraps => ?_⟩ <;> refine (if_neg hworks).trans ((if_neg hread).trans ((if_neg hopen).trans ?_))
  · exact if_pos (show (o.overT && j.reheatable) = true by simp [hedge, hheat, j])
  · refine (if_neg (show ¬(o.overT && j.reheatable) = true by simp [hcold])).trans ?_
    exact reheatInOrder_of_storeOver hhot hheat (List.isEmpty_iff.2 htraps)
      (fun hot => p1.endDrain e r1 j die t { y with overT := hot } o.accum f ds busy o.spread hot)

end

end Sys2Proof.Machine

namespace Sys2Proof

open Machine

/-- Settles O33: over threshold by edge quench or by store quench, the decision is `Pkg.reheatInOrder`, whose three outcomes are the statement's. -/
theorem reheatOrder : Obligations.ReheatOrder := by
  unfold Obligations.ReheatOrder
  intro s die t r hwork harr p e j x pl k0 rd r1 p1 o f ds y reheats room keeps hdie htile hopen hfree hturn hparts hnarrow hread hheat
  have hdue : s.pkg.tileDue r die t := ⟨hdie, htile, hopen, hfree, hturn, fun hsplit _ => hparts hsplit⟩
  obtain ⟨hedge, hstore⟩ := tileCommit_over harr s.env hdue hnarrow hheat hread
  have hqueue : r1.queue = r.queue := readOutcome_queue r s.env rd.2
  have hmem : r.queue ∈ p1.runQueues := mem_runQueues_setRun_of_leaves harr (touchPass_runQueues _ _ _ _ _ _ _ _ _ _ _)
  refine ⟨fun hover => ?_, fun hcold hhot htraps => ?_⟩
  · exact answers_of_reheatInOrder (becomes_work rfl hwork (hedge hover)) hqueue hmem (fun _ => rfl)
  · refine answers_of_reheatInOrder (becomes_work rfl hwork (hstore hcold hhot htraps)) hqueue ?_ (countDrain_byte p1 die r.image)
    rwa [runQueues_of_dsp (countDrain_dsp p1 die r.image)]

end Sys2Proof

/-! SUPPORT. Coat tiles: when a die takes one and what its status shows then, what a tile reads, and how it ends (R161, R168, R170, R171, R195). -/

namespace Sys2Proof.Machine

/-! ### A coat tile starts (R161, R171, Table 05-12) -/

theorem arrayRun_of_coatRun {p : Pkg} {die : Nat} {ri : Run × CoatImage} (h : p.coatRun die = some ri) : p.arrayRun die 1 = some ri.1 := by
  unfold Pkg.coatRun at h
  split at h
  · rename_i r hrun
    split at h
    · exact hrun.trans (congrArg (fun x => some (Prod.fst x)) (Option.some.inj h))
    · exact absurd h (Option.some_ne_none ri).symm
  · exact absurd h (Option.some_ne_none ri).symm

/-- An array works on no stopped run. -/
theorem stopped_of_arrayRun {p : Pkg} {die kind : Nat} {r : Run} (h : p.arrayRun die kind = some r) : r.stopped = false := by
  unfold Pkg.arrayRun at h
  split at h
  · have hfound := List.find?_some h
    simp only [Bool.and_eq_true, Bool.not_eq_true'] at hfound
    exact hfound.1.2
  · exact absurd h (Option.some_ne_none r).symm

/-- The status of a die with a tile of a run that goes on shows the run's program, its context and state 2. -/
theorem coatStatus_of_tile {p : Pkg} {die : Nat} {n : CoatNow} {r : Run} (hnow : assoc? p.coatNow die = some n) (hrun : p.runOf n.queue = some r)
    (hgoes : r.stopped = false) (e : Env) (w : W64) :
    getField (p.coatStatus e die w) Fld.COAT_CUR_PROG = bitsOf (dOp r.desc) 15 8 % 256 ∧ getField (p.coatStatus e die w) Fld.COAT_STATE = 2 ∧
    getField (p.coatStatus e die w) Fld.COAT_CTX = r.ctx % 8 := by
  have hshown : p.coatStatus e die w =
      setField (setField (setField w Fld.COAT_CUR_PROG (bitsOf (dOp r.desc) 15 8)) Fld.COAT_CTX r.ctx) Fld.COAT_STATE 2 := by
    simp only [Pkg.coatStatus, hnow, hrun, hgoes]
    rfl
  rw [hshown]
  refine ⟨?_, getField_setField_same _ _ _ (by decide), ?_⟩
  · rw [getField_setField_ne _ _ _ _ (by decide) (by decide), getField_setField_ne _ _ _ _ (by decide) (by decide)]
    exact getField_setField_same _ _ _ (by decide)
  · rw [getField_setField_ne _ _ _ _ (by decide) (by decide)]
    exact getField_setField_same _ _ _ (by decide)

section
variable {p : Pkg} {die : Nat} {ri : Run × CoatImage} (hcoat : p.coatRun die = some ri) (e : Env) {t : Nat}
include hcoat

/-- An idle die takes the next tile of its own, with its latency-check mode (R161, R171). -/
theorem coatTileStart_idle (hidle : assoc? p.coatNow die = none) (hdie : p.coatDie ri.1 t = die) (htile : t < dIters ri.1.desc * coatTilesOf ri.1.coatOut)
    (hopen : (ri.1.tile t).committed = false) (hfree : p.tilesHeld die = false) (hturn : ri.1.coatTurn t = true) : coatTileStart die t e p =
      { p with coatNow := assocPut p.coatNow die ⟨ri.1.queue, t, p.on (Reg.COAT_CTRL die) Fld.COAT_LATCHK⟩ } := by
  unfold coatTileStart
  rw [hcoat]
  refine if_neg ?_
  simp [hidle, hdie, hopen, hfree, hturn, htile]

/-- A die with a tile takes no other. -/
theorem coatTileStart_busy {n : CoatNow} (hbusy : assoc? p.coatNow die = some n) : coatTileStart die t e p = p := by
  unfold coatTileStart
  rw [hcoat]
  refine if_pos ?_
  simp [hbusy]

/-- A tile whose turn has not come stays (R222). -/
theorem coatTileStart_early (hearly : ri.1.coatTurn t = false) : coatTileStart die t e p = p := by
  unfold coatTileStart
  rw [hcoat]
  refine if_pos ?_
  simp [hearly]

end

/-! ### What a coat tile reads (R176, R289) -/

theorem touchCoat_runQueues (p : Pkg) (e : Env) (u : MemUser) (t : Tensor) (org : List Int) (pl : CoatPlace) :
    Leaves Pkg.runQueues p.runQueues (p.touchCoat e u t org pl) := by
  unfold Pkg.touchCoat
  refine keeps_foldl (fun s i => leaves_mk ?_ _) (leaves_mk rfl _)
  have hrow (a n : Nat) : Leaves Pkg.runQueues s.1.runQueues (s.1.touchRange e u a n) := touchRange_runQueues s.1 e u a n
  exact (keeps_ite (leaves_trans (hrow _ _) (touchRange_runQueues _ e u _ _)) (leaves_mk (hrow _ _).eq _)).eq

/-- The inputs of a tile, read one after another, leave the journal's queues. -/
theorem touchCoats_runQueues (p : Pkg) (e : Env) (u : MemUser) (t : Nat → Tensor) (org : Nat → List Int) (pl : CoatPlace) (hs : List Nat) :
    Leaves Pkg.runQueues p.runQueues (hs.foldl (fun (st : Pkg × LineOutcome) h =>
      let y := st.1.touchCoat e u (t h) (org h) pl
      (y.1, st.2.join y.2)) (p, LineOutcome.ok)) :=
  keeps_foldl (fun s h => leaves_mk (touchCoat_runQueues s.1 e u (t h) (org h) pl).eq _) (leaves_mk rfl _)

/-! ### The ends of a coat tile (R168, R170, R195) -/

section
variable {p : Pkg} {die : Nat} {ri : Run × CoatImage} {n : CoatNow} {t : Nat} (hcoat : p.coatRun die = some ri) (e : Env)
variable (hnow : assoc? p.coatNow die = some n) (htile : n.t = t) (hqueue : n.queue = ri.1.queue) (hfree : p.tilesHeld die = false)
include hcoat hnow htile hqueue hfree

/-- A failed check replays the tile from its inputs (R195). -/
theorem coatTileCommit_failed (fl : CheckFail) : coatTileCommit die t (some fl) e p =
    (p.coatIdle die).failTile e ri.1 die t fl (ri.1.tile t).attempts
      (fun u => u.setTile { u.tile t with attempts := (u.tile t).attempts + 1 }) := by
  unfold coatTileCommit
  rw [hcoat, hnow]
  exact if_neg (by simp [htile, hqueue, hfree])

/-- A tile that met no failed check reads its inputs, and then traps or commits (R168, R170). -/
theorem coatTileCommit_passed :
    let r := ri.1
    let pl := coatPlace r.coatOut t
    let rd := ([0, 1].filter ri.2.readsInput).foldl (fun (st : Pkg × LineOutcome) h =>
      let y := st.1.touchCoat e (.descriptor r.queue) (r.tensor h) (r.origin h pl.iter) pl
      (y.1, st.2.join y.2)) (p, LineOutcome.ok)
    let r1 := r.readOutcome e rd.2
    let p1 := rd.1.setRun r1
    let inputs := [0, 1].map (fun h => if ri.2.readsInput h then
      coatInput (r.tensor h) (p1.tensorScale (r.tensor h)) (p1.inputByte r1 false) (r.origin h pl.iter) pl else [])
    let view : TileView := { rows := pl.rows, cols := pl.lanes, banks := [], unit0 := 0, unit1 := 0, factor := .fin false 1 1,
                             level := p1.numLevel, inputs := inputs }
    let dr := drainTile (some ri.2) view false n.latchk
    let p2 := p1.countDrain die (some ri.2)
    let s2 := p2.coatStores r1 ri.2 pl 2 p2.free dr.stores
    let s3 := p2.coatStores r1 ri.2 pl 3 (p2.free + s2.free) dr.stores
    (rd.2 = .failed → coatTileCommit die t none e p = (rd.1.coatIdle die).setRun r1) ∧
    (rd.2 ≠ .failed → dr.traps ≠ [] → coatTileCommit die t none e p = p2.trapTile e r1 die t (bitsOf (dOp r.desc) 15 8) dr.traps) ∧
    (rd.2 ≠ .failed → dr.traps = [] → coatTileCommit die t none e p =
      ((p2.drawFree (s2.free + s3.free)).2).commitCoat e r1 die t dr.flags s2 s3) := by
  intro r pl rd r1 p1 inputs view dr p2 s2 s3
  have hworks : ¬(n.t ≠ t ∨ n.queue ≠ ri.1.queue ∨ p.tilesHeld die) := by simp [htile, hqueue, hfree]
  unfold coatTileCommit
  rw [hcoat, hnow]
  refine ⟨fun hread => ?_, fun hread htraps => ?_, fun hread htraps => ?_⟩ <;> refine (if_neg hworks).trans ?_
  · exact if_pos hread
  · exact (if_neg hread).trans (if_pos (show (!dr.traps.isEmpty) = true by simpa using htraps))
  · exact (if_neg hread).trans (if_neg (show ¬(!dr.traps.isEmpty) = true by simp [htraps]))

end

/-! ### What a coat tile's commit makes of the run and the die (R117, R168, R186) -/

theorem assoc_assocDrop {α : Type} (m : List (Nat × α)) (k : Nat) : assoc? (assocDrop m k) k = none := by
  rw [assoc?, assocDrop, Option.map_eq_none_iff, List.find?_eq_none]
  intro x hx
  simpa using (List.mem_filter.1 hx).2

/-- The run of a committed coat tile: its record, the die's stage record, the run's flags and counts, and the status of a kept result. -/
def Run.withCoatTile (r : Run) (e : Env) (die : Nat) (x : TileSt) (flags : Nat) (s2 s3 : StoreOut) (kept : Bool) : Run :=
  let arrF := s2.qflags ||| s3.qflags
  let coatF := flags ||| s2.flags ||| s3.flags
  let k := if kept then 1 else 0
  let stg := r.stageOf die
  let r1 := (r.setTile { x with committed := true, overT := kept, arrFlags := arrF, coatFlags := coatF }).setStage
    { stg with sats := stg.sats + s2.sats + s3.sats, flushes := stg.flushes + s2.flushes + s3.flushes, kept := stg.kept + k }
  let r2 : Run := { r1 with
    flags := r1.flags ||| arrF ||| coatF, endBeat := e.tag, kept := r1.kept + k
    qcause := r1.qcause ||| (if kept then 2 else 0) }
  if kept then r2.raise e.tag 0x20 else r2

section
variable (r : Run) (e : Env) (die : Nat) (x : TileSt) (flags : Nat) (s2 s3 : StoreOut) (kept : Bool)

theorem withCoatTile_queue : (r.withCoatTile e die x flags s2 s3 kept).queue = r.queue := by
  cases kept <;> rfl

theorem withCoatTile_tiles : (r.withCoatTile e die x flags s2 s3 kept).tiles = (r.setTile { x with
    committed := true, overT := kept, arrFlags := s2.qflags ||| s3.qflags, coatFlags := flags ||| s2.flags ||| s3.flags }).tiles := by
  cases kept <;> rfl

theorem withCoatTile_committed : ((r.withCoatTile e die x flags s2 s3 kept).tile x.t).committed = true := by
  rw [tile_of_tiles (withCoatTile_tiles r e die x flags s2 s3 kept)]
  exact congrArg TileSt.committed (tile_setTile r { x with
    committed := true, overT := kept, arrFlags := s2.qflags ||| s3.qflags, coatFlags := flags ||| s2.flags ||| s3.flags })

end

section
variable {p : Pkg} (e : Env) (r : Run) (die t flags : Nat) (s2 s3 : StoreOut)
variable (hmask : p.segsMasked (segmentsOf s2.bytes ++ segmentsOf s3.bytes) = false)
include hmask

/-- With no page of its outputs masked a tile is stored, and the die is idle again. -/
theorem commitCoat_unmasked :
    let w := p.writeOutputs e r t [(2, segmentsOf s2.bytes), (3, segmentsOf s3.bytes)]
    let r3 := w.2.withCoatTile e die (w.2.tile t) flags s2 s3 (storeOver (r.tensor 2) s2 || storeOver (r.tensor 3) s3)
    let y := w.1.applyIncs r3 (r3.tiles.length + 1)
    p.commitCoat e r die t flags s2 s3 =
      (((y.1.setRun (y.2.closeIf e (dIters r.desc * coatTilesOf r.coatOut) (fun _ => false))).commitArrFlags die r.ctx (s2.qflags ||| s3.qflags)).commitCoatFlags
        die r.ctx (flags ||| s2.flags ||| s3.flags)).coatIdle die := by
  intro w r3 y
  unfold Pkg.commitCoat
  exact if_neg (ne_true_of_eq_false hmask)

theorem commitCoat_coatNow : assoc? (p.commitCoat e r die t flags s2 s3).coatNow die = none := by
  rw [commitCoat_unmasked e r die t flags s2 s3 hmask]
  exact assoc_assocDrop _ _

/-- A coat tile that commits is committed in its queue's run. -/
theorem commitCoat_runOf (h : r.queue ∈ p.runQueues) :
    ∃ y, (p.commitCoat e r die t flags s2 s3).runOf r.queue = some y ∧ (y.tile t).committed = true := by
  have hw := writeOutputs_runQueues p e r t [(2, segmentsOf s2.bytes), (3, segmentsOf s3.bytes)]
  have hwq := writeOutputs_queue p e r t [(2, segmentsOf s2.bytes), (3, segmentsOf s3.bytes)]
  rw [commitCoat_unmasked e r die t flags s2 s3 hmask]
  generalize p.writeOutputs e r t [(2, segmentsOf s2.bytes), (3, segmentsOf s3.bytes)] = w at hw hwq ⊢
  generalize (storeOver (r.tensor 2) s2 || storeOver (r.tensor 3) s3) = kept
  have hcommitted := withCoatTile_committed w.2 e die (w.2.tile t) flags s2 s3 kept
  have hqueue := withCoatTile_queue w.2 e die (w.2.tile t) flags s2 s3 kept
  rw [tile_t] at hcommitted
  generalize w.2.withCoatTile e die (w.2.tile t) flags s2 s3 kept = r3 at hcommitted hqueue ⊢
  obtain ⟨hdsp, hincs, htiles⟩ := applyIncs_keeps (r3.tiles.length + 1) w.1 r3
  generalize w.1.applyIncs r3 (r3.tiles.length + 1) = y at hdsp hincs htiles ⊢
  generalize hclosed : y.2.closeIf e (dIters r.desc * coatTilesOf r.coatOut) (fun _ => false) = r4
  have hr4 : r4.queue = r.queue := by rw [← hclosed, closeIf_queue, hincs, hqueue, hwq]
  refine ⟨r4, ?_, ?_⟩
  · refine (runOf_of_dsp ((commitFlags_dsp _ _ _).trans (commitFlags_dsp _ _ _)) r.queue).trans ?_
    rw [← hr4]
    refine runOf_setRun ?_
    rw [runQueues_of_dsp hdsp, hw, hr4]
    exact h
  · rwa [← hclosed, tile_of_tiles ((closeIf_tiles _ _ _ _).trans htiles)]

end

/-- What a command answers that commits a coat tile's outputs, none of them on a masked page (R117, R168). -/
theorem answers_of_commitCoat {c : Instr} {s : State} {p : Pkg} {e : Env} {r : Run} {die t flags free k : Nat} {s2 s3 : StoreOut}
    (hbec : Becomes c s (((p.drawFree free).2).commitCoat e r die t flags s2 s3)) (hk : r.queue = k) (hmem : k ∈ p.runQueues)
    (hmask : p.segsMasked (segmentsOf s2.bytes ++ segmentsOf s3.bytes) = false) :
    Answers c s (fun u => assoc? u.pkg.coatNow die = none ∧ ∃ y, u.pkg.runOf k = some y ∧ (y.tile t).committed = true) := by
  subst hk
  have hdrawn : ((p.drawFree free).2).segsMasked (segmentsOf s2.bytes ++ segmentsOf s3.bytes) = false := hmask
  exact hbec.answers ⟨commitCoat_coatNow e r die t flags s2 s3 hdrawn, commitCoat_runOf e r die t flags s2 s3 hdrawn hmem⟩

end Sys2Proof.Machine

namespace Sys2Proof

open Machine

/-- Settles O35: a start takes the tile or changes nothing, and a tile's end is one of the ends of `coatTileCommit`; the commit leaves the die idle and the
tile committed in its queue's run. -/
theorem coatTiles : Obligations.CoatTiles := by
  unfold Obligations.CoatTiles
  intro s die t ri hwork hcoat hfree
  have harr := arrayRun_of_coatRun hcoat
  refine ⟨fun hidle hdie htile hopen hturn => ?_, fun n hbusy => becomes_work rfl hwork (coatTileStart_busy hcoat s.env hbusy),
    fun hearly => becomes_work rfl hwork (coatTileStart_early hcoat s.env hearly), fun n hnow htile hqueue => ?_⟩
  · have hbec : Becomes (.coatTileStart die t) s _ := becomes_work rfl hwork (coatTileStart_idle hcoat s.env hidle hdie htile hopen hfree hturn)
    have htakes := assoc_assocPut s.pkg.coatNow die (CoatNow.mk ri.1.queue t (s.pkg.on (Reg.COAT_CTRL die) Fld.COAT_LATCHK))
    exact hbec.answers ⟨htakes, fun w hrun => coatStatus_of_tile htakes hrun (stopped_of_arrayRun harr) s.env w, fun _ _ => rfl, fun _ => rfl, lift_keeps s _⟩
  · obtain ⟨hunread, htrapped, hcommits⟩ := coatTileCommit_passed hcoat s.env hnow htile hqueue hfree
    refine ⟨fun fl => becomes_work rfl hwork (coatTileCommit_failed hcoat s.env hnow htile hqueue hfree fl),
      fun hread => becomes_work rfl hwork (hunread hread), fun hread htraps => becomes_work rfl hwork (htrapped hread htraps),
      fun hread htraps => becomes_work rfl hwork (hcommits hread htraps), fun hread htraps hmask => ?_⟩
    refine answers_of_commitCoat (becomes_work rfl hwork (hcommits hread htraps)) (readOutcome_queue _ _ _) ?_ hmask
    rw [runQueues_of_dsp (countDrain_dsp _ _ _), runQueues_setRun, (touchCoats_runQueues _ _ _ _ _ _ _).eq]
    exact mem_runQueues_of_arrayRun harr

end Sys2Proof

/-! SUPPORT. Doorbells: the write of a queue's pointer that is taken, and the one that is refused (R31, R202). -/

namespace Sys2Proof.Machine

/-! ### A write of a pointer (R31, R202) -/

/-- The package with another list of the beat's register writes. -/
def Pkg.withCycle (p : Pkg) (cy : List CycleWrite) : Pkg := { p with cycle := cy }

/-- A doorbell that no write of a higher-numbered die bars acts with the value's low 32 bits. -/
theorem bell_of_calm {p : Pkg} {src : Source} {key : Nat} (h : p.calm (sourceDie src key) key = true) (value : Nat) (act : Nat → Pkg → Pkg) :
    ∃ cy, p.bell src key value act = (act (value % 2 ^ 32) p).withCycle cy := by
  have hlow : (BitVec.ofNat 64 (value % 2 ^ 32)).toNat % 2 ^ 32 = value % 2 ^ 32 := by
    rw [BitVec.toNat_ofNat]
    omega
  rw [Pkg.bell, inOrder_of_calm h, hlow]
  exact ⟨_, rfl⟩

/-- A range of R202 where the claim of completed descriptors exceeds those begun. -/
abbrev claims (chead head : Nat) : Prop := 1 ≤ seqDiff chead head ∧ seqDiff chead head < 2 ^ 31

/-- The ranges of a TAIL: behind CHEAD by the ring at most, not behind HEAD, and of a disabled queue CHEAD in order too. -/
theorem bellOk_tail_iff (slots tail chead head : Nat) (anyOf : Bool) : bellOk slots tail chead head true anyOf = true ↔
    seqDiff tail chead ≤ slots ∧ seqDiff tail head < 2 ^ 31 ∧ (anyOf = true → ¬claims chead head) := by
  cases anyOf <;> simp [bellOk, claims, and_assoc, -not_and, not_and_or]

/-- The ranges of a CHEAD or a HEAD: no claim past HEAD, and of a disabled queue TAIL in order too. -/
theorem bellOk_head_iff (slots tail chead head : Nat) (anyOf : Bool) : bellOk slots tail chead head false anyOf = true ↔
    (anyOf = true → seqDiff tail head < 2 ^ 31) ∧ ¬claims chead head := by
  cases anyOf <;> simp [bellOk, claims, -not_and, not_and_or]

/-- What a command answers that sets a pointer of 32 bits and else changes the dispatcher's notes alone. -/
theorem answers_of_pointer {c : Instr} {s : State} {y : Pkg} {k v : Nat} (hbec : Becomes c s y) (hregs : y.regs = (s.pkg.setNat k (v % 2 ^ 32)).regs)
    (hmem : y.mem = s.pkg.mem) (hraised : y.raised = s.pkg.raised) :
    Answers c s (fun t => t.pkg.regNat k = v % 2 ^ 32 ∧ KeepsRegs [k] s t ∧ KeepsMem s t ∧ KeepsBlock s t ∧ Logs s t s.pkg.raised) := by
  have hreg (j : Nat) : y.reg j = (s.pkg.setNat k (v % 2 ^ 32)).reg j := reg_of_regs hregs j
  refine hbec.answers ⟨?_, fun j hj => (hreg j).trans (setNat_reg_ne _ _ _ _ (by simpa using hj)), fun a => ?_, lift_keeps s _, ?_⟩
  · rw [lift_regNat, regNat_eq, hreg, setNat_eq, reg_setReg, if_pos rfl, BitVec.toNat_ofNat]
    omega
  · rw [lift_byte, Pkg.byte, hmem]
    rfl
  · rw [← hraised]
    rfl

/-- The mailboxes' bindings stand above every register of an array die, so that a write there changes no principal (R10, R559). -/
theorem accessor_setReg {k : Nat} (hk : k < 0xf0a00000) (p : Pkg) (w : W64) (src : Source) : (p.setReg k w).accessor src = p.accessor src := by
  have hbound (m : Nat) : (p.setReg k w).reg (Reg.MGT_MB_BIND m) = p.reg (Reg.MGT_MB_BIND m) := by
    rw [reg_setReg, if_neg]
    simp only [Reg.MGT_MB_BIND]
    omega
  have hbind (m : Nat) : (p.setReg k w).bindNames m src = p.bindNames m src := by simp only [Pkg.bindNames, on_eq, fld_eq, hbound]
  have hprincipal : (p.setReg k w).principalOf src = p.principalOf src := by simp only [Pkg.principalOf, hbind]
  simp only [Pkg.accessor, hprincipal, Pkg.mbRole, Pkg.mbPart, fld_eq, hbound]

/-- What a command answers that refuses a doorbell (R202). -/
theorem answers_of_refuseBell {c : Instr} {s : State} {src : Source} {q : Fin 64} {k v : Nat} {cy : List CycleWrite}
    (hbec : Becomes c s ((s.pkg.refuseBell src q k v).withCycle cy)) :
    Answers c s (fun t => t.pkg.on (Reg.DSP_QSTATUS q) Fld.DSP_Q_DBERR = true ∧ KeepsRegs [Reg.DSP_QSTATUS q] s t ∧ KeepsMem s t ∧ KeepsBlock s t ∧
      t.pkg.dsp = s.pkg.dsp ∧
      Logs s t (s.pkg.raised ++ [⟨false, s.pkg.leadDie (s.pkg.queueCtx q), 0, 0, 3, 3, padTo 28 (s.pkg.accessor src ++ leBytes 8 k ++ leBytes 8 v)⟩])) := by
  have hreg (j : Nat) : (s.pkg.refuseBell src q k v).reg j = (s.pkg.setFld (Reg.DSP_QSTATUS q) Fld.DSP_Q_DBERR 1).reg j :=
    refuse_reg _ _ 3 src k v j (by decide)
  have hbyte (a : Nat) : (s.pkg.refuseBell src q k v).byte a = s.pkg.byte a := by
    rw [Pkg.refuseBell, refuse_byte, setFld_byte]
  refine hbec.answers ⟨?_, fun j hj => (hreg j).trans (setFld_reg_ne _ _ _ _ _ (by simpa using hj)), hbyte, lift_keeps s _, rfl, ?_⟩
  · show (getField ((s.pkg.refuseBell src q k v).reg _) _ == 1) = true
    rw [hreg]
    exact on_setFld_one _ _ _ (by decide) (by decide)
  · have hlow : Reg.DSP_QSTATUS q < 0xf0a00000 := by
      simp only [Reg.DSP_QSTATUS]
      omega
    rw [← accessor_setReg hlow s.pkg (setField (s.pkg.reg (Reg.DSP_QSTATUS q)) Fld.DSP_Q_DBERR 1)]
    exact congrArg (fun rs => s.log.beatBuf ++ rs.map (fun r => (s.clock.beat + 1, r))) (refuse_raised _ _ 3 src k v (by decide))

/-! ### The three doorbells (R202, R239) -/

section
variable {s : State} {src : Source} (hwork : s.pkg.working = true) (hreach : s.pkg.reaches src = true) (q : Fin 64) (value : Nat)
include hwork hreach

/-- A doorbell's command acts on the queue's pointer in the order of its cycle. -/
theorem becomes_tailDoorbell (hfirst : s.pkg.calm (sourceDie src (Reg.DSP_QTAIL q)) (Reg.DSP_QTAIL q) = true) :
    ∃ cy, Becomes (.tailDoorbell src q value) s ((tailBell src q (value % 2 ^ 32) s.env s.pkg).withCycle cy) := by
  obtain ⟨cy, heq⟩ := bell_of_calm hfirst value (fun v p => tailBell src q v s.env p)
  exact ⟨cy, becomes_work (if_pos hreach) hwork heq⟩

theorem becomes_headDoorbell (hfirst : s.pkg.calm (sourceDie src (Reg.DSP_QCHEAD q)) (Reg.DSP_QCHEAD q) = true) :
    ∃ cy, Becomes (.headDoorbell src q value) s ((headBell src q (value % 2 ^ 32) s.pkg).withCycle cy) := by
  obtain ⟨cy, heq⟩ := bell_of_calm hfirst value (fun v p => headBell src q v p)
  exact ⟨cy, becomes_work (if_pos hreach) hwork heq⟩

theorem becomes_qheadWrite (hfirst : s.pkg.calm (sourceDie src (Reg.DSP_QHEAD q)) (Reg.DSP_QHEAD q) = true) (hoff : s.pkg.queueEnabled q = false) :
    ∃ cy, Becomes (.qheadWrite src q value) s ((qheadBell src q (value % 2 ^ 32) s.pkg).withCycle cy) := by
  obtain ⟨cy, heq⟩ := bell_of_calm hfirst value (fun v p => qheadBell src q v p)
  exact ⟨cy, becomes_work (if_pos hreach) hwork ((if_neg (ne_true_of_eq_false hoff)).trans heq)⟩

end

/-- A doorbell restarts the wait-cycle count of its context (R234). -/
theorem restartCount_cycleCount (p : Pkg) (c : Nat) : ((p.restartCount c).ctxSt c).cycleCount = 0 := by
  rw [Pkg.restartCount, ctxSt_setCtxSt]

section
variable {src : Source} {q v : Nat} {p : Pkg}

theorem tailBell_taken {e : Env} (h : bellOk (p.ringSlots q) v (p.chead q) (p.head q) true (!p.queueEnabled q) = true) :
    tailBell src q v e p = ((p.setNat (Reg.DSP_QTAIL q) v).cover q v e.tag).restartCount (p.queueCtx q) := if_pos h

theorem tailBell_refused {e : Env} (h : ¬bellOk (p.ringSlots q) v (p.chead q) (p.head q) true (!p.queueEnabled q) = true) :
    tailBell src q v e p = p.refuseBell src q (Reg.DSP_QTAIL q) v := if_neg h

theorem headBell_taken (h : bellOk (p.ringSlots q) (p.tail q) v (p.head q) false (!p.queueEnabled q) = true) :
    headBell src q v p = (p.setNat (Reg.DSP_QCHEAD q) v).restartCount (p.queueCtx q) := if_pos h

theorem headBell_refused (h : ¬bellOk (p.ringSlots q) (p.tail q) v (p.head q) false (!p.queueEnabled q) = true) :
    headBell src q v p = p.refuseBell src q (Reg.DSP_QCHEAD q) v := if_neg h

theorem qheadBell_taken (h : bellOk (p.ringSlots q) (p.tail q) (p.chead q) v false true = true) :
    qheadBell src q v p = (p.setNat (Reg.DSP_QHEAD q) v).setQueueSt q { p.queueSt q with prefetch := none } := if_pos h

theorem qheadBell_refused (h : ¬bellOk (p.ringSlots q) (p.tail q) (p.chead q) v false true = true) :
    qheadBell src q v p = p.refuseBell src q (Reg.DSP_QHEAD q) v := if_neg h

end

end Sys2Proof.Machine

namespace Sys2Proof

open Machine

/-- Settles O7: in its ranges each doorbell is taken, by what `bellOk` asks of it. -/
theorem doorbellsTaken : Obligations.DoorbellsTaken := by
  unfold Obligations.DoorbellsTaken
  intro s src q value hwork hreach
  refine ⟨fun hfirst htail hclaims => ?_, fun hfirst hclaims htail => ?_, fun hfirst hoff htail hclaims => ?_,
    fun hon => becomes_work (if_pos hreach) hwork (if_pos hon)⟩
  · obtain ⟨cy, hbec⟩ := becomes_tailDoorbell hwork hreach q value hfirst
    obtain ⟨hring, hbehind⟩ := htail
    rw [tailBell_taken ((bellOk_tail_iff _ _ _ _ _).2 ⟨hring, hbehind, fun hoff => hclaims (by simpa using hoff)⟩)] at hbec
    exact ⟨answers_of_pointer hbec rfl rfl rfl, hbec.answers (restartCount_cycleCount _ _)⟩
  · obtain ⟨cy, hbec⟩ := becomes_headDoorbell hwork hreach q value hfirst
    rw [headBell_taken ((bellOk_head_iff _ _ _ _ _).2 ⟨fun hoff => htail (by simpa using hoff), hclaims⟩)] at hbec
    exact ⟨answers_of_pointer hbec rfl rfl rfl, hbec.answers (restartCount_cycleCount _ _)⟩
  · obtain ⟨cy, hbec⟩ := becomes_qheadWrite hwork hreach q value hfirst hoff
    rw [qheadBell_taken ((bellOk_head_iff _ _ _ _ _).2 ⟨fun _ => htail, hclaims⟩)] at hbec
    exact answers_of_pointer hbec rfl rfl rfl

/-- Settles O8: out of its ranges each doorbell is refused, and every refusal is alike. -/
theorem doorbellsRefused : Obligations.DoorbellsRefused := by
  unfold Obligations.DoorbellsRefused
  intro s src q value hwork hreach
  refine ⟨fun hfirst hbad => ?_, fun hfirst hbad => ?_, fun hfirst hoff hbad => ?_⟩
  · obtain ⟨cy, hbec⟩ := becomes_tailDoorbell hwork hreach q value hfirst
    rw [tailBell_refused (fun hok => ?_)] at hbec
    · exact answers_of_refuseBell hbec
    · obtain ⟨hring, hbehind, horder⟩ := (bellOk_tail_iff _ _ _ _ _).1 hok
      rcases hbad with hbad | hbad | ⟨hoff, hbad⟩
      · exact absurd hring (by omega)
      · exact absurd hbehind (by omega)
      · exact horder (by simpa using hoff) hbad
  · obtain ⟨cy, hbec⟩ := becomes_headDoorbell hwork hreach q value hfirst
    rw [headBell_refused (fun hok => ?_)] at hbec
    · exact answers_of_refuseBell hbec
    · obtain ⟨hbehind, hclaims⟩ := (bellOk_head_iff _ _ _ _ _).1 hok
      rcases hbad with hbad | ⟨hoff, hbad⟩
      · exact hclaims hbad
      · exact absurd (hbehind (by simpa using hoff)) (by omega)
  · obtain ⟨cy, hbec⟩ := becomes_qheadWrite hwork hreach q value hfirst hoff
    rw [qheadBell_refused (fun hok => ?_)] at hbec
    · exact answers_of_refuseBell hbec
    · obtain ⟨hbehind, hclaims⟩ := (bellOk_head_iff _ _ _ _ _).1 hok
      rcases hbad with hbad | hbad
      · exact absurd (hbehind rfl) (by omega)
      · exact hclaims hbad

end Sys2Proof

/-! SUPPORT. Queue control: enabling with the check of the rings, disabling, resuming and flushing (R203, R206, Table 06-17). -/

namespace Sys2Proof.Machine

/-! ### The ring report (R203) -/

theorem ringReport_reg (p : Pkg) (q detail addr k : Nat) : (p.ringReport q detail addr).reg k = p.reg k := by
  rw [Pkg.ringReport, raiseIrq_reg, record_reg]

theorem ringReport_byte (p : Pkg) (q detail addr a : Nat) : (p.ringReport q detail addr).byte a = p.byte a := by
  rw [Pkg.ringReport, raiseIrq_byte, record_byte]

/-- A ring fault raises the interrupt source of the queue's context. -/
theorem ringReport_irq (p : Pkg) (q detail addr : Nat) : ∃ m ∈ (p.ringReport q detail addr).irqs, m.src = 64 + p.queueCtx q :=
  raiseIrq_mem _ _ _ _

/-- The registers of a queue stand apart from one another. -/
theorem queueRegs_apart (q : Nat) : Reg.DSP_QCFG q ≠ Reg.DSP_QSTATUS q ∧ Reg.DSP_QCTRL q ≠ Reg.DSP_QSTATUS q ∧ Reg.DSP_QCFG q ≠ Reg.DSP_QCTRL q := by
  simp only [Reg.DSP_QCFG, Reg.DSP_QSTATUS, Reg.DSP_QCTRL]
  omega

/-- A queue's context stands in `DSP_QCFG` alone. -/
theorem queueCtx_of_reg {p y : Pkg} {q : Nat} (h : y.reg (Reg.DSP_QCFG q) = p.reg (Reg.DSP_QCFG q)) : y.queueCtx q = p.queueCtx q := by
  simp only [Pkg.queueCtx, fld_eq, h]

/-! ### Enabling a queue (R203) -/

section
variable {src : Source} {q : Nat} {e : Env} {p : Pkg}

theorem queueEnable_of_enabled (h : p.queueEnabled q = true) : queueEnable src q e p = p := if_pos h

theorem queueEnable_of_fault (h : p.queueEnabled q = false) {a : Nat} (hfault : p.ringFault q = some a) :
    queueEnable src q e p = ((p.setFld (Reg.DSP_QSTATUS q) Fld.DSP_Q_RINGERR 1).ringReport q 1 a).restartCount (p.queueCtx q) := by
  simp only [queueEnable, h, hfault, Bool.false_eq_true, if_false]

theorem queueEnable_of_rings (h : p.queueEnabled q = false) (hrings : p.ringFault q = none) (hpart : p.partValid (p.queueCtx q) = true) :
    queueEnable src q e p = ((p.setFld (Reg.DSP_QCTRL q) Fld.DSP_Q_ENABLE 1).setQueueSt q
      { p.queueSt q with prefetch := none, readySince := none }).restartCount (p.queueCtx q) := by
  simp only [queueEnable, h, hrings, hpart, Bool.false_eq_true, if_false, if_true]

/-! ### Resuming and flushing a halted queue (Table 06-17) -/

theorem queueResume_of_halted (h : p.halted q = true) :
    queueResume src q e p = (p.setQueueSt q { p.queueSt q with halted := false }).restartCount (p.queueCtx q) := if_pos h

theorem queueResume_of_not_halted (h : p.halted q = false) : queueResume src q e p = p := if_neg (ne_true_of_eq_false h)

theorem queueFlush_of_not_halted (h : p.halted q = false) : queueFlush src q e p = p := by
  simp only [queueFlush, h, Bool.not_false, if_true]

theorem queueFlush_of_idle (h : p.halted q = true) (hrun : p.runOf q = none) :
    queueFlush src q e p = (p.flushAll e q (p.waitingCount q)).restartCount (p.queueCtx q) := by
  simp only [queueFlush, h, hrun, Bool.not_true, Bool.false_eq_true, if_false, Option.isNone_none, if_true]

theorem queueFlush_of_run (h : p.halted q = true) (hrun : p.runOf q ≠ none) :
    queueFlush src q e p = p.setQueueSt q { p.queueSt q with flush := some (p.tail q) } := by
  obtain ⟨r, hr⟩ := Option.ne_none_iff_exists'.1 hrun
  simp only [queueFlush, h, hr, Bool.not_true, Bool.false_eq_true, if_false, Option.isNone_some]

end

/-! ### What the commands answer -/

section
variable {s : State} {q : Fin 64} {c : Instr}

/-- A queue whose rings fail the check stays disabled, shows the error and raises its context's interrupt (R203). -/
theorem answers_of_ringFault {a : Nat} (hoff : s.pkg.queueEnabled q = false)
    (hbec : Becomes c s (((s.pkg.setFld (Reg.DSP_QSTATUS q) Fld.DSP_Q_RINGERR 1).ringReport q 1 a).restartCount (s.pkg.queueCtx q))) :
    Answers c s (fun t => t.pkg.queueEnabled q = false ∧ t.pkg.on (Reg.DSP_QSTATUS q) Fld.DSP_Q_RINGERR = true ∧
      (∃ m ∈ t.pkg.irqs, m.src = 64 + s.pkg.queueCtx q) ∧ KeepsRegs [Reg.DSP_QSTATUS q] s t ∧ KeepsMem s t ∧ KeepsBlock s t) := by
  obtain ⟨hcfg, hctrl, -⟩ := queueRegs_apart q
  have hreg (j : Nat) := ringReport_reg (s.pkg.setFld (Reg.DSP_QSTATUS q) Fld.DSP_Q_RINGERR 1) q 1 a j
  have hother {j : Nat} (hj : j ≠ Reg.DSP_QSTATUS q) := (hreg j).trans (setFld_reg_ne s.pkg _ Fld.DSP_Q_RINGERR 1 j hj)
  refine hbec.answers ⟨?_, ?_, ?_, fun j hj => hother (by simpa using hj), fun b => ringReport_byte _ _ _ _ b, lift_keeps s _⟩
  · rw [← hoff]
    show (getField (Pkg.reg _ _) _ == 1) = (getField _ _ == 1)
    exact congrArg (fun w => getField w Fld.DSP_Q_ENABLE == 1) (hother hctrl)
  · show (getField (Pkg.reg _ _) _ == 1) = true
    exact (congrArg (fun w => getField w Fld.DSP_Q_RINGERR == 1) (hreg _)).trans (on_setFld_one s.pkg _ _ (by decide) (by decide))
  · rw [← queueCtx_of_reg (setFld_reg_ne s.pkg _ Fld.DSP_Q_RINGERR 1 _ hcfg)]
    exact ringReport_irq _ _ _ _

end

end Sys2Proof.Machine

namespace Sys2Proof

open Machine

/-- Settles O9: each write of the control register by what the queue's state makes of it. -/
theorem queueControl : Obligations.QueueControl := by
  unfold Obligations.QueueControl
  intro s src q hwork hreach
  have henable {y : Pkg} (h : queueEnable src q s.env s.pkg = y) : Becomes (.queueEnable src q) s y := becomes_work (if_pos hreach) hwork h
  have hresume {y : Pkg} (h : queueResume src q s.env s.pkg = y) : Becomes (.queueResume src q) s y := becomes_work (if_pos hreach) hwork h
  have hflush {y : Pkg} (h : queueFlush src q s.env s.pkg = y) : Becomes (.queueFlush src q) s y := becomes_work (if_pos hreach) hwork h
  have hdisable : Becomes (.queueDisable src q) s (s.pkg.setFld (Reg.DSP_QCTRL q) Fld.DSP_Q_ENABLE 0) := becomes_work (if_pos hreach) hwork rfl
  have hkeeps (v : Nat) : KeepsRegs [Reg.DSP_QCTRL q] s (s.lift (fun _ _ => s.pkg.setFld (Reg.DSP_QCTRL q) Fld.DSP_Q_ENABLE v)) :=
    fun j hj => setFld_reg_ne _ _ _ _ _ (by simpa using hj)
  refine ⟨fun hoff hrings hpart => ?_, fun a hoff hfault => answers_of_ringFault hoff (henable (queueEnable_of_fault hoff hfault)), ?_,
    fun hhalted => ?_, fun hhalted hrun => hflush (queueFlush_of_idle hhalted hrun), fun hhalted hrun => ?_, fun hgoes => ?_,
    fun hon => henable (queueEnable_of_enabled hon)⟩
  · exact (henable (queueEnable_of_rings hoff hrings hpart)).answers
      ⟨on_setFld_one s.pkg _ _ (by decide) (by decide), hkeeps 1, fun _ => rfl, lift_keeps s _⟩
  · exact hdisable.answers ⟨on_setFld_zero s.pkg _ _ (by decide), hkeeps 0, fun _ => rfl, lift_keeps s _, rfl⟩
  · exact (hresume (queueResume_of_halted hhalted)).answers
      ⟨congrArg QueueSt.halted (queueSt_setQueueSt s.pkg q _), fun _ _ => rfl, fun _ => rfl, lift_keeps s _, rfl⟩
  · exact (hflush (queueFlush_of_run hhalted hrun)).answers
      ⟨congrArg QueueSt.flush (queueSt_setQueueSt s.pkg q _), fun _ _ => rfl, fun _ => rfl, lift_keeps s _, rfl⟩
  · exact ⟨hflush (queueFlush_of_not_halted hgoes), hresume (queueResume_of_not_halted hgoes)⟩

end Sys2Proof

/-! SUPPORT. Flags: the changes of one beat in their order, the accesses that are discarded, the copies that fail, the clear (R211 to R216, R334, R479). -/

namespace Sys2Proof.Machine

/-! ### Changes of a flag in the order of their cycle (R215) -/

/-- Those of the same cycle are some of the earlier ones, in their order. -/
theorem sameCycle_sublist {α : Type} (p : Pkg) (xs : List α) : (p.sameCycle xs).1.Sublist xs := by
  have h : ((xs.zipIdx.filter (fun x => Config.sameCycle (p.free + x.2))).map (·.1)).Sublist (xs.zipIdx.map (·.1)) := List.filter_sublist.map _
  rwa [List.zipIdx_map_fst] at h

/-- The changes that a die's own may give way to: those of the flag, of higher-numbered dies. -/
theorem flagAbove_eq (p : Pkg) (die c n : Nat) :
    p.flagAbove die c n = (p.flagCycle.filter (fun x => x.ctx == c && x.n == n)).filter (fun x => die < x.die) := by
  rw [List.filter_filter, Pkg.flagAbove]
  exact List.filter_congr (fun x _ => Bool.and_comm _ _)

/-- The package with free values drawn and the beat's flag changes listed. -/
def Pkg.withFlags (p : Pkg) (free : Nat) (fc : List FlagChange) : Pkg := { p with free := free, flagCycle := fc }

/-- A flag that is set takes its value and what the same cycle adds, or keeps what a higher-numbered die set in that cycle. -/
theorem setFlag_eq (p : Pkg) (die c n v : Nat) : ∃ (xs : List FlagChange) (free : Nat) (fc : List FlagChange), xs.Sublist (p.flagAbove die c n) ∧
    p.setFlag die c n v =
      (if xs.any (fun y => y.set) then p else p.setNat (Reg.DSP_FLAG c n) (v + (xs.map (fun y => y.amount)).sum)).withFlags free fc := by
  refine ⟨_, p.free + (p.flagAbove die c n).length, p.flagCycle ++ [⟨c, n, die, true, v⟩], sameCycle_sublist p _, ?_⟩
  unfold Pkg.setFlag
  dsimp only
  split <;> rfl

/-- An addition is made, or a set of the same cycle from a higher-numbered die overwrites it. -/
theorem addFlag_eq (p : Pkg) (die c n inc : Nat) : ∃ (xs : List FlagChange) (free : Nat) (fc : List FlagChange),
    xs.Sublist ((p.flagAbove die c n).filter (fun y => y.set)) ∧
    p.addFlag die c n inc = (if xs.isEmpty then p.addReg (Reg.DSP_FLAG c n) inc else p).withFlags free fc := by
  refine ⟨_, p.free + ((p.flagAbove die c n).filter (fun y => y.set)).length, p.flagCycle ++ [⟨c, n, die, false, inc⟩], sameCycle_sublist p _, ?_⟩
  unfold Pkg.addFlag
  dsimp only
  split <;> rfl

theorem flag_setNat (p : Pkg) (c n v free : Nat) (fc : List FlagChange) :
    ((p.setNat (Reg.DSP_FLAG c n) v).withFlags free fc).flag c n = v % 2 ^ 64 := by
  show ((p.setNat (Reg.DSP_FLAG c n) v).reg (Reg.DSP_FLAG c n)).toNat = _
  rw [setNat_eq, reg_setReg, if_pos rfl, BitVec.toNat_ofNat]

theorem flag_addReg (p : Pkg) (c n inc free : Nat) (fc : List FlagChange) :
    ((p.addReg (Reg.DSP_FLAG c n) inc).withFlags free fc).flag c n = (p.flag c n + inc) % 2 ^ 64 := by
  show ((p.addReg (Reg.DSP_FLAG c n) inc).reg (Reg.DSP_FLAG c n)).toNat = _
  rw [addReg_eq, reg_setReg, if_pos rfl, BitVec.toNat_add, BitVec.toNat_ofNat, Nat.add_mod_mod]
  rfl

/-! ### Accesses of the flag windows (R214, R334) -/

section
variable {p : Pkg} {e : Env} {src : Source} {c n off width v : Nat} {f : Pkg → Pkg}

/-- A 64-bit access of a host-writable flag acts, whatever its source. -/
theorem flagAccess_wide (h : p.flagWritable c n = true) : p.flagAccess e src c n off 8 v f = f p := by
  cases src with
  | core g => exact if_pos h
  | pcie | engine | fabric => exact if_pos (by simp [h])

/-- A write to a device-set flag, or a narrow one that is no host core's, is discarded. -/
theorem flagAccess_discarded (h : (width = 8 ∧ p.flagWritable c n = false) ∨ (width ≠ 8 ∧ ∀ g, src ≠ .core g)) :
    p.flagAccess e src c n off width v f = p.flagRefused src c off v := by
  cases src with
  | core g =>
    obtain ⟨hwidth, hset⟩ := h.resolve_right (fun hno => hno.2 g rfl)
    exact (if_neg (by simp [hwidth])).trans (if_neg (by simp [hset]))
  | pcie | engine | fabric =>
    refine if_neg ?_
    rcases h with ⟨-, hset⟩ | ⟨hwidth, -⟩
    · simp [hset]
    · simp [hwidth]

/-- A host core's narrow access takes its access fault. -/
theorem flagAccess_core_narrow (g : Fin 144) (h : width ≠ 8) : p.flagAccess e (.core g) c n off width v f = p.registerFault e g off := if_pos h

end

/-- What a command answers whose flag write is discarded (R214). -/
theorem answers_of_flagRefused {i : Instr} {s : State} {src : Source} {c : Fin 8} {off v : Nat} (hbec : Becomes i s (s.pkg.flagRefused src c off v)) :
    Answers i s (fun t => t.pkg.on (Reg.DSP_CTX_STATUS c) Fld.DSP_CTX_FWERR = true ∧ KeepsRegs [Reg.DSP_CTX_STATUS c] s t ∧ KeepsMem s t ∧
      KeepsBlock s t ∧ (∃ m ∈ t.pkg.irqs, m.src = 64 + c.val) ∧
      Logs s t (s.pkg.raised ++ [⟨false, c, 0, 0, 3, 2, padTo 28 (s.pkg.accessor src ++ leBytes 8 off ++ leBytes 8 v)⟩])) := by
  have hreg (j : Nat) : (s.pkg.flagRefused src c off v).reg j = (s.pkg.setFld (Reg.DSP_CTX_STATUS c) Fld.DSP_CTX_FWERR 1).reg j := by
    rw [Pkg.flagRefused, raiseIrq_reg, refuse_reg _ _ _ _ _ _ _ (by decide)]
  have hbyte (a : Nat) : (s.pkg.flagRefused src c off v).byte a = s.pkg.byte a := by
    rw [Pkg.flagRefused, raiseIrq_byte, refuse_byte, setFld_byte]
  have hlow : Reg.DSP_CTX_STATUS c < 0xf0a00000 := by
    simp only [Reg.DSP_CTX_STATUS]
    omega
  have hraised : (s.pkg.flagRefused src c off v).raised =
      s.pkg.raised ++ [⟨false, c, 0, 0, 3, 2, padTo 28 (s.pkg.accessor src ++ leBytes 8 off ++ leBytes 8 v)⟩] := by
    rw [Pkg.flagRefused, raiseIrq_raised, refuse_raised _ _ _ _ _ _ (by decide), setFld_raised, setFld_eq, accessor_setReg hlow]
  refine hbec.answers ⟨?_, fun j hj => (hreg j).trans (setFld_reg_ne _ _ _ _ _ (by simpa using hj)), hbyte, lift_keeps s _, raiseIrq_mem _ _ _ _, ?_⟩
  · rw [lift_on, on_eq, hreg]
    exact on_setFld_one s.pkg _ _ (by decide) (by decide)
  · exact congrArg (fun rs => s.log.beatBuf ++ rs.map (fun r => (s.clock.beat + 1, r))) hraised

/-! ### A flag whose copies fail as it is written (R479) -/

@[simp] theorem event_flagCycle (p : Pkg) (cls die unit kind detail : Nat) (data : List Byte) :
    (p.event cls die unit kind detail data).flagCycle = p.flagCycle := by
  have hcount (q : Pkg) (k n : Nat) : (q.rasCount k n).flagCycle = q.flagCycle := by
    unfold Pkg.rasCount Pkg.bump
    split <;> rfl
  simp only [Pkg.event, apply_ite Pkg.flagCycle, hcount, ite_self]

theorem haltQueue_reg_ne (p : Pkg) (q status k : Nat) (h : k ≠ Reg.DSP_QSTATUS q) : (p.haltQueue q status).reg k = p.reg k := setFld_reg_ne _ _ _ _ _ h

section
variable (p : Pkg) (e : Env) (c : Nat)

theorem bothCopiesFail_flagCycle : (p.bothCopiesFail e c).flagCycle = p.flagCycle := by
  unfold Pkg.bothCopiesFail
  refine (keeps_foldl (f := fun s q => Pkg.haltQueue s q 0x3f) (g := Pkg.flagCycle) (fun s q => ⟨rfl⟩) ⟨?_⟩).eq
  exact event_flagCycle p 4 (p.leadDie c) (dspUnit c) 1 0 (leBytes 8 c)

theorem bothCopiesFail_reg {k : Nat} (hcount : k ≠ Reg.RAS_CNT_UNCORR) (hstatus : ∀ q, k ≠ Reg.DSP_QSTATUS q) :
    (p.bothCopiesFail e c).reg k = p.reg k := by
  unfold Pkg.bothCopiesFail
  exact (foldl_reg _ _ k (fun s q _ => haltQueue_reg_ne s q 0x3f k (hstatus q)) _).trans
    (event_reg p 4 (p.leadDie c) (dspUnit c) 1 0 (leBytes 8 c) k (fun h => absurd h (by decide)) (fun _ => hcount))

/-- An error of the copies of flag n leaves the beat's flag changes, and which flags are host-writable. -/
theorem copyFault_flag (n : Nat) (hn : n < 4096) (x : CopyError) :
    let y := p.copyFault e c none (fun s => s.setNat (Reg.DSP_FLAG c n) 0) x
    y.flagCycle = p.flagCycle ∧ y.flagWritable c n = p.flagWritable c n := by
  have hdetected : Reg.DSP_FLAG_ATTR c (n / 32) ≠ Reg.RAS_CNT_DETECTED := by
    simp only [Reg.DSP_FLAG_ATTR, Reg.RAS_CNT_DETECTED]
    omega
  have hflag : Reg.DSP_FLAG_ATTR c (n / 32) ≠ Reg.DSP_FLAG c n := by
    simp only [Reg.DSP_FLAG_ATTR, Reg.DSP_FLAG]
    omega
  have hwritable {y : Pkg} (h : y.reg (Reg.DSP_FLAG_ATTR c (n / 32)) = p.reg (Reg.DSP_FLAG_ATTR c (n / 32))) :
      y.flagWritable c n = p.flagWritable c n := by simp only [Pkg.flagWritable, regNat_eq, h]
  have hevent := event_reg p 8 (p.leadDie c) (dspUnit c) 1 0 (leBytes 8 c) (Reg.DSP_FLAG_ATTR c (n / 32)) (fun _ => hdetected)
    (fun h => absurd h (by decide))
  cases x with
  | oneCopy | journal => exact ⟨event_flagCycle p _ _ _ _ _ _, hwritable hevent⟩
  | bothCopies =>
    refine ⟨bothCopiesFail_flagCycle p e c, hwritable ((setNat_reg_ne _ _ _ _ hflag).trans (bothCopiesFail_reg p e c ?_ (fun q => ?_)))⟩
    · simp only [Reg.DSP_FLAG_ATTR, Reg.RAS_CNT_UNCORR]
      omega
    · simp only [Reg.DSP_FLAG_ATTR, Reg.DSP_QSTATUS]
      omega

end

/-! ### The commands on flags -/

section
variable {s : State} {src : Source} (hwork : s.pkg.working = true) (hreach : s.pkg.reaches src = true) {c : Fin 8}
include hwork hreach

theorem becomes_flagWrite (n : Fin 4096) (width value : Nat) (x : Option CopyError) :
    Becomes (.flagWrite src c n width value x) s (flagWrite src c n width value x s.env s.pkg) := becomes_work (if_pos hreach) hwork rfl

theorem becomes_flagAdd (n : Fin 4096) (width value : Nat) : Becomes (.flagAdd src c n width value) s (flagAdd src c n width value s.env s.pkg) :=
  becomes_work (if_pos hreach) hwork rfl

variable {n : Fin 4096} (hwritable : s.pkg.flagWritable c n = true) (value : Nat)
include hwritable

/-- A 64-bit write sets the flag in the order of its cycle. -/
theorem becomes_flagWrite_wide : Becomes (.flagWrite src c n 8 value none) s (s.pkg.setFlag (sourceDie src (Reg.DSP_FLAG c n)) c n value) := by
  have hbec := becomes_flagWrite hwork hreach n (c := c) 8 value none
  rwa [flagWrite, flagAccess_wide hwritable] at hbec

/-- A 64-bit addition adds to it. -/
theorem becomes_flagAdd_wide : Becomes (.flagAdd src c n 8 value) s (s.pkg.addFlag (sourceDie src (Reg.DSP_FLAG_ADD c n)) c n value) := by
  have hbec := becomes_flagAdd hwork hreach n (c := c) 8 value
  rwa [flagAdd, flagAccess_wide hwritable] at hbec

/-- A write that meets a failing copy sets the flag all the same (R479). -/
theorem becomes_flagWrite_copyError (x : CopyError) : ∃ y : Pkg, y.flagCycle = s.pkg.flagCycle ∧
    Becomes (.flagWrite src c n 8 value (some x)) s (y.setFlag (sourceDie src (Reg.DSP_FLAG c n)) c n value) := by
  obtain ⟨hcycle, hattr⟩ := copyFault_flag s.pkg s.env c n n.isLt x
  have hbec := becomes_flagWrite hwork hreach n (c := c) 8 value (some x)
  rw [flagWrite, flagAccess_wide (hattr.trans hwritable)] at hbec
  exact ⟨_, hcycle, hbec⟩

end

section
variable {i : Instr} {s : State} {c n : Nat}

/-- What a change of one flag leaves: every other register, every byte, the block. -/
theorem keeps_of_flagChange {y p : Pkg} {free : Nat} {fc : List FlagChange} (hy : y = p.withFlags free fc)
    (hreg : ∀ j, j ≠ Reg.DSP_FLAG c n → p.reg j = s.pkg.reg j) (hmem : p.mem = s.pkg.mem) :
    let t := s.lift (fun _ _ => y)
    KeepsRegs [Reg.DSP_FLAG c n] s t ∧ KeepsMem s t ∧ KeepsBlock s t := by
  subst hy
  refine ⟨fun j hj => hreg j (by simpa using hj), fun a => ?_, lift_keeps s _⟩
  show sparseGet _ p.mem a = _
  rw [hmem]
  rfl

/-- What a command answers that sets a flag (R215): the value with what the same cycle adds, or what a higher-numbered die set. -/
theorem answers_of_setFlag {die value : Nat} (hbec : Becomes i s (s.pkg.setFlag die c n value)) :
    Answers i s (fun t => (t.pkg.flag c n = s.pkg.flag c n ∨ ∃ xs : List FlagChange, xs.Sublist (s.pkg.flagAbove die c n) ∧
        t.pkg.flag c n = (value + (xs.map (fun (x : FlagChange) => x.amount)).sum) % 2 ^ 64) ∧
      KeepsRegs [Reg.DSP_FLAG c n] s t ∧ KeepsMem s t ∧ KeepsBlock s t) := by
  obtain ⟨xs, free, fc, hsub, heq⟩ := setFlag_eq s.pkg die c n value
  by_cases hset : xs.any (fun y => y.set) = true
  · rw [if_pos hset] at heq
    refine hbec.answers ⟨.inl ?_, keeps_of_flagChange heq (fun _ _ => rfl) rfl⟩
    show (s.pkg.setFlag die c n value).flag c n = _
    rw [heq]
    rfl
  · rw [if_neg hset] at heq
    refine hbec.answers ⟨.inr ⟨xs, hsub, ?_⟩, keeps_of_flagChange heq (fun j hj => setNat_reg_ne _ _ _ _ hj) rfl⟩
    exact (congrArg (fun y => Pkg.flag y c n) heq).trans (flag_setNat _ _ _ _ _ _)

/-- A flag that nothing of the beat comes before takes the value. -/
theorem flag_setFlag_first {p : Pkg} {die value : Nat} (h : p.flagAbove die c n = []) : (p.setFlag die c n value).flag c n = value % 2 ^ 64 := by
  obtain ⟨xs, free, fc, hsub, heq⟩ := setFlag_eq p die c n value
  rw [h, List.sublist_nil] at hsub
  subst hsub
  exact (congrArg (fun y => Pkg.flag y c n) heq).trans (flag_setNat _ _ _ _ _ _)

/-- What a command answers that adds to a flag (R215). -/
theorem answers_of_addFlag {die value : Nat} (hbec : Becomes i s (s.pkg.addFlag die c n value)) :
    Answers i s (fun t => (t.pkg.flag c n = (s.pkg.flag c n + value) % 2 ^ 64 ∨ t.pkg.flag c n = s.pkg.flag c n) ∧
      KeepsRegs [Reg.DSP_FLAG c n] s t ∧ KeepsMem s t ∧ KeepsBlock s t) := by
  obtain ⟨xs, free, fc, -, heq⟩ := addFlag_eq s.pkg die c n value
  by_cases hadds : xs.isEmpty = true
  · rw [if_pos hadds] at heq
    refine hbec.answers ⟨.inl ((congrArg (fun y => Pkg.flag y c n) heq).trans (flag_addReg _ _ _ _ _ _)), keeps_of_flagChange heq (fun j hj => ?_) rfl⟩
    rw [addReg_eq, reg_setReg, if_neg hj]
  · rw [if_neg hadds] at heq
    refine hbec.answers ⟨.inr ?_, keeps_of_flagChange heq (fun _ _ => rfl) rfl⟩
    show (s.pkg.addFlag die c n value).flag c n = _
    rw [heq]
    rfl

/-- An addition that no set of the beat overwrites is made. -/
theorem flag_addFlag_first {p : Pkg} {die value : Nat} (h : (p.flagAbove die c n).filter (fun y => y.set) = []) :
    (p.addFlag die c n value).flag c n = (p.flag c n + value) % 2 ^ 64 := by
  obtain ⟨xs, free, fc, hsub, heq⟩ := addFlag_eq p die c n value
  rw [h, List.sublist_nil] at hsub
  subst hsub
  exact (congrArg (fun y => Pkg.flag y c n) heq).trans (flag_addReg _ _ _ _ _ _)

end

/-- Two things that a command answers, it answers together. -/
theorem Answers.and {i : Instr} {s : State} {P Q : State → Prop} (hP : Answers i s P) (hQ : Answers i s Q) : Answers i s (fun t => P t ∧ Q t) := by
  obtain ⟨t, ht, hPt⟩ := hP
  obtain ⟨u, hu, hQu⟩ := hQ
  obtain rfl := Host.Outcome.next.inj (ht.symm.trans hu)
  exact ⟨t, ht, hPt, hQu⟩

theorem Answers.mono {i : Instr} {s : State} {P Q : State → Prop} (hP : Answers i s P) (h : ∀ t, P t → Q t) : Answers i s Q := by
  obtain ⟨t, ht, hPt⟩ := hP
  exact ⟨t, ht, h t hPt⟩

end Sys2Proof.Machine

namespace Sys2Proof

open Machine

/-- Settles O10: a wide access of a host-writable flag acts in the order of its cycle; the others are discarded or fault by their source. -/
theorem flagWrites : Obligations.FlagWrites := by
  unfold Obligations.FlagWrites
  refine ⟨fun s src c n value hwork hreach hwritable => ?_, fun s src c n width value hwork hreach => ⟨fun hbad => ?_, fun g hcore hnarrow => ?_⟩⟩
  · have habove (off : Nat) := flagAbove_eq s.pkg (sourceDie src off) c n
    have hwrite := becomes_flagWrite_wide hwork hreach hwritable value
    have hadd := becomes_flagAdd_wide hwork hreach hwritable value
    refine ⟨fun hfirst => ?_, fun hfirst x => ?_, fun hfirst => ?_, answers_of_addFlag hadd, ?_⟩
    · have hvalue := hwrite.answers (P := fun t => t.pkg.flag c n = value % 2 ^ 64) (flag_setFlag_first ((habove _).trans hfirst))
      exact (hvalue.and (answers_of_setFlag hwrite)).mono (fun t ht => ⟨ht.1, ht.2.2⟩)
    · obtain ⟨y, hcycle, hbec⟩ := becomes_flagWrite_copyError hwork hreach hwritable value x
      refine hbec.answers (flag_setFlag_first ?_)
      rw [flagAbove_eq, hcycle]
      exact hfirst
    · have hnoset : (s.pkg.flagAbove (sourceDie src (Reg.DSP_FLAG_ADD c n)) c n).filter (fun y => y.set) = [] := by
        rw [habove, List.filter_eq_nil_iff]
        exact fun x hx => by simpa using List.all_eq_true.1 hfirst x hx
      have hvalue := hadd.answers (P := fun t => t.pkg.flag c n = (s.pkg.flag c n + value) % 2 ^ 64) (flag_addFlag_first hnoset)
      exact (hvalue.and (answers_of_addFlag hadd)).mono (fun t ht => ⟨ht.1, ht.2.2⟩)
    · have hsets := answers_of_setFlag hwrite
      rwa [habove] at hsets
  · refine ⟨answers_of_flagRefused ?_, answers_of_flagRefused ?_⟩
    · have hbec := becomes_flagWrite hwork hreach n (c := c) width value none
      rwa [flagWrite, flagAccess_discarded hbad] at hbec
    · have hbec := becomes_flagAdd hwork hreach n (c := c) width value
      rwa [flagAdd, flagAccess_discarded hbad] at hbec
  · subst hcore
    refine ⟨?_, ?_⟩
    · have hbec := becomes_flagWrite hwork hreach n (c := c) width value none
      rwa [flagWrite, flagAccess_core_narrow g hnarrow] at hbec
    · have hbec := becomes_flagAdd hwork hreach n (c := c) width value
      rwa [flagAdd, flagAccess_core_narrow g hnarrow] at hbec

end Sys2Proof

namespace Sys2Proof.Machine

/-! ### The clear of a context's flags (R216) -/

/-- A context has an enabled queue when one bound to it is enabled. -/
theorem ctxHasEnabled_iff (p : Pkg) (c : Nat) : p.ctxHasEnabled c = true ↔ ∃ q : Fin 64, p.queueCtx q = c ∧ p.queueEnabled q = true := by
  simp only [Pkg.ctxHasEnabled, Pkg.ctxQueues, rangeFilter, List.any_eq_true, List.mem_filter, List.mem_range, beq_iff_eq, Fin.exists_iff]
  grind

section
variable {src : Source} {c : Nat} {e : Env} {p : Pkg}

theorem flagClr_of_idle (h : ¬p.ctxHasEnabled c = true) : flagClr src c e p = p.zeroRegs ((List.range 4096).map (Reg.DSP_FLAG c)) := by
  unfold flagClr
  exact if_neg h

theorem flagClr_of_enabled (h : p.ctxHasEnabled c = true) : flagClr src c e p = p.flagRefused src c (Reg.DSP_CTX_CTRL c) 1 := by
  unfold flagClr
  exact if_pos h

end

end Sys2Proof.Machine

namespace Sys2Proof

open Machine

/-- Settles O11: whether the context has an enabled queue decides. -/
theorem flagClear : Obligations.FlagClear := by
  unfold Obligations.FlagClear
  intro s src c hwork hreach
  refine ⟨fun hnone => ?_, fun q hctx hon => ?_⟩
  · have hoff : ¬s.pkg.ctxHasEnabled c = true := by
      rw [ctxHasEnabled_iff]
      exact fun ⟨q, hctx, hon⟩ => absurd hon (by simp [hnone q hctx])
    have hbec : Becomes (.flagClr src c) s (s.pkg.zeroRegs ((List.range 4096).map (Reg.DSP_FLAG c))) :=
      becomes_work (if_pos hreach) hwork (flagClr_of_idle hoff)
    have hreg (k : Nat) := reg_zeroRegs s.pkg ((List.range 4096).map (Reg.DSP_FLAG c)) k
    refine hbec.answers ⟨fun n => ?_, fun k hk => ?_, fun a => ?_, lift_keeps s _⟩
    · rw [Pkg.flag, lift_regNat, regNat_eq, hreg, if_pos (List.mem_map_of_mem (List.mem_range.2 n.isLt))]
      exact BitVec.toNat_zero
    · rw [lift_reg, hreg, if_neg]
      intro hmem
      obtain ⟨n, hn, rfl⟩ := List.mem_map.1 hmem
      exact hk ⟨n, List.mem_range.1 hn⟩ rfl
    · rw [lift_byte, zeroRegs_byte]
  · have hon' : s.pkg.ctxHasEnabled c = true := (ctxHasEnabled_iff _ _).2 ⟨q, hctx, hon⟩
    have hbec : Becomes (.flagClr src c) s (s.pkg.flagRefused src c (Reg.DSP_CTX_CTRL c) 1) := becomes_work (if_pos hreach) hwork (flagClr_of_enabled hon')
    exact (answers_of_flagRefused hbec).mono (fun t ht => ⟨ht.1, ht.2.1, ht.2.2.1, ht.2.2.2.1⟩)

end Sys2Proof

/-! SUPPORT. Descriptors as they are fetched, expire, block and complete (R201, R203, R213, R226, R234, R235). -/

namespace Sys2Proof.Machine

/-! ### The dispatcher fetches a descriptor (R201, R203) -/

/-- Descriptors of a queue before the one that is fetched: the running head. -/
abbrev Pkg.fetchSkip (p : Pkg) (q : Nat) : Nat := if (p.runOf q).isSome then 1 else 0

section
variable {q : Nat} {e : Env} {p : Pkg}

/-- With nothing covered nothing is fetched. -/
theorem descriptorFetch_uncovered (h : p.queueEnabled q = false ∨ p.waitingCount q ≤ p.fetchSkip q) : descriptorFetch q e p = p := by
  unfold descriptorFetch
  refine if_pos ?_
  rcases h with hoff | hnone
  · simp [hoff]
  · simp [hnone]

variable (hon : p.queueEnabled q = true) (hcovered : p.fetchSkip q < p.waitingCount q)
variable (hnew : ∀ x, (p.queueSt q).prefetch = some x → x.1 ≠ (p.head q + p.fetchSkip q) % 2 ^ 32)
include hon hcovered hnew

/-- A covered slot not fetched yet is read. -/
theorem descriptorFetch_guard :
    ¬(!p.queueEnabled q || decide (p.waitingCount q ≤ p.fetchSkip q) ||
      (match (p.queueSt q).prefetch with | some x => x.1 == (p.head q + p.fetchSkip q) % 2 ^ 32 | none => false)) = true := by
  have hlater : ¬p.waitingCount q ≤ p.fetchSkip q := Nat.not_le.2 hcovered
  simp only [hon, hlater, Bool.not_true, decide_false, Bool.or_false, Bool.false_or]
  cases hpre : (p.queueSt q).prefetch with
  | none => exact Bool.false_ne_true
  | some x => exact fun heq => hnew x hpre (beq_iff_eq.1 heq)

/-- Its bytes wait as the queue's prefetched descriptor. -/
theorem descriptorFetch_whole {p1 : Pkg} {bs : List Byte} (hread : p.fetchSlot e q ((p.head q + p.fetchSkip q) % 2 ^ 32) = (p1, none, bs)) :
    descriptorFetch q e p = p1.setQueueSt q { p1.queueSt q with prefetch := some ((p.head q + p.fetchSkip q) % 2 ^ 32, bs) } := by
  unfold descriptorFetch
  refine (if_neg (descriptorFetch_guard hon hcovered hnew)).trans ?_
  dsimp only
  rw [hread]

/-- A head whose slot fails ends with the cause, and the fault is reported. -/
theorem descriptorFetch_failed {p1 : Pkg} {cause : Nat} {bs : List Byte} (hrun : p.runOf q = none)
    (hread : p.fetchSlot e q ((p.head q + p.fetchSkip q) % 2 ^ 32) = (p1, some cause, bs)) :
    descriptorFetch q e p = (p1.ringReport q 2 (p.ringAddr q ((p.head q + p.fetchSkip q) % 2 ^ 32))).complete e q
      ((p.head q + p.fetchSkip q) % 2 ^ 32) (List.replicate 128 0) (Rec.plain 0x3f cause e.tagHall) none := by
  unfold descriptorFetch
  refine (if_neg (descriptorFetch_guard hon hcovered hnew)).trans ?_
  dsimp only
  rw [hread]
  exact if_neg (by simp [hrun])

end

end Sys2Proof.Machine

namespace Sys2Proof

open Machine

/-- Settles O28: what the dispatcher does with the slot it reads next. -/
theorem descriptorFetches : Obligations.DescriptorFetches := by
  unfold Obligations.DescriptorFetches
  intro s q hwork
  exact ⟨fun hnone => becomes_work rfl hwork (descriptorFetch_uncovered hnone), fun hon hcovered hnew =>
    ⟨fun p1 bs hread => becomes_work rfl hwork (descriptorFetch_whole hon hcovered hnew hread),
      fun p1 cause bs hread hrun => becomes_work rfl hwork (descriptorFetch_failed hon hcovered hnew hrun hread)⟩⟩

end Sys2Proof

namespace Sys2Proof.Machine

/-! ### A context whose queues are all blocked (R234, R235) -/

section
variable {c : Nat} {e : Env} {p : Pkg}

theorem stallNotice_silent {since : Nat} (hsince : (p.ctxSt c).blockedSince = some since)
    (h : p.fld (Reg.DSP_CTX_STALL c) Fld.DSP_CTX_STALL_US = 0 ∨ (p.ctxSt c).stallNoticed = true ∨
      e.tagHall < since + 1000 * p.fld (Reg.DSP_CTX_STALL c) Fld.DSP_CTX_STALL_US ∨ p.waitCycle c = true) : stallNotice c e p = p := by
  simp only [stallNotice, hsince]
  refine if_pos ?_
  rcases h with h | h | h | h <;> simp [h]

/-- The notice of a stall: its event and its interrupt, on the package that shows it. -/
theorem stallNotice_noticed {since : Nat} (hsince : (p.ctxSt c).blockedSince = some since)
    (htime : p.fld (Reg.DSP_CTX_STALL c) Fld.DSP_CTX_STALL_US ≠ 0) (hnew : (p.ctxSt c).stallNoticed = false)
    (hlong : since + 1000 * p.fld (Reg.DSP_CTX_STALL c) Fld.DSP_CTX_STALL_US ≤ e.tagHall) (hopen : p.waitCycle c = false) :
    let q := ((p.ctxQueues c).filter p.activeQueue).headD 0
    stallNotice c e p =
      (((p.setFld (Reg.DSP_CTX_STATUS c) Fld.DSP_CTX_STALLED 1).setCtxSt c { p.ctxSt c with stallNoticed := true }).event 9 (p.leadDie c)
        (dspUnit c) 0xe 3 (leBytes 4 c ++ leBytes 4 q ++ leBytes 8 (p.head q) ++ leBytes 8 since)).raiseIrq 9 (p.leadDie c) (64 + c) := by
  simp only [stallNotice, hsince]
  exact if_neg (by simp [htime, hnew, hopen, Nat.not_lt.2 hlong])

theorem waitCycleAbort_waits (h : (p.ctxSt c).cycleCount < 6249 ∨ p.waitCycle c = false) : waitCycleAbort c e p = p := by
  unfold waitCycleAbort
  refine if_pos ?_
  rcases h with h | h <;> simp [h]

/-- The proof has held long enough. -/
theorem waitCycleAbort_guard (hcount : 6249 ≤ (p.ctxSt c).cycleCount) (hproof : p.waitCycle c = true) :
    ¬(decide ((p.ctxSt c).cycleCount < 6249) || !p.waitCycle c) = true := by
  simp [Nat.not_lt.2 hcount, hproof]

end

/-- What a command answers that notices a stall: the event raises its record and no register but the context's status changes. -/
theorem answers_of_stall {i : Instr} {s : State} {c : Fin 8} {cs : CtxSt} {die unit kind detail : Nat} {data : List Byte}
    (hbec : Becomes i s ((((s.pkg.setFld (Reg.DSP_CTX_STATUS c) Fld.DSP_CTX_STALLED 1).setCtxSt c { cs with stallNoticed := true }).event 9 die unit kind
      detail data).raiseIrq 9 die (64 + c))) :
    Answers i s (fun t => t.pkg.on (Reg.DSP_CTX_STATUS c) Fld.DSP_CTX_STALLED = true ∧ (t.pkg.ctxSt c).stallNoticed = true ∧
      t.pkg.dsp.runs = s.pkg.dsp.runs ∧ t.pkg.dsp.queues = s.pkg.dsp.queues ∧ (∃ m ∈ t.pkg.irqs, m.src = 64 + c.val) ∧
      KeepsRegs [Reg.DSP_CTX_STATUS c] s t ∧ KeepsMem s t ∧ KeepsBlock s t ∧
      Logs s t (s.pkg.raised ++ [⟨false, die, unit, 9, kind, detail, padTo 28 data⟩])) := by
  generalize hshown : (s.pkg.setFld (Reg.DSP_CTX_STATUS c) Fld.DSP_CTX_STALLED 1).setCtxSt c { cs with stallNoticed := true } = y at hbec
  have hy (j : Nat) : y.reg j = (s.pkg.setFld (Reg.DSP_CTX_STATUS c) Fld.DSP_CTX_STALLED 1).reg j := by
    rw [← hshown]
    rfl
  have hreg (j : Nat) : ((y.event 9 die unit kind detail data).raiseIrq 9 die (64 + c)).reg j =
      (s.pkg.setFld (Reg.DSP_CTX_STATUS c) Fld.DSP_CTX_STALLED 1).reg j := by
    rw [raiseIrq_reg, event_reg _ _ _ _ _ _ _ _ (fun h => absurd h (by decide)) (fun h => absurd h (by decide)), hy]
  have hdsp : ((y.event 9 die unit kind detail data).raiseIrq 9 die (64 + c)).dsp = y.dsp := by rw [raiseIrq_dsp, event_dsp]
  have hlift : (s.lift (fun _ _ => (y.event 9 die unit kind detail data).raiseIrq 9 die (64 + c))).pkg.dsp = y.dsp := hdsp
  have hbyte (a : Nat) : ((y.event 9 die unit kind detail data).raiseIrq 9 die (64 + c)).byte a = s.pkg.byte a := by
    rw [raiseIrq_byte, event_byte, ← hshown]
    rfl
  have hraised : ((y.event 9 die unit kind detail data).raiseIrq 9 die (64 + c)).raised =
      s.pkg.raised ++ [⟨false, die, unit, 9, kind, detail, padTo 28 data⟩] := by
    rw [raiseIrq_raised, event_raised, ← hshown]
    rfl
  refine hbec.answers ⟨?_, ?_, ?_, ?_, raiseIrq_mem _ _ _ _, fun j hj => (hreg j).trans (setFld_reg_ne _ _ _ _ _ (by simpa using hj)), hbyte,
    lift_keeps s _, ?_⟩
  · rw [lift_on, on_eq, hreg]
    exact on_setFld_one s.pkg _ _ (by decide) (by decide)
  · refine (congrArg (fun d : Dsp => CtxSt.stallNoticed ((assoc? d.ctxs c).getD ⟨0, false, none, false, false⟩)) hlift).trans ?_
    rw [← hshown]
    exact congrArg CtxSt.stallNoticed (ctxSt_setCtxSt _ _ _)
  · rw [hlift, ← hshown]
    rfl
  · rw [hlift, ← hshown]
    rfl
  · exact congrArg (fun rs : List LogRec => s.log.beatBuf ++ rs.map (fun r => (s.clock.beat + 1, r))) hraised

end Sys2Proof.Machine

namespace Sys2Proof

open Machine

/-- Settles O31: the notice and the abort, each with what holds it back. -/
theorem blockedContexts : Obligations.BlockedContexts := by
  unfold Obligations.BlockedContexts
  constructor
  · intro s c since hwork p us q hsince
    exact ⟨fun htime hnew hlong hopen => answers_of_stall (becomes_work rfl hwork (stallNotice_noticed hsince htime hnew hlong hopen)),
      fun hquiet => becomes_work rfl hwork (stallNotice_silent hsince hquiet)⟩
  · intro s c hwork
    refine ⟨fun hwaits => becomes_work rfl hwork (waitCycleAbort_waits hwaits), ?_⟩
    intro hcount hproof
    exact becomes_work rfl hwork (if_neg (waitCycleAbort_guard hcount hproof))

end Sys2Proof

/-! SUPPORT. States that refute the completion statements: what a run's staging sets do to registers (R155), and a solve that expires (R282). -/

namespace Sys2Proof.Machine

/-! ### A command has one outcome -/

theorem Becomes.of_answers {c : Instr} {s : State} {p : Pkg} {P : State → Prop} (h : Becomes c s p) (hanswers : Answers c s P) :
    P (s.lift (fun _ _ => p)) := by
  obtain ⟨t, hexec, hp⟩ := hanswers
  rw [Host.Outcome.next.inj (h.symm.trans hexec)]
  exact hp

theorem lift_head (s : State) (f : Env → Pkg → Pkg) (q : Nat) : (s.lift f).pkg.head q = (f s.env s.pkg).head q := rfl

theorem Becomes.byte_eq {c : Instr} {s : State} {p p' : Pkg} (h : Becomes c s p) (h' : Becomes c s p') (a : Nat) : p.byte a = p'.byte a :=
  congrArg (fun t : State => t.pkg.byte a) (Host.Outcome.next.inj (h.symm.trans h'))

/-! ### A finished descriptor completes (R213) -/

/-- A finished descriptor completes with its final record where no solve is to be closed and the queue is not being flushed. -/
theorem descriptorComplete_finished {q : Nat} {e : Env} {p : Pkg} {r : Run} (hrun : p.runOf q = some r) (hdone : r.finished = true)
    (hreplay : r.replayOn = none) (hclosed : p.closeSolve e r = (p, r))
    (hflush : ((p.complete e q r.seq r.desc r.finalRecord (some r)).queueSt q).flush = none) :
    (if (p.runOf q).isSome then (descriptorComplete q none e p).sweep e q else p) =
      (p.complete e q r.seq r.desc r.finalRecord (some r)).sweep e q := by
  have hcomplete : descriptorComplete q none e p = p.complete e q r.seq r.desc r.finalRecord (some r) := by
    simp [descriptorComplete, Pkg.completeRun, hrun, hdone, hreplay, hclosed, hflush]
  rw [hcomplete, hrun]
  rfl

/-! ### A queue with one descriptor -/

/-- A working package of partition 0 with region 0 of 16 MiB, whose queue 0 is enabled and holds one descriptor. -/
def openQueue : State :=
  { State.reset with pkg := { Pkg.reset with
      regs := [(Reg.DSP_QCTRL 0, 1), (Reg.DSP_QTAIL 0, 1), (Reg.MEM_RG_SIZE 0, 2 ^ 24), (Reg.MEM_RG_PLACE 0, 2 ^ 41 + 1), (Reg.MEM_RG_ATTR 0, 2 ^ 31 + 1),
        (Reg.SEC_PART 0, 2 ^ 63 + 1), (Reg.PKG_BOOT, 5 * 2 ^ 28)] } }

/-! ### A finished descriptor whose staging set names a bin past the histogram -/

/-- A finished descriptor of queue 0 whose staging set holds bin 0xff08: `ARR_SHADOW_HIST 0 0xff08` lies at `DSP_QHEAD 0`. -/
def strayBinRun : Run := { openQueue.pkg.newRun openQueue.env 0 [] [] with finished := true, stage := [⟨0, 0, 0, 0, 0, 0, [0xff08]⟩] }

def strayBin : State := { openQueue with pkg := openQueue.pkg.addRun strayBinRun }

theorem strayBin_working : strayBin.pkg.working = true := by decide +kernel

theorem strayBin_head : strayBin.pkg.head 0 = 0 := by decide +kernel

theorem strayBinRun_kind : strayBinRun.kind ≠ 2 := by decide +kernel

theorem strayBin_runOf : strayBin.pkg.runOf 0 = some strayBinRun := rfl

/-- Its record has an owned place. -/
theorem strayBin_owned :
    (strayBin.pkg.dropRun 0).rangeOwned (strayBin.pkg.queueCtx 0) (strayBin.pkg.cplAddr 0 strayBinRun.seq) 32 = true := by decide +kernel

/-- What the completion leaves. -/
def strayBinDone : Pkg :=
  (strayBin.pkg.complete strayBin.env 0 strayBinRun.seq strayBinRun.desc strayBinRun.finalRecord (some strayBinRun)).sweep strayBin.env 0

theorem strayBin_becomes : Becomes (.descriptorComplete 0 none) strayBin strayBinDone :=
  becomes_work rfl strayBin_working (descriptorComplete_finished strayBin_runOf rfl rfl rfl (by decide +kernel))

/-- The bin's count and the descriptor both advance HEAD. -/
theorem strayBinDone_head : strayBinDone.head 0 = 2 := by decide +kernel

/-! ### An Anvil solve whose deadline passes before it starts -/

/-- A descriptor of an Anvil solve whose deadline is hall time 1. -/
def lateSolve : List Byte := padTo 128 (leBytes 64 2 ++ leBytes 8 1)

/-- It waits as the prefetched head of queue 0. -/
def lateQueue : State :=
  { openQueue with pkg := openQueue.pkg.setQueueSt 0 { openQueue.pkg.queueSt 0 with prefetch := some (0, lateSolve) } }

theorem lateQueue_working : lateQueue.pkg.working = true := by decide +kernel

theorem lateQueue_headDesc : lateQueue.pkg.headDesc 0 = some lateSolve := by decide +kernel

theorem lateQueue_active : lateQueue.pkg.activeQueue 0 = true := by decide +kernel

theorem lateQueue_runs : lateQueue.pkg.ctxRuns (lateQueue.pkg.queueCtx 0) = true := by decide +kernel

theorem lateQueue_late : deadlinePassed lateQueue.env.tagHall lateSolve = true := by decide +kernel

/-- The head completes with the residual norm of a solve that computed none, the canonical NaN (R282). -/
theorem lateQueue_becomes : Becomes (.deadlineExpiry 0) lateQueue (lateQueue.pkg.completeHead lateQueue.env 0 lateSolve 0x21 0) :=
  becomes_work rfl lateQueue_working rfl

theorem lateQueue_norm : (lateQueue.pkg.completeHead lateQueue.env 0 lateSolve 0x21 0).byte 31 = 0x7f := by decide +kernel

/-- A record of DETAIL 0 ends in a zero byte. -/
theorem lateQueue_plain :
    (lateQueue.pkg.complete lateQueue.env 0 (lateQueue.pkg.head 0) lateSolve (Rec.plain 0x21 0 lateQueue.env.tagHall) none).byte 31 = 0 := by
  decide +kernel

end Sys2Proof.Machine

namespace Sys2Proof

open Machine

/-- Refutes O29: the statement bounds no run's staging sets, and one that holds a bin past the histogram counts it in another register. In `strayBin` that
register is HEAD of the queue itself, which then moves by two. -/
theorem not_descriptorCompletes : ¬ Obligations.DescriptorCompletes := by
  unfold Obligations.DescriptorCompletes
  intro hall
  obtain ⟨-, -, hfinished⟩ := hall strayBin 0 strayBin_working
  obtain ⟨-, hadvance, -⟩ := hfinished strayBinRun strayBin_runOf rfl rfl
  obtain ⟨-, hhead, -⟩ := strayBin_becomes.of_answers (hadvance strayBinRun_kind rfl strayBin_owned)
  rw [lift_head, Fin.val_zero, strayBinDone_head, strayBin_head] at hhead
  exact absurd hhead (by decide)

/-- Refutes O30: the statement gives every expired head a record of DETAIL 0, but the record of an Anvil solve holds the residual norm, the canonical NaN
where none was computed (R282). `lateQueue` holds such a head; its record's last byte is 0x7f. -/
theorem not_deadlines : ¬ Obligations.Deadlines := by
  unfold Obligations.Deadlines
  intro hall
  obtain ⟨hhead, -⟩ := hall lateQueue 0 lateQueue_working
  have hplain := hhead lateSolve rfl lateQueue_headDesc lateQueue_active lateQueue_runs lateQueue_late
  have hbyte := (lateQueue_norm.symm.trans (lateQueue_becomes.byte_eq hplain 31)).trans lateQueue_plain
  exact absurd hbyte (by decide)

end Sys2Proof

/-! SUPPORT. Descriptors that a start command meets (R206, R209, R226, R319, R321, R322). -/

namespace Sys2Proof.Machine

/-! ### Start commands start a head -/

/-- A command that starts the head of a queue, by the dispatcher's checks and reads. -/
def IsStart (c : Instr) (q : Nat) (mine : List Byte → Bool) (s : State) : Prop :=
  ∃ f body, exec c s = s.work .none f ∧ f s.env s.pkg = s.pkg.start s.env q mine (fun d => startReads s.pkg (s.pkg.queueCtx q) d c) body

/-- A command that starts a hearth call of a routine, with what follows its checks. -/
structure StartsCall (i : Instr) (s : State) (q id len : Nat) (hs : List Nat) (extra : Pkg → List Byte → List Byte → List Verdict)
    (body : Pkg → Run → Pkg) : Prop where
  /-- Its work. -/
  work : ∃ f, exec i s = s.work .none f ∧ f s.env s.pkg = s.pkg.startCall s.env q id hs len extra body
  /-- The reads before it. -/
  reads : ∀ d, startReads s.pkg (s.pkg.queueCtx q) d i = s.pkg.callReads (s.pkg.queueCtx q) d hs len

theorem StartsCall.isStart {i : Instr} {s : State} {q id len : Nat} {hs : List Nat} {extra : Pkg → List Byte → List Byte → List Verdict}
    {body : Pkg → Run → Pkg} (h : StartsCall i s q id len hs extra body) : IsStart i q (isCall id) s := by
  obtain ⟨f, hexec, hf⟩ := h.work
  rw [Pkg.startCall, ← funext h.reads] at hf
  exact ⟨f, _, hexec, hf⟩

/-- A compute routine enters its run and works on it. -/
theorem startsCall_of_startWork {i : Instr} {s : State} {q id len : Nat} {hs : List Nat} {extra : Pkg → List Byte → List Byte → List Verdict}
    {f : Env → Pkg → Pkg} (hexec : exec i s = s.work .none f) (hf : f s.env s.pkg = s.pkg.startWork s.env q id hs len extra)
    (hreads : ∀ d, startReads s.pkg (s.pkg.queueCtx q) d i = s.pkg.callReads (s.pkg.queueCtx q) d hs len) :
    StartsCall i s q id len hs extra (fun u r => u.enterWork s.env r) := ⟨⟨f, hexec, hf⟩, hreads⟩

section
variable (s : State) (q : Fin 64)

theorem startsCall_coatLoad : StartsCall (.coatLoad q) s q 0x01 9 [] (fun _ _ _ => []) (fun u r => u.loadWork s.env r) :=
  ⟨⟨_, rfl, coatLoad.eq_1 _ _ _⟩, fun _ => rfl⟩

theorem startsCall_enqList :
    StartsCall (.enqList q) s q 0x100 24 [] (fun _ _ b => [abortIf (leAt b 0 3 != 0 || leAt b 4 4 != 0 || leAt b 0x14 4 != 0) 0x0c])
      (fun u r => u.append s.env r (leAt r.params 3 1) [(leAt r.params 8 8, leAt r.params 0x10 4)] []) :=
  ⟨⟨_, rfl, enqList.eq_1 _ _ _⟩, fun _ => rfl⟩

theorem startsCall_enqSelect :
    StartsCall (.enqSelect q) s q 0x101 40 [] (fun _ _ b => [abortIf (leAt b 0 2 ≥ 4096 || leAt b 2 1 > 2 || leAt b 4 4 != 0) 0x0c])
      (fun u r =>
        let holds := enqCompare (leAt r.params 2 1) (u.flag r.ctx (leAt r.params 0 2)) (leAt r.params 8 8)
        u.append s.env r (leAt r.params 3 1)
          [if holds then (leAt r.params 0x10 8, leAt r.params 0x18 4) else (leAt r.params 0x20 8, leAt r.params 0x1c 4)] []) :=
  ⟨⟨_, rfl, enqSelect.eq_1 _ _ _⟩, fun _ => rfl⟩

theorem startsCall_enqRepeat :
    StartsCall (.enqRepeat q) s q 0x102 32 []
      (fun _ _ b => [abortIf (leAt b 0 2 ≥ 4096 || leAt b 2 1 != 0 || leAt b 4 4 != 0 || leAt b 0x1c 4 != 0) 0x0c])
      (fun u r => if u.flag r.ctx (leAt r.params 0 2) < leAt r.params 8 8
        then u.append s.env r (leAt r.params 3 1) [(leAt r.params 0x10 8, leAt r.params 0x18 4)] [r.desc]
        else u.append s.env r (leAt r.params 3 1) [] []) :=
  ⟨⟨_, rfl, enqRepeat.eq_1 _ _ _⟩, fun _ => rfl⟩

theorem startsCall_gemmEpilogue :
    StartsCall (.gemmEpilogue q) s q 0x11 8 [0, 1, 2, 3]
      (fun p d b =>
        [abortIf (leAt b 0 4 >>> 16 != 0 || bitsOf (leAt b 0 4) 7 5 != 0 || leAt b 0 4 % 8 > 4 || leAt b 4 4 > 3) 0x0c,
         abortIf (arrayShapeBad (leAt b 0 4 % 8) (p.tensors (p.queueCtx q) d [0, 1, 2]) ||
           biasBad (p.tensorOf (p.queueCtx q) d 2) (p.tensorOf (p.queueCtx q) d 3)) 0x04])
      (fun u r => (u.callMasked r).getD (u.enterWork s.env r)) :=
  ⟨⟨_, rfl, gemmEpilogue.eq_1 _ _ _⟩, fun _ => rfl⟩

end

section
variable {s : State} {c : Instr}

/-- Every start command is one (Tables 06-1, 06-9, 07-2, 10-4, 11-5, 15-2). -/
theorem isStart_of_startOf {q : Fin 64} {mine : List Byte → Bool} (h : startOf c = some (q, mine)) (s : State) : IsStart c q mine s := by
  unfold startOf at h
  split at h
  case h_42 => exact absurd h (Option.some_ne_none _).symm
  all_goals obtain ⟨rfl, rfl⟩ := Prod.mk.inj (Option.some.inj h)
  case h_27 => exact (startsCall_coatLoad s _).isStart
  case h_29 => exact (startsCall_gemmEpilogue s _).isStart
  case h_39 => exact (startsCall_enqList s _).isStart
  case h_40 => exact (startsCall_enqSelect s _).isStart
  case h_41 => exact (startsCall_enqRepeat s _).isStart
  case h_30 | h_31 | h_32 | h_33 | h_34 | h_35 | h_36 | h_37 | h_38 => exact (startsCall_of_startWork rfl rfl (fun _ => rfl)).isStart
  all_goals exact ⟨_, _, rfl, rfl⟩

/-- What a start leaves of the package is what the start command does. -/
theorem IsStart.becomes {q : Nat} {mine : List Byte → Bool} {p : Pkg} (hstart : IsStart c q mine s) (hwork : s.pkg.working = true)
    (hp : ∀ body, s.pkg.start s.env q mine (fun d => startReads s.pkg (s.pkg.queueCtx q) d c) body = p) : Becomes c s p := by
  obtain ⟨f, body, hexec, hf⟩ := hstart
  exact becomes_work hexec hwork (hf.trans (hp body))

end

/-! ### What a start does to a head that it does not run -/

section
variable {p : Pkg} {e : Env} {q : Nat} {d : List Byte} {mine : List Byte → Bool} {reads : List Byte → List (Nat × Nat)} {body : Pkg → List Byte → Pkg}

theorem start_of_none (h : p.startable q = none) : p.start e q mine reads body = p := by
  simp only [Pkg.start, h]

section
variable (hnext : p.startable q = some d)
include hnext

theorem start_of_late (hlate : deadlinePassed e.tagHall d = true) : p.start e q mine reads body = p.completeHead e q d 0x21 0 := by
  simp only [Pkg.start, hnext, hlate, if_true]

variable (htime : deadlinePassed e.tagHall d = false)
include htime

theorem start_of_ownBad (hbad : ownBad d = true) : p.start e q mine reads body = p.completeHead e q d 0x3f 0x01 := by
  simp only [Pkg.start, hnext, htime, hbad, Bool.false_eq_true, if_false, if_true]

variable (hown : ownBad d = false)
include hown

theorem start_of_other (hother : mine d = false) : p.start e q mine reads body = p := by
  simp only [Pkg.start, hnext, htime, hown, hother, Bool.false_eq_true, if_false]

/-- A head of the command's own is read, and then ends, runs, or runs and is told what its lines met. -/
theorem start_of_mine (hmine : mine d = true) {u : Pkg} {o : LineOutcome} (hreads : p.readAhead e (p.queueCtx q) (reads d) = (u, o)) :
    p.start e q mine reads body =
      if o = .ok then body u d else if o = .failed then u.completeHead e q d 0x3f 0x0a else (body u d).updRun q (fun r => r.told e.tag o) := by
  simp only [Pkg.start, hnext, htime, hown, hmine, hreads, Bool.false_eq_true, if_false, if_true]
  cases o <;> rfl

end
end

/-- The run of a queue after a change of the queue's run is a changed one. -/
theorem runOf_updRun {p : Pkg} {q : Nat} {f : Run → Run} {r : Run} (h : (p.updRun q f).runOf q = some r) :
    ∃ r0, r = f r0 := by
  rw [Pkg.runOf] at h
  have hmem := List.mem_of_find?_eq_some h
  have hq : r.queue = q := of_decide_eq_true (List.find?_some (p := fun x : Run => decide (x.queue = q)) h)
  obtain ⟨x, -, hx⟩ := List.mem_map.1 hmem
  split at hx
  · exact ⟨x, hx.symm⟩
  · next hne => exact absurd (hx ▸ hq) hne

/-- A run that the package shows was told of lines that were read whole. -/
theorem runOf_started {p u : Pkg} {e : Env} {q : Nat} {d : List Byte} {body : Pkg → List Byte → Pkg} {o : LineOutcome} (ho : o ≠ .failed)
    (hp : p = if o = .ok then body u d else if o = .failed then u.completeHead e q d 0x3f 0x0a else (body u d).updRun q (fun r => r.told e.tag o))
    {r : Run} (h : p.runOf q = some r) : ∃ r0 : Run, r = r0.told e.tag o := by
  subst hp
  split at h
  · next hok => exact ⟨r, by rw [hok]; rfl⟩
  · exact runOf_updRun h

end Sys2Proof.Machine

namespace Sys2Proof

open Machine

/-- Settles O19: the cases of a start, in the dispatcher's order. -/
theorem startChecks : Obligations.StartChecks := by
  unfold Obligations.StartChecks
  intro s c q mine hstart hwork
  have his := isStart_of_startOf hstart s
  refine ⟨fun hnone => his.becomes hwork fun _ => start_of_none hnone, fun d hnext hlate => his.becomes hwork fun _ => start_of_late hnext hlate,
    fun d hnext htime hbad => his.becomes hwork fun _ => start_of_ownBad hnext htime hbad,
    fun d hs hother => his.becomes hwork fun _ => start_of_other hs.next hs.inTime hs.ownBits hother, fun d p o hs hmine hreads => ⟨?_, ?_⟩⟩
  · intro hfailed
    exact his.becomes hwork fun _ => by rw [start_of_mine hs.next hs.inTime hs.ownBits hmine hreads, hfailed]; rfl
  · intro ho
    obtain ⟨f, body, hexec, hf⟩ := his
    have hbec := becomes_work hexec hwork (hf.trans (start_of_mine hs.next hs.inTime hs.ownBits hmine hreads))
    exact hbec.answers fun r hr => runOf_started ho rfl hr

end Sys2Proof

/-! SUPPORT. Hearth calls that pass their checks (R228 to R230). -/

namespace Sys2Proof.Machine

theorem Becomes.of_eq {i : Instr} {s : State} {p p' : Pkg} (h : Becomes i s p) (heq : p = p') : Becomes i s p' := heq ▸ h

/-! ### A call that passes its checks runs -/

theorem isCall_of_id {d : List Byte} {id : Nat} (hkind : dKind d = 6) (hid : hId d = id) : isCall id d = true := by
  simp [isCall, hkind, hid]

section
variable {s : State} {q : Nat} {d : List Byte} {p : Pkg} {i : Instr} (hstarts : s.Starts q d) (hkind : dKind d = 6) (hreads : s.Reads i q d p)
include hstarts hkind hreads

section
variable {id len : Nat} {hs : List Nat} {extra : Pkg → List Byte → List Byte → List Verdict} {xs : List Verdict} (hid : hId d = id)
include hid

/-- The body of a call runs on its new run; a routine of the array group waits for no held die (Table 14-2). -/
theorem StartsCall.becomes {body : Pkg → Run → Pkg} (hcall : StartsCall i s q id len hs extra body)
    (hheld : (decide (id < 0x100) && (p.partDies (p.queueCtx q)).any p.tilesHeld) = false)
    (hextra : extra p d (p.paramBytes (p.queueCtx q) d len) = xs) (hok : p.callVerdict (p.queueCtx q) d hs len xs = none) :
    Becomes i s (body p (p.newRun s.env q d (p.paramBytes (p.queueCtx q) d len))) := by
  obtain ⟨f, hexec, hf⟩ := hcall.work
  rw [State.Reads, hcall.reads] at hreads
  refine becomes_work hexec hstarts.working (hf.trans ?_)
  rw [Pkg.startCall, start_of_starts hstarts (reads := fun d => s.pkg.callReads (s.pkg.queueCtx q) d hs len) hreads (isCall_of_id hkind hid)]
  dsimp only
  rw [hheld, if_neg Bool.false_ne_true, hextra, orRun_none p s.env q d hok]

end

end

/-- A run that is entered keeps its descriptor. -/
theorem desc_of_enterRun {s : State} {q : Nat} {d : List Byte} {p : Pkg} {i : Instr} (hstarts : s.Starts q d) (hreads : s.Reads i q d p) {r x : Run}
    (hqueue : r.queue = q) (hx : (p.enterRun r).runOf q = some x) : x.desc = r.desc := by
  subst hqueue
  obtain rfl := Option.some.inj ((enterRun_runOf (runOf_of_reads hstarts hreads)).symm.trans hx)
  exact slowed_keeps (g := Run.desc) (fun _ _ _ => rfl) p _ r

/-- A routine's run is entered and does its work. -/
theorem enterWork_of_runOf {p : Pkg} {e : Env} {r x : Run} (hx : (p.enterRun r).runOf r.queue = some x) :
    p.enterWork e r = (p.enterRun r).hearthWork e x := by
  simp only [Pkg.enterWork, hx]

section
variable {s : State} {q : Nat} {d : List Byte} {p : Pkg} {i : Instr} {id len : Nat} {hs : List Nat} {extra : Pkg → List Byte → List Byte → List Verdict}
variable {xs : List Verdict} (hcall : StartsCall i s q id len hs extra (fun u r => u.enterWork s.env r))
variable (hextra : extra p d (p.paramBytes (p.queueCtx q) d len) = xs) (hstarts : s.Starts q d) (hkind : dKind d = 6)
include hcall hextra hstarts hkind

/-- A compute routine starts: its run, which holds the call's descriptor, is entered and does its work. -/
theorem becomes_hearthWork (hid : hId d = id) (hreads : s.Reads i q d p) (hheld : (p.partDies (p.queueCtx q)).any p.tilesHeld = false)
    (hok : p.callVerdict (p.queueCtx q) d hs len xs = none) {x : Run}
    (hx : (p.enterRun (p.newRun s.env q d (p.paramBytes (p.queueCtx q) d len))).runOf q = some x) :
    hId x.desc = id ∧ Becomes i s ((p.enterRun (p.newRun s.env q d (p.paramBytes (p.queueCtx q) d len))).hearthWork s.env x) := by
  have hdesc : x.desc = d := desc_of_enterRun hstarts hreads rfl hx
  refine ⟨hdesc ▸ hid, ?_⟩
  rw [← enterWork_of_runOf hx]
  exact hcall.becomes hstarts hkind hreads hid (by rw [hheld, Bool.and_false]) hextra hok

/-- The work of a routine on its iterations. -/
theorem becomes_callWork {ins : List Nat} {body : Pkg → Run → Nat → CallOut}
    (hpart : ∀ (u : Pkg) (y : Run), hId y.desc = id → u.hearthWork s.env y = u.callWork s.env y ins body) :
    hId d = id → s.Reads i q d p → (p.partDies (p.queueCtx q)).any p.tilesHeld = false → p.callVerdict (p.queueCtx q) d hs len xs = none →
      let p1 := p.enterRun (p.newRun s.env q d (p.paramBytes (p.queueCtx q) d len))
      ∀ x, p1.runOf q = some x → Becomes i s (p1.callWork s.env x ins body) := by
  intro hid hreads hheld hok p1 x hx
  obtain ⟨hdesc, hbec⟩ := becomes_hearthWork hcall hextra hstarts hkind hid hreads hheld hok hx
  rwa [hpart _ x hdesc] at hbec

end

/-! ### COAT_LOAD (R187 to R189) -/

/-- Bytes that a load reads of the image at `a`: its header alone where that names no image. -/
abbrev Pkg.imageLength (p : Pkg) (a : Nat) : Nat :=
  let h := leNat (p.viewBytes a 4)
  if h % 256 = 0 ∨ h % 256 > 128 then 0x40 else imageBytes h

/-- The lines of a range that cannot be rebuilt, as a descriptor of queue `q` reads it. -/
abbrev Pkg.readImage (p : Pkg) (e : Env) (q a n : Nat) : Pkg × List Nat :=
  (linesOf a n).foldl (fun (st : Pkg × List Nat) l =>
    let x := st.1.touchLine e (.descriptor q) l
    (x.1, if x.2 = .failed then st.2 ++ [l] else st.2)) (p, [])

/-- A whole, valid image goes into its slot. -/
theorem loadWork_of_valid {p : Pkg} {e : Env} {r : Run} {a n : Nat} {u : Pkg} {im : CoatImage} (ha : leAt r.params 0 8 = a) (hslot : leAt r.params 8 1 ≤ 0x3f)
    (halign : a % 64 = 0) (hheader : p.listVerdict r.ctx a 0x40 = none) (hn : p.imageLength a = n) (hlist : p.listVerdict r.ctx a n = none)
    (hread : p.readImage e r.queue a n = (u, [])) (hparse : parseImage (u.viewBytes a n) = .inl im) :
    p.loadWork e r = (u.loadImage r.ctx (leAt r.params 8 1) im).enterRun (r.done e) := by
  subst ha hn
  have hwhole : (List.range (p.imageLength (leAt r.params 0 8))).find? (fun i =>
      ([] : List Nat).contains ((leAt r.params 0 8 + i) / 256 * 256) && u.byteBad (leAt r.params 0 8 + i)) = none := by simp
  unfold Pkg.loadWork
  refine (if_neg (Nat.not_lt.2 hslot)).trans ((if_neg (not_not.2 halign)).trans ?_)
  simp only [hheader, hlist, hread, hwhole, hparse]

/-! ### Routines of the array (R518, R519) -/

/-- An array's routine begins the copies of its outputs' masked pages, or does its work (R518, R519). -/
theorem becomes_masked {s : State} {q : Nat} {d : List Byte} {p : Pkg} {i : Instr} {id : Nat} {r : Run} (work : Pkg → Run → Pkg)
    (hbec : Becomes i s ((p.callMasked r).getD (p.enterWork s.env r))) (hstarts : s.Starts q d) (hreads : s.Reads i q d p) (hqueue : r.queue = q)
    (hid : hId r.desc = id) (hpart : ∀ (u : Pkg) (y : Run), hId y.desc = id → u.hearthWork s.env y = work u y) :
    (∀ u, p.callMasked r = some u → Becomes i s u) ∧
      (p.callMasked r = none → ∀ x, (p.enterRun r).runOf q = some x → Becomes i s (work (p.enterRun r) x)) := by
  refine ⟨fun u hmasked => ?_, fun hclear x hx => ?_⟩
  · rwa [hmasked] at hbec
  · have hdesc : x.desc = r.desc := desc_of_enterRun hstarts hreads hqueue hx
    rw [hclear, Option.getD_none, enterWork_of_runOf (hqueue ▸ hx), hpart _ x (by rw [hdesc, hid])] at hbec
    exact hbec

/-- The run of a GEMM_GROUPED: its parameter block holds its groups, whose tensor descriptors it copies (R218). -/
def Pkg.groupedRun (p : Pkg) (e : Env) (q : Nat) (d : List Byte) : Run :=
  { p.newRun e q d (p.paramBytes (p.queueCtx q) d (4 + 20 * leAt (p.paramBytes (p.queueCtx q) d 4) 0 4)) with
    extraTds := ((p.groupDescs (p.queueCtx q) d).map (fun gd => (List.range 4).map (fun h => p.tableEntry (p.queueCtx q) (dHandle gd h)))).flatten }

theorem becomes_gemmGrouped {s : State} {q : Fin 64} {d : List Byte} {p : Pkg} (hstarts : s.Starts q d) (hkind : dKind d = 6) (hid : hId d = 0x10)
    (hreads : s.Reads (.gemmGrouped q) q d p) (hheld : (p.partDies (p.queueCtx q)).any p.tilesHeld = false)
    (hok : p.groupedVerdict (p.queueCtx q) d = none) :
    Becomes (.gemmGrouped q) s ((p.callMasked (p.groupedRun s.env q d)).getD (p.enterWork s.env (p.groupedRun s.env q d))) := by
  refine becomes_work rfl hstarts.working ((start_of_starts hstarts (reads := fun d => s.pkg.groupReads (s.pkg.queueCtx q) d) hreads
    (isCall_of_id hkind hid) _).trans ?_)
  dsimp only
  rw [hheld, if_neg Bool.false_ne_true, orRun_none p s.env q d hok]
  rfl

end Sys2Proof.Machine

namespace Sys2Proof

open Machine

/-- Settles O27: each call's checks end, and its body runs on its new run. -/
theorem hearthStarts : Obligations.HearthStarts := by
  unfold Obligations.HearthStarts
  intro s q d p hstarts hkind _ e c b ok works
  refine ⟨?_, ?_, ?_, ?_, ?_, ?_, ?_, ?_, ?_, ?_, ?_, ?_, ?_, ?_⟩
  · intro im hid hreads hheld hok a slot h n rd hslot halign hheader hlist hread hparse
    have hbec := (startsCall_coatLoad s q).becomes hstarts hkind hreads hid (by rw [hheld, Bool.and_false]) rfl hok
    exact hbec.of_eq (loadWork_of_valid (a := a) rfl hslot halign hheader rfl hlist (Prod.ext rfl hread) hparse)
  · exact becomes_callWork (startsCall_of_startWork (i := .rmsNorm q) (s := s) rfl rfl (fun _ => rfl)) rfl hstarts hkind
      (fun u y hy => by simp only [Pkg.hearthWork, hy])
  · exact becomes_callWork (startsCall_of_startWork (i := .layerNorm q) (s := s) rfl rfl (fun _ => rfl)) rfl hstarts hkind
      (fun u y hy => by simp only [Pkg.hearthWork, hy])
  · exact becomes_callWork (startsCall_of_startWork (i := .softmaxQ q) (s := s) rfl rfl (fun _ => rfl)) rfl hstarts hkind
      (fun u y hy => by simp only [Pkg.hearthWork, hy])
  · exact becomes_callWork (startsCall_of_startWork (i := .topK q) (s := s) rfl rfl (fun _ => rfl)) rfl hstarts hkind
      (fun u y hy => by simp only [Pkg.hearthWork, hy])
  · exact becomes_callWork (startsCall_of_startWork (i := .haloPack q) (s := s) rfl rfl (fun _ => rfl)) rfl hstarts hkind
      (fun u y hy => by simp only [Pkg.hearthWork, hy])
  · exact becomes_callWork (startsCall_of_startWork (i := .haloUnpack q) (s := s) rfl rfl (fun _ => rfl)) rfl hstarts hkind
      (fun u y hy => by simp only [Pkg.hearthWork, hy])
  · intro t ix o hts
    refine ⟨?_, ?_⟩
    · exact becomes_callWork (startsCall_of_startWork (i := .gather q) (s := s) rfl rfl (fun _ => rfl)) (by rw [hts]; rfl) hstarts hkind
        (fun u y hy => by simp only [Pkg.hearthWork, hy])
    · exact becomes_callWork (startsCall_of_startWork (i := .scatterAdd q) (s := s) rfl rfl (fun _ => rfl)) (by rw [hts]; rfl) hstarts hkind
        (fun u y hy => by simp only [Pkg.hearthWork, hy])
  · intro hid hreads hheld hok p1 r hr
    obtain ⟨hdesc, hbec⟩ := becomes_hearthWork (startsCall_of_startWork (i := .ringAttn q) (s := s) rfl rfl (fun _ => rfl)) rfl hstarts hkind hid
      hreads hheld hok hr
    simpa only [Pkg.hearthWork, hdesc] using hbec
  · intro hid hreads hok
    exact (startsCall_enqList s q).becomes hstarts hkind hreads hid rfl rfl hok
  · intro hid hreads hok
    exact (startsCall_enqSelect s q).becomes hstarts hkind hreads hid rfl rfl hok
  · intro hid hreads hok
    exact (startsCall_enqRepeat s q).becomes hstarts hkind hreads hid rfl rfl hok
  · intro gemm r hid hreads hheld hok
    have hbec := (startsCall_gemmEpilogue s q).becomes hstarts hkind hreads hid (by rw [hheld, Bool.and_false]) rfl hok
    exact becomes_masked (fun u y => u.epilogueWork s.env y) hbec hstarts hreads rfl hid (fun u y hy => by simp only [Pkg.hearthWork, hy])
  · intro g tds r hid hreads hheld hok
    exact becomes_masked (fun u y => u.groupedWork s.env y) (becomes_gemmGrouped hstarts hkind hid hreads hheld hok) hstarts hreads rfl hid
      (fun u y hy => by simp only [Pkg.hearthWork, hy])

end Sys2Proof

/-! SUPPORT. Work on memory leaves every view of the package that shows nothing of memory, its controllers, its requesters or the records they raise
(R289, R291, R295, R316 to R323); the solves of the Anvils are such a view. -/

namespace Sys2Proof.Machine

/-- A view of the package that shows none of the parts that work on memory writes. -/
structure BesideMemory {β : Type} (g : Pkg → β) : Prop where
  regs : ∀ p x, g { p with regs := x } = g p
  mem : ∀ p x, g { p with mem := x } = g p
  bad : ∀ p x, g { p with bad := x } = g p
  raised : ∀ p x, g { p with raised := x } = g p
  dsp : ∀ p x, g { p with dsp := x } = g p
  stackCtl : ∀ p x, g { p with stackCtl := x } = g p
  ras : ∀ p x, g { p with ras := x } = g p
  mgt : ∀ p x, g { p with mgt := x } = g p
  copies : ∀ p x y, g { p with masks := x, ckp := y } = g p
  held : ∀ p x, g { p with held := x } = g p
  memOut : ∀ p x, g { p with memOut := x } = g p
  memDone : ∀ p x, g { p with memDone := x } = g p

namespace BesideMemory

section
variable {β : Type} {g : Pkg → β} (hg : BesideMemory g) (p : Pkg)
include hg

/-! ### Registers, records and bytes -/

theorem setReg (k : Nat) (w : W64) : g (p.setReg k w) = g p := hg.regs p _
theorem setFld (k : Nat) (f : Field) (v : Nat) : g (p.setFld k f v) = g p := hg.regs p _
theorem addReg (k n : Nat) : g (p.addReg k n) = g p := hg.regs p _
theorem setStack (s : Nat) (x : StackSt) : g (p.setStack s x) = g p := hg.stackCtl p _
theorem record (die unit kind detail : Nat) (data : List Byte) : g (p.record die unit kind detail data) = g p := hg.raised p _
theorem clearBad (line : Nat) : g (p.clearBad line) = g p := hg.bad p _
theorem clearBadBytes (line lo hi : Nat) : g (p.clearBadBytes line lo hi) = g p := hg.bad p _
theorem memAnswer (u : MemUser) (a code : Nat) (data : List Byte) : g (p.memAnswer u a code data) = g p := hg.memOut p _
theorem updRun (q : Nat) (f : Run → Run) : g (p.updRun q f) = g p := hg.dsp p _

theorem bump (ctrl : Nat) (f : Field) (k n : Nat) : g (p.bump ctrl f k n) = g p := by
  simp only [Pkg.bump, apply_ite g, hg.addReg, ite_self]

theorem memCount (s k n : Nat) : g (p.memCount s k n) = g p := hg.bump p _ _ _ _

theorem event (cls die unit kind detail : Nat) (data : List Byte) : g (p.event cls die unit kind detail data) = g p := by
  have hcount (k : Nat) (rs : List LogRec) : g (Pkg.rasCount { p with raised := rs } k 1) = g p := (hg.bump _ _ _ _ _).trans (hg.raised p rs)
  unfold Pkg.event
  dsimp only
  split
  · split
    · exact hcount _ _
    · exact (hg.ras _ _).trans (hcount _ _)
  · split
    · exact hcount _ _
    · exact hg.raised p _

theorem disturb (detail die unit : Nat) : g (p.disturb detail die unit) = g p := by
  simp only [Pkg.disturb, apply_ite g, hg.record, hg.setFld, hg.addReg, ite_self]

theorem setBytes (a : Nat) (bs : List Byte) : g (p.setBytes a bs) = g p := by
  induction bs generalizing p a with
  | nil => rfl
  | cons b bs ih => exact (ih _ _).trans (hg.mem p _)

theorem rekeyLine (r : Region) (l : Nat) : g (p.rekeyLine r l) = g p := by
  unfold Pkg.rekeyLine
  split
  · split
    · exact (hg.mgt _ _).trans (hg.setBytes p _ _)
    · rfl
  · rfl

/-! ### Lines and stripes (R293 to R295, R317 to R323) -/

theorem rebuildLine (line addr : Nat) : g (p.rebuildLine line addr) = g p := by
  simp only [Pkg.rebuildLine, Pkg.memErr, hg.disturb, hg.event, apply_ite g, hg.memCount, hg.addReg, hg.setFld, hg.clearBad, ite_self]

theorem failLine (kind line addr : Nat) : g (p.failLine kind line addr) = g p := by
  simp only [Pkg.failLine, Pkg.memErr, hg.event, apply_ite g, hg.addReg, hg.setFld, ite_self]

theorem countRead (dev n : Nat) : g (p.countRead dev n) = g p := by
  simp only [Pkg.countRead, apply_ite g, hg.memCount, ite_self]

theorem countCal (dev : Nat) : g (p.countCal dev) = g p := by
  simp only [Pkg.countCal, apply_ite g, hg.memCount, ite_self]

theorem suspendRetrain (s : Nat) : g (p.suspendRetrain s) = g p := by
  unfold Pkg.suspendRetrain
  dsimp only
  split
  · simp only [apply_ite g, hg.record, hg.setStack, ite_self]
  · rfl

theorem pushBehind (r : Region) (line : Nat) : g (p.pushBehind r line) = g p := by
  simp only [Pkg.pushBehind, apply_ite g, hg.suspendRetrain, hg.setFld, hg.setStack, ite_self]

theorem checkDirect (r : Region) (dev j addr : Nat) : Leaves g (g p) (p.checkDirect r dev j addr) := by
  unfold Pkg.checkDirect
  exact keeps_ite (leaves_mk rfl _) (keeps_ite (leaves_mk (hg.failLine _ _ _ _) _)
    (keeps_ite (leaves_mk (hg.rebuildLine _ _ _) _) (leaves_mk (hg.failLine _ _ _ _) _)))

theorem mendLine (stripe : List Nat) (line addr : Nat) : Leaves g (g p) (p.mendLine stripe line addr) := by
  unfold Pkg.mendLine
  exact keeps_ite (leaves_mk (hg.rebuildLine _ _ _) _) (leaves_mk (hg.failLine _ _ _ _) _)

theorem checkLine (r : Region) (dev j addr : Nat) : Leaves g (g p) (p.checkLine r dev j addr) := by
  have hcount : g (if dev < 24 then p.memCount dev (Reg.MEM_CNT_CAL_READS dev) 1 else p) = g p := by
    simp only [apply_ite g, hg.memCount, ite_self]
  have hfailed {q : Pkg} (hq : g q = g p) (kind line : Nat) : Leaves g (g p) (q.failLine kind line addr, LineOutcome.failed) :=
    leaves_mk ((hg.failLine q kind line addr).trans hq) _
  have hdirect {q : Pkg} (hq : g q = g p) : Leaves g (g p) (q.checkDirect r dev j addr) := ⟨(hg.checkDirect q r dev j addr).eq.trans hq⟩
  have hmended (x : Pkg × LineOutcome) (hx : Leaves g (g p) x) : Leaves g (g p) (x.1.checkDirect r dev j addr) := hdirect hx.eq
  unfold Pkg.checkLine
  refine keeps_ite (hfailed rfl _ _) (keeps_ite ?_ (keeps_ite ?_ (hdirect rfl)))
  · exact keeps_ite (hfailed rfl _ _) (keeps_ite (hfailed hcount _ _) (keeps_ite (leaves_mk hcount _)
      (keeps_ite (hfailed hcount _ _) (leaves_mk hcount _))))
  · refine keeps_ite (keeps_ite (leaves_mk (hdirect (hg.countCal p dev)).eq _) (hdirect (hg.countCal p dev))) ?_
    refine keeps_ite (leaves_mk hcount _) (keeps_ite (leaves_mk hcount _) (leaves_mk (hmended _ ?_).eq _))
    exact keeps_foldl (fun s b => leaves_mk (hg.mendLine s.1 _ b addr).eq _) (leaves_mk ((hg.suspendRetrain _ _).trans hcount) _)

theorem writePlain (r : Region) (a : Nat) (bs : List Byte) : Leaves g (g p) (p.writePlain r a bs) := by
  unfold Pkg.writePlain
  refine keeps_ite (leaves_mk (hg.failLine _ _ _ _) _) (keeps_ite (leaves_mk (hg.failLine _ _ _ _) _) (leaves_mk ?_ _))
  simp only [hg.setBytes, hg.rekeyLine, hg.clearBadBytes, apply_ite g, hg.memCount, hg.countCal, ite_self]

theorem writeStripe (r : Region) (dev : Nat) (ws : List (Nat × List Byte)) : Leaves g (g p) (p.writeStripe r dev ws) := by
  have hwritten {q : Pkg} (hq : Keeps g (g p) q) :
      Keeps g (g p) (ws.foldl (fun (q : Pkg) w => (q.rekeyLine r (w.1 / 256 * 256)).setBytes w.1 w.2) q) :=
    keeps_foldl (fun s w => ⟨(hg.setBytes _ _ _).trans (hg.rekeyLine s r _)⟩) hq
  have hcleared (js : List Nat) {q : Pkg} (hq : Keeps g (g p) q) : Keeps g (g p) (js.foldl (fun q j => q.clearBad (r.code dev j)) q) :=
    keeps_foldl (fun s j => ⟨hg.clearBad s _⟩) hq
  have hlisted (js : List Nat) {q : Pkg} (hq : Keeps g (g p) q) : Keeps g (g p) (js.foldl (fun q j => q.pushBehind r (r.code dev j)) q) :=
    keeps_foldl (fun s j => ⟨hg.pushBehind s r _⟩) hq
  have hcounted (x : Pkg × LineOutcome) (hx : Leaves g (g p) x) (n m : Nat) :
      g (if dev < 24 then (x.1.memCount dev (Reg.MEM_CNT_WR_LINES dev) n).memCount dev (Reg.MEM_CNT_RMW dev) m else x.1) = g p := by
    simp only [apply_ite g, hg.memCount, ite_self]
    exact hx.eq
  unfold Pkg.writeStripe
  refine keeps_ite (leaves_mk (hg.failLine _ _ _ _) _) (keeps_ite ?_ (leaves_mk (hlisted _ ⟨?_⟩).eq _))
  · exact keeps_foldl (fun s j => leaves_mk (hg.checkLine s.1 r dev j _).eq _) (leaves_mk rfl _)
  · refine (hg.clearBad _ _).trans (hcleared _ (hwritten ⟨hcounted _ ?_ _ _⟩)).eq
    exact keeps_foldl (fun s j => leaves_mk (hg.checkLine s.1 r dev j _).eq _) (leaves_mk rfl _)

/-! ### Requests (R291, R318, R319, R518) -/

theorem copyPage (m : PageMask) : g (p.copyPage m) = g p := by
  unfold Pkg.copyPage
  split
  · rfl
  · split
    · rfl
    · split
      · rfl
      · exact hg.copies p _ _

theorem holdWrite (now : Nat) (u : MemUser) (a : Nat) (bs : List Byte) : g (p.holdWrite now u a bs) = g p :=
  (hg.held _ _).trans (keeps_foldl (g := g) (fun s m => ⟨hg.copyPage s m⟩) ⟨rfl⟩).eq

theorem memReply (w : WaitingReq) (s : Served) : g (p.memReply w s) = g p := by
  unfold Pkg.memReply
  split
  · exact hg.memDone p _
  · dsimp only
    split
    · split
      · exact (hg.memDone _ _).trans (hg.memAnswer p _ _ _ _)
      · exact hg.memAnswer p _ _ _ _
    · exact hg.memAnswer p _ _ _ _

variable (e : Env)

theorem tellRun (u : MemUser) (o : LineOutcome) : g (p.tellRun e u o) = g p := by
  unfold Pkg.tellRun
  split
  · simp only [apply_ite g, hg.updRun, ite_self]
  · rfl

theorem tellOther (me : Option MemUser) (u : MemUser) (o : LineOutcome) : Leaves g (g p) (p.tellOther e me u o) := by
  unfold Pkg.tellOther
  exact keeps_ite (leaves_mk rfl _) (leaves_mk (hg.tellRun p e u o) _)

theorem updateStripe (me : Option MemUser) (r : Region) (dev j : Nat) (own : List (Nat × List Byte)) :
    Leaves g (g p) (p.updateStripe e me r dev j own) := by
  have hwrite {q : Pkg} (hq : Keeps g (g p) q) (ws : List (Nat × List Byte)) : Leaves g (g p) (q.writeStripe r dev ws) :=
    ⟨(hg.writeStripe q r dev ws).eq.trans hq.eq⟩
  unfold Pkg.updateStripe
  refine keeps_foldl (fun s w => leaves_mk ?_ _) (leaves_mk (hwrite (keeps_ite ⟨rfl⟩ ⟨hg.setStack _ _ _⟩) _).eq _)
  exact (keeps_ite (g := g) ⟨(hg.memAnswer _ _ _ _ _).trans (hg.tellOther s.1 e me w.user _).eq⟩ ⟨(hg.tellOther s.1 e me w.user _).eq⟩).eq

theorem markStripe (me : Option MemUser) (r : Region) (dev j : Nat) : Leaves g (g p) (p.markStripe e me r dev j) := by
  unfold Pkg.markStripe
  exact keeps_foldl (fun s w => leaves_mk ((hg.tellOther _ e me _ _).eq.trans (hg.countCal s.1 dev)) _) (leaves_mk (hg.setStack _ _ _) _)

theorem settleStripe (me : Option MemUser) (r : Region) (dev j : Nat) : Leaves g (g p) (p.settleStripe e me r dev j) := by
  unfold Pkg.settleStripe
  exact keeps_ite (leaves_mk rfl _) (keeps_ite (hg.markStripe p e me r dev j) (hg.updateStripe p e me r dev j []))

theorem writeOrQueue (u : MemUser) (r : Region) (dev j : Nat) (own : List (Nat × List Byte)) :
    Leaves g (g p) (p.writeOrQueue e u r dev j own) := by
  have hmark {q : Pkg} (hq : g q = g p) : Leaves g (g p) (q.markStripe e (some u) r dev j) := ⟨(hg.markStripe q e (some u) r dev j).eq.trans hq⟩
  unfold Pkg.writeOrQueue
  exact keeps_ite (hmark (hg.setStack _ _ _)) (hg.updateStripe p e (some u) r dev j own)

theorem serveWrite (me : Option MemUser) (r : Region) (w : WaitingReq) (bs : List Byte) : Leaves g (g p) (p.serveWrite e me r w bs) := by
  have hheld := hg.holdWrite p e.hall w.user w.addr bs
  unfold Pkg.serveWrite
  refine keeps_ite (leaves_mk ?_ _) (keeps_ite (leaves_mk (hg.setStack _ _ _) _)
    (leaves_mk ((hg.tellOther _ e me _ _).eq.trans (hg.writePlain p r w.addr bs).eq) _))
  split
  · exact (hg.updRun _ _ _).trans hheld
  · exact hheld

theorem serveRead (me : Option MemUser) (r : Region) (w : WaitingReq) : Leaves g (g p) (p.serveRead e me r w) := by
  have hsettled (dev j : Nat) : Leaves g (g p) (if r.patch then p.settleStripe e me r dev j else (p, .ok)) :=
    keeps_ite (hg.settleStripe p e me r dev j) (leaves_mk rfl _)
  unfold Pkg.serveRead
  exact leaves_mk ((hg.tellOther _ e me _ _).eq.trans ((hg.checkLine _ r _ _ _).eq.trans ((hg.countRead _ _ _).trans (hsettled _ _).eq))) _

theorem serveNow (me : Option MemUser) (w : WaitingReq) : Leaves g (g p) (p.serveNow e me w) := by
  have hreply {q : Pkg} (hq : Keeps g (g p) q) (x : Served) : g (q.memReply w x) = g p := (hg.memReply q w x).trans hq.eq
  unfold Pkg.serveNow
  split
  · exact leaves_mk (hreply ⟨rfl⟩ _) _
  · rename_i r _
    split
    · exact leaves_mk (hreply ⟨(hg.serveRead p e me r w).eq⟩ _) _
    · rename_i bs _
      have hserved := hg.serveWrite p e me r w bs
      exact leaves_mk (keeps_ite ⟨(hg.memAnswer _ _ _ _ _).trans hserved.eq⟩ ⟨hreply ⟨hserved.eq⟩ _⟩).eq _
    · have hread := hg.serveRead p e me r w
      exact keeps_ite (leaves_mk (hreply ⟨hread.eq⟩ _) _) (leaves_mk (hreply ⟨(hg.serveWrite _ e me r w _).eq.trans hread.eq⟩ _) _)

theorem settleLine (u : MemUser) (a : Nat) : Leaves g (g p) (p.settleLine e u a) := by
  unfold Pkg.settleLine
  split
  · exact leaves_mk rfl _
  · exact keeps_foldl (fun s w => leaves_mk ((hg.serveNow _ e (some u) w).eq.trans (hg.setStack s.1 _ _)) _) (leaves_mk rfl _)

/-! ### Stores (R40, R289, R291, R518) -/

theorem writeAll (u : MemUser) (ps : List WritePiece) : Leaves g (g p) (p.writeAll e u ps) := by
  unfold Pkg.writeAll
  refine keeps_foldl (fun s x => ?_) (keeps_foldl (fun s w => leaves_mk (hg.writePlain s.1 _ _ _).eq _) (leaves_mk rfl _))
  split
  · exact ⟨rfl⟩
  · exact leaves_mk (hg.writeOrQueue s.1 e u _ _ _ _).eq _

theorem storeAll (u : MemUser) (segs : List (Nat × List Byte)) : Leaves g (g p) (p.storeAll e u segs) := by
  unfold Pkg.storeAll
  refine leaves_mk (leaves_trans ?_ (hg.writeAll _ e u _)).eq _
  exact keeps_foldl (fun s l => leaves_mk (hg.settleLine s.1 e u l).eq _) (leaves_mk rfl _)

theorem storeOrHold (u : MemUser) (a : Nat) (bs : List Byte) : Leaves g (g p) (p.storeOrHold e u a bs) := by
  unfold Pkg.storeOrHold
  exact keeps_ite (leaves_mk (hg.holdWrite p _ _ _ _) _) (hg.storeAll p e u _)

end

end BesideMemory

/-! ### The solves of the Anvils (R241) -/

theorem besideMemory_anvils : BesideMemory Pkg.anvils :=
  ⟨fun _ _ => rfl, fun _ _ => rfl, fun _ _ => rfl, fun _ _ => rfl, fun _ _ => rfl, fun _ _ => rfl, fun _ _ => rfl, fun _ _ => rfl, fun _ _ _ => rfl,
    fun _ _ => rfl, fun _ _ => rfl, fun _ _ => rfl⟩

section
variable (p : Pkg)

@[simp] theorem anvState_anvils (h st : Nat) : (p.anvState h st).anvils = p.anvils := rfl
@[simp] theorem anvCount_anvils (h k n : Nat) : (p.anvCount h k n).anvils = p.anvils := besideMemory_anvils.bump p _ _ _ _

@[simp] theorem commitFlags_anvils (k f : Nat) : (p.commitFlags k f).anvils = p.anvils := by
  unfold Pkg.commitFlags
  dsimp only
  split <;> rfl

/-- What a solve leaves in its workspace changes no solve. -/
@[simp] theorem scratch_anvils (e : Env) (r : Run) : (p.scratch e r).anvils = p.anvils := (besideMemory_anvils.storeOrHold _ e _ _ _).eq

end

end Sys2Proof.Machine

/-! SUPPORT. What the commands of a solve do: its attempts, its setup phases and its iterations (R249 to R252, R257, R262 to R267, R284). -/

namespace Sys2Proof.Machine

/-! ### An Anvil's solve and its run (R206, R241) -/

/-- A run found for a queue is the queue's. -/
theorem queue_of_runOf {p : Pkg} {q : Nat} {r : Run} (h : p.runOf q = some r) : r.queue = q :=
  of_decide_eq_true (List.find?_some (p := fun x : Run => decide (x.queue = q)) h)

theorem mem_runQueues_of_runOf {p : Pkg} {q : Nat} {r : Run} (h : p.runOf q = some r) : q ∈ p.runQueues :=
  queue_of_runOf h ▸ List.mem_map_of_mem (List.mem_of_find?_eq_some h)

theorem solve_of_anvils {p q : Pkg} (h : q.anvils = p.anvils) (k : Nat) : q.solve k = p.solve k :=
  congrArg (fun m : List (Nat × AnvSolve) => assoc? m k) h

@[simp] theorem solve_setSolve (p : Pkg) (h : Nat) (v : AnvSolve) : (p.setSolve h v).solve h = some v := assoc_assocPut p.anvils h v

/-! ### Units of work (R249, R250, R252) -/

/-- What an attempt leaves: the solve to be retried, what passing the range leaves, or what the work's end leaves. -/
def Pkg.afterAttempt {α : Type} (p : Pkg) (h : Nat) (v : AnvSolve) (x : Attempt α) (range : α → Pkg) (done : α → AnvWork → Pkg) : Pkg :=
  match x with
  | .retry g => p.retrySolve h v g
  | .range y => range y
  | .done y w => done y w

/-- A command that attempts a unit of work does one of three things. -/
theorem becomes_attempt {α : Type} {c : Instr} {s : State} {p : Pkg} {h : Nat} {v : AnvSolve} {x : Attempt α} {range : α → Pkg}
    {done : α → AnvWork → Pkg} (hbec : Becomes c s (p.afterAttempt h v x range done)) :
    (∀ g, x = .retry g → Becomes c s (p.retrySolve h v g)) ∧ (∀ y, x = .range y → Becomes c s (range y)) ∧
      ∀ y w, x = .done y w → Becomes c s (done y w) := by
  refine ⟨fun g hx => ?_, fun y hx => ?_, fun y w hx => ?_⟩ <;> (subst hx; exact hbec)

/-- The matrices of a solve, by their headers as its start copied them (R257). -/
def AnvSolve.matrices (v : AnvSolve) : List MatHdr := v.heads.map (fun x => MatHdr.mk x.1 x.2)

/-- What the setup scan reads: the input vectors, then the matrices (R289, R321, R322). -/
def Pkg.scanReads (p : Pkg) (e : Env) (v : AnvSolve) (r : Run) : Pkg × LineOutcome :=
  v.matrices.foldl (fun (st : Pkg × LineOutcome) m => let y := st.1.touchMat e (.descriptor r.queue) m; (y.1, st.2.join y.2))
    (p.touchInputs e r (solveInputs r.desc))

/-- The first setup phase after its reads: an input that could not be read is reported and the run goes on as the read left it (R322); a cause that the scan
finds ends the solve (Table 07-7); else the inputs are taken (R245). -/
def AnvSolve.scanned (v : AnvSolve) (e : Env) (h : Nat) (r : Run) (ms : List MatHdr) (rd : Pkg × LineOutcome) : Pkg :=
  let r1 := r.readOutcome e rd.2
  if rd.2 = .failed then
    let y := rd.1.reportSolve e h v { r1 with undef := false }
    y.1.setRun y.2
  else match rd.1.scanCause r (ms.headD ⟨0, []⟩) ms[1]? with
  | some cause =>
    let ki := solveInfo v r 0x3f
    ((rd.1.setRun { r1.abort e.tag cause with finished := true, endBeat := e.tag, kindInfo := ki.1, detail := ki.2 }).dropSolve h).scratch e r
  | none =>
    rd.1.afterAttempt h v (v.attempt (rd.1.scanSolve r (ms.headD ⟨0, []⟩) ms[1]?))
      (fun d => ((rd.1.setRun r1).setSolve h { v with outs := d.2 }).endSolve e h 0x25)
      (fun d w => (rd.1.commitSolve e h r1 { v with key := rd.1.solveKey r ms, phase := 1, data := d.1, outs := d.2 } w).anvState h 1)

section
variable {v : AnvSolve} {r : Run} {ms : List MatHdr} {rd : Pkg × LineOutcome} (e : Env) (h : Nat)

theorem scanned_of_failed (hfailed : rd.2 = .failed) :
    let y := rd.1.reportSolve e h v { r.readOutcome e rd.2 with undef := false }
    v.scanned e h r ms rd = y.1.setRun y.2 := by
  simp only [AnvSolve.scanned, if_pos hfailed]

variable (hread : rd.2 ≠ .failed)
include hread

theorem scanned_of_cause {cause : Nat} (hcause : rd.1.scanCause r (ms.headD ⟨0, []⟩) ms[1]? = some cause) :
    v.scanned e h r ms rd = ((rd.1.setRun { (r.readOutcome e rd.2).abort e.tag cause with
      finished := true, endBeat := e.tag, kindInfo := (solveInfo v r 0x3f).1, detail := (solveInfo v r 0x3f).2 }).dropSolve h).scratch e r := by
  simp only [AnvSolve.scanned, if_neg hread, hcause]

theorem scanned_of_clean (hclean : rd.1.scanCause r (ms.headD ⟨0, []⟩) ms[1]? = none) :
    v.scanned e h r ms rd = rd.1.afterAttempt h v (v.attempt (rd.1.scanSolve r (ms.headD ⟨0, []⟩) ms[1]?))
      (fun d => ((rd.1.setRun (r.readOutcome e rd.2)).setSolve h { v with outs := d.2 }).endSolve e h 0x25)
      (fun d w => (rd.1.commitSolve e h (r.readOutcome e rd.2) { v with key := rd.1.solveKey r ms, phase := 1, data := d.1, outs := d.2 } w).anvState
        h 1) := by
  simp only [AnvSolve.scanned, if_neg hread, hclean]

end

section
variable {p : Pkg} {h : Nat} (e : Env)

/-- With no solve that may work an Anvil does nothing. -/
theorem solveCommands_of_none (hnone : p.solveRun h = none) (fail : Option CheckFail) :
    setupPhaseCommit h fail e p = p ∧ iterationCommit h fail e p = p ∧ solveReturnEnd h fail e p = p := by
  refine ⟨?_, ?_, ?_⟩
  · simp only [setupPhaseCommit, hnone]
  · simp only [iterationCommit, hnone]
  · simp only [solveReturnEnd, hnone]

variable {v : AnvSolve} {r : Run} (hrun : p.solveRun h = some (v, r))
include hrun

section
variable (hopen : v.ended = none)
include hopen

theorem solveReturnEnd_of_open (fail : Option CheckFail) : solveReturnEnd h fail e p = p := by
  simp only [solveReturnEnd, hrun, hopen]

/-! ### Setup phases (R252, R257, R267) -/

section
variable (hphase : v.phase < v.phases)
include hphase

theorem setupPhaseCommit_of_fail (fl : CheckFail) : setupPhaseCommit h (some fl) e p = p.failSolve e h v fl := by
  simp [setupPhaseCommit, hrun, hopen, hphase]

/-- The second of three phases forms the preconditioner. -/
theorem setupPhaseCommit_of_factor (hone : v.phase = 1) (hthree : v.phases = 3) : setupPhaseCommit h none e p =
    p.afterAttempt h v
      (v.attempt (do
        formFactor (anvPc r.desc) (pFloor r.params) (pBlock r.params) (pCheb r.params) (pSca r.params 0x40 ⟨0, 0⟩) (pSca r.params 0x48 ⟨0, 0⟩)
          (← v.data.a.rows.mapM (fun x => mergeCols x.es))))
      (fun _ => p.endSolve e h 0x25) (fun y w => (p.commitSolve e h r { v with phase := 2, factor := y } w).anvState h 1) := by
  have hgoes : ¬(v.phase ≥ v.phases ∨ v.ended.isSome = true) := by simp [hopen, hphase]
  have hscanned : ¬v.phase = 0 := by omega
  have hfactor : v.phase = 1 ∧ v.phases = 3 := ⟨hone, hthree⟩
  simp only [setupPhaseCommit, hrun, if_neg hgoes, if_neg hscanned, if_pos hfactor]
  cases v.attempt _ <;> rfl

/-- The last phase forms the first residual. -/
theorem setupPhaseCommit_of_last (hscanned : v.phase ≠ 0) (hlast : ¬(v.phase = 1 ∧ v.phases = 3)) : setupPhaseCommit h none e p =
    p.afterAttempt h v (v.attempt (v.first r)) (fun _ => p.endSolve e h 0x25) (fun t w =>
      (p.commitSolve e h r { (v.afterStep t) with phase := v.phases, resid0 := t.report.f64 } w).anvState h 2) := by
  have hgoes : ¬(v.phase ≥ v.phases ∨ v.ended.isSome = true) := by simp [hopen, hphase]
  simp only [setupPhaseCommit, hrun, if_neg hgoes, if_neg hscanned, if_neg hlast]
  cases v.attempt _ <;> rfl

section
variable (hscan : v.phase = 0)
include hscan

/-- The first phase scans what it read. -/
theorem setupPhaseCommit_of_scan : setupPhaseCommit h none e p = v.scanned e h r v.matrices (p.scanReads e v r) := by
  have hgoes : ¬(v.phase ≥ v.phases ∨ v.ended.isSome = true) := by simp [hopen, hphase]
  simp only [setupPhaseCommit, hrun, if_neg hgoes, if_pos hscan, Pkg.scanReads, AnvSolve.matrices]
  generalize v.heads.map (fun x => MatHdr.mk x.1 x.2) = ms
  generalize ms.foldl _ _ = rd
  by_cases hread : rd.2 = .failed
  · simp only [AnvSolve.scanned, if_pos hread]
  · simp only [AnvSolve.scanned, if_neg hread]
    cases rd.1.scanCause r (ms.headD ⟨0, []⟩) ms[1]? with
    | some cause => rfl
    | none => cases v.attempt (rd.1.scanSolve r (ms.headD ⟨0, []⟩) ms[1]?) <;> rfl

end
end

/-! ### Iterations (R252, R262, R265, R276) -/

section
variable (hphase : v.phases ≤ v.phase)
include hphase

theorem iterationCommit_of_fail (fl : CheckFail) : iterationCommit h (some fl) e p = p.failSolve e h v fl := by
  simp [iterationCommit, hrun, hopen, hphase]

/-- An iteration is attempted; without a step it broke down. -/
theorem iterationCommit_of_open : iterationCommit h none e p =
    p.afterAttempt h v (v.attempt (v.iterate r)) (fun _ => p.endSolve e h (v.stopWith 0x25))
      (fun step w => step.elim (p.endSolve e h (v.stopWith 0x27)) (fun t => p.commitIteration e h r v t w)) := by
  have hgoes : ¬(v.phase < v.phases ∨ v.ended.isSome = true) := by simp [hopen, hphase]
  simp only [iterationCommit, hrun, if_neg hgoes]
  rcases v.attempt (v.iterate r) with g | y | ⟨_ | t, w⟩ <;> rfl

end
end

/-! ### The return (R280 to R282) -/

section
variable {code : Nat} (hended : v.ended = some code)
include hended

theorem solveReturnEnd_of_fail (fl : CheckFail) : solveReturnEnd h (some fl) e p = p.failSolve e h v fl := by
  simp only [solveReturnEnd, hrun, hended]

end
end
end Sys2Proof.Machine

namespace Sys2Proof

open Machine

/-- Settles O37: each phase is an attempt of its work, the first one on what its scan read. -/
theorem solveSetup : Obligations.SolveSetup := by
  unfold Obligations.SolveSetup
  intro s h hwork p e
  refine ⟨fun hnone f => ?_, fun v r hrun => ⟨fun fl hopen hphase => ?_, fun fl hopen hphase => ?_, fun fl st hended => ?_, fun hopen hphase =>
    ⟨fun hscan => ?_, fun hscanned _ => ?_, fun hone hthree => ?_⟩⟩⟩
  · obtain ⟨hsetup, hiterate, hreturn⟩ := solveCommands_of_none e hnone f
    exact ⟨becomes_work rfl hwork hsetup, becomes_work rfl hwork hiterate, becomes_work rfl hwork hreturn⟩
  · exact becomes_work rfl hwork (setupPhaseCommit_of_fail e hrun hopen hphase fl)
  · exact becomes_work rfl hwork (iterationCommit_of_fail e hrun hopen hphase fl)
  · exact becomes_work rfl hwork (solveReturnEnd_of_fail e hrun hended fl)
  · intro ms a rd p1 r1 ki y
    have hbec : Becomes (.setupPhaseCommit h none) s (v.scanned e h r ms rd) :=
      becomes_work rfl hwork (setupPhaseCommit_of_scan e hrun hopen hphase hscan)
    refine ⟨fun hfailed => hbec.of_eq (scanned_of_failed e h hfailed), fun cause hread hcause => hbec.of_eq (scanned_of_cause e h hread hcause),
      fun hread hclean => ?_⟩
    exact becomes_attempt (hbec.of_eq (scanned_of_clean e h hread hclean))
  · by_cases hfactor : v.phase = 1 ∧ v.phases = 3
    · exact ⟨fun _ _ hlast => absurd hfactor hlast, fun _ _ hlast => absurd hfactor hlast, fun _ _ _ hlast => absurd hfactor hlast⟩
    · obtain ⟨hretry, hrange, hdone⟩ :=
        becomes_attempt (becomes_work (c := .setupPhaseCommit h none) rfl hwork (setupPhaseCommit_of_last e hrun hopen hphase hscanned hfactor))
      exact ⟨fun g hg _ => hretry g hg, fun t ht _ => hrange t ht, fun t w ht _ => hdone t w ht⟩
  · exact becomes_attempt (becomes_work rfl hwork (setupPhaseCommit_of_factor e hrun hopen hphase hone hthree))

end Sys2Proof

/-! SUPPORT. What an iteration's commit makes of the solve (R252, R262, R263, R273 to R279). -/

namespace Sys2Proof.Machine

/-! ### What a commit and an end make of the solve (R252, R276, R281) -/

/-- A solve as a commit of a unit of work leaves it. -/
def AnvSolve.committed (v : AnvSolve) (e : Env) (w : AnvWork) : AnvSolve :=
  { v with lastCommit := e.tag, again := false, gam := w.gam, unreliable := v.unreliable || w.unreliable, pivots := v.pivots + w.pivots }

/-- A committed solve is the one that its Anvil holds: the workspace and the counts touch no solve. -/
theorem commitSolve_solve (p : Pkg) (e : Env) (h : Nat) (r : Run) (v : AnvSolve) (w : AnvWork) :
    (p.commitSolve e h r v w).solve h = some (v.committed e w) := by
  refine (solve_of_anvils ((scratch_anvils _ e r).trans (anvCount_anvils _ h _ _)) h).trans ?_
  exact solve_setSolve _ h _

theorem endSolve_solve {p : Pkg} {h : Nat} {v : AnvSolve} (hsolve : p.solve h = some v) (e : Env) (st : Nat) :
    (p.endSolve e h st).solve h = some { v with ended := some st, endTag := e.tag } := by
  simp only [Pkg.endSolve, hsolve]
  exact solve_setSolve _ h _

/-- The status with which an iteration's tests end a solve, if they do (R263, R273 to R276). -/
def AnvSolve.endOf (v : AnvSolve) (r : Run) (t : AnvStep) : Option Nat :=
  if v.soft then some 0x21 else match t.ends with
    | some st => some st
    | none => if v.iters + 1 = pMaxit r.params then some 0x26 else none

/-- A solve after an iteration, before its tests end it. -/
def AnvSolve.iterated (v : AnvSolve) (e : Env) (t : AnvStep) : AnvSolve :=
  let out := if v.soft then none else t.ends
  { (v.afterStep t) with
    iters := v.iters + 1, inner := v.inner + t.cycles, lastIter := e.tag, innerHit := v.innerHit || t.hit, tracked := out != some 0,
    dualToo := out.isSome && t.dual, cert := t.cert.f64 }

/-- An iteration commits, and its tests end the solve or let it go on. -/
theorem commitIteration_eq (p : Pkg) (e : Env) (h : Nat) (r : Run) (v : AnvSolve) (t : AnvStep) (w : AnvWork) :
    let p1 := ((p.commitSolve e h r (v.iterated e t) w).anvCount h (Reg.ANV_CNT_ITER h) 1).anvState h 2
    p.commitIteration e h r v t w = (v.endOf r t).elim p1 (p1.endSolve e h) := by
  unfold Pkg.commitIteration AnvSolve.endOf AnvSolve.iterated
  cases v.soft with
  | true => rfl
  | false =>
    cases t.ends with
    | some st => rfl
    | none => by_cases hlast : v.iters + 1 = pMaxit r.params <;> simp [hlast]

/-- A committed iteration's solve. -/
theorem commitIteration_solve (p : Pkg) (e : Env) (h : Nat) (r : Run) {v : AnvSolve} (hopen : v.ended = none) (t : AnvStep) (w : AnvWork) :
    ∃ v1 : AnvSolve, (p.commitIteration e h r v t w).solve h = some v1 ∧ v1.iters = v.iters + 1 ∧ v1.vars = t.vars ∧ v1.outs = t.outs ∧
      v1.lastIter = e.tag ∧ v1.gam = w.gam ∧ v1.again = false ∧ v1.ended = v.endOf r t := by
  have hsolve : (((p.commitSolve e h r (v.iterated e t) w).anvCount h (Reg.ANV_CNT_ITER h) 1).anvState h 2).solve h =
      some ((v.iterated e t).committed e w) :=
    (solve_of_anvils ((anvState_anvils _ h 2).trans (anvCount_anvils _ h _ 1)) h).trans (commitSolve_solve p e h r _ w)
  rw [commitIteration_eq]
  cases v.endOf r t with
  | none => exact ⟨_, hsolve, rfl, rfl, rfl, rfl, rfl, rfl, hopen⟩
  | some st => exact ⟨_, endSolve_solve hsolve e st, rfl, rfl, rfl, rfl, rfl, rfl, rfl⟩

end Sys2Proof.Machine

namespace Sys2Proof

open Machine

/-- Settles O38: an iteration is an attempt, and a commit leaves the solve that the tests decide on. -/
theorem solveIterates : Obligations.SolveIterates := by
  unfold Obligations.SolveIterates
  intro s h v r hwork hrun hphase hopen p e
  obtain ⟨hretry, hrange, hdone⟩ := becomes_attempt (becomes_work (c := .iterationCommit h none) rfl hwork (iterationCommit_of_open e hrun hopen hphase))
  refine ⟨hretry, hrange, fun w hw => hdone none w hw, fun t w hw => ?_⟩
  have hbec : Becomes (.iterationCommit h none) s (p.commitIteration e h r v t w) := hdone (some t) w hw
  exact ⟨hbec, hbec.answers (commitIteration_solve p e h r hopen t w)⟩

end Sys2Proof

/-! SUPPORT. Deadlines of solves, and their return (R275 to R282). -/

namespace Sys2Proof.Machine

/-! ### Stores of a routine leave the journal's queues (R206, R492, R518) -/

theorem storeOrHold_runQueues (p : Pkg) (e : Env) (u : MemUser) (a : Nat) (bs : List Byte) :
    Leaves Pkg.runQueues p.runQueues (p.storeOrHold e u a bs) := by
  unfold Pkg.storeOrHold
  exact keeps_ite (leaves_mk (runQueues_of_dsp (holdWrite_dsp p _ _ _ _)) _) (storeAll_runQueues p e u _)

theorem routineStore_runQueues (p : Pkg) (e : Env) (r : Run) (t : Nat) (outs : List (Nat × List Segment)) :
    Leaves Pkg.runQueues p.runQueues (p.routineStore e r t outs) := by
  have hcloth : Leaves Pkg.runQueues p.runQueues (if r.reserved != 0 then p.clothe r (outs.map (·.2)).flatten else (p, r)) :=
    keeps_ite ⟨runQueues_of_dsp (clothe_dsp p r _)⟩ (leaves_mk rfl _)
  unfold Pkg.routineStore
  exact keeps_ite (leaves_mk (keeps_foldl (fun s g => ⟨(storeOrHold_runQueues s e _ _ _).eq⟩) ⟨hcloth.eq⟩).eq _)
    ⟨writeOutputs_runQueues p e r t outs⟩

theorem routineStore_queue (p : Pkg) (e : Env) (r : Run) (t : Nat) (outs : List (Nat × List Segment)) : (p.routineStore e r t outs).2.queue = r.queue := by
  unfold Pkg.routineStore
  dsimp only
  split
  · show (if r.reserved != 0 then p.clothe r _ else (p, r)).2.queue = r.queue
    split
    · exact clothe_queue p r _
    · rfl
  · exact writeOutputs_queue p e r t outs

/-! ### The return of a solve (R280 to R282) -/

/-- A solve's return writes its vectors, one after another, and gathers their flags (R76, R280). -/
def Pkg.returnVectors (p : Pkg) (e : Env) (v : AnvSolve) (r : Run) : Pkg × Run × Nat :=
  (returnHandles v r.desc).foldl (fun (st : Pkg × Run × Nat) x =>
    let y := st.1.returnVector st.2.1 v x
    let z := st.1.routineStore e st.2.1 x [(x, y.1)]
    (z.1, z.2, st.2.2 ||| y.2)) (p, r, 0)

theorem returnVectors_runQueues (p : Pkg) (e : Env) (v : AnvSolve) (r : Run) : (p.returnVectors e v r).1.runQueues = p.runQueues := by
  suffices hqueues : Keeps (fun st : Pkg × Run × Nat => st.1.runQueues) p.runQueues (p.returnVectors e v r) from hqueues.eq
  unfold Pkg.returnVectors
  exact keeps_foldl (fun (st : Pkg × Run × Nat) x => ⟨(routineStore_runQueues st.1 e st.2.1 x _).eq⟩) ⟨rfl⟩

theorem returnVectors_queue (p : Pkg) (e : Env) (v : AnvSolve) (r : Run) : (p.returnVectors e v r).2.1.queue = r.queue := by
  suffices hqueue : Keeps (fun st : Pkg × Run × Nat => st.2.1.queue) r.queue (p.returnVectors e v r) from hqueue.eq
  unfold Pkg.returnVectors
  exact keeps_foldl (fun (st : Pkg × Run × Nat) x => ⟨routineStore_queue st.1 e st.2.1 x _⟩) ⟨rfl⟩

/-- The end of a return whose vectors are written: a solve that expiry stopped is counted (R286), the result record is written, and the run is done. -/
def AnvSolve.closed (v : AnvSolve) (e : Env) (h ctx code : Nat) (w : Pkg × Run × Nat) : Pkg :=
  let p1 := if code = 0x21 ∨ code = 0x24 ∨ chooseStatus w.2.1.statuses = 0x21 then w.1.anvCount h (Reg.ANV_CNT_STOP h) 1 else w.1
  let y := p1.reportSolve e h v w.2.1
  (y.1.setRun { y.2.done e with flags := w.2.1.flags ||| w.2.2 }).commitAnvFlags h ctx w.2.2

theorem solveReturnEnd_of_ended {p : Pkg} {h : Nat} {v : AnvSolve} {r : Run} {code : Nat} (e : Env) (hrun : p.solveRun h = some (v, r))
    (hended : v.ended = some code) : solveReturnEnd h none e p = v.closed e h r.ctx code (p.returnVectors e v r) := by
  simp only [solveReturnEnd, hrun, hended, Pkg.returnVectors]
  generalize List.foldl _ _ _ = w
  rfl

/-- A solve that left its Anvil is gone. -/
theorem dropSolve_solve (p : Pkg) (h : Nat) : (p.dropSolve h).solve h = none := by
  refine (solve_of_anvils ((anvCount_anvils _ h _ 1).trans (anvState_anvils { p with anvils := assocDrop p.anvils h } h 0)) h).trans ?_
  simp [Pkg.solve, assoc?, assocDrop, List.find?_filter]

theorem dropSolve_dsp (p : Pkg) (h : Nat) : (p.dropSolve h).dsp = p.dsp := bump_dsp ..

theorem scratch_runQueues (p : Pkg) (e : Env) (r : Run) : (p.scratch e r).runQueues = p.runQueues :=
  (storeOrHold_runQueues (p.drawFree (leAt r.params 0x18 8)).2 e _ _ _).eq

theorem reportSolve_runQueues (p : Pkg) (e : Env) (h : Nat) (v : AnvSolve) (r : Run) : (p.reportSolve e h v r).1.runQueues = p.runQueues := by
  have hrecord := (storeOrHold_runQueues p e (.descriptor r.queue) (leAt r.params 0x20 8) (resultRecord v (chooseStatus r.statuses))).eq
  exact (runQueues_of_dsp (dropSolve_dsp _ h)).trans ((scratch_runQueues _ e r).trans hrecord)

section
variable (v : AnvSolve) (e : Env) (h ctx code : Nat) (w : Pkg × Run × Nat)

theorem closed_solve : (v.closed e h ctx code w).solve h = none := by
  refine (solve_of_anvils ((commitFlags_anvils _ _ _).trans (setRun_anvils _ _)) h).trans ?_
  exact dropSolve_solve _ h

/-- The run of a solve that returned is done, with the record's KIND_INFO16 (R282). -/
theorem closed_runOf (hqueue : w.2.1.queue ∈ w.1.runQueues) : ∃ z, (v.closed e h ctx code w).runOf w.2.1.queue = some z ∧ z.finished = true ∧
    z.kindInfo = (solveInfo v w.2.1 (chooseStatus w.2.1.statuses)).1 := by
  have hcount : (if code = 0x21 ∨ code = 0x24 ∨ chooseStatus w.2.1.statuses = 0x21 then w.1.anvCount h (Reg.ANV_CNT_STOP h) 1 else w.1).runQueues =
      w.1.runQueues := by
    split
    · exact runQueues_of_dsp (bump_dsp ..)
    · rfl
  refine ⟨_, (runOf_of_dsp (commitFlags_dsp _ _ _) _).trans (runOf_setRun (r := { Run.done _ e with flags := _ }) ?_), rfl, rfl⟩
  exact ((reportSolve_runQueues _ e h v _).trans hcount).symm ▸ hqueue

end

/-! ### Deadlines (R275 to R279) -/

section
variable {p : Pkg} {h : Nat} {v : AnvSolve} {r : Run} {e : Env} (hsolve : p.solve h = some v) (hrun : p.runOf v.queue = some r)
include hsolve hrun

theorem anvilDeadline_of_inTime (htime : deadlinePassed e.tagHall r.desc = false) : anvilDeadline h e p = p := by
  simp only [anvilDeadline, hsolve, hrun, htime, Bool.not_false, if_true]

variable (hlate : deadlinePassed e.tagHall r.desc = true)
include hlate

/-- Expiry in the beat in which the iteration limit ended the solve comes first (R279). -/
theorem anvilDeadline_of_ended {st : Nat} (hended : v.ended = some st) : anvilDeadline h e p =
    if st = 0x26 ∧ v.endTag = e.tag ∧ r.late = false then (p.setRun { r with late := true }).setRun ({ r with late := true }.raise e.tag 0x21)
    else p.setRun { r with late := true } := by
  simp [anvilDeadline, hsolve, hrun, hlate, hended]

variable (hopen : v.ended = none)
include hopen

theorem anvilDeadline_of_replay (howed : r.replayOn.isSome = true) : anvilDeadline h e p = p.setRun { r with late := true } := by
  simp only [anvilDeadline, hsolve, hrun, hlate, hopen, howed, Bool.not_true, Bool.false_eq_true, if_false, if_true]

/-- Expiry of a solve that may work: in setup, in an iteration where a soft one was sampled before, where it stops at once, and where the iteration may
commit first. -/
theorem anvilDeadline_of_open (howed : r.replayOn = none) : anvilDeadline h e p =
    if v.phase < v.phases then (p.setRun { r with late := true }).endSolve e h 0x24
    else if v.soft then p.setRun { r with late := true }
    else if e.tag ≤ v.lastCommit ∨ dHard r.desc = true then (p.setRun { r with late := true }).endSolve e h 0x21
    else ((p.setRun { r with late := true }).setSolve h { v with soft := true }).anvState h 4 := by
  simp [anvilDeadline, hsolve, hrun, hlate, hopen, howed]

end

end Sys2Proof.Machine

namespace Sys2Proof

open Machine

/-- Settles O39: expiry by the solve's phase and its descriptor's kind of deadline; a return by its vectors and its record. -/
theorem solveEnds : Obligations.SolveEnds := by
  unfold Obligations.SolveEnds
  intro s h v r hwork hsolve hrun p e late p1
  refine ⟨fun htime => becomes_work rfl hwork (anvilDeadline_of_inTime hsolve hrun htime), fun hlate hopen howed => ?_, fun hlate hopen howed => ?_,
    fun st hlate hended => ?_, fun hworks hopen f => ?_, fun code hworks hended => ?_⟩
  · have hbec : Becomes (.anvilDeadlineExpiry h) s _ := becomes_work rfl hwork (anvilDeadline_of_open hsolve hrun hlate hopen howed)
    refine ⟨fun hphase => ?_, fun hphase hsoft hstop => ?_, fun hphase hsoft hcommit hhard => ?_, fun hphase hsoft => ?_⟩
    · rwa [if_pos hphase] at hbec
    · rwa [if_neg hphase.not_gt, hsoft, if_neg Bool.false_ne_true, if_pos hstop] at hbec
    · have hgoes : ¬(e.tag ≤ v.lastCommit ∨ dHard r.desc = true) := by simp [hhard, hcommit]
      rwa [if_neg hphase.not_gt, hsoft, if_neg Bool.false_ne_true, if_neg hgoes] at hbec
    · rwa [if_neg hphase.not_gt, if_pos hsoft] at hbec
  · exact becomes_work rfl hwork (anvilDeadline_of_replay hsolve hrun hlate hopen howed)
  · exact becomes_work rfl hwork (anvilDeadline_of_ended hsolve hrun hlate hended)
  · exact becomes_work rfl hwork (solveReturnEnd_of_open e hworks hopen f)
  · intro w r1 p2 y
    have hbec : Becomes (.solveReturnEnd ⟨h, none⟩) s (v.closed e h r.ctx code w) := becomes_work rfl hwork (solveReturnEnd_of_ended e hworks hended)
    have hqueue : w.2.1.queue = v.queue := (returnVectors_queue p e v r).trans (queue_of_runOf hrun)
    have hmem : w.2.1.queue ∈ w.1.runQueues := by
      rw [hqueue, show w.1.runQueues = p.runQueues from returnVectors_runQueues p e v r]
      exact mem_runQueues_of_runOf hrun
    exact ⟨hbec, hbec.answers ⟨closed_solve v e h r.ctx code w, hqueue ▸ closed_runOf v e h r.ctx code w hmem⟩⟩

end Sys2Proof

/-! SUPPORT. The start of a solve (R253, R257, R260, R638). -/

namespace Sys2Proof.Machine

section
variable {s : State} {q method : Nat} {d : List Byte} {p : Pkg} (hstarts : s.Starts q d) (hkind : dKind d = 2) (hmethod : anvMethod d = method)
  (hread : s.pkg.readAhead s.env (s.pkg.queueCtx q) (s.pkg.solveReads (s.pkg.queueCtx q) d) = (p, .ok))
include hstarts hkind hmethod hread

/-- A solve that passes its checks enters its Anvil (R257). -/
theorem startSolve_of_pass (hpass : p.anvVerdict (p.queueCtx q) d (p.paramBytes (p.queueCtx q) d 128) = none) :
    let b := p.paramBytes (p.queueCtx q) d 128
    let heads := (pMatA b :: (if pMatQ b = 0 then [] else [pMatQ b])).map (fun a => (a, (p.matHdr a).raw))
    startSolve method q s.env s.pkg =
      ((((p.enterRun (p.newRun s.env q d b)).setSolve (anvUnit d) (newSolve q d heads)).setFld (Reg.ANV_STATUS (anvUnit d)) Fld.ANV_CTX
        (p.queueCtx q)).setFld (Reg.ANV_STATUS (anvUnit d)) Fld.ANV_METHOD method).anvState (anvUnit d) 1 := by
  unfold startSolve
  rw [start_of_starts hstarts (reads := fun d => s.pkg.solveReads (s.pkg.queueCtx q) d) hread (by simp [hkind, hmethod])]
  simp only [hpass]

/-- One that fails them ends; where its workspace is too small, with the bytes it needs (R260). -/
theorem startSolve_of_fail {x : Nat × Nat} (hfail : p.anvVerdict (p.queueCtx q) d (p.paramBytes (p.queueCtx q) d 128) = some x) :
    let b := p.paramBytes (p.queueCtx q) d 128
    startSolve method q s.env s.pkg =
      if x = (0x3f, 0x43) then p.complete s.env q (p.head q) d { Rec.plain x.1 x.2 s.env.tagHall with
        detail := p.workspaceNeeded d b (p.matHdr (pMatA b)) (if pMatQ b = 0 then none else some (p.matHdr (pMatQ b))) } none
      else p.completeHead s.env q d x.1 x.2 := by
  unfold startSolve
  rw [start_of_starts hstarts (reads := fun d => s.pkg.solveReads (s.pkg.queueCtx q) d) hread (by simp [hkind, hmethod])]
  simp only [hfail]

end

end Sys2Proof.Machine

namespace Sys2Proof

open Machine

/-- Settles O21: the six start commands differ in their method alone, and the verdict decides. -/
theorem solveStarts : Obligations.SolveStarts := by
  unfold Obligations.SolveStarts
  intro s q d p hstarts hkind c b heads solve
  have hsolve {i : Instr} {method : Nat} (hexec : exec i s = s.work .none (startSolve method q))
      (hreads : startReads s.pkg (s.pkg.queueCtx q) d i = s.pkg.solveReads (s.pkg.queueCtx q) d) : solve i method := by
    intro hmethod hread
    rw [State.Reads, hreads] at hread
    have hwork := hstarts.working
    refine ⟨fun hpass => ?_, fun x hfail hroom => ?_, fun hsmall => ?_⟩
    · exact becomes_work hexec hwork (startSolve_of_pass hstarts hkind hmethod hread hpass)
    · exact becomes_work hexec hwork ((startSolve_of_fail hstarts hkind hmethod hread hfail).trans (if_neg hroom))
    · exact becomes_work hexec hwork ((startSolve_of_fail hstarts hkind hmethod hread hsmall).trans (if_pos rfl))
  exact ⟨hsolve rfl rfl, hsolve rfl rfl, hsolve rfl rfl, hsolve rfl rfl, hsolve rfl rfl, hsolve rfl rfl⟩

end Sys2Proof

/-! SUPPORT. The invariant holds at reset (R300, R569 to R571). -/

namespace Sys2Proof.Machine

/-- An empty log is in order. -/
theorem LogSt.Ok_reset : LogSt.reset.Ok where
  ascending := .nil
  below := nofun
  latest := ⟨Nat.le_refl 0, rfl⟩
  ring := .nil
  bounded := Nat.zero_le _
  timed := nofun

end Sys2Proof.Machine

namespace Sys2Proof

open Machine

/-- Settles O3: the log is empty, no record is raised, and memory lists no byte. -/
theorem resetIsSafe : Obligations.ResetIsSafe where
  inv := ⟨LogSt.Ok_reset, rfl⟩
  mem := reset_mem_wf

end Sys2Proof

/-! SUPPORT. What work on the lines of a stripe does to the bytes of memory, and what it leaves as it was (R291, R293 to R295, R317 to R323); the zero
fill of a region (R300). -/

namespace Sys2Proof.Machine

/-! ### A stack's controller (R305) -/

theorem assoc_assocPut_ne {α : Type} (m : List (Nat × α)) {k j : Nat} (v : α) (h : j ≠ k) : assoc? (assocPut m k v) j = assoc? m j := by
  induction m with
  | nil => simp [assoc?, assocPut, h.symm]
  | cons x xs ih =>
    obtain ⟨a, b⟩ := x
    unfold assocPut
    by_cases hk : a = k
    · subst hk
      simp [assoc?, h.symm]
    · rw [if_neg hk]
      by_cases hj : a = j
      · simp [assoc?, hj]
      · simpa [assoc?, hj] using ih

theorem stack_setStack (p : Pkg) (s d : Nat) (x : StackSt) : (p.setStack s x).stack d = if d = s then x else p.stack d := by
  by_cases h : d = s
  · subst h
    simp [Pkg.stack, Pkg.setStack, assoc_assocPut]
  · simp [Pkg.stack, Pkg.setStack, assoc_assocPut_ne _ x h, h]

@[simp] theorem stack_setStack_same (p : Pkg) (s : Nat) (x : StackSt) : (p.setStack s x).stack s = x := by rw [stack_setStack, if_pos rfl]

/-! ### What a check of lines leaves (R321 to R323) -/

/-- What the devices hold, and what waits for them: the bytes of memory, the keys they stand under, the queued writes of stripes, and what is to be told
of requests that are done. -/
structure Stored where
  bytes : Nat → Byte
  mgt : Mgt
  stripes : Nat → List StripeWrite
  done : List MemDone

def Pkg.stored (p : Pkg) : Stored := ⟨p.byte, p.mgt, fun d => (p.stack d).stripes, p.memDone⟩

section
variable (p : Pkg)

@[simp] theorem setFld_stored (k : Nat) (f : Field) (v : Nat) : (p.setFld k f v).stored = p.stored := rfl
@[simp] theorem addReg_stored (k n : Nat) : (p.addReg k n).stored = p.stored := rfl
@[simp] theorem record_stored (die unit kind detail : Nat) (data : List Byte) : (p.record die unit kind detail data).stored = p.stored := rfl
@[simp] theorem markBad_stored (bs : List Nat) : (p.markBad bs).stored = p.stored := rfl
@[simp] theorem clearBad_stored (line : Nat) : (p.clearBad line).stored = p.stored := rfl
@[simp] theorem memAnswer_stored (u : MemUser) (a code : Nat) (data : List Byte) : (p.memAnswer u a code data).stored = p.stored := rfl
@[simp] theorem updRun_stored (q : Nat) (f : Run → Run) : (p.updRun q f).stored = p.stored := rfl

/-- A controller's state changes nothing of this while it keeps the queued writes. -/
theorem setStack_stored {s : Nat} {x : StackSt} (h : x.stripes = (p.stack s).stripes) : (p.setStack s x).stored = p.stored := by
  refine congrArg (fun f => Stored.mk p.byte p.mgt f p.memDone) (funext fun d => ?_)
  rw [stack_setStack]
  split
  · rename_i hd
    rw [h, hd]
  · rfl

@[simp] theorem bump_stored (ctrl : Nat) (f : Field) (k n : Nat) : (p.bump ctrl f k n).stored = p.stored := by
  simp only [Pkg.bump, apply_ite Pkg.stored, addReg_stored, ite_self]

@[simp] theorem memCount_stored (s k n : Nat) : (p.memCount s k n).stored = p.stored := bump_stored p _ _ _ _

@[simp] theorem event_stored (cls die unit kind detail : Nat) (data : List Byte) : (p.event cls die unit kind detail data).stored = p.stored := by
  have hcount (k : Nat) (rs : List LogRec) : (Pkg.rasCount { p with raised := rs } k 1).stored = p.stored := bump_stored _ _ _ _ _
  unfold Pkg.event
  dsimp only
  split
  · split
    · exact hcount _ _
    · exact hcount _ _
  · split
    · exact hcount _ _
    · rfl

@[simp] theorem disturb_stored (detail die unit : Nat) : (p.disturb detail die unit).stored = p.stored := by
  simp only [Pkg.disturb, apply_ite Pkg.stored, record_stored, setFld_stored, addReg_stored, ite_self]

@[simp] theorem memErr_stored (kind line : Nat) : (p.memErr kind line).stored = p.stored := by
  simp only [Pkg.memErr, apply_ite Pkg.stored, setFld_stored, ite_self]

@[simp] theorem rebuildLine_stored (line addr : Nat) : (p.rebuildLine line addr).stored = p.stored := by
  simp only [Pkg.rebuildLine, disturb_stored, event_stored, apply_ite Pkg.stored, memCount_stored, addReg_stored, memErr_stored, clearBad_stored,
    ite_self]

@[simp] theorem failLine_stored (kind line addr : Nat) : (p.failLine kind line addr).stored = p.stored := by
  simp only [Pkg.failLine, event_stored, apply_ite Pkg.stored, addReg_stored, memErr_stored, ite_self]

@[simp] theorem countCal_stored (dev : Nat) : (p.countCal dev).stored = p.stored := by
  simp only [Pkg.countCal, apply_ite Pkg.stored, memCount_stored, ite_self]

@[simp] theorem suspendRetrain_stored (s : Nat) : (p.suspendRetrain s).stored = p.stored := by
  unfold Pkg.suspendRetrain
  dsimp only
  split
  · split
    · rfl
    · exact setStack_stored p rfl
  · rfl

@[simp] theorem pushBehind_stored (r : Region) (line : Nat) : (p.pushBehind r line).stored = p.stored := by
  have hpush (q : Pkg) (s : Nat) (xs : List BehindLine) : (q.setStack s { q.stack s with behind := xs }).stored = q.stored := setStack_stored q rfl
  simp only [Pkg.pushBehind, apply_ite Pkg.stored, suspendRetrain_stored, setFld_stored, hpush, ite_self]

theorem checkDirect_stored (r : Region) (dev j addr : Nat) : Leaves Pkg.stored p.stored (p.checkDirect r dev j addr) := by
  unfold Pkg.checkDirect
  exact keeps_ite (leaves_mk rfl _) (keeps_ite (leaves_mk (failLine_stored _ _ _ _) _)
    (keeps_ite (leaves_mk (rebuildLine_stored _ _ _) _) (leaves_mk (failLine_stored _ _ _ _) _)))

theorem mendLine_stored (stripe : List Nat) (line addr : Nat) : Leaves Pkg.stored p.stored (p.mendLine stripe line addr) := by
  unfold Pkg.mendLine
  exact keeps_ite (leaves_mk (rebuildLine_stored _ _ _) _) (leaves_mk (failLine_stored _ _ _ _) _)

theorem checkLine_stored (r : Region) (dev j addr : Nat) : Leaves Pkg.stored p.stored (p.checkLine r dev j addr) := by
  have hcount : (if dev < 24 then p.memCount dev (Reg.MEM_CNT_CAL_READS dev) 1 else p).stored = p.stored := by
    simp only [apply_ite Pkg.stored, memCount_stored, ite_self]
  have hfail {q : Pkg} (hq : q.stored = p.stored) (kind line : Nat) : Leaves Pkg.stored p.stored (q.failLine kind line addr, LineOutcome.failed) :=
    leaves_mk ((failLine_stored q kind line addr).trans hq) _
  have hdirect {x : Pkg × LineOutcome} (hx : Leaves Pkg.stored p.stored x) : Leaves Pkg.stored p.stored (x.1.checkDirect r dev j addr) :=
    leaves_trans hx (checkDirect_stored x.1 r dev j addr)
  have hdelayed := hdirect (leaves_mk (countCal_stored p dev) .ok)
  unfold Pkg.checkLine
  refine keeps_ite (hfail rfl _ _) (keeps_ite ?_ (keeps_ite ?_ (checkDirect_stored p r dev j addr)))
  · exact keeps_ite (hfail rfl _ _) (keeps_ite (hfail hcount _ _) (keeps_ite (leaves_mk hcount _)
      (keeps_ite (hfail hcount _ _) (leaves_mk hcount _))))
  · refine keeps_ite (keeps_ite (leaves_mk hdelayed.eq _) hdelayed) (keeps_ite (leaves_mk hcount _) (keeps_ite (leaves_mk hcount _)
      (leaves_mk (hdirect (keeps_foldl (fun s b => ?_) (leaves_mk ((suspendRetrain_stored _ _).trans hcount) _))).eq _)))
    exact leaves_mk (mendLine_stored s.1 _ b addr).eq _

variable (e : Env)

theorem tellRun_stored (u : MemUser) (o : LineOutcome) : (p.tellRun e u o).stored = p.stored := by
  unfold Pkg.tellRun
  split
  · simp only [apply_ite Pkg.stored, updRun_stored, ite_self]
  · rfl

theorem tellOther_stored (me : Option MemUser) (u : MemUser) (o : LineOutcome) : Leaves Pkg.stored p.stored (p.tellOther e me u o) := by
  unfold Pkg.tellOther
  exact keeps_ite (leaves_mk rfl _) (leaves_mk (tellRun_stored p e u o) _)

end

/-! ### Writes laid over memory (R289, R291) -/

/-- Memory as it reads with the bytes of a write laid over it. -/
def overlay (m : Nat → Byte) (w : Nat × List Byte) : Nat → Byte := fun a => if w.1 ≤ a ∧ a < w.1 + w.2.length then w.2.getD (a - w.1) 0 else m a

/-- Stored bytes change memory alone. -/
theorem setBytes_eq (p : Pkg) (a : Nat) (bs : List Byte) : p.setBytes a bs = { p with mem := (p.setBytes a bs).mem } := by
  induction bs generalizing p a with
  | nil => rfl
  | cons b bs ih => exact (ih _ _).trans rfl

theorem setBytes_mgt (p : Pkg) (a : Nat) (bs : List Byte) : (p.setBytes a bs).mgt = p.mgt := by rw [setBytes_eq]

theorem setBytes_stored (p : Pkg) (w : Nat × List Byte) : (p.setBytes w.1 w.2).stored = { p.stored with bytes := overlay p.stored.bytes w } := by
  have hbytes : (p.setBytes w.1 w.2).byte = overlay p.byte w := funext fun x => byte_setBytes p w.1 x w.2
  have hrest : (p.setBytes w.1 w.2).stored = { p.stored with bytes := (p.setBytes w.1 w.2).byte } := by
    rw [setBytes_eq]
    rfl
  rw [hrest, hbytes]
  rfl

theorem foldl_setBytes_stored (p : Pkg) (ws : List (Nat × List Byte)) :
    (ws.foldl (fun (q : Pkg) w => q.setBytes w.1 w.2) p).stored = { p.stored with bytes := ws.foldl overlay p.stored.bytes } := by
  induction ws generalizing p with
  | nil => rfl
  | cons w ws ih => rw [List.foldl_cons, ih, setBytes_stored, List.foldl_cons]

/-! ### Keys (R302, R613) -/

/-- A line that stands under its controllers' keys stays as it is. -/
theorem rekeyLine_of_not_stale {p : Pkg} {r : Region} {l : Nat} (h : p.staleKey r l = false) : p.rekeyLine r l = p := by
  unfold Pkg.rekeyLine
  split
  · exact if_neg (ne_true_of_eq_false h)
  · rfl

/-- The keys are the management's. -/
theorem staleKey_of_mgt {p q : Pkg} (h : q.mgt = p.mgt) (r : Region) (l : Nat) : q.staleKey r l = p.staleKey r l := by
  simp only [Pkg.staleKey, Pkg.keyOf, Pkg.keyNow, h]

/-- Writes to lines that stand under their controllers' keys store their bytes and no more. -/
theorem foldl_rekeyLine_setBytes {p : Pkg} {r : Region} {ws : List (Nat × List Byte)} (h : ∀ w ∈ ws, p.staleKey r (w.1 / 256 * 256) = false) :
    ws.foldl (fun (q : Pkg) w => (q.rekeyLine r (w.1 / 256 * 256)).setBytes w.1 w.2) p = ws.foldl (fun (q : Pkg) w => q.setBytes w.1 w.2) p := by
  induction ws generalizing p with
  | nil => rfl
  | cons w ws ih =>
    rw [List.foldl_cons, List.foldl_cons, rekeyLine_of_not_stale (h w List.mem_cons_self)]
    refine ih (fun x hx => ?_)
    rw [staleKey_of_mgt (setBytes_mgt p _ _)]
    exact h x (List.mem_cons_of_mem _ hx)

/-! ### The update of a stripe (R295, R318, R321, R322) -/

section
variable {p : Pkg} {r : Region} {dev : Nat} {ws : List (Nat × List Byte)}

/-- The lines that an update reads are checked first (R321, R322). -/
def Pkg.stripeCheck (p : Pkg) (r : Region) (dev : Nat) (ws : List (Nat × List Byte)) : Pkg × LineOutcome :=
  let js := r.linesTouched ws
  let whole := (ws.filter (fun w => w.2.length = 256)).map (fun w => r.lineNo w.1)
  (stripeReads (p.secondMethod r dev js) js (js.filter (fun j => !whole.contains j))).foldl
    (fun (s : Pkg × LineOutcome) j => let x := s.1.checkLine r dev j ((ws.map (·.1)).headD 0); (x.1, s.2.join x.2)) (p, LineOutcome.ok)

/-- Its transfers are counted (Table 08-11). -/
def Pkg.stripeCount (p q : Pkg) (r : Region) (dev : Nat) (ws : List (Nat × List Byte)) : Pkg :=
  let js := r.linesTouched ws
  if dev < 24 then (q.memCount dev (Reg.MEM_CNT_WR_LINES dev) js.length).memCount dev (Reg.MEM_CNT_RMW dev) (stripeReadCost (p.secondMethod r dev js) js)
  else q

/-- The lines that it wrote have good parity, and those of a retraining pseudo-channel enter the write-behind list (R317). -/
def Pkg.stripeWritten (p : Pkg) (r : Region) (dev : Nat) (ws : List (Nat × List Byte)) : Pkg :=
  let js := r.linesTouched ws
  (js ++ [17 * (js.headD 0 / 17) + 16]).foldl (fun q j => q.pushBehind r (r.code dev j))
    ((js.foldl (fun q j => q.clearBad (r.code dev j)) p).clearBad (r.patchLine dev (js.headD 0)))

theorem writeStripe_eq : p.writeStripe r dev ws =
    if p.bufferLost dev then (p.failLine 2 (r.code dev ((r.linesTouched ws).headD 0)) ((ws.map (·.1)).headD 0), .failed)
    else if (p.stripeCheck r dev ws).2 = .failed then p.stripeCheck r dev ws
    else ((ws.foldl (fun (q : Pkg) w => (q.rekeyLine r (w.1 / 256 * 256)).setBytes w.1 w.2)
      (p.stripeCount (p.stripeCheck r dev ws).1 r dev ws)).stripeWritten r dev ws, (p.stripeCheck r dev ws).2) := rfl

theorem stripeCheck_stored : Leaves Pkg.stored p.stored (p.stripeCheck r dev ws) :=
  keeps_foldl (fun s j => leaves_mk (checkLine_stored s.1 r dev j _).eq _) (leaves_mk rfl _)

theorem stripeCount_stored (q : Pkg) : (p.stripeCount q r dev ws).stored = q.stored := by
  simp only [Pkg.stripeCount, apply_ite Pkg.stored, memCount_stored, ite_self]

theorem stripeWritten_stored : (p.stripeWritten r dev ws).stored = p.stored := by
  refine (keeps_foldl (g := Pkg.stored) (fun q j => ⟨pushBehind_stored q r _⟩) ⟨?_⟩).eq
  exact (clearBad_stored _ _).trans (keeps_foldl (g := Pkg.stored) (fun q j => ⟨clearBad_stored q _⟩) ⟨rfl⟩).eq

/-- An update whose reads fail leaves every line as it was (R322). -/
theorem writeStripe_failed (h : (p.writeStripe r dev ws).2 = .failed) : (p.writeStripe r dev ws).1.stored = p.stored := by
  rw [writeStripe_eq] at h ⊢
  split
  · exact failLine_stored p _ _ _
  · rename_i hbuffer
    split
    · exact stripeCheck_stored.eq
    · rename_i hcheck
      rw [if_neg hbuffer, if_neg hcheck] at h
      exact absurd h hcheck

/-- Any other update lays its writes over memory, in order (R295). -/
theorem writeStripe_performed (h : (p.writeStripe r dev ws).2 ≠ .failed) (hkeys : ∀ w ∈ ws, p.staleKey r (w.1 / 256 * 256) = false) :
    (p.writeStripe r dev ws).1.stored = { p.stored with bytes := ws.foldl overlay p.stored.bytes } := by
  rw [writeStripe_eq] at h ⊢
  split
  · rename_i hbuffer
    exact absurd (by rw [if_pos hbuffer]) h
  · rename_i hbuffer
    split
    · rename_i hcheck
      exact absurd (by rw [if_neg hbuffer, if_pos hcheck]; exact hcheck) h
    · have hcounted : (p.stripeCount (p.stripeCheck r dev ws).1 r dev ws).stored = p.stored := (stripeCount_stored _).trans stripeCheck_stored.eq
      have hheld : ∀ w ∈ ws, (p.stripeCount (p.stripeCheck r dev ws).1 r dev ws).staleKey r (w.1 / 256 * 256) = false := fun w hw =>
        (staleKey_of_mgt (congrArg Stored.mgt hcounted) r _).trans (hkeys w hw)
      rw [foldl_rekeyLine_setBytes hheld]
      exact stripeWritten_stored.trans (by rw [foldl_setBytes_stored, hcounted])

end

/-- The queued writes to a stripe, as their pieces of lines. -/
def Pkg.stripeWrites (p : Pkg) (r : Region) (dev j : Nat) : List (Nat × List Byte) :=
  ((p.stack dev).stripes.filter (fun w => w.inStripe r dev j)).map (fun w => (w.addr, w.bytes))

/-- The queued writes of a device to other stripes. -/
def Pkg.otherStripes (p : Pkg) (r : Region) (dev j : Nat) : List StripeWrite := (p.stack dev).stripes.filter (fun w => !w.inStripe r dev j)

/-- The package with those alone queued. -/
def Pkg.unqueue (p : Pkg) (r : Region) (dev j : Nat) : Pkg := p.setStack dev { p.stack dev with stripes := p.otherStripes r dev j }

theorem unqueue_stored (p : Pkg) (r : Region) (dev j : Nat) :
    (p.unqueue r dev j).stored = { p.stored with stripes := fun d => if d = dev then p.otherStripes r dev j else (p.stack d).stripes } := by
  refine congrArg (fun f => Stored.mk p.byte p.mgt f p.memDone) (funext fun d => ?_)
  rw [Pkg.unqueue, stack_setStack, apply_ite StackSt.stripes]

section
variable {p : Pkg} {r : Region} {dev j : Nat} {w : StripeWrite} (hqueued : w ∈ (p.stack dev).stripes) (hmine : w.inStripe r dev j = true)
include hqueued hmine

/-- The update of a stripe with queued writes makes one write of them; telling their requesters changes nothing that is stored (R295). -/
theorem updateStripe_stored (e : Env) (me : Option MemUser) :
    (p.updateStripe e me r dev j []).1.stored = ((p.unqueue r dev j).writeStripe r dev (p.stripeWrites r dev j)).1.stored := by
  have hsome : ((p.stack dev).stripes.filter (fun w => w.inStripe r dev j)).isEmpty = false :=
    List.isEmpty_eq_false_iff_exists_mem.2 ⟨w, List.mem_filter.2 ⟨hqueued, hmine⟩⟩
  unfold Pkg.updateStripe
  simp only [hsome, Bool.false_eq_true, if_false, List.append_nil]
  refine (keeps_foldl (g := fun x : Pkg × LineOutcome => x.1.stored) (fun s w => ⟨?_⟩) ⟨rfl⟩).eq
  have htold := tellOther_stored s.1 e me w.user
  exact (keeps_ite (g := Pkg.stored) ⟨(memAnswer_stored _ _ _ _ _).trans (htold _).eq⟩ ⟨(htold _).eq⟩).eq

variable (hroom : p.listFull r dev (r.linesTouched (p.stripeWrites r dev j)) = false) (e : Env) (me : Option MemUser)
include hroom

/-- With room in the write-behind list the update is not put off (R318). -/
theorem settleStripe_stored :
    (p.settleStripe e me r dev j).1.stored = ((p.unqueue r dev j).writeStripe r dev (p.stripeWrites r dev j)).1.stored := by
  have hsome : ¬((p.stack dev).stripes.filter (fun w => w.inStripe r dev j)).isEmpty = true := fun h =>
    List.ne_nil_of_mem (List.mem_filter.2 ⟨hqueued, hmine⟩) (List.isEmpty_iff.1 h)
  have hupdate : p.settleStripe e me r dev j = p.updateStripe e me r dev j [] := (if_neg hsome).trans (if_neg (ne_true_of_eq_false hroom))
  rw [hupdate, updateStripe_stored hqueued hmine]

theorem settleStripe_failed (h : ((p.unqueue r dev j).writeStripe r dev (p.stripeWrites r dev j)).2 = .failed) :
    (p.settleStripe e me r dev j).1.stored = (p.unqueue r dev j).stored :=
  (settleStripe_stored hqueued hmine hroom e me).trans (writeStripe_failed h)

theorem settleStripe_performed (h : ((p.unqueue r dev j).writeStripe r dev (p.stripeWrites r dev j)).2 ≠ .failed)
    (hkeys : ∀ w ∈ p.stripeWrites r dev j, p.staleKey r (w.1 / 256 * 256) = false) :
    (p.settleStripe e me r dev j).1.stored = { (p.unqueue r dev j).stored with bytes := (p.stripeWrites r dev j).foldl overlay p.byte } :=
  (settleStripe_stored hqueued hmine hroom e me).trans (writeStripe_performed h hkeys)

end

/-! ### The command STRIPE_UPDATE -/

/-- With nothing queued there is no update. -/
theorem stripeUpdate_of_idle {p : Pkg} {dev : Nat} (h : (p.stack dev).stripes = []) (bad : List Nat) (e : Env) : stripeUpdate dev bad e p = p.markBad bad := by
  have hstripes : ((p.markBad bad).stack dev).stripes = [] := h
  simp only [stripeUpdate, hstripes]

/-- The oldest queued write says which stripe is updated. -/
theorem stripeUpdate_of_queued {p : Pkg} {dev : Nat} {w : StripeWrite} {rest : List StripeWrite} {r : Region} (h : (p.stack dev).stripes = w :: rest)
    (hregion : p.regionAt w.addr = some r) (bad : List Nat) (e : Env) :
    stripeUpdate dev bad e p = ((p.markBad bad).settleStripe e none r dev (r.lineNo w.addr)).1 := by
  have hstripes : ((p.markBad bad).stack dev).stripes = w :: rest := h
  have hat : (p.markBad bad).regionAt w.addr = some r := hregion
  simp only [stripeUpdate, hstripes, hat]

theorem becomes_stripeUpdate {s : State} {dev : Fin 32} {bad : List Nat} {q : Pkg} (hw : s.pkg.working = true) (h : stripeUpdate dev bad s.env s.pkg = q) :
    Becomes (.stripeUpdate dev bad) s (q.settleMemory s.env) :=
  becomes_work rfl hw (congrArg (fun x => x.settleMemory s.env) h)

/-! ### The zero fill of a region (R300) -/

theorem sparseGet_filter {α : Type} (d : Nat → α) (m : List (Nat × α)) (f : Nat → Bool) (k : Nat) :
    sparseGet d (m.filter (fun x => f x.1)) k = if f k then sparseGet d m k else d k := by
  induction m with
  | nil => simp [sparseGet]
  | cons x xs ih =>
    by_cases hx : x.1 = k
    · by_cases hf : f k <;> simp_all [sparseGet]
    · by_cases hf : f x.1 <;> simp_all [sparseGet]

/-- A zeroed range reads zero, the rest as before. -/
theorem zeroRange_byte (p : Pkg) (a n x : Nat) : (p.zeroRange a n).byte x = if a ≤ x ∧ x < a + n then 0 else p.byte x := by
  have hcond : (!(a ≤ x && x < a + n)) = true ↔ ¬(a ≤ x ∧ x < a + n) := by simp [Decidable.imp_iff_not_or]
  refine (sparseGet_filter (fun _ => 0) p.mem (fun k => !(a ≤ k && k < a + n)) x).trans ?_
  rw [ite_congr (propext hcond) (fun _ => rfl) (fun _ => rfl), ite_not]
  rfl

section
variable {p : Pkg} {n : Nat} (e : Env)

/-- The end of a fill that is not due changes nothing. -/
theorem regionFillEnd_idle (h : (p.region n).valid = false ∨ (p.region n).ready = true) : regionFillEnd n e p = p :=
  if_neg (by rcases h with h | h <;> simp [h])

variable (hvalid : (p.region n).valid = true) (hready : (p.region n).ready = false)
include hvalid hready

/-- The region of a fill that ends is ready, and no other register changes. -/
theorem regionFillEnd_regs : (regionFillEnd n e p).regs = (p.setFld (Reg.MEM_RG_ATTR n) Fld.MEM_RG_READY 1).regs := by
  rw [regionFillEnd, if_pos (by simp [hvalid, hready])]
  rfl

theorem regionFillEnd_byte (a : Nat) : (regionFillEnd n e p).byte a = (p.zeroRange (p.region n).base (p.region n).size).byte a := by
  rw [regionFillEnd, if_pos (by simp [hvalid, hready])]
  rfl

end

end Sys2Proof.Machine

namespace Sys2Proof

open Machine

/-- Settles O41: what an update performs, or leaves, of the queued writes to the stripe of the oldest one; the bytes and the register of a fill. -/
theorem stripesAndFills : Obligations.StripesAndFills := by
  unfold Obligations.StripesAndFills
  intro s hwork e
  refine ⟨fun dev bad hidle => becomes_stripeUpdate hwork (stripeUpdate_of_idle hidle bad e), fun dev bad w0 rest r hqueue hregion => ?_, fun n => ?_⟩
  · intro p j mine others ws x
    have hbec : Becomes (.stripeUpdate dev bad) s ((p.settleStripe e none r dev j).1.settleMemory e) :=
      becomes_stripeUpdate hwork (stripeUpdate_of_queued hqueue hregion bad e)
    refine ⟨hbec, fun hdone hmine hroom hkeys => ?_⟩
    have hqueued : (p.stack dev).stripes = w0 :: rest := hqueue
    have hw0 : w0 ∈ (p.stack dev).stripes := hqueued ▸ List.mem_cons_self
    have hws : p.stripeWrites r dev j = ws := by rw [Pkg.stripeWrites, hqueued]
    have hothers : p.otherStripes r dev j = others := by rw [Pkg.otherStripes, hqueued]
    have hx : (p.unqueue r dev j).writeStripe r dev (p.stripeWrites r dev j) = x := by rw [Pkg.unqueue, hws, hothers]
    have hbase := unqueue_stored p r dev j
    have hsettled (h : (p.settleStripe e none r dev j).1.stored.done = []) : Becomes (.stripeUpdate dev bad) s (p.settleStripe e none r dev j).1 := by
      rwa [settleMemory_of_memDone_nil e h] at hbec
    refine ⟨fun hperformed => ?_, fun hfailed => ?_⟩
    · have hheld : ∀ w ∈ p.stripeWrites r dev j, p.staleKey r (w.1 / 256 * 256) = false := fun w hw => by
        obtain ⟨v, hv, rfl⟩ := List.mem_map.1 (hws ▸ hw)
        exact hkeys v hv
      have hstored := settleStripe_performed hw0 hmine (hws ▸ hroom) e none (hx ▸ hperformed) hheld
      rw [hbase, hws, hothers] at hstored
      refine (hsettled ((congrArg Stored.done hstored).trans hdone)).answers ⟨lift_keeps s _, ?_, fun a => ?_⟩
      · exact (congrFun (congrArg Stored.stripes hstored) dev).trans (if_pos rfl)
      · have hfold := congrArg Stored.bytes (foldl_setBytes_stored s.pkg ws)
        rw [List.foldl_map] at hfold
        exact (congrFun (congrArg Stored.bytes hstored) a).trans (congrFun hfold a).symm
    · have hstored := (settleStripe_failed hw0 hmine (hws ▸ hroom) e none (hx ▸ hfailed)).trans hbase
      exact (hsettled ((congrArg Stored.done hstored).trans hdone)).answers ⟨congrFun (congrArg Stored.bytes hstored), lift_keeps s _⟩
  · intro r
    refine ⟨fun hvalid hready => ?_, fun hidle => becomes_work rfl hwork (regionFillEnd_idle e hidle)⟩
    have hbec : Becomes (.regionFillEnd n) s _ := becomes_work rfl hwork rfl
    have hreg := reg_of_regs (regionFillEnd_regs e hvalid hready)
    refine hbec.answers ⟨fun a => ?_, ?_, fun k hk => ?_, lift_keeps s _⟩
    · exact (regionFillEnd_byte e hvalid hready a).trans (zeroRange_byte _ _ _ a)
    · rw [lift_on, on_eq, hreg, ← on_eq]
      exact on_setFld_one _ _ _ (by decide) (by decide)
    · exact (hreg k).trans (setFld_reg_ne _ _ _ _ _ (by simpa using hk))

end Sys2Proof

/-! SUPPORT. The steps of live calibration (R313 to R319, R472). -/

namespace Sys2Proof.Machine

/-! ### Marks of reason CAL (R318, R319) -/

section
variable (p : Pkg) (e : Env) (k : Nat)

theorem tellRun_reg (u : MemUser) (o : LineOutcome) (j : Nat) : (p.tellRun e u o).reg j = p.reg j := by
  unfold Pkg.tellRun
  split
  · split <;> rfl
  · rfl

theorem tellRun_stackCtl (u : MemUser) (o : LineOutcome) : (p.tellRun e u o).stackCtl = p.stackCtl := by
  unfold Pkg.tellRun
  split
  · split <;> rfl
  · rfl

theorem bump_stackCtl (ctrl : Nat) (f : Field) (j n : Nat) : (p.bump ctrl f j n).stackCtl = p.stackCtl := by
  simp only [Pkg.bump, apply_ite Pkg.stackCtl]
  exact ite_self _

theorem countCal_stackCtl : (p.countCal k).stackCtl = p.stackCtl := by
  simp only [Pkg.countCal, Pkg.memCount, apply_ite Pkg.stackCtl, bump_stackCtl, ite_self]

theorem countCal_reg {j : Nat} (h : j ≠ Reg.MEM_CNT_CAL_DELAY k) : (p.countCal k).reg j = p.reg j := by
  unfold Pkg.countCal
  split
  · exact bump_reg _ _ _ _ _ _ h
  · rfl

/-- A mark leaves what the devices hold. -/
theorem markCal_stored (w : WaitingReq) : (p.markCal e k w).stored = p.stored := by
  unfold Pkg.markCal
  split
  · rfl
  · exact (tellRun_stored _ _ _ _).trans ((countCal_stored _ _).trans (setStack_stored p rfl))

/-- It leaves the registers, but for its counter. -/
theorem markCal_reg (w : WaitingReq) {j : Nat} (h : j ≠ Reg.MEM_CNT_CAL_DELAY k) : (p.markCal e k w).reg j = p.reg j := by
  unfold Pkg.markCal
  split
  · rfl
  · exact (tellRun_reg _ _ _ _ _).trans (countCal_reg _ _ h)

/-- Which pseudo-channel of a stack retrains, and which are due (R313). -/
def Pkg.turns (p : Pkg) (k : Nat) : Option Retrain × List Nat := ((p.stack k).retrain, (p.stack k).due)

theorem setStack_turns (x : StackSt) : (p.setStack k x).turns k = (x.retrain, x.due) := by rw [Pkg.turns, stack_setStack_same]

/-- It leaves the turns of the stack. -/
theorem markCal_turns (w : WaitingReq) : (p.markCal e k w).turns k = p.turns k := by
  have hctl {q q' : Pkg} (h : q.stackCtl = q'.stackCtl) : q.turns k = q'.turns k := by simp only [Pkg.turns, Pkg.stack, h]
  unfold Pkg.markCal
  split
  · rfl
  · refine (hctl ((tellRun_stackCtl _ _ _ _).trans (countCal_stackCtl _ _))).trans ?_
    exact setStack_turns p k _

theorem markWaiting_stored : (p.markWaiting e k).stored = p.stored := (keeps_foldl (fun q w => ⟨markCal_stored q e k w⟩) ⟨rfl⟩).eq

theorem markWaiting_reg {j : Nat} (h : j ≠ Reg.MEM_CNT_CAL_DELAY k) : (p.markWaiting e k).reg j = p.reg j :=
  foldl_reg _ _ j (fun q w _ => markCal_reg q e k w h) p

theorem markWaiting_turns : (p.markWaiting e k).turns k = p.turns k :=
  (keeps_foldl (g := fun q : Pkg => q.turns k) (fun q w => ⟨markCal_turns q e k w⟩) ⟨rfl⟩).eq

end

/-! ### A pseudo-channel's turn (R313, R315, R472) -/

/-- A stack's status shows that a pseudo-channel of it retrains. -/
def Pkg.showTurn (p : Pkg) (k pc : Nat) : Pkg :=
  (p.setFld (Reg.MEM_STK_STATUS k) Fld.MEM_CAL_ACTIVE 1).setFld (Reg.MEM_STK_STATUS k) Fld.MEM_CAL_PC pc

theorem showTurn_on (p : Pkg) (k pc : Nat) : (p.showTurn k pc).on (Reg.MEM_STK_STATUS k) Fld.MEM_CAL_ACTIVE = true := by
  rw [Pkg.on, Pkg.showTurn, fld_setFld_ne _ _ _ _ _ (by decide) (by decide)]
  exact on_setFld_one p _ _ (by decide) (by decide)

theorem showTurn_fld (p : Pkg) (k : Nat) (pc : Fin 64) : (p.showTurn k pc).fld (Reg.MEM_STK_STATUS k) Fld.MEM_CAL_PC = pc :=
  (fld_setFld _ _ _ _ (by decide)).trans (Nat.mod_eq_of_lt pc.isLt)

theorem showTurn_reg (p : Pkg) (k pc : Nat) {j : Nat} (h : j ≠ Reg.MEM_STK_STATUS k) : (p.showTurn k pc).reg j = p.reg j :=
  (setFld_reg_ne _ _ _ _ _ h).trans (setFld_reg_ne _ _ _ _ _ h)

theorem status_ne_delayCount (k : Nat) : Reg.MEM_STK_STATUS k ≠ Reg.MEM_CNT_CAL_DELAY k := by
  unfold Reg.MEM_STK_STATUS Reg.MEM_CNT_CAL_DELAY
  omega

section
variable {p : Pkg} {k pc : Nat} (e : Env)

/-- A retired pseudo-channel, or one outside its window, has no turn. -/
theorem retrainingDue_idle (h : p.chanRetired k pc = true ∨ p.inCalWindow e pc = false) : retrainingDue k pc e p = p :=
  if_pos (by rcases h with h | h <;> simp [h])

variable (hin : p.chanRetired k pc = false) (hwindow : p.inCalWindow e pc = true)
include hin hwindow

/-- The stack stops issuing to it, shows it and marks what it delays. -/
theorem retrainingDue_begins (hfree : (p.stack k).retrain = none) : retrainingDue k pc e p =
    ((p.setStack k { p.stack k with retrain := some ⟨pc, 0, false, e.hall⟩, due := (p.stack k).due.filter (fun c => c ≠ pc) }).showTurn k
      pc).markWaiting e k := by
  simp [retrainingDue, hin, hwindow, hfree, Pkg.showTurn]

/-- Its turn waits while another retrains. -/
theorem retrainingDue_waits {x : Retrain} (hbusy : (p.stack k).retrain = some x) : retrainingDue k pc e p =
    p.setStack k { p.stack k with due := if (p.stack k).due.contains pc then (p.stack k).due else (p.stack k).due ++ [pc] } := by
  simp [retrainingDue, hin, hwindow, hbusy]

end

/-! ### Its operations drain, it trains, the list drains (R315, R317, R318) -/

section
variable {p : Pkg} {k : Nat} (e : Env)

theorem issuedOperationsDrained_idle (h : (p.stack k).retrain = none) : issuedOperationsDrained k e p = p := by
  simp only [issuedOperationsDrained, h]

theorem issuedOperationsDrained_trains {x : Retrain} (h : (p.stack k).retrain = some x) (hstep : x.step = 0) (hruns : x.suspended = false) :
    issuedOperationsDrained k e p = p.setStack k { p.stack k with retrain := some { x with step := 1 } } := by
  simp only [issuedOperationsDrained, h]
  exact if_pos ⟨hstep, by simp [hruns]⟩

theorem retrainingEnd_idle (h : (p.stack k).retrain = none) : retrainingEnd k e p = p := by
  simp only [retrainingEnd, h]

/-- The end of a training (R315, R317, R319). -/
theorem retrainingEnd_trained {x : Retrain} (h : (p.stack k).retrain = some x) (hstep : x.step = 1) (hruns : x.suspended = false) :
    retrainingEnd k e p =
      (((p.setStack k { p.stack k with
        retrain := if (p.stack k).behind.isEmpty then none else some { x with step := 2 }
        trainTemp := assocPut (p.stack k).trainTemp x.pc (p.fld (Reg.MEM_STK_STATUS k) Fld.MEM_TEMP)
        trained := assocPut (p.stack k).trained x.pc e.hall, retrains := (p.stack k).retrains + 1
        calMax := (((p.stack k).waiting.filter (fun w => w.cal)).map (fun w => e.hall - w.entered)).foldl max (p.stack k).calMax }).setFld
        (Reg.MEM_STK_STATUS k) Fld.MEM_CAL_ACTIVE 0).memCount k (Reg.MEM_CNT_RETRAIN k) 1).serveWaiting e k := by
  simp only [retrainingEnd, h]
  exact if_pos ⟨hstep, by simp [hruns]⟩

/-- A line of the write-behind list drains, and the stack goes on with the turn that is left. -/
def Pkg.drainLine (p : Pkg) (e : Env) (k : Nat) (rest : List BehindLine) (next : Option Retrain) : Pkg :=
  ((p.setStack k { p.stack k with behind := rest, retrain := next }).setFld (Reg.MEM_STK_STATUS k) Fld.MEM_WB_COUNT rest.length).serveWaiting e k

/-- After a training the list's last line ends the turn (R317). -/
theorem writeBehindDrain_after {x : Retrain} {b : BehindLine} {rest : List BehindLine} (h : (p.stack k).retrain = some x) (hstep : x.step = 2)
    (hruns : x.suspended = false) (hlist : (p.stack k).behind = b :: rest) :
    writeBehindDrain k e p = p.drainLine e k rest (if rest.isEmpty then none else some x) := by
  simp [writeBehindDrain, h, hlist, hstep, hruns, Pkg.drainLine]

/-- In a suspended one it lets the turn begin again (R318). -/
theorem writeBehindDrain_suspended {x : Retrain} {b : BehindLine} {rest : List BehindLine} (h : (p.stack k).retrain = some x)
    (hstops : x.suspended = true) (hlist : (p.stack k).behind = b :: rest) :
    writeBehindDrain k e p = p.drainLine e k rest (some (if rest.isEmpty then { x with suspended := false, step := 0 } else x)) := by
  simp [writeBehindDrain, h, hlist, hstops, Pkg.drainLine, apply_ite some]

/-- A suspended turn with nothing to drain begins again (R318). -/
theorem writeBehindDrain_resumes {x : Retrain} (h : (p.stack k).retrain = some x) (hstops : x.suspended = true) (hlist : (p.stack k).behind = []) :
    writeBehindDrain k e p = p.setStack k { p.stack k with retrain := some { x with suspended := false, step := 0 } } := by
  simp only [writeBehindDrain, h, hlist, hstops, if_true]

theorem writeBehindDrain_idle (h : (p.stack k).retrain = none) (hlist : (p.stack k).behind = []) : writeBehindDrain k e p = p := by
  simp only [writeBehindDrain, h, hlist]

end

end Sys2Proof.Machine

namespace Sys2Proof

open Machine

/-- Settles O42: each clause is the step of the calibration that its hypotheses select. -/
theorem calibration : Obligations.Calibration := by
  unfold Obligations.Calibration
  intro s k pc hwork p e st mk same
  have hmem {i : Instr} {f : Env → Pkg → Pkg} {q : Pkg} (hexec : exec i s = s.memory f) (h : f e p = q) : Becomes i s (q.settleMemory e) :=
    becomes_work hexec hwork (congrArg (fun x => x.settleMemory e) h)
  refine ⟨fun hidle => becomes_work rfl hwork (retrainingDue_idle e hidle), fun hin hwindow hfree => ?_, fun x hin hwindow hbusy => ?_,
    fun x hx hstep hruns => ?_, fun hfree => ⟨becomes_work rfl hwork (issuedOperationsDrained_idle e hfree), hmem rfl (retrainingEnd_idle e hfree)⟩,
    fun x hx hstep hruns => hmem rfl (retrainingEnd_trained e hx hstep hruns), fun x b rest hx hstep hruns hlist =>
    hmem rfl (writeBehindDrain_after e hx hstep hruns hlist), fun x b rest hx hstops hlist => hmem rfl (writeBehindDrain_suspended e hx hstops hlist),
    fun x hx hstops hlist => hmem rfl (writeBehindDrain_resumes e hx hstops hlist), fun hlist hfree => hmem rfl (writeBehindDrain_idle e hfree hlist)⟩
  · have hbec : Becomes (.retrainingDue k pc) s _ := becomes_work rfl hwork (retrainingDue_begins e hin hwindow hfree)
    generalize hq : p.setStack k { p.stack k with retrain := _, due := _ } = q at hbec
    have hturns : ((q.showTurn k pc).markWaiting e k).turns k = (some ⟨pc, 0, false, e.hall⟩, st.due.filter (fun c => c ≠ pc.val)) :=
      (markWaiting_turns _ e k).trans (hq ▸ setStack_turns p k _)
    have hstored : ((q.showTurn k pc).markWaiting e k).stored = p.stored := (markWaiting_stored _ e k).trans (hq ▸ setStack_stored p rfl)
    have hreg {j : Nat} (h : j ≠ Reg.MEM_CNT_CAL_DELAY k) : ((q.showTurn k pc).markWaiting e k).reg j = (q.showTurn k pc).reg j := markWaiting_reg _ e k h
    have hshown := hreg (status_ne_delayCount k)
    refine hbec.answers ⟨congrArg Prod.fst hturns, congrArg Prod.snd hturns, ?_, ?_, fun j hj => ?_, congrFun (congrArg Stored.bytes hstored),
      lift_keeps s _⟩
    · rw [lift_on, on_eq, hshown]
      exact showTurn_on q k pc
    · rw [lift_fld, fld_eq, hshown]
      exact showTurn_fld q k pc
    · obtain ⟨hstatus, hcount⟩ : j ≠ mk ∧ j ≠ Reg.MEM_CNT_CAL_DELAY k := by simpa using hj
      exact (hreg hcount).trans ((showTurn_reg q k pc hstatus).trans (hq ▸ rfl))
  · have hbec : Becomes (.retrainingDue k pc) s _ := becomes_work rfl hwork (retrainingDue_waits e hin hwindow hbusy)
    have hturns := setStack_turns p k { p.stack k with due := if (p.stack k).due.contains pc.val then (p.stack k).due else (p.stack k).due ++ [pc.val] }
    refine hbec.answers ⟨(congrArg Prod.fst hturns).trans hbusy, ?_, fun _ _ => rfl, fun _ => rfl, lift_keeps s _⟩
    refine (congrArg (fun x => pc.val ∈ x) (congrArg Prod.snd hturns)).mpr ?_
    split
    · rename_i hdue
      exact List.contains_iff_mem.1 hdue
    · exact List.mem_append_right _ List.mem_cons_self
  · have hbec : Becomes (.issuedOperationsDrained k) s _ := becomes_work rfl hwork (issuedOperationsDrained_trains e hx hstep hruns)
    exact hbec.answers ⟨congrArg Prod.fst (setStack_turns p k _), fun _ _ => rfl, fun _ => rfl, lift_keeps s _⟩

end Sys2Proof

/-! SUPPORT. Budgets of waiting requests, and the upkeep of a stack (R288, R310, R312, R325). -/

namespace Sys2Proof.Machine

/-! ### The oldest request past its budget (R310, R312) -/

/-- A waiting request marked with reason QUOTA. -/
def WaitingReq.overBudget (w : WaitingReq) : WaitingReq := { w with quota := true, delay := if w.delay = 0 then 1 else w.delay }

/-- It is marked and counted. -/
def Pkg.markQuota (p : Pkg) (k : Nat) (w : WaitingReq) : Pkg :=
  (p.setStack k { p.stack k with waiting := (p.stack k).waiting.map (fun x => if x = w then w.overBudget else x) }).memCount k (Reg.MEM_CNT_QUOTA_DELAY k) 1

section
variable {p : Pkg} {k : Nat} (e : Env)

theorem quotaBudgetExpiry_idle (h : (p.stack k).waiting.find? (p.budgetDue e) = none) : quotaBudgetExpiry k e p = p := by
  simp only [quotaBudgetExpiry, h]

variable {w : WaitingReq} (hdue : (p.stack k).waiting.find? (p.budgetDue e) = some w)
include hdue

/-- In a region of hard quotas it is refused (R312). -/
theorem quotaBudgetExpiry_hard (hhard : p.hardWait w = true) : quotaBudgetExpiry k e p = (p.unwait k w).refuseReq k w 0x56 := by
  simp only [quotaBudgetExpiry, hdue]
  exact if_pos hhard

variable (hsoft : p.hardWait w = false)
include hsoft

/-- A descriptor's is marked, and the descriptor delayed for cause 1 (R310). -/
theorem quotaBudgetExpiry_descriptor {q : Nat} (huser : w.user = .descriptor q) : quotaBudgetExpiry k e p = (p.markQuota k w).delayRun q e.tag 1 := by
  simp only [quotaBudgetExpiry, hdue, hsoft, Bool.false_eq_true, if_false]
  obtain ⟨user, _⟩ := w
  cases huser
  rfl

/-- Any other requester's is marked. -/
theorem quotaBudgetExpiry_other (huser : ∀ q, w.user ≠ .descriptor q) : quotaBudgetExpiry k e p = p.markQuota k w := by
  simp only [quotaBudgetExpiry, hdue, hsoft, Bool.false_eq_true, if_false]
  obtain ⟨user, _⟩ := w
  cases user with
  | descriptor q => exact absurd rfl (huser q)
  | dispatcher | core | fabric | outside => rfl

end

/-! ### Upkeep (R288, R325) -/

section
variable (p : Pkg) (k temp : Nat) (e : Env)

/-- A temperature that is read changes its field of the stack's status and no other register. -/
theorem stackTemperatureRead_regs : (stackTemperatureRead k temp e p).regs = (p.setFld (Reg.MEM_STK_STATUS k) Fld.MEM_TEMP temp).regs :=
  (keeps_foldl (g := Pkg.regs) (fun q _ => ⟨record_regs q _ _ _ _ _⟩) ⟨rfl⟩).eq

theorem stackTemperatureRead_mem : (stackTemperatureRead k temp e p).mem = p.mem :=
  (keeps_foldl (g := Pkg.mem) (fun q _ => ⟨record_mem q _ _ _ _ _⟩) ⟨rfl⟩).eq

variable {p k} {status : Nat}

/-- An error-check-and-scrub status of no error is logged alone. -/
theorem ecsStatusRead_clear : ecsStatusRead k 0 e p =
    p.record (k / 3) (channelUnit k 0) 1 4 (leBytes 8 (p.regNat (Reg.MEM_ERR_INFO k)) ++ leBytes 8 0) := rfl

/-- Any other one is shown as an on-die report too (Table 08-10). -/
theorem ecsStatusRead_regs (h : status ≠ 0) : (ecsStatusRead k status e p).regs = (p.setFld (Reg.MEM_ERR_INFO k) Fld.MEM_ERR_KIND 4).regs := by
  rw [ecsStatusRead, if_neg h]
  rfl

theorem ecsStatusRead_byte (a : Nat) : (ecsStatusRead k status e p).byte a = p.byte a := by
  unfold ecsStatusRead
  dsimp only
  split <;> rfl

end

/-- The patch-protected region of a device that holds a line. -/
def Pkg.scrubRegion (p : Pkg) (dev line : Nat) : Option Region :=
  ((List.range 64).map p.region).find? (fun r => r.valid && r.ready && r.patch && r.owns line && codeDev line == dev)

section
variable {p : Pkg} {dev line : Nat} {bad : List Nat} (e : Env)

theorem scrub_elsewhere (h : (p.markBad bad).scrubRegion dev line = none) : scrub dev line bad e p = p.markBad bad := by
  rw [Pkg.scrubRegion] at h
  simp only [scrub, h]

/-- A scrub checks its line as a read does. -/
theorem scrub_line {r : Region} (h : (p.markBad bad).scrubRegion dev line = some r) : scrub dev line bad e p =
    ((p.markBad bad).checkLine r dev ((codeSlot line - 1024 * r.slotBase) * r.channels + codeChan line)
      (r.addrOf dev ((codeSlot line - 1024 * r.slotBase) * r.channels + codeChan line))).1 := by
  rw [Pkg.scrubRegion] at h
  simp only [scrub, h]

end

end Sys2Proof.Machine

namespace Sys2Proof

open Machine

/-- Settles O43: the window and the refresh as the model has them, the budget by the request that is due, the readings by what they write, a scrub by the
region of its line. -/
theorem regulatorsAndUpkeep : Obligations.RegulatorsAndUpkeep := by
  unfold Obligations.RegulatorsAndUpkeep
  refine ⟨fun s k hwork => ?_, fun s k pc hwork => ?_⟩
  · intro p e st fill
    refine ⟨becomes_work rfl hwork rfl, ?_⟩
    intro hard due marked ends
    have hends {q : Pkg} (h : quotaBudgetExpiry k e p = q) : ends q := becomes_work rfl hwork (congrArg (fun x => x.settleMemory e) h)
    exact ⟨fun hnone => hends (quotaBudgetExpiry_idle e hnone), fun w hdue hhard => hends (quotaBudgetExpiry_hard e hdue hhard),
      fun w q hdue hsoft huser => hends (quotaBudgetExpiry_descriptor e hdue hsoft huser),
      fun w hdue hsoft huser => hends (quotaBudgetExpiry_other e hdue hsoft huser)⟩
  · intro p
    refine ⟨fun temp => ?_, fun status hstatus => ?_, ?_, becomes_work rfl hwork rfl, fun dev line bad => ?_⟩
    · have hbec : Becomes (.stackTemperatureRead k temp) s _ := becomes_work rfl hwork rfl
      have hreg := reg_of_regs (stackTemperatureRead_regs p k temp s.env)
      refine hbec.answers ⟨?_, fun j hj => ?_, fun a => ?_, lift_keeps s _⟩
      · rw [lift_fld, fld_eq, hreg, ← fld_eq, fld_setFld _ _ _ _ (by decide)]
        exact Nat.mod_eq_of_lt temp.isLt
      · exact (hreg j).trans (setFld_reg_ne _ _ _ _ _ (by simpa using hj))
      · exact congrArg (fun m => sparseGet (fun _ => 0) m a) (stackTemperatureRead_mem p k temp s.env)
    · have hbec : Becomes (.ecsStatusRead k status) s _ := becomes_work rfl hwork rfl
      have hreg := reg_of_regs (ecsStatusRead_regs (p := p) (k := k) s.env hstatus)
      refine hbec.answers ⟨?_, fun j hj => ?_, ecsStatusRead_byte s.env, lift_keeps s _⟩
      · rw [lift_fld, fld_eq, hreg, ← fld_eq, fld_setFld _ _ _ _ (by decide)]
        rfl
      · exact (hreg j).trans (setFld_reg_ne _ _ _ _ _ (by simpa using hj))
    · have hbec : Becomes (.ecsStatusRead k 0) s _ := becomes_work rfl hwork (ecsStatusRead_clear s.env)
      exact hbec.answers ⟨fun _ _ => rfl, fun _ => rfl, lift_keeps s _, rfl⟩
    · exact ⟨fun hnone => becomes_work rfl hwork (scrub_elsewhere s.env hnone), fun r hhere => becomes_work rfl hwork (scrub_line s.env hhere)⟩

end Sys2Proof

/-! SUPPORT. Host cores: what a core's registers read as after each update, and how a QVX instruction runs or traps (R339 to R346, R359). -/

namespace Sys2Proof.Machine

/-! ### A core of the package -/

section
variable (p : Pkg) (g h : Nat) (c : Core)

theorem core_setCore : (p.setCore g c).core h = if h = g then c else p.core h := by
  by_cases hg : h = g
  · subst hg
    simp [Pkg.core, Pkg.setCore, assoc_assocPut]
  · simp [Pkg.core, Pkg.setCore, assoc_assocPut_ne _ c hg, hg]

@[simp] theorem core_setCore_same : (p.setCore g c).core g = c := by rw [core_setCore, if_pos rfl]

theorem updCore_eq (f : Core → Core) : p.updCore g f = p.setCore g (f (p.core g)) := rfl

end

/-- A command that turns `s` into `t` set core `g` to `d` and left the other cores, the caches, the registers, memory, and the queue with the clock and
the written log. -/
structure SetsCore (s t : State) (g : Nat) (d : Core) : Prop where
  core : t.pkg.core g = d
  others : ∀ h, h ≠ g → t.pkg.core h = s.pkg.core h
  lines : t.pkg.hostLines = s.pkg.hostLines
  keeps : KeepsRegs [] s t ∧ KeepsMem s t ∧ KeepsBlock s t

theorem lift_setCore (s : State) (g : Nat) (d : Core) : SetsCore s (s.lift (fun _ _ => s.pkg.setCore g d)) g d :=
  ⟨core_setCore_same s.pkg g d, fun h hne => (core_setCore s.pkg g h d).trans (if_neg hne), rfl, fun _ _ => rfl, fun _ => rfl, lift_keeps s _⟩

/-- A command that sets one core answers what holds of every state that differs in this core alone. -/
theorem Becomes.answers_core {i : Instr} {s : State} {g : Nat} {d : Core} (h : Becomes i s (s.pkg.setCore g d)) {P : State → Prop}
    (hP : ∀ t, SetsCore s t g d → P t) : Answers i s P :=
  h.answers (hP _ (lift_setCore s g d))

/-! ### Registers of a core -/

section
variable (c : Core) (r k : Nat)

theorem xReg_setX (w : W64) : (c.setX r w).xReg k = if k = r ∧ r ≠ 0 then w else c.xReg k := by
  by_cases hr : r = 0
  · simp [Core.setX, hr]
  by_cases hk : k = r
  · simp [Core.setX, Core.xReg, hk, hr, assoc_assocPut]
  · simp [Core.setX, Core.xReg, hk, hr, assoc_assocPut_ne _ w hk]

/-- Writing an integer register leaves the rest of the core. -/
theorem setX_keeps (w : W64) : (c.setX r w).f = c.f ∧ (c.setX r w).v = c.v ∧ (c.setX r w).p = c.p ∧ (c.setX r w).csr = c.csr ∧
    (c.setX r w).mode = c.mode ∧ (c.setX r w).trap = c.trap := by
  unfold Core.setX
  split <;> exact ⟨rfl, rfl, rfl, rfl, rfl, rfl⟩

theorem vReg_setV (w : VecWord) : (c.setV r w).vReg k = if k = r then w else c.vReg k := by
  by_cases hk : k = r
  · simp [Core.setV, Core.vReg, hk, assoc_assocPut]
  · simp [Core.setV, Core.vReg, hk, assoc_assocPut_ne _ w hk]

theorem csrNat_setCsr (v : Nat) : (c.setCsr r v).csrNat k = if k = r then v % 2 ^ 64 else c.csrNat k := by
  by_cases hk : k = r
  · simp [Core.setCsr, Core.csrNat, hk, assoc_assocPut]
  · simp [Core.setCsr, Core.csrNat, hk, assoc_assocPut_ne _ _ hk]

end

/-! ### A QVX instruction runs or traps (R339, R344) -/

section
variable {p : Pkg} {g : Nat} {f : QvxFields} {legal : Bool} {body : Pkg} (e : Env)

theorem qvxRun_off (h : (p.core g).xs = 0) : p.qvxRun e g f legal body = p.trapCore g 2 0 (some f.pc) := by
  simp [Pkg.qvxRun, h, Pkg.illegal]

theorem qvxRun_illegal (h : legal = false ∨ f.res = true) : p.qvxRun e g f legal body = p.trapCore g 2 0 (some f.pc) := by
  rcases h with h | h <;> simp [Pkg.qvxRun, h, Pkg.illegal]

theorem qvxRun_runs (hxs : (p.core g).xs ≠ 0) (hlegal : legal = true) (hres : f.res = false) (herr : f.error = none) :
    p.qvxRun e g f legal body = body := by
  simp [Pkg.qvxRun, hxs, hlegal, hres, herr]

end

/-! ### Elements (R340, R341) -/

@[simp] theorem length_elems (w : Nat) (v : VecWord) : (elems w v).length = 1024 / w := by simp [elems]

theorem lt_of_mem_elems {w x : Nat} {v : VecWord} (h : x ∈ elems w v) : x < 2 ^ w := by
  obtain ⟨i, -, rfl⟩ := List.mem_map.1 h
  exact Nat.mod_lt _ (Nat.two_pow_pos w)

/-- The elements of the two sources of an integer operation. -/
def Core.intPairs (c : Core) (f : QvxFields) : List (Nat × Nat) :=
  (elems (intBits f.e) (c.vReg f.vs1)).zip (elems (intBits f.e) (c.vReg f.vs2))

theorem Core.intOp_eq (c : Core) (f : QvxFields) (op : Nat → Nat → Nat → ElemOut) :
    c.intOp f op = c.putElems f (intBits f.e) ((c.intPairs f).map (fun ab => op (intBits f.e) ab.1 ab.2)) := rfl

theorem lt_of_mem_intPairs {c : Core} {f : QvxFields} {x : Nat × Nat} (h : x ∈ c.intPairs f) : x.1 < 2 ^ intBits f.e ∧ x.2 < 2 ^ intBits f.e := by
  obtain ⟨h1, h2⟩ := List.of_mem_zip (a := x.1) (b := x.2) h
  exact ⟨lt_of_mem_elems h1, lt_of_mem_elems h2⟩

/-- An operation that raises no flag: its result, and whether it clamps. -/
def noFlags (res : Nat → Nat → Nat) (sat : Nat → Nat → Bool) (ab : Nat × Nat) : ElemOut := ⟨res ab.1 ab.2, 0, sat ab.1 ab.2⟩

/-- An integer operation is known by its results on elements of its width. -/
theorem Core.intOp_of_results {c : Core} {f : QvxFields} {op : Nat → Nat → Nat → ElemOut} {res : Nat → Nat → Nat} {sat : Nat → Nat → Bool}
    (hop : ∀ a b, a < 2 ^ intBits f.e → b < 2 ^ intBits f.e → op (intBits f.e) a b = ⟨res a b, 0, sat a b⟩) :
    c.intOp f op = c.putElems f (intBits f.e) ((c.intPairs f).map (noFlags res sat)) := by
  rw [Core.intOp_eq]
  congr 1
  refine List.map_congr_left fun ab hab => ?_
  obtain ⟨ha, hb⟩ := lt_of_mem_intPairs hab
  exact hop _ _ ha hb

section
variable (c : Core) (f : QvxFields) (w : Nat) (xs : List (Nat × Nat)) (res : Nat → Nat → Nat) (sat : Nat → Nat → Bool)

theorem putElems_vReg_ne (out : List ElemOut) {r : Nat} (h : r ≠ f.vd.val) : (c.putElems f w out).vReg r = c.vReg r :=
  (vReg_setV c f.vd r _).trans (if_neg h)

theorem putElems_vReg_dest : (c.putElems f w (xs.map (noFlags res sat))).vReg f.vd = packElems w (((elems w (c.vReg f.vd)).zip xs).zipIdx.map (fun x =>
    if active (c.pReg f.pg) w x.2 then res x.1.2.1 x.1.2.2 else if f.z then 0 else x.1.1)) := by
  refine (vReg_setV c f.vd f.vd _).trans ((if_pos rfl).trans ?_)
  rw [List.zip_map_right, List.zipIdx_map, List.map_map]
  rfl

theorem putElems_sat : (c.putElems f w (xs.map (noFlags res sat))).sat =
    (c.sat || xs.zipIdx.any (fun x => active (c.pReg f.pg) w x.2 && sat x.1.1 x.1.2)) := by
  simp only [Core.putElems, Core.accrue, Core.setV, List.any_map, List.any_filter, List.zipIdx_map]
  rfl

/-- Elements without flags accrue none. -/
theorem foldl_flags_zero {os : List ElemOut} (h : ∀ o ∈ os, o.flags = 0) : os.foldl (fun a o => a ||| o.flags) 0 = 0 := by
  induction os with
  | nil => rfl
  | cons o os ih =>
    rw [List.foldl_cons, h o List.mem_cons_self]
    exact ih fun x hx => h x (List.mem_cons_of_mem _ hx)

theorem putElems_fflags : (c.putElems f w (xs.map (noFlags res sat))).fflags = c.fflags := by
  have hzero : rvFlags 0 = 0 := rfl
  simp only [Core.putElems, Core.accrue, Core.setV]
  rw [foldl_flags_zero, hzero, Nat.or_zero]
  intro o ho
  obtain ⟨x, hx, rfl⟩ := List.mem_map.1 ho
  obtain ⟨ab, -, hab⟩ := List.mem_map.1 (List.fst_mem_of_mem_zipIdx (List.mem_filter.1 hx).1)
  rw [← hab]
  rfl

end

end Sys2Proof.Machine

namespace Sys2Proof.Machine

/-! ### The results of Table 09-6 -/

/-- A number clamped to the signed range of `w` bits. -/
def clampTo (w : Nat) (z : Int) : Int := if z < -2 ^ (w - 1) then -2 ^ (w - 1) else if 2 ^ (w - 1) - 1 < z then 2 ^ (w - 1) - 1 else z

theorem clampInt_eq (w : Nat) (z : Int) : clampInt w z = ⟨ofSigned w (clampTo w z), 0, decide (clampTo w z ≠ z)⟩ := by
  simp only [clampInt, clampTo, Int.natCast_pow, Nat.cast_ofNat]
  split
  · next hlow => rw [decide_eq_true hlow.ne']
  · split
    · next hhigh => rw [decide_eq_true hhigh.ne]
    · simp [ElemOut.plain]

theorem qSub_of_le {w b : Nat} (a : Nat) (hb : b ≤ 2 ^ w) : qSub w a b = ⟨(a + (2 ^ w - b)) % 2 ^ w, 0, false⟩ := by
  rw [qSub, Nat.add_sub_assoc hb]
  rfl

theorem qMin_eq (w a b : Nat) : qMin w a b = ⟨if toSigned w a ≤ toSigned w b then a else b, 0, false⟩ := by
  simp only [qMin, ElemOut.plain, ← Int.not_lt, ite_not]

theorem qMax_eq (w a b : Nat) : qMax w a b = ⟨if toSigned w b ≤ toSigned w a then a else b, 0, false⟩ := by
  simp only [qMax, ElemOut.plain, ← Int.not_lt, ite_not]

theorem qSll_eq (w a b : Nat) : qSll w a b = ⟨a * 2 ^ (b % w) % 2 ^ w, 0, false⟩ := by rw [qSll, Nat.shiftLeft_eq]; rfl

theorem qSrl_eq (w a b : Nat) : qSrl w a b = ⟨a / 2 ^ (b % w), 0, false⟩ := by rw [qSrl, Nat.shiftRight_eq_div_pow]; rfl

end Sys2Proof.Machine

namespace Sys2Proof

open Machine

/-- Settles O45: each operation puts its results into the active elements (`putElems`), and on elements of its width the model's operation is the one
of Table 09-6. -/
theorem qvxIntegers : Obligations.QvxIntegers := by
  unfold Obligations.QvxIntegers
  intro s g f hwork hxs hres herr c w pairs top clamp writes never
  have hwrites {i : Instr} {op : Nat → Nat → Nat → ElemOut} {res : Nat → Nat → Nat} {sat : Nat → Nat → Bool}
      (hexec : exec i s = s.work .none (fun e p => p.qvx e g.val f true (fun c => c.intOp f op)))
      (hop : ∀ a b, a < 2 ^ w → b < 2 ^ w → op w a b = ⟨res a b, 0, sat a b⟩) : writes i res sat := by
    have hbec : Becomes i s (s.pkg.setCore g (c.putElems f w (pairs.map (noFlags res sat)))) :=
      becomes_work hexec hwork ((qvxRun_runs s.env hxs rfl hres herr).trans (congrArg (s.pkg.setCore g) (Core.intOp_of_results hop)))
    refine hbec.answers_core fun t ht => ?_
    dsimp only
    rw [ht.core]
    exact ⟨putElems_vReg_dest c f w pairs res sat, rfl, putElems_sat c f w pairs res sat, putElems_fflags c f w pairs res sat,
      fun r hr => putElems_vReg_ne c f w _ hr, rfl, rfl, rfl, rfl, ht.others, ht.keeps⟩
  clear_value writes
  refine ⟨hwrites rfl fun a b _ _ => rfl, hwrites rfl fun a b _ hb => qSub_of_le a hb.le, hwrites rfl fun a b _ _ => rfl,
    hwrites rfl fun a b _ _ => clampInt_eq w _, hwrites rfl fun a b _ _ => clampInt_eq w _, hwrites rfl fun a b _ _ => qMin_eq w a b,
    hwrites rfl fun a b _ _ => qMax_eq w a b, hwrites rfl fun a b _ _ => rfl, hwrites rfl fun a b _ _ => rfl, hwrites rfl fun a b _ _ => rfl,
    hwrites rfl fun a b _ _ => rfl, hwrites rfl fun a b _ _ => qSll_eq w a b, hwrites rfl fun a b _ _ => qSrl_eq w a b,
    hwrites rfl fun a b _ _ => rfl⟩

end Sys2Proof

/-! SUPPORT. A core's entry to a handler (R330, R359), and the QVX instructions as runs on their core (R339, R344). -/

namespace Sys2Proof.Machine

/-! ### Entry to a handler (R330, R359) -/

/-- A control register depends on the control registers alone. -/
theorem csrNat_congr {c d : Core} (h : d.csr = c.csr) (n : Nat) : d.csrNat n = c.csrNat n := by rw [Core.csrNat, h, Core.csrNat]

section
variable (c : Core) (intr : Bool) (cause value pc : Nat)

/-- A trap leaves the integer, float and vector registers, the predicates, SAT and XS. -/
theorem enter_registers (toS : Bool) : (c.enter toS intr cause value pc).x = c.x ∧ (c.enter toS intr cause value pc).f = c.f ∧
    (c.enter toS intr cause value pc).v = c.v ∧ (c.enter toS intr cause value pc).p = c.p ∧ (c.enter toS intr cause value pc).sat = c.sat ∧
    (c.enter toS intr cause value pc).xs = c.xs := by
  cases toS <;> simp [Core.enter, Core.setCsr]

theorem enter_mepc : (c.enter false intr cause value pc).csrNat csrMepc = pc / 2 * 2 % 2 ^ 64 := by
  show (Core.setCsr _ _ _).csrNat _ = _
  simp [csrNat_setCsr]

theorem enter_mcause : (c.enter false intr cause value pc).csrNat csrMcause = causeCode intr cause % 2 ^ 64 := by
  show (Core.setCsr _ _ _).csrNat _ = _
  simp [csrNat_setCsr]

theorem enter_mtval : (c.enter false intr cause value pc).csrNat csrMtval = value % 2 ^ 64 := by
  show (Core.setCsr _ _ _).csrNat _ = _
  simp [csrNat_setCsr]

theorem enter_mstatus : (c.enter false intr cause value pc).csrNat csrMstatus =
    putBits (putBits (putBits (c.csrNat csrMstatus) 12 11 c.mode) 7 7 (bit (c.csrNat csrMstatus) 3)) 3 3 0 % 2 ^ 64 := by
  show (Core.setCsr _ _ _).csrNat _ = _
  simp [csrNat_setCsr]

/-- An exception in machine mode is handled there: the trap's registers and the handler's address. -/
theorem takeTrap_machine (h : c.mode = 3) : (c.takeTrap cause value pc).mode = 3 ∧ (c.takeTrap cause value pc).csrNat csrMepc = pc / 2 * 2 % 2 ^ 64 ∧
    (c.takeTrap cause value pc).csrNat csrMcause = causeCode false cause % 2 ^ 64 ∧ (c.takeTrap cause value pc).csrNat csrMtval = value % 2 ^ 64 ∧
    (c.takeTrap cause value pc).pc = c.csrNat csrMtvec / 4 * 4 := by
  have hin : c.takeTrap cause value pc = { c.enter false false cause value pc with trap := some (cause, value) } := by simp [Core.takeTrap, h]
  have hcsr (n : Nat) : (c.takeTrap cause value pc).csrNat n = (c.enter false false cause value pc).csrNat n := csrNat_congr (by rw [hin]) n
  refine ⟨by rw [hin]; rfl, (hcsr _).trans (enter_mepc ..), (hcsr _).trans (enter_mcause ..), (hcsr _).trans (enter_mtval ..), ?_⟩
  rw [hin]
  simp [Core.enter, trapVector]

theorem takeTrap_registers : (c.takeTrap cause value pc).x = c.x ∧ (c.takeTrap cause value pc).f = c.f ∧ (c.takeTrap cause value pc).v = c.v ∧
    (c.takeTrap cause value pc).p = c.p ∧ (c.takeTrap cause value pc).sat = c.sat ∧ (c.takeTrap cause value pc).xs = c.xs :=
  enter_registers ..

end

/-! ### Every QVX instruction (R339) -/

/-- Every QVX instruction runs as such on a working package: it is illegal or its body is what it does. -/
theorem exec_of_mem_qvxAll {g : Fin 144} {f : QvxFields} {h u : Bool} {ss : Fin 4} (s : State) : ∀ i ∈ qvxAll g f h u ss,
    ∃ (legal : Pkg → Bool) (body : Env → Pkg → Pkg), exec i s = s.work .none (fun e p => p.qvxRun e g f (legal p) (body e p)) := by
  simp only [qvxAll, List.cons_append, List.nil_append, List.forall_mem_cons, List.not_mem_nil, false_implies, implies_true, and_true]
  and_intros <;> exact ⟨_, _, rfl⟩

end Sys2Proof.Machine

namespace Sys2Proof

open Machine

/-- Settles O46: with XS Off every QVX instruction is a run that traps; with XS on each is a run whose legality and whose new core are those of its row
of Tables 09-6 to 09-9. -/
theorem qvxOperations : Obligations.QvxOperations := by
  unfold Obligations.QvxOperations
  refine ⟨fun s g f h u ss hwork hoff i hi => ?_, ?_⟩
  · obtain ⟨legal, body, hexec⟩ := exec_of_mem_qvxAll s i hi
    have hbec : Becomes i s (s.pkg.setCore g ((s.pkg.core g).takeTrap 2 0 f.pc)) := becomes_work hexec hwork (qvxRun_off s.env hoff)
    refine hbec.answers_core fun t ht => ?_
    obtain ⟨hx, hf, hv, hp, hsat, hxs⟩ := takeTrap_registers (s.pkg.core g) 2 0 f.pc
    refine ⟨ht.core, ?_⟩
    rw [ht.core]
    refine ⟨rfl, hx, hf, hv, hp, hsat, hxs, fun hmode => ?_, ht.others, ht.keeps⟩
    obtain ⟨hm, hepc, hcause, htval, hpc⟩ := takeTrap_machine (s.pkg.core g) 2 0 f.pc hmode
    exact ⟨hm, hepc, hcause, htval, hpc⟩
  · intro s g f hwork hxs herr c w m runs low plain
    have hruns {i : Instr} {legal : Bool} {body : Core → Core} {d : Core} {F : Env → Pkg → Pkg} (hexec : exec i s = s.work .none F)
        (hF : F s.env s.pkg = s.pkg.qvx s.env g f legal body) (hd : body c = d) : runs i legal d := by
      subst hd
      exact ⟨fun hlegal hres => becomes_work hexec hwork (hF.trans (qvxRun_runs s.env hxs hlegal hres herr)),
        fun hill => becomes_work hexec hwork (hF.trans (qvxRun_illegal s.env hill))⟩
    have hplog : (low && f.vs1.val < 8 && plain) = (predDest f && f.vs1.val < 8 && f.e.val == 0 && f.pg.val == 0) := (Bool.and_assoc ..).symm
    have hsat (r : Fin 32) : (plain && !f.z && f.vs2.val == 0 && r.val == 0) =
        (f.e.val == 0 && !f.z && f.pg.val == 0 && f.vs2.val == 0 && r.val == 0) := by
      rw [show plain = (f.e.val == 0 && f.pg.val == 0) from rfl, Bool.and_right_comm (f.e.val == 0) (f.pg.val == 0)]
    clear_value runs
    rw [hplog, hsat, hsat]
    refine ⟨hruns rfl rfl rfl, hruns rfl rfl rfl, ?_⟩
    -- arithmetic on floats
    refine ⟨hruns rfl rfl rfl, hruns rfl rfl rfl, hruns rfl rfl rfl, hruns rfl rfl rfl, hruns rfl rfl rfl, hruns rfl rfl rfl, hruns rfl rfl rfl, ?_⟩
    -- comparisons and conversions of floats
    refine ⟨hruns rfl rfl rfl, hruns rfl rfl rfl, hruns rfl rfl rfl, hruns rfl rfl rfl, hruns rfl rfl rfl, hruns rfl rfl rfl, hruns rfl rfl rfl,
      hruns rfl rfl rfl, ?_⟩
    -- moves, predicates, SAT and reductions
    refine ⟨hruns rfl rfl rfl, hruns rfl rfl rfl, hruns rfl rfl rfl, hruns rfl rfl rfl, hruns rfl rfl rfl, hruns rfl rfl rfl, hruns rfl rfl rfl,
      hruns rfl rfl rfl, hruns rfl rfl rfl, hruns rfl rfl rfl, ?_⟩
    -- widening and dot products
    exact ⟨fun h u => ⟨hruns rfl rfl rfl, hruns rfl rfl rfl⟩, fun ss => ⟨hruns rfl rfl rfl, hruns rfl rfl rfl⟩⟩

end Sys2Proof

/-! SUPPORT. Host cores' accesses: translation and protection in machine mode, accesses of one piece, words and interrupts (R330 to R336, R359, R393). -/

namespace Sys2Proof.Machine

/-! ### Little-endian bytes (R16) -/

@[simp] theorem length_leBytes (k n : Nat) : (leBytes k n).length = k := by
  induction k generalizing n with
  | zero => rfl
  | succ k ih => rw [leBytes, List.length_cons, ih]

/-! ### Machine mode without protection (Table 09-2) -/

/-- A core in machine mode whose data accesses are its own, with no entry of physical memory protection on. -/
structure Core.Unguarded (c : Core) : Prop where
  machine : c.mode = 3
  own : c.ms 17 = false
  entriesOff : ∀ i < 16, bitsOf (c.pmpCfg i) 4 3 = 0

theorem accMode_of_unguarded {c : Core} (h : c.Unguarded) (k : AccKind) : c.accMode k = 3 := by
  simp [Core.accMode, h.own, h.machine]

/-- An entry that is off covers no byte. -/
theorem pmpRange_off {c : Core} {i : Nat} (h : bitsOf (c.pmpCfg i) 4 3 = 0) : c.pmpRange i = (0, 0) := by
  simp only [Core.pmpRange, h]

theorem pmpAdmits_of_unguarded {c : Core} (h : c.Unguarded) (a n : Nat) (k : AccKind) : c.pmpAdmits 3 a n k = true := by
  have hnone : (List.range 16).find? (fun i => let r := c.pmpRange i; a < r.2 && r.1 < a + n) = none := by
    rw [List.find?_eq_none]
    intro i hi
    simp [pmpRange_off (h.entriesOff i (List.mem_range.1 hi))]
  simp only [Core.pmpAdmits, hnone]
  rfl

theorem translate_of_unguarded {p : Pkg} {g : Nat} (h : (p.core g).Unguarded) (e : Env) (va : Nat) (k : AccKind) :
    p.translate e g va k = (p, .ok (va, 0)) := by
  simp [Pkg.translate, accMode_of_unguarded h k]

/-- An access within a page is one piece at its own address. -/
theorem spans_of_unguarded {p : Pkg} {g : Nat} (h : (p.core g).Unguarded) (e : Env) {va n : Nat} (k : AccKind) (hpage : va % 4096 + n ≤ 4096) :
    p.spans e g va n k = (p, .ok [⟨va, va, n, 0⟩]) := by
  have hpart : pageParts va n = [(va, n)] := by
    rw [pageParts]
    exact if_pos (by omega)
  simp only [Pkg.spans, hpart, List.foldl_cons, List.foldl_nil, translate_of_unguarded h, accMode_of_unguarded h k, pmpAdmits_of_unguarded h]
  rfl

/-! ### Reads and writes of one piece -/

section
variable {p r : Pkg} {e : Env} {g va a n t : Nat}

theorem readSpans_one {d : List Byte} (h : p.hostRead e g a n t = (r, .ok d)) : p.readSpans e g [⟨va, a, n, t⟩] = (r, .ok d) := by
  simp only [Pkg.readSpans, List.foldl_cons, List.foldl_nil, h, List.nil_append]

theorem readSpans_one_error {k : HostFail} (h : p.hostRead e g a n t = (r, .error k)) :
    p.readSpans e g [⟨va, a, n, t⟩] = (r, .error ⟨k, va, a⟩) := by
  simp only [Pkg.readSpans, List.foldl_cons, List.foldl_nil, h]

theorem writeSpans_one {bs : List Byte} {u : Unit} (hlen : bs.length = n) (h : p.hostWrite e g a bs t = (r, .ok u)) :
    p.writeSpans e g [⟨va, a, n, t⟩] bs = (r, .ok ()) := by
  rw [← List.take_of_length_le hlen.le] at h
  simp only [Pkg.writeSpans, h]

end

/-! ### Accesses of a whole word (R332 to R334) -/

/-- The accesses of which the statement speaks: loads, stores, reservations and two atomics. -/
def wordOps : List HostOp := [.load, .loadu, .store, .lr, .sc, .amoAdd, .amoSwap]

theorem wordOps_kind : ∀ o ∈ wordOps, opFree o = false ∧ o ≠ .fetch ∧ o ≠ .evict := by decide

theorem opLegal_of_mem_wordOps (c : Core) : ∀ o ∈ wordOps, c.opLegal o = true := by
  simp [wordOps, Core.opLegal]

theorem accSized_of_mem_wordOps {acc : HostAccess} (hop : acc.op ∈ wordOps) (hsize : acc.size = 4 ∨ acc.size = 8) : accSized acc = true := by
  obtain ⟨-, hfetch, -⟩ := wordOps_kind _ hop
  rcases hsize with h | h <;> simp [accSized, h, hfetch]

theorem accSpan_of_mem_wordOps {acc : HostAccess} (hop : acc.op ∈ wordOps) (hva : acc.va < 2 ^ 64) : accSpan acc = (acc.va, acc.size) := by
  obtain ⟨hfree, -, -⟩ := wordOps_kind _ hop
  rw [accSpan, hfree, Nat.mod_eq_of_lt hva]
  rfl

/-- An access without a word of QVX is the base's. -/
theorem exec_hostMemoryAccess {g : Fin 144} {acc : HostAccess} (s : State) (h : qvxWord g acc = none) :
    exec (.hostMemoryAccess g acc) s = s.work .none (hostMemoryAccess g acc) := by
  show execHostMemoryAccess g acc s = _
  simp only [execHostMemoryAccess, h]

/-- An access runs as such, not as an instruction word or an interrupt. -/
theorem becomes_access {s : State} {g : Fin 144} {acc : HostAccess} {q : Pkg} (hwork : s.pkg.working = true) (hop : acc.op ∈ wordOps)
    (h : s.pkg.hostAccess s.env g acc = q) : Becomes (.hostMemoryAccess g acc) s q := by
  have hword : qvxWord g acc = none ∧ hostMemoryAccess g acc s.env s.pkg = s.pkg.hostAccess s.env g acc := by
    obtain ⟨op, va, size, data, rd, device, error, pc⟩ := acc
    simp only [wordOps, List.mem_cons, List.not_mem_nil, or_false] at hop
    rcases hop with rfl | rfl | rfl | rfl | rfl | rfl | rfl <;> exact ⟨rfl, rfl⟩
  exact becomes_work (exec_hostMemoryAccess s hword.1) hwork (hword.2.trans h)

section
variable {p q : Pkg} {g : Fin 144} {acc : HostAccess} (e : Env)

/-- A core whose fence waits makes no access. -/
theorem hostAccess_fencing (hop : acc.op ∈ wordOps) (hfence : (p.core g).fencing = true) : p.hostAccess e g acc = p := by
  obtain ⟨hfree, -, -⟩ := wordOps_kind _ hop
  simp [Pkg.hostAccess, hfree, hfence]

section
variable (hop : acc.op ∈ wordOps) (hsize : acc.size = 4 ∨ acc.size = 8) (hfence : (p.core g).fencing = false)
  (hva : acc.va < 2 ^ 64) (htrig : (p.core g).trigFires (accKind acc.op) acc.va = false)
include hop hsize hfence hva htrig

/-- An access that translation or protection stops takes its exception. -/
theorem hostAccess_stop {y : SpanStop} (h : p.spans e g acc.va acc.size (accKind acc.op) = (q, .error y)) :
    p.hostAccess e g acc = q.hostFault e g y.how (accKind acc.op) ⟨some acc.pc, y.va, y.pa⟩ := by
  obtain ⟨hfree, -, hevict⟩ := wordOps_kind _ hop
  simp [Pkg.hostAccess, accSized_of_mem_wordOps hop hsize, hfree, hfence, hevict, opLegal_of_mem_wordOps _ _ hop, htrig,
    accSpan_of_mem_wordOps hop hva, h]

/-- An access that passes both goes on with its pieces. -/
theorem hostAccess_admitted {xs : List Span} (h : p.spans e g acc.va acc.size (accKind acc.op) = (q, .ok xs)) :
    p.hostAccess e g acc = q.hostAt e g acc xs := by
  obtain ⟨hfree, -, hevict⟩ := wordOps_kind _ hop
  simp [Pkg.hostAccess, accSized_of_mem_wordOps hop hsize, hfree, hfence, hevict, opLegal_of_mem_wordOps _ _ hop, htrig,
    accSpan_of_mem_wordOps hop hva, h]

end

/-! ### What a load writes -/

theorem loadInto_signed (hop : acc.op ≠ .fload ∧ acc.op ≠ .loadu) (v : Nat) : q.loadInto g acc v = q.coreResult g acc.rd acc.size true v := by
  have hsext : (acc.op != .loadu) = true := bne_iff_ne.2 hop.2
  rw [Pkg.loadInto, accDest, if_neg hop.1, hsext]

theorem loadInto_unsigned (hop : acc.op = .loadu) (v : Nat) : q.loadInto g acc v = q.coreResult g acc.rd acc.size false v := by
  simp [Pkg.loadInto, accDest, hop]

/-! ### Where an access of one piece leads (R332, R334) -/

section
variable {a t : Nat} (herr : acc.error = none)
include herr

theorem hostAt_bad (hop : acc.op ∈ wordOps) (h : q.hostPlace a = .bad) :
    q.hostAt e g acc [⟨acc.va, a, acc.size, t⟩] = q.accessFault e g 5 0 (accKind acc.op) ⟨some acc.pc, acc.va, a⟩ := by
  obtain ⟨hfree, -, hevict⟩ := wordOps_kind _ hop
  simp [Pkg.hostAt, herr, Pkg.hostError, hfree, h, hevict, Pkg.hostFault, accPlace]

theorem hostAt_register {off : Nat} (hop : acc.op = .load) (h : q.hostPlace a = .mmio off) (hok : hostMmioOk off acc.size = true) :
    q.hostAt e g acc [⟨acc.va, a, acc.size, t⟩] = q.coreResult g acc.rd acc.size true (q.mmioRead e off acc.size) := by
  have hfree : opFree .load = false := rfl
  have hloads : opLoads .load = true := rfl
  rw [← loadInto_signed (by rw [hop]; decide)]
  simp [Pkg.hostAt, herr, Pkg.hostError, hop, hfree, h, Pkg.hostRegister, hok, hloads]

theorem hostAt_misaligned (hop : acc.op = .amoAdd ∨ acc.op = .amoSwap ∨ acc.op = .sc) (h : q.hostPlace a = .memory) (hodd : acc.va % acc.size ≠ 0) :
    q.hostAt e g acc [⟨acc.va, a, acc.size, t⟩] = q.trapCore g 6 acc.va (some acc.pc) := by
  have hkind : opFree acc.op = false ∧ (opAmo acc.op || acc.op == .sc) = true := by
    rcases hop with h | h | h <;> rw [h] <;> decide
  simp [Pkg.hostAt, herr, Pkg.hostError, hkind, h, hodd]

theorem hostAt_memory (hop : acc.op ∈ wordOps) (h : q.hostPlace a = .memory) (heven : acc.va % acc.size = 0) :
    q.hostAt e g acc [⟨acc.va, a, acc.size, t⟩] = q.hostMemory e g acc [⟨acc.va, a, acc.size, t⟩] := by
  obtain ⟨hfree, -, -⟩ := wordOps_kind _ hop
  simp [Pkg.hostAt, herr, Pkg.hostError, hfree, h, heven]

end

/-! ### An access of one piece to memory (R328 to R333) -/

section
variable {r u : Pkg} {a t : Nat}

section
variable {d : List Byte} (hread : q.hostRead e g a acc.size t = (r, .ok d))
include hread

theorem hostMemory_load (hop : acc.op = .load) :
    q.hostMemory e g acc [⟨acc.va, a, acc.size, t⟩] = r.coreResult g acc.rd acc.size true (leNat d) := by
  rw [← loadInto_signed (by rw [hop]; decide)]
  simp only [Pkg.hostMemory, hop, readSpans_one hread]

theorem hostMemory_loadu (hop : acc.op = .loadu) :
    q.hostMemory e g acc [⟨acc.va, a, acc.size, t⟩] = r.coreResult g acc.rd acc.size false (leNat d) := by
  rw [← loadInto_unsigned hop]
  simp only [Pkg.hostMemory, hop, readSpans_one hread]

theorem hostMemory_lr (hop : acc.op = .lr) : q.hostMemory e g acc [⟨acc.va, a, acc.size, t⟩] =
    (r.coreResult g acc.rd acc.size true (leNat d)).reserveOf g (some (a / 256 * 256)) := by
  rw [← loadInto_signed (by rw [hop]; decide)]
  simp only [Pkg.hostMemory, hop, readSpans_one hread, List.headD_cons]

theorem hostMemory_amoAdd {v : Unit} (hop : acc.op = .amoAdd)
    (hwrite : r.hostWrite e g a (leBytes acc.size ((leNat d + acc.data % 2 ^ (8 * acc.size)) % 2 ^ (8 * acc.size))) t = (u, .ok v)) :
    q.hostMemory e g acc [⟨acc.va, a, acc.size, t⟩] = u.coreResult g acc.rd acc.size true (leNat d) := by
  rw [← loadInto_signed (by rw [hop]; decide)]
  simp only [Pkg.hostMemory, hop, readSpans_one hread, amoResult, writeSpans_one (length_leBytes _ _) hwrite]

end

theorem hostMemory_load_error {k : HostFail} (hop : acc.op = .load) (hread : q.hostRead e g a acc.size t = (r, .error k)) :
    q.hostMemory e g acc [⟨acc.va, a, acc.size, t⟩] = r.hostFault e g k .load ⟨some acc.pc, acc.va, a⟩ := by
  have hkind : accKind .load = .load := rfl
  simp [Pkg.hostMemory, hop, readSpans_one_error hread, hkind]

theorem hostMemory_store {v : Unit} (hop : acc.op = .store) (hwrite : q.hostWrite e g a (leBytes acc.size acc.data) t = (r, .ok v)) :
    q.hostMemory e g acc [⟨acc.va, a, acc.size, t⟩] = r := by
  simp only [Pkg.hostMemory, hop, writeSpans_one (length_leBytes _ _) hwrite]

/-- A store-conditional without its reservation writes 1 and no byte. -/
theorem hostMemory_sc_fails (hop : acc.op = .sc) (hno : (q.core g).reserve ≠ some (a / 256 * 256)) :
    q.hostMemory e g acc [⟨acc.va, a, acc.size, t⟩] = (q.coreResult g acc.rd 8 false 1).reserveOf g none := by
  unfold Pkg.hostMemory
  rw [hop]
  exact if_neg hno

end

theorem setCore_setCore (p : Pkg) (g : Nat) (c d : Core) : (p.setCore g c).setCore g d = p.setCore g d := by
  have hput (m : List (Nat × Core)) : assocPut (assocPut m g c) g d = assocPut m g d := by
    induction m with
    | nil => simp [assocPut]
    | cons x xs ih =>
      by_cases hx : x.1 = g
      · simp [assocPut, hx]
      · simp [assocPut, hx, ih]
  simp only [Pkg.setCore, hput]

/-- The result of a store-conditional that fails, as a core. -/
theorem coreResult_reserveOf (p : Pkg) (g : Nat) (rd : Fin 32) :
    (p.coreResult g rd 8 false 1).reserveOf g none = p.setCore g { (p.core g).setX rd 1 with reserve := none } := by
  simp [Pkg.coreResult, Pkg.reserveOf, setCore_setCore]

end

end Sys2Proof.Machine

/-! SUPPORT. A core's instruction words and interrupts (R330, R343): which words QVX spells, words of the base, and the state that an interrupt saves. -/

namespace Sys2Proof.Machine

/-! ### Words of QVX (R343) -/

/-- A word that QVX spells runs as the instruction it spells. -/
theorem runQvx_of_decode {g : Fin 144} {pc : Nat} {err : Option ElemError} {w : BitVec 32} {i : Instr} (h : decodeQvx g pc err w = some i) (s : State) :
    runQvx i s = exec i s := by
  unfold decodeQvx at h
  dsimp only at h
  split at h
  case h_49 => split at h <;> cases h <;> rfl
  all_goals cases h <;> rfl

/-- A word whose opcode is none of QVX's four is a word of the base. -/
theorem decodeQvx_base {w : BitVec 32} (g : Fin 144) (pc : Nat) (err : Option ElemError)
    (h : wordBits w 6 0 ≠ 0x0b ∧ wordBits w 6 0 ≠ 0x2b ∧ wordBits w 6 0 ≠ 0x5b ∧ wordBits w 6 0 ≠ 0x7b) : decodeQvx g pc err w = none := by
  obtain ⟨h0, h2, h5, h7⟩ := h
  unfold decodeQvx
  dsimp only
  split
  case h_50 => rfl
  all_goals contradiction

theorem wordBits_eq (w : BitVec 32) (hi lo : Nat) : wordBits w hi lo = bitsOf w.toNat hi lo := (bitsOf_eq _ _ _).symm

/-! ### Words of the base (R330) -/

section
variable {p : Pkg} {g : Fin 144} {acc : HostAccess} {w : BitVec 32} (e : Env)

section
variable (hfence : (p.core g).fencing = false) (herr : acc.error = none) (htrig : (p.core g).trigFires .fetch acc.pc = false)
include hfence herr htrig

theorem insn_word (hlow : w.toNat % 4 = 3) : p.insn e g acc w = p.insn32 e g acc w.toNat (acc.pc + 4) := by
  simp [Pkg.insn, herr, hfence, htrig, hlow]

/-- A word of 16 bits that spells nothing is illegal. -/
theorem insn_reserved (hlow : w.toNat % 4 ≠ 3) (h : rvcWord (w.toNat % 65536) = none) : p.insn e g acc w = p.trapCore g 2 0 (some acc.pc) := by
  simp [Pkg.insn, herr, hfence, htrig, hlow, h, Pkg.illegal]

end

theorem rvOp64_add (a b : Nat) : rvOp64 0 0 a b = some ((a + b) % 2 ^ 64) := rfl

/-- ADD writes its sum and goes on. -/
theorem insn32_add {n : Nat} (next : Nat) (hop : bitsOf n 6 0 = 0x33) (hf3 : bitsOf n 14 12 = 0) (hf7 : bitsOf n 31 25 = 0) :
    p.insn32 e g acc n next = p.setCore g (((p.core g).setX (bitsOf n 11 7)
      ((p.core g).xReg (bitsOf n 19 15) + (p.core g).xReg (bitsOf n 24 20))).goOn next) := by
  have hsum (a b : W64) : BitVec.ofNat 64 ((a.toNat + b.toNat) % 2 ^ 64) = a + b := by
    rw [← BitVec.toNat_add, BitVec.ofNat_toNat, BitVec.setWidth_eq]
  simp only [Pkg.insn32, hop, hf3, hf7, rvOp64_add, Pkg.putX, hsum]
  rfl

theorem insn32_ecall (next : Nat) : p.insn32 e g acc 0x73 next = p.trapCore g (8 + (p.core g).mode) 0 (some acc.pc) := rfl

/-- An instruction word that QVX does not spell is the base's. -/
theorem becomes_word {s : State} {q : Pkg} (hwork : s.pkg.working = true) (hop : acc.op = .insn w)
    (hbase : ∀ err, decodeQvx g acc.pc err w = none) (h : s.pkg.insn s.env g acc w = q) : Becomes (.hostMemoryAccess g acc) s q := by
  refine becomes_work (exec_hostMemoryAccess s (by simp only [qvxWord, hop, hbase])) hwork ?_
  simpa only [hostMemoryAccess, hop] using h

/-- A word of QVX goes on and runs as the instruction it spells. -/
theorem exec_qvxWord {s : State} {i : Instr} (hwork : s.pkg.working = true) (hop : acc.op = .insn w) (herr : acc.error = none)
    (hfence : (s.pkg.core g).fencing = false) (htrig : (s.pkg.core g).trigFires .fetch acc.pc = false) (h : decodeQvx g acc.pc none w = some i) :
    exec (.hostMemoryAccess g acc) s = exec i { s with pkg := s.pkg.updCore g (fun d => d.goOn (acc.pc + 4)) } := by
  rw [← runQvx_of_decode h]
  have hword : qvxWord g acc = some i := by simp only [qvxWord, hop, herr, Option.map_none, h]
  show execHostMemoryAccess g acc s = _
  simp [execHostMemoryAccess, hword, hwork, hfence, htrig]

end

/-! ### Bits of a number with a field replaced -/

theorem testBit_putBits (n : Nat) {hi lo : Nat} (v i : Nat) (h : lo ≤ hi) :
    (putBits n hi lo v).testBit i = if lo ≤ i ∧ i ≤ hi then v.testBit (i - lo) else n.testBit i := by
  obtain ⟨k, hk⟩ : ∃ k, hi + 1 - lo = k := ⟨_, rfl⟩
  have hsplit : putBits n hi lo v = 2 ^ lo * (2 ^ k * (n / 2 ^ lo / 2 ^ k) + v % 2 ^ k) + n % 2 ^ lo := by
    have h1 := Nat.div_add_mod n (2 ^ lo)
    have h2 := Nat.div_add_mod (n / 2 ^ lo) (2 ^ k)
    rw [← h2, Nat.mul_add] at h1
    rw [putBits, bitsOf_eq, hk, Nat.mul_add, Nat.mul_comm _ (2 ^ lo), Nat.mul_comm _ (2 ^ lo)]
    omega
  rw [hsplit, Nat.testBit_two_pow_mul_add _ (Nat.mod_lt _ (Nat.two_pow_pos lo)),
    Nat.testBit_two_pow_mul_add _ (Nat.mod_lt _ (Nat.two_pow_pos k))]
  simp only [Nat.testBit_mod_two_pow, Nat.testBit_div_two_pow]
  by_cases h1 : i < lo
  · have h2 : ¬ (lo ≤ i ∧ i ≤ hi) := by omega
    simp [h1, h2]
  by_cases h2 : i ≤ hi
  · have h3 : i - lo < k := by omega
    simp [h1, h2, h3, Nat.le_of_not_lt h1]
  · have h3 : ¬ i - lo < k := by omega
    have h4 : i - lo - k + k + lo = i := by omega
    simp [h1, h2, h3, h4]

/-- A number's bit as a number is odd when the bit is set. -/
theorem bit_odd (n i : Nat) : decide (bit n i % 2 = 1) = n.testBit i := by
  rw [bit, Nat.mod_mod, Nat.shiftRight_eq_div_pow, Nat.testBit_eq_decide_div_mod_eq]

/-! ### Interrupts -/

/-- An interrupt taken in machine mode bars further ones and keeps whether they were enabled. -/
theorem enter_ms (c : Core) (intr : Bool) (cause value pc : Nat) :
    (c.enter false intr cause value pc).ms 3 = false ∧ (c.enter false intr cause value pc).ms 7 = c.ms 3 := by
  simp only [Core.ms, enter_mstatus, Nat.testBit_mod_two_pow]
  simp [testBit_putBits, bit_odd]

theorem becomes_interrupt {s : State} {g : Fin 144} {acc : HostAccess} {q : Pkg} (hwork : s.pkg.working = true) (hop : acc.op = .interrupt)
    (h : s.pkg.takeInterrupt g acc.pc = q) : Becomes (.hostMemoryAccess g acc) s q := by
  refine becomes_work (exec_hostMemoryAccess s (by simp only [qvxWord, hop])) hwork ?_
  simpa only [hostMemoryAccess, hop] using h

theorem takeInterrupt_none {p : Pkg} {g : Nat} (h : (p.core g).dueInterrupt = none) (pc : Nat) : p.takeInterrupt g pc = p := by
  simp only [Pkg.takeInterrupt, h]

theorem takeInterrupt_due {p : Pkg} {g cause : Nat} {toS : Bool} (h : (p.core g).dueInterrupt = some (toS, cause)) (pc : Nat) :
    p.takeInterrupt g pc = p.setCore g ((p.core g).enter toS true cause 0 pc) := by
  simp only [Pkg.takeInterrupt, h, updCore_eq]

end Sys2Proof.Machine

namespace Sys2Proof

open Machine

/-- Settles O44: an access by where translation, protection and its physical address lead it, a word by its opcode, an interrupt by what the core's
control registers say is due. -/
theorem hostAccesses : Obligations.HostAccesses := by
  unfold Obligations.HostAccesses
  intro s g acc hwork p e c whole
  have hplain (hop : acc.op = .load ∨ acc.op = .store) : acc.op ∈ wordOps := by
    rcases hop with h | h <;> rw [h] <;> decide
  have hatomic (hop : acc.op = .amoAdd ∨ acc.op = .amoSwap ∨ acc.op = .sc) : acc.op ∈ wordOps := by
    rcases hop with h | h | h <;> rw [h] <;> decide
  refine ⟨fun io => becomes_work rfl hwork rfl, fun hfence _ hop => becomes_access hwork (hplain hop) (hostAccess_fencing e (hplain hop) hfence),
    fun k hmode hown hpage hoff => spans_of_unguarded ⟨hmode, hown, hoff⟩ e k hpage, ?_, ?_, ?_⟩
  · intro hfence herr hwhole hva htrig
    have hsize : acc.size = 4 ∨ acc.size = 8 := by simpa [whole] using hwhole
    refine ⟨fun q y hstop hop => becomes_access hwork (hplain hop) (hostAccess_stop e (hplain hop) hsize hfence hva htrig hstop), ?_⟩
    intro q a t hspans
    have hat {q2 : Pkg} (hop : acc.op ∈ wordOps) (h : q.hostAt e g acc [⟨acc.va, a, acc.size, t⟩] = q2) : Becomes (.hostMemoryAccess g acc) s q2 :=
      becomes_access hwork hop ((hostAccess_admitted e hop hsize hfence hva htrig hspans).trans h)
    refine ⟨fun hbad hop => hat (hplain hop) (hostAt_bad e herr (hplain hop) hbad),
      fun off hreg hop hok => hat (hplain (.inl hop)) (hostAt_register e herr hop hreg hok),
      fun hplace hodd hop => hat (hatomic hop) (hostAt_misaligned e herr hop hplace hodd), ?_⟩
    intro hplace heven
    have hgo {o : HostOp} {q2 : Pkg} (ho : o ∈ wordOps) (hop : acc.op = o) (h : q.hostMemory e g acc [⟨acc.va, a, acc.size, t⟩] = q2) :
        Becomes (.hostMemoryAccess g acc) s q2 :=
      hat (hop ▸ ho) ((hostAt_memory e herr (hop ▸ ho) hplace heven).trans h)
    refine ⟨fun r d hread => ⟨fun hop => hgo (by decide) hop (hostMemory_load e hread hop), fun hop => hgo (by decide) hop (hostMemory_loadu e hread hop),
        fun hop => hgo (by decide) hop (hostMemory_lr e hread hop),
        fun hop u v hwrite => hgo (by decide) hop (hostMemory_amoAdd e hread hop hwrite)⟩,
      fun r k hread hop => hgo (by decide) hop (hostMemory_load_error e hop hread),
      fun r u hwrite hop => hgo (by decide) hop (hostMemory_store e hop hwrite), ?_⟩
    rintro hop rfl hno hrd
    refine (hgo (by decide) hop ((hostMemory_sc_fails e hop hno).trans (coreResult_reserveOf p g acc.rd))).answers_core fun t ht => ?_
    rw [ht.core]
    exact ⟨(xReg_setX _ _ _ _).trans (if_pos ⟨rfl, hrd⟩), rfl, ht.lines, ht.keeps⟩
  · intro hfence herr htrig w hop
    refine ⟨fun hopc hf3 hf7 => ?_, fun i hi => exec_qvxWord hwork hop herr hfence htrig hi, ?_, ?_⟩
    · have hbase (err : Option ElemError) : decodeQvx g acc.pc err w = none := decodeQvx_base g acc.pc err (by simp [wordBits_eq, hopc])
      have hlow : w.toNat % 4 = 3 := by
        rw [bitsOf_eq] at hopc
        omega
      have hbec := becomes_word hwork hop hbase ((insn_word e hfence herr htrig hlow).trans (insn32_add e _ hopc hf3 hf7))
      refine hbec.answers_core fun t ht => ?_
      dsimp only
      rw [ht.core]
      obtain ⟨hf, hv, hp, hcsr, hmode, htrap⟩ := setX_keeps c (bitsOf w.toNat 11 7) (c.xReg (bitsOf w.toNat 19 15) + c.xReg (bitsOf w.toNat 24 20))
      exact ⟨fun hrd => (xReg_setX c _ _ _).trans (if_pos ⟨rfl, hrd⟩), rfl, fun r hr => (xReg_setX c _ r _).trans (if_neg fun h => hr h.1),
        hf, hv, hp, hcsr, hmode, htrap, ht.others, ht.keeps⟩
    · rintro rfl
      exact becomes_word hwork hop (fun err => decodeQvx_base g acc.pc err (by decide)) ((insn_word e hfence herr htrig rfl).trans (insn32_ecall e _))
    · rintro rfl
      exact becomes_word hwork hop (fun err => decodeQvx_base g acc.pc err (by decide)) (insn_reserved e hfence herr htrig (by decide) rfl)
  · intro hop
    refine ⟨fun hnone => becomes_interrupt hwork hop (takeInterrupt_none hnone acc.pc), fun cause hdue => ?_⟩
    refine (becomes_interrupt hwork hop (takeInterrupt_due hdue acc.pc)).answers_core fun t ht => ?_
    dsimp only
    rw [ht.core]
    obtain ⟨hx, hf, hv, hp, -, -⟩ := enter_registers c true cause 0 acc.pc false
    obtain ⟨hie, hpie⟩ := enter_ms c true cause 0 acc.pc
    exact ⟨rfl, enter_mepc .., enter_mcause .., enter_mtval .., hie, hpie, rfl, hx, hf, hv, hp, ht.keeps⟩

end Sys2Proof

/-! SUPPORT. A line that a core holds in its own caches: what a read of it gives, and what a write leaves (R328, R329, R332, Table 09-1). -/

namespace Sys2Proof.Machine

/-! ### Bytes of numbers and of lines -/

/-- Byte `k` of a number. -/
theorem getD_leBytes {n k : Nat} (x : Nat) (h : k < n) : (leBytes n x).getD k 0 = BitVec.ofNat 8 (x / 2 ^ (8 * k)) := by
  induction n generalizing k x with
  | zero => exact absurd h (Nat.not_lt_zero k)
  | succ n ih =>
    cases k with
    | zero => exact BitVec.eq_of_toNat_eq (by simp [leBytes])
    | succ k =>
      rw [leBytes, List.getD_cons_succ, ih _ (Nat.lt_of_succ_lt_succ h), Nat.div_div_eq_div_mul, Nat.mul_succ, Nat.pow_add, Nat.mul_comm 256]

@[simp] theorem length_patchBytes {old bs : List Byte} {off : Nat} (h : off + bs.length ≤ old.length) : (patchBytes old off bs).length = old.length := by
  simp only [patchBytes, List.length_append, List.length_take, List.length_drop]
  omega

/-- A byte of a list after bytes are replaced. -/
theorem getD_patchBytes {old bs : List Byte} {off : Nat} (i : Nat) (h : off + bs.length ≤ old.length) :
    (patchBytes old off bs).getD i 0 = if off ≤ i ∧ i < off + bs.length then bs.getD (i - off) 0 else old.getD i 0 := by
  have htake : (old.take off).length = off := by rw [List.length_take]; omega
  simp only [patchBytes, List.getD_eq_getElem?_getD, List.append_assoc, List.getElem?_append, htake, List.getElem?_take, List.getElem?_drop]
  by_cases h1 : i < off
  · rw [if_pos h1, if_pos h1, if_neg (by omega)]
  by_cases h2 : i - off < bs.length
  · rw [if_neg h1, if_pos h2, if_pos (by omega)]
  · rw [if_neg h1, if_neg h2, if_neg (by omega), show off + bs.length + (i - off - bs.length) = i by omega]

/-- The `n` bytes of memory from an address as a line holds them. -/
def HostLine.slice (l : HostLine) (a n : Nat) : List Byte := (List.range n).map (fun k => l.byteAt (a + k))

theorem take_drop_eq_slice {l : HostLine} {a n : Nat} (hwhole : l.bytes.length = 256) (hfit : a % 256 + n ≤ 256) :
    (l.bytes.drop (a % 256)).take n = l.slice a n := by
  refine List.ext_getElem (by simp [HostLine.slice, hwhole]; omega) fun k hk _ => ?_
  have hk1 : k < n := by simp at hk; omega
  have hmod : (a + k) % 256 = a % 256 + k := by omega
  simp [HostLine.slice, HostLine.byteAt, hmod, List.getD_eq_getElem?_getD, List.getElem?_eq_getElem (show a % 256 + k < l.bytes.length by omega)]

/-! ### Addresses in one line -/

theorem linesOf_one {a n : Nat} (h : 0 < n ∧ (a + n - 1) / 256 = a / 256) : linesOf a n = [a / 256 * 256] := by
  simp [linesOf, h.1.ne', h.2]

theorem linePieces_one {a : Nat} {bs : List Byte} (h : 0 < bs.length ∧ (a + bs.length - 1) / 256 = a / 256) : linePieces a bs = [(a, bs)] := by
  have hlo : max a (a / 256 * 256) = a := by omega
  have hhi : min (a + bs.length) (a / 256 * 256 + 256) - a = bs.length := by omega
  simp only [linePieces, linesOf_one h, List.map_cons, List.map_nil, hlo, hhi, Nat.sub_self, List.drop_zero, List.take_length]

/-- Memory lies below the physical address space's end. -/
theorem lt_of_memory {p : Pkg} {b : Nat} (h : p.hostPlace b = .memory) : b < 2 ^ 56 := by
  by_contra hge
  rw [Pkg.hostPlace, if_pos (Nat.le_of_not_lt hge)] at h
  exact HostPlace.noConfusion h

/-! ### The line of an address in the caches -/

theorem cached_congr {p : Pkg} {a b : Nat} (h : b / 256 = a / 256) : p.cached b = p.cached a := by rw [Pkg.cached, h, Pkg.cached]

theorem addr_of_cached {p : Pkg} {a : Nat} {l : HostLine} (h : p.cached a = some l) : l.addr = a / 256 * 256 := by
  simpa using List.find?_some h

theorem mem_of_cached {p : Pkg} {a : Nat} {l : HostLine} (h : p.cached a = some l) : l ∈ p.hostLines := List.mem_of_find?_eq_some h

theorem cached_addr {p : Pkg} {a : Nat} {l : HostLine} (h : p.cached a = some l) : p.cached l.addr = some l := by
  rw [← h]
  exact cached_congr (by rw [addr_of_cached h, Nat.mul_div_cancel _ (by decide)])

/-- Where a physical address leads depends on the registers alone. -/
theorem hostPlace_of_regs {p q : Pkg} (h : q.regs = p.regs) (b : Nat) : q.hostPlace b = p.hostPlace b := by
  have hregion : q.regionAt b = p.regionAt b := by
    have hreg (n : Nat) : q.region n = p.region n := by simp only [Pkg.region, reg_of_regs h]
    simp only [Pkg.regionAt, funext hreg]
  simp only [Pkg.hostPlace, hregion]

/-! ### A held line is read -/

section
variable {p : Pkg} {g : Fin 144} {a n : Nat} {l : HostLine}

theorem Pkg.HoldsLine.core_unguarded (h : p.HoldsLine g a n l) : (p.core g).Unguarded := ⟨h.machine.1, h.machine.2, h.unguarded⟩

theorem Pkg.HoldsLine.fits (h : p.HoldsLine g a n l) : a % 256 + n ≤ 256 := by
  obtain ⟨hpos, hline⟩ := h.inLine
  omega

/-- A part of the bytes stands in the same line. -/
theorem Pkg.HoldsLine.part (h : p.HoldsLine g a n l) {b m : Nat} (hpos : 0 < m) (hlo : a ≤ b) (hhi : b + m ≤ a + n) : p.HoldsLine g b m l := by
  obtain ⟨-, hline⟩ := h.inLine
  have hsame : b / 256 = a / 256 := by omega
  exact { h with
    held := (cached_congr hsame).trans h.held
    inLine := ⟨hpos, by omega⟩
    memory := fun x hx hx2 => h.memory x (by omega) (by omega) }

/-- A core's own line that it reads stays where it is. -/
theorem holdLine_near (h : p.HoldsLine g a n l) (e : Env) : p.holdLine e g false false l = p := by
  have hnew : (cachesOf g false).filter (fun c => !l.within.contains c) = [] := by
    rw [List.filter_eq_nil_iff]
    exact fun c hc => by rw [h.near c hc]; exact Bool.false_ne_true
  simp only [Pkg.holdLine, Bool.false_eq_true, if_false, hnew, List.append_nil, cached_addr h.held, beq_self_eq_true, decide_true, Bool.and_self, if_true]

theorem fetchLine_of_holds (h : p.HoldsLine g a n l) (e : Env) : p.fetchLine e g (a / 256 * 256) false = (p, .ok l) := by
  have hcached : p.cached (a / 256 * 256) = some l := (cached_congr (by omega)).trans h.held
  simp only [Pkg.fetchLine, hcached, holdLine_near h]

/-- A read of a held line gives its bytes and changes nothing. -/
theorem readCached_of_holds (h : p.HoldsLine g a n l) (e : Env) : p.readCached e g a n false = (p, .ok (l.slice a n)) := by
  have hfit := h.fits
  have hlo : max a (a / 256 * 256) = a := by omega
  have hoff : a - a / 256 * 256 = a % 256 := by omega
  have hlen : min (a + n) (a / 256 * 256 + 256) - a = n := by omega
  simp only [Pkg.readCached, linesOf_one h.inLine, List.foldl_cons, List.foldl_nil, fetchLine_of_holds h, hlo, hoff, hlen,
    take_drop_eq_slice h.whole hfit, List.nil_append]

end

/-! ### A held line is written -/

/-- A line as a core's store of bytes at an address leaves it (R329): the core alone holds it, dirty. -/
def HostLine.written (l : HostLine) (g a : Nat) (bs : List Byte) : HostLine :=
  { l with bytes := patchBytes l.bytes (a % 256) bs, dirty := true, within := cachesOf g false }

theorem byteAt_written {l : HostLine} {a : Nat} {bs : List Byte} (g : Nat) (hwhole : l.bytes.length = 256) (hfit : a % 256 + bs.length ≤ 256) {j : Nat}
    (hj : j / 256 = a / 256) : (l.written g a bs).byteAt j = if a ≤ j ∧ j < a + bs.length then bs.getD (j - a) 0 else l.byteAt j := by
  rw [HostLine.byteAt, HostLine.written, getD_patchBytes _ (by omega)]
  have hiff : (a % 256 ≤ j % 256 ∧ j % 256 < a % 256 + bs.length) ↔ (a ≤ j ∧ j < a + bs.length) := by omega
  by_cases hin : a ≤ j ∧ j < a + bs.length
  · rw [if_pos hin, if_pos (hiff.2 hin), show j % 256 - a % 256 = j - a by omega]
  · rw [if_neg hin, if_neg (fun h => hin (hiff.1 h)), HostLine.byteAt]

/-- A core's work that turns `p` into `q` changed a line that the core holds from `l` to `l2`, and left the core, the registers and memory. -/
structure Pkg.Overwrites (p q : Pkg) (g : Fin 144) (l l2 : HostLine) : Prop where
  core : q.core g = p.core g
  regs : q.regs = p.regs
  mem : q.mem = p.mem
  holds : ∀ a n, p.HoldsLine g a n l → q.HoldsLine g a n l2

theorem Pkg.Overwrites.refl (p : Pkg) (g : Fin 144) (l : HostLine) : p.Overwrites p g l l := ⟨rfl, rfl, rfl, fun _ _ h => h⟩

theorem Pkg.Overwrites.trans {p q r : Pkg} {g : Fin 144} {l l2 l3 : HostLine} (h : p.Overwrites q g l l2) (h2 : q.Overwrites r g l2 l3) :
    p.Overwrites r g l l3 :=
  ⟨h2.core.trans h.core, h2.regs.trans h.regs, h2.mem.trans h.mem, fun a n hl => h2.holds a n (h.holds a n hl)⟩

/-- The lines of the host caches that a cache holds. -/
def Pkg.linesIn (p : Pkg) (c : HostCache) : List HostLine := p.hostLines.filter (fun x => x.within.contains c)

/-- A cache with room gives up no line. -/
theorem foldl_trimCache {p : Pkg} {e : Env} {g line : Nat} {cs : List HostCache} (h : ∀ c ∈ cs, (p.linesIn c).length ≤ c.lines) :
    cs.foldl (fun (q : Pkg) c => q.trimCache e g c line) p = p := by
  induction cs with
  | nil => rfl
  | cons c cs ih =>
    have htrim : p.trimCache e g c line = p := if_pos (h c List.mem_cons_self)
    rw [List.foldl_cons, htrim]
    exact ih fun d hd => h d (List.mem_cons_of_mem c hd)

/-- A line put back in its place leaves a cache no fuller, when the cache held it before. -/
theorem length_linesIn_setLine {p : Pkg} {a : Nat} {l l2 : HostLine} {c : HostCache} (hheld : p.cached a = some l) (haddr : l2.addr = l.addr)
    (hin : l.within.contains c = true) : ((p.setLine l2).linesIn c).length ≤ (p.linesIn c).length := by
  have hl : l.addr = a / 256 * 256 := addr_of_cached hheld
  have hline : l.addr = l2.addr / 256 * 256 := by rw [haddr, hl, Nat.mul_div_cancel _ (by decide)]
  have hless : ((p.linesIn c).filter (fun x => x.addr ≠ l2.addr / 256 * 256)).length < (p.linesIn c).length :=
    List.length_filter_lt_length_iff_exists.2 ⟨l, List.mem_filter.2 ⟨mem_of_cached hheld, hin⟩, by simpa using hline⟩
  have hone : ([l2].filter (fun x => x.within.contains c)).length ≤ 1 := List.length_filter_le _ _
  have hlines : (p.setLine l2).linesIn c =
      (p.linesIn c).filter (fun x => x.addr ≠ l2.addr / 256 * 256) ++ [l2].filter (fun x => x.within.contains c) := by
    simp only [Pkg.linesIn, Pkg.setLine, Pkg.uncache, List.filter_append, List.filter_filter, Bool.and_comm]
  rw [hlines, List.length_append]
  omega

theorem cached_setLine {p : Pkg} {a : Nat} {l2 : HostLine} (h : l2.addr = a / 256 * 256) : (p.setLine l2).cached a = some l2 := by
  have hline : l2.addr / 256 * 256 = a / 256 * 256 := by omega
  have hnone : (p.hostLines.filter (fun x => x.addr ≠ a / 256 * 256)).find? (fun x => x.addr == a / 256 * 256) = none := by
    rw [List.find?_eq_none]
    intro x hx
    simpa using (List.mem_filter.1 hx).2
  simp only [Pkg.cached, Pkg.setLine, Pkg.uncache, hline, List.find?_append, hnone, Option.none_or]
  simp [h]

/-- The package with other host lines, of which a core alone holds `l2`, as it holds `l` before. -/
theorem overwrites_of_lines {p q : Pkg} {g : Fin 144} {l l2 : HostLine} (hcore : q.core g = p.core g) (hregs : q.regs = p.regs) (hmem : q.mem = p.mem)
    (hcached : ∀ a, p.cached a = some l → q.cached a = some l2) (hwhole : l.bytes.length = 256 → l2.bytes.length = 256)
    (hnear : l2.within = cachesOf g false) (hroom : ∀ a n, p.HoldsLine g a n l → ∀ c ∈ cachesOf g false, (q.linesIn c).length ≤ c.lines) :
    p.Overwrites q g l l2 := by
  refine ⟨hcore, hregs, hmem, fun a n h => ?_⟩
  exact {
    machine := hcore ▸ h.machine
    unguarded := hcore ▸ h.unguarded
    held := hcached a h.held
    whole := hwhole h.whole
    inLine := h.inLine
    memory := fun b h1 h2 => (hostPlace_of_regs hregs b).trans (h.memory b h1 h2)
    near := fun c hc => by rw [hnear]; exact List.contains_iff_mem.2 hc
    room := hroom a n h }

section
variable {p : Pkg} {g : Fin 144} {a n : Nat} {l l2 : HostLine} (e : Env)

/-- A core that writes a line which it holds is its only holder (R329), and no line leaves the caches. -/
theorem overwrites_holdLine (h : p.HoldsLine g a n l) (haddr : l2.addr = l.addr) (hwhole : l2.bytes.length = 256) :
    p.Overwrites (p.holdLine e g false true l2) g l { l2 with within := cachesOf g false } := by
  have hl : l.addr = a / 256 * 256 := addr_of_cached h.held
  by_cases hsame : cachesOf g false = l2.within ∧ p.cached l2.addr = some l2
  · have hstays : p.holdLine e g false true l2 = p := by simp [Pkg.holdLine, hsame]
    have hold : l2 = l := by
      rw [haddr, cached_addr h.held] at hsame
      exact (Option.some.inj hsame.2).symm
    rw [hstays, hsame.1, hold]
    exact Pkg.Overwrites.refl p g l
  · have hroom (b m : Nat) (hb : p.HoldsLine g b m l) (c : HostCache) (hc : c ∈ cachesOf g false) :
        ((p.setLine { l2 with within := cachesOf g false }).linesIn c).length ≤ c.lines :=
      (length_linesIn_setLine (l2 := { l2 with within := cachesOf g false }) h.held haddr (h.near c hc)).trans (h.room c hc)
    have hset : p.holdLine e g false true l2 = p.setLine { l2 with within := cachesOf g false } := by
      have hno : ¬ (decide (cachesOf g false = l2.within) && p.cached l2.addr == some l2) = true := by simpa using hsame
      simp only [Pkg.holdLine, if_true, if_neg hno]
      exact foldl_trimCache (hroom a n h)
    rw [hset]
    refine overwrites_of_lines rfl rfl rfl (fun b hb => cached_setLine ?_) (fun _ => hwhole) rfl hroom
    exact haddr.trans (addr_of_cached hb)

/-- The end of other cores' reservations is nothing to the core that writes (R329). -/
theorem overwrites_breakReserves (line : Nat) (hnear : l.within = cachesOf g false) : p.Overwrites (p.breakReserves g line) g l l := by
  refine overwrites_of_lines ?_ rfl rfl (fun _ h => h) id hnear (fun _ _ h => h.room)
  simp only [Pkg.core, Pkg.breakReserves, assoc?]
  induction p.cores with
  | nil => rfl
  | cons x xs ih =>
    by_cases hx : x.1 = g
    · simp [hx]
    · have hkey : (if x.1 ≠ g ∧ x.2.reserve = some line then (x.1, { x.2 with reserve := none }) else x).1 = x.1 := by split <;> rfl
      simpa only [List.map_cons, List.find?_cons, hkey, hx, decide_false] using ih

/-- A write of a held line stands in the line. -/
theorem writeCached_of_holds {bs : List Byte} (h : p.HoldsLine g a bs.length l) :
    ∃ q, p.writeCached e g a bs = (q, .ok ()) ∧ p.Overwrites q g l (l.written g a bs) := by
  have hl : l.addr = a / 256 * 256 := addr_of_cached h.held
  have hoff : a - l.addr = a % 256 := by omega
  have hfit := h.fits
  have hwhole := h.whole
  refine ⟨_, ?_, (overwrites_holdLine e h (l2 := { l with bytes := patchBytes l.bytes (a % 256) bs, dirty := true }) rfl ?_).trans
    (overwrites_breakReserves l.addr rfl)⟩
  · simp only [Pkg.writeCached, readCached_of_holds h, linePieces_one h.inLine, List.foldl_cons, List.foldl_nil, h.held, hoff]
  · exact (length_patchBytes (by omega)).trans hwhole

end

end Sys2Proof.Machine

/-! SUPPORT. Vector loads and stores: their parts on a line that the core holds, the elements that they load and store, and how they end (R353, R354). -/

namespace Sys2Proof.Machine

/-! ### A part of a vector access on a held line (R353) -/

section
variable {p : Pkg} {g : Fin 144} {a n : Nat} {l : HostLine} {f : QvxFields} (e : Env) (i : Nat)

theorem vecSpans_of_holds (herr : f.error = none) (h : p.HoldsLine g a n l) (k : AccKind) :
    p.vecSpans e g f i a n k = (p, .ok [⟨a, a, n, 0⟩]) := by
  have hfit := h.fits
  have hpos := h.inLine.1
  have hplace := h.memory a (Nat.le_refl a) (by omega)
  have hlast := h.memory (a + n - 1) (by omega) (by omega)
  have hspan := spans_of_unguarded (va := a) (n := n) h.core_unguarded e k (by omega)
  simp [Pkg.vecSpans, hspan, hplace, hlast, herr]

theorem vecRead_of_holds (herr : f.error = none) (h : p.HoldsLine g a n l) : p.vecRead e g f i a n = (p, .ok (leNat (l.slice a n))) := by
  have hread : p.hostRead e g a n 0 = (p, .ok (l.slice a n)) := readCached_of_holds h e
  simp only [Pkg.vecRead, vecSpans_of_holds e i herr h, readSpans_one hread]

theorem vecWrite_of_holds {bs : List Byte} (herr : f.error = none) (hlen : bs.length = n) (h : p.HoldsLine g a n l) :
    ∃ q, p.vecWrite e g f i a bs = (q, .ok ()) ∧ p.Overwrites q g l (l.written g a bs) := by
  subst hlen
  obtain ⟨q, hwrite, hover⟩ := writeCached_of_holds e h
  refine ⟨q, ?_, hover⟩
  have hone : p.hostWrite e g a bs 0 = (q, .ok ()) := hwrite
  simp only [Pkg.vecWrite, vecSpans_of_holds e i herr h, writeSpans_one rfl hone]

end

/-! ### The elements of a vector register -/

theorem eight_mul_bytes (e : Fin 4) : 8 * (intBits e / 8) = intBits e := by
  rw [intBits, Nat.mul_div_cancel_left _ (by decide)]

theorem bytes_pos (e : Fin 4) : 0 < intBits e / 8 := by
  rw [intBits, Nat.mul_div_cancel_left _ (by decide)]
  exact Nat.two_pow_pos _

/-- The elements of a register are 128 bytes. -/
theorem elements_mul_bytes : ∀ e : Fin 4, 1024 / intBits e * (intBits e / 8) = 128 := by decide

theorem element_inside {e : Fin 4} {i : Nat} (h : i < 1024 / intBits e) : i * (intBits e / 8) + intBits e / 8 ≤ 128 := by
  rw [← Nat.succ_mul, ← elements_mul_bytes e]
  exact Nat.mul_le_mul_right _ h

section
variable {p : Pkg} {g : Fin 144} {a : Nat} {l : HostLine} {ec : Fin 4} {i : Nat}

/-- An element stands in the line that holds its vector. -/
theorem Pkg.HoldsLine.element (h : p.HoldsLine g a 128 l) (hi : i < 1024 / intBits ec) :
    p.HoldsLine g (a + i * (intBits ec / 8)) (intBits ec / 8) l := by
  have hin := element_inside hi
  exact h.part (bytes_pos ec) (Nat.le_add_right _ _) (by omega)

/-- An element of a vector in memory is at no wrapped address. -/
theorem element_address (h : p.HoldsLine g a 128 l) (hi : i < 1024 / intBits ec) :
    (a + i * (intBits ec / 8)) % 2 ^ 64 = a + i * (intBits ec / 8) := by
  have hel := h.element hi
  have hlt := lt_of_memory (hel.memory _ (Nat.le_refl _) (by have := hel.inLine.1; omega))
  exact Nat.mod_eq_of_lt (by omega)

end

/-! ### The elements that a load loads (R353) -/

/-- The active ones of some elements, each with its value, as a table. -/
theorem assoc_active (is : List Nat) (act : Nat → Bool) (val : Nat → Nat) (j : Nat) :
    assoc? ((is.filter act).map (fun i => (i, val i))) j = if j ∈ is ∧ act j = true then some (val j) else none := by
  induction is with
  | nil => simp [assoc?]
  | cons i is ih =>
    by_cases hact : act i = true
    · by_cases hij : i = j
      · subst hij
        simp [assoc?, hact]
      · simpa [assoc?, hact, hij, Ne.symm hij] using ih
    · have hmem : (j ∈ i :: is ∧ act j = true) ↔ (j ∈ is ∧ act j = true) := by
        rw [List.mem_cons]
        refine ⟨fun ⟨h, hj⟩ => ⟨h.resolve_left fun hji => hact (hji ▸ hj), hj⟩, fun ⟨h, hj⟩ => ⟨.inr h, hj⟩⟩
      rw [List.filter_cons_of_neg hact, ih]
      simp only [hmem]

/-- With every active element loaded, vd takes their values at the active places. -/
theorem putLoaded_active (c : Core) (f : QvxFields) (w : Nat) (act : Nat → Bool) (val : Nat → Nat) :
    c.putLoaded f w (((List.range (1024 / w)).filter act).map (fun i => (i, val i))) =
      c.setV f.vd (packElems w ((elems w (c.vReg f.vd)).zipIdx.map (fun o => if act o.2 then val o.2 else if f.z then 0 else o.1))) := by
  refine congrArg (fun xs => c.setV f.vd (packElems w xs)) (List.map_congr_left fun o ho => ?_)
  have hlt : o.2 < 1024 / w := by simpa using List.snd_lt_of_mem_zipIdx ho
  rw [assoc_active]
  by_cases hact : act o.2 = true
  · rw [if_pos ⟨List.mem_range.2 hlt, hact⟩, if_pos hact]
  · rw [if_neg (fun h => hact h.2), if_neg hact]

/-- The work of a load on one element, after those before it. -/
def loadElem (e : Env) (g : Nat) (f : QvxFields) (pg : PredWord) (w a : Nat) (st : Pkg × List (Nat × Nat) × Option VecStop) (i : Nat) :
    Pkg × List (Nat × Nat) × Option VecStop :=
  if st.2.2.isSome || !active pg w i then st
  else
    let r := st.1.vecRead e g f i ((a + i * (w / 8)) % 2 ^ 64) (w / 8)
    match r.2 with
    | .error k => (r.1, st.2.1, some k)
    | .ok v => (r.1, st.2.1 ++ [(i, v)], none)

theorem loadElems_eq (p : Pkg) (e : Env) (g : Nat) (f : QvxFields) (pg : PredWord) (w a : Nat) :
    p.loadElems e g f pg w a = (List.range (1024 / w)).foldl (loadElem e g f pg w a) (p, [], none) := rfl

/-- An element of a load is read when it is active. -/
theorem loadElem_of_read {p : Pkg} {e : Env} {g : Nat} {f : QvxFields} {pg : PredWord} {w a i v : Nat} (got : List (Nat × Nat))
    (h : p.vecRead e g f i ((a + i * (w / 8)) % 2 ^ 64) (w / 8) = (p, .ok v)) :
    loadElem e g f pg w a (p, got, none) i = (p, if active pg w i then got ++ [(i, v)] else got, none) := by
  by_cases hact : active pg w i = true
  · simp only [loadElem, h, hact, Option.isSome_none, Bool.not_true, Bool.or_self, Bool.false_eq_true, if_false, if_true]
  · simp [loadElem, hact]

/-- A load whose parts each succeed and change nothing gives the active elements. -/
theorem loadElems_of_reads {p : Pkg} {e : Env} {g : Nat} {f : QvxFields} {pg : PredWord} {w a : Nat} {val : Nat → Nat}
    (h : ∀ i < 1024 / w, p.vecRead e g f i ((a + i * (w / 8)) % 2 ^ 64) (w / 8) = (p, .ok (val i))) :
    p.loadElems e g f pg w a = (p, ((List.range (1024 / w)).filter (active pg w)).map (fun i => (i, val i)), none) := by
  have hfold (m : Nat) (hm : m ≤ 1024 / w) : (List.range m).foldl (loadElem e g f pg w a) (p, [], none) =
      (p, ((List.range m).filter (active pg w)).map (fun i => (i, val i)), none) := by
    induction m with
    | zero => rfl
    | succ m ih =>
      rw [List.range_succ, List.foldl_append, ih (Nat.le_of_succ_le hm), List.foldl_cons, List.foldl_nil, loadElem_of_read _ (h m hm),
        List.filter_append, List.map_append]
      by_cases hact : active pg w m = true <;> simp [hact]
  rw [loadElems_eq]
  exact hfold _ (Nat.le_refl _)

theorem loadElems_of_holds {p : Pkg} {g : Fin 144} {f : QvxFields} {a : Nat} {l : HostLine} (e : Env) (herr : f.error = none)
    (h : p.HoldsLine g a 128 l) (pg : PredWord) : p.loadElems e g f pg (intBits f.e) a =
      (p, ((List.range (1024 / intBits f.e)).filter (active pg (intBits f.e))).map
        (fun i => (i, leNat (l.slice (a + i * (intBits f.e / 8)) (intBits f.e / 8)))), none) := by
  refine loadElems_of_reads fun i hi => ?_
  rw [element_address h hi]
  exact vecRead_of_holds e i herr (h.element hi)

/-! ### The elements that a store stores (R353) -/

/-- The work of a store on one element of a register, after those before it. -/
def storeElem (e : Env) (g : Nat) (f : QvxFields) (pg : PredWord) (w a : Nat) (v : VecWord) (st : Pkg × Option VecStop) (i : Nat) :
    Pkg × Option VecStop :=
  if st.2.isSome || !active pg w i then st
  else
    let r := st.1.vecWrite e g f i ((a + i * (w / 8)) % 2 ^ 64) (leBytes (w / 8) ((v.toNat >>> (w * i)) % 2 ^ w))
    (r.1, match r.2 with | .error k => some k | .ok _ => none)

theorem storeElems_eq (p : Pkg) (e : Env) (g : Nat) (f : QvxFields) (pg : PredWord) (w a : Nat) (v : VecWord) :
    p.storeElems e g f pg w a (elems w v) = (List.range (1024 / w)).foldl (storeElem e g f pg w a v) (p, none) := by
  have hidx : (elems w v).zipIdx = (List.range (1024 / w)).map (fun i => ((v.toNat >>> (w * i)) % 2 ^ w, i)) := by
    refine List.ext_getElem (by simp) fun i hi _ => ?_
    simp [elems]
  rw [Pkg.storeElems, hidx, List.foldl_map]
  rfl

theorem storeElem_inactive {e : Env} {g : Nat} {f : QvxFields} {pg : PredWord} {w a : Nat} {v : VecWord} {st : Pkg × Option VecStop} {i : Nat}
    (h : active pg w i = false) : storeElem e g f pg w a v st i = st := by
  simp [storeElem, h]

/-- A store without an active element does nothing. -/
theorem storeElems_inactive {pg : PredWord} {w : Nat} (h : ∀ i < 1024 / w, active pg w i = false) (p : Pkg) (e : Env) (g : Nat) (f : QvxFields) (a : Nat)
    (v : VecWord) : p.storeElems e g f pg w a (elems w v) = (p, none) := by
  rw [storeElems_eq]
  refine List.foldlRecOn (motive := fun st => st = (p, none)) _ _ rfl fun st hst i hi => ?_
  rw [hst, storeElem_inactive (h i (List.mem_range.1 hi))]

/-- Below element `m` a store has put the active elements of `v` into the line, and changed nothing else of it. -/
structure StoredBelow (p q : Pkg) (g : Fin 144) (a : Nat) (pg : PredWord) (ec : Fin 4) (v : VecWord) (l l2 : HostLine) (m : Nat) : Prop where
  changes : p.Overwrites q g l l2
  dirty : (∃ i < m, active pg (intBits ec) i = true) → l2.dirty = true
  bytes : ∀ j, j / 256 = a / 256 → l2.byteAt j =
    if a ≤ j ∧ j < a + m * (intBits ec / 8) ∧ active pg (intBits ec) ((j - a) / (intBits ec / 8)) = true then
      BitVec.ofNat 8 (v.toNat / 2 ^ (8 * (j - a))) else l.byteAt j

section
variable {p q : Pkg} {g : Fin 144} {a : Nat} {pg : PredWord} {ec : Fin 4} {v : VecWord} {l l2 : HostLine} {m : Nat}

theorem StoredBelow.zero : StoredBelow p p g a pg ec v l l 0 := by
  refine ⟨Pkg.Overwrites.refl p g l, fun ⟨i, hi, _⟩ => absurd hi (Nat.not_lt_zero i), fun j _ => ?_⟩
  rw [if_neg]
  omega

/-- The element of a byte of the first `m + 1` elements: one before, or the last. -/
theorem element_of_byte {n j : Nat} (hn : 0 < n) (hlo : a + m * n ≤ j) (hhi : j < a + (m + 1) * n) : (j - a) / n = m := by
  rw [Nat.succ_mul] at hhi
  exact Nat.div_eq_of_lt_le (by omega) (by rw [Nat.succ_mul]; omega)

theorem StoredBelow.skip (h : StoredBelow p q g a pg ec v l l2 m) (hact : active pg (intBits ec) m = false) :
    StoredBelow p q g a pg ec v l l2 (m + 1) := by
  refine ⟨h.changes, fun ⟨i, hi, hon⟩ => h.dirty ⟨i, ?_, hon⟩, fun j hj => (h.bytes j hj).trans ?_⟩
  · have hne : i ≠ m := fun him => by rw [him, hact] at hon; exact Bool.false_ne_true hon
    omega
  · refine if_congr ⟨fun ⟨h1, h2, h3⟩ => ⟨h1, by rw [Nat.succ_mul]; omega, h3⟩, fun ⟨h1, h2, h3⟩ => ⟨h1, ?_, h3⟩⟩ rfl rfl
    by_contra hge
    rw [element_of_byte (bytes_pos ec) (Nat.le_of_not_lt hge) h2, hact] at h3
    exact Bool.false_ne_true h3

/-- Byte `k` of element `m` is the register's byte at its place. -/
theorem element_byte (x : Nat) {k : Nat} (hk : k < intBits ec / 8) :
    BitVec.ofNat 8 ((x >>> (intBits ec * m)) % 2 ^ intBits ec / 2 ^ (8 * k)) = BitVec.ofNat 8 (x / 2 ^ (8 * (m * (intBits ec / 8) + k))) := by
  have hw := eight_mul_bytes ec
  refine BitVec.eq_of_getLsbD_eq fun i hi => ?_
  have hin : i + 8 * k < intBits ec := by omega
  have hplace : intBits ec * m + (i + 8 * k) = i + 8 * (m * (intBits ec / 8) + k) := by
    calc intBits ec * m + (i + 8 * k) = 8 * (intBits ec / 8) * m + (i + 8 * k) := by rw [hw]
      _ = i + 8 * (m * (intBits ec / 8) + k) := by ring
  simp only [BitVec.getLsbD_ofNat, Nat.testBit_div_two_pow, Nat.testBit_mod_two_pow, Nat.testBit_shiftRight, hin, decide_true, Bool.true_and, hplace]

/-- A store's next active element stands in the line. -/
theorem StoredBelow.write {f : QvxFields} (h : StoredBelow p q g a pg ec v l l2 m) (e : Env) (herr : f.error = none) (hheld : p.HoldsLine g a 128 l)
    (hm : m < 1024 / intBits ec) (hact : active pg (intBits ec) m = true) :
    ∃ r l3, storeElem e g f pg (intBits ec) a v (q, none) m = (r, none) ∧ StoredBelow p r g a pg ec v l l3 (m + 1) := by
  have hq := h.changes.holds a 128 hheld
  have hel := hq.element hm
  have hlen := length_leBytes (intBits ec / 8) ((v.toNat >>> (intBits ec * m)) % 2 ^ intBits ec)
  obtain ⟨r, hwrite, hchanges⟩ := vecWrite_of_holds e m herr hlen hel
  rw [← element_address hq hm] at hwrite
  refine ⟨r, _, ?_, h.changes.trans hchanges, fun _ => rfl, fun j hj => ?_⟩
  · simp only [storeElem, hact, hwrite, Option.isSome_none, Bool.not_true, Bool.or_self, Bool.false_eq_true, if_false]
  have hfit := hel.fits
  have hpos := hq.inLine
  have hin := element_inside hm
  have hsize := bytes_pos ec
  have hsucc : (m + 1) * (intBits ec / 8) = m * (intBits ec / 8) + intBits ec / 8 := Nat.succ_mul _ _
  rw [byteAt_written g hq.whole (by omega) (by omega), hlen, h.bytes j hj]
  by_cases hmine : a + m * (intBits ec / 8) ≤ j ∧ j < a + m * (intBits ec / 8) + intBits ec / 8
  · have hplace : m * (intBits ec / 8) + (j - (a + m * (intBits ec / 8))) = j - a := by omega
    have hbelow : j < a + (m + 1) * (intBits ec / 8) := by omega
    rw [if_pos hmine, getD_leBytes _ (by omega), element_byte _ (by omega), hplace,
      if_pos ⟨by omega, hbelow, by rw [element_of_byte (bytes_pos ec) hmine.1 hbelow, hact]⟩]
  · rw [if_neg hmine]
    exact if_congr ⟨fun ⟨h1, h2, h3⟩ => ⟨h1, by omega, h3⟩, fun ⟨h1, h2, h3⟩ => ⟨h1, by omega, h3⟩⟩ rfl rfl

end

/-- A store to a held line puts the active elements into the line (R353). -/
theorem storeElems_of_holds {p : Pkg} {g : Fin 144} {f : QvxFields} {a : Nat} {l : HostLine} (e : Env) (herr : f.error = none)
    (h : p.HoldsLine g a 128 l) (pg : PredWord) (v : VecWord) : ∃ q l2, p.storeElems e g f pg (intBits f.e) a (elems (intBits f.e) v) = (q, none) ∧
      StoredBelow p q g a pg f.e v l l2 (1024 / intBits f.e) := by
  have hfold (m : Nat) (hm : m ≤ 1024 / intBits f.e) :
      ∃ q l2, (List.range m).foldl (storeElem e g f pg (intBits f.e) a v) (p, none) = (q, none) ∧ StoredBelow p q g a pg f.e v l l2 m := by
    induction m with
    | zero => exact ⟨p, l, rfl, StoredBelow.zero⟩
    | succ m ih =>
      obtain ⟨q, l2, hq, hstored⟩ := ih (Nat.le_of_succ_le hm)
      rw [List.range_succ, List.foldl_append, hq, List.foldl_cons, List.foldl_nil]
      cases hact : active pg (intBits f.e) m with
      | false => exact ⟨q, l2, storeElem_inactive hact, hstored.skip hact⟩
      | true => exact hstored.write e herr h hm hact
  rw [storeElems_eq]
  exact hfold _ (Nat.le_refl _)

/-! ### How the instructions end (R353, R354) -/

/-- A core's QVX memory instruction runs: XS is on, no fence waits, its fields are in order and it meets no host error. -/
structure VecReady (p : Pkg) (g : Nat) (f : QvxFields) : Prop where
  on : (p.core g).xs ≠ 0
  free : (p.core g).fencing = false
  fields : f.res = false
  whole : f.error = none

section
variable {p q : Pkg} {g : Nat} {f : QvxFields} (e : Env)

theorem qvxMem_ready (h : VecReady p g f) {legal : Bool} (hlegal : legal = true) (body : Pkg) : p.qvxMem e g f legal body = body := by
  rw [Pkg.qvxMem, qvxRun_runs e h.on hlegal h.fields h.whole, h.free]
  rfl

section
variable {got : List (Nat × Nat)} {i : Nat} {k : SpanStop}

theorem qvxLoad_loads (h : VecReady p g f)
    (hload : p.loadElems e g f ((p.core g).pReg f.pg) (intBits f.e) ((p.core g).vecAddr f) = (q, got, none)) :
    qvxLoad g f e p = q.updCore g (fun d => d.putLoaded f (intBits f.e) got) := by
  rw [qvxLoad, qvxMem_ready e h rfl]
  simp only [hload]

theorem qvxLoad_fault (h : VecReady p g f)
    (hload : p.loadElems e g f ((p.core g).pReg f.pg) (intBits f.e) ((p.core g).vecAddr f) = (q, got, some (.fault i k))) :
    qvxLoad g f e p = q.hostFault e g k.how .load ⟨some f.pc, k.va, k.pa⟩ := by
  rw [qvxLoad, qvxMem_ready e h rfl]
  simp only [hload, Pkg.vecFault]

section
variable (h : VecReady p g f) (hpred : f.vs2.val < 8)
include h hpred

theorem qvxLoadFirst_loads (hload : p.loadElems e g f ((p.core g).pReg f.pg) (intBits f.e) ((p.core g).xReg f.vs1).toNat = (q, got, none)) :
    qvxLoadFirst g f e p = q.updCore g (fun d => (d.putLoaded f (intBits f.e) got).setP f.vs2 ((p.core g).pReg f.pg)) := by
  rw [qvxLoadFirst, qvxMem_ready e h (decide_eq_true hpred)]
  simp only [hload, Nat.mod_eq_of_lt hpred]

section
variable (hload : p.loadElems e g f ((p.core g).pReg f.pg) (intBits f.e) ((p.core g).xReg f.vs1).toNat = (q, got, some (.fault i k)))
include hload

/-- A page or access fault of a later element ends the load and shows in its predicate (R354). -/
theorem qvxLoadFirst_cut (hlater : k.how ≠ .check) (hgot : got ≠ []) : qvxLoadFirst g f e p = q.updCore g (fun d =>
    (d.putLoaded f (intBits f.e) got).setP f.vs2 ((p.core g).pReg f.pg &&& BitVec.ofNat 128 (2 ^ (i * (intBits f.e / 8)) - 1))) := by
  rw [qvxLoadFirst, qvxMem_ready e h (decide_eq_true hpred)]
  simp [hload, Nat.mod_eq_of_lt hpred, hlater, hgot]

theorem qvxLoadFirst_fault (hfirst : k.how = .check ∨ got = []) : qvxLoadFirst g f e p = q.hostFault e g k.how .load ⟨some f.pc, k.va, k.pa⟩ := by
  rw [qvxLoadFirst, qvxMem_ready e h (decide_eq_true hpred)]
  have hstop : (k.how = .check || got.isEmpty) = true := by simpa using hfirst
  simp only [hload, hstop, if_true, Pkg.vecFault]

end

end

end

section
variable (h : VecReady p g f) (hz : f.z = false)
include h hz

theorem qvxStore_stores
    (hstore : p.storeElems e g f ((p.core g).pReg f.pg) (intBits f.e) ((p.core g).vecAddr f) (elems (intBits f.e) ((p.core g).vReg f.vd)) = (q, none)) :
    qvxStore g f e p = q := by
  rw [qvxStore, qvxMem_ready e h (by rw [hz]; rfl)]
  simp only [hstore]

theorem qvxStore_fault {i : Nat} {k : SpanStop}
    (hstore : p.storeElems e g f ((p.core g).pReg f.pg) (intBits f.e) ((p.core g).vecAddr f) (elems (intBits f.e) ((p.core g).vReg f.vd)) =
      (q, some (.fault i k))) : qvxStore g f e p = q.hostFault e g k.how .store ⟨some f.pc, k.va, k.pa⟩ := by
  rw [qvxStore, qvxMem_ready e h (by rw [hz]; rfl)]
  simp only [hstore, Pkg.vecFault]

end

section
variable (h : VecReady p g f) (hplain : f.vd.val < 8 ∧ f.e.val = 0 ∧ f.pg.val = 0 ∧ f.z = false)
include h hplain

theorem qvxPload_loads {v : Nat} (hread : p.vecRead e g f 0 ((p.core g).vecAddr f) 16 = (q, .ok v)) :
    qvxPload g f e p = q.updCore g (fun d => d.setP f.vd (BitVec.ofNat 128 v)) := by
  rw [qvxPload, qvxMem_ready e h (by simp [hplain])]
  simp only [hread]

theorem qvxPload_fault {i : Nat} {k : SpanStop} (hread : p.vecRead e g f 0 ((p.core g).vecAddr f) 16 = (q, .error (.fault i k))) :
    qvxPload g f e p = q.hostFault e g k.how .load ⟨some f.pc, k.va, k.pa⟩ := by
  rw [qvxPload, qvxMem_ready e h (by simp [hplain])]
  simp only [hread, Pkg.vecFault]

theorem qvxPstore_stores (hwrite : p.vecWrite e g f 0 ((p.core g).vecAddr f) (leBytes 16 ((p.core g).pReg f.vd).toNat) = (q, .ok ())) :
    qvxPstore g f e p = q := by
  rw [qvxPstore, qvxMem_ready e h (by simp [hplain])]
  simp only [hwrite]

theorem qvxPstore_fault {i : Nat} {k : SpanStop}
    (hwrite : p.vecWrite e g f 0 ((p.core g).vecAddr f) (leBytes 16 ((p.core g).pReg f.vd).toNat) = (q, .error (.fault i k))) :
    qvxPstore g f e p = q.hostFault e g k.how .store ⟨some f.pc, k.va, k.pa⟩ := by
  rw [qvxPstore, qvxMem_ready e h (by simp [hplain])]
  simp only [hwrite, Pkg.vecFault]

end

end

end Sys2Proof.Machine

namespace Sys2Proof

open Machine

/-- Settles O47: each instruction ends as its elements do; on a held line every element's part is a read or a write of that line (`loadElems_of_holds`,
`storeElems_of_holds`). -/
theorem qvxMemory : Obligations.QvxMemory := by
  unfold Obligations.QvxMemory
  intro s g f hwork hxs hfence hres herr p e c w n pg a b stopAt keeps loaded
  have hready : VecReady p g f := ⟨hxs, hfence, hres, herr⟩
  have hloaded {x : Nat} {l : HostLine} (h : p.HoldsLine g x 128 l) := loadElems_of_holds e herr h pg
  have hput (d : Core) (l : HostLine) (x : Nat) := putLoaded_active d f w (active pg w) (fun i => leNat (l.slice (x + i * n) n))
  have hkeeps {q : Pkg} {l l2 : HostLine} (h : p.Overwrites q g l l2) : keeps (s.lift (fun _ _ => q)) :=
    ⟨fun k _ => reg_of_regs h.regs k, fun x => congrArg (fun m => sparseGet (fun _ => 0) m x) h.mem, lift_keeps s _⟩
  refine ⟨?_, fun l h => ?_, fun hpred => ?_, fun hz => ?_, fun hvd he hpg hz => ?_⟩
  · exact ⟨fun hdone => becomes_work rfl hwork (qvxLoad_loads e hready (Prod.ext rfl (Prod.ext rfl hdone))),
      fun i k hstop => becomes_work rfl hwork (qvxLoad_fault e hready (Prod.ext rfl (Prod.ext rfl hstop)))⟩
  · have hbec : Becomes (.qvxLd g f) s (p.setCore g _) := becomes_work rfl hwork (qvxLoad_loads e hready (hloaded h))
    exact hbec.answers_core fun t ht => ⟨ht.core.trans (hput c l a), ht.lines, ht.keeps⟩
  · refine ⟨fun hdone => becomes_work rfl hwork (qvxLoadFirst_loads e hready hpred (Prod.ext rfl (Prod.ext rfl hdone))),
      fun i k hstop hlater hgot => becomes_work rfl hwork (qvxLoadFirst_cut e hready hpred (Prod.ext rfl (Prod.ext rfl hstop)) hlater hgot),
      fun i k hstop hfirst => becomes_work rfl hwork (qvxLoadFirst_fault e hready hpred (Prod.ext rfl (Prod.ext rfl hstop)) hfirst), fun l h => ?_⟩
    have hbec : Becomes (.qvxLdff g f) s (p.setCore g _) := becomes_work rfl hwork (qvxLoadFirst_loads e hready hpred (hloaded h))
    exact hbec.answers_core fun t ht => ⟨ht.core.trans (congrArg (fun d => d.setP f.vs2 pg) (hput c l b)), ht.lines, ht.keeps⟩
  · refine ⟨fun hdone => becomes_work rfl hwork (qvxStore_stores e hready hz (Prod.ext rfl hdone)),
      fun i k hstop => becomes_work rfl hwork (qvxStore_fault e hready hz (Prod.ext rfl hstop)),
      fun hnone => becomes_work rfl hwork (qvxStore_stores e hready hz (storeElems_inactive hnone p e g f a (c.vReg f.vd))), fun l h => ?_⟩
    obtain ⟨q, l2, hstore, hstored⟩ := storeElems_of_holds e herr h pg (c.vReg f.vd)
    have hbec : Becomes (.qvxSt g f) s q := becomes_work rfl hwork (qvxStore_stores e hready hz hstore)
    have hbytes := hstored.bytes
    rw [elements_mul_bytes] at hbytes
    exact hbec.answers ⟨hstored.changes.core, hkeeps hstored.changes, l2, (hstored.changes.holds a 128 h).held, hstored.dirty, hbytes⟩
  · have hplain : f.vd.val < 8 ∧ f.e.val = 0 ∧ f.pg.val = 0 ∧ f.z = false := ⟨hvd, he, hpg, hz⟩
    refine ⟨fun q y hstop => becomes_work rfl hwork (qvxPload_fault e hready hplain hstop), fun l h => ?_,
      fun q y hstop => becomes_work rfl hwork (qvxPstore_fault e hready hplain hstop), fun l h => ?_⟩
    · have hbec : Becomes (.qvxPld g f) s (p.setCore g _) := becomes_work rfl hwork (qvxPload_loads e hready hplain (vecRead_of_holds e 0 herr h))
      exact hbec.answers_core fun t ht => ⟨ht.core, ht.lines, ht.keeps⟩
    · obtain ⟨q, hwrite, hchanges⟩ := vecWrite_of_holds e 0 herr (length_leBytes 16 (c.pReg f.vd).toNat) h
      have hbec : Becomes (.qvxPst g f) s q := becomes_work rfl hwork (qvxPstore_stores e hready hplain hwrite)
      refine hbec.answers ⟨hchanges.core, hkeeps hchanges, _, (hchanges.holds a 16 h).held, rfl, fun j hj => ?_⟩
      have hfit := h.fits
      rw [byteAt_written g h.whole (by rw [length_leBytes]; exact hfit) hj, length_leBytes]
      by_cases hin : a ≤ j ∧ j < a + 16
      · rw [if_pos hin, if_pos hin, getD_leBytes _ (by omega)]
      · rw [if_neg hin, if_neg hin]

end Sys2Proof

/-! SUPPORT. Fabric descriptors start (R385, R490, R638). -/

namespace Sys2Proof.Machine

section
variable {s : State} {q : Fin 64} {d : List Byte} {p : Pkg} (hstarts : s.Starts q d)
include hstarts

/-- A fabric descriptor whose handles' entries were read starts by its verdict (R385, R638). -/
theorem startFabric_of_reads {i : Instr} {op : Nat} (hreads : s.Reads i q d p)
    (hentries : startReads s.pkg (s.pkg.queueCtx q) d i = s.pkg.entryReads (s.pkg.queueCtx q) d (fabHandles d)) (hkind : dKind d = 3)
    (hop : dOp d % 16 = op) :
    startFabric op q s.env s.pkg =
      p.orRun s.env q d (p.fabVerdict (p.queueCtx q) d) ((p.enterRun (p.newRun s.env q d [])).settle s.env) := by
  rw [State.Reads, hentries] at hreads
  unfold startFabric
  exact start_of_starts hstarts (reads := fun d => s.pkg.entryReads (s.pkg.queueCtx q) d (fabHandles d)) hreads (by simp [hkind, hop]) _

/-- What a start command of the fabric engines becomes, by the verdict on its descriptor. -/
theorem becomes_startFabric {i : Instr} {op : Nat} (hexec : exec i s = s.work .none (startFabric op q)) (hreads : s.Reads i q d p)
    (hentries : startReads s.pkg (s.pkg.queueCtx q) d i = s.pkg.entryReads (s.pkg.queueCtx q) d (fabHandles d)) (hkind : dKind d = 3)
    (hop : dOp d % 16 = op) :
    (p.fabVerdict (p.queueCtx q) d = none → Becomes i s ((p.enterRun (p.newRun s.env q d [])).settle s.env)) ∧
    (∀ v, p.fabVerdict (p.queueCtx q) d = some v → Becomes i s (p.completeHead s.env q d v.1 v.2)) := by
  have heq := startFabric_of_reads hstarts hreads hentries hkind hop
  exact ⟨fun hpass => becomes_work hexec hstarts.working (heq.trans (orRun_none p _ _ _ hpass _)),
    fun v hfail => becomes_work hexec hstarts.working (heq.trans (orRun_some p _ _ _ hfail _))⟩

end

end Sys2Proof.Machine

namespace Sys2Proof

open Machine

/-- Settles O22: COPY and ATOMIC start alike, each descriptor by its verdict. -/
theorem fabricStarts : Obligations.FabricStarts := by
  unfold Obligations.FabricStarts
  intro s q d p hstarts hkind
  exact ⟨fun hop hreads => becomes_startFabric hstarts rfl hreads rfl hkind hop, fun hop hreads => becomes_startFabric hstarts rfl hreads rfl hkind hop⟩

end Sys2Proof

/-! SUPPORT. Packets of the fabric on arrival: which number a packet's check value is held against, what its service begins from, and what the repeat of
a store leaves (R390, R395 to R398, R400). -/

namespace Sys2Proof.Machine

/-! ### A packet for this package (R366, R368, R395 to R398) -/

/-- A packet of the form of R395 arrives on a port that carries traffic, and its destination is this package. -/
structure Pkg.Addressed (p : Pkg) (port : Nat) (x : RawPacket) : Prop where
  up : p.portUp port = true
  located : p.locValid = true
  header : x.header.length = 32
  payload : x.payload.length ≤ 256
  here : (parseHdr x.header).dest = p.ownLoc

/-- The arrival counted on the port's die (Table 10-13). -/
def Pkg.countArrival (p : Pkg) (port : Nat) : Pkg := p.fabCount (portFab port) (Reg.FAB_CNT_RX (portFab port)) 1

/-- The full number of an arriving packet: a SYNC's stands in its payload, an answer's is that of the request it names, a request's follows from its flow
(R386, R397, R404). -/
def Pkg.numberOf (p : Pkg) (x : RawPacket) : Nat :=
  let h := parseHdr x.header
  if h.ty = tySync then leAt x.payload 0 4
  else if h.ty = tyReply ∨ h.ty = tyNack then
    ((p.fab.reqs.find? (fun r => r.engine == h.eng && r.addr == h.addr && r.seq % 65536 == h.seqLo)).map (fun r => r.seq)).getD h.seqLo
  else fullSeq (p.inFlow h.src h.eng h.cls).next h.seqLo

/-- The check value of a packet agrees with a number (R396). -/
def checkAgrees (x : RawPacket) (n : Nat) : Prop := checkOf (parseHdr x.header).dest (parseHdr x.header).addr n x.header x.payload = x.check

/-- The types of Tables 10-6 and 11-6. -/
abbrev knownType (ty : Nat) : Prop := 1 ≤ ty ∧ ty ≤ 6 ∨ 0x10 ≤ ty ∧ ty ≤ 0x15

section
variable {p : Pkg} {port : Nat} {x : RawPacket} (e : Env)

/-- A port that is down, and a package without a location, takes no packet. -/
theorem receive_of_deaf (h : p.portUp port = false ∨ p.locValid = false) (mine : Hdr → Bool) (act : Pkg → FabPkt → Pkg) :
    p.receive e port x mine act = p := by
  have hdeaf : (!p.portUp port || !p.locValid) = true := by
    rcases h with h | h <;> simp [h]
  simp only [Pkg.receive, hdeaf, if_true]

section
variable (h : p.Addressed port x) (hknown : knownType (parseHdr x.header).ty) {mine : Hdr → Bool} (hmine : mine (parseHdr x.header) = true)
  (act : Pkg → FabPkt → Pkg)
include h hknown hmine

/-- A packet of the command's kind goes to its service, or is dropped, by its check value alone. -/
theorem receive_of_addressed : p.receive e port x mine act =
    if checkOf (parseHdr x.header).dest (parseHdr x.header).addr ((p.countArrival port).numberOf x) x.header x.payload ≠ x.check then
      (p.countArrival port).dropCheck port
    else act (p.countArrival port) ⟨port, (p.countArrival port).numberOf x, x.header, x.payload⟩ := by
  have hwhole : ¬(x.header.length ≠ 32 ∨ x.payload.length > 256) := by
    simp [h.header, h.payload]
  have hty : ((decide (1 ≤ (parseHdr x.header).ty) && decide ((parseHdr x.header).ty ≤ 6)) ||
      (decide (0x10 ≤ (parseHdr x.header).ty) && decide ((parseHdr x.header).ty ≤ 0x15))) = true := by
    simpa [knownType] using hknown
  have hhere : ¬ (parseHdr x.header).dest ≠ p.ownLoc := not_not.2 h.here
  simp only [Pkg.receive, h.up, h.located, Bool.not_true, Bool.or_self, Bool.false_eq_true, if_false, hwhole, hty, hmine, Bool.and_false, hhere]
  rfl

theorem receive_checked (hag : checkAgrees x ((p.countArrival port).numberOf x)) :
    p.receive e port x mine act = act (p.countArrival port) ⟨port, (p.countArrival port).numberOf x, x.header, x.payload⟩ :=
  (receive_of_addressed e h hknown hmine act).trans (if_neg (not_not.2 hag))

theorem receive_failed (hbad : ¬ checkAgrees x ((p.countArrival port).numberOf x)) : p.receive e port x mine act = (p.countArrival port).dropCheck port :=
  (receive_of_addressed e h hknown hmine act).trans (if_pos hbad)

end

end

/-- A request's number follows from its flow (R397). -/
theorem numberOf_request (p : Pkg) {x : RawPacket} (h : (parseHdr x.header).ty < 4 ∨ 6 < (parseHdr x.header).ty) : p.numberOf x =
    fullSeq (p.inFlow (parseHdr x.header).src (parseHdr x.header).eng (parseHdr x.header).cls).next (parseHdr x.header).seqLo := by
  have hother {ty : Nat} (hlo : 4 ≤ ty) (hhi : ty ≤ 6) : (parseHdr x.header).ty ≠ ty := by omega
  simp only [Pkg.numberOf, hother (ty := tyReply) (by decide) (by decide), hother (ty := tyNack) (by decide) (by decide),
    hother (ty := tySync) (by decide) (by decide), or_self, if_false]

/-- A SYNC's number stands in its payload (R397). -/
theorem numberOf_sync (p : Pkg) {x : RawPacket} (h : (parseHdr x.header).ty = tySync) : p.numberOf x = leAt x.payload 0 4 := if_pos h

/-- An answer's number is that of the request it names (R386, R404). -/
theorem numberOf_answer (p : Pkg) {x : RawPacket} (h : (parseHdr x.header).ty = tyReply ∨ (parseHdr x.header).ty = tyNack) : p.numberOf x =
    ((p.fab.reqs.find? (fun r => r.engine == (parseHdr x.header).eng && r.addr == (parseHdr x.header).addr &&
      r.seq % 65536 == (parseHdr x.header).seqLo)).map (fun r => r.seq)).getD (parseHdr x.header).seqLo := by
  have hsync : (parseHdr x.header).ty ≠ tySync := by
    rcases h with h | h <;> rw [h] <;> decide
  simp only [Pkg.numberOf, hsync, if_false, h, if_true]

/-- Every packet command is a reception on its port, which a deaf port does not make. -/
theorem exec_of_mem_fabricPackets {port : Fin 36} {pkt : RawPacket} {i : Instr} (h : i ∈ fabricPackets port pkt) (s : State) :
    ∃ ev f, exec i s = s.work ev f ∧ ∀ (e : Env) (p : Pkg), p.portUp port = false ∨ p.locValid = false → f e p = p := by
  simp only [fabricPackets, List.cons_append, List.nil_append, List.mem_cons, List.not_mem_nil, or_false] at h
  rcases h with rfl | rfl | rfl | rfl | rfl | rfl | rfl | rfl | rfl | rfl | rfl | rfl | rfl | rfl
  all_goals exact ⟨_, _, rfl, fun e p hdeaf => receive_of_deaf e hdeaf _ _⟩

section
variable {s : State} {port : Fin 36} {pkt : RawPacket} {i : Instr} {ev : Ev} {mine : Hdr → Bool} {act : Env → Pkg → FabPkt → Pkg}
variable (hexec : exec i s = s.work ev (fun e p => p.receive e port pkt mine (act e))) (hwork : s.pkg.working = true) (h : s.pkg.Addressed port pkt)
variable (hknown : knownType (parseHdr pkt.header).ty) (hmine : mine (parseHdr pkt.header) = true)
include hexec hwork h hknown hmine

/-- A packet of the command's kind whose check value agrees becomes what its service makes of it. -/
theorem becomes_served {n : Nat} (hn : (s.pkg.countArrival port).numberOf pkt = n) (hag : checkAgrees pkt n) :
    Becomes i s (act s.env (s.pkg.countArrival port) ⟨port, n, pkt.header, pkt.payload⟩) := by
  subst hn
  exact becomes_work hexec hwork (receive_checked s.env h hknown hmine _ hag)

/-- One whose check value does not agree is dropped (R398). -/
theorem becomes_dropped {n : Nat} (hn : (s.pkg.countArrival port).numberOf pkt = n) (hbad : ¬ checkAgrees pkt n) :
    Becomes i s ((s.pkg.countArrival port).dropCheck port) := by
  subst hn
  exact becomes_work hexec hwork (receive_failed s.env h hknown hmine _ hbad)

end

/-! ### The flows of this package (R390, R397, R400) -/

section
variable (p : Pkg) (src eng cls : Nat)

/-- A flow's record names its flow. -/
theorem inFlow_names : (p.inFlow src eng cls).src = src ∧ (p.inFlow src eng cls).engine = eng ∧ (p.inFlow src eng cls).cls = cls := by
  unfold Pkg.inFlow
  cases hfind : p.fab.inflows.find? (fun f => f.src == src && f.engine == eng && f.cls == cls) with
  | none => exact ⟨rfl, rfl, rfl⟩
  | some f =>
    have hf := List.find?_some hfind
    simp only [Bool.and_eq_true, beq_iff_eq] at hf
    exact ⟨hf.1.1, hf.1.2, hf.2⟩

end

/-- A list in which one entry was put back in the place of its like, or at the end, holds that entry for them. -/
theorem find?_putBack {α : Type} {same : α → Bool} {y : α} (hy : same y = true) (xs : List α) :
    (if xs.any same then xs.map (fun x => if same x then y else x) else xs ++ [y]).find? same = some y := by
  by_cases hany : xs.any same = true
  · rw [if_pos hany]
    induction xs with
    | nil => simp at hany
    | cons x xs ih =>
      by_cases hx : same x = true
      · simp [hx, hy]
      · have hrest : xs.any same = true := by simpa [hx] using hany
        simpa [hx] using ih hrest
  · rw [if_neg hany, List.find?_append]
    have hnone : xs.find? same = none := by simpa using hany
    simp [hnone, hy]

/-- The record put back is the flow's. -/
theorem inFlow_setInFlow (p : Pkg) (f : InFlow) : (p.setInFlow f).inFlow f.src f.engine f.cls = f := by
  have hfind := find?_putBack (same := fun x : InFlow => x.src == f.src && x.engine == f.engine && x.cls == f.cls) (y := f) (by simp) p.fab.inflows
  exact congrArg (fun o : Option InFlow => o.getD ⟨f.src, f.engine, f.cls, 0, [], [], 0⟩) hfind

/-- A flow's record reads as it was put back, whatever the numbers of the flow are called. -/
theorem inFlow_of_setInFlow (p : Pkg) {f : InFlow} {src eng cls : Nat} (h : f.src = src ∧ f.engine = eng ∧ f.cls = cls) :
    (p.setInFlow f).inFlow src eng cls = f := by
  obtain ⟨rfl, rfl, rfl⟩ := h
  exact inFlow_setInFlow p f

/-! ### What packets on the way leave of memory -/

section
variable (p : Pkg)

@[simp] theorem fabCount_stored (f k n : Nat) : (p.fabCount f k n).stored = p.stored := bump_stored p _ _ _ _
@[simp] theorem colCount_stored (f k n : Nat) : (p.colCount f k n).stored = p.stored := bump_stored p _ _ _ _
@[simp] theorem setInFlow_stored (f : InFlow) : (p.setInFlow f).stored = p.stored := rfl
@[simp] theorem notify_stored (ports : List Nat) (line home : Nat) (ends : Bool) : (p.notify ports line home ends).stored = p.stored := rfl

@[simp] theorem emit_stored (port seq : Nat) (h : Hdr) (payload : List Byte) : (p.emit port seq h payload).stored = p.stored := bump_stored _ _ _ _ _

theorem pickPort_stored (xs : List Nat) (src dest eng cls : Nat) : (p.pickPort xs src dest eng cls).2.stored = p.stored := by
  unfold Pkg.pickPort
  split
  · rfl
  · rfl
  · split <;> rfl

theorem route_stored (dest src eng cls : Nat) : (p.route dest src eng cls).2.stored = p.stored := by
  unfold Pkg.route
  dsimp only
  split
  · rfl
  · split
    · split
      · rfl
      · exact pickPort_stored p _ _ _ _ _
    · exact pickPort_stored p _ _ _ _ _

theorem routeOf_stored (dest src eng cls : Nat) (eligible : Bool) (from_ : Option Nat) : (p.routeOf dest src eng cls eligible from_).2.stored = p.stored := by
  refine (keeps_ite (g := fun y : Option (Nat × Bool) × Pkg => y.2.stored) (b := p.stored) ⟨?_⟩ (keeps_ite ⟨?_⟩ ⟨?_⟩)).eq
  · exact pickPort_stored p _ _ _ _ _
  · exact (colCount_stored _ _ _ _).trans (pickPort_stored p _ _ _ _ _)
  · exact route_stored p _ _ _ _

theorem sendOn_stored (h : Hdr) (seq : Nat) (payload : List Byte) : (p.sendOn h seq payload).1.stored = p.stored := by
  have hroute := routeOf_stored p h.dest h.src h.eng h.cls h.borrows none
  unfold Pkg.sendOn
  split
  · rename_i q heq
    rwa [heq] at hroute
  · rename_i port det q heq
    rw [heq] at hroute
    dsimp only
    split
    · exact (disturb_stored _ _ _ _).trans ((emit_stored _ _ _ _ _).trans hroute)
    · exact (emit_stored _ _ _ _ _).trans hroute

theorem answerPkt_stored (h : Hdr) (seq ty reason flags : Nat) (payload : List Byte) : (p.answerPkt h seq ty reason flags payload).stored = p.stored :=
  sendOn_stored p _ _ _

theorem queueLine_stored (e : Env) (port addr : Nat) : (p.queueLine e port addr).stored = p.stored := by
  unfold Pkg.queueLine
  dsimp only
  split
  · exact (notify_stored _ _ _ _ _).trans (fabCount_stored _ _ _ _)
  · split <;> rfl

theorem queueLine_inFlow (e : Env) (port addr src eng cls : Nat) : (p.queueLine e port addr).inFlow src eng cls = p.inFlow src eng cls := by
  have hbump (q : Pkg) (f j n : Nat) : (q.fabCount f j n).inFlow src eng cls = q.inFlow src eng cls := by
    unfold Pkg.fabCount Pkg.bump
    split <;> rfl
  unfold Pkg.queueLine
  dsimp only
  split
  · exact hbump _ _ _ _
  · split <;> rfl

end

/-- A command that leaves what the devices hold leaves memory. -/
theorem Becomes.answers_stored {c : Instr} {s : State} {q : Pkg} (h : Becomes c s q) (hstored : q.stored = s.pkg.stored) :
    Answers c s (fun t => KeepsMem s t ∧ KeepsBlock s t) :=
  h.answers ⟨fun a => congrFun (congrArg Stored.bytes hstored) a, lift_keeps s _⟩

/-! ### The repeat of a store (R400) -/

/-- A flow's record after a packet with the number it was next to take (R390, R400). -/
def InFlow.passed (f : InFlow) (e : Env) (seq : Nat) : InFlow := { f with last := e.hall, next := (seq + 1) % 2 ^ 32 }

/-- A store whose number stands among the applied ones is answered, not applied. -/
theorem repeatOf_store {p : Pkg} {src eng cls seq : Nat} (h : seq ∈ (p.inFlow src eng cls).applied) (home : Nat) :
    p.repeatOf tyWrite home src eng cls seq = some ⟨0, [], 0, 0⟩ := by
  simp [Pkg.repeatOf, h]

/-- A write of a legal format carries no components (Table 10-6). -/
theorem comb_of_write {t : Topo} {h : Hdr} {payload : List Byte} (hwrite : h.ty = tyWrite) (hformat : formatReason t h payload = 0) : h.comb = false := by
  cases hcomb : h.comb with
  | false => rfl
  | true =>
    have hkind : tyWrite ≠ tyRead := by decide
    simp only [formatReason, hwrite, hkind, hcomb, if_false, if_true, Bool.true_or] at hformat
    split at hformat
    · exact absurd hformat (by decide)
    · split at hformat <;> exact absurd hformat (by decide)

section
variable {p : Pkg} {k : FabPkt} (e : Env)

/-- The repeat of a store counts on its home die and is answered (R400, Table 10-13). -/
theorem serveRequest_repeatedStore (hwrite : (parseHdr k.header).ty = tyWrite) (hformat : formatReason p.topo (parseHdr k.header) k.payload = 0)
    (hepoch : (parseHdr k.header).epoch = p.regNat Reg.FAB_EPOCH)
    (happlied : k.seq ∈ (p.inFlow (parseHdr k.header).src (parseHdr k.header).eng (parseHdr k.header).cls).applied) :
    p.serveRequest e k = ((p.queueLine e k.port (parseHdr k.header).addr).fabCount (homeDie (parseHdr k.header).addr)
      (Reg.FAB_CNT_DUP (homeDie (parseHdr k.header).addr)) 1).answerPkt (parseHdr k.header) k.seq tyReply 0 0 [] := by
  have hcomb := comb_of_write hwrite hformat
  have hrepeat : (p.queueLine e k.port (parseHdr k.header).addr).repeatOf tyWrite (homeDie (parseHdr k.header).addr) (parseHdr k.header).src
      (parseHdr k.header).eng (parseHdr k.header).cls k.seq = some ⟨0, [], 0, 0⟩ :=
    repeatOf_store (by rwa [queueLine_inFlow]) _
  have hop : (p.queueLine e k.port (parseHdr k.header).addr).packetOp k = none := by simp [Pkg.packetOp, hwrite, hcomb, hrepeat]
  have hplace : (p.queueLine e k.port (parseHdr k.header).addr).enterPacket e k = none := by
    simp only [Pkg.enterPacket, hop]
    split
    · rename_i heq
      exact absurd heq (Option.some_ne_none _).symm
    · rfl
  have happly (a len op : Nat) (data : List Byte) (hhome : homeDie a = homeDie (parseHdr k.header).addr) :
      (p.queueLine e k.port (parseHdr k.header).addr).applyOnce e tyWrite (parseHdr k.header).src (parseHdr k.header).eng (parseHdr k.header).cls k.seq a
        len op data = ((p.queueLine e k.port (parseHdr k.header).addr).fabCount (homeDie a) (Reg.FAB_CNT_DUP (homeDie a)) 1, ⟨0, [], 0, 0⟩) := by
    simp only [Pkg.applyOnce, hhome, hrepeat, if_true]
  simp only [Pkg.serveRequest, hformat, hepoch, hplace, hcomb, hwrite, happly _ _ _ _ rfl, ne_eq, not_true_eq_false, if_false, Bool.false_eq_true]

end

section
variable {p : Pkg} {k : FabPkt} (e : Env)

/-- With nothing done that a requester waits to hear of, no packet is answered. -/
theorem answerPackets_of_nothingDone (h : p.memDone = []) : p.answerPackets e = p := by
  have hnone (n : Nat) : p.answerOne e n = p := by
    cases n with
    | zero => rfl
    | succ n => simp only [Pkg.answerOne, h, List.find?_nil]
  exact hnone _

/-- A packet of class 1 with a number that its flow has not passed is served at once (R390). -/
theorem arriveRequest_unordered (hcls : (parseHdr k.header).cls = 1)
    (hnew : seqBefore k.seq (p.inFlow (parseHdr k.header).src (parseHdr k.header).eng 1).next = false) (serve : Pkg → FabPkt → Pkg) :
    p.arriveRequest e k serve =
      (serve (p.setInFlow ((p.inFlow (parseHdr k.header).src (parseHdr k.header).eng 1).passed e k.seq)) k).answerPackets e := by
  simp only [Pkg.arriveRequest, hcls, hnew, Bool.false_eq_true, if_false, Nat.one_ne_zero, false_and, InFlow.passed]

/-- The repeat of a store leaves what the devices hold. -/
theorem arriveRequest_repeatedStore (hwrite : (parseHdr k.header).ty = tyWrite) (hcls : (parseHdr k.header).cls = 1)
    (hnew : seqBefore k.seq (p.inFlow (parseHdr k.header).src (parseHdr k.header).eng 1).next = false)
    (hformat : formatReason p.topo (parseHdr k.header) k.payload = 0) (hepoch : (parseHdr k.header).epoch = p.regNat Reg.FAB_EPOCH)
    (happlied : k.seq ∈ (p.inFlow (parseHdr k.header).src (parseHdr k.header).eng 1).applied) (hdone : p.memDone = []) :
    (p.arriveRequest e k (fun u x => u.serveRequest e x)).stored = p.stored := by
  have hflow := inFlow_of_setInFlow p (f := (p.inFlow (parseHdr k.header).src (parseHdr k.header).eng 1).passed e k.seq)
    (inFlow_names p (parseHdr k.header).src (parseHdr k.header).eng 1)
  have hserve := serveRequest_repeatedStore (p := p.setInFlow ((p.inFlow (parseHdr k.header).src (parseHdr k.header).eng 1).passed e k.seq)) (k := k) e
    hwrite hformat hepoch (by rw [hcls, hflow]; exact happlied)
  have hstored := congrArg Pkg.stored hserve
  simp only [answerPkt_stored, fabCount_stored, queueLine_stored, setInFlow_stored] at hstored
  rw [arriveRequest_unordered e hcls hnew, answerPackets_of_nothingDone]
  · exact hstored
  · exact (congrArg Stored.done hstored).trans hdone

end

/-- The count of an arrival leaves every register but its own. -/
theorem countArrival_reg (p : Pkg) (port : Nat) {j : Nat} (h : j ≠ Reg.FAB_CNT_RX (portFab port)) : (p.countArrival port).reg j = p.reg j :=
  bump_reg p _ _ _ _ _ h

theorem countArrival_topo (p : Pkg) (port : Nat) : (p.countArrival port).topo = p.topo :=
  congrArg topoOf (countArrival_reg p port (by simp only [Reg.FAB_TOPO, Reg.FAB_CNT_RX]; omega))

theorem countArrival_epoch (p : Pkg) (port : Nat) : (p.countArrival port).regNat Reg.FAB_EPOCH = p.regNat Reg.FAB_EPOCH :=
  congrArg BitVec.toNat (countArrival_reg p port (by simp only [Reg.FAB_EPOCH, Reg.FAB_CNT_RX]; omega))

theorem countArrival_stored (p : Pkg) (port : Nat) : (p.countArrival port).stored = p.stored := fabCount_stored p _ _ _

end Sys2Proof.Machine

namespace Sys2Proof

open Machine

/-- Settles O48: a packet for this package is held against the number of its kind, and goes to that kind's service or is dropped. -/
theorem fabricPackets : Obligations.FabricPackets := by
  unfold Obligations.FabricPackets
  intro s port pkt hwork
  refine ⟨fun hdeaf i hi => ?_, fun hup hloc hheader hpayload hhere => ?_⟩
  · obtain ⟨ev, f, hexec, hstays⟩ := exec_of_mem_fabricPackets hi s
    exact becomes_work hexec hwork (hstays s.env s.pkg hdeaf)
  · have haddr : s.pkg.Addressed port pkt := ⟨hup, hloc, hheader, hpayload, hhere⟩
    have hrequest {i : Instr} {ev : Ev} {mine : Hdr → Bool}
        (hexec : exec i s = s.work ev (fun e p => p.receive e port pkt mine (fun q k => q.arriveRequest e k (fun u x => u.serveRequest e x))))
        (hty : 1 ≤ (parseHdr pkt.header).ty ∧ (parseHdr pkt.header).ty < 4) (hmine : mine (parseHdr pkt.header) = true) :=
      becomes_served (act := fun e q k => q.arriveRequest e k (fun u x => u.serveRequest e x)) hexec hwork haddr (.inl (by omega)) hmine
        (numberOf_request _ (.inl hty.2))
    have hdropped {i : Instr} {ev : Ev} {mine : Hdr → Bool}
        (hexec : exec i s = s.work ev (fun e p => p.receive e port pkt mine (fun q k => q.arriveRequest e k (fun u x => u.serveRequest e x))))
        (hty : 1 ≤ (parseHdr pkt.header).ty ∧ (parseHdr pkt.header).ty < 4) (hmine : mine (parseHdr pkt.header) = true) :=
      becomes_dropped (act := fun e q k => q.arriveRequest e k (fun u x => u.serveRequest e x)) hexec hwork haddr (.inl (by omega)) hmine
        (numberOf_request _ (.inl hty.2))
    refine ⟨fun hty hag => ?_, fun hty hag => ?_, fun hty hcomb hinc hag => ?_, fun hty hcomb hinc hag => ?_, fun hty hcomb hag => ?_, fun hty hag => ?_,
      fun hty hag => ?_, fun hty hag => ?_, fun hty hbad => ?_, fun hty hbad => ?_, fun hty hcls hnew hag hformat hepoch happlied hdone => ?_⟩
    · exact hrequest (i := .readRequest port pkt) rfl (by rw [hty]; decide) (by simp [hty]) hag
    · exact hrequest (i := .writeRequest port pkt) rfl (by rw [hty]; decide) (by simp [hty]) hag
    · exact hrequest (i := .atomicRequest port pkt) rfl (by rw [hty]; decide) (by simp [hty, hcomb, hinc]) hag
    · exact hrequest (i := .remoteIncrement port pkt) rfl (by rw [hty]; decide) (by simp [hty, hcomb, hinc]) hag
    · exact hrequest (i := .combinedAtomic port pkt) rfl (by rw [hty]; decide) (by simp [hty, hcomb]) hag
    · exact becomes_served (act := takeSync) rfl hwork haddr (by rw [hty]; decide) (by simp [hty]) (numberOf_sync _ hty) hag
    · exact becomes_served (act := takeReply) rfl hwork haddr (by rw [hty]; decide) (by simp [hty]) (numberOf_answer _ (.inl hty)) hag
    · exact becomes_served (act := takeNack) rfl hwork haddr (by rw [hty]; decide) (by simp [hty]) (numberOf_answer _ (.inr hty)) hag
    · exact hdropped (i := .readRequest port pkt) rfl (by rw [hty]; decide) (by simp [hty]) hbad
    · exact hdropped (i := .writeRequest port pkt) rfl (by rw [hty]; decide) (by simp [hty]) hbad
    · have hbec := hrequest (i := .writeRequest port pkt) rfl (by rw [hty]; decide) (by simp [hty]) hag
      have hstored := (arriveRequest_repeatedStore s.env (p := s.pkg.countArrival port) (k := ⟨port, _, pkt.header, pkt.payload⟩) hty hcls hnew
        (by rw [countArrival_topo]; exact hformat) (by rw [countArrival_epoch]; exact hepoch) happlied
        ((congrArg Stored.done (countArrival_stored s.pkg port)).trans hdone)).trans (countArrival_stored s.pkg port)
      exact hbec.answers_stored hstored

end Sys2Proof

/-! SUPPORT. Collectives: their packets on arrival, fires that complete, the waits that run out, and gates (R400, R421, R427, R433, R441, R446, R447,
R601). -/

namespace Sys2Proof.Machine

/-! ### What changes the fabric's own state alone -/

/-- The package with another state of the fabric beside its registers. -/
def Pkg.withFab (p : Pkg) (x : Fab) : Pkg := { p with fab := x }

/-- A command that changes the fabric's own state alone leaves registers, memory and the block. -/
theorem Becomes.answers_fab {c : Instr} {s : State} {x : Fab} (h : Becomes c s (s.pkg.withFab x)) {P : State → Prop}
    (hp : ∀ t, t.pkg.fab = x → KeepsRegs [] s t ∧ KeepsMem s t ∧ KeepsBlock s t → P t) : Answers c s P :=
  h.answers (hp _ rfl ⟨fun _ _ => rfl, fun _ => rfl, lift_keeps s _⟩)

/-! ### Packets of collectives (R400, R427, R441, R601) -/

/-- A packet of a collective whose check value agrees goes to its kind's service in its flow's turn. -/
theorem becomes_colServed {s : State} {port : Fin 36} {pkt : RawPacket} {i : Instr} {ty : Nat} {serve : Env → Pkg → FabPkt → Pkg}
    (hexec : exec i s = s.work .none (colPacket ty port pkt serve)) (hwork : s.pkg.working = true) (h : s.pkg.Addressed port pkt)
    (hrange : 0x10 ≤ ty ∧ ty ≤ 0x15) (hty : (parseHdr pkt.header).ty = ty) {n : Nat} (hn : (s.pkg.countArrival port).numberOf pkt = n)
    (hag : checkAgrees pkt n) :
    Becomes i s ((s.pkg.countArrival port).arriveRequest s.env ⟨port, n, pkt.header, pkt.payload⟩ (fun u x => serve s.env u x)) :=
  becomes_served (mine := fun h => h.ty == ty) (act := fun e q k => q.arriveRequest e k (fun u x => serve e u x)) hexec hwork h
    (.inr (hty ▸ hrange)) (by simp [hty]) hn hag

section
variable {p : Pkg} {k : FabPkt} (e : Env) (hformat : formatReason p.topo (parseHdr k.header) k.payload = 0)
variable (hepoch : (parseHdr k.header).epoch = p.regNat Reg.FAB_EPOCH)
include hformat hepoch

/-- A repeat is answered, and counted on its home die (R400, Table 10-13). -/
theorem serveCol_repeat (h : k.seq ∈ (p.inFlow (parseHdr k.header).src (parseHdr k.header).eng (parseHdr k.header).cls).applied) :
    p.serveCol e k = (p.fabCount (homeDie (parseHdr k.header).addr) (Reg.FAB_CNT_DUP (homeDie (parseHdr k.header).addr)) 1).answerPkt
      (parseHdr k.header) k.seq tyReply 0 0 [] := by
  simp only [Pkg.serveCol, hformat, hepoch, ne_eq, not_true_eq_false, if_false, List.contains_iff_mem.2 h, if_true]

section
variable (hfresh : k.seq ∉ (p.inFlow (parseHdr k.header).src (parseHdr k.header).eng (parseHdr k.header).cls).applied)
include hfresh

/-- A packet of a communicator that is not set up here is answered alone (R427). -/
theorem serveCol_unknown (h : p.commOf (parseHdr k.header).src (parseCol k.payload).uid = none) :
    p.serveCol e k = (p.noteApplied (parseHdr k.header).src (parseHdr k.header).eng (parseHdr k.header).cls k.seq).answerPkt
      (parseHdr k.header) k.seq tyReply 0 0 [] := by
  simp only [Pkg.serveCol, hformat, hepoch, ne_eq, not_true_eq_false, if_false, List.contains_iff_mem, hfresh, h]

/-- A packet outside its member's rights is refused (R601). -/
theorem serveCol_denied {m : Comm} (h : p.commOf (parseHdr k.header).src (parseCol k.payload).uid = some m)
    (hdenied : p.colGranted m (parseHdr k.header).src (parseHdr k.header).ty (addrOff (parseHdr k.header).addr) (parseCol k.payload) = false) :
    p.serveCol e k = p.nackPkt (portFab k.port) (parseHdr k.header) k.seq 0x54 := by
  simp only [Pkg.serveCol, hformat, hepoch, ne_eq, not_true_eq_false, if_false, List.contains_iff_mem, hfresh, h, hdenied, Bool.not_false, if_true]

end

end

/-! ### Fires (R421) -/

section
variable {p : Pkg} {en idx : Nat} (e : Env)

theorem fireComplete_none (h : p.fires.find? (fun f => f.engine == en && f.idx == idx) = none) : fireComplete en idx e p = p := by
  simp only [fireComplete, h]

theorem fireComplete_some {f : Fire} (h : p.fires.find? (fun f => f.engine == en && f.idx == idx) = some f) :
    fireComplete en idx e p = (p.concludeFire e f).settle e := by
  simp only [fireComplete, h]

end

/-! ### Waits that run out, and gates (R433, R446) -/

/-- The member-wait time of a SETUP has run out: counted and logged, its communicator gone, its descriptor ended with 0x28 and the first rank of the first
member that has not been heard (R446). -/
def Pkg.setupTimeout (p : Pkg) (e : Env) (q : Nat) (m : Comm) : Pkg :=
  let gone := (m.others p.ownLoc).filter (fun l => !p.col.setups.any (fun x => x.uid == m.uid && x.src == l))
  let f := ((p.ctxEngines m.ctx).headD 0) / 4
  (((p.colCount f (Reg.COL_CNT_TIMEOUT f) 1).event 9 (20 + f) 0 1 0 (leBytes 4 m.id)).dropComm m).updRun q (fun u =>
    { u.raise e.tag 0x28 with undef := true, finished := true, endBeat := e.tag, detail := m.rankBase (gone.headD 0) })

section
variable {p : Pkg} {q : Nat} (e : Env)

section
variable {m : Comm} (hsetup : p.col.comms.find? (fun m => m.queue == some q) = some m)
include hsetup

theorem collectiveTimeout_setupWaits (h : e.hall < m.since + m.waitNs) : collectiveTimeout q e p = p := by
  simp only [collectiveTimeout, hsetup, h, if_true]

theorem collectiveTimeout_setupEnds (h : m.since + m.waitNs ≤ e.hall) : collectiveTimeout q e p = p.setupTimeout e q m := by
  simp only [collectiveTimeout, hsetup, Nat.not_lt.2 h, if_false, Pkg.setupTimeout]

end

theorem gateRelease_none (hrun : p.col.runs.find? (fun r => r.queue == some q) = none) : gateRelease q e p = p := by
  simp only [gateRelease, hrun]

theorem gateRelease_run {r : ColRun} {m : Comm} (hrun : p.col.runs.find? (fun r => r.queue == some q) = some r) (hcomm : p.comm? r.ctx r.comm = some m) :
    gateRelease q e p = (p.colAdmit e m r).settle e := by
  simp only [gateRelease, hrun, hcomm]

section
variable (hsetup : p.col.comms.find? (fun m => m.queue == some q) = none)
include hsetup

theorem collectiveTimeout_none (hrun : p.col.runs.find? (fun r => r.queue == some q) = none) : collectiveTimeout q e p = p := by
  simp only [collectiveTimeout, hsetup, hrun]

section
variable {r : ColRun} {m : Comm} (hrun : p.col.runs.find? (fun r => r.queue == some q) = some r) (hcomm : p.comm? r.ctx r.comm = some m)
include hrun hcomm

theorem collectiveTimeout_waits (h : p.colWaited e m r = none) : collectiveTimeout q e p = p := by
  simp only [collectiveTimeout, hsetup, hrun, hcomm, h]

theorem collectiveTimeout_ends {x : Nat × List Nat} (h : p.colWaited e m r = some x) : collectiveTimeout q e p = (p.colTimeout e m r x.1 x.2).settle e := by
  simp only [collectiveTimeout, hsetup, hrun, hcomm, h]

end

end

end

end Sys2Proof.Machine

namespace Sys2Proof

open Machine

/-- Settles O50: each command of the collectives by the equations of what it runs. -/
theorem collectives : Obligations.Collectives := by
  unfold Obligations.Collectives
  refine ⟨fun s port pkt hwork hup hloc hheader hpayload hhere hag => ?_, fun e p k hformat hepoch => ?_, fun s en entry hwork => ?_,
    fun s q port busy hwork => ?_⟩
  · have haddr : s.pkg.Addressed port pkt := ⟨hup, hloc, hheader, hpayload, hhere⟩
    have hserved {i : Instr} {ty : Nat} (hexec : exec i s = s.work .none (colPacket ty port pkt (fun e p k => p.serveCol e k)))
        (hrange : 0x10 ≤ ty ∧ ty ≤ 0x15) (hty : (parseHdr pkt.header).ty = ty) :=
      becomes_colServed hexec hwork haddr hrange hty (numberOf_request _ (.inr (by omega))) hag
    refine ⟨fun hty => ?_, fun hty => ?_, fun hty => ?_, fun hty => ?_, fun hty => ?_, fun hty => ?_⟩
    · exact hserved (i := .contrib port pkt) rfl (by decide) hty
    · exact hserved (i := .result port pkt) rfl (by decide) hty
    · exact hserved (i := .abort port pkt) rfl (by decide) hty
    · exact hserved (i := .credit port pkt) rfl (by decide) hty
    · exact hserved (i := .fallback port pkt) rfl (by decide) hty
    · exact becomes_colServed (serve := serveSetup) rfl hwork haddr (by decide) hty (numberOf_request _ (.inr (by rw [hty]; decide))) hag
  · exact ⟨serveCol_repeat e hformat hepoch, serveCol_unknown e hformat hepoch, fun m hfresh => serveCol_denied e hformat hepoch hfresh⟩
  · exact ⟨fun hnone => becomes_work rfl hwork (fireComplete_none s.env hnone), fun f hmine => becomes_work rfl hwork (fireComplete_some s.env hmine)⟩
  · refine ⟨fun m hsetup hearly => becomes_work rfl hwork (collectiveTimeout_setupWaits s.env hsetup hearly),
      fun m hsetup hlate => becomes_work rfl hwork (collectiveTimeout_setupEnds s.env hsetup hlate), fun hsetup hrun => ⟨?_, ?_⟩,
      fun r m hsetup hrun hcomm => ⟨fun hwaits => ?_, fun x hends => ?_, ?_⟩, ?_⟩
    · exact becomes_work rfl hwork (collectiveTimeout_none s.env hsetup hrun)
    · exact becomes_work rfl hwork (gateRelease_none s.env hrun)
    · exact becomes_work rfl hwork (collectiveTimeout_waits s.env hsetup hrun hcomm hwaits)
    · exact becomes_work rfl hwork (collectiveTimeout_ends s.env hsetup hrun hcomm hends)
    · exact becomes_work rfl hwork (gateRelease_run s.env hrun hcomm)
    · have hbec : Becomes (.busyWindow port busy) s (s.pkg.withFab { s.pkg.fab with busy := assocPut s.pkg.fab.busy port (min 100 busy) }) :=
        becomes_work rfl hwork rfl
      exact hbec.answers_fab fun t hfab hsame => ⟨by rw [hfab]; exact assoc_assocPut _ _ _, hsame⟩

end Sys2Proof

/-! SUPPORT. A port's quarantine ends (R411). -/

namespace Sys2Proof.Machine

/-- A port carries traffic on four lanes or on three (R374, Table 10-12). -/
theorem portUp_iff {p : Pkg} {port : Nat} : p.portUp port = true ↔ p.portState port = 2 ∨ p.portState port = 3 := by
  simp [Pkg.portUp]

theorem upState_eq (lanes : Nat) : upState lanes = 2 ∨ upState lanes = 3 := by
  unfold upState
  split
  · exact .inl rfl
  · exact .inr rfl

/-- A port reads the state it was put in. -/
theorem portState_setFld (p : Pkg) (port : Nat) {v : Nat} (h : v < 16) : (p.setFld (Reg.FAB_PORT_STATUS port) Fld.FAB_PS_STATE v).portState port = v :=
  (fld_setFld p _ Fld.FAB_PS_STATE v (by decide)).trans (Nat.mod_eq_of_lt h)

/-- The command of a working package, from a source that reaches the registers. -/
theorem becomes_fabPcRestore {s : State} {src : Source} (hwork : s.pkg.working = true) (hreach : s.pkg.reaches src = true) (port : Fin 36) :
    Becomes (.fabPcRestore src port) s (if s.pkg.isOperator src then s.pkg.portRestore port
      else s.pkg.refuse (portDie port) 1 src (Reg.FAB_PORT_CTRL port) 1) :=
  becomes_work (if_pos hreach) hwork rfl

/-- The port in service again on the lanes it has, before its return is logged. -/
def Pkg.unquarantine (p : Pkg) (port : Nat) : Pkg :=
  p.setFld (Reg.FAB_PORT_STATUS port) Fld.FAB_PS_STATE (upState (p.fld (Reg.FAB_PORT_STATUS port) Fld.FAB_PS_LANES))

theorem portRestore_quarantined {p : Pkg} {port : Nat} (h : p.portState port = 4) :
    p.portRestore port = (p.unquarantine port).record (portDie port) (portUnit port) 0xa 3 (leBytes 4 port) := if_pos h

section
variable (p : Pkg) (port : Nat)

theorem unquarantine_up : (p.unquarantine port).portUp port = true := by
  have hstate := upState_eq (p.fld (Reg.FAB_PORT_STATUS port) Fld.FAB_PS_LANES)
  rw [portUp_iff, Pkg.unquarantine, portState_setFld p port (by omega)]
  exact hstate

theorem unquarantine_lanes : (p.unquarantine port).fld (Reg.FAB_PORT_STATUS port) Fld.FAB_PS_LANES = p.fld (Reg.FAB_PORT_STATUS port) Fld.FAB_PS_LANES :=
  fld_setFld_ne p _ _ _ _ (by decide) (by decide)

end

end Sys2Proof.Machine

namespace Sys2Proof

open Machine

/-- Settles O15: the operator's restore of a quarantined port, of another port, and another source's. -/
theorem portRestore : Obligations.PortRestore := by
  unfold Obligations.PortRestore
  intro s src port hwork hreach
  have hbec := becomes_fabPcRestore hwork hreach port
  refine ⟨fun hoperator hquarantined => ?_, fun hoperator hother => ?_, fun hstranger => ?_⟩
  · rw [if_pos hoperator, portRestore_quarantined hquarantined] at hbec
    exact hbec.answers ⟨unquarantine_up s.pkg port, unquarantine_lanes s.pkg port, fun j hj => setFld_reg_ne s.pkg _ _ _ j (by simpa using hj),
      fun _ => rfl, lift_keeps s _, rfl⟩
  · rwa [if_pos hoperator, Pkg.portRestore, if_neg hother] at hbec
  · rw [if_neg (ne_true_of_eq_false hstranger)] at hbec
    refine hbec.answers ⟨fun j _ => refuse_reg s.pkg (portDie port) 1 src (Reg.FAB_PORT_CTRL port) 1 j (by decide),
      fun a => refuse_byte s.pkg (portDie port) 1 src (Reg.FAB_PORT_CTRL port) 1 a, lift_keeps s _, lift_logs_of_raised ?_⟩
    rw [refuse_raised s.pkg (portDie port) 1 src (Reg.FAB_PORT_CTRL port) 1 (by decide)]
    exact List.append_ne_nil_of_right_ne_nil _ (List.cons_ne_nil _ _)

end Sys2Proof

/-! SUPPORT. The fabric in time: requests that wait too long, hot lines, records that expire, frames and ports (R373, R374, R399 to R412, R459). -/

namespace Sys2Proof.Machine

/-! ### Requests without an answer (R399, R402, R405) -/

/-- A request is to be retransmitted (R399). -/
def FabReq.retransmitDue (e : Env) (r : FabReq) : Bool := r.retryAt.isNone && r.tries < 6 && r.issued + retxTimes.getD r.tries 0 ≤ e.hall

/-- A request is to be given up (R399, R402). -/
def FabReq.giveUpDue (e : Env) (r : FabReq) : Bool := r.retryAt.isNone && r.issued + giveUpNs ≤ e.hall

/-- The wait of a refused request has passed (R405). -/
def FabReq.reissueDue (e : Env) (r : FabReq) : Bool := match r.retryAt with | some t => t ≤ e.hall | none => false

/-- A request in the place of another among the outstanding ones. -/
def Pkg.replaceReq (p : Pkg) (r r2 : FabReq) : Pkg := p.setReqs (p.fab.reqs.map (fun x => if x = r then r2 else x))

section
variable {p : Pkg} {en seq : Nat} (e : Env)

theorem fabricRetransmit_none (h : p.reqWhere en seq (FabReq.retransmitDue e) = none) : fabricRetransmit en seq e p = p := by
  unfold fabricRetransmit
  split
  · rfl
  · rename_i r hr
    exact absurd (h.symm.trans hr) (Option.some_ne_none r).symm

theorem requestGiveUp_none (h : p.reqWhere en seq (FabReq.giveUpDue e) = none) : requestGiveUp en seq e p = p := by
  unfold requestGiveUp
  split
  · rfl
  · rename_i r hr
    exact absurd (h.symm.trans hr) (Option.some_ne_none r).symm

theorem fullReissue_none (h : p.reqWhere en seq (FabReq.reissueDue e) = none) : fullReissue en seq e p = p := by
  unfold fullReissue
  split
  · rfl
  · rename_i r hr
    exact absurd (h.symm.trans hr) (Option.some_ne_none r).symm

/-- A core's request is retransmitted under its number: no descriptor counts a replay (R399, R474). -/
theorem fabricRetransmit_core {r : FabReq} (h : p.reqWhere en seq (FabReq.retransmitDue e) = some r) {g rd w : Nat} {sx st : Bool} {at_ : HostAt}
    (hcore : r.user = .core g rd w sx st at_) : fabricRetransmit en seq e p =
      (let q := (p.replaceReq r { r with tries := r.tries + 1 }).fabCount (en / 4) (Reg.FAB_CNT_RETX (en / 4)) 1
       ((q.sendOn (q.reqHdr r) r.seq r.data).1).disturb 4 (20 + en / 4) 0) := by
  unfold fabricRetransmit
  split
  · rename_i hnone
    exact absurd (h.symm.trans hnone) (Option.some_ne_none r)
  · rename_i y hy
    obtain rfl := Option.some.inj (h.symm.trans hy)
    simp only [hcore]
    rfl

/-- A request that is given up ends as incomplete when it is a load, as unknown when it is none (R402). -/
theorem requestGiveUp_some {r : FabReq} (h : p.reqWhere en seq (FabReq.giveUpDue e) = some r) (hkind : r.kind ≠ tySync) :
    requestGiveUp en seq e p = ((p.dropReq r).noteFail e r (if r.kind = tyRead then ⟨0x34, 0⟩ else ⟨0x32, 0⟩)).settle e := by
  unfold requestGiveUp
  split
  · rename_i hnone
    exact absurd (h.symm.trans hnone) (Option.some_ne_none r)
  · rename_i y hy
    obtain rfl := Option.some.inj (h.symm.trans hy)
    simp only [hkind, if_false]

section
variable {r : FabReq} (h : p.reqWhere en seq (FabReq.reissueDue e) = some r)
include h

theorem fullReissue_some : fullReissue en seq e p =
    if r.refused.getD e.hall + 1000 * p.fld (Reg.FAB_CTRL (en / 4)) Fld.FAB_REFUSE_LIMIT_US ≤ e.hall then
      ((p.dropReq r).noteFail e r (FabFail.ofNack 0x55)).settle e
    else
      let q := p.replaceReq r { r with retryAt := none, issued := e.hall }
      (q.sendOn (q.reqHdr r) r.seq r.data).1 := by
  unfold fullReissue
  split
  · rename_i hnone
    exact absurd (h.symm.trans hnone) (Option.some_ne_none r)
  · rename_i y hy
    obtain rfl := Option.some.inj (h.symm.trans hy)
    rfl

end

end

/-! ### Hot lines (R406, R407) -/

section
variable {p : Pkg} {line home : Nat} (e : Env)

theorem hotLineNotice_home (h : home = p.ownLoc) (port : Nat) : hotLineNotice port line home e p = p := if_pos (.inl h)

/-- A switch that hears of a hot line combines its requests, and passes a first notice on where such requests came from. -/
theorem hotLineNotice_away (haway : home ≠ p.ownLoc) (port : Nat) : ∃ x : Fab, hotLineNotice port line home e p = p.withFab x ∧
    x.combine.contains (home, line) = true ∧ (p.combines home line = false → x.notices = p.fab.notices ++
      (((p.seenPorts home line).filter (fun x => x ≠ port)).filter p.portUp).map (fun x => ⟨x, line, home, false⟩)) := by
  cases hcomb : p.combines home line with
  | true => exact ⟨p.fab, if_pos (.inr hcomb), hcomb, fun h => absurd h (by decide)⟩
  | false => exact ⟨_, if_neg (by simp [haway, hcomb]), by simp, fun _ => rfl⟩

/-- A line of this package that has been quiet long enough. -/
def HomeLine.cools (e : Env) (line : Nat) (l : HomeLine) : Bool := l.line == line && l.hot && l.count < 16 && l.low + 10000 ≤ e.hall

/-- At a line's home the end concerns the records of that line with a short queue (R406). -/
theorem hotLineEnd_home (h : home = p.ownLoc) : ∃ x : Fab, hotLineEnd line home e p = p.withFab x ∧
    ∀ l ∈ p.fab.lines, l.line ≠ line ∨ l.count ≥ 16 → l ∈ x.lines := by
  refine ⟨_, if_pos h, fun l hl hstays => List.mem_map.2 ⟨l, hl, if_neg (ne_true_of_eq_false ?_)⟩⟩
  show l.cools e line = false
  rcases hstays with hother | hlong
  · simp [HomeLine.cools, hother]
  · simp [HomeLine.cools, Nat.not_lt.2 hlong]

/-- A switch that holds nothing of a line does not combine its requests after the end, and passes the end on when it did. -/
theorem hotLineEnd_away (haway : home ≠ p.ownLoc) (hnone : ∀ x ∈ p.fab.holds, x.line ≠ line) : ∃ x : Fab, hotLineEnd line home e p = p.withFab x ∧
    x.combine.contains (home, line) = false ∧ (p.combines home line = true → x.notices = p.fab.notices ++
      ((p.seenPorts home line).filter p.portUp).map (fun x => ⟨x, line, home, true⟩)) := by
  have hmine : p.fab.holds.filter (fun h => h.home == home && h.line == line) = [] := by
    rw [List.filter_eq_nil_iff]
    exact fun x hx => by simp [hnone x hx]
  cases hcomb : p.combines home line with
  | false => exact ⟨p.fab, by simp only [hotLineEnd, haway, if_false, hcomb, Bool.not_false, if_true]; rfl, hcomb, fun h => absurd h (by decide)⟩
  | true =>
    refine ⟨{ p.fab with
      combine := p.fab.combine.filter (fun x => x ≠ (home, line))
      notices := p.fab.notices ++ ((p.seenPorts home line).filter p.portUp).map (fun x => ⟨x, line, home, true⟩) }, ?_, by simp, fun _ => rfl⟩
    simp only [hotLineEnd, haway, if_false, hcomb, Bool.not_true, Bool.false_eq_true, hmine, List.contains_nil, Bool.not_false, List.filter_true,
      List.foldl_nil]
    rfl

end

section
variable {p : Pkg} {die line : Nat} (e : Env)

theorem combineHoldExpiry_none (h : ∀ x ∈ p.fab.holds, ¬(x.die = die ∧ x.line = line)) : combineHoldExpiry die line e p = p := by
  have hmine : p.fab.holds.filter (fun h => h.die == die && h.line == line) = [] := by
    rw [List.filter_eq_nil_iff]
    exact fun x hx => by simpa using h x hx
  simp only [combineHoldExpiry, hmine, List.contains_nil, Bool.not_false, List.filter_true, List.foldl_nil]

/-- The one hold of a switch core goes out, group by group (R407). -/
theorem combineHoldExpiry_one {x : CombineHold} (hx : p.fab.holds = [x]) (hdie : x.die = die) (hline : x.line = line) :
    combineHoldExpiry die line e p =
      (mergeGroups x.pkts).foldl (fun (u : Pkg) g => u.forwardGroup die g) { p with fab := { p.fab with holds := [] } } := by
  subst hdie hline
  simp [combineHoldExpiry, hx]

end

/-! ### Records that expire (R400, R401) -/

section
variable {p : Pkg} {die idx : Nat} (e : Env)

section
variable {f : InFlow} (hf : p.fab.inflows[idx]? = some f)
include hf

theorem flowRecordExpiry_drops (hquiet : f.waiting = []) (h : f.last + 20000000 ≤ e.hall) :
    flowRecordExpiry die idx e p = p.setInFlow { f with applied := [] } := by
  simp [flowRecordExpiry, hf, h, hquiet]

theorem flowRecordExpiry_early (h : e.hall < f.last + 20000000) : flowRecordExpiry die idx e p = p := by
  simp [flowRecordExpiry, hf, Nat.not_le.2 h]

end

section
variable {a : AtomEntry} (ha : (p.fab.atoms.filter (fun x => x.home == die))[idx]? = some a)
include ha

theorem atomicEntryExpiry_frees (h : a.since + 20000000 ≤ e.hall) :
    atomicEntryExpiry die idx e p = p.withFab { p.fab with atoms := p.fab.atoms.erase a } := by
  simp only [atomicEntryExpiry, ha, h, if_true]
  rfl

theorem atomicEntryExpiry_early (h : e.hall < a.since + 20000000) : atomicEntryExpiry die idx e p = p := by
  simp only [atomicEntryExpiry, ha, Nat.not_le.2 h, if_false]

end

end

/-! ### Ports (R373, R374, R459) -/

section
variable {p : Pkg} {port : Nat} (e : Env)

theorem frameReceive_down (h : p.portUp port = false) (lane : Fin 4) : frameReceive port (.uncorrectable lane) e p = p := by
  simp [frameReceive, h]

theorem frameReceive_up (h : p.portUp port = true) (lane : Fin 4) : frameReceive port (.uncorrectable lane) e p =
    (p.fabErr 2 port 0).event 8 (portDie port) (portLaneUnit port lane) 1 2 (portErrData (p.fabErr 2 port 0) port) := by
  simp [frameReceive, h]

theorem portDelayMeasure_up (h : p.portUp port = true) (delay : Nat) :
    portDelayMeasure port delay e p = p.withFab { p.fab with delays := assocPut p.fab.delays port delay } := if_pos h

/-- A port that is disabled, has no peer or is past training stays as it is. -/
theorem portTrainingEnd_barred
    (h : p.on (Reg.FAB_PORT_CTRL port) Fld.FAB_PC_DISABLE = true ∨ p.topo.hasPeer port = false ∨ p.portState port > 1) (lanes loc pp delay : Nat) :
    portTrainingEnd port lanes loc pp delay e p = p := by
  rcases h with h | h | h <;> simp [portTrainingEnd, h]

/-- A port's status after training on all four lanes (Table 10-12). -/
def Pkg.trainPort (p : Pkg) (port loc pp : Nat) : Pkg :=
  let k := Reg.FAB_PORT_STATUS port
  (((p.setFld k Fld.FAB_PS_STATE 2).setFld k Fld.FAB_PS_LANES 15).setFld k Fld.FAB_PS_PEER_PORT pp).setFld k Fld.FAB_PS_PEER_LOC loc

theorem portTrainingEnd_trains (henabled : p.on (Reg.FAB_PORT_CTRL port) Fld.FAB_PC_DISABLE = false) (hpeer : p.topo.hasPeer port = true)
    (hstate : p.portState port ≤ 1) (hlanes : ∀ i < 4, (portDie port, portLaneUnit port i) ∉ p.ras.retired) (loc pp delay : Nat) :
    portTrainingEnd port 4 loc pp delay e p = (p.trainPort port loc pp).withFab { p.fab with delays := assocPut p.fab.delays port delay } := by
  have hretired : (List.range 4).filter (fun i => p.ras.retired.contains (portDie port, portLaneUnit port i)) = [] := by
    rw [List.filter_eq_nil_iff]
    exact fun i hi => by simpa using hlanes i (List.mem_range.1 hi)
  unfold portTrainingEnd
  rw [hretired]
  exact if_neg (by simp [henabled, hpeer, hstate])

section
variable (p port) (loc pp : Nat)

theorem trainPort_state : (p.trainPort port loc pp).fld (Reg.FAB_PORT_STATUS port) Fld.FAB_PS_STATE = 2 := by
  rw [Pkg.trainPort, fld_setFld_ne _ _ _ _ _ (by decide) (by decide), fld_setFld_ne _ _ _ _ _ (by decide) (by decide),
    fld_setFld_ne _ _ _ _ _ (by decide) (by decide), fld_setFld _ _ _ _ (by decide)]
  rfl

theorem trainPort_lanes : (p.trainPort port loc pp).fld (Reg.FAB_PORT_STATUS port) Fld.FAB_PS_LANES = 15 := by
  rw [Pkg.trainPort, fld_setFld_ne _ _ _ _ _ (by decide) (by decide), fld_setFld_ne _ _ _ _ _ (by decide) (by decide), fld_setFld _ _ _ _ (by decide)]
  rfl

theorem trainPort_reg_ne {j : Nat} (h : j ≠ Reg.FAB_PORT_STATUS port) : (p.trainPort port loc pp).reg j = p.reg j := by
  simp only [Pkg.trainPort, setFld_reg_ne _ _ _ _ _ h]

end

end

end Sys2Proof.Machine

namespace Sys2Proof

open Machine

/-- Settles O49: the equations of each timer and port command, by what was found due. -/
theorem fabricTimersAndUpkeep : Obligations.FabricTimersAndUpkeep := by
  unfold Obligations.FabricTimersAndUpkeep
  refine ⟨fun s en seq hwork => ?_, fun s port die line home idx hwork => ?_⟩
  · refine ⟨fun h => ?_, fun h => ?_, fun h => ?_, fun r g rd w sx st at_ h hcore => ?_, fun r h hread => ?_, fun r h hkind => ?_,
      fun r h => ⟨fun hlimit => ?_, fun hlimit => ?_⟩⟩
    · exact becomes_work rfl hwork (fabricRetransmit_none s.env h)
    · exact becomes_work rfl hwork (requestGiveUp_none s.env h)
    · exact becomes_work rfl hwork (fullReissue_none s.env h)
    · exact becomes_work rfl hwork (fabricRetransmit_core s.env h hcore)
    · have heq := requestGiveUp_some s.env h (by rw [hread]; decide)
      rw [if_pos hread] at heq
      exact becomes_work rfl hwork heq
    · have heq := requestGiveUp_some s.env h (by rcases hkind with hkind | hkind <;> rw [hkind] <;> decide)
      rw [if_neg (by rcases hkind with hkind | hkind <;> rw [hkind] <;> decide)] at heq
      exact becomes_work rfl hwork heq
    · exact becomes_work rfl hwork ((fullReissue_some s.env h).trans (if_pos hlimit))
    · exact becomes_work rfl hwork ((fullReissue_some s.env h).trans (if_neg (Nat.not_le.2 hlimit)))
  · refine ⟨fun haway => ?_, fun hhome => ?_, fun haway hnone => ?_, fun hhome => ?_, fun hnone => ?_, fun x hx hdie hline => ?_, fun f hf hquiet hlate => ?_,
      fun f hf hearly => ?_, fun a ha => ⟨fun hlate => ?_, fun hearly => ?_⟩, ?_, ?_, fun lane hup => ?_, fun lane hdown => ?_, ?_, fun loc pp delay hbar => ?_,
      fun loc pp delay henabled hpeer hstate hlanes => ?_, fun delay hup => ?_, ?_⟩
    · obtain ⟨x, heq, hcomb, hnotices⟩ := hotLineNotice_away (line := line) s.env haway port
      have hbec : Becomes (.hotLineNotice port line home) s (s.pkg.withFab x) := becomes_work rfl hwork heq
      exact hbec.answers_fab fun t hfab hsame => ⟨by rwa [Pkg.combines, hfab], hsame, fun hnew => by rw [hfab]; exact hnotices hnew⟩
    · exact becomes_work rfl hwork (hotLineNotice_home s.env hhome port)
    · obtain ⟨x, heq, hcomb, hnotices⟩ := hotLineEnd_away s.env haway hnone
      have hbec : Becomes (.hotLineEnd line home) s (s.pkg.withFab x) := becomes_work rfl hwork heq
      exact hbec.answers_fab fun t hfab hsame => ⟨by rwa [Pkg.combines, hfab], hsame, fun hknown => by rw [hfab]; exact hnotices hknown⟩
    · obtain ⟨x, heq, hlines⟩ := hotLineEnd_home (line := line) s.env hhome
      have hbec : Becomes (.hotLineEnd line home) s (s.pkg.withFab x) := becomes_work rfl hwork heq
      exact hbec.answers_fab fun t hfab hsame => ⟨hsame, by rw [hfab]; exact hlines⟩
    · have hbec : Becomes (.combineHoldExpiry die line) s (s.pkg.withFab s.pkg.fab) := becomes_work rfl hwork (combineHoldExpiry_none s.env hnone)
      exact hbec.answers_fab fun t hfab hsame => ⟨by rw [hfab], hsame⟩
    · exact becomes_work rfl hwork (combineHoldExpiry_one s.env hx hdie hline)
    · exact becomes_work rfl hwork (flowRecordExpiry_drops s.env hf hquiet hlate)
    · exact becomes_work rfl hwork (flowRecordExpiry_early s.env hf hearly)
    · have hbec := becomes_work (c := .atomicEntryExpiry die idx) rfl hwork (atomicEntryExpiry_frees s.env ha hlate)
      exact hbec.answers_fab fun t hfab hsame => ⟨by rw [hfab], hsame⟩
    · exact becomes_work rfl hwork (atomicEntryExpiry_early s.env ha hearly)
    · exact becomes_work rfl hwork rfl
    · exact becomes_work rfl hwork rfl
    · exact becomes_work rfl hwork (frameReceive_up s.env hup lane)
    · exact becomes_work rfl hwork (frameReceive_down s.env hdown lane)
    · exact becomes_work rfl hwork rfl
    · exact becomes_work rfl hwork (portTrainingEnd_barred s.env hbar 4 loc pp delay)
    · have hbec := becomes_work (c := .portTrainingEnd port 4 loc pp delay) rfl hwork
        (portTrainingEnd_trains s.env henabled hpeer hstate hlanes loc pp delay)
      exact hbec.answers ⟨trainPort_state s.pkg port loc pp, trainPort_lanes s.pkg port loc pp, assoc_assocPut _ _ _,
        fun j hj => trainPort_reg_ne s.pkg port loc pp (by simpa using hj), fun _ => rfl, lift_keeps s _⟩
    · have hbec := becomes_work (c := .portDelayMeasure port delay) rfl hwork (portDelayMeasure_up s.env hup delay)
      exact hbec.answers_fab fun t hfab hsame => ⟨by rw [hfab]; exact assoc_assocPut _ _ _, hsame⟩
    · exact becomes_work rfl hwork rfl

end Sys2Proof

/-! SUPPORT. Collectives, SETUP, RELEASE and TRIG_ARM start (R418, R424, R426 to R428, R434 to R438, R490, R638). -/

namespace Sys2Proof.Machine

/-! ### The checks of a start (R638) -/

/-- No check fails exactly if each one passes. -/
theorem firstFail_eq_none {vs : List Verdict} : firstFail vs = none ↔ ∀ v ∈ vs, v = none := by
  induction vs with
  | nil => simp [firstFail]
  | cons v vs ih => cases v <;> simp [firstFail, ih]

theorem abortIf_eq_none {b : Bool} {cause : Nat} : abortIf b cause = none ↔ b = false := by cases b <;> simp [abortIf]

/-! ### Collectives (R434 to R438) -/

/-- The check of a collective's handles and of its parameter block (R433, R638). -/
def Pkg.colFirstVerdict (p : Pkg) (kind c : Nat) (d : List Byte) : Verdict :=
  firstFail [p.handleVerdict c d false (fun _ _ => false) (if kind = 5 then [] else [0, 2]),
    p.paramVerdict c d (p.paramBytes c d 16) 16 (colParamBad kind (p.paramBytes c d 16))]

/-- The checks that follow those of Table 11-7: the handles' nesting and regions, HBM bandwidth, a lost die (R312, R486, R638). -/
def Pkg.colLastVerdict (p : Pkg) (kind c : Nat) (d : List Byte) : Verdict :=
  firstFail (p.nestVerdicts c d (p.tensors c d (if kind = 5 then [] else [0, 2])) ++
    [p.bandwidthVerdict c (p.tensors c d (if kind = 5 then [] else [0, 2])),
      if (p.ctxEngines c).any (fun en => p.dieLost (20 + en / 4)) then some (0x37, 0) else none])

section
variable {s : State} {q kind : Nat} {d : List Byte} {p : Pkg} (hstarts : s.Starts q d) (hkind : dKind d = 4) (hop : dOp d % 16 = kind)
  (hread : s.pkg.readAhead s.env (s.pkg.queueCtx q) (s.pkg.colReads (s.pkg.queueCtx q) d kind) = (p, .ok))
include hstarts hkind hop hread

/-- A collective whose handles or parameter block fail ends with that check's status and reason (R638). -/
theorem startCollective_of_fail {v : Nat × Nat} (hfail : p.colFirstVerdict kind (p.queueCtx q) d = some v) :
    startCollective kind q s.env s.pkg = p.completeHead s.env q d v.1 v.2 := by
  unfold startCollective
  rw [start_of_starts hstarts (reads := fun d => s.pkg.colReads (s.pkg.queueCtx q) d kind) hread (by simp [hkind, hop])]
  exact orRun_some p s.env q d hfail _

/-- One that passes every check enters its communicator (R434, R435). -/
theorem startCollective_of_pass {m : Comm} (hfirst : p.colFirstVerdict kind (p.queueCtx q) d = none)
    (hcause : p.colCause (p.queueCtx q) d (p.paramBytes (p.queueCtx q) d 16) = 0) (hlast : p.colLastVerdict kind (p.queueCtx q) d = none)
    (hcomm : p.comm? (p.queueCtx q) (opComm (p.colOp (p.queueCtx q) d)) = some m) :
    startCollective kind q s.env s.pkg = p.enterCollective s.env q kind d (p.paramBytes (p.queueCtx q) d 16) m := by
  unfold startCollective
  rw [start_of_starts hstarts (reads := fun d => s.pkg.colReads (s.pkg.queueCtx q) d kind) hread (by simp [hkind, hop])]
  refine (orRun_none p s.env q d hfirst _).trans ((if_neg (not_not.2 hcause)).trans ((orRun_none p s.env q d hlast _).trans ?_))
  rw [hcomm]

end

/-! ### RELEASE and SETUP (R426 to R428) -/

section
variable {s : State} {q : Fin 64} {d : List Byte} {p : Pkg} (hstarts : s.Starts q d) (hkind : dKind d = 4)
include hstarts hkind

/-- RELEASE of an open communicator enters, and ends as soon as none of its collectives is in flight (R428). -/
theorem startRelease_of_open (hop : dOp d % 16 = 8) (hclass : dJclass d = 2) (hreads : s.Reads (.release q) q d p) {m : Comm}
    (hcomm : p.comm? (p.queueCtx q) (opComm (dOp d)) = some m) (hopen : m.queue = none) :
    startRelease q s.env s.pkg = (p.enterRun (p.newRun s.env q d [])).releaseFlow s.env q := by
  unfold startRelease
  rw [start_of_starts hstarts (reads := fun _ => []) hreads (by simp [hkind, hop])]
  refine orRun_none p s.env q d (firstFail_eq_none.2 ?_) _
  simp [abortIf_eq_none, hcomm, hopen, hclass]

/-- The communicator that a SETUP opens: the fields of Table 11-4, and the digest of its member table (R426, R427). -/
def Pkg.setupComm (p : Pkg) (e : Env) (q : Nat) (d : List Byte) : Comm :=
  let c := p.queueCtx q
  let b := p.paramBytes c d 64
  { ctx := c, id := sId b, uid := sUid b, crc := crc32c (p.viewBytes (sTable b) (4 * sCount b)), members := (p.memberWords b).map memberOf, slots := 0,
    window := sWindow b, scratch := sScratch b, scratchLen := sScratchLen b, report := sReport b,
    waitNs := 1000 * (if sWait b = 0 then 100000 else sWait b), next := 0, queue := some q, want := sSlots b, heard := [], since := e.hall }

/-- What a SETUP tells a member: its UID, the members' count and the digest of its table (R427). -/
def Comm.setupPkt (m : Comm) : ColPkt :=
  ⟨0, 0, 0, 0, 0, 0, false, 7, 0, m.uid, leBytes 8 m.uid ++ leBytes 4 m.members.length ++ leBytes 4 m.crc⟩

/-- A SETUP enters, keeps its communicator, and tells every other member (R427). -/
def Pkg.setupTold (p : Pkg) (e : Env) (q : Nat) (d : List Byte) : Pkg :=
  let m := p.setupComm e q d
  let p1 := (p.enterRun (p.newRun e q d (p.paramBytes (p.queueCtx q) d 64))).setComm m
  (m.others p1.ownLoc).foldl (fun u l => u.colSend e m (some q) l tySetup 0 (opDetour (dOp d)) m.setupPkt) p1

/-- SETUP that passes its checks opens its communicator, tells the others, and looks for what they have told (R427). -/
theorem startSetup_of_pass (hop : dOp d % 16 = 7) (hreads : s.Reads (.setup q) q d p)
    (hparam : p.paramVerdict (p.queueCtx q) d (p.paramBytes (p.queueCtx q) d 64) 64 (setupBad (p.paramBytes (p.queueCtx q) d 64)) = none)
    (htable : p.tableVerdict (p.queueCtx q)
      [(sTable (p.paramBytes (p.queueCtx q) d 64), 4 * sCount (p.paramBytes (p.queueCtx q) d 64))] = none)
    (hcause : p.setupCause (p.queueCtx q) d (p.paramBytes (p.queueCtx q) d 64) = 0) :
    startSetup q s.env s.pkg = ((p.setupTold s.env q d).setupCheck s.env (p.setupComm s.env q d)).settle s.env := by
  unfold startSetup
  rw [start_of_starts hstarts (reads := fun d => s.pkg.setupReads (s.pkg.queueCtx q) d) hreads (by simp [hkind, hop])]
  refine orRun_none p s.env q d (firstFail_eq_none.2 ?_) _
  simp [abortIf_eq_none, hparam, htable, hcause]

end

/-! ### TRIG_ARM (R418, R424, R490) -/

section
variable (p : Pkg) (b : List Byte)

/-- The entry images that a TRIG_ARM names (Table 11-3). -/
def Pkg.trigImages : List (List Byte) := (List.range (tCount b)).map (fun i => p.viewBytes (tImages b + 64 * i) 64)

/-- The binding words that it names (Table 11-3). -/
def Pkg.trigWords : List Nat := (List.range (tWordCount b)).map (fun i => leNat (p.viewBytes (tWords b + 4 * i) 4))

/-- The bindings after a TRIG_ARM's words (R417, R424). -/
def Pkg.armedBinds (c : Nat) : List Binding := (p.trigWords b).foldl (applyBind c (tEngine b)) p.binds

/-- The trigger tables with a TRIG_ARM's images loaded over the range they name (R418). -/
def Pkg.armedTrigs : List TrigEntry :=
  p.trigs.filter (fun t => !(t.engine == tEngine b && tFirst b ≤ t.idx && t.idx < tFirst b + tCount b)) ++
    (p.trigImages b).zipIdx.map (fun x => ⟨tEngine b, tFirst b + x.2, x.1⟩)

/-- What makes a TRIG_ARM pass every check of its block, tables, images and words (R418, R424, Table 11-7). -/
structure Pkg.ArmPasses (c : Nat) (d : List Byte) : Prop where
  param : p.paramVerdict c d b 64 (trigParamBad b) = none
  range : tFirst b + tCount b ≤ 16384
  engine : tEngine b ≤ 31
  owned : (p.ctxEngines c).contains (tEngine b) = true
  words : tWordCount b ≤ 256
  tables : p.tableVerdict c [(tImages b, 64 * tCount b), (tWords b, 4 * tWordCount b)] = none
  images : (p.trigImages b).any entryBad = false
  kinds : (p.trigWords b).any bindBad = false
  room : ((p.armedBinds b c).filter (fun x => x.ctx == c)).length ≤ 256

end

/-- The journal entry of a TRIG_ARM, which ends at once (R424, R490). -/
def Pkg.armRun (p : Pkg) (e : Env) (q : Nat) (d : List Byte) : Run :=
  { p.newRun e q d (p.paramBytes (p.queueCtx q) d 64) with finished := true, endBeat := e.tag }

/-- The package with a TRIG_ARM's entries and bindings in it (R418, R424). -/
def Pkg.arm (p : Pkg) (e : Env) (q : Nat) (d : List Byte) : Pkg :=
  let b := p.paramBytes (p.queueCtx q) d 64
  { p.enterRun (p.armRun e q d) with trigs := p.armedTrigs b, binds := p.armedBinds b (p.queueCtx q) }

theorem arm_reg (p : Pkg) (e : Env) (q : Nat) (d : List Byte) (k : Nat) : (p.arm e q d).reg k = p.reg k := enterRun_reg p (p.armRun e q d) k

theorem arm_byte (p : Pkg) (e : Env) (q : Nat) (d : List Byte) {a : Nat} (ha : a / 256 * 256 ∉ p.entryLines (p.queueCtx q)) :
    (p.arm e q d).byte a = p.byte a := enterRun_byte p (p.armRun e q d) ha

/-- A TRIG_ARM's run stands in its queue's entry, finished. -/
theorem arm_runOf {p : Pkg} {q : Nat} (h : p.runOf q = none) (e : Env) (d : List Byte) :
    ∃ r, (p.arm e q d).runOf q = some r ∧ r.desc = d ∧ r.finished = true :=
  ⟨_, enterRun_runOf (r := p.armRun e q d) h, slowed_keeps (g := Run.desc) (fun _ _ _ => rfl) p _ _,
    slowed_keeps (g := Run.finished) (fun _ _ _ => rfl) p _ _⟩

/-- A TRIG_ARM that passes its checks arms (R418, R424). -/
theorem startTrigArm_of_pass {s : State} {q : Fin 64} {d : List Byte} {p : Pkg} (hstarts : s.Starts q d) (hkind : dKind d = 4)
    (hop : dOp d % 16 = 9) (hclass : dJclass d = 2) (hreads : s.Reads (.trigArm q) q d p)
    (h : p.ArmPasses (p.paramBytes (p.queueCtx q) d 64) (p.queueCtx q) d) : startTrigArm q s.env s.pkg = p.arm s.env q d := by
  obtain ⟨hparam, hrange, hengine, howned, hwords, htables, himages, hkinds, hroom⟩ := h
  unfold startTrigArm
  rw [start_of_starts hstarts (reads := fun d => s.pkg.trigReads (s.pkg.queueCtx q) d) hreads (by simp [hkind, hop])]
  refine orRun_none p s.env q d (firstFail_eq_none.2 ?_) _
  rw [List.forall_mem_cons, List.forall_mem_cons, List.forall_mem_cons, List.forall_mem_cons, List.forall_mem_cons, List.forall_mem_singleton]
  refine ⟨hparam, abortIf_eq_none.2 ?_, htables, abortIf_eq_none.2 ?_, abortIf_eq_none.2 (decide_eq_false (Nat.not_lt.2 hroom)), ?_⟩
  · simp only [howned, decide_eq_false (Nat.not_lt.2 hrange), decide_eq_false (Nat.not_lt.2 hengine), decide_eq_false (Nat.not_lt.2 hwords)]
    rfl
  · exact Bool.or_eq_false_iff.2 ⟨himages, hkinds⟩
  · rw [abortIf_eq_none, hclass]
    rfl

end Sys2Proof.Machine

namespace Sys2Proof

open Machine

/-- Settles O23: the seven start commands differ in their kind alone, and their checks decide. -/
theorem collectiveStarts : Obligations.CollectiveStarts := by
  unfold Obligations.CollectiveStarts
  intro s q d p hstarts hkind c b starts
  have hstart {i : Instr} {kind : Nat} (hexec : exec i s = s.work .none (startCollective kind q))
      (hreads : startReads s.pkg (s.pkg.queueCtx q) d i = s.pkg.colReads (s.pkg.queueCtx q) d kind) : starts i kind := by
    intro hop hread
    rw [State.Reads, hreads] at hread
    refine ⟨fun v hfail => ?_, fun m hfirst hcause hlast hcomm => ?_⟩
    · exact becomes_work hexec hstarts.working (startCollective_of_fail hstarts hkind hop hread hfail)
    · exact becomes_work hexec hstarts.working (startCollective_of_pass hstarts hkind hop hread hfirst hcause hlast hcomm)
  exact ⟨hstart rfl rfl, hstart rfl rfl, hstart rfl rfl, hstart rfl rfl, hstart rfl rfl, hstart rfl rfl, hstart rfl rfl⟩

/-- Settles O24: a RELEASE of an open communicator enters and waits; a TRIG_ARM that passes its checks arms and is finished. -/
theorem triggerAndReleaseStarts : Obligations.TriggerAndReleaseStarts := by
  unfold Obligations.TriggerAndReleaseStarts
  intro s q d p hstarts hkind hclass
  refine ⟨fun m hop hreads hcomm hopen => ?_, fun hop hreads hparam hrange hengine howned hwords htables himages hkinds hroom => ?_⟩
  · exact becomes_work rfl hstarts.working (startRelease_of_open hstarts hkind hop hclass hreads hcomm hopen)
  · have hpasses : p.ArmPasses (p.paramBytes (p.queueCtx q) d 64) (p.queueCtx q) d :=
      ⟨hparam, hrange, hengine, howned, hwords, htables, himages, hkinds, hroom⟩
    have hbec : Becomes (.trigArm q) s (p.arm s.env q d) :=
      becomes_work rfl hstarts.working (startTrigArm_of_pass hstarts hkind hop hclass hreads hpasses)
    exact hbec.answers ⟨rfl, rfl, arm_runOf (runOf_of_reads hstarts hreads) s.env d, fun k _ => arm_reg p s.env q d k,
      fun a ha => arm_byte p s.env q d ha, lift_keeps s _⟩

/-- Settles O25: a SETUP whose block, table and cause pass opens its communicator and tells the others. -/
theorem setupStarts : Obligations.SetupStarts := by
  unfold Obligations.SetupStarts
  intro s q d p hstarts hkind hop hreads e c b hparam htable hcause
  exact becomes_work rfl hstarts.working (startSetup_of_pass hstarts hkind hop hreads hparam htable hcause)

end Sys2Proof

/-! SUPPORT. What a command can do to the queue, the clock and the log: all but six commands take an effect on the package into the state and leave the rest
(R453, R456, R569 to R571). -/

namespace Sys2Proof.Machine

/-! ### Commands that leave the queue, the clock and the written log -/

/-- The outcome is a next state with the queue, the clock and the written log of before, and with no record of its own between the package and the log. -/
structure LeavesBlock (s : State) (o : Host.Outcome State Fault Refusal) : Prop where
  next : ∃ t, o = .next t ∧ KeepsBlock s t ∧ (t.pkg.raised = [] ∨ t.pkg.raised = s.pkg.raised)

section
variable {s : State}

theorem leavesBlock_same (s : State) : LeavesBlock s (.next s) := ⟨s, rfl, ⟨rfl, rfl, rfl, rfl, rfl⟩, .inr rfl⟩

theorem leavesBlock_lift (s : State) (f : Env → Pkg → Pkg) : LeavesBlock s (.next (s.lift f)) := ⟨_, rfl, lift_keeps s f, .inl rfl⟩

theorem leavesBlock_work (s : State) (ev : Ev) (f : Env → Pkg → Pkg) : LeavesBlock s (s.work ev f) := leavesBlock_lift s _

theorem leavesBlock_any (s : State) (f : Env → Pkg → Pkg) : LeavesBlock s (s.any f) := leavesBlock_lift s _

theorem leavesBlock_mgmt (s : State) (f : Env → Pkg → Pkg) : LeavesBlock s (s.mgmt f) := leavesBlock_lift s _

theorem leavesBlock_memory (s : State) (f : Env → Pkg → Pkg) : LeavesBlock s (s.memory f) := leavesBlock_lift s _

theorem leavesBlock_ite {c : Prop} [Decidable c] {o o' : Host.Outcome State Fault Refusal} (h : LeavesBlock s o) (h' : LeavesBlock s o') :
    LeavesBlock s (if c then o else o') := by
  split
  · exact h
  · exact h'

/-- A source that does not reach the registers does nothing (R623, R627). -/
theorem leavesBlock_through {o : Host.Outcome State Fault Refusal} (h : LeavesBlock s o) (src : Source) : LeavesBlock s (s.through src o) :=
  leavesBlock_ite h (leavesBlock_same s)

/-- A change of the package that raises no record may come before. -/
theorem LeavesBlock.after {p : Pkg} {o : Host.Outcome State Fault Refusal} (h : LeavesBlock { s with pkg := p } o) (hp : p.raised = s.pkg.raised) :
    LeavesBlock s o := by
  obtain ⟨t, ho, hkeeps, hraised⟩ := h.next
  exact ⟨t, ho, hkeeps, hraised.imp_right (fun heq => heq.trans hp)⟩

/-- Every QVX instruction is a command of a working package (R339). -/
theorem leavesBlock_runQvx (i : Instr) (s : State) : LeavesBlock s (runQvx i s) := by
  unfold runQvx
  split
  case h_51 => exact leavesBlock_same s
  all_goals exact leavesBlock_work s _ _

theorem leavesBlock_registerWrite (src : Source) (off width value : Nat) (s : State) : LeavesBlock s (execRegisterWrite src off width value s) :=
  leavesBlock_through (leavesBlock_ite (leavesBlock_any s _) (leavesBlock_work s _ _)) src

theorem leavesBlock_hostMemoryAccess (g : Fin 144) (acc : HostAccess) (s : State) : LeavesBlock s (execHostMemoryAccess g acc s) := by
  unfold execHostMemoryAccess
  dsimp only
  split
  · exact leavesBlock_work s _ _
  · refine leavesBlock_ite (leavesBlock_same s) (leavesBlock_ite (leavesBlock_work s _ _) ?_)
    exact (leavesBlock_runQvx _ _).after (updCore_raised ..)

end

/-- The commands that reach beyond the package: to the clock or to the written log. -/
def Instr.movesBlock : Instr → Bool
  | .beat | .beaconReceive .. | .timeSetMaster .. | .standbyPowerGood .. | .coldStop .. | .logDrain .. => true
  | _ => false

/-- Every other command leaves the queue, the clock and the written log. -/
theorem exec_leavesBlock {c : Instr} (h : Instr.movesBlock c = false) (s : State) : LeavesBlock s (exec c s) := by
  cases c
  case beat | beaconReceive | timeSetMaster | standbyPowerGood | coldStop | logDrain => exact absurd h Bool.false_ne_true.symm
  case registerWrite => exact leavesBlock_registerWrite ..
  case hostMemoryAccess => exact leavesBlock_hostMemoryAccess ..
  case arrCntClr | arrQcntClr | arrQhistClr | coatCntClr | tailDoorbell | headDoorbell | qheadWrite | queueEnable | queueDisable | queueFlush
    | queueResume | flagWrite | flagAdd | flagClr | stagingWrite | fabPcRestore | fabCntClr | colTcntWrite | colCntClr | timedReleaseArm | rasCntClr
    | ckpCntClr | pwrCntClr | memCntClr | anvCntClr => exact leavesBlock_through (leavesBlock_work s _ _) _
  case mgtCntClr => exact leavesBlock_through (leavesBlock_any s _) _
  case oobDuplicateDatagram | complexRestartEnd | bootAttemptTimeout | porstNRelease | porstNAssert | warmN => exact leavesBlock_any s _
  case identify | features | powerCap | powerStatus | logRead | logMark | spareStatus | calStatus | timeStatus | selftest | pairSet | attest
    | sensorSample | stageSet | stageCheck | commit | stageDiscard | calPolicy | islandAcknowledge | commitAckTimeout | shadowRewrite | holdLapse
    | protectPropose | protectEndorse | protectWithdraw | proposalExpiry | fwStage | fwVerify | fwActivate | longCommandEnd | lockstepMismatch =>
    exact leavesBlock_mgmt s _
  case memoryRequest | stripeUpdate | bandwidthWindow | quotaBudgetExpiry | retrainingEnd | writeBehindDrain => exact leavesBlock_memory s _
  all_goals exact leavesBlock_work s _ _

/-! ### The invariant of the log (R569 to R571) -/

section
variable {s t : State}

/-- What such a command answers keeps the invariant. -/
theorem LeavesBlock.inv {o : Host.Outcome State Fault Refusal} (h : LeavesBlock s o) (hinv : s.Inv) (ho : o = .next t) : t.Inv := by
  obtain ⟨u, hu, ⟨-, -, hnext, hbuf, hmram⟩, hraised⟩ := h.next
  obtain rfl := Host.Outcome.next.inj (ho.symm.trans hu)
  exact ⟨LogSt.Ok_congr hinv.log hnext hbuf hmram, hraised.elim id (fun heq => heq.trans hinv.raised)⟩

/-- The invariant does not depend on the clock. -/
theorem Inv_clock (h : s.Inv) (c : Clock) : ({ s with clock := c } : State).Inv := ⟨h.log, h.raised⟩

/-- The delivery of messages raises no record (R357). -/
theorem deliverIrq_raised (p : Pkg) (m : IrqMsg) : (p.deliverIrq m).raised = p.raised := by
  unfold Pkg.deliverIrq
  dsimp only
  split <;> rfl

theorem foldl_deliverIrq_raised (ms : List IrqMsg) (p : Pkg) : (ms.foldl Pkg.deliverIrq p).raised = p.raised := by
  induction ms generalizing p with
  | nil => rfl
  | cons m ms ih => rw [List.foldl_cons, ih, deliverIrq_raised]

theorem beatEnd_raised (p : Pkg) : p.beatEnd.raised = p.raised := by
  show (if p.working then _ else p).raised = p.raised
  split
  · exact foldl_deliverIrq_raised _ p
  · rfl

theorem exec_beat_inv (h : s.Inv) (ho : exec .beat s = .next t) : t.Inv := by
  obtain rfl := Host.Outcome.next.inj ho
  split
  · exact h
  · have hlog := Inv_writeLog (Inv_lift h.log (fun e p => if p.working then p.beatWork e else p))
    exact ⟨hlog.log, (beatEnd_raised _).trans hlog.raised⟩

theorem exec_beaconReceive_inv {port : Fin 36} {value : Nat} (h : s.Inv) (ho : exec (.beaconReceive port value) s = .next t) : t.Inv := by
  obtain rfl := Host.Outcome.next.inj ho
  split
  · exact Inv_clock (Inv_lift h.log _) _
  · exact Inv_lift h.log _

theorem exec_timeSetMaster_inv {m : Fin 16} (h : s.Inv) (ho : exec (.timeSetMaster m) s = .next t) : t.Inv := by
  obtain rfl := Host.Outcome.next.inj ho
  split
  · exact Inv_clock (Inv_lift h.log _) _
  · exact Inv_lift h.log _

theorem exec_standbyPowerGood_inv {x : PowerUp} (h : s.Inv) (ho : exec (.standbyPowerGood x) s = .next t) : t.Inv := by
  obtain rfl := Host.Outcome.next.inj ho
  split
  · exact h
  · exact Inv_lift (s := { s with clock := ⟨0⟩ }) h.log _

/-- The loss of standby power carries records to MRAM and raises none (R587). -/
theorem exec_coldStop_inv {v : Fin 3} {mv : Nat} (h : s.Inv) (ho : exec (.coldStop v mv) s = .next t) : t.Inv := by
  have hlift : (s.lift (Pkg.atWork ⟨2, 31, 0⟩ (coldStopLevel v.val mv))).Inv := Inv_lift h.log _
  obtain rfl := Host.Outcome.next.inj ho
  split
  · exact ⟨LogSt.Ok_holdUp (Inv_writeLog hlift).log, (Inv_writeLog hlift).raised⟩
  · exact hlift

theorem exec_logDrain_inv {n : Nat} (h : s.Inv) (ho : exec (.logDrain n) s = .next t) : t.Inv := by
  obtain rfl := Host.Outcome.next.inj ho
  split
  · exact ⟨LogSt.Ok_drain h.log _ _, h.raised⟩
  · exact h

/-- Every command keeps the invariant. -/
theorem exec_inv {c : Instr} (h : s.Inv) (ho : exec c s = .next t) : t.Inv := by
  by_cases hmoves : Instr.movesBlock c = false
  · exact (exec_leavesBlock hmoves s).inv h ho
  · unfold Instr.movesBlock at hmoves
    split at hmoves
    · exact exec_beat_inv h ho
    · exact exec_beaconReceive_inv h ho
    · exact exec_timeSetMaster_inv h ho
    · exact exec_standbyPowerGood_inv h ho
    · exact exec_coldStop_inv h ho
    · exact exec_logDrain_inv h ho
    · exact absurd rfl hmoves

end

/-! ### Answers of the commands that reach further -/

/-- The log of a beat is written without the queue. -/
theorem writeLog_pending (s : State) : s.writeLog.pending = s.pending := by
  unfold State.writeLog
  split <;> rfl

theorem writeLog_clock (s : State) : s.writeLog.clock = s.clock := by
  unfold State.writeLog
  split <;> rfl

/-- Every command answers, and leaves the queue. -/
theorem exec_answers (c : Instr) (s : State) : ∃ t, exec c s = .next t ∧ t.pending = s.pending := by
  by_cases hmoves : Instr.movesBlock c = false
  · obtain ⟨t, ht, ⟨hpending, -⟩, -⟩ := (exec_leavesBlock hmoves s).next
    exact ⟨t, ht, hpending⟩
  · unfold Instr.movesBlock at hmoves
    split at hmoves
    · refine ⟨_, rfl, ?_⟩
      split
      · rfl
      · exact writeLog_pending _
    · refine ⟨_, rfl, ?_⟩
      split <;> rfl
    · refine ⟨_, rfl, ?_⟩
      split <;> rfl
    · refine ⟨_, rfl, ?_⟩
      split <;> rfl
    · refine ⟨_, rfl, ?_⟩
      split
      · exact writeLog_pending _
      · rfl
    · refine ⟨_, rfl, ?_⟩
      split <;> rfl
    · exact absurd rfl hmoves

end Sys2Proof.Machine

namespace Sys2Proof

open Machine

/-- Settles O1: a step takes the queue apart. -/
theorem stepRunsFront : Obligations.StepRunsFront := by
  unfold Obligations.StepRunsFront
  intro c rest s hpending
  simp only [step, hpending]

/-- Settles O2: most commands leave the block (`exec_leavesBlock`), and the others leave its queue. -/
theorem everyCommandAnswers : Obligations.EveryCommandAnswers := by
  unfold Obligations.EveryCommandAnswers
  exact exec_answers

/-- Settles O4: an idle step changes nothing, and every command keeps the invariant, whatever the queue holds besides. -/
theorem stepKeepsLog : Obligations.StepKeepsLog := by
  unfold Obligations.StepKeepsLog
  intro s t hinv hstep
  unfold step at hstep
  split at hstep
  case h_1 =>
    obtain rfl := Host.Outcome.next.inj hstep
    exact hinv
  case h_2 c rest _ => exact exec_inv (s := { s with pending := rest }) ⟨hinv.log, hinv.raised⟩ hstep

/-- Settles O5: the commands that are none of the six leave the block; a beat's end clears what was shown. -/
theorem clockAndLog : Obligations.ClockAndLog := by
  unfold Obligations.ClockAndLog
  refine ⟨fun c s t ht hbeat hbeacon hmaster hstandby hcold hdrain => ?_, fun s hpower => ?_⟩
  · have hmoves : Instr.movesBlock c = false := by
      unfold Instr.movesBlock
      split
      · exact absurd rfl hbeat
      · exact absurd rfl (hbeacon _ _)
      · exact absurd rfl (hmaster _)
      · exact absurd rfl (hstandby _)
      · exact absurd rfl (hcold _ _)
      · exact absurd rfl (hdrain _)
      · rfl
    obtain ⟨u, hu, hkeeps, -⟩ := (exec_leavesBlock hmoves s).next
    obtain rfl := Host.Outcome.next.inj (ht.symm.trans hu)
    exact hkeeps
  · refine ⟨_, rfl, ?_⟩
    rw [if_neg (by simp [hpower])]
    refine ⟨?_, rfl, rfl, rfl, rfl, rfl, rfl, rfl, rfl, rfl, rfl⟩
    show (State.writeLog _).clock.next.hall = _
    rw [writeLog_clock]
    rfl

end Sys2Proof

/-! SUPPORT. Counter clears, staging writes and timed releases (R157, R158, R464, R558 to R560). -/

namespace Sys2Proof.Machine

/-! ### Counter clears -/

/-- The quench counters take a staging set; no other register does (R155). -/
theorem countStage_reg (p : Pkg) (st : QuenchStage) {k : Nat} (hk : k ∉ quenchCounters st.die) : (p.countStage st).reg k = p.reg k := by
  simp only [quenchCounters, List.mem_cons, List.not_mem_nil, or_false, not_or] at hk
  obtain ⟨hsat, hflush, hreheat, hkept, hshadow⟩ := hk
  unfold Pkg.countStage Pkg.quenchCount
  dsimp only
  rw [bump_reg _ _ _ _ _ _ hshadow, bump_reg _ _ _ _ _ _ hkept, bump_reg _ _ _ _ _ _ hreheat, bump_reg _ _ _ _ _ _ hflush,
    bump_reg _ _ _ _ _ _ hsat]

theorem countStage_byte (p : Pkg) (st : QuenchStage) (a : Nat) : (p.countStage st).byte a = p.byte a := by
  simp only [Pkg.countStage, Pkg.quenchCount, bump_byte]

theorem foldl_countStage_byte (xs : List (Nat × QuenchStage)) (p : Pkg) (a : Nat) :
    (xs.foldl (fun (q : Pkg) s => q.countStage s.2) p).byte a = p.byte a := by
  induction xs generalizing p with
  | nil => rfl
  | cons x xs ih => rw [List.foldl_cons, ih, countStage_byte]

/-- A staging set kept from a clear of die `d` went to that die. -/
theorem die_of_mem_stagedNow {p : Pkg} {d : Nat} {x : Nat × QuenchStage} (h : x ∈ (p.stagedNow d).1) : x.2.die = d :=
  eq_of_beq (List.mem_filter.1 ((sameCycle_sublist _ _).subset h)).2

/-- The clear of the quench counters touches them alone, whatever it keeps (R157, R158). -/
theorem arrQcntClr_reg (p : Pkg) (e : Env) (src : Source) (d : Nat) {k : Nat} (hk : k ∉ quenchCounters d) :
    (arrQcntClr src d e p).reg k = p.reg k := by
  unfold arrQcntClr
  dsimp only
  rw [foldl_reg _ _ _ (fun q x hx => countStage_reg q x.2 (die_of_mem_stagedNow hx ▸ hk)), reg_zeroRegs, if_neg hk]
  rfl

theorem arrQcntClr_byte (p : Pkg) (e : Env) (src : Source) (d a : Nat) : (arrQcntClr src d e p).byte a = p.byte a := by
  unfold arrQcntClr
  dsimp only
  rw [foldl_countStage_byte, zeroRegs_byte]
  rfl

/-- With no staging set of the beat for the die there is nothing to keep (R158). -/
theorem stagedNow_of_none {p : Pkg} {d : Nat} (h : p.stageCycle.filter (fun x => x.2.die == d) = []) : p.stagedNow d = ([], p) := by
  unfold Pkg.stagedNow
  rw [h, sameCycle_nil]

theorem arrQcntClr_of_none {p : Pkg} {d : Nat} (h : p.stageCycle.filter (fun x => x.2.die == d) = []) (src : Source) (e : Env) :
    arrQcntClr src d e p = p.zeroRegs (quenchCounters d) := by
  unfold arrQcntClr
  rw [stagedNow_of_none h]
  rfl

theorem arrQhistClr_of_none {p : Pkg} {d : Nat} (h : p.stageCycle.filter (fun x => x.2.die == d) = []) (src : Source) (mask : Nat) (e : Env) :
    arrQhistClr src d mask e p = p.zeroRegs (((List.range 8).filter (fun c => mask.testBit c)).flatMap (fun c =>
      (List.range 32).map (fun b => Reg.ARR_SHADOW_HIST d (32 * c + b)))) := by
  unfold arrQhistClr
  rw [stagedNow_of_none h, List.flatMap_def]
  rfl

/-- A command that zeroes registers leaves the others, memory and the block. -/
theorem answers_of_zeroRegs {c : Instr} {s : State} {ks : List Nat} (h : Becomes c s (s.pkg.zeroRegs ks)) :
    Answers c s (fun t => (∀ r ∈ ks, t.pkg.reg r = 0) ∧ KeepsRegs ks s t ∧ KeepsMem s t ∧ KeepsBlock s t) :=
  h.answers ⟨fun _ hr => (reg_zeroRegs ..).trans (if_pos hr), fun _ hk => (reg_zeroRegs ..).trans (if_neg hk),
    fun a => zeroRegs_byte s.pkg ks a, lift_keeps s _⟩

/-! ### The undercoat takes a staged register (R558, R560) -/

/-- What the undercoat holds for a register depends on the undercoat alone. -/
theorem stagedAt_congr {p q : Pkg} (h : q.staged = p.staged) (key : Nat) : q.stagedAt key = p.stagedAt key := by
  unfold Pkg.stagedAt
  rw [h]

/-- Where the undercoat holds a register, an entry put for it takes the place of the one it holds. -/
theorem find?_key_replaced {xs : List Staged} {x : Staged} (h : (xs.find? (fun s => s.key == x.key)).isSome = true) :
    (xs.map (fun s => if s.key = x.key then x else s)).find? (fun s => s.key == x.key) = some x := by
  induction xs with
  | nil => exact absurd h (by simp)
  | cons y ys ih =>
    by_cases hy : y.key = x.key
    · simp [hy]
    · simp only [List.find?_cons, List.map_cons, hy, if_false, beq_eq_false_iff_ne.2 hy] at h ⊢
      exact ih h

/-- A register put into the undercoat is what it then holds for it. -/
theorem stagedAt_putStaged (p : Pkg) (x : Staged) : (p.putStaged [x]).stagedAt x.key = some x := by
  unfold Pkg.putStaged
  rw [List.foldl_cons, List.foldl_nil]
  split
  case isTrue h => exact find?_key_replaced h
  case isFalse h =>
    show List.find? _ (p.staged ++ [x]) = _
    rw [List.find?_append, show p.staged.find? (fun s => s.key == x.key) = none by simpa [Pkg.stagedAt] using h]
    simp

theorem putStaged_reg (p : Pkg) (xs : List Staged) (k : Nat) : (p.putStaged xs).reg k = p.reg k :=
  foldl_reg xs _ k (fun q x _ => by split <;> rfl) p

theorem putStaged_one_byte (p : Pkg) (x : Staged) (a : Nat) : (p.putStaged [x]).byte a = p.byte a := by
  unfold Pkg.putStaged
  rw [List.foldl_cons, List.foldl_nil]
  split <;> rfl

/-- One register is at most one more. -/
theorem newStaged_one_le (p : Pkg) (x : Staged) : p.newStaged [x] ≤ 1 := by
  unfold Pkg.newStaged
  rw [List.foldl_cons, List.foldl_nil]
  split
  · exact Nat.zero_le 1
  · exact Nat.le_refl 1

/-- A mailbox stages one register where there is room: the undercoat opens with it as holder, and one generation passes. -/
structure StagesOne (p q : Pkg) (m : Nat) (x : Staged) : Prop where
  held : q.stagedAt x.key = some x
  opened : q.ucState = ucOpen
  holder : q.ucHolder = m % 16
  generation : q.regNat Reg.MGT_UC_GEN = (p.regNat Reg.MGT_UC_GEN + 1) % 2 ^ 32
  regs : ∀ k, k ∉ [Reg.MGT_UC_STATUS, Reg.MGT_UC_GEN] → q.reg k = p.reg k
  bytes : ∀ a, q.byte a = p.byte a

/-- The package after a staging. -/
def Pkg.opensFor (p : Pkg) (e : Env) (m : Nat) (xs : List Staged) : Pkg :=
  { ((((p.putStaged xs).setFld Reg.MGT_UC_STATUS Fld.MGT_UC_STATE ucOpen).setFld Reg.MGT_UC_STATUS Fld.MGT_UC_HOLDER m).nextGen) with ucSince := e.hall }

theorem stage_eq {p : Pkg} {xs : List Staged} (h : p.staged.length + p.newStaged xs ≤ 4096) (e : Env) (m : Nat) :
    p.stage e m xs = some (p.opensFor e m xs) := if_neg (Nat.not_lt.2 h)

theorem opensFor_reg (p : Pkg) (e : Env) (m : Nat) (xs : List Staged) {k : Nat} (hk : k ∉ [Reg.MGT_UC_STATUS, Reg.MGT_UC_GEN]) :
    (p.opensFor e m xs).reg k = p.reg k := by
  simp only [List.mem_cons, List.not_mem_nil, or_false, not_or] at hk
  show (Pkg.nextGen _).reg k = _
  rw [Pkg.nextGen, setNat_reg_ne _ _ _ _ hk.2, setFld_reg_ne _ _ _ _ _ hk.1, setFld_reg_ne _ _ _ _ _ hk.1, putStaged_reg]

theorem opensFor_status (p : Pkg) (e : Env) (m : Nat) (xs : List Staged) : (p.opensFor e m xs).reg Reg.MGT_UC_STATUS =
    (((p.putStaged xs).setFld Reg.MGT_UC_STATUS Fld.MGT_UC_STATE ucOpen).setFld Reg.MGT_UC_STATUS Fld.MGT_UC_HOLDER m).reg Reg.MGT_UC_STATUS :=
  setNat_reg_ne _ _ _ _ (by decide)

theorem opensFor_ucState (p : Pkg) (e : Env) (m : Nat) (xs : List Staged) : (p.opensFor e m xs).ucState = ucOpen := by
  rw [Pkg.ucState, fld_eq, opensFor_status, ← fld_eq, fld_setFld_ne _ _ _ _ _ (by decide) (by decide), fld_setFld _ _ _ _ (by decide)]
  decide

theorem opensFor_ucHolder (p : Pkg) (e : Env) (m : Nat) (xs : List Staged) : (p.opensFor e m xs).ucHolder = m % 16 := by
  rw [Pkg.ucHolder, fld_eq, opensFor_status, ← fld_eq, fld_setFld _ _ _ _ (by decide)]
  rfl

theorem opensFor_gen (p : Pkg) (e : Env) (m : Nat) (xs : List Staged) :
    (p.opensFor e m xs).regNat Reg.MGT_UC_GEN = (p.regNat Reg.MGT_UC_GEN + 1) % 2 ^ 32 := by
  have hreg : (((p.putStaged xs).setFld Reg.MGT_UC_STATUS Fld.MGT_UC_STATE ucOpen).setFld Reg.MGT_UC_STATUS Fld.MGT_UC_HOLDER m).regNat Reg.MGT_UC_GEN =
      p.regNat Reg.MGT_UC_GEN := by
    rw [regNat_eq, setFld_reg_ne _ _ _ _ _ (by decide), setFld_reg_ne _ _ _ _ _ (by decide), putStaged_reg, regNat_eq]
  show (Pkg.nextGen _).regNat Reg.MGT_UC_GEN = _
  rw [Pkg.nextGen, hreg, regNat_eq, setNat_eq, reg_setReg, if_pos rfl, BitVec.toNat_ofNat]
  omega

theorem opensFor_staged (p : Pkg) (e : Env) (m : Nat) (xs : List Staged) : (p.opensFor e m xs).staged = (p.putStaged xs).staged := rfl

theorem opensFor_one (p : Pkg) (e : Env) (m : Nat) (x : Staged) : StagesOne p (p.opensFor e m [x]) m x where
  held := (stagedAt_congr (opensFor_staged ..) _).trans (stagedAt_putStaged p x)
  opened := opensFor_ucState ..
  holder := opensFor_ucHolder ..
  generation := opensFor_gen ..
  regs _ hk := opensFor_reg _ _ _ _ hk
  bytes := putStaged_one_byte p x

/-! ### A whole write of a register of ST fields (R559) -/

/-- The ST fields of a 32-bit register lie in its 32 bits. -/
theorem stMask_narrow_rows (die : Nat) :
    (regsOfDie die ++ headerRegs).all (fun s => s.bytes != 4 || s.stMask &&& ~~~BitVec.ofNat 64 (2 ^ 32 - 1) == 0) = true := by
  unfold regsOfDie
  split_ifs <;> decide +kernel

theorem stMask_narrow {off : Nat} {h : RegHit} (hfind : findReg off = some h) (hbytes : h.spec.bytes = 4) :
    h.spec.stMask &&& ~~~BitVec.ofNat 64 (2 ^ 32 - 1) = 0 := by
  have hrow := List.all_eq_true.1 (stMask_narrow_rows _) _ (mem_of_findReg hfind)
  simpa [hbytes] using hrow

/-- Beyond a register's own bytes the word as staged is the word in effect. -/
theorem heldWord_beyond {off : Nat} {h : RegHit} (hfind : findReg off = some h) (hbytes : h.spec.bytes = 4 ∨ h.spec.bytes = 8) (p : Pkg) :
    p.heldWord h &&& ~~~BitVec.ofNat 64 (2 ^ (8 * h.spec.bytes) - 1) = p.reg h.key &&& ~~~BitVec.ofNat 64 (2 ^ (8 * h.spec.bytes) - 1) := by
  rcases hbytes with hbytes | hbytes
  · have hst := stMask_narrow hfind hbytes
    unfold Pkg.heldWord
    split
    · rename_i x _
      rw [hbytes]
      generalize h.spec.stMask = st at hst
      generalize ~~~BitVec.ofNat 64 (2 ^ (8 * 4) - 1) = above at hst ⊢
      ext i hi
      have hbit : (st.getLsbD i && above.getLsbD i) = false := by rw [← BitVec.getLsbD_and, hst]; exact BitVec.getLsbD_zero
      cases hs : st.getLsbD i with
      | false => simp [← BitVec.getLsbD_eq_getElem, hs, hi]
      | true => simp [← BitVec.getLsbD_eq_getElem, show above.getLsbD i = false by simpa [hs] using hbit]
    · rfl
  · rw [hbytes]
    simp


/-- The word that the ST fields of a register have: as staged, or as in effect. -/
def Pkg.stagedWord (p : Pkg) (key : Nat) : W64 := match p.stagedAt key with | some x => x.value | none => p.reg key

section
variable {p q : Pkg} (h : ∀ k, q.reg k = p.reg k)
include h

/-- Who a source acts for, the complex's state and the undercoat's holder depend on the registers alone. -/
theorem principalOf_congr (src : Source) : q.principalOf src = p.principalOf src := by
  have hbind (m : Nat) : q.bindNames m src = p.bindNames m src := by simp only [Pkg.bindNames, on_eq, fld_eq, h]
  simp only [Pkg.principalOf, hbind]

theorem complexUp_congr : q.complexUp = p.complexUp := by simp only [Pkg.complexUp, fld_eq, h]

theorem mayStage_congr (m : Nat) : q.mayStage m = p.mayStage m := by simp only [Pkg.mayStage, Pkg.ucState, Pkg.ucHolder, fld_eq, h]

end

section
variable {p : Pkg} {src : Source} {off : Nat} {h : RegHit} {full : W64}

/-- Equal ST bits stage nothing (R559). -/
theorem stagePart_of_equal (heq : full &&& h.spec.stMask = p.stagedWord h.key &&& h.spec.stMask) (e : Env) : p.stagePart e src off h full = p := if_pos heq

/-- Others are staged for the source's principal where it may stage and there is room (R559). -/
theorem stagePart_of_differing (hne : full &&& h.spec.stMask ≠ p.stagedWord h.key &&& h.spec.stMask) (hengine : ∀ d, src ≠ .engine d)
    (hfabric : ∀ l, src ≠ .fabric l) {m : Nat} (hprincipal : p.principalOf src = some m) (hup : p.complexUp = true) (hmay : p.mayStage m = true)
    (hroom : p.staged.length < 4096) (e : Env) : p.stagePart e src off h full = p.opensFor e m [⟨off, h.spec.bytes, full, false⟩] := by
  have hstage := stage_eq (m := m) (Nat.le_trans (Nat.add_le_add_left (newStaged_one_le p ⟨off, h.spec.bytes, full, false⟩) _) hroom) e
  cases src with
  | engine d => exact absurd rfl (hengine d)
  | fabric l => exact absurd rfl (hfabric l)
  | core | pcie =>
    refine (if_neg hne).trans ?_
    simp only [hprincipal, hup, hmay, Bool.and_self, if_true, hstage]

variable (hrw : h.spec.rwMask = 0) (hw1c : h.spec.w1cMask = 0) (hlk : h.spec.lkMask = 0) (hwo : h.spec.mask (fun a => a == .woLk) = 0)
include hrw hw1c hlk hwo

/-- A register of ST fields alone stages the written word and keeps its own (R559). -/
theorem writeFields_of_st (e : Env) (v : W64) : p.writeFields e src off h full v = (p.setReg h.key (p.reg h.key)).stagePart e src off h full := by
  have hplain := plainWord_of_masks ⟨hrw, hw1c⟩ (p.reg h.key) full v
  unfold RegSpec.plainWord at hplain
  unfold Pkg.writeFields
  dsimp only
  rw [hplain, hlk, hwo]
  simp only [BitVec.ofNat_eq_ofNat, BitVec.or_zero, BitVec.and_zero, BitVec.not_zero, BitVec.and_allOnes, if_true]

/-- Written whole, with no later write of the beat in its way, it stages its word with the written bytes in place. -/
theorem writeReg_of_st {value : Nat} (hfind : findReg off = some h) (hlane : regLane h off = 0) (hbytes : h.spec.bytes = 4 ∨ h.spec.bytes = 8)
    (hname : h.spec.name ∉ actingRegs) (hcalm : p.calm (sourceDie src off) h.key = true) (e : Env) :
    ∃ cy, p.writeReg e src off h.spec.bytes value h =
      { (p.setReg h.key (p.reg h.key)).stagePart e src off h (h.fullWord (p.reg h.key) value) with cycle := cy } := by
  unfold Pkg.writeReg
  simp only [hlane, Nat.mul_zero, Nat.shiftLeft_zero, List.contains_iff_mem, not_mem_selfOrdered hname, if_false, actReg_of_not_acting hname,
    hardware_filter_of_calm hcalm, sameCycle_nil, List.foldl_nil, inOrder_of_calm hcalm, heldWord_beyond hfind hbytes,
    writeFields_of_st hrw hw1c hlk hwo]
  exact ⟨_, rfl⟩

end

/-- STAGING_WRITE of a register with ST fields is a write of the register (R559). -/
theorem becomes_stagingWrite {s : State} {src : Source} {off width value : Nat} {h : RegHit} (hwork : s.pkg.working = true)
    (hreach : s.pkg.reaches src = true) (hfind : findReg off = some h) (hst : h.spec.stMask ≠ 0)
    (hcore : ∀ g, src = .core g → hostMmioOk off width = true) :
    Becomes (.stagingWrite src off width value) s (s.pkg.mmioWrite s.env src off width value) := by
  refine becomes_work (if_pos hreach) hwork ?_
  simp only [hfind, if_neg hst]
  exact registerWrite_admitted hcore value s.env s.pkg

/-! ### Timed releases (R464) -/

/-- Arming sets the arm, and the mark of lateness where the beat has passed. -/
theorem armRelease_on (p : Pkg) (e : Env) (c : Nat) : (p.armRelease e c).on (Reg.TIM_CTX_CFG c) Fld.TIM_REL_ARM = true := by
  unfold Pkg.armRelease
  dsimp only
  split
  · rw [on_eq, ← fld_eq, fld_setFld_ne _ _ _ _ _ (by decide) (by decide), fld_setFld _ _ _ _ (by decide)]
    decide
  · exact on_setFld_one _ _ _ (by decide) (by decide)

theorem armRelease_late (p : Pkg) (e : Env) (c : Nat) : (p.armRelease e c).on (Reg.TIM_CTX_CFG c) Fld.TIM_REL_LATE =
    (p.on (Reg.TIM_CTX_CFG c) Fld.TIM_REL_LATE || decide (ceilDiv (p.regNat (Reg.TIM_REL_AT c)) 16 ≤ e.clock.beat)) := by
  unfold Pkg.armRelease
  dsimp only
  split
  case isTrue hlate => rw [on_setFld_one _ _ _ (by decide) (by decide), hlate, Bool.or_true]
  case isFalse hlate =>
    rw [Bool.eq_false_iff.2 hlate, Bool.or_false, on_eq, ← fld_eq, fld_setFld_ne _ _ _ _ _ (by decide) (by decide), fld_eq, ← on_eq]

theorem armRelease_reg (p : Pkg) (e : Env) (c : Nat) {k : Nat} (hk : k ≠ Reg.TIM_CTX_CFG c) : (p.armRelease e c).reg k = p.reg k := by
  unfold Pkg.armRelease
  dsimp only
  split
  · rw [setFld_reg_ne _ _ _ _ _ hk, setFld_reg_ne _ _ _ _ _ hk]
  · exact setFld_reg_ne _ _ _ _ _ hk

theorem armRelease_byte (p : Pkg) (e : Env) (c a : Nat) : (p.armRelease e c).byte a = p.byte a := by
  unfold Pkg.armRelease
  dsimp only
  split <;> rfl

/-- An armed release is due when its beat has come (R464). -/
theorem releaseDue_iff (p : Pkg) (e : Env) (c : Nat) :
    p.releaseDue e c = true ↔ p.on (Reg.TIM_CTX_CFG c) Fld.TIM_REL_ARM = true ∧ ceilDiv (p.regNat (Reg.TIM_REL_AT c)) 16 ≤ e.tag := by
  simp only [Pkg.releaseDue, Bool.and_eq_true, decide_eq_true_eq]

/-- No flag is a context's release register. -/
theorem flag_ne_release {c n : Nat} (_hc : c < 8) (_hn : n < 4096) : Reg.DSP_FLAG c n ≠ Reg.TIM_CTX_CFG c := by
  unfold Reg.DSP_FLAG Reg.TIM_CTX_CFG
  omega

/-- An addition to a flag leaves every other register and memory. -/
theorem addFlag_reg (p : Pkg) (die c n inc : Nat) {k : Nat} (hk : k ≠ Reg.DSP_FLAG c n) : (p.addFlag die c n inc).reg k = p.reg k := by
  obtain ⟨xs, free, fc, -, heq⟩ := addFlag_eq p die c n inc
  rw [heq]
  show (if xs.isEmpty then _ else p).reg k = _
  split
  · rw [addReg_eq, reg_setReg, if_neg hk]
  · rfl

theorem addFlag_byte (p : Pkg) (die c n inc a : Nat) : (p.addFlag die c n inc).byte a = p.byte a := by
  obtain ⟨xs, free, fc, -, heq⟩ := addFlag_eq p die c n inc
  rw [heq]
  show (if xs.isEmpty then _ else p).byte a = _
  split <;> rfl

/-- With all flag changes above it additions, none of them is a set. -/
theorem sets_of_all_adds {xs : List FlagChange} (h : xs.all (fun x => !x.set) = true) : xs.filter (fun y => y.set) = [] :=
  List.filter_eq_nil_iff.2 (fun x hx hset => by simpa [hset] using List.all_eq_true.1 h x hx)

end Sys2Proof.Machine

namespace Sys2Proof

open Machine

/-- Settles O6: each clear zeroes its list of registers; the clear of the quench counters keeps what its cycle staged, in those registers alone. -/
theorem counterClears : Obligations.CounterClears := by
  unfold Obligations.CounterClears
  intro s src d h k x mask hwork hreach clears
  have hzero {c : Instr} {ks : List Nat} (hexec : exec c s = s.through src (s.work .none (fun _ p => p.zeroRegs ks))) : clears c ks :=
    answers_of_zeroRegs (becomes_work (hexec.trans (if_pos hreach)) hwork rfl)
  have hqcnt : Becomes (.arrQcntClr src d) s (arrQcntClr src d s.env s.pkg) := becomes_work (if_pos hreach) hwork rfl
  have hqhist : Becomes (.arrQhistClr src d mask) s (arrQhistClr src d mask s.env s.pkg) := becomes_work (if_pos hreach) hwork rfl
  refine ⟨hzero rfl, fun hnone => ⟨?_, ?_⟩, ?_, hzero rfl, hzero rfl, hzero rfl, hzero rfl, hzero rfl, hzero rfl, hzero rfl, ?_, hzero rfl⟩
  · exact answers_of_zeroRegs (arrQcntClr_of_none hnone src s.env ▸ hqcnt)
  · exact answers_of_zeroRegs (arrQhistClr_of_none hnone src mask s.env ▸ hqhist)
  · exact hqcnt.answers ⟨fun _ hk => arrQcntClr_reg _ _ _ _ hk, fun a => arrQcntClr_byte _ _ _ _ a, lift_keeps s _⟩
  · exact answers_of_zeroRegs (becomes_any (if_pos hreach) rfl)

/-- Settles O13: the write leaves the register its word and stages what differs. -/
theorem stagingWrites : Obligations.StagingWrites := by
  unfold Obligations.StagingWrites
  intro s src off value m h hwork hreach hcalm hfind hlane hbytes hname hst hrw hw1c hlk hwo hcore p old full base
  have hsame (k : Nat) : (p.setReg h.key old).reg k = p.reg k := reg_setReg_self p h.key k
  obtain ⟨cy, hwrite⟩ := writeReg_of_st (value := value) hrw hw1c hlk hwo hfind hlane hbytes hname hcalm s.env
  have hbec := becomes_stagingWrite (value := value) hwork hreach hfind hst hcore
  rw [mmioWrite_whole hfind hlane, hwrite] at hbec
  have hbase : (p.setReg h.key old).stagedWord h.key = base := by
    unfold Pkg.stagedWord
    rw [hsame]
    rfl
  refine ⟨fun hne hengine hfabric hprincipal hup hmay hroom => ?_, fun heq => ?_⟩
  · rw [stagePart_of_differing (by rw [hbase]; exact hne) hengine hfabric ((principalOf_congr hsame src).trans hprincipal)
      ((complexUp_congr hsame).trans hup) ((mayStage_congr hsame m).trans hmay) hroom] at hbec
    have hone := opensFor_one (p.setReg h.key old) s.env m ⟨off, h.spec.bytes, full, false⟩
    have hkey : Staged.key ⟨off, h.spec.bytes, full, false⟩ = h.key := by simp only [Staged.key, hfind]
    have hheld := hone.held
    rw [hkey] at hheld
    exact hbec.answers ⟨hheld, hone.opened, hone.holder, hone.generation.trans (by rw [regNat_eq, hsame, regNat_eq]),
      fun k hk => (hone.regs k hk).trans (hsame k), hone.bytes, lift_keeps s _⟩
  · rw [stagePart_of_equal (by rw [hbase]; exact heq)] at hbec
    exact hbec.answers ⟨rfl, fun k _ => hsame k, fun _ => rfl, lift_keeps s _⟩

/-- Settles O16: the release's register is none of the flags, and no set of a higher-numbered die overwrites the addition. -/
theorem timedReleases : Obligations.TimedReleases := by
  unfold Obligations.TimedReleases
  intro s src c hwork hreach p k beat flag
  have harm : Becomes (.timedReleaseArm src c) s
      (if p.isOwner src (some c.val) then p.armRelease s.env c.val else p.refuse 30 1 src (Reg.TIM_CTX_CFG c.val) 0x80000000) :=
    becomes_work (if_pos hreach) hwork rfl
  have hrelease : Becomes (.timedRelease c) s (timedRelease c s.env p) := becomes_work rfl hwork rfl
  refine ⟨fun howner => ?_, fun hother => ?_, fun harmed hdue hadds => ?_, fun hidle => ?_⟩
  · rw [if_pos howner] at harm
    exact harm.answers ⟨armRelease_on .., armRelease_late .., fun j hj => armRelease_reg _ _ _ (by simpa using hj), armRelease_byte _ _ _, lift_keeps s _⟩
  · rw [if_neg (by simp [hother])] at harm
    exact harm.answers ⟨fun j _ => refuse_reg p 30 1 src (Reg.TIM_CTX_CFG c) 0x80000000 j (by decide),
      refuse_byte p 30 1 src (Reg.TIM_CTX_CFG c) 0x80000000, lift_keeps s _⟩
  · have hne := flag_ne_release c.isLt (fld_lt p k Fld.TIM_REL_FLAG)
    have heq : timedRelease c s.env p = (p.addFlag 30 c flag 1).setFld k Fld.TIM_REL_ARM 0 :=
      if_pos ((releaseDue_iff p s.env c).2 ⟨harmed, hdue⟩)
    rw [heq] at hrelease
    refine hrelease.answers ⟨?_, on_setFld_zero _ _ _ (by decide), fun j hj => ?_, fun a => addFlag_byte _ _ _ _ _ a, lift_keeps s _⟩
    · exact (congrArg BitVec.toNat (setFld_reg_ne _ _ _ _ _ hne)).trans (flag_addFlag_first (sets_of_all_adds hadds))
    · simp only [List.mem_cons, List.not_mem_nil, or_false, not_or] at hj
      exact (setFld_reg_ne _ _ _ _ _ hj.2).trans (addFlag_reg _ _ _ _ _ hj.1)
  · refine hrelease.of_eq (if_neg (fun htrue => ?_))
    obtain ⟨harmed, hdue⟩ := (releaseDue_iff p s.env c).1 htrue
    exact hidle.elim (fun hoff => Bool.false_ne_true (hoff.symm.trans harmed)) (Nat.not_lt.2 hdue)

end Sys2Proof

/-! SUPPORT. What the package shows of a beat: its counts, records and messages touch nothing else. Hall time and lock-step pairs (R455 to R460, R475, R476). -/

namespace Sys2Proof.Machine

/-! ### Registers, records and messages -/

/-- The package without its registers and without the records and messages of the beat. -/
def Pkg.inner (p : Pkg) : Pkg := { p with regs := [], raised := [], irqs := [] }

section
variable (p : Pkg)

@[simp] theorem setReg_inner (k : Nat) (w : W64) : (p.setReg k w).inner = p.inner := rfl
@[simp] theorem setFld_inner (k : Nat) (f : Field) (v : Nat) : (p.setFld k f v).inner = p.inner := rfl
@[simp] theorem setNat_inner (k v : Nat) : (p.setNat k v).inner = p.inner := rfl
@[simp] theorem addReg_inner (k n : Nat) : (p.addReg k n).inner = p.inner := rfl
@[simp] theorem record_inner (die unit kind detail : Nat) (data : List Byte) : (p.record die unit kind detail data).inner = p.inner := rfl

@[simp] theorem bump_inner (ctrl : Nat) (f : Field) (k n : Nat) : (p.bump ctrl f k n).inner = p.inner := by
  unfold Pkg.bump
  split <;> rfl

@[simp] theorem raiseIrq_inner (cls die src : Nat) : (p.raiseIrq cls die src).inner = p.inner := by
  unfold Pkg.raiseIrq
  dsimp only
  split <;> rfl

/-- An event that owes its unit no test is counted and recorded. -/
theorem event_inner {cls : Nat} (h : cls ≠ 8) (die unit kind detail : Nat) (data : List Byte) : (p.event cls die unit kind detail data).inner = p.inner := by
  unfold Pkg.event
  dsimp only
  rw [if_neg h]
  split
  · exact bump_inner { p with raised := _ } ..
  · rfl

end

/-- A byte of memory depends on memory alone. -/
theorem byte_of_mem {p q : Pkg} (h : q.mem = p.mem) (a : Nat) : q.byte a = p.byte a := by
  simp only [Pkg.byte, h]

/-! ### Hall time (R455 to R460) -/

/-- A reference that arrives outside holdover locks the package and changes nothing else (R457, R459). -/
theorem lockTime_of_locked {p : Pkg} (h : p.fld Reg.TIM_STATUS Fld.TIM_LOCK ≠ 2) (e : Env) (off : Int) :
    p.lockTime e off = ({ p with time := { p.time with heard := e.hall } } : Pkg).setFld Reg.TIM_STATUS Fld.TIM_LOCK 1 := by
  unfold Pkg.lockTime
  dsimp only
  rw [if_neg h]

/-- A reference locks the package, whatever came before (R460). -/
theorem lockTime_lock (p : Pkg) (e : Env) (off : Int) : (p.lockTime e off).fld Reg.TIM_STATUS Fld.TIM_LOCK = 1 := fld_setFld _ _ _ _ (by decide)

theorem lockTime_inner (p : Pkg) (e : Env) (off : Int) : (p.lockTime e off).inner = { p.inner with time := { p.time with heard := e.hall } } := by
  unfold Pkg.lockTime
  dsimp only
  split
  · rw [setFld_inner, raiseIrq_inner, event_inner _ (by decide)]
    rfl
  · rfl

/-- The time that a beacon gives. -/
def Pkg.beaconHall (p : Pkg) (port value : Nat) : Nat := (value + (assoc? p.fab.delays port).getD 0) % 2 ^ 64

/-- A beacon steps a package that takes it, has not begun and has no enabled queue (R455). -/
theorem steppedTo_of_begins {p : Pkg} {port value : Nat} (htakes : p.takesBeacon port = true) (hbegun : p.time.begun = false)
    (hquiet : p.anyEnabled = false) : p.steppedTo port value = some (p.beaconHall port value) := by
  unfold Pkg.steppedTo
  rw [htakes, hbegun, hquiet]
  rfl

theorem steppedTo_of_running {p : Pkg} {port value : Nat} (h : p.time.begun = true ∨ p.anyEnabled = true) : p.steppedTo port value = none := by
  unfold Pkg.steppedTo
  refine if_neg ?_
  rcases h with h | h <;> simp [h]

theorem steppedTo_of_other {p : Pkg} {port value : Nat} (h : p.takesBeacon port = false) : p.steppedTo port value = none := by
  unfold Pkg.steppedTo
  exact if_neg (by simp [h])

theorem takeBeacon_inner (p : Pkg) (e : Env) (port value : Nat) : (p.takeBeacon e port value).inner =
    { p.inner with time := { p.time with heard := e.hall, begun := true, forward := true } } := by
  have hlock := lockTime_inner (((p.setNat Reg.TIM_OFFSET (sat32 ((e.hall : Int) - (value + (assoc? p.fab.delays port).getD 0 : Nat)))).setFld
    Reg.TIM_STATUS Fld.TIM_PARENT_PORT port).setFld Reg.TIM_STATUS Fld.TIM_PARENT_LOC (p.fld (Reg.FAB_PORT_STATUS port) Fld.FAB_PS_PEER_LOC)) e
    ((e.hall : Int) - (value + (assoc? p.fab.delays port).getD 0 : Nat))
  exact congrArg (fun x : Pkg => { x with time := { x.time with begun := true, forward := true } }) hlock

theorem takeBeacon_lock (p : Pkg) (e : Env) (port value : Nat) : (p.takeBeacon e port value).fld Reg.TIM_STATUS Fld.TIM_LOCK = 1 := lockTime_lock ..

/-- What a package that a beacon steps becomes (R455). -/
def Pkg.steppedBy (p : Pkg) (e : Env) (port value : Nat) : Pkg :=
  let q := (p.takeBeacon e port value).record 30 0 6 3 (leBytes 8 (ofSigned 64 ((e.hall : Int) - p.beaconHall port value)))
  { q with time := { q.time with heard := p.beaconHall port value } }

theorem steppedBy_inner (p : Pkg) (e : Env) (port value : Nat) : (p.steppedBy e port value).inner =
    { p.inner with time := { p.time with heard := p.beaconHall port value, begun := true, forward := true } } :=
  congrArg (fun x : Pkg => { x with time := { x.time with heard := p.beaconHall port value } }) (takeBeacon_inner p e port value)

section
variable {s : State} (hwork : s.pkg.working = true) {port : Fin 36} {value : Nat}
include hwork

/-- BEACON_RECEIVE that steps no hall time. -/
theorem becomes_beaconReceive (hnone : s.pkg.steppedTo port value = none) :
    Becomes (.beaconReceive port value) s (if s.pkg.takesBeacon port then s.pkg.takeBeacon s.env port value else s.pkg) := by
  show execBeaconReceive port value s = _
  have hbody : beaconReceive port value s.env s.pkg = if s.pkg.takesBeacon port then s.pkg.takeBeacon s.env port value else s.pkg := by
    unfold beaconReceive
    cases htakes : s.pkg.takesBeacon port <;> simp [hnone]
  rw [← hbody]
  unfold execBeaconReceive
  simp only [hwork, if_true, hnone, State.lift]
  rfl

/-- The beacon that steps hall time (R455). -/
theorem exec_beaconReceive_stepping (htakes : s.pkg.takesBeacon port = true) (hbegun : s.pkg.time.begun = false) (hquiet : s.pkg.anyEnabled = false) :
    exec (.beaconReceive port value) s =
      .next { s.lift (fun _ _ => s.pkg.steppedBy s.env port value) with clock := ⟨s.pkg.beaconHall port value⟩ } := by
  have hstep := steppedTo_of_begins (value := value) htakes hbegun hquiet
  have hbody : beaconReceive port value s.env s.pkg = s.pkg.steppedBy s.env port value := by
    unfold beaconReceive
    simp only [htakes, hstep]
    rfl
  show execBeaconReceive port value s = _
  rw [← hbody]
  unfold execBeaconReceive
  simp only [hwork, if_true, hstep, State.lift]
  rfl

end

/-- A package enters holdover: it shows and counts it, and raises source 132 (R460). -/
def Pkg.enterHoldover (p : Pkg) (e : Env) : Pkg :=
  let p1 := ((p.setFld Reg.TIM_STATUS Fld.TIM_LOCK 2).addReg Reg.TIM_CNT_HOLDOVER 1).event 12 30 0 6 1
    (leBytes 8 (ofSigned 64 (toSigned 32 (p.regNat Reg.TIM_OFFSET))))
  { p1.raiseIrq 12 30 132 with time := { p1.time with holdSince := e.hall } }

theorem enterHoldover_reg (p : Pkg) (e : Env) (k : Nat) :
    (p.enterHoldover e).reg k = ((p.setFld Reg.TIM_STATUS Fld.TIM_LOCK 2).addReg Reg.TIM_CNT_HOLDOVER 1).reg k := by
  show (Pkg.raiseIrq _ 12 30 132).reg k = _
  rw [raiseIrq_reg, event_reg _ _ _ _ _ _ _ _ (fun h => absurd h (by decide)) (fun h => absurd h (by decide))]

theorem enterHoldover_lock (p : Pkg) (e : Env) : (p.enterHoldover e).fld Reg.TIM_STATUS Fld.TIM_LOCK = 2 := by
  rw [fld_eq, enterHoldover_reg, addReg_eq, reg_setReg, if_neg (by decide), ← fld_eq, fld_setFld _ _ _ _ (by decide)]
  rfl

theorem enterHoldover_count (p : Pkg) (e : Env) :
    (p.enterHoldover e).regNat Reg.TIM_CNT_HOLDOVER = (p.regNat Reg.TIM_CNT_HOLDOVER + 1) % 2 ^ 64 := by
  rw [regNat_eq, enterHoldover_reg, addReg_eq, reg_setReg, if_pos rfl, setFld_reg_ne _ _ _ _ _ (by decide), BitVec.toNat_add, regNat_eq]
  rfl

theorem enterHoldover_other (p : Pkg) (e : Env) {k : Nat} (hk : k ∉ [Reg.TIM_STATUS, Reg.TIM_CNT_HOLDOVER]) : (p.enterHoldover e).reg k = p.reg k := by
  simp only [List.mem_cons, List.not_mem_nil, or_false, not_or] at hk
  rw [enterHoldover_reg, addReg_eq, reg_setReg, if_neg hk.2, setFld_reg_ne _ _ _ _ _ hk.1]

theorem enterHoldover_inner (p : Pkg) (e : Env) : (p.enterHoldover e).inner = { p.inner with time := { p.time with holdSince := e.hall } } := by
  have hevent : (((p.setFld Reg.TIM_STATUS Fld.TIM_LOCK 2).addReg Reg.TIM_CNT_HOLDOVER 1).event 12 30 0 6 1
      (leBytes 8 (ofSigned 64 (toSigned 32 (p.regNat Reg.TIM_OFFSET))))).inner = p.inner := event_inner _ (by decide) ..
  have htime := congrArg Pkg.time hevent
  unfold Pkg.enterHoldover
  dsimp only [Pkg.inner] at htime ⊢
  rw [htime]
  exact congrArg (fun x : Pkg => { x with time := { p.time with holdSince := e.hall } }) ((raiseIrq_inner _ 12 30 132).trans hevent)

/-- No reference for 5 ms, or no edge for 2 s (R460). -/
def Pkg.lostReference (p : Pkg) (e : Env) : Bool :=
  (p.timSrc == srcBeacon && p.time.heard + 5000000 ≤ e.hall) || (p.timSrc == srcPps && p.time.heard + 2000000000 ≤ e.hall)

theorem holdoverEntry_lost {p : Pkg} {e : Env} (hlost : p.lostReference e = true) (hlock : p.fld Reg.TIM_STATUS Fld.TIM_LOCK ≠ 2) :
    holdoverEntry e p = p.enterHoldover e :=
  if_pos (show (p.lostReference e && p.fld Reg.TIM_STATUS Fld.TIM_LOCK != 2) = true by rw [hlost, Bool.true_and, bne_iff_ne]; exact hlock)

theorem holdoverEntry_kept {p : Pkg} {e : Env} (hkept : p.lostReference e = false) : holdoverEntry e p = p :=
  if_neg (show ¬(p.lostReference e && p.fld Reg.TIM_STATUS Fld.TIM_LOCK != 2) = true by rw [hkept]; exact Bool.false_ne_true)

/-! ### Lock-step pairs (R475, R476) -/

/-- A lock-step report is one of registers alone. -/
theorem pairReport_inner (p : Pkg) (kind q seq tile local_ partner hall : Nat) : (p.pairReport kind q seq tile local_ partner hall).inner = p.inner := by
  unfold Pkg.pairReport
  split <;> rfl

theorem pairStop_ctxSt (p : Pkg) (c : Nat) : ((p.pairStop c).ctxSt c).pairStopped = true := by
  unfold Pkg.pairStop
  rw [ctxSt_setCtxSt]

/-- Digests that differ stop the context, and the held descriptor stays held (R475). -/
theorem pairCompare_differ {p : Pkg} {e : Env} {h : PairHeld} {x : PairIn} (hne : h.digest ≠ x.digest) :
    ((p.pairCompare e h x).ctxSt (p.queueCtx h.queue)).pairStopped = true ∧ (p.pairCompare e h x).pairHeld = p.pairHeld.erase h ++ [h] := by
  unfold Pkg.pairCompare
  dsimp only
  rw [if_neg hne]
  exact ⟨pairStop_ctxSt _ _, congrArg Pkg.pairHeld ((pairReport_inner _ _ _ _ _ _ _ _).trans (event_inner _ (by decide) ..))⟩

/-- The queue of a held descriptor that a search by queue finds. -/
theorem queue_of_find? {xs : List PairHeld} {q : Nat} {f : PairHeld → Bool} {h : PairHeld} (hfind : xs.find? (fun x => x.queue == q && f x) = some h) :
    h.queue = q := by
  have hboth := List.find?_some hfind
  simp only [Bool.and_eq_true, beq_iff_eq] at hboth
  exact hboth.1

end Sys2Proof.Machine

namespace Sys2Proof

open Machine

section
variable (s : State) (hwork : s.pkg.working = true)
include hwork

/-- Beacons leave at a multiple of 1 ms alone (R458). -/
theorem answers_beaconSend :
    (s.env.hall % 1000000 ≠ 0 → Becomes .beaconSend s s.pkg) ∧
    (s.env.hall % 1000000 = 0 → s.pkg.isMaster = true → s.pkg.timSrc = 0 → s.pkg.time.sent = [] → Answers .beaconSend s (fun t =>
      t.pkg.time.sent = (rangeFilter 36 s.pkg.portUp).map (fun x => (x, s.env.hall)) ∧ KeepsRegs [] s t ∧ KeepsMem s t ∧ KeepsBlock s t)) ∧
    (s.env.hall % 1000000 = 0 → s.pkg.isMaster = false → s.pkg.timSrc = 1 → s.pkg.time.forward = true → Answers .beaconSend s (fun t =>
      t.pkg.time.sent = s.pkg.time.sent ++ (rangeFilter 36 (fun x => s.pkg.portUp x && s.pkg.parentPort != some x)).map (fun x => (x, s.env.hall)) ∧
      t.pkg.time.forward = false ∧ KeepsRegs [] s t ∧ KeepsMem s t ∧ KeepsBlock s t)) := by
  have hbec : Becomes .beaconSend s (beaconSend s.env s.pkg) := becomes_work rfl hwork rfl
  refine ⟨fun hoff => hbec.of_eq (if_pos hoff), fun hon hmaster hsrc hsent => ?_, fun hon hmaster hsrc hforward => ?_⟩
  · have hbody : beaconSend s.env s.pkg = s.pkg.sendBeacons s.env.hall (rangeFilter 36 s.pkg.portUp) := by
      unfold beaconSend
      simp [hon, hmaster, hsrc, hsent]
    refine (hbec.of_eq hbody).answers ⟨?_, fun _ _ => rfl, fun _ => rfl, lift_keeps s _⟩
    show s.pkg.time.sent ++ _ = _
    rw [hsent, List.nil_append]
  · have hbody : beaconSend s.env s.pkg =
        let q := s.pkg.sendBeacons s.env.hall (rangeFilter 36 (fun x => s.pkg.portUp x && s.pkg.parentPort != some x))
        { q with time := { q.time with forward := false } } := by
      unfold beaconSend
      simp [hon, hmaster, hsrc, hforward]
    exact (hbec.of_eq hbody).answers ⟨rfl, rfl, fun _ _ => rfl, fun _ => rfl, lift_keeps s _⟩

/-- An edge disciplines a package under PPS alone (R457). -/
theorem answers_ppsEdge (off : Int) :
    (s.pkg.timSrc = 2 → s.pkg.fld Reg.TIM_STATUS Fld.TIM_LOCK ≠ 2 → Answers (.ppsEdge off) s (fun t =>
      t.pkg.fld Reg.TIM_STATUS Fld.TIM_LOCK = 1 ∧ t.pkg.time.heard = s.env.hall ∧ KeepsRegs [Reg.TIM_STATUS] s t ∧ KeepsMem s t ∧ KeepsBlock s t)) ∧
    (s.pkg.timSrc ≠ 2 → Becomes (.ppsEdge off) s s.pkg) := by
  have hbec : Becomes (.ppsEdge off) s (ppsEdge off s.env s.pkg) := becomes_work rfl hwork rfl
  refine ⟨fun hsrc hlock => ?_, fun hsrc => hbec.of_eq (if_neg hsrc)⟩
  refine (hbec.of_eq ((if_pos hsrc).trans (lockTime_of_locked hlock s.env off))).answers
    ⟨fld_setFld _ _ _ _ (by decide), rfl, fun k hk => setFld_reg_ne _ _ _ _ _ (by simpa using hk), fun _ => rfl, lift_keeps s _⟩

/-- Holdover begins when the reference has been absent for its time, and not before (R460). -/
theorem answers_holdoverEntry :
    ((s.pkg.timSrc = 1 ∧ s.pkg.time.heard + 5000000 ≤ s.env.hall) ∨ (s.pkg.timSrc = 2 ∧ s.pkg.time.heard + 2000000000 ≤ s.env.hall) →
      s.pkg.fld Reg.TIM_STATUS Fld.TIM_LOCK ≠ 2 → Answers .holdoverEntry s (fun t => t.pkg.fld Reg.TIM_STATUS Fld.TIM_LOCK = 2 ∧
        t.pkg.time.holdSince = s.env.hall ∧ t.pkg.regNat Reg.TIM_CNT_HOLDOVER = (s.pkg.regNat Reg.TIM_CNT_HOLDOVER + 1) % 2 ^ 64 ∧
        (∃ m ∈ t.pkg.irqs, m.src = 132) ∧ KeepsRegs [Reg.TIM_STATUS, Reg.TIM_CNT_HOLDOVER] s t ∧ KeepsMem s t ∧ KeepsBlock s t)) ∧
    (s.pkg.timSrc = 0 ∨ s.env.hall < s.pkg.time.heard + 5000000 → Becomes .holdoverEntry s s.pkg) := by
  have hbec : Becomes .holdoverEntry s (holdoverEntry s.env s.pkg) := becomes_work rfl hwork rfl
  refine ⟨fun hlost hlock => ?_, fun hkept => ?_⟩
  · have habsent : s.pkg.lostReference s.env = true := by
      rcases hlost with ⟨hsrc, htime⟩ | ⟨hsrc, htime⟩ <;> simp [Pkg.lostReference, hsrc, htime]
    have hmem := congrArg Pkg.mem (enterHoldover_inner s.pkg s.env)
    exact (hbec.of_eq (holdoverEntry_lost habsent hlock)).answers ⟨enterHoldover_lock _ s.env, rfl, enterHoldover_count _ s.env,
      raiseIrq_mem ..,
      fun _ hk => enterHoldover_other _ s.env hk, byte_of_mem (q := s.pkg.enterHoldover s.env) hmem,
      lift_keeps s _⟩
  · have hpresent : s.pkg.lostReference s.env = false := by
      simp only [Pkg.lostReference, Bool.or_eq_false_iff, Bool.and_eq_false_iff, beq_eq_false_iff_ne, decide_eq_false_iff_not, srcBeacon, srcPps]
      omega
    exact hbec.of_eq (holdoverEntry_kept hpresent)

/-- What a beacon does at a port (R455, R459). -/
theorem answers_beaconReceive (port : Fin 36) (value : Nat) :
    (s.pkg.takesBeacon port = false → Becomes (.beaconReceive port value) s s.pkg) ∧
    (s.pkg.takesBeacon port = true → s.pkg.time.begun = true ∨ s.pkg.anyEnabled = true →
      Becomes (.beaconReceive port value) s (s.pkg.takeBeacon s.env port value)) ∧
    (s.pkg.takesBeacon port = true → s.pkg.time.begun = false → s.pkg.anyEnabled = false → Answers (.beaconReceive port value) s (fun t =>
      t.clock.hall = (value + (assoc? s.pkg.fab.delays port).getD 0) % 2 ^ 64 ∧ t.pkg.time.heard = t.clock.hall ∧ t.pkg.time.begun = true ∧
      t.pkg.fld Reg.TIM_STATUS Fld.TIM_LOCK = 1 ∧ t.pending = s.pending ∧ KeepsMem s t)) := by
  refine ⟨fun hother => ?_, fun htakes hrunning => ?_, fun htakes hbegun hquiet => ?_⟩
  · exact (becomes_beaconReceive hwork (steppedTo_of_other hother)).of_eq (if_neg (by simp [hother]))
  · exact (becomes_beaconReceive hwork (steppedTo_of_running hrunning)).of_eq (if_pos htakes)
  · have hinner := steppedBy_inner s.pkg s.env port value
    have hmem := congrArg Pkg.mem hinner
    exact ⟨_, exec_beaconReceive_stepping hwork htakes hbegun hquiet, rfl, rfl, congrArg (fun x : Pkg => x.time.begun) hinner,
      takeBeacon_lock s.pkg s.env port value, rfl,
      byte_of_mem (q := s.pkg.steppedBy s.env port value) hmem⟩

/-- What a partner's digest does, and its absence (R475, R476). -/
theorem answers_pairs (q : Fin 64) (seq digest : Nat) (tiles : List Nat) :
    let p := s.pkg
    let x : PairIn := ⟨q, seq, digest, tiles⟩
    let held := p.pairHeld.find? (fun h => h.queue == q.val && h.seq == seq)
    (p.paired (p.queueCtx q) = false → Becomes (.pairDigest q seq digest tiles) s p) ∧
    (p.paired (p.queueCtx q) = true → held = none → Answers (.pairDigest q seq digest tiles) s (fun t =>
      t.pkg.pairIn = p.pairIn ++ [x] ∧ KeepsRegs [] s t ∧ KeepsMem s t ∧ KeepsBlock s t)) ∧
    (∀ h, p.paired (p.queueCtx q) = true → held = some h → h.digest = digest → Becomes (.pairDigest q seq digest tiles) s
      (({ p with pairHeld := p.pairHeld.erase h, pairIn := p.pairIn.erase x } : Pkg).signalsAndIrq h.queue h.desc h.status)) ∧
    (∀ h, p.paired (p.queueCtx q) = true → held = some h → h.digest ≠ digest → Answers (.pairDigest q seq digest tiles) s (fun t =>
      (t.pkg.ctxSt (p.queueCtx q)).pairStopped = true ∧ t.pkg.pairHeld = p.pairHeld.erase h ++ [h])) ∧
    (p.pairHeld.find? (fun h => h.queue == q.val) = none → Becomes (.pairTimeout q) s p) ∧
    (∀ h, p.pairHeld.find? (fun h => h.queue == q.val) = some h →
      let wait := 1000 * p.fld Reg.TIM_PAIR_WAIT Fld.TIM_PAIR_WAIT_US
      (s.env.hall < h.since + wait ∨ (p.ctxSt (p.queueCtx q)).pairStopped = true → Becomes (.pairTimeout q) s p) ∧
      (h.since + wait ≤ s.env.hall → (p.ctxSt (p.queueCtx q)).pairStopped = false → Answers (.pairTimeout q) s (fun t =>
        (t.pkg.ctxSt (p.queueCtx q)).pairStopped = true))) := by
  intro p x held
  have hdigest : Becomes (.pairDigest q seq digest tiles) s (pairDigest q seq digest tiles s.env p) := becomes_work rfl hwork rfl
  have htimeout : Becomes (.pairTimeout q) s (pairTimeout q s.env p) := becomes_work rfl hwork rfl
  have hfound {h : PairHeld} (hpaired : p.paired (p.queueCtx q) = true) (hheld : held = some h) :
      pairDigest q seq digest tiles s.env p = p.pairCompare s.env h x := by
    unfold pairDigest
    simp only [hpaired, Bool.not_true, Bool.false_eq_true, if_false]
    rw [show p.pairHeld.find? (fun h => h.queue == q.val && h.seq == seq) = some h from hheld]
  refine ⟨fun hno => ?_, fun hpaired hnone => ?_, fun h hpaired hheld heq => ?_, fun h hpaired hheld hne => ?_, fun hnone => ?_,
    fun h hheld => ⟨fun hwait => ?_, fun hover hrun => ?_⟩⟩
  · exact hdigest.of_eq (if_pos (by simp [hno]))
  · have hbody : pairDigest q seq digest tiles s.env p = { p with pairIn := p.pairIn ++ [x] } := by
      unfold pairDigest
      simp only [hpaired, Bool.not_true, Bool.false_eq_true, if_false]
      rw [show p.pairHeld.find? (fun h => h.queue == q.val && h.seq == seq) = none from hnone]
    exact (hdigest.of_eq hbody).answers ⟨rfl, fun _ _ => rfl, fun _ => rfl, lift_keeps s _⟩
  · exact hdigest.of_eq ((hfound hpaired hheld).trans (if_pos heq))
  · have hdiffer := pairCompare_differ (p := p) (e := s.env) (x := x) hne
    rw [queue_of_find? hheld] at hdiffer
    exact (hdigest.of_eq (hfound hpaired hheld)).answers hdiffer
  · exact htimeout.of_eq (by simp only [pairTimeout, hnone])
  · refine htimeout.of_eq ?_
    simp only [pairTimeout, hheld]
    refine if_neg ?_
    simp only [Bool.and_eq_true, decide_eq_true_eq, Bool.not_eq_true', not_and, Bool.not_eq_false]
    exact fun hover => hwait.resolve_left (Nat.not_lt.2 hover)
  · have hbody : pairTimeout q s.env p = ((p.event 9 (p.leadDie (p.queueCtx q)) (dspUnit (p.queueCtx q)) 1 0 (leBytes 8 h.seq)).pairReport 2 q h.seq
        0xffffffff h.digest 0 s.env.tagHall).pairStop (p.queueCtx q) := by
      simp only [pairTimeout, hheld]
      exact if_pos (by simp [hover, hrun])
    exact (htimeout.of_eq hbody).answers (pairStop_ctxSt _ _)

end

/-- Settles O51: the clauses of each command as stated above. -/
theorem timeAndPairs : Obligations.TimeAndPairs := by
  unfold Obligations.TimeAndPairs
  refine ⟨fun s hwork => ?_, fun s port value hwork => answers_beaconReceive s hwork port value,
    fun s q seq digest tiles hwork => answers_pairs s hwork q seq digest tiles⟩
  obtain ⟨hoff, hmaster, hforward⟩ := answers_beaconSend s hwork
  obtain ⟨hlost, hkept⟩ := answers_holdoverEntry s hwork
  exact ⟨hoff, hmaster, hforward, fun off => (answers_ppsEdge s hwork off).1, fun off => (answers_ppsEdge s hwork off).2, hlost, hkept⟩

end Sys2Proof

/-! SUPPORT. Self-tests, march tests and replay (R480 to R500): what a test takes out of use and gives back, and how its end is kept. -/

namespace Sys2Proof.Machine

/-! ### The lane under test (Table 14-2) -/

section
variable {p : Pkg} {u : Nat}

/-- A unit that is no lane of a port on four lanes takes nothing out of use. -/
theorem laneOut_of_other (h : ∀ l, testLane u = some l → p.portState l.1 ≠ 2) : p.laneOut u = p := by
  unfold Pkg.laneOut
  split
  · rename_i l hl
    exact if_neg (h l hl)
  · rfl

/-- A lane of a port on four lanes leaves it on three. -/
theorem laneOut_of_lane {l : Nat × Nat} (hl : testLane u = some l) (hstate : p.portState l.1 = 2) : p.laneOut u =
    (p.setFld (Reg.FAB_PORT_STATUS l.1) Fld.FAB_PS_LANES (15 - 2 ^ l.2)).setFld (Reg.FAB_PORT_STATUS l.1) Fld.FAB_PS_STATE 3 := by
  unfold Pkg.laneOut
  rw [hl]
  exact if_pos hstate

/-- A unit whose port is down gives nothing back. -/
theorem laneBack_of_down (h : ∀ l, testLane u = some l → p.portUp l.1 = false) : p.laneBack u = p := by
  unfold Pkg.laneBack
  split
  · rename_i l hl
    exact if_neg (by simp [h l hl])
  · rfl

end

/-! ### Faults, tests and spares -/

/-- The package with other faults, tests and spares. -/
def Pkg.withRas (p : Pkg) (x : Ras) : Pkg := { p with ras := x }

/-- The records that a command raised join those of the beat (R570). -/
theorem logs_of_raised {s : State} {p : Pkg} {rs : List LogRec} (h : p.raised = rs) : Logs s (s.lift (fun _ _ => p)) rs := h ▸ rfl

/-- A command that changes them alone leaves every register and byte. -/
theorem keeps_of_withRas {s : State} (x : Ras) :
    let t := s.lift (fun _ _ => s.pkg.withRas x)
    KeepsRegs [] s t ∧ KeepsMem s t ∧ KeepsBlock s t :=
  ⟨fun _ _ => rfl, fun _ => rfl, lift_keeps s _⟩

/-- The units that march tests and self-tests name. -/
abbrev UnitTest.names (die u : Nat) (x : UnitTest) : Bool := x.die == die && x.unit == u

section
variable {p : Pkg} {e : Env} {die u : Nat} {x : UnitTest}

theorem selfTestStart_of_none (h : (die, u) ∉ p.ras.ready) : selfTestStart die u e p = p := if_neg (by simpa using h)

/-- A self-test of a unit begins (R480). -/
def Ras.beginTest (x : Ras) (die u hall : Nat) : Ras :=
  { x with ready := x.ready.filter (fun y => y ≠ (die, u)), tests := x.tests ++ [⟨die, u, hall, false, true⟩] }

theorem not_ready_beginTest (x : Ras) (hall : Nat) : (die, u) ∉ (x.beginTest die u hall).ready := by simp [Ras.beginTest]

section
variable (h : (die, u) ∈ p.ras.ready)
include h

/-- The unit that a class-8 event owes a test gets it (R480). -/
theorem selfTestStart_of_ready : selfTestStart die u e p = (p.withRas (p.ras.beginTest die u e.hall)).laneOut u := if_pos (by simpa using h)

theorem selfTestStart_of_other (hother : ∀ l, testLane u = some l → p.portState l.1 ≠ 2) :
    selfTestStart die u e p = p.withRas (p.ras.beginTest die u e.hall) := (selfTestStart_of_ready h).trans (laneOut_of_other hother)

theorem selfTestStart_of_lane {l : Nat × Nat} (hl : testLane u = some l) (hstate : p.portState l.1 = 2) : selfTestStart die u e p =
    ((p.withRas (p.ras.beginTest die u e.hall)).setFld (Reg.FAB_PORT_STATUS l.1) Fld.FAB_PS_LANES (15 - 2 ^ l.2)).setFld
      (Reg.FAB_PORT_STATUS l.1) Fld.FAB_PS_STATE 3 := (selfTestStart_of_ready h).trans (laneOut_of_lane hl hstate)

end

theorem selfTestEnd_of_none (h : p.ras.tests.find? (UnitTest.names die u) = none) (pass : Bool) : selfTestEnd die u pass e p = p := by
  unfold selfTestEnd
  rw [show p.ras.tests.find? (fun t => t.die == die && t.unit == u) = none from h]

/-- Whether a march test falls due changes nothing else (R483). -/
theorem scheduleMarch_eq (p : Pkg) (e : Env) (die u : Nat) : ∃ due, p.scheduleMarch e die u = p.withRas { p.ras with marchDue := due } := by
  unfold Pkg.scheduleMarch
  dsimp only
  split
  · exact ⟨_, rfl⟩
  · exact ⟨p.ras.marchDue, rfl⟩

end

@[simp] theorem rasCount_ras (p : Pkg) (k n : Nat) : (p.rasCount k n).ras = p.ras := by
  unfold Pkg.rasCount Pkg.bump
  split <;> rfl

/-- The package once a test that an error started has passed: the transient is logged and counted (R482). -/
def Pkg.countTransient (p : Pkg) (e : Env) (die u : Nat) (x : UnitTest) : Pkg :=
  ((p.record die u 2 0 (leBytes 8 (e.hall - x.since))).noteResult ⟨die, u, false, 0, e.hall - x.since⟩).rasCount Reg.RAS_CNT_TRANSIENT 1

/-- It then keeps the transient, by which a march test may fall due (R483). -/
def Pkg.keepTransient (p : Pkg) (e : Env) (die u : Nat) : Pkg :=
  (p.withRas { p.ras with transients := p.ras.transients ++ [(die, u, e.hall)] }).scheduleMarch e die u

/-- The package once a march test has passed: logged, with the unit's last pass kept (R483). -/
def Pkg.passMarch (p : Pkg) (e : Env) (die u : Nat) (x : UnitTest) : Pkg :=
  let q := (p.record die u 2 3 (leBytes 8 (e.hall - x.since))).noteResult ⟨die, u, true, 0, e.hall - x.since⟩
  q.withRas { q.ras with marchPassed := q.ras.marchPassed.filter (fun x => !(x.1 == die && x.2.1 == u)) ++ [(die, u, e.hall)] }

section
variable {p : Pkg} {e : Env} {die u : Nat} {x : UnitTest}

theorem selfTestEnd_of_pass (hfind : p.ras.tests.find? (UnitTest.names die u) = some x) (herr : x.byError = true)
    (hdown : ∀ l, testLane u = some l → p.portUp l.1 = false) :
    selfTestEnd die u true e p = ((p.withRas { p.ras with tests := p.ras.tests.erase x }).countTransient e die u x).keepTransient e die u := by
  have hback := laneBack_of_down (p := p.withRas { p.ras with tests := p.ras.tests.erase x }) hdown
  unfold Pkg.withRas at hback
  unfold selfTestEnd
  rw [show p.ras.tests.find? (fun t => t.die == die && t.unit == u) = some x from hfind]
  dsimp only
  rw [if_pos rfl, if_pos herr, hback]
  rfl

theorem countTransient_ras (p : Pkg) (e : Env) (die u : Nat) (x : UnitTest) : (p.countTransient e die u x).ras =
    (p.noteResult ⟨die, u, false, 0, e.hall - x.since⟩).ras := rasCount_ras _ _ _

theorem countTransient_reg {k : Nat} (hk : k ≠ Reg.RAS_CNT_TRANSIENT) : (p.countTransient e die u x).reg k = p.reg k := bump_reg _ _ _ _ _ _ hk

theorem countTransient_byte (a : Nat) : (p.countTransient e die u x).byte a = p.byte a := bump_byte _ _ _ _ _ _

theorem countTransient_raised : (p.countTransient e die u x).raised = p.raised ++ [⟨false, die, u, 0, 2, 0, padTo 28 (leBytes 8 (e.hall - x.since))⟩] :=
  bump_raised _ _ _ _ _

/-- Keeping a transient is a matter of the tests alone. -/
theorem keepTransient_eq (p : Pkg) (e : Env) (die u : Nat) : ∃ due, p.keepTransient e die u =
    p.withRas { p.ras with transients := p.ras.transients ++ [(die, u, e.hall)], marchDue := due } := by
  obtain ⟨due, hdue⟩ := scheduleMarch_eq (p.withRas { p.ras with transients := p.ras.transients ++ [(die, u, e.hall)] }) e die u
  exact ⟨due, hdue⟩

/-! ### March tests (R483) -/

theorem marchStart_of_none (h : p.ras.marchDue.find? (UnitTest.names die u) = none) : marchStart die u e p = p := by
  unfold marchStart
  rw [show p.ras.marchDue.find? (fun t => t.die == die && t.unit == u) = none from h]

/-- A spare stands in for a unit under a march test where its kind and pool have one. -/
def Pkg.lends (p : Pkg) (die u : Nat) : Bool := u / 4096 != 10 && u / 4096 != 11 && p.poolFree die (unitPool u) > 0

section
variable (hfind : p.ras.marchDue.find? (UnitTest.names die u) = some x) (hlive : (die, u) ∉ p.ras.retired)
include hfind hlive

/-- A test that is due starts with a spare standing in, its engine unused, or 10 s after it fell due. -/
theorem marchStart_starts (hready : p.lends die u = true ∨ p.unitInUse die u = false ∨ x.since + marchWaitNs ≤ e.hall) :
    marchStart die u e p = (p.withRas { p.ras with
      marchDue := p.ras.marchDue.erase x
      marching := p.ras.marching ++ [{ x with since := e.hall, spare := p.lends die u }] }).laneOut u := by
  unfold marchStart
  rw [show p.ras.marchDue.find? (fun t => t.die == die && t.unit == u) = some x from hfind]
  dsimp only
  rw [if_neg (by simpa using hlive)]
  refine if_pos ?_
  show (p.lends die u || !p.unitInUse die u || decide (x.since + marchWaitNs ≤ e.hall)) = true
  simpa [or_assoc] using hready

/-- Otherwise it waits. -/
theorem marchStart_waits (hlend : p.lends die u = false) (huse : p.unitInUse die u = true) (hearly : e.hall < x.since + marchWaitNs) :
    marchStart die u e p = p := by
  unfold marchStart
  rw [show p.ras.marchDue.find? (fun t => t.die == die && t.unit == u) = some x from hfind]
  dsimp only
  rw [if_neg (by simpa using hlive)]
  refine if_neg ?_
  show ¬(p.lends die u || !p.unitInUse die u || decide (x.since + marchWaitNs ≤ e.hall)) = true
  simp [hlend, huse, hearly]

end

theorem marchEnd_of_none (h : p.ras.marching.find? (UnitTest.names die u) = none) (pass : Bool) : marchEnd die u pass e p = p := by
  unfold marchEnd
  rw [show p.ras.marching.find? (fun t => t.die == die && t.unit == u) = none from h]

theorem marchEnd_of_pass (hfind : p.ras.marching.find? (UnitTest.names die u) = some x) (hdown : ∀ l, testLane u = some l → p.portUp l.1 = false) :
    marchEnd die u true e p =
      let q := (p.withRas { p.ras with marching := p.ras.marching.erase x }).passMarch e die u x
      if x.byError then q.rasCount Reg.RAS_CNT_MARCH 1 else q := by
  have hback := laneBack_of_down (p := p.withRas { p.ras with marching := p.ras.marching.erase x }) hdown
  unfold Pkg.withRas at hback
  unfold marchEnd
  rw [show p.ras.marching.find? (fun t => t.die == die && t.unit == u) = some x from hfind]
  dsimp only
  rw [if_pos rfl, hback]
  rfl

theorem mem_marchPassed_passMarch (p : Pkg) (e : Env) (die u : Nat) (x : UnitTest) :
    (die, u, e.hall) ∈ (p.passMarch e die u x).ras.marchPassed := List.mem_append_right _ (List.mem_singleton.2 rfl)

/-! ### Replay (R495 to R500) -/

variable {q : Nat} {r : Run}

/-- The package once a coat descriptor begins again: its tile in progress is dropped. -/
def Pkg.replayCoat (p : Pkg) (e : Env) (r : Run) (x : Nat × Nat) : Pkg :=
  let p1 := ((p.setRun (r.again e)).rasCount Reg.RAS_CNT_DESC_REPLAY 1).disturb 1 x.1 x.2
  { p1 with coatNow := p1.coatNow.filter (fun y => y.2.queue ≠ r.queue) }

theorem descriptorReplay_of_none (h : p.runOf q = none) : descriptorReplay q e p = p := by
  unfold descriptorReplay
  rw [h]

section
variable (hrun : p.runOf q = some r)
include hrun

theorem descriptorReplay_of_sound (h : r.replayOn = none) : descriptorReplay q e p = p := by
  unfold descriptorReplay
  rw [hrun]
  dsimp only
  rw [h]

variable {y : Nat × Nat} (howed : r.replayOn = some y)
include howed

theorem descriptorReplay_of_unknown (hclass : r.jclass = 2) : descriptorReplay q e p = p.settleUnknown e r := by
  unfold descriptorReplay
  rw [hrun]
  dsimp only
  rw [howed]
  exact if_pos hclass

variable (hclass : r.jclass ≠ 2)
include hclass

theorem descriptorReplay_of_testing (htest : p.testOver y = false) : descriptorReplay q e p = p := by
  unfold descriptorReplay
  rw [hrun]
  dsimp only
  rw [howed]
  dsimp only
  rw [if_neg hclass]
  exact if_pos (by simp [htest])

theorem descriptorReplay_of_coat (htest : p.testOver y = true) (hkind : r.kind = 1) : descriptorReplay q e p = p.replayCoat e r y := by
  have hagain : (r.again e).kind = 1 := hkind
  have hqueue := queue_of_runOf hrun
  unfold descriptorReplay
  simp only [hrun, howed, if_neg hclass, htest, hkind, Pkg.restartSolve, hagain]
  subst hqueue
  rfl

end

/-- The queue's run is the one begun again, and no coat tile of the queue is in progress. -/
theorem replayCoat_runOf (hrun : p.runOf q = some r) (y : Nat × Nat) : (p.replayCoat e r y).runOf q = some (r.again e) := by
  have hdsp : (p.replayCoat e r y).dsp = (p.setRun (r.again e)).dsp := (disturb_dsp _ _ _ _).trans (rasCount_dsp _ _ _)
  have hown : r.queue = q := queue_of_runOf hrun
  have hqueue : (r.again e).queue = q := hown
  rw [runOf_of_dsp hdsp, ← hqueue]
  exact runOf_setRun (by rw [hqueue]; exact mem_runQueues_of_runOf hrun)

theorem replayCoat_coatNow (y : Nat × Nat) : ∀ z ∈ (p.replayCoat e r y).coatNow, z.2.queue ≠ r.queue :=
  fun _ hz => of_decide_eq_true (List.mem_filter.1 hz).2

theorem replayCoat_byte (y : Nat × Nat) (a : Nat) : (p.replayCoat e r y).byte a = p.byte a := by
  have hdisturb := congrFun (congrArg Stored.bytes (disturb_stored ((p.setRun (r.again e)).rasCount Reg.RAS_CNT_DESC_REPLAY 1) 1 y.1 y.2)) a
  exact hdisturb.trans (bump_byte _ _ _ _ _ _)

end

end Sys2Proof.Machine

namespace Sys2Proof

open Machine

section
variable (s : State) (hwork : s.pkg.working = true) (die : Fin 32) (u : Nat)
include hwork

/-- What a self-test of a unit does (R480 to R482). -/
theorem answers_selfTests :
    let p := s.pkg
    let e := s.env
    let same (t : State) : Prop := KeepsRegs [] s t ∧ KeepsMem s t ∧ KeepsBlock s t
    let mine (x : UnitTest) : Bool := x.die == die.val && x.unit == u
    ((die.val, u) ∉ p.ras.ready → Becomes (.targetedSelfTestStart die u) s p) ∧
    ((die.val, u) ∈ p.ras.ready → (∀ l, testLane u = some l → p.portState l.1 ≠ 2) → Answers (.targetedSelfTestStart die u) s (fun t =>
      t.pkg.ras.tests = p.ras.tests ++ [⟨die, u, e.hall, false, true⟩] ∧ (die.val, u) ∉ t.pkg.ras.ready ∧ same t)) ∧
    (∀ l, (die.val, u) ∈ p.ras.ready → testLane u = some l → p.portState l.1 = 2 → Answers (.targetedSelfTestStart die u) s (fun t =>
      t.pkg.ras.tests = p.ras.tests ++ [⟨die, u, e.hall, false, true⟩] ∧ t.pkg.fld (Reg.FAB_PORT_STATUS l.1) Fld.FAB_PS_STATE = 3 ∧
      t.pkg.fld (Reg.FAB_PORT_STATUS l.1) Fld.FAB_PS_LANES = (15 - 2 ^ l.2) % 16 ∧ KeepsRegs [Reg.FAB_PORT_STATUS l.1] s t ∧ KeepsMem s t ∧
      KeepsBlock s t)) ∧
    (p.ras.tests.find? mine = none → ∀ pass, Becomes (.selfTestEnd die u pass) s p) ∧
    (∀ x, p.ras.tests.find? mine = some x → x.byError = true → (∀ l, testLane u = some l → p.portUp l.1 = false) → Answers (.selfTestEnd die u true) s (fun t =>
      t.pkg.ras.tests = p.ras.tests.erase x ∧ (die.val, u, e.hall) ∈ t.pkg.ras.transients ∧
      KeepsRegs [Reg.RAS_CNT_TRANSIENT] s t ∧ KeepsMem s t ∧ KeepsBlock s t ∧
      Logs s t (p.raised ++ [⟨false, die, u, 0, 2, 0, padTo 28 (leBytes 8 (e.hall - x.since))⟩]))) ∧
    (∀ x, p.ras.tests.find? mine = some x → Becomes (.selfTestEnd die u false) s
      (let y := (Pkg.laneBack { p with ras := { p.ras with tests := p.ras.tests.erase x } } u).lastingFault e die u
       (y.1.record die u 2 y.2 (leBytes 8 (e.hall - x.since))).noteResult ⟨die, u, false, y.2, e.hall - x.since⟩)) := by
  intro p e same mine
  have hstart : Becomes (.targetedSelfTestStart die u) s (selfTestStart die u e p) := becomes_work rfl hwork rfl
  have hend (pass : Bool) : Becomes (.selfTestEnd die u pass) s (selfTestEnd die u pass e p) := becomes_work rfl hwork rfl
  refine ⟨fun hno => hstart.of_eq (selfTestStart_of_none hno), fun hready hother => ?_, fun l hready hl hstate => ?_,
    fun hnone pass => (hend pass).of_eq (selfTestEnd_of_none hnone pass), fun x hfind herr hdown => ?_, fun x hfind => ?_⟩
  · exact (hstart.of_eq (selfTestStart_of_other hready hother)).answers ⟨rfl, not_ready_beginTest p.ras e.hall, keeps_of_withRas _⟩
  · refine (hstart.of_eq (selfTestStart_of_lane hready hl hstate)).answers ⟨rfl, fld_setFld _ _ _ _ (by decide), ?_, fun k hk => ?_, fun _ => rfl, lift_keeps s _⟩
    · exact (fld_setFld_ne _ _ _ _ _ (by decide) (by decide)).trans (fld_setFld _ _ _ _ (by decide))
    · have hne : k ≠ Reg.FAB_PORT_STATUS l.1 := by simpa using hk
      exact (setFld_reg_ne _ _ _ _ _ hne).trans (setFld_reg_ne _ _ _ _ _ hne)
  · have hpass := (hend true).of_eq (selfTestEnd_of_pass hfind herr hdown)
    obtain ⟨due, hdue⟩ := keepTransient_eq ((p.withRas { p.ras with tests := p.ras.tests.erase x }).countTransient e die u x) e die u
    rw [hdue, countTransient_ras] at hpass
    have hlogs := logs_of_raised (s := s) (countTransient_raised (p := p.withRas { p.ras with tests := p.ras.tests.erase x }) (e := e) (die := die) (u := u) (x := x))
    exact hpass.answers ⟨rfl, List.mem_append_right _ (List.mem_singleton.2 rfl), fun k hk => countTransient_reg (by simpa using hk), countTransient_byte,
      lift_keeps s _, hlogs⟩
  · refine (hend false).of_eq ?_
    unfold selfTestEnd
    rw [show p.ras.tests.find? (fun t => t.die == die.val && t.unit == u) = some x from hfind]
    rfl

/-- What a march test of a unit does (R483). -/
theorem answers_marchTests :
    let p := s.pkg
    let e := s.env
    let same (t : State) : Prop := KeepsRegs [] s t ∧ KeepsMem s t ∧ KeepsBlock s t
    let mine (x : UnitTest) : Bool := x.die == die.val && x.unit == u
    (p.ras.marchDue.find? mine = none → Becomes (.marchTestStart die u) s p) ∧
    (∀ x, p.ras.marchDue.find? mine = some x → (die.val, u) ∉ p.ras.retired →
      let lend : Bool := u / 4096 != 10 && u / 4096 != 11 && p.poolFree die (unitPool u) > 0
      ((∀ l, testLane u = some l → p.portState l.1 ≠ 2) → lend = true ∨ p.unitInUse die u = false ∨ x.since + 10000000000 ≤ e.hall → Answers (.marchTestStart die u) s (fun t =>
        t.pkg.ras.marchDue = p.ras.marchDue.erase x ∧ t.pkg.ras.marching = p.ras.marching ++ [{ x with since := e.hall, spare := lend }] ∧ same t)) ∧
      (lend = false → p.unitInUse die u = true → e.hall < x.since + 10000000000 → Becomes (.marchTestStart die u) s p)) ∧
    (p.ras.marching.find? mine = none → ∀ pass, Becomes (.marchTestEnd die u pass) s p) ∧
    (∀ x, p.ras.marching.find? mine = some x → (∀ l, testLane u = some l → p.portUp l.1 = false) → Answers (.marchTestEnd die u true) s (fun t =>
      t.pkg.ras.marching = p.ras.marching.erase x ∧ (die.val, u, e.hall) ∈ t.pkg.ras.marchPassed ∧
      KeepsRegs [Reg.RAS_CNT_MARCH] s t ∧ KeepsMem s t ∧ KeepsBlock s t)) := by
  intro p e same mine
  have hstart : Becomes (.marchTestStart die u) s (marchStart die u e p) := becomes_work rfl hwork rfl
  have hend (pass : Bool) : Becomes (.marchTestEnd die u pass) s (marchEnd die u pass e p) := becomes_work rfl hwork rfl
  refine ⟨fun hnone => hstart.of_eq (marchStart_of_none hnone), fun x hfind hlive => ⟨fun hother hready => ?_, fun hlend huse hearly => ?_⟩,
    fun hnone pass => (hend pass).of_eq (marchEnd_of_none hnone pass), fun x hfind hdown => ?_⟩
  · exact (hstart.of_eq ((marchStart_starts hfind hlive hready).trans (laneOut_of_other hother))).answers ⟨rfl, rfl, keeps_of_withRas _⟩
  · exact hstart.of_eq (marchStart_waits hfind hlive hlend huse hearly)
  · have hpass := (hend true).of_eq (marchEnd_of_pass hfind hdown)
    dsimp only at hpass
    split at hpass
    · refine hpass.answers ⟨congrArg Ras.marching (rasCount_ras _ _ _), ?_, fun k hk => bump_reg _ _ _ _ _ _ (by simpa using hk),
        bump_byte _ _ _ _ _, lift_keeps s _⟩
      show _ ∈ (Pkg.rasCount _ _ _).ras.marchPassed
      rw [rasCount_ras]
      exact mem_marchPassed_passMarch ..
    · exact hpass.answers ⟨rfl, mem_marchPassed_passMarch .., fun _ _ => rfl, fun _ => rfl, lift_keeps s _⟩

omit die u

/-- What DESCRIPTOR_REPLAY does (R495, R497, R500). -/
theorem answers_descriptorReplay (q : Fin 64) :
    let p := s.pkg
    let e := s.env
    (p.runOf q = none → Becomes (.descriptorReplay q) s p) ∧
    (∀ r, p.runOf q = some r → r.replayOn = none → Becomes (.descriptorReplay q) s p) ∧
    (∀ r x, p.runOf q = some r → r.replayOn = some x → r.jclass = 2 → Becomes (.descriptorReplay q) s (p.settleUnknown e r)) ∧
    (∀ r x, p.runOf q = some r → r.replayOn = some x → r.jclass ≠ 2 → p.testOver x = false → Becomes (.descriptorReplay q) s p) ∧
    (∀ r x, p.runOf q = some r → r.replayOn = some x → r.jclass ≠ 2 → p.testOver x = true → r.kind = 1 → Answers (.descriptorReplay q) s (fun t =>
      t.pkg.runOf q = some (r.again e) ∧ (∀ y ∈ t.pkg.coatNow, y.2.queue ≠ q.val) ∧ KeepsMem s t ∧ KeepsBlock s t)) := by
  intro p e
  have hbec : Becomes (.descriptorReplay q) s (descriptorReplay q e p) := becomes_work rfl hwork rfl
  refine ⟨fun hnone => hbec.of_eq (descriptorReplay_of_none hnone), fun r hrun hsound => hbec.of_eq (descriptorReplay_of_sound hrun hsound),
    fun r x hrun howed hclass => hbec.of_eq (descriptorReplay_of_unknown hrun howed hclass),
    fun r x hrun howed hclass htest => hbec.of_eq (descriptorReplay_of_testing hrun howed hclass htest),
    fun r x hrun howed hclass htest hkind => ?_⟩
  refine (hbec.of_eq (descriptorReplay_of_coat hrun howed hclass htest hkind)).answers ⟨replayCoat_runOf hrun x, ?_, replayCoat_byte x, lift_keeps s _⟩
  exact queue_of_runOf hrun ▸ replayCoat_coatNow x

end

/-- Settles O52: self-tests, march tests, the second dispatcher and replay as stated above. -/
theorem faultsAndReplay : Obligations.FaultsAndReplay := by
  unfold Obligations.FaultsAndReplay
  intro s die u hwork p e same mine
  obtain ⟨hno, hready, hlane, hnone, hpass, hfail⟩ := answers_selfTests s hwork die u
  obtain ⟨hmnone, hmstart, hmend, hmpass⟩ := answers_marchTests s hwork die u
  refine ⟨hno, hready, hlane, hnone, hpass, hfail, hmnone, hmstart, hmend, hmpass, fun d => ?_, fun q => answers_descriptorReplay s hwork q⟩
  have hswitch : Becomes (.spareDispatcherSwitch d) s (spareDispatcher d s.env p) := becomes_work rfl hwork rfl
  unfold spareDispatcher unitKind at hswitch
  refine ⟨fun hnone => ?_, fun x hsome => ?_⟩
  · rw [hnone] at hswitch
    exact hswitch
  · rw [hsome] at hswitch
    exact hswitch.answers ⟨rfl, keeps_of_withRas { p.ras with waiting := p.ras.waiting.erase x }⟩

end Sys2Proof

/-! SUPPORT. Checkpoint descriptors: those that pass their checks enter (R512, R517, R528, R532, R533). -/

namespace Sys2Proof.Machine

section
variable {s : State} {q : Fin 64} {d : List Byte} {p : Pkg} (hstarts : s.Starts q d) (hkind : dKind d = 5)

/-- A kind of Table 15-2 is none of the reserved ones. -/
theorem ckReserved_of_kind (h : ckKind d ≤ 5) (p : Pkg) (e : Env) (q : Nat) (k : Pkg) : p.ckReserved e q d k = k := if_neg (Nat.not_lt.2 h)

include hstarts hkind

/-- A checkpoint start command whose kind the head is goes on to its own checks. -/
theorem start_of_ckKind {kind : Nat} (hck : ckKind d = kind) (hvalid : kind ≤ 5) {reads : List Byte → List (Nat × Nat)}
    {i : Instr} (hreads : s.Reads i q d p) (hi : startReads s.pkg (s.pkg.queueCtx q) d i = reads d) (verdict : Pkg → List Byte → Verdict) (k : Pkg → List Byte → Pkg)
    (hpass : verdict p d = none) :
    s.pkg.start s.env q (ckMine kind) reads (fun p d => p.ckReserved s.env q d (p.orRun s.env q d (verdict p d) (k p d))) = k p d := by
  rw [State.Reads, hi] at hreads
  rw [start_of_starts hstarts hreads (by simp [ckMine, hkind, hck]), ckReserved_of_kind (hck ▸ hvalid)]
  exact orRun_none p s.env q d hpass _

end

/-- What makes a DISCONNECT pass its checks (Table 15-4). -/
theorem disconnect_passes {p : Pkg} {d b : List Byte} {c : Nat} (hparam : dHasParam d = true) (hhole : p.noHole (p.paramAddr c d) 64 = true)
    (hop : ckOpBad d = false) (hconn : leAt b 0 1 ≤ 63) (hbad : p.connBad d 2 (leAt b 0 1) = false)
    (hcount : (List.range 5).any (fun l => dCount d l != 1) = false) (hdie : p.dieLost (28 + ckEngine d) = false) :
    firstFail [abortIf (!dHasParam d) 0x01, abortIf (!p.noHole (p.paramAddr c d) 64) 0x05, abortIf (ckOpBad d) 0x70,
        abortIf (leAt b 0 1 > 63) 0x01, abortIf (p.connBad d 2 (leAt b 0 1)) 0x73,
        abortIf ((List.range 5).any (fun l => dCount d l != 1)) 0x06, if p.dieLost (28 + ckEngine d) then some (0x37, 0) else none] = none := by
  refine firstFail_eq_none.2 ?_
  simp only [List.forall_mem_cons, abortIf_eq_none, hparam, hhole, hop, hbad, hcount, hdie, Bool.not_true, Bool.false_eq_true,
    if_false, decide_eq_false_iff_not, Nat.not_lt, hconn, true_and]
  exact fun _ h => absurd h (List.not_mem_nil)

end Sys2Proof.Machine

namespace Sys2Proof

open Machine

/-- Settles O26: the six kinds pass through the same gate, and each then enters its engine. -/
theorem checkpointStarts : Obligations.CheckpointStarts := by
  unfold Obligations.CheckpointStarts
  intro s q d p hstarts hkind _ e c b b64 entered with_
  refine ⟨fun hck hreads hpass => ?_, fun hck hreads hpass => ?_, fun hck hreads hpass => ?_,
    fun hck hreads hparam hhole hop hconn hbad hcount hdie => ?_, fun hck hreads hpass => ?_, fun x hck hreads hpass hfound => ?_⟩
  · exact becomes_work rfl hstarts.working (start_of_ckKind hstarts hkind hck (by decide) hreads rfl _ _ hpass)
  · exact becomes_work rfl hstarts.working (start_of_ckKind hstarts hkind hck (by decide) hreads rfl _ _ hpass)
  · exact becomes_work rfl hstarts.working (start_of_ckKind hstarts hkind hck (by decide) hreads rfl _ _ hpass)
  · exact becomes_work rfl hstarts.working (start_of_ckKind hstarts hkind hck (by decide) hreads rfl _ _
      (disconnect_passes hparam hhole hop hconn hbad hcount hdie))
  · exact becomes_work rfl hstarts.working (start_of_ckKind hstarts hkind hck (by decide) hreads rfl _ _ hpass)
  · refine becomes_work rfl hstarts.working ((start_of_ckKind hstarts hkind hck (by decide) hreads rfl _ _ hpass).trans ?_)
    show (match (p.enterBcast e q false d b).bcast? q with | some x => (p.enterBcast e q false d b).bcastAttach x | none => _) = _
    rw [hfound]

end Sys2Proof

/-! SUPPORT. Two commands of one number: why O53 fails (R525). -/

namespace Sys2Proof.Machine

/-! ### A command that has not completed in time (R525) -/

/-- A storage error as `ckErr` enters it, where `raises` says whether it gives the engine its interrupt. -/
def Pkg.ckErrAs (raises : Bool) (p : Pkg) (x kind conn status : Nat) : Pkg :=
  let k := Reg.CKP_ERR_INFO x
  let seq := (p.fld k Fld.CKP_ERR_SEQ + 1) % 256
  let q := (((p.setFld k Fld.CKP_ERR_KIND kind).setFld k Fld.CKP_ERR_CONN conn).setFld k Fld.CKP_ERR_NVME status).setFld k Fld.CKP_ERR_SEQ seq
  if raises then q.raiseIrq (if kind = 1 then 8 else 13) (28 + x) (112 + x) else q

theorem ckErr_eq (p : Pkg) (x kind conn status : Nat) : p.ckErr x kind conn status = p.ckErrAs (Config.ckptRaises kind) x kind conn status := rfl

/-- The package with a failed command issued again. -/
def Pkg.reissued (raises : Bool) (p : Pkg) (e : Env) (c : StoreCmd) (kind status : Nat) : Pkg :=
  let x := p.connPort c.conn
  let p1 := ((p.ckErrAs raises x kind c.conn status).setFld (Reg.CKP_CONN_STATUS c.conn) Fld.CKP_CS_LAST status).record (28 + x) 0xf000 9 status
    (leBytes 4 c.conn ++ leBytes 4 c.shard)
  (p1.putCmd { c with tries := c.tries + 1, issued := some e.hall }).ckpCount x (Reg.CKP_CNT_CMD_RETRY x) 1

theorem cmdFailed_of_tries {c : StoreCmd} (h : c.tries < 4) (p : Pkg) (e : Env) (kind status : Nat) :
    p.cmdFailed e c kind status = p.reissued (Config.ckptRaises kind) e c kind status := if_pos h

/-! ### Two SAVE commands that share a number -/

/-- A descriptor of a SAVE. -/
def saveDesc : List Byte := padTo 128 (leBytes 64 5)

/-- Command 0 of queue 0, and another command 0 of queue 1; both have been issued at hall time 0. -/
def twinCmd (q : Nat) : StoreCmd := ⟨0, q, 2, 0, 0, 0, 0, 0, 0, [], 0, some 0⟩

/-- Queue 1's SAVE waits for its last Flush. -/
def twinRun : CkRun := ⟨1, 0, 0, 8, [], 0, 0, [], [], 0, 0, [], 0, false, [], 0⟩

/-- A second after the commands were issued. -/
def twins : State :=
  { State.reset with
    clock := ⟨1000000000⟩
    pkg := { Pkg.reset with
      regs := [(Reg.PKG_BOOT, 5 * 2 ^ 28)]
      dsp := { Pkg.reset.dsp with runs := [Pkg.reset.newRun State.reset.env 1 saveDesc []] }
      ckp := { Pkg.reset.ckp with cmds := [twinCmd 0, twinCmd 1], runs := [twinRun] } } }

theorem twins_working : twins.pkg.working = true := by decide +kernel

/-- The descriptor waits for its command. -/
theorem twins_waits : ∀ u ∈ twins.pkg.dsp.runs, u.kind = 5 → ckKind u.desc ≤ 3 →
    ckKind u.desc ≤ 1 ∧ (∀ v ∈ twins.pkg.dsp.runs, v.queue = u.queue → ∀ y ∈ v.statuses, y.2 ≠ 0x3f) ∧
      ∃ y ∈ twins.pkg.ckp.cmds, y.queue = u.queue ∧ true = true := by decide +kernel

/-- The first of the two is the one that the number names. -/
theorem twins_find : twins.pkg.ckp.cmds.find? (fun c => c.id == 0 && twins.pkg.connPort c.conn == 0) = some (twinCmd 0) := by decide +kernel

theorem twins_becomes : Becomes (.storageCommandTimeout 0 0) twins
    ((twins.pkg.reissued (Config.ckptRaises 3) twins.env (twinCmd 0) 3 0).ckAll twins.env) := by
  refine becomes_work rfl twins_working ?_
  have hlate : storageTimeout 0 0 twins.env twins.pkg = (twins.pkg.cmdFailed twins.env (twinCmd 0) 3 0).ckAll twins.env := by
    unfold storageTimeout
    rw [twins_find]
    exact if_pos (by decide)
  rw [← cmdFailed_of_tries (by decide)]
  exact hlate

/-- Command 0 is issued again in the place of both, and queue 1's SAVE, which then waits for none, ends. -/
theorem twins_ended : ∀ raises : Bool, ((twins.pkg.reissued raises twins.env (twinCmd 0) 3 0).ckAll twins.env).ckp.runs = [] := by decide +kernel

end Sys2Proof.Machine

namespace Sys2Proof

open Machine

/-- Refutes O53: the statement names a command by its number and bounds nothing by which numbers differ. In `twins` commands of two queues share one; the
late command of queue 0 is issued again in the place of both, so that the SAVE of queue 1 waits for none and ends, where it should have stayed. -/
theorem not_checkpoints : ¬ Obligations.Checkpoints := by
  unfold Obligations.Checkpoints
  intro hall
  obtain ⟨-, -, hstorage, -⟩ := hall twins twins_working
  obtain ⟨-, -, -, -, -, -, -, -, -, -, hlate⟩ := hstorage 0 0
  have hruns := (twins_becomes.of_answers (hlate (twinCmd 0) 0 twins_find rfl (by decide) (by decide) ⟨by decide, twins_waits⟩)).2.1
  exact absurd ((twins_ended _).symm.trans hruns) (List.cons_ne_nil _ _).symm

end Sys2Proof

/-! SUPPORT. Stores of a routine leave the broadcasts in progress and what has been sent: a demand copy that they start notes its page with its SAVE alone
(R518, R519, R533). -/

namespace Sys2Proof.Machine

/-- The broadcasts in progress, and the messages sent. -/
def Pkg.tree (p : Pkg) : List Bcast × List BcastOut := (p.ckp.bcasts, p.ckp.sent)

section
variable (p : Pkg)

/-! ### Registers, records and bytes -/

@[simp] theorem setFld_tree (k : Nat) (f : Field) (v : Nat) : (p.setFld k f v).tree = p.tree := rfl
@[simp] theorem setStack_tree (s : Nat) (x : StackSt) : (p.setStack s x).tree = p.tree := rfl
@[simp] theorem clearBad_tree (line : Nat) : (p.clearBad line).tree = p.tree := rfl
@[simp] theorem memAnswer_tree (u : MemUser) (a code : Nat) (data : List Byte) : (p.memAnswer u a code data).tree = p.tree := rfl

@[simp] theorem bump_tree (ctrl : Nat) (f : Field) (k n : Nat) : (p.bump ctrl f k n).tree = p.tree := by
  unfold Pkg.bump
  split <;> rfl

@[simp] theorem event_tree (cls die unit kind detail : Nat) (data : List Byte) : (p.event cls die unit kind detail data).tree = p.tree := by
  unfold Pkg.event Pkg.rasCount Pkg.bump
  dsimp only
  split_ifs <;> rfl

@[simp] theorem disturb_tree (detail die unit : Nat) : (p.disturb detail die unit).tree = p.tree := by
  unfold Pkg.disturb
  split <;> rfl

@[simp] theorem setBytes_tree (a : Nat) (bs : List Byte) : (p.setBytes a bs).tree = p.tree := by
  induction bs generalizing p a with
  | nil => rfl
  | cons b bs ih => exact ih _ _

@[simp] theorem rekeyLine_tree (r : Region) (l : Nat) : (p.rekeyLine r l).tree = p.tree := by
  unfold Pkg.rekeyLine
  split
  · split
    · exact setBytes_tree p _ _
    · rfl
  · rfl

@[simp] theorem freeBytes_tree (a n : Nat) : (p.freeBytes a n).tree = p.tree := by
  unfold Pkg.freeBytes
  refine (keeps_foldl (g := Pkg.tree) (fun s i => ⟨?_⟩) ⟨rfl⟩).eq
  split
  · exact rekeyLine_tree s _ _
  · rfl

/-! ### Lines and stripes (R293 to R295, R317 to R323) -/

@[simp] theorem memErr_tree (kind line : Nat) : (p.memErr kind line).tree = p.tree := by
  unfold Pkg.memErr
  dsimp only
  split <;> rfl

@[simp] theorem memCount_tree (s k n : Nat) : (p.memCount s k n).tree = p.tree := bump_tree p _ _ _ _

@[simp] theorem rebuildLine_tree (line addr : Nat) : (p.rebuildLine line addr).tree = p.tree := by
  unfold Pkg.rebuildLine
  dsimp only
  rw [disturb_tree, event_tree]
  split
  · exact (memCount_tree _ _ _ _).trans (memErr_tree _ _ _)
  · exact memErr_tree (p.clearBad line) _ _

@[simp] theorem failLine_tree (kind line addr : Nat) : (p.failLine kind line addr).tree = p.tree := by
  unfold Pkg.failLine
  dsimp only
  rw [event_tree]
  split <;> exact memErr_tree p _ _

@[simp] theorem countRead_tree (dev n : Nat) : (p.countRead dev n).tree = p.tree := by
  simp only [Pkg.countRead, apply_ite Pkg.tree, memCount_tree, ite_self]

@[simp] theorem countCal_tree (dev : Nat) : (p.countCal dev).tree = p.tree := by
  simp only [Pkg.countCal, apply_ite Pkg.tree, memCount_tree, ite_self]

@[simp] theorem suspendRetrain_tree (s : Nat) : (p.suspendRetrain s).tree = p.tree := by
  unfold Pkg.suspendRetrain
  dsimp only
  split
  · split <;> rfl
  · rfl

@[simp] theorem pushBehind_tree (r : Region) (line : Nat) : (p.pushBehind r line).tree = p.tree := by
  simp only [Pkg.pushBehind, apply_ite Pkg.tree, suspendRetrain_tree, setFld_tree, setStack_tree, ite_self]

theorem checkDirect_tree (r : Region) (dev j addr : Nat) : Leaves Pkg.tree p.tree (p.checkDirect r dev j addr) := by
  unfold Pkg.checkDirect
  exact keeps_ite ⟨rfl⟩ (keeps_ite ⟨failLine_tree p _ _ _⟩ (keeps_ite ⟨rebuildLine_tree p _ _⟩ ⟨failLine_tree p _ _ _⟩))

theorem mendLine_tree (stripe : List Nat) (line addr : Nat) : Leaves Pkg.tree p.tree (p.mendLine stripe line addr) := by
  unfold Pkg.mendLine
  exact keeps_ite ⟨rebuildLine_tree p _ _⟩ ⟨failLine_tree p _ _ _⟩

theorem checkLine_tree (r : Region) (dev j addr : Nat) : Leaves Pkg.tree p.tree (p.checkLine r dev j addr) := by
  have hcount : (if dev < 24 then p.memCount dev (Reg.MEM_CNT_CAL_READS dev) 1 else p).tree = p.tree := by
    simp only [apply_ite Pkg.tree, memCount_tree, ite_self]
  have hfailed {q : Pkg} (hq : q.tree = p.tree) (kind line : Nat) : Leaves Pkg.tree p.tree (q.failLine kind line addr, LineOutcome.failed) :=
    leaves_mk ((failLine_tree q kind line addr).trans hq) _
  have hdirect {q : Pkg} (hq : q.tree = p.tree) : Leaves Pkg.tree p.tree (q.checkDirect r dev j addr) := ⟨(checkDirect_tree q r dev j addr).eq.trans hq⟩
  have hmended (x : Pkg × LineOutcome) (hx : Leaves Pkg.tree p.tree x) : Leaves Pkg.tree p.tree (x.1.checkDirect r dev j addr) := hdirect hx.eq
  unfold Pkg.checkLine
  refine keeps_ite (hfailed rfl _ _) (keeps_ite ?_ (keeps_ite ?_ (hdirect rfl)))
  · exact keeps_ite (hfailed rfl _ _) (keeps_ite (hfailed hcount _ _) (keeps_ite (leaves_mk hcount _)
      (keeps_ite (hfailed hcount _ _) (leaves_mk hcount _))))
  · refine keeps_ite (keeps_ite (leaves_mk (hdirect (countCal_tree p dev)).eq _) (hdirect (countCal_tree p dev))) ?_
    refine keeps_ite (leaves_mk hcount _) (keeps_ite (leaves_mk hcount _) (leaves_mk (hmended _ ?_).eq _))
    exact keeps_foldl (fun s b => leaves_mk (mendLine_tree s.1 _ b addr).eq _) (leaves_mk ((suspendRetrain_tree _ _).trans hcount) _)

theorem writePlain_tree (r : Region) (a : Nat) (bs : List Byte) : Leaves Pkg.tree p.tree (p.writePlain r a bs) := by
  unfold Pkg.writePlain
  refine keeps_ite ⟨failLine_tree p _ _ _⟩ (keeps_ite ⟨failLine_tree p _ _ _⟩ ⟨?_⟩)
  refine (setBytes_tree _ _ _).trans ((rekeyLine_tree _ _ _).trans ?_)
  show Pkg.tree (if _ then _ else _) = _
  simp only [apply_ite Pkg.tree, memCount_tree, countCal_tree, ite_self]

theorem writeStripe_tree (r : Region) (dev : Nat) (ws : List (Nat × List Byte)) : Leaves Pkg.tree p.tree (p.writeStripe r dev ws) := by
  have hwritten {q : Pkg} (hq : Keeps Pkg.tree p.tree q) :
      Keeps Pkg.tree p.tree (ws.foldl (fun (q : Pkg) w => (q.rekeyLine r (w.1 / 256 * 256)).setBytes w.1 w.2) q) :=
    keeps_foldl (fun s w => ⟨(setBytes_tree _ _ _).trans (rekeyLine_tree s r _)⟩) hq
  have hcleared (js : List Nat) {q : Pkg} (hq : Keeps Pkg.tree p.tree q) :
      Keeps Pkg.tree p.tree (js.foldl (fun q j => q.clearBad (r.code dev j)) q) := keeps_foldl (fun s j => ⟨clearBad_tree s _⟩) hq
  have hlisted (js : List Nat) {q : Pkg} (hq : Keeps Pkg.tree p.tree q) :
      Keeps Pkg.tree p.tree (js.foldl (fun q j => q.pushBehind r (r.code dev j)) q) := keeps_foldl (fun s j => ⟨pushBehind_tree s r _⟩) hq
  have hcounted (x : Pkg × LineOutcome) (hx : Leaves Pkg.tree p.tree x) (n m : Nat) :
      (if dev < 24 then (x.1.memCount dev (Reg.MEM_CNT_WR_LINES dev) n).memCount dev (Reg.MEM_CNT_RMW dev) m else x.1).tree = p.tree := by
    simp only [apply_ite Pkg.tree, memCount_tree, ite_self]
    exact hx.eq
  unfold Pkg.writeStripe
  refine keeps_ite (leaves_mk (failLine_tree p _ _ _) _) (keeps_ite ?_ (leaves_mk (hlisted _ ⟨?_⟩).eq _))
  · exact keeps_foldl (fun s j => leaves_mk (checkLine_tree s.1 r dev j _).eq _) (leaves_mk rfl _)
  · refine (clearBad_tree _ _).trans (hcleared _ (hwritten ⟨hcounted _ ?_ _ _⟩)).eq
    exact keeps_foldl (fun s j => leaves_mk (checkLine_tree s.1 r dev j _).eq _) (leaves_mk rfl _)

/-! ### Requests (R291, R318, R319, R518) -/

@[simp] theorem copyPage_tree (m : PageMask) : (p.copyPage m).tree = p.tree := by
  unfold Pkg.copyPage
  split
  · rfl
  · split
    · rfl
    · split <;> rfl

@[simp] theorem holdWrite_tree (now : Nat) (u : MemUser) (a : Nat) (bs : List Byte) : (p.holdWrite now u a bs).tree = p.tree := by
  show (Pkg.demandCopy p a bs.length).tree = p.tree
  exact (keeps_foldl (g := Pkg.tree) (fun s m => ⟨copyPage_tree s m⟩) ⟨rfl⟩).eq

@[simp] theorem memReply_tree (w : WaitingReq) (s : Served) : (p.memReply w s).tree = p.tree := by
  unfold Pkg.memReply
  split
  · rfl
  · dsimp only
    split
    · split <;> rfl
    · rfl

variable (e : Env)

@[simp] theorem tellRun_tree (u : MemUser) (o : LineOutcome) : (p.tellRun e u o).tree = p.tree := by
  unfold Pkg.tellRun
  split
  · split <;> rfl
  · rfl

theorem tellOther_tree (me : Option MemUser) (u : MemUser) (o : LineOutcome) : Leaves Pkg.tree p.tree (p.tellOther e me u o) := by
  unfold Pkg.tellOther
  exact keeps_ite ⟨rfl⟩ ⟨tellRun_tree p e u o⟩

theorem updateStripe_tree (me : Option MemUser) (r : Region) (dev j : Nat) (own : List (Nat × List Byte)) :
    Leaves Pkg.tree p.tree (p.updateStripe e me r dev j own) := by
  have hwrite {q : Pkg} (hq : Keeps Pkg.tree p.tree q) (ws : List (Nat × List Byte)) : Leaves Pkg.tree p.tree (q.writeStripe r dev ws) :=
    ⟨(writeStripe_tree q r dev ws).eq.trans hq.eq⟩
  unfold Pkg.updateStripe
  refine keeps_foldl (fun s w => leaves_mk ?_ _) (leaves_mk (hwrite (keeps_ite ⟨rfl⟩ ⟨setStack_tree _ _ _⟩) _).eq _)
  exact (keeps_ite (g := Pkg.tree) ⟨(memAnswer_tree _ _ _ _ _).trans (tellOther_tree s.1 e me w.user _).eq⟩
    ⟨(tellOther_tree s.1 e me w.user _).eq⟩).eq

theorem markStripe_tree (me : Option MemUser) (r : Region) (dev j : Nat) : Leaves Pkg.tree p.tree (p.markStripe e me r dev j) := by
  unfold Pkg.markStripe
  exact keeps_foldl (fun s w => leaves_mk ((tellOther_tree _ e me _ _).eq.trans (countCal_tree s.1 dev)) _) (leaves_mk (setStack_tree _ _ _) _)

theorem settleStripe_tree (me : Option MemUser) (r : Region) (dev j : Nat) : Leaves Pkg.tree p.tree (p.settleStripe e me r dev j) := by
  unfold Pkg.settleStripe
  exact keeps_ite ⟨rfl⟩ (keeps_ite (markStripe_tree p e me r dev j) (updateStripe_tree p e me r dev j []))

theorem writeOrQueue_tree (u : MemUser) (r : Region) (dev j : Nat) (own : List (Nat × List Byte)) :
    Leaves Pkg.tree p.tree (p.writeOrQueue e u r dev j own) := by
  unfold Pkg.writeOrQueue
  exact keeps_ite ⟨(markStripe_tree _ e (some u) r dev j).eq⟩ (updateStripe_tree p e (some u) r dev j own)

theorem serveWrite_tree (me : Option MemUser) (r : Region) (w : WaitingReq) (bs : List Byte) : Leaves Pkg.tree p.tree (p.serveWrite e me r w bs) := by
  have hheld := holdWrite_tree p e.hall w.user w.addr bs
  unfold Pkg.serveWrite
  refine keeps_ite ⟨?_⟩ (keeps_ite ⟨rfl⟩ ⟨(tellOther_tree _ e me _ _).eq.trans (writePlain_tree p r w.addr bs).eq⟩)
  split <;> exact hheld

theorem serveRead_tree (me : Option MemUser) (r : Region) (w : WaitingReq) : Leaves Pkg.tree p.tree (p.serveRead e me r w) := by
  have hsettled (dev j : Nat) : Leaves Pkg.tree p.tree (if r.patch then p.settleStripe e me r dev j else (p, .ok)) :=
    keeps_ite (settleStripe_tree p e me r dev j) ⟨rfl⟩
  unfold Pkg.serveRead
  exact ⟨(tellOther_tree _ e me _ _).eq.trans ((checkLine_tree _ r _ _ _).eq.trans ((countRead_tree _ _ _).trans (hsettled _ _).eq))⟩

theorem serveNow_tree (me : Option MemUser) (w : WaitingReq) : Leaves Pkg.tree p.tree (p.serveNow e me w) := by
  have hreply {q : Pkg} (hq : Keeps Pkg.tree p.tree q) (x : Served) : (q.memReply w x).tree = p.tree := (memReply_tree q w x).trans hq.eq
  unfold Pkg.serveNow
  split
  · exact leaves_mk (hreply ⟨rfl⟩ _) _
  · rename_i r _
    split
    · exact leaves_mk (hreply ⟨(serveRead_tree p e me r w).eq⟩ _) _
    · rename_i bs _
      have hserved := serveWrite_tree p e me r w bs
      exact leaves_mk (keeps_ite ⟨(memAnswer_tree _ _ _ _ _).trans hserved.eq⟩ ⟨hreply ⟨hserved.eq⟩ _⟩).eq _
    · have hread := serveRead_tree p e me r w
      exact keeps_ite (leaves_mk (hreply ⟨hread.eq⟩ _) _) (leaves_mk (hreply ⟨(serveWrite_tree _ e me r w _).eq.trans hread.eq⟩ _) _)

theorem settleLine_tree (u : MemUser) (a : Nat) : Leaves Pkg.tree p.tree (p.settleLine e u a) := by
  unfold Pkg.settleLine
  split
  · exact leaves_mk rfl _
  · exact keeps_foldl (fun s w => leaves_mk ((serveNow_tree _ e (some u) w).eq.trans (setStack_tree s.1 _ _)) _) (leaves_mk rfl _)

/-! ### Stores (R40, R289, R291, R518) -/

theorem writeAll_tree (u : MemUser) (ps : List WritePiece) : Leaves Pkg.tree p.tree (p.writeAll e u ps) := by
  unfold Pkg.writeAll
  refine keeps_foldl (fun s x => ?_) (keeps_foldl (fun s w => leaves_mk (writePlain_tree s.1 _ _ _).eq _) (leaves_mk rfl _))
  split
  · exact ⟨rfl⟩
  · exact leaves_mk (writeOrQueue_tree s.1 e u _ _ _ _).eq _

theorem storeAll_tree (u : MemUser) (segs : List (Nat × List Byte)) : Leaves Pkg.tree p.tree (p.storeAll e u segs) := by
  unfold Pkg.storeAll
  refine leaves_mk (leaves_trans ?_ (writeAll_tree _ e u _)).eq _
  exact keeps_foldl (fun s l => leaves_mk (settleLine_tree s.1 e u l).eq _) (leaves_mk rfl _)

/-- A store, held or not, leaves them. -/
theorem storeOrHold_tree (u : MemUser) (a : Nat) (bs : List Byte) : (p.storeOrHold e u a bs).1.tree = p.tree := by
  unfold Pkg.storeOrHold
  exact (keeps_ite (g := fun x : Pkg × LineOutcome => x.1.tree) ⟨holdWrite_tree p _ _ _ _⟩ (storeAll_tree p e u _)).eq

end

end Sys2Proof.Machine

/-! SUPPORT. Job start by broadcast: what the open broadcast of a queue is after each message and each wait (R533 to R536). -/

namespace Sys2Proof.Machine

/-! ### The open broadcast of a queue -/

/-- An entry that is found and then replaced is found as its replacement. -/
theorem find?_map_replaced {α : Type} (xs : List α) (c : α → Bool) (f : α → α) (hf : ∀ x, c x = true → c (f x) = true) :
    (xs.map (fun x => if c x then f x else x)).find? c = (xs.find? c).map f := by
  induction xs with
  | nil => rfl
  | cons x xs ih =>
    by_cases hx : c x = true
    · simp [hx, hf x hx]
    · simp [hx, ih]

/-- Entries that are replaced by what is not looked for are found no more. -/
theorem find?_map_dropped {α : Type} (xs : List α) (c : α → Bool) (y : α) (hy : c y = false) :
    (xs.map (fun x => if c x then y else x)).find? c = none := by
  rw [List.find?_eq_none]
  intro z hz
  obtain ⟨x, -, rfl⟩ := List.mem_map.1 hz
  split
  · simp [hy]
  · assumption

/-- The broadcast that a queue's messages reach: the queue's, and open. -/
abbrev Bcast.isOpen (q : Nat) (b : Bcast) : Bool := b.queue == q && !b.closed

theorem isOpen_of_bcast? {p : Pkg} {q : Nat} {b : Bcast} (h : p.bcast? q = some b) : b.queue = q ∧ b.closed = false := by
  have hopen := List.find?_some h
  simpa using hopen

theorem setBcast_bcasts (p : Pkg) (b : Bcast) :
    (p.setBcast b).ckp.bcasts = p.ckp.bcasts.map (fun x => if Bcast.isOpen b.queue x then b else x) := by
  unfold Pkg.setBcast Bcast.isOpen
  refine List.map_congr_left (fun x _ => ?_)
  by_cases hx : x.queue = b.queue <;> simp [hx]

/-- The open broadcast put back is the one then found. -/
theorem bcast?_setBcast {p : Pkg} {q : Nat} {b b' : Bcast} (h : p.bcast? q = some b) (hqueue : b'.queue = q) (hopen : b'.closed = false) :
    (p.setBcast b').bcast? q = some b' := by
  show (p.setBcast b').ckp.bcasts.find? (Bcast.isOpen q) = some b'
  rw [setBcast_bcasts, hqueue, find?_map_replaced _ _ (fun _ => b') (fun _ _ => by simp [Bcast.isOpen, hqueue, hopen]),
    show p.ckp.bcasts.find? (Bcast.isOpen q) = some b from h]
  rfl

/-- A broadcast put back closed leaves its queue without one. -/
theorem bcast?_setBcast_closed (p : Pkg) (b : Bcast) : (p.setBcast { b with closed := true }).bcast? b.queue = none := by
  show (p.setBcast { b with closed := true }).ckp.bcasts.find? (Bcast.isOpen b.queue) = none
  rw [setBcast_bcasts]
  exact find?_map_dropped _ _ _ (by simp [Bcast.isOpen])

theorem bcast?_of_tree {p p' : Pkg} (h : p'.tree = p.tree) (q : Nat) : p'.bcast? q = p.bcast? q := by
  have hbcasts : p'.ckp.bcasts = p.ckp.bcasts := congrArg Prod.fst h
  unfold Pkg.bcast?
  rw [hbcasts]

theorem sent_of_tree {p p' : Pkg} (h : p'.tree = p.tree) : p'.ckp.sent = p.ckp.sent := congrArg Prod.snd h

/-! ### Messages -/

/-- A message to each of a list of members leaves in their order. -/
theorem foldl_tell_sent (q : Nat) (m : BcastMsg) (cs : List BcastChild) (p : Pkg) :
    (cs.foldl (fun u c => u.tell q c.member m) p).ckp.sent = p.ckp.sent ++ cs.map (fun c => ⟨q, c.member, m⟩) := by
  induction cs generalizing p with
  | nil => simp
  | cons c cs ih =>
    rw [List.foldl_cons, ih]
    simp [Pkg.tell]

theorem foldl_tell_bcast? (q : Nat) (m : BcastMsg) (cs : List BcastChild) (k : Nat) (p : Pkg) :
    (cs.foldl (fun u c => u.tell q c.member m) p).bcast? k = p.bcast? k := by
  induction cs generalizing p with
  | nil => rfl
  | cons c cs ih =>
    rw [List.foldl_cons, ih]
    rfl

/-- A broadcast that lacks a block, and the originator's, is not done (R535). -/
theorem bcastDone_of_open {p : Pkg} {e : Env} {q : Nat} {b : Bcast} (h : p.bcast? q = some b) (hopen : b.origin = true ∨ b.done < b.blocks) :
    p.bcastDone e q = p := by
  unfold Pkg.bcastDone
  rw [h]
  refine if_neg ?_
  rcases hopen with horigin | hdone
  · simp [horigin]
  · simp [Nat.ne_of_lt hdone]

/-! ### What each message does -/

section
variable {p : Pkg} {e : Env} {q : Nat} {b : Bcast}

theorem bcastBlock_of_none (h : p.bcast? q = none) (m : BcastMsg) : bcastBlock q m e p = p := by
  unfold bcastBlock
  rw [h]

variable (h : p.bcast? q = some b)
include h

theorem bcastBlock_block (i : Nat) (data : List Byte) : bcastBlock q (.block i data) e p = if b.origin then p else p.bcastTake e b i data := by
  unfold bcastBlock
  rw [h]

theorem bcastBlock_table (bitmap : Nat) (bytes : List Byte) :
    bcastBlock q (.table bitmap bytes) e p = if b.origin then p else p.bcastTable e b bitmap bytes := by
  unfold bcastBlock
  rw [h]

theorem bcastBlock_attach (m crc next : Nat) : bcastBlock q (.attach m crc next) e p = (p.bcastAdopt e b m crc next).bcastDone e q := by
  unfold bcastBlock
  rw [h]

theorem bcastBlock_ack (m next : Nat) : bcastBlock q (.ack m next) e p = (p.setBcast { b with children := b.children.map (fun (c : BcastChild) =>
    if c.member = m then { c with acked := max c.acked next, heard := e.hall } else c) }).bcastDone e q := by
  unfold bcastBlock
  rw [h]

theorem bcastBlock_mismatch : bcastBlock q .mismatch e p = if b.origin then p else p.bcastEnd e b (fun u => u.abort e.tag 0x77) := by
  unfold bcastBlock
  rw [h]

end

/-- A block out of turn, or before the table, is not taken (R533). -/
theorem bcastTake_of_other {p : Pkg} {e : Env} {b : Bcast} {i : Nat} (h : b.table = [] ∨ i ≠ b.done ∨ b.blocks ≤ b.done) (data : List Byte) :
    p.bcastTake e b i data = p := if_pos (by simpa using h)

section
variable {p : Pkg} {e : Env} {b : Bcast} {data : List Byte} (htable : b.table ≠ []) (hmore : b.done < b.blocks)
include htable hmore

/-- The next block that fails its check is asked for again. -/
theorem bcastTake_of_wrong (h : data.length ≠ b.blockLen b.done ∨ sha256 data ≠ (b.table.drop (32 * b.done)).take 32) :
    p.bcastTake e b b.done data = p.bcastFail e b := by
  unfold Pkg.bcastTake
  rw [if_neg (by simpa using ⟨htable, hmore⟩), if_pos h]

/-- A member with the next block. -/
def Bcast.takes (b : Bcast) (now : Nat) : Bcast := { b with done := b.done + 1, quiet := now, served := now }

/-- The next block is written, acknowledged and forwarded (R533). -/
theorem bcastTake_of_next (hlen : data.length = b.blockLen b.done) (hsha : sha256 data = (b.table.drop (32 * b.done)).take 32)
    (hlast : b.done + 1 < b.blocks) :
    p.bcastTake e b b.done data = (b.children.filter (fun c => c.attached)).foldl (fun (u : Pkg) c => u.tell b.queue c.member (.block b.done data))
      (((p.setBcast (b.takes e.hall)).storeOrHold e (.descriptor b.queue) (b.image + imageBlock * b.done) data).1.tell b.queue b.parent
        (.ack b.me (b.done + 1))) := by
  unfold Pkg.bcastTake
  rw [if_neg (by simpa using ⟨htable, hmore⟩), if_neg (by simp [hlen, hsha])]
  exact if_neg (Nat.ne_of_lt hlast)

end

/-- A table of the image's digest is kept and forwarded (R533). -/
theorem bcastTable_of_digest {p : Pkg} {e : Env} {b : Bcast} {bitmap : Nat} {bytes : List Byte} (htable : b.table = [])
    (hlen : bytes.length = 32 * b.blocks) (hsha : (∀ x ∈ b.digest, x = 0) ∨ sha256 bytes = b.digest) :
    p.bcastTable e b bitmap bytes = (b.children.filter (fun c => c.attached)).foldl (fun (u : Pkg) c => u.tell b.queue c.member (.table bitmap bytes))
      ((p.setBcast { b with table := bytes, bitmap := bitmap }).storeOrHold e (.descriptor b.queue) b.tableAt bytes).1 := by
  unfold Pkg.bcastTable
  rw [if_neg (by simp [htable]), if_neg (by simpa [hlen, imp_iff_not_or] using hsha)]

/-! ### Waits -/

section
variable {p : Pkg} {e : Env} {q : Nat} {b : Bcast}

theorem bcastReattach_of_none (h : p.bcast? q = none) : bcastReattach q e p = p := by
  unfold bcastReattach
  rw [h]

theorem bcastChildDrop_of_none (h : p.bcast? q = none) (c : Nat) : bcastChildDrop q c e p = p := by
  unfold bcastChildDrop
  rw [h]

theorem bcastWaitExpiry_of_none (h : p.bcast? q = none) : bcastWaitExpiry q e p = p := by
  unfold bcastWaitExpiry
  rw [h]

/-- A member that re-attaches asks its parent's parent to serve it (R534). -/
def Bcast.climbs (b : Bcast) (now : Nat) : Bcast := { b with parent := memberParent b.parent, reattached := b.reattached + 1, fails := 0, quiet := now }

/-- The counter of re-attachments is the descriptor's engine's. -/
def Pkg.bcastEngine (p : Pkg) (b : Bcast) : Nat := match p.runOf b.queue with | some u => ckEngine u.desc | none => 0

theorem bcastUp_of_parent (h : b.parent ≠ 0) : p.bcastUp e b = ((p.setBcast (b.climbs e.hall)).ckpCount (p.bcastEngine b)
    (Reg.CKP_CNT_REATTACH (p.bcastEngine b)) 1).bcastAttach (b.climbs e.hall) := if_neg h

theorem bcastUp_of_root (h : b.parent = 0) : p.bcastUp e b = p := if_pos h

section
variable (h : p.bcast? q = some b)
include h

theorem bcastReattach_of_quiet (horigin : b.origin = false) (hmore : b.done < b.blocks) (hquiet : b.quiet + bcastQuiet ≤ e.hall) :
    bcastReattach q e p = p.bcastUp e b := by
  unfold bcastReattach
  rw [h]
  exact if_pos (by simp [horigin, hmore, hquiet])

theorem bcastReattach_of_served (hkept : b.origin = true ∨ b.blocks ≤ b.done ∨ e.hall < b.quiet + bcastQuiet) : bcastReattach q e p = p := by
  unfold bcastReattach
  rw [h]
  refine if_neg ?_
  simp only [Bool.and_eq_true, Bool.not_eq_true', decide_eq_true_eq, and_assoc, not_and, Nat.not_le]
  intro horigin hmore
  exact (hkept.resolve_left (by simp [horigin])).resolve_left (Nat.not_le.2 hmore)

/-- A member that climbs no higher than the originator stays. -/
theorem bcastReattach_of_root (horigin : b.origin = false) (hroot : b.parent = 0) : bcastReattach q e p = p := by
  by_cases hwait : b.done < b.blocks ∧ b.quiet + bcastQuiet ≤ e.hall
  · exact (bcastReattach_of_quiet h horigin hwait.1 hwait.2).trans (bcastUp_of_root hroot)
  · refine bcastReattach_of_served h (.inr ?_)
    rcases Nat.lt_or_ge b.done b.blocks with hmore | hall
    · exact .inr (Nat.not_le.1 (fun hquiet => hwait ⟨hmore, hquiet⟩))
    · exact .inl hall

/-- A child silent for 2 ms is served no longer (R534). -/
theorem bcastChildDrop_of_silent {c : BcastChild} (hc : c ∈ b.children) (hmore : c.acked < b.blocks) (hquiet : c.heard + bcastQuiet ≤ e.hall) :
    bcastChildDrop q c.member e p = (p.setBcast { b with children := b.children.filter (fun x => x.member ≠ c.member) }).bcastDone e q := by
  unfold bcastChildDrop
  rw [h]
  exact if_pos (List.any_eq_true.2 ⟨c, hc, by simp [hmore, hquiet]⟩)

theorem bcastChildDrop_of_heard {m : Nat} (hheard : ∀ c ∈ b.children, c.member = m → e.hall < c.heard + bcastQuiet) : bcastChildDrop q m e p = p := by
  unfold bcastChildDrop
  rw [h]
  refine if_neg (fun hany => ?_)
  obtain ⟨c, hc, hsilent⟩ := List.any_eq_true.1 hany
  simp only [Bool.and_eq_true, beq_iff_eq, decide_eq_true_eq] at hsilent
  exact absurd (hheard c hc hsilent.1.1) (Nat.not_lt.2 hsilent.2)

theorem bcastWaitExpiry_eq : bcastWaitExpiry q e p =
    if b.origin then
      if b.bitHall + b.waitNs ≤ e.hall then p.bcastEnd e b (fun u => { u.raise e.tag 0x2c with detail := clearBits b (p.bitmapBytes b) }) else p
    else if b.done < b.blocks && b.served + b.waitNs ≤ e.hall then
      (p.freeBytes b.image b.bytes).bcastEnd e b (fun u => { u.raise e.tag 0x3b with undef := true })
    else p := by
  unfold bcastWaitExpiry
  rw [h]

theorem bcastWaitExpiry_of_origin (horigin : b.origin = true) (hlate : b.bitHall + b.waitNs ≤ e.hall) : bcastWaitExpiry q e p =
    p.bcastEnd e b (fun u => { u.raise e.tag 0x2c with detail := clearBits b (p.bitmapBytes b) }) := by
  rw [bcastWaitExpiry_eq h, if_pos horigin, if_pos hlate]

theorem bcastWaitExpiry_of_member (horigin : b.origin = false) (hmore : b.done < b.blocks) (hlate : b.served + b.waitNs ≤ e.hall) :
    bcastWaitExpiry q e p = (p.freeBytes b.image b.bytes).bcastEnd e b (fun u => { u.raise e.tag 0x3b with undef := true }) := by
  rw [bcastWaitExpiry_eq h, if_neg (by simp [horigin]), if_pos (by simp [hmore, hlate])]

end

/-! ### The end of a broadcast (R535) -/

/-- An originator's run ends with the count of clear bits, and an unserved member's with an undefined image (R535, R536). -/
def Run.endsShort (tag clear : Nat) (u : Run) : Run := { u.raise tag 0x2c with detail := clear }
def Run.endsUnserved (tag : Nat) (u : Run) : Run := { u.raise tag 0x3b with undef := true }

/-- What the end of a broadcast makes of its descriptor. -/
def Bcast.ends (b : Bcast) (tag : Nat) (f : Run → Run) (u : Run) : Run :=
  { f { u with kindInfo := min 0xffff b.reattached, detail := 0 } with finished := true, endBeat := tag }

theorem bcastEnd_bcast? (p : Pkg) (e : Env) (b : Bcast) (f : Run → Run) : (p.bcastEnd e b f).bcast? b.queue = none := bcast?_setBcast_closed p b

theorem bcastEnd_byte (p : Pkg) (e : Env) (b : Bcast) (f : Run → Run) (a : Nat) : (p.bcastEnd e b f).byte a = p.byte a := rfl

theorem bcastEnd_runOf {u : Run} {f : Run → Run} (hf : ∀ x, (f x).queue = x.queue) (h : p.runOf b.queue = some u) :
    (p.bcastEnd e b f).runOf b.queue = some (b.ends e.tag f u) := by
  have hruns : (p.bcastEnd e b f).dsp.runs = p.dsp.runs.map (fun x => if decide (x.queue = b.queue) then b.ends e.tag f x else x) :=
    List.map_congr_left (fun x _ => by simp only [decide_eq_true_eq]; rfl)
  show (p.bcastEnd e b f).dsp.runs.find? (fun r => decide (r.queue = b.queue)) = _
  rw [hruns, find?_map_replaced _ _ _ (fun x hx => by simpa [Bcast.ends, hf] using hx),
    show p.dsp.runs.find? (fun r => decide (r.queue = b.queue)) = some u from h]
  rfl

end

end Sys2Proof.Machine

namespace Sys2Proof

open Machine

section
variable {s : State} {q : Fin 64} (hwork : s.pkg.working = true)
include hwork

theorem becomes_bcastBlock (m : BcastMsg) : Becomes (.bcastBlock q m) s (bcastBlock q m s.env s.pkg) := becomes_work rfl hwork rfl

theorem becomes_bcastReattach : Becomes (.bcastReattach q) s (bcastReattach q s.env s.pkg) := becomes_work rfl hwork rfl

theorem becomes_bcastChildDrop (c : Nat) : Becomes (.bcastChildDrop q c) s (bcastChildDrop q c s.env s.pkg) := becomes_work rfl hwork rfl

theorem becomes_bcastWaitExpiry : Becomes (.bcastMemberWaitExpiry q) s (bcastWaitExpiry q s.env s.pkg) := becomes_work rfl hwork rfl

variable {b : Bcast} (h : s.pkg.bcast? q = some b)
include h

/-- The next block: written, acknowledged, forwarded (R533). -/
theorem answers_nextBlock (horigin : b.origin = false) (htable : b.table ≠ []) (hmore : b.done < b.blocks) {data : List Byte}
    (hlen : data.length = b.blockLen b.done) (hsha : sha256 data = (b.table.drop (32 * b.done)).take 32) (hlast : b.done + 1 < b.blocks) :
    let w := (s.pkg.setBcast (b.takes s.env.hall)).storeOrHold s.env (.descriptor b.queue) (b.image + imageBlock * b.done) data
    Becomes (.bcastBlock q (.block b.done data)) s ((b.children.filter (fun c => c.attached)).foldl (fun (u : Pkg) c =>
      u.tell b.queue c.member (.block b.done data)) (w.1.tell b.queue b.parent (.ack b.me (b.done + 1)))) ∧
    Answers (.bcastBlock q (.block b.done data)) s (fun t => ∃ v, t.pkg.bcast? q = some v ∧ v.done = b.done + 1 ∧ v.quiet = s.env.hall ∧
      v.served = s.env.hall ∧ t.pkg.ckp.sent = s.pkg.ckp.sent ++ (⟨q, b.parent, .ack b.me (b.done + 1)⟩ ::
        (b.children.filter (fun c => c.attached)).map (fun c => ⟨q, c.member, .block b.done data⟩))) := by
  intro w
  obtain ⟨hqueue, hopen⟩ := isOpen_of_bcast? h
  have htree : w.1.tree = (s.pkg.setBcast (b.takes s.env.hall)).tree := storeOrHold_tree _ s.env _ _ _
  have hbec := (becomes_bcastBlock hwork (.block b.done data)).of_eq ((bcastBlock_block h b.done data).trans ((if_neg (by simp [horigin])).trans
    (bcastTake_of_next htable hmore hlen hsha hlast)))
  refine ⟨hbec, hbec.answers ⟨b.takes s.env.hall, ?_, rfl, rfl, rfl, ?_⟩⟩
  · refine (foldl_tell_bcast? _ _ _ _ _).trans ((bcast?_of_tree htree q).trans (bcast?_setBcast h hqueue hopen))
  · refine (foldl_tell_sent _ _ _ _).trans ?_
    rw [show (w.1.tell b.queue b.parent (.ack b.me (b.done + 1))).ckp.sent = w.1.ckp.sent ++ [⟨b.queue, b.parent, .ack b.me (b.done + 1)⟩] from rfl,
      sent_of_tree htree, hqueue, List.append_assoc]
    rfl

/-- The table of the image's digest: kept and forwarded (R533). -/
theorem answers_table (horigin : b.origin = false) (htable : b.table = []) (bitmap : Nat) {bytes : List Byte} (hlen : bytes.length = 32 * b.blocks)
    (hsha : (∀ x ∈ b.digest, x = 0) ∨ sha256 bytes = b.digest) :
    Answers (.bcastBlock q (.table bitmap bytes)) s (fun t => ∃ v, t.pkg.bcast? q = some v ∧ v.table = bytes ∧ v.bitmap = bitmap ∧
      t.pkg.ckp.sent = s.pkg.ckp.sent ++ (b.children.filter (fun c => c.attached)).map (fun c => ⟨q, c.member, .table bitmap bytes⟩)) := by
  obtain ⟨hqueue, hopen⟩ := isOpen_of_bcast? h
  have htree := storeOrHold_tree (s.pkg.setBcast { b with table := bytes, bitmap := bitmap }) s.env (.descriptor b.queue) b.tableAt bytes
  refine ((becomes_bcastBlock hwork (.table bitmap bytes)).of_eq ((bcastBlock_table h bitmap bytes).trans ((if_neg (by simp [horigin])).trans
    (bcastTable_of_digest htable hlen hsha)))).answers ⟨{ b with table := bytes, bitmap := bitmap }, ?_, rfl, rfl, ?_⟩
  · exact (foldl_tell_bcast? _ _ _ _ _).trans ((bcast?_of_tree htree q).trans (bcast?_setBcast h hqueue hopen))
  · refine (foldl_tell_sent _ _ _ _).trans ?_
    rw [sent_of_tree htree, hqueue]
    rfl

omit hwork in
/-- A package that puts an unfinished broadcast back, and no more. -/
theorem keeps_of_setBcast {b' : Bcast} (hqueue : b'.queue = b.queue) (hclosed : b'.closed = b.closed) (hunfinished : b'.origin = true ∨ b'.done < b'.blocks) :
    let t := s.lift (fun _ _ => (s.pkg.setBcast b').bcastDone s.env q)
    t.pkg.bcast? q = some b' ∧ t.pkg.ckp.sent = s.pkg.ckp.sent ∧ KeepsRegs [] s t ∧ KeepsMem s t ∧ KeepsBlock s t := by
  obtain ⟨hown, hopen⟩ := isOpen_of_bcast? h
  have hput := bcast?_setBcast h (hqueue.trans hown) (hclosed.trans hopen)
  rw [bcastDone_of_open hput hunfinished]
  exact ⟨hput, rfl, fun _ _ => rfl, fun _ => rfl, lift_keeps s _⟩

/-- A child's acknowledgement, and a child that attaches before the table (R532, R533). -/
theorem answers_ack (hmore : b.done < b.blocks) (m next : Nat) : Answers (.bcastBlock q (.ack m next)) s (fun t => ∃ v, t.pkg.bcast? q = some v ∧
    v.children = b.children.map (fun c => if c.member = m then { c with acked := max c.acked next, heard := s.env.hall } else c) ∧
    KeepsRegs [] s t ∧ KeepsMem s t ∧ KeepsBlock s t) := by
  obtain ⟨hput, -, hkeeps⟩ := keeps_of_setBcast h (b' := { b with children := b.children.map (fun (c : BcastChild) =>
    if c.member = m then { c with acked := max c.acked next, heard := s.env.hall } else c) }) rfl rfl (.inr hmore)
  exact ((becomes_bcastBlock hwork (.ack m next)).of_eq (bcastBlock_ack h m next)).answers ⟨_, hput, rfl, hkeeps⟩

theorem answers_attach (htable : b.table = []) (hmore : b.done < b.blocks) (m next : Nat) :
    Answers (.bcastBlock q (.attach m b.tableCrc next)) s (fun t => ∃ v, t.pkg.bcast? q = some v ∧
      v.children = b.children.filter (fun c => c.member ≠ m) ++ [⟨m, true, next, s.env.hall⟩] ∧ t.pkg.ckp.sent = s.pkg.ckp.sent) := by
  have hadopt : s.pkg.bcastAdopt s.env b m b.tableCrc next =
      s.pkg.setBcast { b with children := b.children.filter (fun c => c.member ≠ m) ++ [⟨m, true, next, s.env.hall⟩] } := by
    unfold Pkg.bcastAdopt
    rw [if_neg (fun hne => hne rfl)]
    exact if_pos (by simp [htable])
  obtain ⟨hput, hsent, -⟩ := keeps_of_setBcast h
    (b' := { b with children := b.children.filter (fun c => c.member ≠ m) ++ [⟨m, true, next, s.env.hall⟩] }) rfl rfl (.inr hmore)
  refine ((becomes_bcastBlock hwork (.attach m b.tableCrc next)).of_eq (bcastBlock_attach h m b.tableCrc next)).answers
    ⟨{ b with children := b.children.filter (fun c => c.member ≠ m) ++ [⟨m, true, next, s.env.hall⟩] }, ?_, rfl, ?_⟩
  · rw [hadopt]
    exact hput
  · rw [hadopt]
    exact hsent

/-- A quiet member re-attaches above its parent (R534). -/
theorem answers_reattach (horigin : b.origin = false) (hmore : b.done < b.blocks) (hquiet : b.quiet + bcastQuiet ≤ s.env.hall) (hparent : b.parent ≠ 0) :
    Answers (.bcastReattach q) s (fun t => ∃ v, t.pkg.bcast? q = some v ∧ v.parent = (b.parent - 1) / 8 ∧ v.reattached = b.reattached + 1 ∧
      v.quiet = s.env.hall ∧ t.pkg.ckp.sent = s.pkg.ckp.sent ++ [⟨q, (b.parent - 1) / 8, .attach b.me b.tableCrc b.done⟩] ∧ KeepsMem s t ∧
      KeepsBlock s t) := by
  obtain ⟨hqueue, hopen⟩ := isOpen_of_bcast? h
  have hcount := bump_tree (s.pkg.setBcast (b.climbs s.env.hall)) (Reg.CKP_CTRL (s.pkg.bcastEngine b)) Fld.CKP_CNT_FREEZE
    (Reg.CKP_CNT_REATTACH (s.pkg.bcastEngine b)) 1
  refine ((becomes_bcastReattach hwork).of_eq ((bcastReattach_of_quiet h horigin hmore hquiet).trans (bcastUp_of_parent hparent))).answers
    ⟨b.climbs s.env.hall, ?_, rfl, rfl, rfl, ?_, fun a => bump_byte _ _ _ _ _ _, lift_keeps s _⟩
  · exact (bcast?_of_tree hcount q).trans (bcast?_setBcast h hqueue hopen)
  · exact congrArg₂ (fun xs k => xs ++ [⟨k, (b.parent - 1) / 8, .attach b.me b.tableCrc b.done⟩]) (sent_of_tree hcount) hqueue

/-- A silent child is dropped (R534). -/
theorem answers_childDrop {c : BcastChild} (hc : c ∈ b.children) (hmore : c.acked < b.blocks) (hquiet : c.heard + bcastQuiet ≤ s.env.hall)
    (hunfinished : b.origin = true ∨ b.done < b.blocks) : Answers (.bcastChildDrop q c.member) s (fun t => ∃ v, t.pkg.bcast? q = some v ∧
      v.children = b.children.filter (fun x => x.member ≠ c.member) ∧ KeepsRegs [] s t ∧ KeepsMem s t ∧ KeepsBlock s t) := by
  obtain ⟨hput, -, hkeeps⟩ := keeps_of_setBcast h (b' := { b with children := b.children.filter (fun x => x.member ≠ c.member) }) rfl rfl
    hunfinished
  exact ((becomes_bcastChildDrop hwork c.member).of_eq (bcastChildDrop_of_silent h hc hmore hquiet)).answers ⟨_, hput, rfl, hkeeps⟩

/-- The originator's wait ends its descriptor with the count of clear bits (R535). -/
theorem answers_originatorWait (horigin : b.origin = true) (hlate : b.bitHall + b.waitNs ≤ s.env.hall) {u : Run} (hrun : s.pkg.runOf q = some u) :
    Answers (.bcastMemberWaitExpiry q) s (fun t => t.pkg.bcast? q = none ∧ KeepsMem s t ∧ ∃ v, t.pkg.runOf q = some v ∧ v.finished = true ∧
      (s.env.tag, 0x2c) ∈ v.statuses ∧ v.detail = clearBits b (s.pkg.bitmapBytes b)) := by
  obtain ⟨hqueue, -⟩ := isOpen_of_bcast? h
  refine ((becomes_bcastWaitExpiry hwork).of_eq (bcastWaitExpiry_of_origin h horigin hlate)).answers ⟨?_, fun _ => rfl,
    b.ends s.env.tag (Run.endsShort s.env.tag (clearBits b (s.pkg.bitmapBytes b))) u, ?_, rfl,
    List.mem_append_right _ (List.mem_singleton.2 rfl), rfl⟩
  · exact hqueue ▸ bcastEnd_bcast? s.pkg s.env b (Run.endsShort s.env.tag (clearBits b (s.pkg.bitmapBytes b)))
  · have hend := bcastEnd_runOf (p := s.pkg) (e := s.env) (f := Run.endsShort s.env.tag (clearBits b (s.pkg.bitmapBytes b))) (fun _ => rfl)
      (hqueue ▸ hrun)
    exact hqueue ▸ hend

/-- An unserved member's wait ends its descriptor, with its image undefined (R536). -/
theorem answers_memberWait (horigin : b.origin = false) (hmore : b.done < b.blocks) (hlate : b.served + b.waitNs ≤ s.env.hall) {u : Run}
    (hrun : s.pkg.runOf q = some u) : Answers (.bcastMemberWaitExpiry q) s (fun t => t.pkg.bcast? q = none ∧
      ∃ v, t.pkg.runOf q = some v ∧ v.finished = true ∧ (s.env.tag, 0x3b) ∈ v.statuses ∧ v.undef = true) := by
  obtain ⟨hqueue, -⟩ := isOpen_of_bcast? h
  have hfree := runOf_of_dsp (freeBytes_dsp s.pkg b.image b.bytes) q
  refine ((becomes_bcastWaitExpiry hwork).of_eq (bcastWaitExpiry_of_member h horigin hmore hlate)).answers ⟨?_,
    b.ends s.env.tag (Run.endsUnserved s.env.tag) u, ?_, rfl,
    List.mem_append_right _ (List.mem_singleton.2 rfl), rfl⟩
  · exact hqueue ▸ bcastEnd_bcast? (s.pkg.freeBytes b.image b.bytes) s.env b (Run.endsUnserved s.env.tag)
  · have hend := bcastEnd_runOf (e := s.env) (f := Run.endsUnserved s.env.tag) (fun _ => rfl) (hqueue ▸ hfree.trans hrun)
    exact hqueue ▸ hend

end

/-- Settles O54: the messages and the waits one by one. -/
theorem broadcasts : Obligations.Broadcasts := by
  unfold Obligations.Broadcasts
  intro s q hwork p e
  have hblock (m : BcastMsg) := becomes_bcastBlock (q := q) hwork m
  have hwait := becomes_bcastWaitExpiry (q := q) hwork
  refine ⟨fun hnone => ⟨fun m => (hblock m).of_eq (bcastBlock_of_none hnone m), (becomes_bcastReattach hwork).of_eq (bcastReattach_of_none hnone),
    fun c => (becomes_bcastChildDrop hwork c).of_eq (bcastChildDrop_of_none hnone c), hwait.of_eq (bcastWaitExpiry_of_none hnone)⟩, fun b h => ?_⟩
  refine ⟨fun i data hother => (hblock _).of_eq ?_,
    fun data horigin htable hmore => ⟨fun hwrong => (hblock _).of_eq ?_, fun hlen hsha hlast => answers_nextBlock hwork h horigin htable hmore hlen hsha hlast⟩,
    fun bitmap bytes horigin htable _ hlen hsha => answers_table hwork h horigin htable bitmap hlen hsha,
    fun bitmap bytes hother => (hblock _).of_eq ?_, fun m next hmore => answers_ack hwork h hmore m next,
    fun m crc next hcrc => (hblock _).of_eq ?_, fun m next htable hmore => answers_attach hwork h htable hmore m next,
    fun horigin => (hblock _).of_eq ?_, fun horigin hmore hquiet hparent => answers_reattach hwork h horigin hmore hquiet hparent,
    fun horigin hroot => (becomes_bcastReattach hwork).of_eq (bcastReattach_of_root h horigin hroot),
    fun hkept => (becomes_bcastReattach hwork).of_eq (bcastReattach_of_served h hkept),
    fun c hc hmore hquiet => (becomes_bcastChildDrop hwork _).of_eq (bcastChildDrop_of_silent h hc hmore hquiet),
    fun c hc hmore hquiet hunfinished => answers_childDrop hwork h hc hmore hquiet hunfinished,
    fun m hheard => (becomes_bcastChildDrop hwork m).of_eq (bcastChildDrop_of_heard h hheard),
    fun horigin hlate => hwait.of_eq (bcastWaitExpiry_of_origin h horigin hlate),
    fun u hrun horigin hlate => answers_originatorWait hwork h horigin hlate hrun,
    fun u hrun horigin hmore hlate => answers_memberWait hwork h horigin hmore hlate hrun, fun horigin hearly => hwait.of_eq ?_,
    fun horigin hmore hlate => hwait.of_eq (bcastWaitExpiry_of_member h horigin hmore hlate), fun horigin hkept => hwait.of_eq ?_⟩
  · rw [bcastBlock_block h]
    rcases hother with horigin | hother
    · exact if_pos horigin
    · rw [bcastTake_of_other hother, ite_self]
  · rw [bcastBlock_block h, if_neg (by simp [horigin]), bcastTake_of_wrong htable hmore hwrong]
  · rw [bcastBlock_table h]
    rcases hother with horigin | htable
    · exact if_pos horigin
    · rw [show s.pkg.bcastTable s.env b bitmap bytes = s.pkg from if_pos (by simpa using htable), ite_self]
  · rw [bcastBlock_attach h, show s.pkg.bcastAdopt s.env b m crc next = s.pkg.tell b.queue m .mismatch from if_pos hcrc, (isOpen_of_bcast? h).1]
  · rw [bcastBlock_mismatch h, if_neg (by simp [horigin])]
  · rw [bcastWaitExpiry_eq h, if_pos horigin, if_neg (Nat.not_le.2 hearly)]
  · rw [bcastWaitExpiry_eq h, if_neg (by simp [horigin])]
    refine if_neg ?_
    simp only [Bool.and_eq_true, decide_eq_true_eq, not_and, Nat.not_le]
    exact fun hmore => hkept.resolve_left (Nat.not_le.2 hmore)

end Sys2Proof

/-! SUPPORT. What an answer of a mailbox shows, and which command a row serves (R546, R548 to R552). -/

namespace Sys2Proof.Machine

/-! ### Answers (R546, R549, R550) -/

/-- The registers in which mailbox `m` answers: its status, its response area and the count of commands. -/
def answerRegs (m : Nat) : List Nat := Reg.MGT_MB_STATUS m :: Reg.MGT_CNT_CMD :: (List.range 32).map (Reg.MGT_MB_RSP m)

/-- The area that a command is answered with. -/
def mbArea (e : Env) (c : MbCmd) (res detail : Nat) (data : List Byte) : List Byte :=
  padTo 256 (leBytes 1 res ++ leBytes 1 c.op ++ leBytes 2 data.length ++ leBytes 4 detail ++ leBytes 8 e.hall ++ data)

/-- The refusal of a protection command, logged. -/
def Pkg.mbNoted (p : Pkg) (c : MbCmd) (res : Nat) : Pkg :=
  if (c.op = 0x20 ∨ c.op = 0x21 ∨ c.op = 0x22) ∧ res ≠ resDone then p.record 30 0 7 5 (p.protOf c) else p

/-- The status of mailbox `m` as an answer leaves it. -/
def Pkg.mbStatus (p : Pkg) (m : Nat) (c : MbCmd) (res : Nat) : Pkg :=
  let k := Reg.MGT_MB_STATUS m
  (((p.setFld k Fld.MGT_MB_RESULT res).setFld k Fld.MGT_MB_DONE_TAG c.tag).setFld k Fld.MGT_MB_DONE 1).setFld k Fld.MGT_MB_BUSY 0

/-- What an answer shows: the refusal's record, the response area, the status, the interrupt and the count. -/
def Pkg.mbShown (p : Pkg) (e : Env) (m : Nat) (c : MbCmd) (res detail : Nat) (data : List Byte) : Pkg :=
  ((((p.mbNoted c res).setResponse m (mbArea e c res detail data)).mbStatus m c res).raiseIrq 13 30 (114 + m)).mgtCount Reg.MGT_CNT_CMD 1

theorem mbAnswer_eq (p : Pkg) (e : Env) (m : Nat) (c : MbCmd) (res detail : Nat) (data : List Byte) : p.mbAnswer e m c res detail data =
    { p.mbShown e m c res detail data with
      mbox := (p.mbShown e m c res detail data).mbox.filter (fun x => x.1 ≠ m)
      mgt := { (p.mbShown e m c res detail data).mgt with
        oob := (p.mbShown e m c res detail data).mgt.oob ++ (if c.oob then [⟨m, c.tag, mbArea e c res detail data⟩] else []) } } := rfl

section
variable (p : Pkg) (e : Env) (m : Nat) (c : MbCmd) (res detail : Nat) (data : List Byte)

theorem mbNoted_reg (k : Nat) : (p.mbNoted c res).reg k = p.reg k := by
  unfold Pkg.mbNoted
  split <;> rfl

theorem mbNoted_inner : (p.mbNoted c res).inner = p.inner := by
  unfold Pkg.mbNoted
  split <;> rfl

theorem setResponse_reg {k : Nat} (hk : ∀ i < 32, k ≠ Reg.MGT_MB_RSP m i) (bs : List Byte) : (p.setResponse m bs).reg k = p.reg k :=
  foldl_reg _ _ k (fun q i hi => setNat_reg_ne q _ _ _ (hk i (List.mem_range.1 hi))) p

theorem setResponse_inner (bs : List Byte) : (p.setResponse m bs).inner = p.inner := by
  unfold Pkg.setResponse
  induction List.range 32 generalizing p with
  | nil => rfl
  | cons i is ih => rw [List.foldl_cons, ih, setNat_inner]

theorem setResponse_raised (bs : List Byte) : (p.setResponse m bs).raised = p.raised := by
  unfold Pkg.setResponse
  induction List.range 32 generalizing p with
  | nil => rfl
  | cons i is ih => rw [List.foldl_cons, ih, setNat_raised]

theorem mbStatus_inner : (p.mbStatus m c res).inner = p.inner := rfl

theorem mbStatus_result : (p.mbStatus m c res).fld (Reg.MGT_MB_STATUS m) Fld.MGT_MB_RESULT = res % 256 := by
  unfold Pkg.mbStatus
  dsimp only
  rw [fld_setFld_ne _ _ _ _ _ (by decide) (by decide), fld_setFld_ne _ _ _ _ _ (by decide) (by decide),
    fld_setFld_ne _ _ _ _ _ (by decide) (by decide), fld_setFld _ _ _ _ (by decide)]
  rfl

theorem mbStatus_tag : (p.mbStatus m c res).fld (Reg.MGT_MB_STATUS m) Fld.MGT_MB_DONE_TAG = c.tag % 65536 := by
  unfold Pkg.mbStatus
  dsimp only
  rw [fld_setFld_ne _ _ _ _ _ (by decide) (by decide), fld_setFld_ne _ _ _ _ _ (by decide) (by decide), fld_setFld _ _ _ _ (by decide)]
  rfl

theorem mbStatus_done : (p.mbStatus m c res).fld (Reg.MGT_MB_STATUS m) Fld.MGT_MB_DONE = 1 := by
  unfold Pkg.mbStatus
  dsimp only
  rw [fld_setFld_ne _ _ _ _ _ (by decide) (by decide), fld_setFld _ _ _ _ (by decide)]
  decide

theorem mbStatus_busy : (p.mbStatus m c res).fld (Reg.MGT_MB_STATUS m) Fld.MGT_MB_BUSY = 0 := by
  unfold Pkg.mbStatus
  dsimp only
  rw [fld_setFld _ _ _ _ (by decide)]
  decide

theorem mbShown_inner : (p.mbShown e m c res detail data).inner = p.inner := by
  unfold Pkg.mbShown Pkg.mgtCount
  rw [bump_inner, raiseIrq_inner, mbStatus_inner]
  exact (setResponse_inner _ m _).trans (mbNoted_inner p c res)

theorem mbShown_reg {k : Nat} (hk : k ∉ answerRegs m) : (p.mbShown e m c res detail data).reg k = p.reg k := by
  simp only [answerRegs, List.mem_cons, List.mem_map, List.mem_range, not_or, not_exists, not_and] at hk
  obtain ⟨hstatus, hcount, hrsp⟩ := hk
  unfold Pkg.mbShown Pkg.mgtCount Pkg.mbStatus
  dsimp only
  rw [bump_reg _ _ _ _ _ _ hcount, raiseIrq_reg, setFld_reg_ne _ _ _ _ _ hstatus, setFld_reg_ne _ _ _ _ _ hstatus,
    setFld_reg_ne _ _ _ _ _ hstatus, setFld_reg_ne _ _ _ _ _ hstatus, setResponse_reg _ _ (fun i hi heq => hrsp i hi heq.symm), mbNoted_reg]

/-- The count of commands is no mailbox's status. -/
theorem mbShown_status (hm : m < 16) : (p.mbShown e m c res detail data).reg (Reg.MGT_MB_STATUS m) =
    (((p.mbNoted c res).setResponse m (mbArea e c res detail data)).mbStatus m c res).reg (Reg.MGT_MB_STATUS m) :=
  (bump_reg _ _ _ _ _ _ (by unfold Reg.MGT_MB_STATUS Reg.MGT_CNT_CMD; omega)).trans (raiseIrq_reg ..)

end

/-- What an answer to a command of mailbox `m` does to the package. -/
structure AnswersMb (p q : Pkg) (m : Nat) (c : MbCmd) (res : Nat) : Prop where
  result : q.fld (Reg.MGT_MB_STATUS m) Fld.MGT_MB_RESULT = res % 256
  done : q.on (Reg.MGT_MB_STATUS m) Fld.MGT_MB_DONE = true
  idle : q.on (Reg.MGT_MB_STATUS m) Fld.MGT_MB_BUSY = false
  tag : q.fld (Reg.MGT_MB_STATUS m) Fld.MGT_MB_DONE_TAG = c.tag % 65536
  mbox : q.mbox = p.mbox.filter (fun x => x.1 ≠ m)
  irq : ∃ i ∈ q.irqs, i.src = 114 + m
  regs : ∀ k, k ∉ answerRegs m → q.reg k = p.reg k
  rest : { q.inner with mbox := p.mbox, mgt := { q.mgt with oob := p.mgt.oob } } = p.inner

theorem mbAnswer_answers (p : Pkg) (e : Env) {m : Nat} (hm : m < 16) (c : MbCmd) (res detail : Nat) (data : List Byte) :
    AnswersMb p (p.mbAnswer e m c res detail data) m c res := by
  rw [mbAnswer_eq]
  have hstatus (f : Field) : (p.mbShown e m c res detail data).fld (Reg.MGT_MB_STATUS m) f = _ :=
    congrArg (fun w => getField w f) (mbShown_status p e m c res detail data hm)
  have hinner := mbShown_inner p e m c res detail data
  refine ⟨(hstatus _).trans (mbStatus_result ..), ?_, ?_, (hstatus _).trans (mbStatus_tag ..), ?_, ?_,
    fun k hk => mbShown_reg p e m c res detail data hk, ?_⟩
  · exact beq_iff_eq.2 ((hstatus _).trans (mbStatus_done ..))
  · exact (congrArg (fun n => n == 1) ((hstatus _).trans (mbStatus_busy ..))).trans rfl
  · exact congrArg (fun xs : List (Nat × MbCmd) => xs.filter (fun x => x.1 ≠ m)) (congrArg Pkg.mbox hinner)
  · show ∃ i ∈ (Pkg.mgtCount _ _ _).irqs, _
    unfold Pkg.mgtCount Pkg.bump
    split <;> exact raiseIrq_mem ..
  · have hall := congrArg (fun q : Pkg => { q with mbox := p.mbox, mgt := { q.mgt with oob := p.mgt.oob } }) hinner
    exact hall

section
variable {p q : Pkg} {m : Nat} {c : MbCmd} {res : Nat} (h : AnswersMb p q m c res)
include h

theorem AnswersMb.byte (a : Nat) : q.byte a = p.byte a := byte_of_mem (congrArg Pkg.mem h.rest) a

theorem AnswersMb.staged : q.staged = p.staged := by
  have hstaged := congrArg Pkg.staged h.rest
  exact hstaged

theorem AnswersMb.proposals : q.mgt.proposals = p.mgt.proposals := by
  have hproposals := congrArg (fun r : Pkg => r.mgt.proposals) h.rest
  exact hproposals

theorem AnswersMb.gone : ∀ x ∈ q.mbox, x.1 ≠ m := by
  rw [h.mbox]
  intro x hx
  simpa using (List.mem_filter.1 hx).2

end

end Sys2Proof.Machine

namespace Sys2Proof.Machine

/-! ### Which command a row serves (R548, R551, R552) -/

section
variable {p : Pkg} {m op : Nat} {k : MbCmd} (hnext : p.mbNext = some (m, k))
include hnext

/-- A reserved opcode is answered by any row. -/
theorem serveMb_reserved (hop : k.op ∉ mbOpcodes) (e : Env) (op : Nat) (body : MbCmd → Pkg) :
    p.serveMb e m op body = p.mbAnswer e m k resBadOpcode 0 [] := by
  unfold Pkg.serveMb
  simp [hnext, hop]

/-- A command that fails a check is answered with the check's result; one not permitted is logged. -/
theorem serveMb_failing (hop : k.op ∈ mbOpcodes) (heq : k.op = op) {r : Nat × Nat} (hcheck : p.mbCheck m k = some r) (e : Env) (body : MbCmd → Pkg) :
    p.serveMb e m op body = (if r.1 = resNotPermitted then p.noteDenied m op else p).mbAnswer e m k r.1 r.2 [] := by
  subst heq
  unfold Pkg.serveMb
  simp [hnext, hop, hcheck]

/-- The second long command of an opcode finds the first in progress. -/
theorem serveMb_busy (hop : k.op ∈ mbOpcodes) (heq : k.op = op) (hcheck : p.mbCheck m k = none) (hlong : mbLong op = true)
    (hbusy : ∃ x ∈ p.mbox, x.2.running = true ∧ x.2.op = op) (e : Env) (body : MbCmd → Pkg) :
    p.serveMb e m op body = p.mbAnswer e m k resBusy 0 [] := by
  subst heq
  have hany : (p.mbox.any fun y => y.2.running && y.2.op == k.op) = true := by
    obtain ⟨x, hx, hrun, hxop⟩ := hbusy
    exact List.any_eq_true.2 ⟨x, hx, by simp [hrun, hxop]⟩
  unfold Pkg.serveMb
  simp [hnext, hop, hcheck, hlong, hany]

/-- The command served next waits in its mailbox. -/
theorem mem_of_mbNext : (m, k) ∈ p.mbox := by
  have hfold (xs : List (Nat × MbCmd)) (best : Option (Nat × MbCmd)) (hbest : ∀ y, best = some y → y ∈ p.mbox) (hxs : ∀ x ∈ xs, x ∈ p.mbox) :
      ∀ y, xs.foldl (fun (best : Option (Nat × MbCmd)) x =>
        match best with
        | none => some x
        | some y => if x.2.beat < y.2.beat || (x.2.beat == y.2.beat && x.1 < y.1) then some x else some y) best = some y → y ∈ p.mbox := by
    induction xs generalizing best with
    | nil => exact hbest
    | cons x xs ih =>
      refine ih _ (fun y hy => ?_) (fun z hz => hxs z (List.mem_cons_of_mem _ hz))
      have hx := hxs x (List.mem_cons_self ..)
      dsimp only at hy
      split at hy
      · exact Option.some.inj hy ▸ hx
      · split at hy
        · exact Option.some.inj hy ▸ hx
        · exact hbest y hy
  unfold Pkg.mbNext at hnext
  split at hnext
  · exact absurd hnext (by simp)
  · exact hfold _ none (fun y hy => absurd hy (by simp)) (fun x hx => (List.mem_filter.1 hx).1) _ hnext

end

/-- A row of the command set serves its mailbox while the complex runs (R548). -/
structure ServesRow (c : Instr) (s : State) (m : Fin 16) (op : Nat) : Prop where
  down : s.pkg.complexUp = false → Becomes c s s.pkg
  up : s.pkg.complexUp = true → (op = 0x81 → s.pkg.masterStep m = none) → ∃ body, Becomes c s (s.pkg.serveMb s.env m op body)

theorem servesRow_mgmt {c : Instr} {s : State} {m : Fin 16} {op : Nat} {f : Env → Pkg → Pkg} (h : exec c s = s.mgmt f) (body : MbCmd → Pkg)
    (hf : f s.env s.pkg = s.pkg.serveMb s.env m op body) : ServesRow c s m op where
  down hdown := by
    refine h.trans (congrArg (fun q : Pkg => Host.Outcome.next (s.lift (fun _ _ => q))) ?_)
    exact if_neg (by simp [hdown])
  up hup _ := ⟨body, becomes_mgmt h hup hf⟩

/-- TIME_SET_MASTER that steps no hall time is a row like the others. -/
theorem exec_timeSetMaster_of_none {s : State} {m : Fin 16} (h : (if s.pkg.complexUp then s.pkg.masterStep m else none) = none) :
    exec (.timeSetMaster m) s = s.mgmt (timeSetMaster m) := by
  show execTimeSetMaster m s = _
  unfold execTimeSetMaster
  dsimp only
  rw [h]
  rfl

theorem servesRow_timeSetMaster (s : State) (m : Fin 16) : ServesRow (.timeSetMaster m) s m 0x81 where
  down hdown := (servesRow_mgmt (exec_timeSetMaster_of_none (if_neg (by simp [hdown]))) _ rfl).down hdown
  up hup hstep := (servesRow_mgmt (exec_timeSetMaster_of_none ((if_pos hup).trans (hstep rfl))) _ rfl).up hup (fun _ => hstep rfl)

theorem servesRow_of_mem {m : Fin 16} {op : Nat} {c : Instr} (h : (op, c) ∈ mailboxRows m) (s : State) : ServesRow c s m op := by
  simp only [mailboxRows, List.cons_append, List.nil_append, List.mem_cons, Prod.mk.injEq, List.not_mem_nil, or_false] at h
  rcases h with ⟨rfl, rfl⟩ | ⟨rfl, rfl⟩ | ⟨rfl, rfl⟩ | ⟨rfl, rfl⟩ | ⟨rfl, rfl⟩ | ⟨rfl, rfl⟩ | ⟨rfl, rfl⟩ | ⟨rfl, rfl⟩ | ⟨rfl, rfl⟩ | ⟨rfl, rfl⟩ |
    ⟨rfl, rfl⟩ | ⟨rfl, rfl⟩ | ⟨rfl, rfl⟩ | ⟨rfl, rfl⟩ | ⟨rfl, rfl⟩ | ⟨rfl, rfl⟩ | ⟨rfl, rfl⟩ | ⟨rfl, rfl⟩ | ⟨rfl, rfl⟩ | ⟨rfl, rfl⟩ | ⟨rfl, rfl⟩ |
    ⟨rfl, rfl⟩ | ⟨rfl, rfl⟩ | ⟨rfl, rfl⟩
  pick_goal 22
  · exact servesRow_timeSetMaster s m
  all_goals exact servesRow_mgmt rfl _ rfl

theorem mailboxRows_op {m : Fin 16} {op : Nat} {c : Instr} (h : (op, c) ∈ mailboxRows m) : op ∈ mbOpcodes := by
  have hop : op ∈ (mailboxRows m).map Prod.fst := List.mem_map_of_mem h
  exact hop

/-- TIME_SET_MASTER steps hall time only when it is served and passes its checks. -/
theorem masterStep_of_none {p : Pkg} (h : p.mbNext = none) (m : Nat) : p.masterStep m = none := by
  simp [Pkg.masterStep, h]

theorem masterStep_of_other {p : Pkg} {n : Nat} {k : MbCmd} (h : p.mbNext = some (n, k)) {m : Nat}
    (hother : n ≠ m ∨ k.op ≠ 0x81 ∨ (p.mbCheck m k).isNone = false) : p.masterStep m = none := by
  simp only [Pkg.masterStep, h]
  refine if_neg (fun hall => ?_)
  obtain ⟨hn, hop, hpasses, -⟩ := hall
  rcases hother with hm | hk | hfails
  · exact hm hn
  · exact hk hop
  · exact Bool.false_ne_true (hfails.symm.trans hpasses)

/-- What an answer with a result of one byte shows in the state. -/
theorem shown_of_answersMb {s : State} {m : Fin 16} {q : Pkg} {k : MbCmd} {res : Nat} (h : AnswersMb s.pkg q m k res) (hres : res < 256) :
    let t := s.lift (fun _ _ => q)
    let st := Reg.MGT_MB_STATUS m
    t.pkg.fld st Fld.MGT_MB_RESULT = res ∧ t.pkg.on st Fld.MGT_MB_DONE = true ∧ t.pkg.on st Fld.MGT_MB_BUSY = false ∧
      t.pkg.fld st Fld.MGT_MB_DONE_TAG = k.tag % 65536 ∧ (∀ x ∈ t.pkg.mbox, x.1 ≠ m.val) ∧ (∃ i ∈ t.pkg.irqs, i.src = 114 + m.val) ∧
      KeepsMem s t ∧ KeepsBlock s t :=
  ⟨h.result.trans (Nat.mod_eq_of_lt hres), h.done, h.idle, h.tag, h.gone, h.irq, h.byte, lift_keeps s _⟩

end Sys2Proof.Machine

namespace Sys2Proof

open Machine

/-- Settles O55: every row serves its mailbox (`servesRow_of_mem`), so what is served next decides what it becomes. -/
theorem mailboxOrder : Obligations.MailboxOrder := by
  unfold Obligations.MailboxOrder
  intro s m op c hrow p e st answered
  have hserves := servesRow_of_mem hrow s
  refine ⟨fun hidle => ?_, fun n k hup hnext => ⟨fun hother => ?_, fun hn hop => ?_, fun hn hop => ?_⟩⟩
  · rcases Bool.eq_false_or_eq_true p.complexUp with hup | hdown
    · have hnone := hidle.resolve_left (by simp [hup])
      obtain ⟨body, hbec⟩ := hserves.up hup (fun _ => masterStep_of_none hnone m)
      exact hbec.of_eq (serveMb_none hnone ..)
    · exact hserves.down hdown
  · obtain ⟨body, hbec⟩ := hserves.up hup (fun h81 => masterStep_of_other hnext
      (hother.imp_right (fun hk => .inl (fun heq => hk.2 (heq.trans h81.symm)))))
    exact hbec.of_eq (serveMb_other hnext _ _ _ _ (hother.imp_right (fun hk => ⟨List.contains_iff_mem.2 hk.1, hk.2⟩)))
  · subst hn
    obtain ⟨body, hbec⟩ := hserves.up hup (fun _ => masterStep_of_other hnext (.inr (.inl (fun heq => hop (heq ▸ by decide)))))
    have hreserved := hbec.of_eq (serveMb_reserved hnext hop ..)
    exact ⟨hreserved, hreserved.answers (shown_of_answersMb (mbAnswer_answers _ _ m.isLt ..) (by decide))⟩
  · subst hn
    have hmem : k.op ∈ mbOpcodes := hop ▸ mailboxRows_op hrow
    have hfails (r : Nat × Nat) (hcheck : p.mbCheck m k = some r) :
        Becomes c s ((if r.1 = resNotPermitted then p.noteDenied m op else p).mbAnswer e m k r.1 r.2 []) := by
      obtain ⟨body, hbec⟩ := hserves.up hup (fun _ => masterStep_of_other hnext (.inr (.inr (by simp [hcheck]))))
      exact hbec.of_eq (serveMb_failing hnext hmem hop hcheck ..)
    refine ⟨hfails, fun hversion => ?_, fun hversion hlength => ?_, fun hcheck hlong hbusy => ?_⟩
    · have hbec := hfails (resBadVersion, 0) (if_pos hversion)
      exact hbec.answers (shown_of_answersMb (mbAnswer_answers _ _ m.isLt ..) (by decide))
    · have hbec := hfails (resBadLength, 0) ((if_neg (not_not_intro hversion)).trans (if_pos hlength))
      exact hbec.answers (shown_of_answersMb (mbAnswer_answers _ _ m.isLt ..) (by decide))
    · obtain ⟨body, hbec⟩ := hserves.up hup (fun h81 => absurd (h81 ▸ hlong) (by decide))
      have hbusy := hbec.of_eq (serveMb_busy hnext hmem hop hcheck hlong hbusy ..)
      exact ⟨hbusy, hbusy.answers (shown_of_answersMb (mbAnswer_answers _ _ m.isLt ..) (by decide))⟩

end Sys2Proof

/-! SUPPORT. What a served command becomes (R541, R553 to R557, R572). -/

namespace Sys2Proof.Machine

section
variable {s : State} {m : Fin 16} {op : Nat} {k : MbCmd} (h : s.Serves m op k)
include h

/-- A served command becomes its own effect. -/
theorem State.Serves.becomes (hop : mbOpcodes.contains op = true) {c : Instr} {f : Env → Pkg → Pkg} {body : MbCmd → Pkg} (hexec : exec c s = s.mgmt f)
    (hf : f s.env s.pkg = s.pkg.serveMb s.env m op body) : Becomes c s (body k) :=
  becomes_mgmt hexec h.runs (hf.trans (serveMb_served h hop _ _))

/-- The command that stays in progress still stands in its mailbox. -/
theorem mem_mbRun {p : Pkg} (hmbox : p.mbox = s.pkg.mbox) : (m.val, { k with running := true }) ∈ (p.mbRun m).mbox := by
  refine List.mem_map.2 ⟨(m.val, k), hmbox ▸ mem_of_mbNext h.next, ?_⟩
  exact if_pos rfl

end

/-- What is taken into the state is the effect on the package it has. -/
theorem lift_congr {s : State} {f : Env → Pkg → Pkg} {q : Pkg} (h : f s.env s.pkg = q) : s.lift f = s.lift (fun _ _ => q) := by
  subst h
  rfl

/-! ### TIME_SET_MASTER steps hall time (R556) -/

/-- A served TIME_SET_MASTER steps hall time for a location of the topology, in mode 1, while no queue is enabled. -/
theorem masterStep_served {s : State} {m : Fin 16} {k : MbCmd} (h : s.Serves m 0x81 k) : s.pkg.masterStep m =
    if s.pkg.topo.holds (k.at_ 0x10 4) = true ∧ k.at_ 0x14 1 = 1 ∧ s.pkg.anyEnabled = false then some (k.at_ 0x18 8) else none := by
  unfold Pkg.masterStep
  simp only [h.next, h.opcode, h.passes, Option.isNone_none, true_and, Bool.not_eq_true']

/-- The package once hall time has stepped: the master's location and the step's record, before the answer. -/
def Pkg.stepsMaster (p : Pkg) (e : Env) (k : MbCmd) : Pkg :=
  let p1 : Pkg := { p with time := { p.time with master := k.at_ 0x10 4 } }
  let p2 := p1.record 30 0 6 3 (leBytes 8 (ofSigned 64 ((e.hall : Int) - k.at_ 0x18 8)))
  { p2 with time := { p2.time with heard := k.at_ 0x18 8 } }

theorem exec_timeSetMaster_stepping {s : State} {m : Fin 16} {k : MbCmd} (h : s.Serves m 0x81 k) (hholds : s.pkg.topo.holds (k.at_ 0x10 4) = true)
    (hmode : k.at_ 0x14 1 = 1) (hidle : s.pkg.anyEnabled = false) : exec (.timeSetMaster m) s = .next
      { s.lift (fun _ _ => (s.pkg.stepsMaster s.env k).mbAnswer { s.env with clock := ⟨k.at_ 0x18 8⟩ } m k resDone 0 (leBytes 8 (k.at_ 0x18 8))) with
        clock := ⟨k.at_ 0x18 8⟩ } := by
  have hstep := (masterStep_served h).trans (if_pos ⟨hholds, hmode, hidle⟩)
  have hserved : timeSetMaster m s.env s.pkg =
      (s.pkg.stepsMaster s.env k).mbAnswer { s.env with clock := ⟨k.at_ 0x18 8⟩ } m k resDone 0 (leBytes 8 (k.at_ 0x18 8)) := by
    refine (serveMb_served h (by decide) _ _).trans ?_
    simp only [hholds, hmode, hidle, Bool.not_true, Bool.false_eq_true, and_false, if_false, if_true]
    rfl
  have hlift := lift_congr (f := fun e p => if p.complexUp then timeSetMaster m e p else p) ((if_pos h.runs).trans hserved)
  show execTimeSetMaster m s = _
  unfold execTimeSetMaster
  dsimp only
  rw [hlift, h.runs, hstep]
  rfl

end Sys2Proof.Machine

namespace Sys2Proof

open Machine

/-- Settles O56: each is served, and the checks of its parameters decide its answer. -/
theorem mailboxReports : Obligations.MailboxReports := by
  unfold Obligations.MailboxReports
  intro s m k p e done fails
  refine ⟨fun h => ?_, fun h => ?_, fun h => ?_, fun h => ?_, fun h => ?_, fun h => ?_, fun h => ?_, fun h => ?_, fun h => ?_, fun h => ?_⟩
  · have hbec := h.becomes (c := .identify m) (by decide) rfl rfl
    exact hbec
  · have hbec := h.becomes (c := .features m) (by decide) rfl rfl
    exact hbec
  · have hbec := h.becomes (c := .powerCap m) (by decide) rfl rfl
    exact ⟨fun hlow hhigh hstep => hbec.of_eq (if_neg (by omega)), fun hbad => hbec.of_eq (if_pos hbad)⟩
  · have hbec := h.becomes (c := .powerStatus m) (by decide) rfl rfl
    exact hbec
  · have hbec := h.becomes (c := .logRead m) (by decide) rfl rfl
    exact ⟨fun hlow hhigh => hbec.of_eq (if_neg (by omega)), fun hbad => hbec.of_eq (if_pos hbad)⟩
  · have hbec := h.becomes (c := .logMark m) (by decide) rfl rfl
    exact hbec.answers ⟨mem_mbRun h rfl, fun _ _ => rfl, fun _ => rfl, lift_keeps s _, logs_of_raised rfl⟩
  · have hbec := h.becomes (c := .spareStatus m) (by decide) rfl rfl
    refine ⟨fun hbad => hbec.of_eq (if_pos hbad), fun hdie hother => hbec.of_eq ?_, fun hdie hown => hbec.of_eq ?_⟩
    · exact (if_neg (Nat.not_lt.2 hdie)).trans (if_pos (by simpa using hother))
    · exact (if_neg (Nat.not_lt.2 hdie)).trans (if_neg (by simpa using hown))
  · have hbec := h.becomes (c := .calStatus m) (by decide) rfl rfl
    refine ⟨fun hbad => hbec.of_eq (if_pos hbad), fun hstack hother => hbec.of_eq ?_, fun hstack hown => hbec.of_eq ?_⟩
    · exact (if_neg (Nat.not_lt.2 hstack)).trans (if_pos (by simpa using hother))
    · exact (if_neg (Nat.not_lt.2 hstack)).trans (if_neg (by simpa using hown))
  · have hbec := h.becomes (c := .timeStatus m) (by decide) rfl rfl
    exact hbec
  · intro loc at1
    have hstill (hno : ¬ (p.topo.holds loc = true ∧ k.at_ 0x14 1 = 1 ∧ p.anyEnabled = false)) :=
      h.becomes (c := .timeSetMaster m) (by decide) (exec_timeSetMaster_of_none ((if_pos h.runs).trans ((masterStep_served h).trans (if_neg hno)))) rfl
    refine ⟨fun hout => ?_, fun hholds hmode hon => ?_, fun hholds hmode => ?_, fun hholds hmode hidle => ?_⟩
    · exact (hstill (fun hall => Bool.false_ne_true (hout.symm.trans hall.1))).of_eq (if_pos (by simpa using hout))
    · refine (hstill (fun hall => Bool.false_ne_true (hall.2.2.symm.trans hon))).of_eq ?_
      exact (if_neg (by simpa using hholds)).trans (if_pos ⟨hmode, hon⟩)
    · refine (hstill (fun hall => hmode hall.2.1)).of_eq ?_
      exact (if_neg (by simpa using hholds)).trans ((if_neg (fun hall => hmode hall.1)).trans (if_neg hmode))
    · have hans := mbAnswer_answers (p.stepsMaster e k) { e with clock := ⟨k.at_ 0x18 8⟩ } m.isLt k resDone 0 (leBytes 8 (k.at_ 0x18 8))
      have htime := congrArg Pkg.time hans.rest
      exact ⟨_, exec_timeSetMaster_stepping h hholds hmode hidle, rfl, congrArg TimeSt.master htime, congrArg TimeSt.heard htime, hans.result, hans.byte,
        rfl⟩

end Sys2Proof

/-! SUPPORT. Mailbox commands that stage registers (R555, R558, R560, R607). -/

namespace Sys2Proof.Machine

/-! ### Staging -/

theorem putStaged_append (p : Pkg) (xs ys : List Staged) : p.putStaged (xs ++ ys) = (p.putStaged xs).putStaged ys := List.foldl_append ..

theorem putStaged_byte (p : Pkg) (xs : List Staged) (a : Nat) : (p.putStaged xs).byte a = p.byte a := by
  unfold Pkg.putStaged
  induction xs generalizing p with
  | nil => rfl
  | cons x xs ih =>
    rw [List.foldl_cons, ih]
    split <;> rfl

theorem putStaged_mgt (p : Pkg) (xs : List Staged) : (p.putStaged xs).mgt = p.mgt := by
  unfold Pkg.putStaged
  induction xs generalizing p with
  | nil => rfl
  | cons x xs ih =>
    rw [List.foldl_cons, ih]
    split <;> rfl

/-- At most as many registers are new as are staged. -/
theorem newStaged_le (p : Pkg) (xs : List Staged) : p.newStaged xs ≤ xs.length := by
  have hfold (acc : List Nat) : (xs.foldl (fun (acc : List Nat) x =>
      if acc.contains x.key || (p.stagedAt x.key).isSome then acc else acc ++ [x.key]) acc).length ≤ acc.length + xs.length := by
    induction xs generalizing acc with
    | nil => exact Nat.le_refl _
    | cons x xs ih =>
      refine Nat.le_trans (ih _) ?_
      dsimp only
      split
      · exact Nat.add_le_add_left (Nat.le_succ _) _
      · simp only [List.length_append, List.length_cons, List.length_nil]
        omega
  exact Nat.le_trans (hfold []) (by simp)

/-- The undercoat is open with mailbox `m` as holder, one generation later, and memory stands. -/
structure OpensUc (p q : Pkg) (m : Nat) : Prop where
  opened : q.ucState = ucOpen
  holder : q.ucHolder = m % 16
  generation : q.regNat Reg.MGT_UC_GEN = (p.regNat Reg.MGT_UC_GEN + 1) % 2 ^ 32
  bytes : ∀ a, q.byte a = p.byte a

theorem opensFor_opensUc (p : Pkg) (e : Env) (m : Nat) (xs : List Staged) : OpensUc p (p.opensFor e m xs) m where
  opened := opensFor_ucState ..
  holder := opensFor_ucHolder ..
  generation := opensFor_gen ..
  bytes := putStaged_byte p xs

/-- Where a staging's last register is to be found. -/
theorem stagedAt_opensFor_concat (p : Pkg) (e : Env) (m : Nat) (xs : List Staged) (x : Staged) :
    (p.opensFor e m (xs ++ [x])).stagedAt x.key = some x := by
  rw [stagedAt_congr (opensFor_staged ..), putStaged_append]
  exact stagedAt_putStaged ..

/-- The registers of the undercoat are none that an answer writes. -/
theorem not_mem_answerRegs {k : Nat} (hk : 0xf0a00000 ≤ k ∧ k < 0xf0a00200) {m : Nat} (hm : m < 16) : k ∉ answerRegs m := by
  simp only [answerRegs, Reg.MGT_MB_STATUS, Reg.MGT_CNT_CMD, Reg.MGT_MB_RSP, List.mem_cons, List.mem_map, List.mem_range, not_or, not_exists, not_and]
  exact ⟨by omega, by omega, fun i hi => by omega⟩

/-- An answer leaves the undercoat as it stands. -/
theorem AnswersMb.opensUc {p q r : Pkg} {m : Nat} {c : MbCmd} {res : Nat} (h : AnswersMb q r m c res) (hm : m < 16) (hopens : OpensUc p q m) :
    OpensUc p r m where
  opened := (congrArg (fun w => getField w Fld.MGT_UC_STATE) (h.regs Reg.MGT_UC_STATUS (not_mem_answerRegs (by decide) hm))).trans hopens.opened
  holder := (congrArg (fun w => getField w Fld.MGT_UC_HOLDER) (h.regs Reg.MGT_UC_STATUS (not_mem_answerRegs (by decide) hm))).trans hopens.holder
  generation := (congrArg BitVec.toNat (h.regs Reg.MGT_UC_GEN (not_mem_answerRegs (by decide) hm))).trans hopens.generation
  bytes a := (h.byte a).trans (hopens.bytes a)

section
variable {s : State} {m : Fin 16} {k : MbCmd} {c : Instr}

/-- What DONE shows once the undercoat is open. -/
theorem staged_of_opensUc {q : Pkg} (hopens : OpensUc s.pkg q m) (data : List Byte) :
    let t := s.lift (fun _ _ => q.mbAnswer s.env m k resDone 0 data)
    t.pkg.ucState = ucOpen ∧ t.pkg.ucHolder = m ∧ t.pkg.regNat Reg.MGT_UC_GEN = (s.pkg.regNat Reg.MGT_UC_GEN + 1) % 2 ^ 32 ∧
      t.pkg.fld (Reg.MGT_MB_STATUS m) Fld.MGT_MB_RESULT = resDone ∧ KeepsMem s t ∧ KeepsBlock s t := by
  have hans := mbAnswer_answers q s.env m.isLt k resDone 0 data
  have hopens' := hans.opensUc m.isLt hopens
  exact ⟨hopens'.opened, hopens'.holder.trans (Nat.mod_eq_of_lt m.isLt), hopens'.generation, hans.result, hopens'.bytes, lift_keeps s _⟩

/-- A command that stages: BUSY for one that may not, FULL beyond the capacity, or the staging. -/
theorem stages_of_mbStage {xs : List Staged} (hbec : Becomes c s (s.pkg.mbStage s.env m k xs)) :
    (s.pkg.mayStage m = false → Becomes c s (s.pkg.mbAnswer s.env m k resBusy 0 [])) ∧
    (s.pkg.mayStage m = true → s.pkg.stage s.env m xs = none → Becomes c s (s.pkg.mbAnswer s.env m k resFull 0 [])) ∧
    (∀ q, s.pkg.mayStage m = true → s.pkg.stage s.env m xs = some q →
      Becomes c s (q.mbAnswer s.env m k resDone 0 (leBytes 4 q.staged.length ++ leBytes 4 (q.regNat Reg.MGT_UC_GEN)))) := by
  unfold Pkg.mbStage at hbec
  refine ⟨fun hno => ?_, fun hmay hfull => ?_, fun q hmay hq => ?_⟩
  · exact hbec.of_eq (if_pos (by simp [hno]))
  · simpa only [hmay, hfull, Bool.not_true, Bool.false_eq_true, if_false] using hbec
  · simpa only [hmay, hq, Bool.not_true, Bool.false_eq_true, if_false] using hbec

/-- With room, the undercoat holds the last register staged. -/
theorem answers_of_mbStage {xs : List Staged} {x : Staged} (hbec : Becomes c s (s.pkg.mbStage s.env m k (xs ++ [x]))) (hmay : s.pkg.mayStage m = true)
    (hroom : s.pkg.staged.length + (xs.length + 1) ≤ 4096) : Answers c s (fun t => t.pkg.stagedAt x.key = some x ∧ t.pkg.ucState = ucOpen ∧
      t.pkg.ucHolder = m ∧ t.pkg.regNat Reg.MGT_UC_GEN = (s.pkg.regNat Reg.MGT_UC_GEN + 1) % 2 ^ 32 ∧
      t.pkg.fld (Reg.MGT_MB_STATUS m) Fld.MGT_MB_RESULT = resDone ∧ KeepsMem s t ∧ KeepsBlock s t) := by
  have hnew := newStaged_le s.pkg (xs ++ [x])
  rw [List.length_append] at hnew
  have hdone := (stages_of_mbStage hbec).2.2 _ hmay (stage_eq (Nat.le_trans (Nat.add_le_add_left hnew _) hroom) s.env m)
  have hans (data : List Byte) := mbAnswer_answers (s.pkg.opensFor s.env m (xs ++ [x])) s.env m.isLt k resDone 0 data
  refine hdone.answers ⟨?_, staged_of_opensUc (opensFor_opensUc ..) _⟩
  exact (stagedAt_congr (congrArg Pkg.staged (hans _).rest) _).trans (stagedAt_opensFor_concat s.pkg s.env m xs x)

end

/-- The register that a STAGE_SET names at a place (Table 16-6). -/
def stageSetEntry (k : MbCmd) (i : Nat) : Staged :=
  ⟨k.at_ (0x18 + 16 * i) 4, k.at_ (0x1c + 16 * i) 1, BitVec.ofNat 64 (k.at_ (0x20 + 16 * i) (k.at_ (0x1c + 16 * i) 1)), false⟩

/-- The last of `n` registers stands at place `n - 1`. -/
theorem stageSetEntries_eq (k : MbCmd) {n : Nat} (hn : 1 ≤ n) : (List.range n).map (stageSetEntry k) = (List.range (n - 1)).map (stageSetEntry k) ++
    [⟨k.at_ (8 + 16 * n) 4, k.at_ (0x1c + 16 * (n - 1)) 1, BitVec.ofNat 64 (k.at_ (0x10 + 16 * n) (k.at_ (0x1c + 16 * (n - 1)) 1)), false⟩] := by
  obtain ⟨j, rfl⟩ : ∃ j, n = j + 1 := ⟨n - 1, by omega⟩
  rw [List.range_succ, List.map_append, Nat.add_sub_cancel, show 8 + 16 * (j + 1) = 0x18 + 16 * j by omega, show 0x10 + 16 * (j + 1) = 0x20 + 16 * j by omega]
  rfl

/-! ### Self-tests asked for (R553) -/

/-- The result of a unit's last test of a kind is forgotten as another is asked for. -/
def Pkg.forgetsResult (p : Pkg) (die unit : Nat) (march : Bool) : Pkg :=
  { p with ras := { p.ras with results := p.ras.results.filter (fun (y : TestResult) => !(y.die == die && y.unit == unit && y.march == march)) } }

/-- A test asked for begins, or is due, unless one of its kind has yet to end. -/
def Pkg.asksTest (p : Pkg) (e : Env) (die unit : Nat) (march : Bool) : Pkg :=
  let p1 := p.forgetsResult die unit march
  if p1.testOpen die unit march then p1
  else if march then { p1 with ras := { p1.ras with marchDue := p1.ras.marchDue ++ [(⟨die, unit, e.hall, false, false⟩ : UnitTest)] } }
  else p1.beginTest e die unit false

theorem asksTest_targeted {p : Pkg} {die unit : Nat} (h : p.testOpen die unit false = false) (e : Env) :
    p.asksTest e die unit false = (p.forgetsResult die unit false).beginTest e die unit false := by
  have hopen : (p.forgetsResult die unit false).testOpen die unit false = false := h
  unfold Pkg.asksTest
  simp only [hopen, Bool.false_eq_true, if_false]

theorem asksTest_march {p : Pkg} {die unit : Nat} (h : p.testOpen die unit true = false) (e : Env) :
    p.asksTest e die unit true = { p.forgetsResult die unit true with
      ras := { (p.forgetsResult die unit true).ras with marchDue := p.ras.marchDue ++ [⟨die, unit, e.hall, false, false⟩] } } := by
  have hopen : (p.forgetsResult die unit true).testOpen die unit true = false := h
  unfold Pkg.asksTest
  simp only [hopen, Bool.false_eq_true, if_false, if_true]
  rfl

/-! ### Proposals and withdrawals (R606, R608) -/

/-- The proposal that an admitted PROPOSE makes pending. -/
def Pkg.newProposal (p : Pkg) (m : Nat) (c : MbCmd) : Proposal :=
  ⟨p.mgt.nextId, c.at_ 0x20 1, c.at_ 0x21 1, (c.area.drop 0x28).take 96, p.signer m, sha384 ((c.area.drop 0x10).take 0x78), c.beat + 1875000000⟩

/-- What becomes of an admitted PROPOSE, by how its message fails. -/
def Pkg.proposed (p : Pkg) (e : Env) (m : Nat) (c : MbCmd) (fails : Option Nat) : Pkg :=
  match fails with
  | some r => p.mbAnswer e m c r 0 []
  | none =>
    let p1 := p.countNonce (p.signer m) c
    let x := p.newProposal m c
    if p1.mgt.proposals.length ≥ 16 then p1.mbAnswer e m c resPendingFull 0 []
    else (({ p1 with mgt := { p1.mgt with proposals := p1.mgt.proposals ++ [x], nextId := (p1.mgt.nextId + 1) % 2 ^ 32 } } : Pkg).protRecord 1 x).mbAnswer
      e m c resDone 0 (leBytes 4 x.id ++ leBytes 4 0 ++ leBytes 8 (16 * x.expiry) ++ x.digest)

/-- What becomes of a WITHDRAW of a pending proposal, by how its message fails. -/
def Pkg.withdrawn (p : Pkg) (e : Env) (m : Nat) (c : MbCmd) (x : Proposal) (fails : Option Nat) : Pkg :=
  match fails with
  | some r => p.mbAnswer e m c r 0 []
  | none =>
    let p1 := p.countNonce (p.signer m) c
    if x.role ≠ p.signer m then p1.mbAnswer e m c resSignature 0 []
    else (({ p1 with mgt := { p1.mgt with proposals := p1.mgt.proposals.filter (fun y => y.id ≠ c.at_ 0x20 4) } } : Pkg).protRecord 3 x).mbAnswer
      e m c resDone 0 []

/-- A WITHDRAW of a pending proposal goes by its message. -/
theorem becomes_withdrawn {s : State} {m : Fin 16} {k : MbCmd} {x : Proposal} (h : s.Serves m 0x22 k)
    (hfind : s.pkg.mgt.proposals.find? (fun x => x.id == k.at_ 0x20 4) = some x) : Becomes (.protectWithdraw m) s
      (s.pkg.withdrawn s.env m k x (s.pkg.messageFails (s.pkg.signer m) (assoc? s.pkg.mgt.keys (s.pkg.signer m)) k 0x28)) := by
  have hbec := h.becomes (c := .protectWithdraw m) (by decide) rfl rfl
  simp only [hfind] at hbec
  exact hbec

/-! ### Endorsements (R607) -/

/-- The undercoat has taken a proposal's change: the proposal is no longer pending, and a change of a key waits for the commit. -/
def Pkg.takesChange (p : Pkg) (x : Proposal) (id : Nat) : Pkg :=
  { p with mgt := { p.mgt with
    proposals := p.mgt.proposals.filter (fun y => y.id ≠ id)
    changes := p.mgt.changes ++ (if 5 ≤ x.kind ∧ x.kind ≤ 7 then [⟨x.kind, x.index, x.body⟩] else []) } }

/-- What becomes of an endorsement whose message has passed, `p` having counted it. -/
def Pkg.endorsed (p : Pkg) (e : Env) (m role : Nat) (c : MbCmd) (x : Proposal) : Pkg :=
  if x.expiry < c.beat then p.mbAnswer e m c resExpired 0 []
  else if (c.area.drop 0x28).take 48 ≠ x.digest then p.mbAnswer e m c resSignature 0 []
  else if !p.mayEndorse role x then p.mbAnswer e m c resSameRole 0 []
  else if x.kind = 7 ∧ !c.oob then p.mbDeny e m c
  else if !p.mayStage m then p.mbAnswer e m c resBusy 0 []
  else match p.stage e m (p.changeEntry x) with
    | none => p.mbAnswer e m c resFull 0 []
    | some q => ((q.takesChange x (c.at_ 0x20 4)).event 7 30 0 7 2 (protData x.id x.kind x.index)).mbAnswer e m c resDone 0
        (leBytes 4 ((q.takesChange x (c.at_ 0x20 4)).regNat Reg.MGT_UC_GEN))

section
variable {s : State} {m : Fin 16} {k : MbCmd} {x : Proposal}

/-- An endorsement of anything but a role's key is signed by the role's own key (R605). -/
theorem becomes_endorsed (h : s.Serves m 0x21 k) (hfind : s.pkg.mgt.proposals.find? (fun x => x.id == k.at_ 0x20 4) = some x) (hkind : x.kind ≠ 5)
    (hpass : s.pkg.messageFails (s.pkg.signer m) (assoc? s.pkg.mgt.keys (s.pkg.signer m)) k 0x58 = none) :
    Becomes (.protectEndorse m) s ((s.pkg.countNonce (s.pkg.signer m) k).endorsed s.env m (s.pkg.signer m) k x) := by
  have hbec := h.becomes (c := .protectEndorse m) (by decide) rfl rfl
  refine hbec.of_eq ?_
  simp only [hfind, beq_eq_false_iff_ne.2 hkind, Bool.false_and, Bool.false_eq_true, if_false, hpass]
  rfl

variable {p : Pkg} {e : Env} {role : Nat} {c : MbCmd} (hexpiry : c.beat ≤ x.expiry) (hdigest : (c.area.drop 0x28).take 48 = x.digest)
include hexpiry hdigest

theorem endorsed_of_sameRole (hrole : x.role = role) : p.endorsed e m role c x = p.mbAnswer e m c resSameRole 0 [] :=
  (if_neg (Nat.not_lt.2 hexpiry)).trans ((if_neg (not_not_intro hdigest)).trans (if_pos (by simp [Pkg.mayEndorse, hrole])))

theorem endorsed_of_stage (hmay : p.mayEndorse role x = true) (hoob : x.kind = 7 → c.oob = true) (hstages : p.mayStage m = true) {q : Pkg}
    (hq : p.stage e m (p.changeEntry x) = some q) : p.endorsed e m role c x =
      ((q.takesChange x (c.at_ 0x20 4)).event 7 30 0 7 2 (protData x.id x.kind x.index)).mbAnswer e m c resDone 0
        (leBytes 4 ((q.takesChange x (c.at_ 0x20 4)).regNat Reg.MGT_UC_GEN)) := by
  have hpermitted : ¬ (x.kind = 7 ∧ (!c.oob) = true) := fun hall => by simp [hoob hall.1] at hall
  unfold Pkg.endorsed
  rw [if_neg (Nat.not_lt.2 hexpiry), if_neg (not_not_intro hdigest), if_neg (by simpa using hmay), if_neg hpermitted, if_neg (by simpa using hstages)]
  simp only [hq]

end

/-- The change taken and recorded leaves the undercoat as it opened. -/
theorem takesChange_event_opensUc {p q : Pkg} {m : Nat} (h : OpensUc p q m) (x : Proposal) (id : Nat) (data : List Byte) :
    OpensUc p ((q.takesChange x id).event 7 30 0 7 2 data) m where
  opened := (congrArg (fun w => getField w Fld.MGT_UC_STATE) (event_reg (q.takesChange x id) 7 30 0 7 2 data _ (by decide) (by decide))).trans h.opened
  holder := (congrArg (fun w => getField w Fld.MGT_UC_HOLDER) (event_reg (q.takesChange x id) 7 30 0 7 2 data _ (by decide) (by decide))).trans h.holder
  generation := (congrArg BitVec.toNat (event_reg (q.takesChange x id) 7 30 0 7 2 data _ (by decide) (by decide))).trans h.generation
  bytes a := (event_byte (q.takesChange x id) 7 30 0 7 2 data a).trans (h.bytes a)

theorem takesChange_event_staged (q : Pkg) (x : Proposal) (id : Nat) (data : List Byte) :
    ((q.takesChange x id).event 7 30 0 7 2 data).staged = q.staged := by
  have hstaged := congrArg Pkg.staged (event_inner (p := q.takesChange x id) (cls := 7) (by decide) 30 0 7 2 data)
  exact hstaged

theorem takesChange_event_proposals (q : Pkg) (x : Proposal) (id : Nat) (data : List Byte) :
    ((q.takesChange x id).event 7 30 0 7 2 data).mgt.proposals = q.mgt.proposals.filter (fun z => z.id ≠ id) := by
  have hproposals := congrArg (fun r : Pkg => r.mgt.proposals) (event_inner (p := q.takesChange x id) (cls := 7) (by decide) 30 0 7 2 data)
  exact hproposals

/-- A message counted is no change of the registers or of memory. -/
theorem OpensUc.of_countNonce {p q : Pkg} {m role : Nat} {c : MbCmd} (h : OpensUc (p.countNonce role c) q m) : OpensUc p q m :=
  ⟨h.opened, h.holder, h.generation, h.bytes⟩

/-- An endorsement that is taken puts its register into the undercoat and its proposal away. -/
theorem answers_of_endorsed {s : State} {m : Fin 16} {k : MbCmd} {x : Proposal} {y : Staged} {i : Instr}
    (h : Becomes i s (((((s.pkg.countNonce (s.pkg.signer m) k).opensFor s.env m [y]).takesChange x (k.at_ 0x20 4)).event 7 30 0 7 2
      (protData x.id x.kind x.index)).mbAnswer s.env m k resDone 0
        (leBytes 4 ((((s.pkg.countNonce (s.pkg.signer m) k).opensFor s.env m [y]).takesChange x (k.at_ 0x20 4)).regNat Reg.MGT_UC_GEN)))) :
    Answers i s (fun t => t.pkg.stagedAt y.key = some y ∧ t.pkg.mgt.proposals = s.pkg.mgt.proposals.filter (fun z => z.id ≠ k.at_ 0x20 4) ∧
      t.pkg.ucState = ucOpen ∧ t.pkg.ucHolder = m ∧ t.pkg.regNat Reg.MGT_UC_GEN = (s.pkg.regNat Reg.MGT_UC_GEN + 1) % 2 ^ 32 ∧
      t.pkg.fld (Reg.MGT_MB_STATUS m) Fld.MGT_MB_RESULT = resDone ∧ KeepsMem s t ∧ KeepsBlock s t) := by
  have hopens := takesChange_event_opensUc (opensFor_opensUc (s.pkg.countNonce (s.pkg.signer m) k) s.env m [y]) x (k.at_ 0x20 4)
    (protData x.id x.kind x.index)
  have hans (data : List Byte) := mbAnswer_answers ((((s.pkg.countNonce (s.pkg.signer m) k).opensFor s.env m [y]).takesChange x (k.at_ 0x20 4)).event
    7 30 0 7 2 (protData x.id x.kind x.index)) s.env m.isLt k resDone 0 data
  have hmgt : ((s.pkg.countNonce (s.pkg.signer m) k).opensFor s.env m [y]).mgt = _ := putStaged_mgt (s.pkg.countNonce (s.pkg.signer m) k) [y]
  refine h.answers ⟨?_, ?_, staged_of_opensUc hopens.of_countNonce _⟩
  · exact (stagedAt_congr ((hans _).staged.trans (takesChange_event_staged ..)) _).trans
      (stagedAt_opensFor_concat (s.pkg.countNonce (s.pkg.signer m) k) s.env m [] y)
  · refine (hans _).proposals.trans ((takesChange_event_proposals ..).trans ?_)
    rw [hmgt]
    rfl

end Sys2Proof.Machine

namespace Sys2Proof

open Machine

/-- Settles O57: each is served; its parameters and the package's state decide what it becomes, and a staging opens the undercoat. -/
theorem mailboxWork : Obligations.MailboxWork := by
  unfold Obligations.MailboxWork
  intro s m k p e fails runs staged stages
  refine ⟨fun h => ?stageSet, fun h => ?calPolicy, fun h => ?stageCheck, fun h => ?attest, fun h => ?commit, fun h => ?stageDiscard, fun h => ?fwStage,
    fun h => ?fwVerify, fun h => ?fwActivate, fun h => ?selftest, fun h => ?pairSet, fun h => ?propose, fun h => ?endorse, fun h => ?withdraw⟩
  case stageSet =>
    intro n width
    have hbec := h.becomes (c := .stageSet m) (by decide) rfl rfl
    have hbad : (List.range n).any (fun i => width i != 4 && width i != 8) = true ↔ ∃ i < n, width i ≠ 4 ∧ width i ≠ 8 := by
      simp [List.any_eq_true]
    have hgood (hlow : 1 ≤ n) (hhigh : n ≤ 14) (hwidths : ∀ i < n, width i = 4 ∨ width i = 8) := hbec.of_eq (if_neg (by
      rintro (hzero | hmore | hwrong)
      · exact Nat.ne_of_gt hlow hzero
      · exact Nat.not_lt.2 hhigh hmore
      · obtain ⟨i, hi, hfour, height⟩ := hbad.1 hwrong
        exact (hwidths i hi).elim hfour height))
    refine ⟨fun hwrong => hbec.of_eq (if_pos (hwrong.imp_right (Or.imp_right hbad.2))), fun hlow hhigh hwidths => stages_of_mbStage (hgood hlow hhigh hwidths),
      fun hlow hhigh hwidths hmay hroom => ?_⟩
    have hstage := (hgood hlow hhigh hwidths).of_eq (congrArg (p.mbStage e m k) (stageSetEntries_eq k hlow))
    exact answers_of_mbStage hstage hmay (by
      rw [List.length_map, List.length_range]
      show p.staged.length + _ ≤ 4096
      omega)
  case calPolicy =>
    intro ms t
    have hbec := h.becomes (c := .calPolicy m) (by decide) rfl rfl
    refine ⟨fun hlow hhigh hstep htlow hthigh => ?_, fun hbad => hbec.of_eq (if_pos hbad)⟩
    have hstage := hbec.of_eq (if_neg (by omega))
    exact ⟨stages_of_mbStage hstage, fun hmay hroom => answers_of_mbStage (xs := []) hstage hmay hroom⟩
  case stageCheck =>
    have hbec := h.becomes (c := .stageCheck m) (by decide) rfl rfl
    exact hbec
  case attest =>
    have hbec := h.becomes (c := .attest m) (by decide) rfl rfl
    exact hbec
  case commit =>
    intro gen b inRange
    have hbec := h.becomes (c := .commit m) (by decide) rfl rfl
    have hopen (hwork : p.working = true) := hbec.of_eq (if_neg (by simpa using hwork))
    have hunarmed (hwork : p.working = true) (harmed : p.ucState ≠ ucArmed) := (hopen hwork).of_eq (if_neg harmed)
    have hchecked (hwork : p.working = true) (hstate : p.ucState = ucChecked) (hgen : k.at_ 0x10 4 = gen) :=
      (hunarmed hwork (by rw [hstate]; decide)).of_eq (if_neg (fun hno => hno.elim (fun hne => hne hstate) (fun hne => hne hgen)))
    refine ⟨fun hdown => hbec.of_eq (if_pos (by simpa using hdown)), fun hwork harmed => (hopen hwork).of_eq (if_pos harmed),
      fun hwork harmed hno => (hunarmed hwork harmed).of_eq (if_pos hno), fun hwork hstate hgen hout => (hchecked hwork hstate hgen).of_eq (if_pos ?_),
      fun hwork hstate hgen hin => (hchecked hwork hstate hgen).of_eq (if_neg ?_)⟩
    · dsimp only [inRange] at hout
      omega
    · dsimp only [inRange] at hin
      omega
  case stageDiscard =>
    intro done b arm
    have hbec := h.becomes (c := .stageDiscard m) (by decide) rfl rfl
    refine ⟨fun hempty hlow hhigh => ?_, fun hempty hout => ?_, fun hheld harmed => ?_, fun harmed hsoon => ?_, fun harmed hlate => ?_⟩
    · exact (hbec.of_eq (if_pos hempty)).of_eq (congrArg (fun r => p.mbAnswer e m k r 0 []) (if_pos ⟨hlow, hhigh⟩))
    · exact (hbec.of_eq (if_pos hempty)).of_eq (congrArg (fun r => p.mbAnswer e m k r 0 []) (if_neg hout))
    · have hdone := (hbec.of_eq (if_neg hheld)).of_eq (if_neg harmed)
      rw [show p.ucDiscard 3 = (p.ucRecord 3 arm).ucClear from if_neg hheld] at hdone
      exact hdone
    · exact ((hbec.of_eq (if_neg (by rw [harmed]; decide))).of_eq (if_pos harmed)).of_eq (if_pos hsoon)
    · exact ((hbec.of_eq (if_neg (by rw [harmed]; decide))).of_eq (if_pos harmed)).of_eq (if_neg (Nat.not_le.2 hlate))
  case fwStage =>
    intro len off
    have hbec := h.becomes (c := .fwStage m) (by decide) rfl rfl
    refine ⟨fun hsrc hlow hhigh hend => hbec.of_eq (if_neg ?_), fun hsrc hlow hend hhole => hbec.of_eq (if_neg ?_), fun hbad => hbec.of_eq (if_pos ?_)⟩
    · rintro (hmore | hzero | hlong | hpast | ⟨hmemory, -⟩)
      · omega
      · omega
      · exact Nat.not_lt.2 hhigh ((if_pos hsrc).symm.trans_lt hlong)
      · exact Nat.not_lt.2 hend hpast
      · omega
    · rintro (hmore | hzero | hlong | hpast | ⟨-, hholed⟩)
      · omega
      · omega
      · exact Nat.not_lt.2 (Nat.le_trans (Nat.le_add_left len off) hend) ((if_neg (by omega)).symm.trans_lt hlong)
      · exact Nat.not_lt.2 hend hpast
      · exact Bool.false_ne_true ((by simpa using hholed : _ = false).symm.trans hhole)
    · exact hbad.imp_right (Or.imp_right (fun hend => .inr (.inl hend)))
  case fwVerify =>
    have hbec := h.becomes (c := .fwVerify m) (by decide) rfl rfl
    exact ⟨fun hlow hhigh => hbec.of_eq (if_neg (by simp only [imageMax]; omega)), fun hbad => hbec.of_eq (if_pos hbad)⟩
  case fwActivate =>
    intro i mode q
    have hbec := h.becomes (c := .fwActivate m) (by decide) rfl rfl
    have hmode (hle : mode ≤ 1) := hbec.of_eq (if_neg (Nat.not_lt.2 hle))
    have hvalid (hle : mode ≤ 1) (hslot : p.slotValid i = true) := (hmode hle).of_eq (if_neg (by simpa using hslot))
    refine ⟨fun hmore => hbec.of_eq (if_pos hmore), fun hle hslot => (hmode hle).of_eq (if_pos (by simpa using hslot)), fun hzero hslot => ?_,
      fun hone hslot harmed => ?_, fun hone hslot harmed => ?_⟩
    · exact ((hvalid (by omega) hslot).of_eq (if_neg (fun hall => by omega))).of_eq (if_pos hzero)
    · exact (hvalid (by omega) hslot).of_eq (if_pos ⟨hone, harmed⟩)
    · exact ((hvalid (by omega) hslot).of_eq (if_neg (fun hall => harmed hall.2))).of_eq (if_neg (by omega))
  case selftest =>
    intro die u
    have hbec := h.becomes (c := .selftest m) (by decide) rfl rfl
    have hnamed (hkind : k.at_ 0x11 1 ≤ 1) (hunit : unitOnDie die u = true) := hbec.of_eq (if_neg (fun hbad =>
      hbad.elim (fun hmore => Nat.not_lt.2 hkind hmore) (fun hno => Bool.false_ne_true ((by simpa using hno : _ = false).symm.trans hunit))))
    have howned (hkind : k.at_ 0x11 1 ≤ 1) (hunit : unitOnDie die u = true) (hown : p.ownsDie m die = true) :=
      (hnamed hkind hunit).of_eq (if_neg (by simpa using hown))
    have hretired : (die, u) ∈ p.ras.retired ↔ p.ras.retired.contains (die, u) = true := List.contains_iff_mem.symm
    have hasks (hkind : k.at_ 0x11 1 ≤ 1) (hunit : unitOnDie die u = true) (hown : p.ownsDie m die = true) (hkept : (die, u) ∉ p.ras.retired)
        (hnot13 : unitKind u ≠ 13) : Becomes (.selftest m) s ((p.asksTest e die u (k.at_ 0x11 1 == 1)).mbRun m) :=
      (howned hkind hunit hown).of_eq (if_neg (fun hno => (Bool.or_eq_true_iff.1 hno).elim (fun hgone => hkept (hretired.2 hgone))
        (fun hworn => hnot13 (beq_iff_eq.1 (Bool.and_eq_true_iff.1 hworn).1))))
    refine ⟨fun hbad => hbec.of_eq (if_pos (hbad.imp_right (Bool.not_eq_true' _).mpr)),
      fun hkind hunit hother => (hnamed hkind hunit).of_eq (if_pos ((Bool.not_eq_true' _).mpr hother)),
      fun hkind hunit hown hgone => (howned hkind hunit hown).of_eq (if_pos (Bool.or_eq_true_iff.2 (.inl (hretired.1 hgone)))),
      fun hkind hunit hown hkept hnot13 hidle => ?_, fun hkind hunit hown hkept hnot13 hidle => ?_⟩
    · have htest := hasks (by omega) hunit hown hkept hnot13
      rw [hkind] at htest
      exact htest.of_eq (congrArg (fun q : Pkg => q.mbRun m) (asksTest_targeted hidle e))
    · have htest := hasks (by omega) hunit hown hkept hnot13
      rw [hkind] at htest
      exact (htest.of_eq (congrArg (fun q : Pkg => q.mbRun m) (asksTest_march hidle e))).answers
        ⟨mem_mbRun h rfl, rfl, fun _ _ => rfl, fun _ => rfl, lift_keeps s _⟩
  case pairSet =>
    intro ctx ok
    have hbec := h.becomes (c := .pairSet m) (by decide) rfl rfl
    have hbad : (7 < ctx ∨ 7 < k.at_ 0x15 1 ∨ (!p.topo.holds (k.at_ 0x10 4)) = true) ↔ ¬ ok := by
      simp only [ok, not_and_or, Nat.not_le, Bool.not_eq_true, Bool.not_eq_true']
    have hok (hyes : ok) := hbec.of_eq (if_neg (fun hno => hbad.1 hno hyes))
    refine ⟨fun hno => hbec.of_eq (if_pos (hbad.2 hno)), fun hyes hother => (hok hyes).of_eq (if_pos hother), fun hyes hown hon => ?_,
      fun hyes hown hoff => ?_⟩
    · exact ((hok hyes).of_eq (if_neg (not_not_intro hown))).of_eq (if_pos hon)
    · exact ((hok hyes).of_eq (if_neg (not_not_intro hown))).of_eq (if_neg (by simpa using hoff))
  case propose =>
    intro role kind index body digest x q q1 own key admitted
    have hbec := h.becomes (c := .protectPropose m) (by decide) rfl rfl
    have hgood (hchange : p.changeBad kind index body = false) := hbec.of_eq (if_neg (by simpa using hchange))
    have hadmitted (hadm : admitted) : Becomes (.protectPropose m) s (p.proposed e m k (p.messageFails role key k 0x88)) :=
      (hgood hadm.1).of_eq (if_neg (fun hno => hno.elim (fun hrole => absurd (List.contains_iff_mem.2 hadm.2.1) (by simpa using hrole))
        (fun hoob => absurd (hadm.2.2 hoob.1) (by simpa using hoob.2))))
    refine ⟨fun hchange => hbec.of_eq (if_pos hchange), fun hchange hno => (hgood hchange).of_eq (if_pos ?_), fun r hadm hr => ?_,
      fun hadm hpass hfull => ?_, fun hadm hpass hroom => ?_⟩
    · exact hno.imp (fun hrole => (Bool.not_eq_true' _).mpr (Bool.eq_false_iff.2 (fun hin => hrole (List.contains_iff_mem.1 hin))))
        (fun hoob => ⟨hoob.1, (Bool.not_eq_true' _).mpr hoob.2⟩)
    · exact (hadmitted hadm).of_eq (congrArg (p.proposed e m k) hr)
    · exact ((hadmitted hadm).of_eq (congrArg (p.proposed e m k) hpass)).of_eq (if_pos hfull)
    · exact ((hadmitted hadm).of_eq (congrArg (p.proposed e m k) hpass)).of_eq (if_neg (Nat.not_le.2 hroom))
  case endorse =>
    intro role id q
    have hunpending (hnone : p.mgt.proposals.find? (fun x => x.id == id) = none) : Becomes (.protectEndorse m) s
        (if p.mgt.expired.contains id then p.mbAnswer e m k resExpired 0 [] else p.mbAnswer e m k resNoProposal 0 []) := by
      have hbec := h.becomes (c := .protectEndorse m) (by decide) rfl rfl
      have hnone' : s.pkg.mgt.proposals.find? (fun x => x.id == k.at_ 0x20 4) = none := hnone
      simp only [hnone'] at hbec
      exact hbec
    have hexpiredList : id ∈ p.mgt.expired ↔ p.mgt.expired.contains id = true := List.contains_iff_mem.symm
    refine ⟨fun hnone hunknown => ?_, fun hnone hexpired => ?_, fun x hfind hkind hpass => ?_⟩
    · exact (hunpending hnone).of_eq (if_neg (fun hin => hunknown (hexpiredList.2 hin)))
    · exact (hunpending hnone).of_eq (if_pos (hexpiredList.1 hexpired))
    · have hend : Becomes (.protectEndorse m) s (q.endorsed e m role k x) := becomes_endorsed h hfind hkind hpass
      have htakes {u : Pkg} (hexpiry : k.beat ≤ x.expiry) (hdigest : (k.area.drop 0x28).take 48 = x.digest) (hmay : q.mayEndorse role x = true)
          (hoob : x.kind = 7 → k.oob = true) (hstages : q.mayStage m = true) (hstage : q.stage e m (q.changeEntry x) = some u) :=
        hend.of_eq (endorsed_of_stage hexpiry hdigest hmay hoob hstages hstage)
      refine ⟨fun hlate => hend.of_eq (if_pos hlate), fun hexpiry hdigest => ?_, fun hexpiry hdigest hrole => ?_,
        fun u hexpiry hdigest hmay hoob hstages hstage => ?_, fun hexpiry hdigest hmay hone hstages hroom => ?_⟩
      · exact hend.of_eq ((if_neg (Nat.not_lt.2 hexpiry)).trans (if_pos hdigest))
      · exact hend.of_eq (endorsed_of_sameRole hexpiry hdigest hrole)
      · have htake := htakes hexpiry hdigest hmay hoob hstages hstage
        have hkey : (5 ≤ x.kind ∧ x.kind ≤ 7) = (x.kind = 6 ∨ x.kind = 7) := propext (by omega)
        dsimp only [Pkg.takesChange] at htake
        simp only [hkey] at htake
        exact htake
      · have hentry : q.changeEntry x = [⟨Reg.SEC_PART x.index, 8, BitVec.ofNat 64 (leAt x.body 0 8), true⟩] := by
          unfold Pkg.changeEntry
          simp only [hone]
        have hstage := stage_eq (p := q) (Nat.le_trans (Nat.add_le_add_left (newStaged_one_le q
          ⟨Reg.SEC_PART x.index, 8, BitVec.ofNat 64 (leAt x.body 0 8), true⟩) _) hroom) e m
        exact answers_of_endorsed (htakes hexpiry hdigest hmay (fun hseven => absurd (hone.symm.trans hseven) (by decide)) hstages
          ((congrArg (q.stage e m) hentry).trans hstage))
  case withdraw =>
    intro role id q
    have hbec := h.becomes (c := .protectWithdraw m) (by decide) rfl rfl
    refine ⟨fun hnone => ?_, fun x hfind => ?_⟩
    · have hnone' : s.pkg.mgt.proposals.find? (fun x => x.id == k.at_ 0x20 4) = none := hnone
      simp only [hnone'] at hbec
      exact hbec
    · have hwithdrawn := becomes_withdrawn h hfind
      refine ⟨fun r hr => ?_, fun hpass hrole => ?_, fun hpass hrole => ?_⟩
      · exact hwithdrawn.of_eq (congrArg (p.withdrawn e m k x) hr)
      · exact (hwithdrawn.of_eq (congrArg (p.withdrawn e m k x) hpass)).of_eq (if_pos hrole)
      · exact (hwithdrawn.of_eq (congrArg (p.withdrawn e m k x) hpass)).of_eq (if_neg (not_not_intro hrole))

end Sys2Proof

/-! SUPPORT. Supply episodes, the cap, phases and throttling (R581 to R585, R589 to R592). -/

namespace Sys2Proof.Machine

/-! ### Disturbances and delays -/

section
variable (p : Pkg)

theorem disturb_inner (detail die unit : Nat) : (p.disturb detail die unit).inner = p.inner := by
  unfold Pkg.disturb
  split
  · rw [record_inner, setFld_inner, addReg_inner]
  · rfl

theorem disturb_irqs (detail die unit : Nat) : (p.disturb detail die unit).irqs = p.irqs := by
  unfold Pkg.disturb
  split <;> rfl

/-- A disturbance by the supply shows in the timer's registers alone (R474). -/
theorem disturb_supply_reg (die unit : Nat) {k : Nat} (hk : k ∉ [Reg.TIM_CNT_DIST_SUPPLY, Reg.TIM_STATUS]) : (p.disturb 2 die unit).reg k = p.reg k := by
  simp only [List.mem_cons, List.not_mem_nil, or_false, not_or] at hk
  unfold Pkg.disturb
  split
  · rw [record_reg, setFld_reg_ne _ _ _ _ _ hk.2, addReg_eq, reg_setReg]
    exact if_neg hk.1
  · rfl

theorem setPwr_reg_ne (f : Field) (b : Bool) {k : Nat} (hk : k ≠ Reg.PWR_STATUS) : (p.setPwr f b).reg k = p.reg k := setFld_reg_ne _ _ _ _ _ hk

theorem setPwr_on (f : Field) (h : f.hi < 64) (h' : f.lo ≤ f.hi) : (p.setPwr f true).on Reg.PWR_STATUS f = true := on_setFld_one _ _ _ h h'

theorem setPwr_on_ne (f g : Field) (b : Bool) (h : f.hi < g.lo ∨ g.hi < f.lo) (hg : g.hi < 64) :
    (p.setPwr f b).on Reg.PWR_STATUS g = p.on Reg.PWR_STATUS g :=
  congrArg (fun n => n == 1) (fld_setFld_ne p _ f g _ h hg)

end

/-- The package shown at the fall that begins an episode: warning, stretched clocks and held injections. -/
def Pkg.warns (p : Pkg) (e : Env) (mv : Nat) : Pkg :=
  ((((p.event 3 31 0 1 0 (leBytes 4 mv)).setEpisode (some ⟨e.tagHall, mv, none, none, 0⟩)).setPwr Fld.PWR_WARN_STICKY true).setPwr
    Fld.PWR_STRETCHED true).setPwr Fld.PWR_FAB_HELD true

/-- The episode begins: it is counted, raised and a disturbance. -/
def Pkg.beginsEpisode (p : Pkg) (e : Env) (mv : Nat) : Pkg := (((p.warns e mv).pwrCount Reg.PWR_CNT_WARN 1).raiseIrq 3 31 130).disturb 2 31 0

section
variable (p : Pkg) (e : Env) (mv : Nat)

theorem warns_reg {k : Nat} (hk : k ≠ Reg.PWR_STATUS) : (p.warns e mv).reg k = p.reg k := by
  unfold Pkg.warns
  rw [setPwr_reg_ne _ _ _ hk, setPwr_reg_ne _ _ _ hk, setPwr_reg_ne _ _ _ hk]
  exact event_reg p 3 31 0 1 0 (leBytes 4 mv) k (fun h8 => absurd h8 (by decide)) (fun h4 => absurd h4 (by decide))

theorem warns_inner : (p.warns e mv).inner = { p.inner with pwr := { p.pwr with episode := some ⟨e.tagHall, mv, none, none, 0⟩ } } :=
  congrArg (fun q : Pkg => { q with pwr := { q.pwr with episode := some ⟨e.tagHall, mv, none, none, 0⟩ } })
    (event_inner (p := p) (cls := 3) (by decide) 31 0 1 0 (leBytes 4 mv))

theorem beginsEpisode_inner :
    (p.beginsEpisode e mv).inner = { p.inner with pwr := { p.pwr with episode := some ⟨e.tagHall, mv, none, none, 0⟩ } } := by
  unfold Pkg.beginsEpisode Pkg.pwrCount
  rw [disturb_inner, raiseIrq_inner, bump_inner, warns_inner]

theorem beginsEpisode_status : (p.beginsEpisode e mv).reg Reg.PWR_STATUS = (p.warns e mv).reg Reg.PWR_STATUS := by
  unfold Pkg.beginsEpisode Pkg.pwrCount
  rw [disturb_supply_reg _ _ _ (by decide), raiseIrq_reg, bump_reg _ _ _ _ _ _ (by decide)]

theorem beginsEpisode_reg {k : Nat} (hk : k ∉ [Reg.PWR_STATUS, Reg.PWR_CNT_WARN, Reg.TIM_CNT_DIST_SUPPLY, Reg.TIM_STATUS]) :
    (p.beginsEpisode e mv).reg k = p.reg k := by
  simp only [List.mem_cons, List.not_mem_nil, or_false, not_or] at hk
  obtain ⟨hstatus, hwarn, hsupply, htim⟩ := hk
  unfold Pkg.beginsEpisode Pkg.pwrCount
  rw [disturb_supply_reg _ _ _ (by simp [hsupply, htim]), raiseIrq_reg, bump_reg _ _ _ _ _ _ hwarn, warns_reg _ _ _ hstatus]

theorem beginsEpisode_irq : ∃ i ∈ (p.beginsEpisode e mv).irqs, i.src = 130 := by
  unfold Pkg.beginsEpisode
  rw [disturb_irqs]
  exact raiseIrq_mem ..

/-- The episode that begins is shown: the warning, the stretched clocks and the held injections. -/
theorem beginsEpisode_shown : (p.beginsEpisode e mv).on Reg.PWR_STATUS Fld.PWR_WARN_STICKY = true ∧
    (p.beginsEpisode e mv).on Reg.PWR_STATUS Fld.PWR_STRETCHED = true ∧ (p.beginsEpisode e mv).on Reg.PWR_STATUS Fld.PWR_FAB_HELD = true := by
  simp only [on_eq, beginsEpisode_status]
  simp only [← on_eq]
  unfold Pkg.warns
  refine ⟨?_, ?_, setPwr_on _ _ (by decide) (by decide)⟩
  · rw [setPwr_on_ne _ _ _ _ (by decide) (by decide), setPwr_on_ne _ _ _ _ (by decide) (by decide)]
    exact setPwr_on _ _ (by decide) (by decide)
  · rw [setPwr_on_ne _ _ _ _ (by decide) (by decide)]
    exact setPwr_on _ _ (by decide) (by decide)

end

theorem supplyWarning_begins {p : Pkg} {mv : Nat} (hlow : mv < 42000) (hnone : p.pwr.episode = none) (e : Env) :
    supplyWarning mv e p = (p.beginsEpisode e mv).delaySupply e := by
  unfold supplyWarning
  rw [if_neg (Nat.not_le.2 hlow)]
  simp only [hnone]
  rfl

theorem supplyWarning_again {p : Pkg} {mv : Nat} {x : Episode} (hlow : mv < 42000) (hsome : p.pwr.episode = some x) (e : Env) :
    supplyWarning mv e p = (p.setEpisode (some ⟨x.since, min x.low mv, none, none, 0⟩)).setPwr Fld.PWR_FAB_HELD true := by
  unfold supplyWarning
  rw [if_neg (Nat.not_le.2 hlow)]
  simp only [hsome]

section
variable {p : Pkg} (hnone : p.pwr.episode = none)
include hnone

/-- Without an episode there is nothing to recover from. -/
theorem supplyRecovery_none (mv : Nat) (e : Env) : supplyRecovery mv e p = p := by
  unfold supplyRecovery
  simp only [hnone]

theorem recoveryTimer_none (e : Env) : recoveryTimer e p = p := by
  unfold recoveryTimer
  simp only [hnone]

theorem clockStep_none (e : Env) : clockStep e p = p := by
  unfold clockStep
  simp only [hnone]

end

/-- What the recovery timer does in an episode (R584). -/
def Pkg.timerStep (p : Pkg) (e : Env) (x : Episode) : Pkg :=
  match x.above, x.released with
  | some t, none =>
    if t + 100000 ≤ e.tagHall then
      (((p.delaySupply e).setEpisode (some { x with released := some e.tagHall })).setPwr Fld.PWR_FAB_HELD false).settle e
    else p
  | _, _ => p

/-- The eighth step ends an episode: the clocks run as before, and the dip is shown (R583, R584). -/
def Pkg.endsEpisode (p : Pkg) (e : Env) (x : Episode) : Pkg :=
  ((((p.delaySupply e).setEpisode none).setPwr Fld.PWR_STRETCHED false).setFld Reg.PWR_DIP Fld.PWR_DIP_MIN_MV (min x.low 0xffff)).setFld Reg.PWR_DIP
    Fld.PWR_DIP_US (min ((e.tagHall - x.since) / 1000) 0xffff)

/-- What a step of the clocks does in an episode (R583, R584). -/
def Pkg.stepClocks (p : Pkg) (e : Env) (x : Episode) : Pkg :=
  match x.released with
  | none => p
  | some t =>
    if e.tagHall < t + 2500 * (x.steps + 1) then p
    else if x.steps + 1 < 8 then p.setEpisode (some { x with steps := x.steps + 1 })
    else (p.endsEpisode e x).record 31 0 0x11 1 (leBytes 4 x.low ++ leBytes 4 ((e.tagHall - x.since) / 1000))

section
variable {p : Pkg} {x : Episode} (hsome : p.pwr.episode = some x)
include hsome

theorem supplyRecovery_some (mv : Nat) (e : Env) : supplyRecovery mv e p =
    p.setEpisode (some { x with low := min x.low mv, above := if 43000 < mv then some (x.above.getD e.tagHall) else none }) := by
  unfold supplyRecovery
  simp only [hsome]

theorem recoveryTimer_some (e : Env) : recoveryTimer e p = p.timerStep e x := by
  unfold recoveryTimer
  simp only [hsome]
  rfl

theorem clockStep_some (e : Env) : clockStep e p = p.stepClocks e x := by
  unfold clockStep
  simp only [hsome]
  rfl

end

section
variable {p : Pkg} {e : Env} {x : Episode}

theorem timerStep_idle (h : x.above = none ∨ x.released.isSome = true) : p.timerStep e x = p := by
  unfold Pkg.timerStep
  rcases h with habove | hreleased
  · rw [habove]
  · obtain ⟨t, ht⟩ := Option.isSome_iff_exists.1 hreleased
    rw [ht]
    cases x.above <;> rfl

theorem timerStep_running {u : Nat} (habove : x.above = some u) (hreleased : x.released = none) : p.timerStep e x =
    if u + 100000 ≤ e.tagHall then
      (((p.delaySupply e).setEpisode (some { x with released := some e.tagHall })).setPwr Fld.PWR_FAB_HELD false).settle e
    else p := by
  unfold Pkg.timerStep
  rw [habove, hreleased]

theorem stepClocks_held (hreleased : x.released = none) : p.stepClocks e x = p := by
  unfold Pkg.stepClocks
  rw [hreleased]

variable {u : Nat} (hreleased : x.released = some u)
include hreleased

theorem stepClocks_early (hearly : e.tagHall < u + 2500 * (x.steps + 1)) : p.stepClocks e x = p := by
  unfold Pkg.stepClocks
  rw [hreleased]
  exact if_pos hearly

variable (hdue : u + 2500 * (x.steps + 1) ≤ e.tagHall)
include hdue

theorem stepClocks_step (hsteps : x.steps < 7) : p.stepClocks e x = p.setEpisode (some { x with steps := x.steps + 1 }) := by
  unfold Pkg.stepClocks
  rw [hreleased]
  exact (if_neg (Nat.not_lt.2 hdue)).trans (if_pos (by omega))

theorem stepClocks_last (hsteps : 7 ≤ x.steps) : p.stepClocks e x =
    (p.endsEpisode e x).record 31 0 0x11 1 (leBytes 4 x.low ++ leBytes 4 ((e.tagHall - x.since) / 1000)) := by
  unfold Pkg.stepClocks
  rw [hreleased]
  exact (if_neg (Nat.not_lt.2 hdue)).trans (if_neg (by omega))

end

section
variable (p : Pkg) (e : Env) (x : Episode)

theorem endsEpisode_stretched : (p.endsEpisode e x).on Reg.PWR_STATUS Fld.PWR_STRETCHED = false := by
  unfold Pkg.endsEpisode
  rw [on_setFld_other _ _ _ _ _ _ (by decide), on_setFld_other _ _ _ _ _ _ (by decide)]
  exact on_setFld_zero _ _ _ (by decide)

theorem endsEpisode_min : (p.endsEpisode e x).fld Reg.PWR_DIP Fld.PWR_DIP_MIN_MV = min x.low 65535 := by
  unfold Pkg.endsEpisode
  rw [fld_setFld_ne _ _ _ _ _ (by decide) (by decide), fld_setFld _ _ _ _ (by decide)]
  exact Nat.mod_eq_of_lt (Nat.lt_of_le_of_lt (Nat.min_le_right ..) (by decide))

theorem endsEpisode_us : (p.endsEpisode e x).fld Reg.PWR_DIP Fld.PWR_DIP_US = min ((e.tagHall - x.since) / 1000) 65535 := by
  unfold Pkg.endsEpisode
  rw [fld_setFld _ _ _ _ (by decide)]
  exact Nat.mod_eq_of_lt (Nat.lt_of_le_of_lt (Nat.min_le_right ..) (by decide))

theorem endsEpisode_reg {k : Nat} (hk : k ∉ [Reg.PWR_STATUS, Reg.PWR_DIP]) : (p.endsEpisode e x).reg k = p.reg k := by
  simp only [List.mem_cons, List.not_mem_nil, or_false, not_or] at hk
  unfold Pkg.endsEpisode
  rw [setFld_reg_ne _ _ _ _ _ hk.2, setFld_reg_ne _ _ _ _ _ hk.2, setPwr_reg_ne _ _ _ hk.1]
  rfl

end

/-! ### The cap and the phases (R581, R592) -/

theorem capEffect_none {p : Pkg} (h : p.pwr.capNext = none) (e : Env) : capEffect e p = p := by
  unfold capEffect
  simp only [h]

theorem capEffect_some {p : Pkg} {b w : Nat} (h : p.pwr.capNext = some (b, w)) (e : Env) : capEffect e p =
    if b ≤ e.tag then (p.updPwr (fun x => { x with capNext := none })).setFld Reg.PWR_CAP Fld.PWR_CAP_W w else p := by
  unfold capEffect
  simp only [h]

/-- The first phase of a rail is shed: counted and logged, and no level is held. -/
def Pkg.shedsFirst (p : Pkg) (ph : Nat) : Pkg :=
  ((p.updPwr (fun w => { w with shed := w.shed ++ [ph] })).pwrCount Reg.PWR_CNT_SHED 1).record 31 0 0x11 4
    (leBytes 1 (railOf ph).1 ++ leBytes 2 (railOf ph).2)

theorem shedPhase_first {p : Pkg} {ph : Nat} (hreal : ph < 384) (hnew : ph ∉ p.pwr.shed) (hrail : ∀ y ∈ p.pwr.shed, (railOf y).1 ≠ (railOf ph).1)
    (e : Env) : p.shedPhase e ph = p.shedsFirst ph := by
  have hfirst : p.pwr.shed.any (fun x => (railOf x).1 == (railOf ph).1) = false :=
    List.any_eq_false.2 (fun y hy => by simpa using hrail y hy)
  unfold Pkg.shedPhase
  rw [if_neg (fun hno => hno.elim (Nat.not_le.2 hreal) (fun hin => hnew (List.contains_iff_mem.1 hin)))]
  simp only [hfirst, Bool.false_and, Bool.false_eq_true, if_false]
  rfl

theorem shedsFirst_inner (p : Pkg) (ph : Nat) : (p.shedsFirst ph).inner = { p.inner with pwr := { p.pwr with shed := p.pwr.shed ++ [ph] } } := by
  unfold Pkg.shedsFirst Pkg.pwrCount
  rw [record_inner, bump_inner]
  rfl

theorem shedsFirst_raised (p : Pkg) (ph : Nat) : (p.shedsFirst ph).raised =
    p.raised ++ [⟨false, 31, 0, 0, 0x11, 4, padTo 28 (leBytes 1 (railOf ph).1 ++ leBytes 2 (railOf ph).2)⟩] :=
  congrArg (fun rs => rs ++ [_]) (bump_raised (p.updPwr (fun w => { w with shed := w.shed ++ [ph] })) Reg.PWR_CTRL Fld.PWR_CNT_FREEZE Reg.PWR_CNT_SHED 1)

/-! ### Throttle levels (R589 to R591) -/

/-- Levels as they stand after an update: each unit's, where it is not 0. -/
def Pkg.showsLevels (p : Pkg) (ls why : List (Nat × Nat)) : Pkg :=
  let leaves : Bool := ls.any (fun x => x.2 != 0 && p.level x.1 == 0)
  let top := (ls.map (·.2)).foldl max 0
  let raised := ls.filter (fun x => x.2 != 0)
  let because := why.filter (fun x => raised.any (fun y => y.1 == x.1))
  let p1 := p.updPwr (fun w => { w with levels := raised, why := because })
  let p2 := (p1.setPwr Fld.PWR_THROTTLE_T (because.any (fun x => x.2.testBit 0))).setPwr Fld.PWR_THROTTLE_P (because.any (fun x => x.2.testBit 1))
  let p3 := p2.setFld Reg.PWR_STATUS Fld.PWR_LEVEL_MAX top
  if leaves then ((p3.setPwr Fld.PWR_THROTTLE_STICKY true).raiseIrq 13 31 131).disturb 3 31 0 else p3

theorem showsLevels_inner (p : Pkg) (ls why : List (Nat × Nat)) : (p.showsLevels ls why).inner = { p.inner with
    pwr := { p.pwr with levels := ls.filter (fun x => x.2 != 0), why := why.filter (fun x => (ls.filter (fun x => x.2 != 0)).any (fun y => y.1 == x.1)) } } := by
  unfold Pkg.showsLevels
  dsimp only
  split
  · rw [disturb_inner, raiseIrq_inner]
    rfl
  · rfl

theorem setLevels_level (p : Pkg) (e : Env) (ls why : List (Nat × Nat)) (u : Nat) :
    (p.setLevels e ls why).level u = (assoc? (ls.filter (fun x => x.2 != 0)) u).getD 0 := by
  have hlevels := congrArg (fun q : Pkg => q.pwr.levels) (showsLevels_inner p ls why)
  exact congrArg (fun xs => (assoc? xs u).getD 0) hlevels

theorem setLevels_byte (p : Pkg) (e : Env) (ls why : List (Nat × Nat)) (a : Nat) : (p.setLevels e ls why).byte a = p.byte a := by
  have hmem := congrArg Pkg.mem (showsLevels_inner p ls why)
  exact byte_of_mem (p := p) (q := p.setLevels e ls why) hmem a

/-- The hottest reading of a unit's die, in 0.1 °C. -/
def unitTemp (temps : List (Nat × Int)) (u : Nat) : Int := (assoc? temps (unitDie u)).getD 0

/-- A unit meets the release condition. -/
def Pkg.coolNow (p : Pkg) (temps : List (Nat × Int)) (power u : Nat) : Bool :=
  unitTemp temps u < (10 * (p.fld Reg.PWR_CFG Fld.PWR_THR_RELEASE : Nat) : Int) && 100 * power ≤ 98 * p.fld Reg.PWR_CAP Fld.PWR_CAP_W

/-- The units that meet the release condition, with the time since when. -/
def Pkg.coolSince (p : Pkg) (e : Env) (temps : List (Nat × Int)) (power : Nat) : List (Nat × Nat) :=
  (p.throttleUnits.filter (p.coolNow temps power)).map (fun u => (u, (assoc? p.pwr.cool u).getD e.tagHall))

/-- A unit's level after an update (R590, R592). -/
def Pkg.nextLevel (p : Pkg) (e : Env) (temps : List (Nat × Int)) (power u : Nat) : Nat :=
  if p.pwr.pinned.contains (unitDie u) ∨ 1050 ≤ unitTemp temps u then 8
  else if 10 * (p.fld Reg.PWR_CFG Fld.PWR_THR_START : Nat) ≤ unitTemp temps u ∨ p.fld Reg.PWR_CAP Fld.PWR_CAP_W < power then min 8 (p.level u + 1)
  else match assoc? (p.coolSince e temps power) u with
    | some t => if t + 1000000 ≤ e.tagHall then p.level u - 1 else p.level u
    | none => p.level u

section
variable (p : Pkg) (e : Env) (temps : List (Nat × Int)) (power : Nat)

/-- The package as measured by an update: the units that have cooled, and the power. -/
def Pkg.measured : Pkg :=
  (p.updPwr (fun w => { w with cool := p.coolSince e temps power })).setFld Reg.PWR_MEAS Fld.PWR_PIN_W (min power 0xffff)

/-- What has raised a unit's level: 1 its temperature, 2 the power. -/
def Pkg.nextWhy (u : Nat) : Nat :=
  (assoc? p.pwr.why u).getD 0 ||| (if p.level u < p.nextLevel e temps power u then
    (if 10 * (p.fld Reg.PWR_CFG Fld.PWR_THR_START : Nat) ≤ unitTemp temps u then 1 else 0) + (if p.fld Reg.PWR_CAP Fld.PWR_CAP_W < power then 2 else 0) else 0)

/-- The package with the levels of an update. -/
def Pkg.levelled : Pkg :=
  (p.measured e temps power).setLevels e (p.throttleUnits.map (fun u => (u, p.nextLevel e temps power u)))
    (p.throttleUnits.map (fun u => (u, p.nextWhy e temps power u)))

/-- An update sets the levels, and may show that the cap is not met. -/
theorem throttleUpdate_eq : throttleUpdate temps power e p =
    if (p.throttleUnits.map (fun u => (u, p.nextLevel e temps power u))).all (fun x => x.2 == 8) && p.fld Reg.PWR_CAP Fld.PWR_CAP_W < power &&
        !p.on Reg.PWR_STATUS Fld.PWR_CAP_UNMET then
      ((p.levelled e temps power).setPwr Fld.PWR_CAP_UNMET true).record 31 0 0x11 2 (leBytes 4 (p.fld Reg.PWR_CAP Fld.PWR_CAP_W) ++ leBytes 4 power)
    else p.levelled e temps power := rfl

theorem throttleUpdate_inner : (throttleUpdate temps power e p).inner = (p.levelled e temps power).inner := by
  rw [throttleUpdate_eq]
  split <;> rfl

theorem throttleUpdate_level {u : Nat} (hu : u ∈ p.throttleUnits) : (throttleUpdate temps power e p).level u = p.nextLevel e temps power u := by
  have hlevel := congrArg (fun r : Pkg => r.level u) (throttleUpdate_inner p e temps power)
  have hfilter : (p.throttleUnits.map (fun u => (u, p.nextLevel e temps power u))).filter (fun x => x.2 != 0) =
      (p.throttleUnits.filter (fun u => p.nextLevel e temps power u != 0)).map (fun u => (u, p.nextLevel e temps power u)) := List.filter_map
  refine hlevel.trans ((setLevels_level (p.measured e temps power) e _ _ u).trans ?_)
  rw [hfilter, assoc_active]
  by_cases hzero : p.nextLevel e temps power u = 0
  · simp [hzero]
  · simp [hu, hzero]

theorem throttleUpdate_byte (a : Nat) : (throttleUpdate temps power e p).byte a = p.byte a := by
  have hsame := congrArg (fun r : Pkg => r.byte a) (throttleUpdate_inner p e temps power)
  exact hsame.trans (setLevels_byte (p.measured e temps power) e _ _ a)

end

section
variable {p : Pkg} {temps : List (Nat × Int)} {power u : Nat}

theorem nextLevel_top (h : unitDie u ∈ p.pwr.pinned ∨ 1050 ≤ unitTemp temps u) (e : Env) : p.nextLevel e temps power u = 8 :=
  if_pos (h.imp_left List.contains_iff_mem.2)

variable (hfree : unitDie u ∉ p.pwr.pinned) (hbelow : unitTemp temps u < 1050)
include hfree hbelow

theorem nextLevel_rises (h : 10 * (p.fld Reg.PWR_CFG Fld.PWR_THR_START : Nat) ≤ unitTemp temps u ∨ p.fld Reg.PWR_CAP Fld.PWR_CAP_W < power) (e : Env) :
    p.nextLevel e temps power u = min 8 (p.level u + 1) :=
  (if_neg (fun hno => hno.elim (fun hin => hfree (List.contains_iff_mem.1 hin)) (not_le.2 hbelow))).trans (if_pos h)

variable (hcool : unitTemp temps u < 10 * (p.fld Reg.PWR_CFG Fld.PWR_THR_START : Nat)) (hpower : power ≤ p.fld Reg.PWR_CAP Fld.PWR_CAP_W)
include hcool hpower

theorem nextLevel_falling (e : Env) : p.nextLevel e temps power u = match assoc? (p.coolSince e temps power) u with
    | some t => if t + 1000000 ≤ e.tagHall then p.level u - 1 else p.level u
    | none => p.level u :=
  (if_neg (fun hno => hno.elim (fun hin => hfree (List.contains_iff_mem.1 hin)) (not_le.2 hbelow))).trans
    (if_neg (fun hno => hno.elim (not_le.2 hcool) (Nat.not_lt.2 hpower)))

theorem nextLevel_stays (hwarm : p.coolNow temps power u = false) (e : Env) : p.nextLevel e temps power u = p.level u := by
  rw [nextLevel_falling hfree hbelow hcool hpower]
  unfold Pkg.coolSince
  rw [assoc_active, if_neg (by simp [hwarm])]

theorem nextLevel_lowers (hu : u ∈ p.throttleUnits) (hnow : p.coolNow temps power u = true) {c : Nat} (hsince : assoc? p.pwr.cool u = some c) (e : Env) :
    p.nextLevel e temps power u = if c + 1000000 ≤ e.tagHall then p.level u - 1 else p.level u := by
  rw [nextLevel_falling hfree hbelow hcool hpower]
  unfold Pkg.coolSince
  rw [assoc_active, if_pos ⟨hu, hnow⟩, hsince]
  rfl

end

end Sys2Proof.Machine

namespace Sys2Proof

open Machine

/-- Settles O59: the episode's stage, the cap's beat, the shed phases and the readings decide what each command does. -/
theorem supplyAndThrottle : Obligations.SupplyAndThrottle := by
  unfold Obligations.SupplyAndThrottle
  intro s hwork p e ep
  refine ⟨fun mv => ⟨fun hhigh => ?_, fun x hlow hep => ?_, fun hlow hep => ?_, fun hep => ?_, fun x hep => ?_⟩, fun hep => ⟨?_, ?_⟩, fun x hep => ?_,
    fun hcap => ?_, fun b w hcap => ⟨fun hearly => ?_, fun hdue => ?_⟩, ?_, fun ph hshed => ?_, fun ph hreal hnew hrail => ?_,
    fun temps power u hu => ?_⟩
  · exact becomes_work rfl hwork (if_pos hhigh)
  · have hbec : Becomes (.supplyWarning mv) s _ := becomes_work rfl hwork (supplyWarning_again hlow hep e)
    refine hbec.answers ⟨rfl, setPwr_on _ _ (by decide) (by decide), fun k hk => ?_, fun _ => rfl, lift_keeps s _⟩
    exact setPwr_reg_ne _ _ _ (by simpa using hk)
  · have hbec : Becomes (.supplyWarning mv) s _ := becomes_work rfl hwork (supplyWarning_begins hlow hep e)
    obtain ⟨hsticky, hstretched, hheld⟩ := beginsEpisode_shown p e mv
    have hepisode := congrArg (fun q : Pkg => q.pwr.episode) (beginsEpisode_inner p e mv)
    have hmem := congrArg Pkg.mem (beginsEpisode_inner p e mv)
    exact hbec.answers ⟨hepisode, hsticky, hstretched, hheld, beginsEpisode_irq p e mv, fun k hk => beginsEpisode_reg p e mv hk,
      byte_of_mem (p := p) (q := p.beginsEpisode e mv) hmem, lift_keeps s _⟩
  · exact becomes_work rfl hwork (supplyRecovery_none hep mv e)
  · have hbec : Becomes (.supplyRecovery mv) s _ := becomes_work rfl hwork (supplyRecovery_some hep mv e)
    exact hbec.answers ⟨rfl, fun _ _ => rfl, fun _ => rfl, lift_keeps s _⟩
  · exact becomes_work rfl hwork (recoveryTimer_none hep e)
  · exact becomes_work rfl hwork (clockStep_none hep e)
  · have htimer : Becomes .recoveryTimer s (p.timerStep e x) := becomes_work rfl hwork (recoveryTimer_some hep e)
    have hclock : Becomes .clockStep s (p.stepClocks e x) := becomes_work rfl hwork (clockStep_some hep e)
    refine ⟨fun hidle => htimer.of_eq (timerStep_idle hidle), fun u habove hreleased => ?_, fun hreleased => hclock.of_eq (stepClocks_held hreleased),
      fun u hreleased => ⟨fun hearly => hclock.of_eq (stepClocks_early hreleased hearly), fun hdue hsteps => ?_, fun hdue hsteps => ?_⟩⟩
    · rw [timerStep_running habove hreleased] at htimer
      exact ⟨fun hearly => htimer.of_eq (if_neg (Nat.not_le.2 hearly)), fun hdue => htimer.of_eq (if_pos hdue)⟩
    · exact (hclock.of_eq (stepClocks_step hreleased hdue hsteps)).answers ⟨rfl, fun _ _ => rfl, fun _ => rfl, lift_keeps s _⟩
    · have hend := hclock.of_eq (stepClocks_last hreleased hdue hsteps)
      exact hend.answers ⟨rfl, endsEpisode_stretched .., endsEpisode_min .., endsEpisode_us .., fun k hk => endsEpisode_reg p e x hk, fun _ => rfl, lift_keeps s _⟩
  · exact becomes_work rfl hwork (capEffect_none hcap e)
  · exact becomes_work rfl hwork ((capEffect_some hcap e).trans (if_neg (Nat.not_le.2 hearly)))
  · have hbec : Becomes .capEffect s _ := becomes_work rfl hwork ((capEffect_some hcap e).trans (if_pos hdue))
    refine hbec.answers ⟨fld_setFld _ _ _ _ (by decide), rfl, fun k hk => ?_, fun _ => rfl, lift_keeps s _⟩
    exact setFld_reg_ne _ _ _ _ _ (by simpa using hk)
  · exact becomes_work rfl hwork rfl
  · exact becomes_work rfl hwork (if_pos (.inr (List.contains_iff_mem.2 hshed)))
  · have hbec : Becomes (.phaseCheck [ph]) s (p.shedsFirst ph) := becomes_work rfl hwork (shedPhase_first hreal hnew hrail e)
    have hshed := congrArg (fun q : Pkg => q.pwr.shed) (shedsFirst_inner p ph)
    have hlevels := congrArg (fun q : Pkg => q.pwr.levels) (shedsFirst_inner p ph)
    exact hbec.answers ⟨hshed, hlevels,
      fun k hk => bump_reg _ _ _ _ _ _ (by simpa using hk), fun a => bump_byte _ _ _ _ _ a, lift_keeps s _, logs_of_raised (shedsFirst_raised p ph)⟩
  · intro temp cap start release
    have hbec : Becomes (.throttleUpdate temps power) s (throttleUpdate temps power e p) := becomes_work rfl hwork rfl
    have hlevel := throttleUpdate_level p e temps power hu
    have hcold (h1 : temp < release) (h2 : 100 * power ≤ 98 * cap) : p.coolNow temps power u = true := Bool.and_eq_true_iff.2 ⟨decide_eq_true h1, decide_eq_true h2⟩
    have hwarm (h : release ≤ temp ∨ 98 * cap < 100 * power) : p.coolNow temps power u = false :=
      Bool.and_eq_false_iff.2 (h.imp (fun h1 => decide_eq_false (not_lt.2 h1)) (fun h2 => decide_eq_false (Nat.not_le.2 h2)))
    exact hbec.answers ⟨throttleUpdate_byte p e temps power, lift_keeps s _, fun htop => hlevel.trans (nextLevel_top htop e),
      fun hfree hbelow hhot => hlevel.trans (nextLevel_rises hfree hbelow hhot e),
      fun hfree hbelow hcool hpower hno => hlevel.trans (nextLevel_stays hfree hbelow hcool hpower (hwarm hno) e),
      fun c hfree hbelow hcool hpower h1 h2 hsince => hlevel.trans (nextLevel_lowers hfree hbelow hcool hpower hu (hcold h1 h2) hsince e)⟩

end Sys2Proof

/-! SUPPORT. What stops, resets and starts leave (R463, R540, R586, R587, R594, R625 to R632). -/

namespace Sys2Proof.Machine

/-! ### What the undercoat's loss leaves -/

/-- What a stop finds and keeps: memory, die P's state, and whether standby power is there. -/
def Pkg.supplied (p : Pkg) : List (Nat × Byte) × Pwr × Bool := (p.mem, p.pwr, p.mgt.power)

section
variable {p q : Pkg}

theorem supplied_of_inner (h : q.inner = p.inner) : q.supplied = p.supplied := by
  have hsupplied := congrArg Pkg.supplied h
  exact hsupplied

theorem byte_of_supplied (h : q.supplied = p.supplied) (a : Nat) : q.byte a = p.byte a := byte_of_mem (congrArg Prod.fst h) a

theorem pwr_of_supplied (h : q.supplied = p.supplied) : q.pwr = p.pwr := congrArg (fun x => x.2.1) h

theorem power_of_supplied (h : q.supplied = p.supplied) : q.mgt.power = p.mgt.power := congrArg (fun x => x.2.2) h

variable (p)

theorem event_supplied {cls : Nat} (hcls : cls ≠ 8) (die unit kind detail : Nat) (data : List Byte) :
    (p.event cls die unit kind detail data).supplied = p.supplied := supplied_of_inner (event_inner p hcls ..)

theorem mgtCount_supplied (k n : Nat) : (p.mgtCount k n).supplied = p.supplied := supplied_of_inner (bump_inner ..)

theorem mbAnswer_supplied (e : Env) (m : Nat) (c : MbCmd) (res detail : Nat) (data : List Byte) :
    (p.mbAnswer e m c res detail data).supplied = p.supplied := by
  have hshown := supplied_of_inner (mbShown_inner p e m c res detail data)
  exact hshown

theorem commitFails_supplied (e : Env) (k : CommitSt) (c : MbCmd) : (p.commitFails e k c).supplied = p.supplied :=
  (mbAnswer_supplied ..).trans (mgtCount_supplied { p with mgt := { p.mgt with commit := none } } Reg.MGT_CNT_CANCEL 1)

/-- The commit is lost: a COMMIT still open is answered, an armed one counted as cancelled. -/
def Pkg.losesCommit (e : Env) : Pkg :=
  match p.commitOpen with
  | some kc => p.commitFails e kc.1 kc.2
  | none => if p.mgt.commit.isSome then p.mgtCount Reg.MGT_CNT_CANCEL 1 else p

theorem losesCommit_supplied (e : Env) : (p.losesCommit e).supplied = p.supplied := by
  unfold Pkg.losesCommit
  split
  · exact commitFails_supplied ..
  · split
    · exact mgtCount_supplied ..
    · rfl

theorem loseUndercoat_eq (e : Env) :
    p.loseUndercoat e = if (p.losesCommit e).ucState = ucEmpty then p.losesCommit e else (p.losesCommit e).ucClear := rfl

theorem loseUndercoat_supplied (e : Env) : (p.loseUndercoat e).supplied = p.supplied := by
  rw [loseUndercoat_eq]
  split
  · exact losesCommit_supplied p e
  · exact losesCommit_supplied p e

theorem ucDiscard_supplied (detail : Nat) : (p.ucDiscard detail).supplied = p.supplied := by
  unfold Pkg.ucDiscard
  split <;> rfl

theorem ucCancel_supplied (e : Env) : (p.ucCancel e).supplied = p.supplied := by
  have hanswer : (match p.commitOpen with | some kc => p.mbAnswer e kc.1.box kc.2 resCancelled 0 [] | none => p).supplied = p.supplied := by
    split
    · exact mbAnswer_supplied ..
    · rfl
  unfold Pkg.ucCancel
  dsimp only
  split
  · exact (mgtCount_supplied ..).trans ((ucDiscard_supplied ..).trans hanswer)
  · rfl

end

/-! ### Cold stops (R586, R594) -/

section
variable {p : Pkg} {e : Env} {cls : Nat} {data : List Byte} {trip : Bool}

/-- The package whose work a cold stop has ended, before the marks of the stop. -/
def Pkg.stopsWork (p : Pkg) (e : Env) (cls : Nat) (data : List Byte) : Pkg := ((p.event cls 31 0 1 0 data).loseUndercoat e).dropWork

theorem stopsWork_supplied (hcls : cls ≠ 8) : (p.stopsWork e cls data).supplied = p.supplied :=
  (loseUndercoat_supplied ..).trans (event_supplied p hcls ..)

theorem coldStop_byte (hcls : cls ≠ 8) (a : Nat) : (p.coldStop e cls data trip).byte a = p.byte a := by
  have hbyte := byte_of_supplied (stopsWork_supplied (p := p) (e := e) (data := data) hcls) a
  exact hbyte

theorem coldStop_power (hcls : cls ≠ 8) : (p.coldStop e cls data trip).mgt.power = p.mgt.power := by
  have hpower := power_of_supplied (stopsWork_supplied (p := p) (e := e) (data := data) hcls)
  exact hpower

theorem coldStop_trips (hcls : cls ≠ 8) : (p.coldStop e cls data trip).pwr.trip = (p.pwr.trip || trip) := by
  have hpwr := pwr_of_supplied (stopsWork_supplied (p := p) (e := e) (data := data) hcls)
  exact congrArg (fun w : Pwr => w.trip || trip) hpwr

theorem coldStop_stage : (p.coldStop e cls data trip).fld Reg.PKG_BOOT Fld.PKG_BOOT_STAGE = 6 := fld_setFld _ _ _ _ (by decide)

theorem coldStop_last : (p.coldStop e cls data trip).on Reg.PWR_STATUS Fld.PWR_COLD_STOP_LAST = true := by
  refine (on_setFld_other _ Reg.PKG_BOOT Reg.PWR_STATUS _ _ 6 (by decide)).trans ?_
  rw [setPwr_on_ne _ _ _ _ (by decide) (by decide)]
  exact setPwr_on _ _ (by decide) (by decide)

theorem coldStop_tripLast : (p.coldStop e cls data true).on Reg.PWR_STATUS Fld.PWR_TRIP_LAST = true := by
  refine (on_setFld_other _ Reg.PKG_BOOT Reg.PWR_STATUS _ _ 6 (by decide)).trans ?_
  rw [Bool.true_or]
  exact setPwr_on _ _ (by decide) (by decide)

end

/-- No work of a package is in flight, and memory's bytes stand as in `p`. -/
structure Idle (p q : Pkg) : Prop where
  runs : q.dsp.runs = []
  reqs : q.fab.reqs = []
  flight : q.net.flight = []
  anvils : q.anvils = []
  masks : q.masks = []
  binds : q.binds = []
  tests : q.ras.tests = []
  bytes : ∀ a, q.byte a = p.byte a

/-- What a cold stop of a package of `p`'s memory and marks shows. -/
structure ColdStopped (p q : Pkg) (e : Env) (trip : Bool) : Prop where
  idle : Idle p q
  stage : q.fld Reg.PKG_BOOT Fld.PKG_BOOT_STAGE = 6
  last : q.on Reg.PWR_STATUS Fld.PWR_COLD_STOP_LAST = true
  good : q.pwr.good = false
  beat : q.stopBeat = some e.tag
  trips : q.pwr.trip = (p.pwr.trip || trip)
  tripLast : trip = true → q.on Reg.PWR_STATUS Fld.PWR_TRIP_LAST = true

theorem coldStop_stopped {p r : Pkg} {cls : Nat} (hcls : cls ≠ 8) (hbytes : ∀ a, r.byte a = p.byte a) (htrip : r.pwr.trip = p.pwr.trip) (e : Env)
    (data : List Byte) (trip : Bool) : ColdStopped p (r.coldStop e cls data trip) e trip where
  idle := ⟨rfl, rfl, rfl, rfl, rfl, rfl, rfl, fun a => (coldStop_byte hcls a).trans (hbytes a)⟩
  stage := coldStop_stage
  last := coldStop_last
  good := rfl
  beat := rfl
  trips := (coldStop_trips hcls).trans (congrArg (fun b => b || trip) htrip)
  tripLast h := by
    subst h
    exact coldStop_tripLast

end Sys2Proof.Machine

namespace Sys2Proof.Machine

/-! ### Boot and cold start (R540, R586 to R588, R611, R628 to R630) -/

/-- What a boot of the complex does not touch: memory, die P, the undercoat and the dispatchers. -/
def Pkg.startView (p : Pkg) : List (Nat × Byte) × Pwr × List Staged × Option CommitSt × Dsp := (p.mem, p.pwr, p.staged, p.mgt.commit, p.dsp)

section
variable (p : Pkg)

theorem foldl_startView {α : Type} {f : Pkg → α → Pkg} (h : ∀ q x, (f q x).startView = q.startView) (l : List α) :
    (l.foldl f p).startView = p.startView := (keeps_foldl (g := Pkg.startView) (fun q x => ⟨h q x⟩) ⟨rfl⟩).eq

theorem foldl_inner {α : Type} {f : Pkg → α → Pkg} (h : ∀ q x, (f q x).inner = q.inner) (l : List α) : (l.foldl f p).inner = p.inner :=
  (keeps_foldl (g := Pkg.inner) (fun q x => ⟨h q x⟩) ⟨rfl⟩).eq

/-- The measurements of a boot are registers. -/
theorem setMeasure_inner (k : Nat) (bs : List Byte) : (p.setMeasure k bs).inner = p.inner := by
  unfold Pkg.setMeasure
  refine foldl_inner p (fun q i => ?_) _
  rfl

theorem measureBoot_inner : p.measureBoot.inner = p.inner := by
  unfold Pkg.measureBoot Pkg.extend
  dsimp only
  rw [setMeasure_inner, setMeasure_inner, setMeasure_inner]
  exact foldl_inner p (fun q k => setMeasure_inner q k _) _

theorem startView_inner : p.inner.startView = p.startView := rfl

theorem measureBoot_startView : p.measureBoot.startView = p.startView := by
  rw [← startView_inner, measureBoot_inner, startView_inner]

/-- The measurement registers alone are set. -/
theorem setMeasure_reg {j k : Nat} (hk : ∀ i < 6, j ≠ Reg.SEC_MEAS k i) (bs : List Byte) : (p.setMeasure k bs).reg j = p.reg j :=
  foldl_reg _ _ j (fun q i hi => setNat_reg_ne q _ _ _ (hk i (List.mem_range.1 hi))) p

theorem measureBoot_reg {j : Nat} (hj : ∀ k < 4, ∀ i < 6, j ≠ Reg.SEC_MEAS k i) : p.measureBoot.reg j = p.reg j := by
  unfold Pkg.measureBoot Pkg.extend
  dsimp only
  rw [setMeasure_reg _ (hj 2 (by decide)), setMeasure_reg _ (hj 1 (by decide)), setMeasure_reg _ (hj 0 (by decide))]
  exact foldl_reg _ _ j (fun q k hk => setMeasure_reg q (hj k (List.mem_range.1 hk)) _) p

theorem retireMapped_startView (die kind : Nat) (map : Nat → Nat) (valid col : Field) (status : Nat) (freeF : Field) :
    (p.retireMapped die kind map valid col status freeF).startView = p.startView := by
  have hidle (q : Pkg) (phys : Nat) : (if phys < 512 then q else q.setReg (map (phys - 512)) 0).startView = q.startView := by split <;> rfl
  unfold Pkg.retireMapped
  split
  · rfl
  · dsimp only
    split
    · exact hidle ..
    · split
      · exact hidle ..
      · exact hidle ..

theorem settleMaps_startView : p.settleMaps.startView = p.startView := by
  unfold Pkg.settleMaps
  refine foldl_startView p (fun q u => ?_) _
  split
  · exact retireMapped_startView ..
  · split
    · exact retireMapped_startView ..
    · rfl

theorem redrawKeys_startView : p.redrawKeys.startView = p.startView := by
  unfold Pkg.redrawKeys
  refine (foldl_startView _ (fun q n => ?_) _).trans ?_
  · rfl
  · rfl

/-- With nothing running, a die that goes out of service ends nothing. -/
theorem outOfService_startView {q : Pkg} (h : q.dsp.runs = []) (e : Env) (die unit : Nat) : (q.outOfService e die unit).startView = q.startView := by
  have hdsp : ({ q.dsp with runs := [] } : Dsp) = q.dsp := by rw [← h]
  unfold Pkg.outOfService
  dsimp only
  simp only [record_dsp, setFld_dsp, h, List.map_nil]
  exact congrArg (fun d => (q.mem, q.pwr, q.staged, q.mgt.commit, d)) hdsp

theorem foldl_outOfService_startView {q : Pkg} (h : q.dsp.runs = []) (e : Env) (ds : List Nat) :
    (ds.foldl (fun (q : Pkg) d => q.outOfService e d 0) q).startView = q.startView := by
  induction ds generalizing q with
  | nil => rfl
  | cons d ds ih =>
    have hout := outOfService_startView h e d 0
    exact (ih ((congrArg (fun v => v.2.2.2.2.runs) hout).trans h)).trans hout

/-- Memory zero, the supplies good, and neither work nor a staging: what the units' start finds and leaves. -/
def ColdView (v : List (Nat × Byte) × Pwr × List Staged × Option CommitSt × Dsp) : Prop :=
  v.1 = [] ∧ v.2.1.good = true ∧ v.2.1.porst = false ∧ v.2.2.1 = [] ∧ v.2.2.2.1 = none ∧ v.2.2.2.2.runs = []

theorem coldStart_startView (e : Env) (failed : List Nat) (misreads : Nat) : ColdView (p.coldStart e failed misreads).startView := by
  have hunits (q : Pkg) (hq : ColdView q.startView) (ds : List Nat) :
      ColdView (ds.foldl (fun (q : Pkg) d => q.outOfService e d 0) q.settleMaps.redrawKeys.measureBoot).startView := by
    have hview : q.settleMaps.redrawKeys.measureBoot.startView = q.startView :=
      (measureBoot_startView _).trans ((redrawKeys_startView _).trans (settleMaps_startView q))
    have hruns : q.dsp.runs = [] := hq.2.2.2.2.2
    rw [foldl_outOfService_startView ((congrArg (fun v => v.2.2.2.2.runs) hview).trans hruns), hview]
    exact hq
  unfold Pkg.coldStart
  dsimp only
  exact hunits _ ⟨rfl, rfl, rfl, rfl, rfl, rfl⟩ _

theorem coldStart_works (e : Env) (failed : List Nat) (misreads : Nat) : (p.coldStart e failed misreads).working = true := by
  unfold Pkg.coldStart Pkg.working
  dsimp only
  rw [fld_setFld_ne _ _ _ _ _ (by decide) (by decide), fld_setFld_ne _ _ _ _ _ (by decide) (by decide), fld_setFld _ _ _ _ (by decide)]
  decide

end

/-! ### The complex boots (R577, R629) -/

section
variable {p : Pkg} {i misreads : Nat}

theorem bootSlot_own (hboot : p.bootable i = true) (hreads : misreads < 3) : p.bootSlot i misreads = p.runOn i 1 :=
  if_pos (by simp [hboot, hreads])

theorem bootSlot_other (hboot : p.bootable (1 - i) = true) (hlow : 3 ≤ misreads) (hhigh : misreads < 6) :
    p.bootSlot i misreads = (p.runOn (1 - i) 3).fwRecord 4 (1 - i) :=
  (if_neg (by simp [Nat.not_lt.2 hlow])).trans (if_pos (by simp [hboot, hhigh]))

theorem runOn_state (p : Pkg) (i : Nat) {state : Nat} (hstate : state < 16) : (p.runOn i state).fld Reg.MGT_STATUS Fld.MGT_STATE = state :=
  (fld_setFld (p.setFld Reg.MGT_STATUS Fld.MGT_SLOT_RUN i) Reg.MGT_STATUS Fld.MGT_STATE state (by decide)).trans (Nat.mod_eq_of_lt hstate)

theorem runOn_slotRun (p : Pkg) {i : Nat} (hi : i < 2) (state : Nat) : (p.runOn i state).slotRun = i :=
  (fld_setFld_ne (p.setFld Reg.MGT_STATUS Fld.MGT_SLOT_RUN i) Reg.MGT_STATUS Fld.MGT_STATE Fld.MGT_SLOT_RUN state (by decide) (by decide)).trans
    ((fld_setFld p Reg.MGT_STATUS Fld.MGT_SLOT_RUN i (by decide)).trans (Nat.mod_eq_of_lt hi))

end

/-- The complex's status is no measurement register. -/
theorem measureBoot_status (p : Pkg) : p.measureBoot.reg Reg.MGT_STATUS = p.reg Reg.MGT_STATUS := by
  refine measureBoot_reg p (fun k hk i hi => ?_)
  unfold Reg.MGT_STATUS Reg.SEC_MEAS
  omega

/-- What standby power leaves of a package whose complex has booted: it runs the slot, and the boot stage is 1. -/
structure StandbyUp (p q : Pkg) (i : Nat) : Prop where
  power : q.mgt.power = true
  up : q.complexUp = true
  slot : q.slotRun = i
  stage : q.fld Reg.PKG_BOOT Fld.PKG_BOOT_STAGE = 1
  bytes : ∀ a, q.byte a = p.byte a

/-- Taken into the state, it shows the same. -/
theorem StandbyUp.lifted {p q : Pkg} {i : Nat} (h : StandbyUp p q i) (s : State) : StandbyUp p (s.lift (fun _ _ => q)).pkg i :=
  ⟨h.power, h.up, h.slot, h.stage, h.bytes⟩

theorem standbyUp_of_boots {p q : Pkg} {i : Nat} (hpower : q.mgt.power = true) (hup : q.complexUp = true) (hslot : q.slotRun = i)
    (hmem : q.mem = p.mem) : StandbyUp p (q.measureBoot.setFld Reg.PKG_BOOT Fld.PKG_BOOT_STAGE 1) i := by
  have hstatus : (q.measureBoot.setFld Reg.PKG_BOOT Fld.PKG_BOOT_STAGE 1).reg Reg.MGT_STATUS = q.reg Reg.MGT_STATUS :=
    (setFld_reg_ne _ _ _ _ _ (by decide)).trans (measureBoot_status q)
  have hkept := congrArg (fun r : Pkg => r.mgt.power) (measureBoot_inner q)
  have hbytes := congrArg Pkg.mem (measureBoot_inner q)
  refine ⟨hkept.trans hpower, ?_, ?_, fld_setFld _ _ _ _ (by decide), byte_of_mem (hbytes.trans hmem)⟩
  · exact (congrArg (fun w => getField w Fld.MGT_STATE == 1 || getField w Fld.MGT_STATE == 3) hstatus).trans hup
  · exact (congrArg (fun w => getField w Fld.MGT_SLOT_RUN) hstatus).trans hslot

/-- The package that standby power finds, before its complex boots. -/
def Pkg.powersUp (p : Pkg) : Pkg :=
  { p with mgt := { p.mgt with power := true, since := 0, boot := p.fld Reg.MGT_STATUS Fld.MGT_SLOT_NEXT } }

theorem runOn_up (p : Pkg) (i : Nat) {state : Nat} (hstate : state = 1 ∨ state = 3) : (p.runOn i state).complexUp = true := by
  unfold Pkg.complexUp
  rw [runOn_state _ _ (by omega)]
  rcases hstate with h | h <;> simp [h]

/-- The fallback's record is no matter of whether the complex runs. -/
theorem fwRecord_up {p : Pkg} (h : p.complexUp = true) (detail i : Nat) : (p.fwRecord detail i).complexUp = true := h

theorem fwRecord_slotRun {p : Pkg} {n : Nat} (h : p.slotRun = n) (detail i : Nat) : (p.fwRecord detail i).slotRun = n := h

theorem standbyPowerGood_of_boots {p q : Pkg} {n : Nat} (hboot : p.powersUp.bootSlot (p.fld Reg.MGT_STATUS Fld.MGT_SLOT_NEXT) n = q)
    (hup : q.complexUp = true) : standbyPowerGood none n p = q.measureBoot.setFld Reg.PKG_BOOT Fld.PKG_BOOT_STAGE 1 := by
  have hdef : standbyPowerGood none n p = if !(p.powersUp.bootSlot (p.fld Reg.MGT_STATUS Fld.MGT_SLOT_NEXT) n).complexUp then
      p.powersUp.bootSlot (p.fld Reg.MGT_STATUS Fld.MGT_SLOT_NEXT) n
    else (p.powersUp.bootSlot (p.fld Reg.MGT_STATUS Fld.MGT_SLOT_NEXT) n).measureBoot.setFld Reg.PKG_BOOT Fld.PKG_BOOT_STAGE 1 := rfl
  rw [hdef, hboot]
  exact if_neg (by simp [hup])

/-! ### The loss of standby power (R587) -/

/-- The records of the beat are written, and marks answered, without a change of memory. -/
theorem writeLog_byte (s : State) (a : Nat) : s.writeLog.pkg.byte a = s.pkg.byte a := by
  have hmarks (p : Pkg) (e : Env) (l : LogSt) : (p.answerMarks e l).supplied = p.supplied := by
    unfold Pkg.answerMarks
    refine (keeps_foldl (g := Pkg.supplied) (fun q x => ⟨?_⟩) ⟨rfl⟩).eq
    dsimp only
    split
    · exact mbAnswer_supplied ..
    · exact mbAnswer_supplied ..
  unfold State.writeLog
  split
  · exact byte_of_supplied ((hmarks ..).trans (mgtCount_supplied ..)) a
  · rfl

/-! ### Resets by pins (R627, R631, R632) -/

theorem warmReset_idle (p : Pkg) (e : Env) : Idle p (p.warmReset e) := by
  have hsupplied : ((p.event 5 31 0 1 0 []).ucCancel e).supplied = p.supplied := (ucCancel_supplied ..).trans (event_supplied p (by decide) ..)
  exact ⟨rfl, rfl, rfl, rfl, rfl, rfl, rfl, byte_of_supplied hsupplied⟩

/-- The package epoch rises by 1 (R402). -/
theorem nextEpoch_epoch (p : Pkg) : p.nextEpoch.regNat Reg.FAB_EPOCH = (p.regNat Reg.FAB_EPOCH + 1) % 2 ^ 32 := by
  unfold Pkg.nextEpoch
  rw [regNat_eq, setNat_eq, reg_setReg, if_pos rfl, BitVec.toNat_ofNat]
  omega

theorem warmN_ignored {p : Pkg} {e : Env} {n : Nat} (hn : 0 < n) (hpower : p.mgt.power = true) (hstage : p.working = false) (hbeat : p.stopBeat ≠ some e.tag) :
    warmN n e p = p.record 31 0 0x11 3 (leBytes 4 (p.fld Reg.PKG_BOOT Fld.PKG_BOOT_STAGE)) := by
  unfold warmN
  rw [if_neg (by simp [Nat.ne_of_gt hn, hpower]), if_neg (by simp [hstage])]
  simp only [if_neg hbeat]

theorem warmN_taken {p : Pkg} {n : Nat} (hn : 0 < n) (hpower : p.mgt.power = true) (hwork : p.working = true) (e : Env) : warmN n e p = p.warmReset e :=
  (if_neg (by simp [Nat.ne_of_gt hn, hpower])).trans (if_pos hwork)

/-- A release finds PORST_N asserted, standby power and a running complex, or does nothing. -/
theorem porstRelease_of_not {p : Pkg} (h : p.pwr.porst = false ∨ p.mgt.power = false ∨ p.complexUp = false) (straps : Nat) (failed : List Nat)
    (misreads : Nat) (e : Env) : porstRelease straps failed misreads e p = p := by
  refine if_pos ?_
  rcases h with hno | hno | hno <;> simp [hno]

theorem setNat_regNat (p : Pkg) (k : Nat) {v : Nat} (hv : v < 2 ^ 64) : (p.setNat k v).regNat k = v := by
  rw [regNat_eq, setNat_eq, reg_setReg, if_pos rfl, BitVec.toNat_ofNat, Nat.mod_eq_of_lt hv]

/-- PORST_N is released with standby power there and the complex running. -/
theorem porstRelease_taken {p : Pkg} (hporst : p.pwr.porst = true) (hpower : p.mgt.power = true) (hup : p.complexUp = true) (straps : Nat)
    (failed : List Nat) (misreads : Nat) (e : Env) : porstRelease straps failed misreads e p =
      if straps.testBit 7 then (((p.setNat Reg.PKG_STRAPS straps).updPwr (fun w => { w with porst := false })).setFld Reg.PKG_BOOT
        Fld.PKG_BOOT_STAGE 0).setFld Reg.PKG_BOOT Fld.PKG_BOOT_FAIL 3
      else if 6 ≤ misreads then p.setNat Reg.PKG_STRAPS straps
      else (p.setNat Reg.PKG_STRAPS straps).coldStart e failed misreads := if_neg (by simp [hporst, hpower, hup])

/-- COLD_STOP that does not take standby power down is a command of the working package. -/
theorem exec_coldStop_of_not_down {s : State} {v : Fin 3} {mv : Nat} (hup : ¬ (v.val = 1 ∧ resetLevel 1 mv = true)) :
    exec (.coldStop v mv) s = s.work ⟨2, 31, 0⟩ (coldStopLevel v mv) := by
  show execColdStop v mv s = _
  unfold execColdStop
  dsimp only
  rw [if_neg (fun hall => hup ⟨hall.1, hall.2.1⟩)]
  rfl

theorem exec_coldStop_standby {s : State} {mv : Nat} (hwork : s.pkg.working = true) (hpower : s.pkg.mgt.power = true) (hlow : mv < 3000) :
    exec (.coldStop 1 mv) s = .next { (s.lift (fun _ _ => s.pkg.coldStop s.env 2 (leBytes 4 mv) false)).writeLog with
      log := (s.lift (fun _ _ => s.pkg.coldStop s.env 2 (leBytes 4 mv) false)).writeLog.log.holdUp
      pkg := (s.lift (fun _ _ => s.pkg.coldStop s.env 2 (leBytes 4 mv) false)).writeLog.pkg.powerDown } := by
  have hreset : resetLevel 1 mv = true := decide_eq_true hlow
  have hlift : s.lift (Pkg.atWork ⟨2, 31, 0⟩ (coldStopLevel 1 mv)) = s.lift (fun _ _ => s.pkg.coldStop s.env 2 (leBytes 4 mv) false) :=
    lift_congr ((atWork_of_working hwork ..).trans (if_pos hreset))
  have hstill : (s.lift (fun _ _ => s.pkg.coldStop s.env 2 (leBytes 4 mv) false)).pkg.mgt.power = true := (coldStop_power (trip := false) (by decide)).trans hpower
  show execColdStop 1 mv s = _
  unfold execColdStop
  dsimp only
  rw [show ((1 : Fin 3) : Nat) = 1 from rfl, hlift, if_pos ⟨rfl, hreset, hstill⟩]

/-- Without standby power the complex does not run, and no work is in flight. -/
theorem powerDown_idle {p q : Pkg} (h : ∀ a, q.byte a = p.byte a) : Idle p q.powerDown ∧ q.powerDown.complexUp = false := by
  refine ⟨⟨rfl, rfl, rfl, rfl, rfl, rfl, rfl, h⟩, ?_⟩
  have hstate : q.powerDown.fld Reg.MGT_STATUS Fld.MGT_STATE = 0 := fld_setFld _ _ _ _ (by decide)
  unfold Pkg.complexUp
  rw [hstate]
  rfl

/-- A junction at 115 °C stops the package, whatever was its hottest reading. -/
theorem thermalTrip_stopped {temp : Nat} (h : 1150 ≤ temp) (die : Nat) (e : Env) (p : Pkg) : ColdStopped p (thermalTrip die temp e p) e true := by
  have hstop := coldStop_stopped (p := p) (r := p.updPwr (fun w => { w with hottest := max w.hottest temp })) (cls := 1) (by decide) (fun _ => rfl) rfl e
    (leBytes 4 die ++ leBytes 4 temp) true
  unfold thermalTrip
  rw [if_neg (Nat.not_lt.2 h)]
  exact hstop

/-- PORST_N ends a working package's work, which waits at stage 1 or is stopped. -/
theorem porstAssert_idle {p : Pkg} (hwork : p.working = true) (e : Env) : Idle p (porstAssert e p) ∧ (porstAssert e p).working = false := by
  unfold porstAssert
  dsimp only
  rw [atWork_of_working hwork]
  split
  · refine ⟨⟨rfl, rfl, rfl, rfl, rfl, rfl, rfl, coldStop_byte (trip := false) (by decide)⟩, ?_⟩
    have hstage := fld_setFld (p.coldStop e 2 [] false) Reg.PKG_BOOT Fld.PKG_BOOT_STAGE 1 (by decide)
    exact congrArg (fun n => n == 5) hstage
  · refine ⟨⟨rfl, rfl, rfl, rfl, rfl, rfl, rfl, coldStop_byte (trip := false) (by decide)⟩, ?_⟩
    exact congrArg (fun n => n == 5) (coldStop_stage (p := p) (e := e) (cls := 2) (data := []) (trip := false))

theorem exec_standbyPowerGood_of_boots {s : State} {q : Pkg} {n : Nat} (hpower : s.pkg.mgt.power = false)
    (hboot : s.pkg.powersUp.bootSlot (s.pkg.fld Reg.MGT_STATUS Fld.MGT_SLOT_NEXT) n = q) (hup : q.complexUp = true) :
    exec (.standbyPowerGood ⟨none, n⟩) s =
      .next (State.lift { s with clock := ⟨0⟩ } (fun _ _ => q.measureBoot.setFld Reg.PKG_BOOT Fld.PKG_BOOT_STAGE 1)) := by
  show Host.Outcome.next _ = _
  rw [if_neg (by simp [hpower])]
  exact congrArg Host.Outcome.next (lift_congr (standbyPowerGood_of_boots hboot hup))

end Sys2Proof.Machine

namespace Sys2Proof

open Machine

/-- Settles O60: every stop drops the work and leaves memory's bytes, a cold start leaves none, and the complex boots the slot that its reads allow. -/
theorem stopsAndStarts : Obligations.StopsAndStarts := by
  unfold Obligations.StopsAndStarts
  intro s p e idle stopped
  have hidle {q : Pkg} (h : Idle p q) : idle (s.lift (fun _ _ => q)) := ⟨h.runs, h.reqs, h.flight, h.anvils, h.masks, h.binds, h.tests, h.bytes⟩
  have hstopped {q : Pkg} {trip : Bool} (h : ColdStopped p q e trip) : stopped (s.lift (fun _ _ => q)) trip :=
    ⟨hidle h.idle, h.stage, h.last, h.good, h.beat, fun htrip => ⟨h.trips.trans (by simp [htrip]), h.tripLast htrip⟩,
      fun hno => h.trips.trans (by simp [hno])⟩
  refine ⟨fun hwork => ⟨fun v mv hsafe => ?_, fun v mv hreset hv => ?_, fun mv hlow hpower => ?_, ?_, fun die temp hcool => ?_, fun die temp hhot => ?_,
    ?_, fun n hn hpower => ?_⟩, fun n hno => ?_, fun n hn hpower hstage hbeat => ?_, fun straps failed n => ⟨fun hno => ?_, fun hporst hpower hup htest => ?_,
    fun hporst hpower hup htest hn => ?_, fun hporst hpower hup htest hn => ?_⟩, fun r n hpower => ?_, fun n hpower hlow hhigh hboot => ?_,
    fun n hpower hlow hboot => ?_⟩
  · have hup : ¬ (v.val = 1 ∧ resetLevel 1 mv = true) := fun hall => by simp [hall.1, hall.2] at hsafe
    exact becomes_work (exec_coldStop_of_not_down hup) hwork (if_neg (by simp [hsafe]))
  · have hup : ¬ (v.val = 1 ∧ resetLevel 1 mv = true) := fun hall => hv (Fin.ext hall.1)
    have hbec : Becomes (.coldStop v mv) s _ := becomes_work (exec_coldStop_of_not_down hup) hwork (if_pos hreset)
    exact hbec.answers ⟨hstopped (coldStop_stopped (by decide) (fun _ => rfl) rfl e (leBytes 4 mv) false), lift_keeps s _⟩
  · refine ⟨_, exec_coldStop_standby hwork hpower hlow, ?_⟩
    obtain ⟨hidleDown, hdown⟩ := powerDown_idle (p := p) (q := (s.lift (fun _ _ => p.coldStop e 2 (leBytes 4 mv) false)).writeLog.pkg)
      (fun a => (writeLog_byte _ a).trans (coldStop_byte (trip := false) (by decide) a))
    exact ⟨⟨hidleDown.runs, hidleDown.reqs, hidleDown.flight, hidleDown.anvils, hidleDown.masks, hidleDown.binds, hidleDown.tests, hidleDown.bytes⟩,
      rfl, hdown, rfl, rfl, rfl, writeLog_pending _, writeLog_clock _⟩
  · have hbec : Becomes .refclkLoss s (p.coldStop e 2 [] false) := becomes_work rfl hwork rfl
    exact hbec.answers ⟨hstopped (coldStop_stopped (by decide) (fun _ => rfl) rfl e [] false), lift_keeps s _⟩
  · exact becomes_work rfl hwork (if_pos hcool)
  · have hbec : Becomes (.thermalTrip die temp) s (thermalTrip die temp e p) := becomes_work rfl hwork rfl
    exact hbec.answers ⟨hstopped (thermalTrip_stopped hhot die e p), lift_keeps s _⟩
  · have hbec : Becomes .porstNAssert s (porstAssert e p) := becomes_any rfl rfl
    obtain ⟨hidlePins, hstage⟩ := porstAssert_idle hwork e
    exact hbec.answers ⟨hidle hidlePins, rfl, hstage, lift_keeps s _⟩
  · have hbec : Becomes (.warmN n) s (p.warmReset e) := becomes_any rfl (warmN_taken hn hpower hwork e)
    refine hbec.answers ⟨hidle (warmReset_idle p e), lift_keeps s _, ?_⟩
    exact nextEpoch_epoch _
  · exact becomes_any rfl (if_pos (hno.imp_right (Bool.not_eq_true' _).mpr))
  · have hbec : Becomes (.warmN n) s _ := becomes_any rfl (warmN_ignored hn hpower hstage hbeat)
    exact hbec.answers ⟨fun _ _ => rfl, fun _ => rfl, lift_keeps s _, logs_of_raised rfl⟩
  · exact becomes_any rfl (porstRelease_of_not hno ..)
  · have hbec : Becomes (.porstNRelease straps ⟨failed, n⟩) s _ := becomes_any rfl ((porstRelease_taken hporst hpower hup ..).trans (if_pos htest))
    refine hbec.answers ⟨?_, ?_, fld_setFld _ _ _ _ (by decide), rfl, fun k hk => ?_, fun _ => rfl, lift_keeps s _⟩
    · exact (congrArg BitVec.toNat ((setFld_reg_ne _ _ _ _ _ (by decide)).trans (setFld_reg_ne _ _ _ _ _ (by decide)))).trans
        (setNat_regNat p Reg.PKG_STRAPS (Nat.lt_trans straps.isLt (by decide)))
    · rw [lift_fld, fld_setFld_ne _ _ _ _ _ (by decide) (by decide), fld_setFld _ _ _ _ (by decide)]
      rfl
    · simp only [List.mem_cons, List.not_mem_nil, or_false, not_or] at hk
      exact (setFld_reg_ne _ _ _ _ _ hk.2).trans ((setFld_reg_ne _ _ _ _ _ hk.2).trans (setNat_reg_ne _ _ _ _ hk.1))
  · have hbec : Becomes (.porstNRelease straps ⟨failed, n⟩) s ((p.setNat Reg.PKG_STRAPS straps).coldStart e failed n) :=
      becomes_any rfl ((porstRelease_taken hporst hpower hup ..).trans ((if_neg (by simp [htest])).trans (if_neg (Nat.not_le.2 hn))))
    obtain ⟨hmem, hgood, hporst, hstaged, hcommit, hruns⟩ := coldStart_startView (p.setNat Reg.PKG_STRAPS straps) e failed n
    exact hbec.answers ⟨coldStart_works .., fun a => congrArg (fun xs => sparseGet (fun _ => 0) xs a) hmem, hgood, hporst, hruns, hstaged, hcommit,
      lift_keeps s _⟩
  · exact becomes_any rfl ((porstRelease_taken hporst hpower hup ..).trans ((if_neg (by simp [htest])).trans (if_pos hn)))
  · exact ⟨_, rfl, if_pos hpower⟩
  · have hup := fwRecord_up (runOn_up p.powersUp (1 - p.fld Reg.MGT_STATUS Fld.MGT_SLOT_NEXT) (.inr rfl)) 4 (1 - p.fld Reg.MGT_STATUS Fld.MGT_SLOT_NEXT)
    have hslot := fwRecord_slotRun (runOn_slotRun p.powersUp (i := 1 - p.fld Reg.MGT_STATUS Fld.MGT_SLOT_NEXT) (by omega) 3) 4
      (1 - p.fld Reg.MGT_STATUS Fld.MGT_SLOT_NEXT)
    have hstandby := (standbyUp_of_boots (p := p) rfl hup hslot rfl).lifted { s with clock := ⟨0⟩ }
    exact ⟨_, exec_standbyPowerGood_of_boots hpower (bootSlot_other hboot hlow hhigh) hup, rfl, hstandby.power, hstandby.up, hstandby.slot,
      hstandby.bytes, rfl⟩
  · have hup := runOn_up p.powersUp (p.fld Reg.MGT_STATUS Fld.MGT_SLOT_NEXT) (.inl rfl)
    have hslot := runOn_slotRun p.powersUp (fld_lt p Reg.MGT_STATUS Fld.MGT_SLOT_NEXT) 1
    have hstandby := (standbyUp_of_boots (p := p) rfl hup hslot rfl).lifted { s with clock := ⟨0⟩ }
    exact ⟨_, exec_standbyPowerGood_of_boots hpower (bootSlot_own hboot hlow) hup, rfl, hstandby.power, hstandby.up, hstandby.slot, hstandby.stage,
      hstandby.bytes, rfl⟩

end Sys2Proof

/-! SUPPORT. Events of the management complex (R541, R543, R548, R549, R558, R561, R564 to R568, R571, R576, R577, R606). -/

namespace Sys2Proof.Machine

/-! ### Long commands end (R548) -/

/-- What becomes of a long command that ends, by its opcode. -/
def Pkg.endsLong (p : Pkg) (e : Env) (m : Nat) (c : MbCmd) (partnered : Bool) : Pkg :=
  match c.op with
  | 0x11 => p.stageCheckEnd e m c
  | 0x50 => p.fwStageEnd e m c
  | 0x51 => p.fwVerifyEnd e m c
  | 0x60 => p.selftestEnd e m c
  | 0xa0 => p.pairSetEnd e m c partnered
  | 0xb0 => p.attestEnd e m c
  | _ => p

section
variable {p : Pkg} {e : Env} {m : Nat} {k : MbCmd} {x : Bool}

theorem longCommandEnd_none (h : assoc? p.mbox m = none) : longCommandEnd m x e p = p := by
  unfold longCommandEnd
  simp only [h]

theorem longCommandEnd_waiting (h : assoc? p.mbox m = some k) (hrun : k.running = false) : longCommandEnd m x e p = p := by
  unfold longCommandEnd
  simp only [h, hrun]
  rfl

theorem longCommandEnd_running (h : assoc? p.mbox m = some k) (hrun : k.running = true) : longCommandEnd m x e p = p.endsLong e m k x := by
  unfold longCommandEnd
  simp only [h, hrun]
  rfl

/-- A check that meets no conflict sets the undercoat checked (R561). -/
theorem stageCheckEnd_passes (hheld : p.ucState ≠ ucEmpty) (harmed : p.ucState ≠ ucArmed) (hclash : p.firstClash = none) : p.stageCheckEnd e m k =
    (p.setFld Reg.MGT_UC_STATUS Fld.MGT_UC_STATE ucChecked).mbAnswer e m k resDone 0 (leBytes 4 (p.regNat Reg.MGT_UC_GEN)) := by
  unfold Pkg.stageCheckEnd
  rw [if_neg hheld, if_neg harmed]
  simp only [hclash]

theorem stageCheckEnd_empty (h : p.ucState = ucEmpty) : p.stageCheckEnd e m k = p.mbAnswer e m k resEmpty 0 [] := if_pos h

/-- A PAIR_SET without its partner's ends after 10 s, and not before. -/
theorem pairSetEnd_timeout (h : 16 * k.beat + 10000000000 ≤ e.hall) : p.pairSetEnd e m k false = p.mbAnswer e m k resTimeout 0 [] := by
  unfold Pkg.pairSetEnd
  rw [if_neg Bool.false_ne_true, if_pos h]

theorem pairSetEnd_waits (h : e.hall < 16 * k.beat + 10000000000) : p.pairSetEnd e m k false = p := by
  unfold Pkg.pairSetEnd
  rw [if_neg Bool.false_ne_true, if_neg (Nat.not_le.2 h)]

end

/-- An answer of a mailbox leaves the undercoat's state. -/
theorem AnswersMb.ucState {p q : Pkg} {m : Nat} {c : MbCmd} {res : Nat} (h : AnswersMb p q m c res) (hm : m < 16) : q.ucState = p.ucState :=
  congrArg (fun w => getField w Fld.MGT_UC_STATE) (h.regs Reg.MGT_UC_STATUS (not_mem_answerRegs (by decide) hm))

/-! ### Command datagrams (R549) -/

section
variable {p : Pkg} {e : Env} {m tag : Nat} {area : List Byte}

/-- A mailbox bound for the out-of-band source. -/
def Pkg.oobBound (p : Pkg) (m : Nat) : Bool := p.on (Reg.MGT_MB_BIND m) Fld.MGT_MB_BVALID && p.on (Reg.MGT_MB_BIND m) Fld.MGT_MB_OOB

/-- The record's data of a datagram that is refused. -/
def oobData (m tag : Nat) : List Byte := leBytes 4 0x300 ++ leBytes 8 (0x1000 * m + 0x200) ++ leBytes 8 (tag % 65536)

/-- A mailbox without the binding shows a rejection, counted and logged (R545). -/
def Pkg.oobRejected (p : Pkg) (m tag : Nat) : Pkg :=
  ((p.setFld (Reg.MGT_MB_STATUS m) Fld.MGT_MB_REJECT 1).record 30 0 3 4 (oobData m tag)).mgtCount Reg.MGT_CNT_REJECT 1

theorem oobDatagram_unbound (h : p.oobBound m = false) : oobDatagram m tag area e p = p.oobRejected m tag := if_pos ((Bool.not_eq_true' _).mpr h)

variable (h : p.oobBound m = true)
include h

theorem oobDatagram_mine (hmine : p.mbox.any (fun x => x.1 == m && x.2.tag == tag % 65536) = true) : oobDatagram m tag area e p = p :=
  (if_neg (by simpa [Pkg.oobBound] using h)).trans (if_pos hmine)

variable (hother : p.mbox.any (fun x => x.1 == m && x.2.tag == tag % 65536) = false)
include hother

theorem oobDatagram_last (hlast : (p.on (Reg.MGT_MB_STATUS m) Fld.MGT_MB_DONE && p.fld (Reg.MGT_MB_STATUS m) Fld.MGT_MB_DONE_TAG == tag % 65536) = true) :
    oobDatagram m tag area e p = { p with mgt := { p.mgt with oob := p.mgt.oob ++ [⟨m, tag % 65536, p.response m⟩] } } :=
  (if_neg (by simpa [Pkg.oobBound] using h)).trans ((if_neg (by simp [hother])).trans (if_pos hlast))

theorem oobDatagram_new (hlast : (p.on (Reg.MGT_MB_STATUS m) Fld.MGT_MB_DONE && p.fld (Reg.MGT_MB_STATUS m) Fld.MGT_MB_DONE_TAG == tag % 65536) = false) :
    oobDatagram m tag area e p = (p.setMailArea m (padTo 256 area)).mailDoorbell e m (tag % 65536) true
      (fun s => (s.record 30 0 3 6 (oobData m tag)).mgtCount Reg.MGT_CNT_REJECT 1) :=
  (if_neg (by simpa [Pkg.oobBound] using h)).trans ((if_neg (by simp [hother])).trans (if_neg (by simp [hlast])))

end

theorem inner_mem (q : Pkg) : q.inner.mem = q.mem := rfl

theorem inner_mbox (q : Pkg) : q.inner.mbox = q.mbox := rfl

section
variable (p : Pkg) (m : Nat)

theorem setMailArea_inner (bs : List Byte) : (p.setMailArea m bs).inner = p.inner := by
  unfold Pkg.setMailArea
  refine (keeps_foldl (g := Pkg.inner) (fun q i => ⟨?_⟩) ⟨rfl⟩).eq
  rfl

theorem setMailArea_mbox (bs : List Byte) : (p.setMailArea m bs).mbox = p.mbox := by
  rw [← inner_mbox, setMailArea_inner, inner_mbox]

theorem setMailArea_byte (bs : List Byte) (a : Nat) : (p.setMailArea m bs).byte a = p.byte a := by
  refine byte_of_mem ?_ a
  rw [← inner_mem, setMailArea_inner, inner_mem]

theorem setMailArea_status (bs : List Byte) : (p.setMailArea m bs).reg (Reg.MGT_MB_STATUS m) = p.reg (Reg.MGT_MB_STATUS m) := by
  refine foldl_reg _ _ _ (fun q i hi => setNat_reg_ne q _ _ _ ?_) p
  have hlow := List.mem_range.1 hi
  unfold Reg.MGT_MB_STATUS Reg.MGT_MB_CMD
  omega

end

/-- A doorbell of an idle mailbox puts a command in it. -/
theorem mailDoorbell_idle {p : Pkg} {e : Env} {m tag : Nat} (h : p.on (Reg.MGT_MB_STATUS m) Fld.MGT_MB_BUSY = false) (oob : Bool) (refused : Pkg → Pkg) :
    (∀ a, (p.mailDoorbell e m tag oob refused).byte a = p.byte a) ∧
      (p.mailDoorbell e m tag oob refused).mbox = p.mbox ++ [(m, ⟨p.mailArea m, tag % 65536, e.tag, oob, false⟩)] := by
  unfold Pkg.mailDoorbell
  rw [if_neg (by simp [h])]
  dsimp only
  split
  · exact ⟨fun _ => rfl, rfl⟩
  · exact ⟨fun _ => rfl, rfl⟩

/-- A datagram of another command puts it into its idle mailbox, as the out-of-band source's. -/
theorem oobDatagram_puts {p : Pkg} {e : Env} {m tag : Nat} {area : List Byte} (h : p.oobBound m = true)
    (hother : p.mbox.any (fun x => x.1 == m && x.2.tag == tag % 65536) = false)
    (hlast : (p.on (Reg.MGT_MB_STATUS m) Fld.MGT_MB_DONE && p.fld (Reg.MGT_MB_STATUS m) Fld.MGT_MB_DONE_TAG == tag % 65536) = false)
    (hidle : p.on (Reg.MGT_MB_STATUS m) Fld.MGT_MB_BUSY = false) : (∀ a, (oobDatagram m tag area e p).byte a = p.byte a) ∧
      ∃ k : MbCmd, (oobDatagram m tag area e p).mbox = p.mbox ++ [(m, k)] ∧ k.tag = tag % 65536 ∧ k.beat = e.tag ∧ k.oob = true ∧ k.running = false := by
  rw [oobDatagram_new h hother hlast]
  have hbusy := (congrArg (fun w => getField w Fld.MGT_MB_BUSY == 1) (setMailArea_status p m (padTo 256 area))).trans hidle
  obtain ⟨hbyte, hmbox⟩ := mailDoorbell_idle (e := e) (tag := tag % 65536) hbusy true
    (fun s => (s.record 30 0 3 6 (oobData m tag)).mgtCount Reg.MGT_CNT_REJECT 1)
  rw [setMailArea_mbox] at hmbox
  exact ⟨fun a => (hbyte a).trans (setMailArea_byte ..), _, hmbox, Nat.mod_mod .., rfl, rfl, rfl⟩

section
variable (p : Pkg) (m tag : Nat)

theorem oobRejected_mbox : (p.oobRejected m tag).mbox = p.mbox := by
  have hinner := congrArg Pkg.mbox (bump_inner (p := (p.setFld (Reg.MGT_MB_STATUS m) Fld.MGT_MB_REJECT 1).record 30 0 3 4 (oobData m tag)) Reg.MGT_CTRL
    Fld.MGT_CNT_FREEZE Reg.MGT_CNT_REJECT 1)
  exact hinner

theorem oobRejected_byte (a : Nat) : (p.oobRejected m tag).byte a = p.byte a := bump_byte ..

theorem oobRejected_reg {k : Nat} (hk : k ∉ [Reg.MGT_MB_STATUS m, Reg.MGT_CNT_REJECT]) : (p.oobRejected m tag).reg k = p.reg k := by
  simp only [List.mem_cons, List.not_mem_nil, or_false, not_or] at hk
  unfold Pkg.oobRejected Pkg.mgtCount
  rw [bump_reg _ _ _ _ _ _ hk.2, record_reg, setFld_reg_ne _ _ _ _ _ hk.1]

theorem oobRejected_on (hm : m < 16) : (p.oobRejected m tag).on (Reg.MGT_MB_STATUS m) Fld.MGT_MB_REJECT = true := by
  unfold Pkg.oobRejected Pkg.mgtCount
  rw [on_eq, bump_reg _ _ _ _ _ _ (by unfold Reg.MGT_MB_STATUS Reg.MGT_CNT_REJECT; omega), record_reg, ← on_eq]
  exact on_setFld_one _ _ _ (by decide) (by decide)

end

/-! ### Acknowledgements of a commit (R564) -/

section
variable {p : Pkg} {e : Env}

theorem islandAcknowledge_none (h : p.commitOpen = none) (i : Nat) : islandAcknowledge i e p = p := by
  unfold islandAcknowledge
  simp only [h]

theorem commitAckTimeout_none (h : p.commitOpen = none) : commitAckTimeout e p = p := by
  unfold commitAckTimeout
  simp only [h]

/-- The last island's acknowledgement arms the commit for its beat. -/
def Pkg.armsCommit (p : Pkg) (e : Env) (k : CommitSt) (i : Nat) : Pkg :=
  let b := if k.named = 0 then e.tag + 2 else k.named
  (({ p with mgt := { p.mgt with commit := some { k with acks := i :: k.acks, armed := some b } } } : Pkg).setNat Reg.MGT_UC_ARM b).setFld
    Reg.MGT_UC_STATUS Fld.MGT_UC_STATE ucArmed

variable {k : CommitSt} {c : MbCmd} (h : p.commitOpen = some (k, c))
include h

theorem commitAckTimeout_open : commitAckTimeout e p = if k.since + 1000 < e.tag then p.commitFails e k c else p := by
  unfold commitAckTimeout
  simp only [h]

theorem islandAcknowledge_ignored {i : Nat} (hno : k.since + 1000 < e.tag ∨ i ∈ k.acks) : islandAcknowledge i e p = p := by
  unfold islandAcknowledge
  simp only [h]
  exact if_pos (hno.imp_right List.contains_iff_mem.2)

variable {i : Nat} (hdue : e.tag ≤ k.since + 1000) (hnew : i ∉ k.acks)
include hdue hnew

theorem islandAcknowledge_counts (hfew : k.acks.length < 17) :
    islandAcknowledge i e p = { p with mgt := { p.mgt with commit := some { k with acks := i :: k.acks } } } := by
  unfold islandAcknowledge
  simp only [h]
  exact (if_neg (fun hno => hno.elim (Nat.not_lt.2 hdue) (fun hin => hnew (List.contains_iff_mem.1 hin)))).trans
    (if_pos (by simp only [List.length_cons, islandCount]; omega))

theorem islandAcknowledge_arms (hlast : k.acks.length = 17) (hchecked : p.ucState = ucChecked) (hgen : p.regNat Reg.MGT_UC_GEN = k.gen) :
    islandAcknowledge i e p = (p.armsCommit e k i).mbAnswer e k.box c resDone 0
      (leBytes 8 (if k.named = 0 then e.tag + 2 else k.named) ++ leBytes 4 k.gen) := by
  unfold islandAcknowledge
  simp only [h]
  exact (if_neg (fun hno => hno.elim (Nat.not_lt.2 hdue) (fun hin => hnew (List.contains_iff_mem.1 hin)))).trans
    ((if_neg (by simp only [List.length_cons, islandCount]; omega)).trans
      (if_neg (fun hno => hno.elim (fun hne => hne hchecked) (fun hne => hne hgen))))

end

theorem armsCommit_state (p : Pkg) (e : Env) (k : CommitSt) (i : Nat) : (p.armsCommit e k i).ucState = ucArmed := fld_setFld _ _ _ _ (by decide)

theorem armsCommit_arm (p : Pkg) (e : Env) (k : CommitSt) (i : Nat) :
    (p.armsCommit e k i).reg Reg.MGT_UC_ARM = BitVec.ofNat 64 (if k.named = 0 then e.tag + 2 else k.named) := by
  unfold Pkg.armsCommit
  dsimp only
  rw [setFld_reg_ne _ _ _ _ _ (by decide), setNat_eq, reg_setReg, if_pos rfl]

end Sys2Proof.Machine

/-! SUPPORT. The commit's beat, rewritten shadows, lapses, sensors and restarts (R541, R543, R558, R565, R568, R576, R577, R606). -/

namespace Sys2Proof.Machine

/-! ### The commit's beat (R565) -/

/-- What controllers accepted is none where no controller has any. -/
theorem settleDevice_of_none {p : Pkg} (h : p.stackCtl = []) (e : Env) (dev : Nat) : p.settleDevice e dev = p := by
  have hstack : p.stack dev = ⟨[], [], [], none, [], [], [], 0, 0, 0, [], 0, 0, 0⟩ := by
    unfold Pkg.stack
    rw [h]
    rfl
  unfold Pkg.settleDevice
  rw [hstack]
  simp only [List.foldl_nil, hstack]

theorem countFold_settleDevice {p : Pkg} (h : p.stackCtl = []) (e : Env) (n : Nat) : countFold n (fun dev (q : Pkg) => q.settleDevice e dev) p = p := by
  unfold countFold
  induction List.range n with
  | nil => rfl
  | cons i is ih =>
    rw [List.foldl_cons]
    dsimp only
    rw [settleDevice_of_none h]
    exact ih

section
variable (p : Pkg)

/-- A register that is neither one of `MEM_RG_ATTR` nor a measurement. -/
def plainReg (k : Nat) : Prop := (∀ n < 64, k ≠ Reg.MEM_RG_ATTR n) ∧ (∀ j < 4, ∀ i < 6, k ≠ Reg.SEC_MEAS j i)

/-- What a commit means for a region shows in its `MEM_RG_ATTR`, and no byte changes. -/
theorem commitRegion_reg (q : Pkg) {n k : Nat} (hk : k ≠ Reg.MEM_RG_ATTR n) : (p.commitRegion q n).reg k = q.reg k := by
  unfold Pkg.commitRegion
  dsimp only
  split
  · rw [setFld_reg_ne _ _ _ _ _ hk]
    split <;> rfl
  · split
    · rfl
    · exact setFld_reg_ne _ _ _ _ _ hk

theorem commitRegion_mem (q : Pkg) (n : Nat) : (p.commitRegion q n).mem = q.mem := by
  unfold Pkg.commitRegion
  dsimp only
  split
  · split <;> rfl
  · split <;> rfl

/-- The wait-cycle counts that a commit restarts (R234). -/
def Pkg.countsAgain (p q : Pkg) : Pkg := (p.countsRestart q).foldl (fun (q : Pkg) c => q.restartCount c) q

/-- Another source of time begins again. -/
def Pkg.timeAgain (p q : Pkg) (e : Env) : Pkg := if p.timSrc = q.timSrc then q else { q with time := { q.time with heard := e.hall, begun := false } }

/-- Changed protection tables are measured (R611). -/
def Pkg.tablesMeasured (p q : Pkg) : Pkg :=
  if p.protTables = q.protTables then q else q.extend 3 (leBytes 48 (Config.tableDigest q.protTables).toNat)

theorem countsAgain_reg (q : Pkg) (k : Nat) : (p.countsAgain q).reg k = q.reg k := by
  refine foldl_reg _ _ k (fun q c _ => ?_) q
  rfl

theorem countsAgain_mem (q : Pkg) : (p.countsAgain q).mem = q.mem := by
  refine (keeps_foldl (g := Pkg.mem) (fun q c => ⟨?_⟩) ⟨rfl⟩).eq
  rfl

theorem timeAgain_reg (q : Pkg) (e : Env) (k : Nat) : (p.timeAgain q e).reg k = q.reg k := by
  unfold Pkg.timeAgain
  split <;> rfl

theorem timeAgain_mem (q : Pkg) (e : Env) : (p.timeAgain q e).mem = q.mem := by
  unfold Pkg.timeAgain
  split <;> rfl

theorem tablesMeasured_reg (q : Pkg) {k : Nat} (hk : plainReg k) : (p.tablesMeasured q).reg k = q.reg k := by
  unfold Pkg.tablesMeasured
  split
  · rfl
  · exact setMeasure_reg q (hk.2 3 (by decide)) _

theorem extend_mem (q : Pkg) (k : Nat) (digest : List Byte) : (q.extend k digest).mem = q.mem := by
  unfold Pkg.extend
  rw [← inner_mem, setMeasure_inner, inner_mem]

theorem tablesMeasured_mem (q : Pkg) : (p.tablesMeasured q).mem = q.mem := by
  unfold Pkg.tablesMeasured
  split
  · rfl
  · exact extend_mem ..

/-- The regions as a commit without key changes leaves them. -/
def Pkg.regionsAgain (p q : Pkg) : Pkg := (List.range 64).foldl (fun (q : Pkg) n => p.commitRegion q n) q

theorem regionsAgain_reg (q : Pkg) {k : Nat} (hk : plainReg k) : (p.regionsAgain q).reg k = q.reg k :=
  foldl_reg _ _ k (fun r n hn => commitRegion_reg p r (hk.1 n (List.mem_range.1 hn))) q

theorem regionsAgain_mem (q : Pkg) : (p.regionsAgain q).mem = q.mem :=
  (keeps_foldl (g := Pkg.mem) (fun r n => ⟨commitRegion_mem p r n⟩) ⟨rfl⟩).eq

variable {p}

/-- A commit: the shadows, then what follows from them. -/
theorem commitEffects_eq (e : Env) (k : CommitSt) : p.commitEffects e k = p.tablesMeasured (p.timeAgain
    (p.countsAgain (p.mgt.changes.foldl Pkg.applyChange (p.regionsAgain (k.shadows.foldl Pkg.applyStaged p)))) e) := rfl

theorem commitEffects_reg (hchanges : p.mgt.changes = []) (e : Env) (k : CommitSt) {j : Nat} (hj : plainReg j) :
    (p.commitEffects e k).reg j = (k.shadows.foldl Pkg.applyStaged p).reg j := by
  rw [commitEffects_eq, tablesMeasured_reg _ _ hj, timeAgain_reg, countsAgain_reg, hchanges, List.foldl_nil, regionsAgain_reg _ _ hj]

theorem commitEffects_mem (hchanges : p.mgt.changes = []) (e : Env) (k : CommitSt) :
    (p.commitEffects e k).mem = (k.shadows.foldl Pkg.applyStaged p).mem := by
  rw [commitEffects_eq, tablesMeasured_mem, timeAgain_mem, countsAgain_mem, hchanges, List.foldl_nil, regionsAgain_mem]

end

/-- The package once a commit is applied, before its undercoat is emptied. -/
def Pkg.commitLogged (p : Pkg) (k : CommitSt) (b : Nat) : Pkg :=
  (((p.event 6 30 0 4 1 (leBytes 4 k.gen ++ leBytes 8 b ++ leBytes 4 k.shadows.length)).mgtCount Reg.MGT_CNT_COMMIT 1).setNat Reg.MGT_UC_LAST_BEAT b).setNat
    Reg.MGT_UC_LAST_GEN k.gen

section
variable (p : Pkg) (k : CommitSt) (b : Nat)

theorem commitLogged_reg {j : Nat} (hj : j ∉ [Reg.MGT_CNT_COMMIT, Reg.MGT_UC_LAST_BEAT, Reg.MGT_UC_LAST_GEN]) : (p.commitLogged k b).reg j = p.reg j := by
  simp only [List.mem_cons, List.not_mem_nil, or_false, not_or] at hj
  obtain ⟨hcount, hbeat, hgen⟩ := hj
  unfold Pkg.commitLogged Pkg.mgtCount
  rw [setNat_reg_ne _ _ _ _ hgen, setNat_reg_ne _ _ _ _ hbeat, bump_reg _ _ _ _ _ _ hcount]
  exact event_reg p 6 30 0 4 1 _ j (fun h8 => absurd h8 (by decide)) (fun h4 => absurd h4 (by decide))

theorem commitLogged_byte (a : Nat) : (p.commitLogged k b).byte a = p.byte a := by
  unfold Pkg.commitLogged Pkg.mgtCount
  rw [setNat_byte, setNat_byte, bump_byte, event_byte]

theorem commitLogged_beat : (p.commitLogged k b).reg Reg.MGT_UC_LAST_BEAT = BitVec.ofNat 64 b := by
  unfold Pkg.commitLogged
  rw [setNat_reg_ne _ _ _ _ (by decide), setNat_eq, reg_setReg, if_pos rfl]

theorem commitLogged_gen : (p.commitLogged k b).reg Reg.MGT_UC_LAST_GEN = BitVec.ofNat 64 k.gen := by
  unfold Pkg.commitLogged
  rw [setNat_eq, reg_setReg, if_pos rfl]

/-- An undercoat that is emptied: its state, arm and generation change, and no other register. -/
theorem ucClear_reg {j : Nat} (hj : j ∉ [Reg.MGT_UC_STATUS, Reg.MGT_UC_ARM, Reg.MGT_UC_GEN]) : p.ucClear.reg j = p.reg j := by
  simp only [List.mem_cons, List.not_mem_nil, or_false, not_or] at hj
  obtain ⟨hstatus, harm, hgen⟩ := hj
  unfold Pkg.ucClear Pkg.nextGen
  rw [setNat_reg_ne _ _ _ _ hgen, setNat_reg_ne _ _ _ _ harm, setNat_reg_ne _ _ _ _ hstatus]
  rfl

theorem ucClear_state : p.ucClear.ucState = ucEmpty := by
  have hstatus : p.ucClear.reg Reg.MGT_UC_STATUS = 0 := by
    unfold Pkg.ucClear Pkg.nextGen
    rw [setNat_reg_ne _ _ _ _ (by decide), setNat_reg_ne _ _ _ _ (by decide), setNat_eq, reg_setReg, if_pos rfl]
    rfl
  exact (congrArg (fun w => getField w Fld.MGT_UC_STATE) hstatus).trans (by decide)

end

section
variable {p : Pkg} {e : Env} {k : CommitSt} {b : Nat}

theorem commitApply_none (h : p.mgt.commit = none) : commitApply e p = p := by
  unfold commitApply
  simp only [h]

theorem commitApply_unarmed (h : p.mgt.commit = some k) (harmed : k.armed = none) : commitApply e p = p := by
  unfold commitApply
  simp only [h, harmed]

/-- The package with a commit's shadows applied and logged, what the controllers had accepted done. -/
def Pkg.appliesCommit (p : Pkg) (e : Env) (k : CommitSt) (b : Nat) : Pkg :=
  ((countFold 32 (fun dev (q : Pkg) => q.settleDevice e dev) p).commitEffects e k).commitLogged k b

/-- The package that a commit leaves: its shadows applied and logged, and its undercoat emptied. -/
def Pkg.committed (p : Pkg) (e : Env) (k : CommitSt) (b : Nat) : Pkg :=
  ({ p.appliesCommit e k b with mgt := { (p.appliesCommit e k b).mgt with applied := k.shadows } } : Pkg).ucClear

theorem commitApply_armed (h : p.mgt.commit = some k) (harmed : k.armed = some b) : commitApply e p =
    if e.tag < b ∨ p.discardWaits b = true then p
    else p.committed e k b := by
  unfold commitApply
  simp only [h, harmed]
  rfl

end

theorem committed_reg (p : Pkg) (e : Env) (k : CommitSt) (b : Nat) {j : Nat} (hj : j ∉ [Reg.MGT_UC_STATUS, Reg.MGT_UC_ARM, Reg.MGT_UC_GEN]) :
    (p.committed e k b).reg j = (p.appliesCommit e k b).reg j :=
  ucClear_reg { p.appliesCommit e k b with mgt := { (p.appliesCommit e k b).mgt with applied := k.shadows } } hj

theorem committed_beat (p : Pkg) (e : Env) (k : CommitSt) (b : Nat) : (p.committed e k b).reg Reg.MGT_UC_LAST_BEAT = BitVec.ofNat 64 b :=
  (committed_reg p e k b (by decide)).trans (commitLogged_beat _ k b)

theorem committed_gen (p : Pkg) (e : Env) (k : CommitSt) (b : Nat) : (p.committed e k b).reg Reg.MGT_UC_LAST_GEN = BitVec.ofNat 64 k.gen :=
  (committed_reg p e k b (by decide)).trans (commitLogged_gen _ k b)

/-- The policy of the calibrations is a register of its own, found at its own offset. -/
theorem key_of_calPolicy {h : RegHit} (hfind : findReg Reg.MGT_CAL_POLICY = some h) : h.key = Reg.MGT_CAL_POLICY := by
  have hkey : (findReg Reg.MGT_CAL_POLICY).map RegHit.key = some Reg.MGT_CAL_POLICY := by decide +kernel
  rw [hfind] at hkey
  exact Option.some.inj hkey

theorem plainReg_calPolicy : plainReg Reg.MGT_CAL_POLICY := by
  unfold plainReg Reg.MGT_CAL_POLICY Reg.MEM_RG_ATTR Reg.SEC_MEAS
  exact ⟨fun n hn => by omega, fun j hj i hi => by omega⟩

/-! ### A register rewritten from its shadow (R568) -/

section
variable {p : Pkg} {x : Staged} {h : RegHit} (hfind : findReg x.off = some h)
include hfind

theorem applyStaged_eq : p.applyStaged x =
    p.setReg h.key ((p.reg h.key &&& ~~~stagedMask h x.pair) ||| (x.value &&& stagedMask h x.pair)) := by
  unfold Pkg.applyStaged
  simp only [hfind]

theorem applyStaged_reg_same : (p.applyStaged x).reg h.key = (p.reg h.key &&& ~~~stagedMask h x.pair) ||| (x.value &&& stagedMask h x.pair) := by
  rw [applyStaged_eq hfind, reg_setReg, if_pos rfl]

theorem applyStaged_reg_ne {j : Nat} (hj : j ≠ h.key) : (p.applyStaged x).reg j = p.reg j := by
  rw [applyStaged_eq hfind, reg_setReg, if_neg hj]

end

theorem applyStaged_byte (p : Pkg) (x : Staged) (a : Nat) : (p.applyStaged x).byte a = p.byte a := by
  unfold Pkg.applyStaged
  split <;> rfl

theorem applyStaged_mem (p : Pkg) (x : Staged) : (p.applyStaged x).mem = p.mem := by
  unfold Pkg.applyStaged
  split <;> rfl

/-- With no request accepted and no change of keys, a commit of one register touches no memory. -/
theorem committed_byte {p : Pkg} {k : CommitSt} {x : Staged} (hctl : p.stackCtl = []) (hchanges : p.mgt.changes = []) (hshadows : k.shadows = [x]) (e : Env)
    (b a : Nat) : (p.committed e k b).byte a = p.byte a := by
  have hlogged : (p.committed e k b).byte a = (p.appliesCommit e k b).byte a := rfl
  unfold Pkg.appliesCommit at hlogged
  rw [hlogged, commitLogged_byte, countFold_settleDevice hctl]
  refine byte_of_mem ?_ a
  rw [commitEffects_mem hchanges, hshadows]
  exact applyStaged_mem p x

/-- Such a commit of the calibrations' policy puts its shadow into effect. -/
theorem committed_calPolicy {p : Pkg} {k : CommitSt} {x : Staged} {h : RegHit} (hctl : p.stackCtl = []) (hchanges : p.mgt.changes = [])
    (hshadows : k.shadows = [x]) (hoff : x.off = Reg.MGT_CAL_POLICY) (hfind : findReg x.off = some h) (e : Env) (b : Nat) :
    (p.committed e k b).reg Reg.MGT_CAL_POLICY =
      (p.reg Reg.MGT_CAL_POLICY &&& ~~~stagedMask h x.pair) ||| (x.value &&& stagedMask h x.pair) := by
  have hkey := key_of_calPolicy (hoff ▸ hfind)
  have hsame := applyStaged_reg_same (p := p) hfind
  rw [hkey] at hsame
  rw [committed_reg p e k b (by decide)]
  unfold Pkg.appliesCommit
  rw [commitLogged_reg _ k b (by decide), countFold_settleDevice hctl, commitEffects_reg hchanges e k plainReg_calPolicy, hshadows]
  exact hsame

theorem shadowRewrite_none {p : Pkg} {off : Nat} (h : p.mgt.applied.find? (fun s => s.off == off) = none) (e : Env) : shadowRewrite off e p = p := by
  unfold shadowRewrite
  simp only [h]

theorem shadowRewrite_some {p : Pkg} {off : Nat} {x : Staged} (h : p.mgt.applied.find? (fun s => s.off == off) = some x) (e : Env) : shadowRewrite off e p =
    (p.applyStaged x).record 30 0 4 5 (leBytes 4 (p.regNat Reg.MGT_UC_LAST_GEN) ++ leBytes 8 (p.regNat Reg.MGT_UC_LAST_BEAT) ++
      leBytes 4 p.mgt.applied.length) := by
  unfold shadowRewrite
  simp only [h]

/-! ### Lapses (R558, R606) -/

theorem holdLapse_due {p : Pkg} {e : Env} (hheld : p.ucState = ucOpen ∨ p.ucState = ucChecked) (hcommit : p.mgt.commit = none)
    (hdue : p.ucSince + 300000000000 ≤ e.hall) : holdLapse e p = (p.ucRecord 4 (p.regNat Reg.MGT_UC_ARM)).ucClear :=
  (if_pos ⟨hheld, by simp [hcommit], hdue⟩).trans (if_neg (by rcases hheld with hopen | hchecked <;> simp [*]))

theorem holdLapse_early {p : Pkg} {e : Env} (hearly : e.hall < p.ucSince + 300000000000) : holdLapse e p = p :=
  if_neg (fun hall => Nat.not_le.2 hearly hall.2.2)

theorem proposalExpiry_some {p : Pkg} {i : Nat} {x : Proposal} (h : p.mgt.proposals[i]? = some x) (e : Env) : proposalExpiry i e p =
    if x.expiry < e.tag then
      ({ p with mgt := { p.mgt with proposals := p.mgt.proposals.filter (fun y => y.id ≠ x.id), expired := x.id :: p.mgt.expired } } : Pkg).protRecord 4 x
    else p := by
  unfold proposalExpiry
  simp only [h]

end Sys2Proof.Machine

namespace Sys2Proof.Machine

/-! ### Sensors (R541) -/

/-- The complex's readings once sensor `i` reads `v` and PWR_48V `vin`. -/
def Pkg.reads (p : Pkg) (g : Mgt) (vin : Nat) : Pkg :=
  ({ p with mgt := { g with vinLow := if g.vinLow = 0 then vin else min g.vinLow vin } } : Pkg).setFld Reg.PWR_MEAS Fld.PWR_VIN_MV (min vin 0xffff)

/-- The hottest sensor, as shown. -/
def Pkg.showsHottest (p : Pkg) (i : Nat) (v : Int) : Pkg :=
  let q := (p.setFld Reg.PWR_TJ Fld.PWR_TJ_SENSOR i).setFld Reg.PWR_TJ Fld.PWR_TJ_MAX (ofSigned 16 v)
  { q with pwr := { q.pwr with hottest := v, trip := q.pwr.trip && !(q.pwr.porst && v < 970) } }

theorem sensorSample_nil (p : Pkg) (e : Env) (vin : Nat) : sensorSample [] [] [] vin e p = p.reads p.mgt vin := rfl

theorem sensorSample_one (p : Pkg) (e : Env) {i : Nat} (hi : i < 256) (v : Int) (vin : Nat) :
    sensorSample [(i, v)] [] [] vin e p = (p.reads (p.mgt.sensed i v) vin).showsHottest i v := by
  have hone : [(i, v)].filter (fun x => x.1 < 256) = [(i, v)] := List.filter_cons_of_pos (decide_eq_true hi)
  unfold sensorSample
  rw [hone]
  rfl

theorem ofSigned_lt (z : Int) : ofSigned 16 z < 65536 := by
  unfold ofSigned
  omega

section
variable (p : Pkg) (g : Mgt) (vin i : Nat) (v : Int)

theorem reads_vin : (p.reads g vin).fld Reg.PWR_MEAS Fld.PWR_VIN_MV = min vin 65535 :=
  (fld_setFld { p with mgt := { g with vinLow := if g.vinLow = 0 then vin else min g.vinLow vin } } Reg.PWR_MEAS Fld.PWR_VIN_MV (min vin 0xffff)
    (by decide)).trans (Nat.mod_eq_of_lt (Nat.lt_of_le_of_lt (Nat.min_le_right ..) (by decide)))

theorem reads_reg {k : Nat} (hk : k ≠ Reg.PWR_MEAS) : (p.reads g vin).reg k = p.reg k := setFld_reg_ne _ _ _ _ _ hk

theorem showsHottest_sensor (hi : i < 256) : (p.showsHottest i v).fld Reg.PWR_TJ Fld.PWR_TJ_SENSOR = i :=
  (fld_setFld_ne (p.setFld Reg.PWR_TJ Fld.PWR_TJ_SENSOR i) Reg.PWR_TJ Fld.PWR_TJ_MAX Fld.PWR_TJ_SENSOR _ (by decide) (by decide)).trans
    ((fld_setFld p Reg.PWR_TJ Fld.PWR_TJ_SENSOR i (by decide)).trans (Nat.mod_eq_of_lt hi))

theorem showsHottest_max : (p.showsHottest i v).fld Reg.PWR_TJ Fld.PWR_TJ_MAX = ofSigned 16 v :=
  (fld_setFld (p.setFld Reg.PWR_TJ Fld.PWR_TJ_SENSOR i) Reg.PWR_TJ Fld.PWR_TJ_MAX (ofSigned 16 v) (by decide)).trans (Nat.mod_eq_of_lt (ofSigned_lt v))

theorem showsHottest_reg {k : Nat} (hk : k ≠ Reg.PWR_TJ) : (p.showsHottest i v).reg k = p.reg k :=
  (setFld_reg_ne _ _ _ _ _ hk).trans (setFld_reg_ne _ _ _ _ _ hk)

end

/-! ### Restarts (R543, R576, R577) -/

/-- The package as a restart on a slot begins: counted, recorded, and the slot to boot. -/
def Pkg.beginsRestart (p : Pkg) (e : Env) (i : Nat) : Pkg :=
  let q := ((p.setFld Reg.MGT_STATUS Fld.MGT_STATE 2).mgtCount Reg.MGT_CNT_RESTART 1).fwRecord 3 i
  { q with mgt := { q.mgt with boot := i, tries := 0, since := e.hall } }

section
variable (p : Pkg) (e : Env) (i : Nat)

theorem restart_eq : p.restart e i =
    if (p.beginsRestart e i).ucState = ucArmed then p.beginsRestart e i
    else (if (p.beginsRestart e i).mgt.commit.isSome then (p.beginsRestart e i).mgtCount Reg.MGT_CNT_CANCEL 1 else p.beginsRestart e i).ucDiscard 3 := rfl

theorem beginsRestart_state : (p.beginsRestart e i).fld Reg.MGT_STATUS Fld.MGT_STATE = 2 := by
  have hreg : (p.beginsRestart e i).reg Reg.MGT_STATUS = (p.setFld Reg.MGT_STATUS Fld.MGT_STATE 2).reg Reg.MGT_STATUS :=
    bump_reg _ _ _ _ _ _ (by decide)
  rw [fld_eq, hreg, ← fld_eq, fld_setFld _ _ _ _ (by decide)]
  rfl

theorem beginsRestart_byte (a : Nat) : (p.beginsRestart e i).byte a = p.byte a :=
  bump_byte (p.setFld Reg.MGT_STATUS Fld.MGT_STATE 2) Reg.MGT_CTRL Fld.MGT_CNT_FREEZE Reg.MGT_CNT_RESTART 1 a

/-- What a discard of the undercoat leaves: the complex's status, the slot to boot, and memory. -/
def Pkg.bootView (p : Pkg) : W64 × Nat × List (Nat × Byte) := (p.reg Reg.MGT_STATUS, p.mgt.boot, p.mem)

theorem mgtCount_bootView {k : Nat} (hk : Reg.MGT_STATUS ≠ k) (n : Nat) : (p.mgtCount k n).bootView = p.bootView := by
  have hinner := congrArg (fun q : Pkg => (q.mgt.boot, q.mem)) (bump_inner (p := p) Reg.MGT_CTRL Fld.MGT_CNT_FREEZE k n)
  exact Prod.ext (bump_reg p Reg.MGT_CTRL Fld.MGT_CNT_FREEZE k n _ hk) hinner

theorem ucDiscard_bootView (detail : Nat) : (p.ucDiscard detail).bootView = p.bootView := by
  unfold Pkg.ucDiscard
  split
  · rfl
  · exact Prod.ext (ucClear_reg (p.ucRecord detail (p.regNat Reg.MGT_UC_ARM)) (by decide)) rfl

theorem restart_bootView : (p.restart e i).bootView = (p.beginsRestart e i).bootView := by
  rw [restart_eq]
  split
  · rfl
  · rw [ucDiscard_bootView]
    split
    · exact mgtCount_bootView _ (by decide) 1
    · rfl

theorem restart_state : (p.restart e i).fld Reg.MGT_STATUS Fld.MGT_STATE = 2 := by
  have hreg : (p.restart e i).reg Reg.MGT_STATUS = (p.beginsRestart e i).reg Reg.MGT_STATUS := congrArg Prod.fst (restart_bootView p e i)
  rw [fld_eq, hreg, ← fld_eq, beginsRestart_state]

theorem restart_boot : (p.restart e i).mgt.boot = i := congrArg (fun v => v.2.1) (restart_bootView p e i)

theorem restart_byte (a : Nat) : (p.restart e i).byte a = p.byte a :=
  (byte_of_mem (congrArg (fun v => v.2.2) (restart_bootView p e i)) a).trans (beginsRestart_byte p e i a)

end

/-- A running complex neither restarts nor has yet to boot. -/
theorem state_of_up {p : Pkg} (h : p.complexUp = true) :
    p.fld Reg.MGT_STATUS Fld.MGT_STATE ≠ 2 ∧ p.fld Reg.MGT_STATUS Fld.MGT_STATE ≠ 0 := by
  unfold Pkg.complexUp at h
  rw [Bool.or_eq_true_iff, beq_iff_eq, beq_iff_eq] at h
  omega

section
variable {p : Pkg} {e : Env}

theorem complexRestartEnd_up (h : p.complexUp = true) : complexRestartEnd e p = p := if_neg (state_of_up h).1

theorem bootAttemptTimeout_up (h : p.complexUp = true) : bootAttemptTimeout e p = p := by
  obtain ⟨hne2, hne0⟩ := state_of_up h
  exact if_neg (by simp [hne2, hne0])

theorem bootSlot_fallback {i n : Nat} (hown : p.bootable i = false) (hother : p.bootable (1 - i) = true) (hn : n < 6) :
    p.bootSlot i n = (p.runOn (1 - i) 3).fwRecord 4 (1 - i) :=
  (if_neg (by simp [hown])).trans (if_pos (by simp [hother, hn]))

variable (hstate : p.fld Reg.MGT_STATUS Fld.MGT_STATE = 2)
include hstate

theorem complexRestartEnd_boots {q : Pkg} (hboot : p.bootSlot p.mgt.boot 0 = q) (hup : q.complexUp = true) :
    complexRestartEnd e p = q.measureBoot.answerRestarted e := by
  subst hboot
  exact (if_pos hstate).trans (if_pos hup)

variable (hpower : p.mgt.power = true) (hdue : p.mgt.since + 2000000000 ≤ e.hall)
include hpower hdue

theorem bootAttemptTimeout_tries (htries : p.mgt.tries < 2) :
    bootAttemptTimeout e p = { p with mgt := { p.mgt with tries := p.mgt.tries + 1, since := e.hall } } :=
  (if_pos (by simp [hstate, hpower, hdue])).trans (if_pos (show p.mgt.tries + 1 < 3 by omega))

theorem bootAttemptTimeout_falls (htries : 2 ≤ p.mgt.tries) (hother : p.bootable (1 - p.mgt.boot) = true) : bootAttemptTimeout e p =
    (((({ p with mgt := { p.mgt with tries := p.mgt.tries + 1, since := e.hall } } : Pkg).runOn (1 - p.mgt.boot) 3).fwRecord 4
      (1 - p.mgt.boot)).measureBoot).answerRestarted e :=
  (if_pos (by simp [hstate, hpower, hdue])).trans ((if_neg (show ¬ p.mgt.tries + 1 < 3 by omega)).trans (if_pos hother))

end

/-- Without drops the buffer's oldest entries move to MRAM, and nothing is added (R571). -/
theorem drain_of_none_dropped {l : LogSt} (h : l.dropped = 0) (n beat : Nat) : l.drain n beat = { l.toRing (l.buf.take n) with buf := l.buf.drop n } :=
  if_neg (fun hall => hall.1 h)

end Sys2Proof.Machine

namespace Sys2Proof

open Machine

/-- Settles O58: each event acts on what it names, at its time, and on nothing else. -/
theorem managementEvents : Obligations.ManagementEvents := by
  unfold Obligations.ManagementEvents
  intro s hup p e
  refine ⟨fun m x => ?longEnd, fun m tag area => ?datagram, fun hclosed => ?noCommit, fun k c hopen hbox => ?acknowledge, fun hwork => ?apply,
    fun off => ?rewrite, fun hheld hcommit => ?hold, fun n x hx => ?expiry, fun n hdropped => ?drain, fun vin => ?supply, fun i v vin => ?sensor,
    ?lockstep, ?restartEnd, ?timeout, fun u hstate hown hother => ?fallback, fun u hstate hboot => ?boots, fun u hstate hpower hdue => ?tries⟩
  case longEnd =>
    have hrow {q : Pkg} (h : longCommandEnd m x e p = q) : Becomes (.longCommandEnd m x) s q := becomes_mgmt rfl hup h
    refine ⟨fun hnone => hrow (longCommandEnd_none hnone), fun k hk hwaits => hrow (longCommandEnd_waiting hk hwaits), fun k hk hrun => ?_⟩
    have hend : Becomes (.longCommandEnd m x) s (p.endsLong e m k x) := hrow (longCommandEnd_running hk hrun)
    unfold Pkg.endsLong at hend
    refine ⟨fun hop hheld harmed hclash => ?_, fun hop hempty => ?_, fun hop hx hdue => ?_, fun hop hx hearly => ?_, fun hop hx => ?_, fun hop => ?_,
      fun hop => ?_, fun hop => ?_, fun hop => ?_⟩
    all_goals simp only [hop] at hend
    · have hchecked := hend.of_eq (stageCheckEnd_passes hheld harmed hclash)
      have hans := mbAnswer_answers (p.setFld Reg.MGT_UC_STATUS Fld.MGT_UC_STATE ucChecked) e m.isLt k resDone 0 (leBytes 4 (p.regNat Reg.MGT_UC_GEN))
      exact ⟨hchecked, hchecked.answers ⟨(hans.ucState m.isLt).trans (fld_setFld _ _ _ _ (by decide)), hans.result, hans.gone, hans.byte, lift_keeps s _⟩⟩
    · exact hend.of_eq (stageCheckEnd_empty hempty)
    · subst hx
      exact hend.of_eq (pairSetEnd_timeout hdue)
    · subst hx
      exact hend.of_eq (pairSetEnd_waits hearly)
    · subst hx
      exact hend
    · exact hend
    · exact hend
    · exact hend
    · exact hend
  case datagram =>
    intro bound mine last
    have hbec {q : Pkg} (h : oobDatagram m tag area e p = q) : Becomes (.oobDuplicateDatagram m tag area) s q := becomes_any rfl h
    refine ⟨fun hbound hmine => hbec (oobDatagram_mine hbound hmine), fun hbound hmine hlast => ?_, fun hbound hmine hlast hidle => ?_, fun hbound => ?_⟩
    · exact (hbec (oobDatagram_last hbound hmine hlast)).answers ⟨rfl, fun _ _ => rfl, fun _ => rfl, lift_keeps s _⟩
    · obtain ⟨hbyte, hmbox⟩ := oobDatagram_puts (e := e) (area := area) hbound hmine hlast hidle
      exact (hbec rfl).answers ⟨hbyte, lift_keeps s _, hmbox⟩
    · exact (hbec (oobDatagram_unbound hbound)).answers ⟨oobRejected_on p m tag m.isLt, oobRejected_mbox p m tag, fun k hk => oobRejected_reg p m tag hk,
        oobRejected_byte p m tag, lift_keeps s _⟩
  case noCommit =>
    exact ⟨fun i => becomes_mgmt rfl hup (islandAcknowledge_none hclosed i), becomes_mgmt rfl hup (commitAckTimeout_none hclosed)⟩
  case acknowledge =>
    have hisland (i : Fin 18) {q : Pkg} (h : islandAcknowledge i e p = q) : Becomes (.islandAcknowledge i) s q := becomes_mgmt rfl hup h
    have htimeout : Becomes .commitAckTimeout s _ := becomes_mgmt rfl hup (commitAckTimeout_open hopen)
    refine ⟨fun hlate => ⟨fun i => hisland i (islandAcknowledge_ignored hopen (.inl hlate)), htimeout.of_eq (if_pos hlate)⟩,
      fun hdue => ⟨htimeout.of_eq (if_neg (Nat.not_lt.2 hdue)), fun i hin => hisland i (islandAcknowledge_ignored hopen (.inr hin)),
        fun i hnew hfew => ?_, fun i hnew hlast hchecked hgen => ?_⟩⟩
    · exact (hisland i (islandAcknowledge_counts hopen hdue hnew hfew)).answers ⟨rfl, fun _ _ => rfl, fun _ => rfl, lift_keeps s _⟩
    · have hans := mbAnswer_answers (p.armsCommit e k i) e hbox c resDone 0 (leBytes 8 (if k.named = 0 then e.tag + 2 else k.named) ++ leBytes 4 k.gen)
      have hcommit := congrArg (fun q : Pkg => q.mgt.commit.map (fun (x : CommitSt) => x.armed)) hans.rest
      exact (hisland i (islandAcknowledge_arms hopen hdue hnew hlast hchecked hgen)).answers ⟨hcommit,
        (hans.regs _ (not_mem_answerRegs (by decide) hbox)).trans (armsCommit_arm p e k i), (hans.ucState hbox).trans (armsCommit_state p e k i), hans.result,
        hans.byte, lift_keeps s _⟩
  case apply =>
    have hbec {q : Pkg} (h : commitApply e p = q) : Becomes .commitApply s q := becomes_work rfl hwork h
    refine ⟨fun hnone => hbec (commitApply_none hnone), fun k hk harmed => hbec (commitApply_unarmed hk harmed), fun k b hk harmed => ?_⟩
    have happly := hbec (commitApply_armed hk harmed)
    have hdone (hdue : b ≤ e.tag) (hwaits : p.discardWaits b = false) :=
      happly.of_eq (if_neg (fun hno => hno.elim (Nat.not_lt.2 hdue) (fun hw => Bool.false_ne_true (hwaits.symm.trans hw))))
    exact ⟨fun hno => happly.of_eq (if_pos hno), fun hdue hwaits => ⟨hdone hdue hwaits, (hdone hdue hwaits).answers
      ⟨ucClear_state _, rfl, rfl, rfl, committed_beat p e k b, committed_gen p e k b⟩⟩, fun x h hdue hwaits hctl hchanges hshadows hoff hfind =>
      (hdone hdue hwaits).answers ⟨committed_byte hctl hchanges hshadows e b, committed_calPolicy hctl hchanges hshadows hoff hfind e b⟩⟩
  case rewrite =>
    intro x
    have hbec {q : Pkg} (h : shadowRewrite off e p = q) : Becomes (.shadowRewrite off) s q := becomes_mgmt rfl hup h
    refine ⟨fun hnone => hbec (shadowRewrite_none hnone e), fun y hy => (hbec (shadowRewrite_some hy e)).answers
      ⟨fun _ => rfl, applyStaged_byte p y, lift_keeps s _⟩, fun y h hy hfind => (hbec (shadowRewrite_some hy e)).answers ?_⟩
    have happlied : p.mgt.applied.find? (fun y => y.off == off) = some y := hy
    have hoff : y.off = off := by simpa using List.find?_some happlied
    subst hoff
    exact ⟨applyStaged_reg_same hfind, fun k hk => applyStaged_reg_ne hfind (by simpa using hk), applyStaged_byte p y, lift_keeps s _⟩
  case hold =>
    exact ⟨fun hdue => becomes_mgmt rfl hup (holdLapse_due hheld hcommit hdue), fun hearly => becomes_mgmt rfl hup (holdLapse_early hearly)⟩
  case expiry =>
    have hbec : Becomes (.proposalExpiry n) s _ := becomes_mgmt rfl hup (proposalExpiry_some hx e)
    refine ⟨fun hearly => hbec.of_eq (if_neg (Nat.not_lt.2 hearly)), fun hdue => (hbec.of_eq (if_pos hdue)).answers
      ⟨rfl, List.mem_cons_self .., fun _ _ => rfl, fun _ => rfl, lift_keeps s _, logs_of_raised rfl⟩⟩
  case drain =>
    refine ⟨_, congrArg Host.Outcome.next (if_pos hup), ?_⟩
    rw [drain_of_none_dropped hdropped]
    exact ⟨rfl, rfl, fun x hx => List.mem_append_right _ hx, rfl, rfl, rfl⟩
  case supply =>
    have hbec : Becomes (.sensorSample [] [] [] vin) s (p.reads p.mgt vin) := becomes_mgmt rfl hup rfl
    exact hbec.answers ⟨reads_vin p p.mgt vin, rfl, fun k hk => reads_reg p p.mgt vin (by simpa using hk), fun _ => rfl, lift_keeps s _⟩
  case sensor =>
    have hbec : Becomes (.sensorSample [(i.val, v)] [] [] vin) s _ := becomes_mgmt rfl hup (sensorSample_one p e i.isLt v vin)
    refine hbec.answers ⟨showsHottest_sensor _ i v i.isLt, showsHottest_max _ i v, rfl, fun k hk => ?_, fun _ => rfl, lift_keeps s _⟩
    simp only [List.mem_cons, List.not_mem_nil, or_false, not_or] at hk
    exact (showsHottest_reg _ i v hk.2).trans (reads_reg p _ vin hk.1)
  case lockstep =>
    have hbec : Becomes .lockstepMismatch s ((p.fwRecord 5 p.slotRun).restart e p.slotRun) := becomes_mgmt rfl hup rfl
    exact hbec.answers ⟨restart_state .., restart_boot .., restart_byte (p.fwRecord 5 p.slotRun) e p.slotRun, lift_keeps s _⟩
  case restartEnd => exact becomes_any rfl (complexRestartEnd_up hup)
  case timeout => exact becomes_any rfl (bootAttemptTimeout_up hup)
  case fallback =>
    exact becomes_any rfl (complexRestartEnd_boots hstate (bootSlot_fallback hown hother (by decide)) (fwRecord_up (runOn_up _ _ (.inr rfl)) ..))
  case boots => exact becomes_any rfl (complexRestartEnd_boots hstate (bootSlot_own hboot (by decide)) (runOn_up _ _ (.inl rfl)))
  case tries =>
    intro other
    refine ⟨fun htries => ?_, fun htries hother => becomes_any rfl (bootAttemptTimeout_falls hstate hpower hdue htries hother)⟩
    have hbec : Becomes .bootAttemptTimeout u _ := becomes_any rfl (bootAttemptTimeout_tries hstate hpower hdue htries)
    exact hbec.answers ⟨rfl, rfl, fun _ _ => rfl, fun _ => rfl, lift_keeps u _⟩

end Sys2Proof
